-- ==== Sys2Proof/Word.lean ====
section
/-!
DEFINITION. The word types of the RHW-384 and their plainest arithmetic (spec/00_scope.md R5, spec/01_machine.md R16).
-/

namespace Sys2Proof

/-- One byte (R5). -/
abbrev Byte := BitVec 8
/-- A g register (R16). -/
abbrev Word := BitVec 32
/-- An a register, a control register, a tick count (R16, R24). -/
abbrev Quad := BitVec 64
/-- A vector register or one bank row (R16). -/
abbrev Vec := BitVec 512
/-- A lane mask, one bit per 32-bit lane (R16). -/
abbrev Mask := BitVec 16

/-- A value with its poison marks, one mark per granule (spec/13 R343). -/
structure Marked (n m : Nat) where
  val : BitVec n
  psn : BitVec m
  deriving DecidableEq, Repr

/-- A g register with its mark. -/
abbrev MWord := Marked 32 1
/-- An a register with its mark. -/
abbrev MQuad := Marked 64 1
/-- A k register with its mark. -/
abbrev MMask := Marked 16 1
/-- A v register or a bank row with its eight marks. -/
abbrev MVec := Marked 512 8

/-- A clean value. -/
def Marked.clean {n m : Nat} (v : BitVec n) : Marked n m := ⟨v, 0⟩

/-- A table of `2 ^ k` like things, indexed by a bit vector. -/
abbrev Tab (k : Nat) (α : Type) := Vector α (2 ^ k)

/-- The entry of a table at an index. -/
def Tab.at {k : Nat} {α : Type} (t : Tab k α) (i : BitVec k) : α := t[i.toNat]'i.isLt

/-- The table with one entry replaced. -/
def Tab.put {k : Nat} {α : Type} (t : Tab k α) (i : BitVec k) (x : α) : Tab k α := t.set i.toNat x i.isLt

/-- The table that holds `x` everywhere. -/
def Tab.all (k : Nat) {α : Type} (x : α) : Tab k α := Vector.replicate (2 ^ k) x

end Sys2Proof
end

