-- ==== Sys2Proof/Syntax.lean ====
section
/-!
DEFINITION. The instructions of the RHW-384: one constructor per row of spec/opcode_table.json, the syllable forms of
spec/02 R68 to R73 first and the events of the part after them, with the types of their operands.
-/

namespace Sys2Proof

/-! ## Names -/

/-- The eight slot classes, in header-bit order (R41). -/
inductive SlotClass where
  | s0 | s1 | v0 | v1 | m | x | e | c
  deriving DecidableEq, Repr

/-- The two scalar slots (R46). -/
inductive SSlot where
  | s0 | s1
  deriving DecidableEq, Repr

/-- The two vector slots (R46). -/
inductive VSlot where
  | v0 | v1
  deriving DecidableEq, Repr

/-- The eight bypass latches, numbered by R48. -/
inductive Latch where
  | sa | sb | va | vb | ld | cv | mx | xf
  deriving DecidableEq, Repr

/-- A source field: a register of the form's file, or a latch (R48). `n` is 6 for the g and v files, 4 for a and k. -/
inductive Src (n : Nat) where
  | reg (i : BitVec n)
  | latch (l : Latch)
  deriving DecidableEq, Repr

/-- A destination: a register, or write-back suppressed (R51). -/
inductive Dst (n : Nat) where
  | reg (i : BitVec n)
  | none
  deriving DecidableEq, Repr

/-- A guard: the index of a k register (R55). -/
abbrev Guard := BitVec 4

/-- Element sizes of column, gather and scalar accesses (R66, R70). -/
inductive Size where
  | b | h | w
  deriving DecidableEq, Repr

/-- Orientation of a bank access (R204). -/
inductive Orient where
  | row
  | col (e : Size)
  deriving DecidableEq, Repr

/-- Precision of an 8-bit family format (R142). -/
inductive Prec where
  | p1 | p2 | p3 | p4 | p5 | p6 | p7
  deriving DecidableEq, Repr

/-- An 8-bit family format: unsigned (`m8`) or signed (`f8`), extended (`x`) or finite-only (R142, R143). -/
structure Fam where
  uns : Bool
  ext : Bool
  p : Prec
  deriving DecidableEq, Repr

/-- The integer formats (R141). -/
structure ITy where
  signed : Bool
  size : Size
  deriving DecidableEq, Repr

/-- The 32- and 16-bit floating formats (R140). -/
inductive FTy where
  | fp32 | bf16 | fp16
  deriving DecidableEq, Repr

/-- The element types of `dot2` (R69). -/
inductive HTy where
  | bf16 | fp16
  deriving DecidableEq, Repr

/-- The two formats that `qblk` reads and `dqblk` writes (R160). -/
inductive BTy where
  | fp32 | bf16
  deriving DecidableEq, Repr

/-- Every assigned format code (R61). -/
inductive Fmt where
  | flt (t : FTy)
  | int (t : ITy)
  | fam (t : Fam)
  deriving DecidableEq, Repr

/-- Rounding modes (R62). -/
inductive Rnd where
  | rne | rtz | rup | rdn | rna | sto8 | sto16
  deriving DecidableEq, Repr

/-- Scopes (R63). -/
inductive Scope where
  | core | tile | field | claim | wafer | store | host | fleet
  deriving DecidableEq, Repr

/-- Control registers (R349). -/
inductive CReg where
  | tick | rebase | coord | stage | part | hop | wheel | rq | heapBase | heapLimit | heapOff | weight | span
  | fault | fdata | epc | etgt | tvec | escr | dbg | lag | collide | drift | wclk | cyc
  deriving DecidableEq, Repr

/-- The context registers that a strand writes and reads (R299). -/
inductive CtxReg where
  | far | len | cmd | loc | tag | tick | pitch | flag | fval | tcount
  deriving DecidableEq, Repr

/-- The status registers of a context (R299). -/
inductive CtxStat where
  | state | issued | active | bind
  deriving DecidableEq, Repr

/-- What `stg.rd` names. -/
inductive CtxName where
  | reg (r : CtxReg)
  | stat (r : CtxStat)
  deriving DecidableEq, Repr

/-! ## Operands of the layouts (R47, R58 to R67) -/

/-- S class, layout G with two sources. -/
structure SG3 (dn an bn : Nat) where
  sl : SSlot
  d : Dst dn
  a : Src an
  b : Src bn
  g : Guard
  deriving DecidableEq, Repr

/-- S class, layout G with one source. -/
structure SG2 (dn an : Nat) where
  sl : SSlot
  d : Dst dn
  a : Src an
  g : Guard
  deriving DecidableEq, Repr

/-- S class, layout I. -/
structure SI (n : Nat) where
  sl : SSlot
  d : Dst n
  a : Src n
  imm : BitVec 18
  deriving DecidableEq, Repr

/-- S class, layout I with a shift count (R58). -/
structure SSh where
  sl : SSlot
  d : Dst 6
  a : Src 6
  n : BitVec 5
  deriving DecidableEq, Repr

/-- S class, layout I with a bit field: position and width less one (R58). -/
structure SBf where
  sl : SSlot
  d : Dst 6
  a : Src 6
  pos : BitVec 5
  wid : BitVec 5
  deriving DecidableEq, Repr

/-- V class with two sources and an element type. -/
structure VG3 (dn an bn : Nat) (T : Type) where
  sl : VSlot
  d : Dst dn
  a : Src an
  b : Src bn
  g : Guard
  ty : T
  deriving DecidableEq, Repr

/-- V class with one source. -/
structure VG2 (dn an : Nat) (T : Type) where
  sl : VSlot
  d : Dst dn
  a : Src an
  g : Guard
  ty : T
  deriving DecidableEq, Repr

/-- V class forms that read D (R52): `w` suppresses the write, `d` names the register read. -/
structure VG4 (an bn : Nat) (T : Type) where
  sl : VSlot
  w : Bool
  d : BitVec 6
  a : Src an
  b : Src bn
  g : Guard
  ty : T
  deriving DecidableEq, Repr

/-- Layout A with a destination (R64). -/
structure MA (n : Nat) where
  d : Dst n
  base : BitVec 4
  ofs : BitVec 10
  g : Guard
  deriving DecidableEq, Repr

/-- Layout A whose D supplies data (R52, R70). -/
structure MS (n : Nat) where
  d : BitVec n
  base : BitVec 4
  ofs : BitVec 10
  g : Guard
  deriving DecidableEq, Repr

/-- Layout MX with a destination. -/
structure MX (n : Nat) where
  d : Dst n
  base : BitVec 4
  sx : Src 6
  g : Guard
  deriving DecidableEq, Repr

/-- Layout MX whose D supplies data. -/
structure MXS where
  d : BitVec 6
  base : BitVec 4
  sx : Src 6
  g : Guard
  deriving DecidableEq, Repr

/-- Layout XF (R65): destination, source, formats, rounding, saturate. -/
structure XF (dn an : Nat) (T F : Type) where
  d : Dst dn
  a : Src an
  tf : T
  ff : F
  rnd : Rnd
  sat : Bool
  deriving DecidableEq, Repr

/-- Fields of a `blend`, `bgive` and the like: the strand's own slot and the guard. -/
structure XB where
  s : BitVec 6
  g : Guard
  deriving DecidableEq, Repr

/-- Layout ES (R66). -/
structure ES where
  slot : BitVec 8
  base : BitVec 4
  ofs : BitVec 9
  nr : BitVec 6
  deriving DecidableEq, Repr

/-! ## Names of strands, tiles, contexts -/

/-- A tile, by the field number of its claim and its coordinates relative to the claim (R12, R367). -/
structure TileId where
  claim : Nat
  x : Nat
  y : Nat
  deriving DecidableEq, Repr

/-- A strand: a core of a tile (R15). -/
structure StrandId where
  tile : TileId
  core : BitVec 2
  deriving DecidableEq, Repr

/-- The strand that the focus names when no syllable runs (notes/assumptions/3.md). -/
def StrandId.first : StrandId := ⟨⟨0, 0, 0⟩, 0⟩

/-- An engine context: engine and context number (R298). -/
structure CtxId where
  engine : Nat
  ctx : Nat
  deriving DecidableEq, Repr

/-- The four sides of a tile (R269). -/
inductive Side where
  | north | east | south | west
  deriving DecidableEq, Repr

/-- An embedded controller with its own firmware (R367). -/
inductive Controller where
  | curator
  | engine (e : Nat)
  | docent (f : Nat)
  deriving DecidableEq, Repr

/-- A flit: 256 data bits and the sideband of R255. Two facts have no field in R255 (notes/assumptions/7.md): `slot` is the
operand slot that an array row is sent from, since its deposit goes to the slot of the same number; `origin` is the command
of a staging flit, with the flit's place in it, since its bytes go to that command's deposit or far row (R305, R307). Nor
has it one for what makes two flits of an array partners (R276): `pair` is the sending tile, its send and the row. -/
structure Flit where
  data : BitVec 256
  lt : BitVec 16
  land : Bool
  half : Bool
  fmt : BitVec 6
  psn : BitVec 4
  lost : Bool
  nul : Bool
  kind : BitVec 2
  tag : BitVec 12
  label : BitVec 16
  slot : BitVec 8
  origin : Option (CtxId × Nat × Nat)
  pair : Option (TileId × Nat × Nat)
  deriving DecidableEq, Repr

/-- The six argument registers of the diagnostic mailbox (R366). -/
structure MbArgs where
  a0 : BitVec 64
  a1 : BitVec 64
  a2 : BitVec 64
  a3 : BitVec 64
  a4 : BitVec 64
  a5 : BitVec 64
  deriving DecidableEq, Repr

def MbArgs.zero : MbArgs := ⟨0, 0, 0, 0, 0, 0⟩

/-! ## What the delayed effects carry -/

/-- A register write that lands (R51, R54, R55). `en` holds the enabled lanes, or the enabled bits of a k register. -/
inductive RegWrite where
  | g (d : BitVec 6) (v : MWord)
  | a (d : BitVec 4) (v : MQuad)
  | k (d : BitVec 4) (v : MMask) (en : Mask)
  | v (d : BitVec 6) (v : MVec) (en : Mask)
  deriving DecidableEq, Repr

/-- A change of the stream state of a bank (R190 to R192). -/
inductive StreamChange where
  | push (n : Nat)
  | pop
  | reset
  deriving DecidableEq, Repr

/-- The kinds of ordered reduction (R334). -/
inductive RedKind where
  | f32 | s32
  deriving DecidableEq, Repr

/-- An entry of the reorder buffer (R334). -/
structure RedEntry where
  idx : BitVec 32
  core : BitVec 2
  iss : Nat
  bank : BitVec 6
  row : Nat
  data : MVec
  en : Mask
  kind : RedKind
  deriving DecidableEq, Repr

/-- What an issued operation does at its exposed latency (R97): results into registers and the unit's latch, or
another state of the strand, its tile or its context. -/
inductive Landing where
  | result (regs : List RegWrite) (latch : Option (Latch × MVec))
  | shape (i : BitVec 2) (v : MVec)
  | creg (r : CReg) (v : BitVec 64)
  | seed (key : BitVec 64)
  | stream (bank : BitVec 6) (c : StreamChange)
  | aliasTag (i : BitVec 4) (tag : BitVec 12)
  | post (tag : BitVec 12) (due : Nat)
  | claimSlot (s : Nat)
  | freeSlot (s : Nat)
  | zeroTile (s : Nat)
  | ctxReg (c : BitVec 8) (r : CtxReg) (v : BitVec 64)
  | ctxGo (c : BitVec 8)
  | redEntry (e : RedEntry)
  | hold (q : Nat)
  | leave
  deriving DecidableEq, Repr

/-- One byte of a bank write: its offset in the bank, the byte, and whether its granule is poisoned (R343). -/
structure BankByte where
  off : Nat
  val : Byte
  psn : Bool
  deriving DecidableEq, Repr

/-- What a write access commits (R206): bytes, or a row of zeros of `bzero`. `counted` are the rows of a block that the array
wrote back before a stop: at the block's own tick the trackers count them, and nothing is written again (R250, R308). -/
inductive BankData where
  | bytes (l : List BankByte)
  | zeroRow (row : Nat)
  | counted (rows : List Nat)
  deriving DecidableEq, Repr

/-- A pending change of the bank maps of one tile (R216 to R220, R225). -/
inductive MapChange where
  | give (fromCore : BitVec 2) (fromSlot : BitVec 6) (toCore : BitVec 2) (toSlot : BitVec 6) (bank : BitVec 6)
  | lend (core : BitVec 2) (slot : BitVec 6) (readers : BitVec 4) (u : BitVec 6) (bank : BitVec 6)
  | withdraw (gone : List (BitVec 2 × BitVec 6)) (bank : BitVec 6)
  | back (fromCore : BitVec 2) (fromSlot : BitVec 6) (toCore : BitVec 2) (toSlot : BitVec 6) (bank : BitVec 6)
  | rotate (slot : BitVec 6) (rev : Bool) (banks : List (Option (BitVec 6)))
  deriving DecidableEq, Repr

/-- One half of the transfer of a staged row (R234): the read of its cells, then the write into the operand slot.
`dst` is the byte offset in the operand bank. -/
inductive StageStep where
  | read (st : StrandId) (bank : BitVec 6) (cells : List Nat) (dstBank : BitVec 6) (dst : Nat)
  | write (dstBank : BitVec 6) (dst : Nat) (row : MVec)
  deriving DecidableEq, Repr

/-- Where an upset falls: a bank word or a far-memory piece (64 data and 8 check bits, R403), or the next flit on a
link, whose mask names the quarters of the data in bits 0 to 3 and the sideband in bit 4 (R256), or a router's wheel
position, whose seven bits are the mask's lowest (R272). -/
inductive UpsetPlace where
  | bank (t : TileId) (bank : BitVec 6) (word : Nat)
  | far (piece : Nat)
  | link (t : TileId) (side : Side)
  | wheel (t : TileId)
  deriving DecidableEq, Repr

/-- An entry of a sending wafer's router that drives a peer link: the edge link of the receiving wafer, the tag and the
slot (R273), and whether an engine of the sending wafer shares the link (R33). -/
structure PeerRoute where
  link : Nat
  tag : BitVec 12
  slot : Nat
  shared : Bool
  deriving DecidableEq, Repr

/-- Messages between the curators and command processors of a fleet (R37, R262, R277, R363). The forming of a fleet with its
Lp is agreed to by every wafer; a cut of the base rate is proposed, agreed to by every wafer, then made; at the boundary of a
requested pre-emption every wafer says whether it may stop there. -/
inductive FleetMessage where
  | form (wafer wafers lp hf : Nat)
  | formAgreed (wafer lp : Nat)
  | cutProposed (ppm : Nat)
  | cutAgreed (wafer ppm : Nat)
  | cutMade (ppm : Nat)
  | launch (packet args : List Byte)
  | peerRoutes (l : List PeerRoute)
  | partEnded (wafer kind : Nat) (fault ftick fdata : BitVec 64) (endTick : Nat) (tlmin : Option Nat)
  | verdict (wafer reason : Nat)
  | boundary (wafer tick : Nat) (ok : Bool)
  | request (op : Nat) (tick : Nat)
  | launchEnded
  deriving DecidableEq, Repr

/-- What the boot tests of a power-on find (R370, R275): the steps that fail, the controllers whose active or retained image
does not verify, the fields that fail, tiles that fail (field, row, physical column), reserve-tile bypasses that fail
(field, row), the direct wires that fail (the physical column of the wafer, 13 for each field, and the row of a physical
tile, with the side), the wheel and the replay interval that the fabric parameters choose, and the fields' temperatures.
Inputs of the module. -/
structure BootFindings where
  failed : List Nat
  alternativeFails : List Nat
  badActive : List Controller
  badRetained : List Controller
  badFields : List Nat
  retired : List (Nat × Nat × Nat)
  failedBypass : List (Nat × Nat)
  failedWires : List (Nat × Nat × Side)
  wheel : Nat
  replayLog2 : Nat
  temps : List (Nat × Int)
  deriving DecidableEq, Repr

/-! ## What some events carry -/

/-- A flit on a wire, with the tick at which it leaves the receiving router: the logical latency after it was sent (R25, R257).
`out` says that it leaves the tile for the engine across that side, which has it at that tick (R307). -/
structure Transit where
  due : Nat
  flit : Flit
  out : Bool
  deriving DecidableEq, Repr

/-- Where a hold stands when it is delivered: the tile's cycle, and the peer port that it came over (R264, R278). -/
structure HoldMark where
  cycle : Nat
  port : Option Nat
  deriving DecidableEq, Repr

/-- A docent's throttle: the field whose docent asks for it, and the whole cut in ppm below the base rate (R262). -/
structure Throttle where
  field : Nat
  ppm : Nat
  deriving DecidableEq, Repr

/-- The place of a physical tile in its field: row and physical column (R38, R275). -/
structure Place where
  row : Nat
  col : Nat
  deriving DecidableEq, Repr

/-- What the host writes to far memory: bytes, and the tags of granules set beside them (R296, R325). -/
structure FarData where
  data : List Byte
  tags : List (Nat × BitVec 4)
  deriving DecidableEq, Repr

/-- A write of a switch unit's SWCMD register by a running image: the controller, the CODE field and the ARG field (R377). -/
structure CtlSignal where
  ctl : Controller
  code : BitVec 8
  arg : BitVec 32
  deriving DecidableEq, Repr

/-! ## The rows -/

/-- The event rows of spec/opcode_table.json with what each acts on: the steps of the part that no syllable names
(spec/95_what_each_step_holds.md). The state's agenda holds these; each is also a constructor of `Instr`. -/
inductive Event where
  | openSpanEntry (st : StrandId)
  | waitFormIssue (st : StrandId)
  | tkawaitIssue (st : StrandId)
  | resultLanding (st : StrandId) (l : Landing)
  | runEnd (st : StrandId)
  | bankCommit (t : TileId) (core : Nat) (bank : BitVec 6) (d : BankData)
  | mapChangeEffect (t : TileId) (ch : MapChange)
  | formatChangeEffect (t : TileId) (bank : BitVec 6) (f : Fmt)
  | reductionApply (t : TileId)
  | stageRowTransfer (t : TileId) (p : StageStep)
  | mmaStart (t : TileId) (op : Nat)
  | mmaGroupAdd (t : TileId) (op b g : Nat)
  | mmaBlockWrite (t : TileId) (op b : Nat)
  | mmaCompletion (t : TileId) (op : Nat)
  | arraySend (t : TileId) (send : Nat)
  | operandRowDeposit (t : TileId) (slot : Nat) (row : MVec) (fmt : BitVec 6)
  | flitArrival (t : TileId) (side : Side) (f : Transit)
  | flitRelease (t : TileId) (side : Side)
  | landedFlitDue (t : TileId) (tag : BitVec 12) (due : Nat)
  | landingLost (t : TileId) (tag : BitVec 12) (due : Nat)
  | holdDelivery (t : TileId) (q : Nat) (mark : HoldMark)
  | holdEnd (t : TileId)
  | voltageDroop (t : TileId) (part : Nat)
  | localTrimUpdate (t : TileId)
  | waferTrimUpdate (links : List (Nat × Int))
  | deadbandSlewSet (db sl : Nat)
  | throttle (cut : Throttle)
  | railChange (field : Nat) (place : Place) (high : Bool)
  | countUpset (t : TileId) (d : BitVec 64)
  | bitUpset (p : UpsetPlace) (mask : BitVec 72)
  | alignment (t : TileId)
  | peerLinkLoss (port : Nat)
  | gateRelease (cl n : Nat)
  | gateTimeout (cl n : Nat)
  | barrierPhaseCompletion (cl n : Nat)
  | barrierTimeout (st : StrandId) (n : Nat)
  | nonPreEmptibleCap (st : StrandId)
  | weightArrival (cl : Nat) (rcv : Option StrandId) (share : Nat)
  | jcbTotalArrival (st : StrandId) (n : Nat)
  | jcbPostArrival (cl : Nat)
  | strandRetirement (st : StrandId)
  | claimEvaluation (cl : Nat)
  | commandActivation (c : CtxId)
  | readLineRequest (c : CtxId) (m j : Nat)
  | stagingFlitRelease (c : CtxId) (m i : Nat)
  | stagingDeposit (c : CtxId) (m k : Nat)
  | stagingSourceRead (c : CtxId) (m k : Nat)
  | stagingWriteFlit (c : CtxId) (m i : Nat)
  | stagingWriteCommit (c : CtxId) (m : Nat)
  | trackerFire (c : CtxId)
  | timelineAdvance (c : CtxId)
  | flagWrite (c : CtxId) (m : Nat)
  | fatalStop (cl : Nat)
  | uncorrectableHalt (cl : Nat)
  | preemptionStop (cl : Nat)
  | selfTestMove (field row col : Nat)
  | selfTestMoveBack (field row : Nat)
  | abortStop (cl : Nat)
  | claimRelease (cl : Nat)
  | powerOn (b : BootFindings)
  | hostFarWrite (addr : Nat) (w : FarData)
  | hostFarRead (addr len : Nat)
  | qnotifyWrite (q : BitVec 6) (w : BitVec 64)
  | hostRegisterWrite (off : Nat) (v : BitVec 64)
  | packetRead (q : BitVec 6)
  | fleetLaunch (packet args : List Byte)
  | managementSidebandMessage (msg : FleetMessage)
  | load (a : MbArgs)
  | evict (a : MbArgs)
  | lease (a : MbArgs)
  | unlease (a : MbArgs)
  | unleaseEffect (slot : BitVec 8)
  | queueEnable (a : MbArgs)
  | queueDisable (a : MbArgs)
  | queueDisableDrain (q : BitVec 6)
  | invtlb (a : MbArgs)
  | preempt (a : MbArgs)
  | resume (a : MbArgs)
  | abort (a : MbArgs)
  | fwload (a : MbArgs)
  | record (a : MbArgs)
  | restart (a : MbArgs)
  | opNotAssigned (op : BitVec 8)
  | switchRequest (c : Controller) (addr : BitVec 32)
  | firmwareSwitch (c : Controller)
  | alive (sig : CtlSignal)
  | accept (sig : CtlSignal)
  | rollback (c : Controller)
  | getVersion
  | getCapabilities (flags : Nat)
  | negotiateAlgorithms (asym hash : Nat)
  | getDigests
  | getCertificate (slot offset len : Nat)
  | challenge (slot : Nat) (nonce : List Byte)
  | getMeasurements (index : Nat) (sign : Bool)
  | accessionRecordWrite (slot : BitVec 8) (rec bart : List Byte)
  | retainedImageFault (c : Controller)
  | tileFailsSelfTest (field row : Nat)
  deriving DecidableEq, Repr

/-- One constructor per row of spec/opcode_table.json: the syllable forms, then the events. -/
inductive Instr where
  /-- MOVI (R125). -/
  | movi (sl : SSlot) (d : Dst 6) (imm : BitVec 18)
  /-- MOVHI (R125). -/
  | movhi (sl : SSlot) (w : Bool) (d : BitVec 6) (imm : BitVec 18)
  /-- ADD (R126). -/
  | add (o : SG3 6 6 6)
  /-- ADDI (R126). -/
  | addi (o : SI 6)
  /-- SUB (R126). -/
  | sub (o : SG3 6 6 6)
  /-- AND (R126). -/
  | and (o : SG3 6 6 6)
  /-- ANDI (R126). -/
  | andi (o : SI 6)
  /-- OR (R126). -/
  | or (o : SG3 6 6 6)
  /-- ORI (R126). -/
  | ori (o : SI 6)
  /-- XOR (R126). -/
  | xor (o : SG3 6 6 6)
  /-- XORI (R126). -/
  | xori (o : SI 6)
  /-- ANDN (R126). -/
  | andn (o : SG3 6 6 6)
  /-- MUL (R127). -/
  | mul (o : SG3 6 6 6)
  /-- MULH (R127). -/
  | mulh (o : SG3 6 6 6)
  /-- MULHN (R127). -/
  | mulhn (o : SG3 6 6 6)
  /-- DIV (R128). -/
  | div (o : SG3 6 6 6)
  /-- DIVN (R128). -/
  | divn (o : SG3 6 6 6)
  /-- REM (R128). -/
  | rem (o : SG3 6 6 6)
  /-- REMN (R128). -/
  | remn (o : SG3 6 6 6)
  /-- SHL (R129). -/
  | shl (o : SG3 6 6 6)
  /-- SHLI (R129). -/
  | shli (o : SSh)
  /-- SHR (R129). -/
  | shr (o : SG3 6 6 6)
  /-- SHRI (R129). -/
  | shri (o : SSh)
  /-- SRA (R129). -/
  | sra (o : SG3 6 6 6)
  /-- SRAI (R129). -/
  | srai (o : SSh)
  /-- ROL (R129). -/
  | rol (o : SG3 6 6 6)
  /-- MIN (R130). -/
  | min (o : SG3 6 6 6)
  /-- MAX (R130). -/
  | max (o : SG3 6 6 6)
  /-- MINN (R130). -/
  | minn (o : SG3 6 6 6)
  /-- MAXN (R130). -/
  | maxn (o : SG3 6 6 6)
  /-- CEQ (R131). -/
  | ceq (o : SG3 6 6 6)
  /-- CNE (R131). -/
  | cne (o : SG3 6 6 6)
  /-- CLT (R131). -/
  | clt (o : SG3 6 6 6)
  /-- CLTN (R131). -/
  | cltn (o : SG3 6 6 6)
  /-- CLE (R131). -/
  | cle (o : SG3 6 6 6)
  /-- CLEN (R131). -/
  | clen (o : SG3 6 6 6)
  /-- CEQI (R131). -/
  | ceqi (o : SI 6)
  /-- CLTI (R131). -/
  | clti (o : SI 6)
  /-- SEL (R132). -/
  | sel (o : SG3 6 6 6)
  /-- CLZ (R133). -/
  | clz (o : SG2 6 6)
  /-- CTZ (R133). -/
  | ctz (o : SG2 6 6)
  /-- POPC (R133). -/
  | popc (o : SG2 6 6)
  /-- BFX (R134). -/
  | bfx (o : SBf)
  /-- BFXS (R134). -/
  | bfxs (o : SBf)
  /-- BFI (R134). -/
  | bfi (sl : SSlot) (w : Bool) (d : BitVec 6) (a : Src 6) (pos wid : BitVec 5)
  /-- AADD (R135). -/
  | aadd (o : SG3 4 4 6)
  /-- AADDI (R135). -/
  | aaddi (o : SI 4)
  /-- ASUB (R135). -/
  | asub (o : SG3 4 4 4)
  /-- AMK (R135). -/
  | amk (o : SG3 4 6 6)
  /-- AHI (R135). -/
  | ahi (o : SG2 6 4)
  /-- ALO (R135). -/
  | alo (o : SG2 6 4)
  /-- KSET (R138). -/
  | kset (o : SG2 4 6)
  /-- KGET (R138). -/
  | kget (o : SG2 6 4)
  /-- FADD (R172). -/
  | fadd (o : VG3 6 6 6 FTy)
  /-- FSUB (R172). -/
  | fsub (o : VG3 6 6 6 FTy)
  /-- FMUL (R172). -/
  | fmul (o : VG3 6 6 6 FTy)
  /-- FMIN (R172). -/
  | fmin (o : VG3 6 6 6 FTy)
  /-- FMAX (R172). -/
  | fmax (o : VG3 6 6 6 FTy)
  /-- FABS (R172). -/
  | fabs (o : VG2 6 6 FTy)
  /-- FNEG (R172). -/
  | fneg (o : VG2 6 6 FTy)
  /-- FMA (R173). -/
  | fma (o : VG4 6 6 FTy)
  /-- FMS (R173). -/
  | fms (o : VG4 6 6 FTy)
  /-- FNMA (R173). -/
  | fnma (o : VG4 6 6 FTy)
  /-- FRCP (R174). -/
  | frcp (o : VG2 6 6 FTy)
  /-- FRSQ (R174). -/
  | frsq (o : VG2 6 6 FTy)
  /-- FEXP2 (R174). -/
  | fexp2 (o : VG2 6 6 FTy)
  /-- FLOG2 (R174). -/
  | flog2 (o : VG2 6 6 FTy)
  /-- DOT2 (R175). -/
  | dot2 (o : VG3 6 6 6 HTy)
  /-- FCMP_EQ (R176). -/
  | fcmpEq (o : VG3 4 6 6 FTy)
  /-- FCMP_NE (R176). -/
  | fcmpNe (o : VG3 4 6 6 FTy)
  /-- FCMP_LT (R176). -/
  | fcmpLt (o : VG3 4 6 6 FTy)
  /-- FCMP_LE (R176). -/
  | fcmpLe (o : VG3 4 6 6 FTy)
  /-- FCMP_UN (R176). -/
  | fcmpUn (o : VG3 4 6 6 FTy)
  /-- IADD (R177). -/
  | iadd (o : VG3 6 6 6 ITy) (sat : Bool)
  /-- ISUB (R177). -/
  | isub (o : VG3 6 6 6 ITy) (sat : Bool)
  /-- IMUL (R177). -/
  | imul (o : VG3 6 6 6 ITy) (sat : Bool)
  /-- IMULH (R177). -/
  | imulh (o : VG3 6 6 6 ITy)
  /-- IMAD (R177). -/
  | imad (o : VG4 6 6 ITy) (sat : Bool)
  /-- IAND (R177). -/
  | iand (o : VG3 6 6 6 ITy)
  /-- IOR (R177). -/
  | ior (o : VG3 6 6 6 ITy)
  /-- IXOR (R177). -/
  | ixor (o : VG3 6 6 6 ITy)
  /-- IMIN (R177). -/
  | imin (o : VG3 6 6 6 ITy)
  /-- IMAX (R177). -/
  | imax (o : VG3 6 6 6 ITy)
  /-- ISHL (R178). -/
  | ishl (o : VG3 6 6 6 ITy)
  /-- ISHR (R178). -/
  | ishr (o : VG3 6 6 6 ITy)
  /-- ISRA (R178). -/
  | isra (o : VG3 6 6 6 ITy)
  /-- ICMP_EQ (R179). -/
  | icmpEq (o : VG3 4 6 6 ITy)
  /-- ICMP_NE (R179). -/
  | icmpNe (o : VG3 4 6 6 ITy)
  /-- ICMP_LT (R179). -/
  | icmpLt (o : VG3 4 6 6 ITy)
  /-- ICMP_LE (R179). -/
  | icmpLe (o : VG3 4 6 6 ITy)
  /-- VSEL (R180). -/
  | vsel (o : VG3 6 6 6 Fmt)
  /-- VBC (R180). -/
  | vbc (o : VG2 6 6 Fmt)
  /-- VMOV (R180). -/
  | vmov (o : VG2 6 6 Fmt)
  /-- VMOVI (R180). -/
  | vmovi (sl : VSlot) (d : Dst 6) (ty : Fmt) (sat : Bool) (imm : BitVec 16)
  /-- VEXT (R181). -/
  | vext (o : VG3 6 6 6 Fmt)
  /-- VINS (R181). -/
  | vins (o : VG4 6 6 Fmt)
  /-- VPERM (R182). -/
  | vperm (o : VG3 6 6 6 Fmt)
  /-- VROT (R182). -/
  | vrot (o : VG3 6 6 6 Fmt)
  /-- VZIP (R183). -/
  | vzip (o : VG3 5 6 6 Fmt)
  /-- VUNZIP (R183). -/
  | vunzip (o : VG3 5 6 6 Fmt)
  /-- VSUM (R184). -/
  | vsum (o : VG2 6 6 Fmt)
  /-- VMAXR (R184). -/
  | vmaxr (o : VG2 6 6 Fmt)
  /-- KAND (R185). -/
  | kand (o : VG3 4 4 4 Unit)
  /-- KOR (R185). -/
  | kor (o : VG3 4 4 4 Unit)
  /-- KXOR (R185). -/
  | kxor (o : VG3 4 4 4 Unit)
  /-- KNOT (R185). -/
  | knot (o : VG2 4 4 Unit)
  /-- KCNT (R185). -/
  | kcnt (o : VG2 6 4 Unit)
  /-- LD_B (R211). -/
  | ldB (o : MA 6)
  /-- LD_BN (R211). -/
  | ldBn (o : MA 6)
  /-- LD_H (R211). -/
  | ldH (o : MA 6)
  /-- LD_HN (R211). -/
  | ldHn (o : MA 6)
  /-- LD_W (R211). -/
  | ldW (o : MA 6)
  /-- ST_B (R211). -/
  | stB (o : MS 6)
  /-- ST_H (R211). -/
  | stH (o : MS 6)
  /-- ST_W (R211). -/
  | stW (o : MS 6)
  /-- VLD_ROW (R212). -/
  | vldRow (o : MA 6)
  /-- VLD_COL (R212). -/
  | vldCol (o : MA 6) (e : Size)
  /-- VST_ROW (R212). -/
  | vstRow (o : MS 6)
  /-- VST_COL (R212). -/
  | vstCol (o : MS 6) (e : Size)
  /-- VLD2 (R213). -/
  | vld2 (o : MA 5) (r : Orient)
  /-- VST2 (R213). -/
  | vst2 (o : MS 5) (r : Orient)
  /-- VLDD_ROW (R214). -/
  | vlddRow (o : MA 6)
  /-- VLDD_COL (R214). -/
  | vlddCol (o : MA 6)
  /-- VGT (R215). -/
  | vgt (o : MX 6) (e : Size)
  /-- VGT2 (R215). -/
  | vgt2 (o : MX 5) (e : Size)
  /-- VSC (R215). -/
  | vsc (o : MXS) (e : Size)
  /-- AMO_ADD (R332). -/
  | amoAdd (o : MX 6)
  /-- AMO_AND (R332). -/
  | amoAnd (o : MX 6)
  /-- AMO_OR (R332). -/
  | amoOr (o : MX 6)
  /-- AMO_XOR (R332). -/
  | amoXor (o : MX 6)
  /-- AMO_MIN (R332). -/
  | amoMin (o : MX 6)
  /-- AMO_MAX (R332). -/
  | amoMax (o : MX 6)
  /-- AMO_XCHG (R332). -/
  | amoXchg (o : MX 6)
  /-- AMO_CAS (R332). -/
  | amoCas (w : Bool) (o : MXS)
  /-- RED_F32 (R334). -/
  | redF32 (o : MXS)
  /-- RED_S32 (R334). -/
  | redS32 (o : MXS)
  /-- CVT (R162). -/
  | cvt (o : XF 6 6 Fmt Fmt)
  /-- QBLK (R165). -/
  | qblk (o : XF 6 6 Fam BTy)
  /-- DQBLK (R166). -/
  | dqblk (o : XF 6 6 BTy Fam)
  /-- VPK (R163). -/
  | vpk (o : XF 6 5 Fmt Fmt)
  /-- VUPK (R164). -/
  | vupk (d : Dst 5) (a : Src 6) (tf ff : Fmt)
  /-- RNG_SEED (R167). -/
  | rngSeed (a b : Src 6) (g : Guard)
  /-- RNG_POP (R168). -/
  | rngPop (d : Dst 6) (g : Guard)
  /-- SPUSH (R190). -/
  | spush (m : BitVec 6) (a : Src 6) (g : Guard)
  /-- SPOP (R191). -/
  | spop (d : Dst 6) (m : BitVec 6) (g : Guard)
  /-- SCNT (R192). -/
  | scnt (d : Dst 6) (m : BitVec 6) (g : Guard)
  /-- SRESET (R192). -/
  | sreset (m : BitVec 6) (g : Guard)
  /-- BGIVE (R217). -/
  | bgive (o : XB) (core : BitVec 2) (u : BitVec 6)
  /-- BLEND (R218). -/
  | blend (o : XB) (u : BitVec 6) (mask : BitVec 4)
  /-- BBACK (R219). -/
  | bback (o : XB)
  /-- BROT (R220). -/
  | brot (o : XB)
  /-- BROT_REV (R220). -/
  | brotRev (o : XB)
  /-- BMAP (R202). -/
  | bmap (d : Dst 6) (m : BitVec 6) (g : Guard)
  /-- BFMT (R222). -/
  | bfmt (o : XB) (fmt : Fmt)
  /-- BZERO (R223). -/
  | bzero (o : XB)
  /-- BCOPY (R224). -/
  | bcopy (o : XB) (src : BitVec 6) (plate cnt : BitVec 4)
  /-- MCLAIM (R232). -/
  | mclaim (n : BitVec 8)
  /-- MREL (R232). -/
  | mrel (n : BitVec 8)
  /-- MSTAGE_ROW (R234). -/
  | mstageRow (o : ES)
  /-- MSTAGE_COL (R234). -/
  | mstageCol (o : ES) (e : Size)
  /-- MSHAPE (R236). -/
  | mshape (sh : BitVec 2) (base : BitVec 4) (ofs : BitVec 10) (g : Guard)
  /-- MMA (R238). -/
  | mma (sh : BitVec 2) (set na nb : Bool) (g : Guard)
  /-- MACC_RD (R246). -/
  | maccRd (d : Dst 6) (tile : BitVec 8) (row : BitVec 6) (quarter : BitVec 2)
  /-- MACC_ZERO (R247). -/
  | maccZero (n : BitVec 8)
  /-- MQNT (R248). -/
  | mqnt (o : MS 6) (fam : Fam) (sat : Bool)
  /-- XSEND_LO (R284). -/
  | xsendLo (tag : BitVec 12) (a : Src 6)
  /-- XSEND_HI (R284). -/
  | xsendHi (tag : BitVec 12) (a : Src 6)
  /-- XRECV_LO (R287). -/
  | xrecvLo (d : Dst 6) (tag : BitVec 12)
  /-- XRECV_HI (R287). -/
  | xrecvHi (d : Dst 6) (tag : BitVec 12)
  /-- XLAND (R285). -/
  | xland (a : Src 6) (dt : BitVec 18)
  /-- XTAG (R286). -/
  | xtag (a : Src 6) (i : BitVec 4)
  /-- XPOLL (R288). -/
  | xpoll (d : BitVec 6) (tag : BitVec 12)
  /-- TKALIGN (R289). -/
  | tkalign
  /-- TKHOLD (R290). -/
  | tkhold (dt : BitVec 18)
  /-- STG_SET (R314). -/
  | stgSet (c : BitVec 8) (r : CtxReg) (a : Src 6)
  /-- READ_TO_BANK (R302). -/
  | readToBank (n : BitVec 8)
  /-- READ_TO_LANDING_BUFFER (R306). -/
  | readToLandingBuffer (n : BitVec 8)
  /-- WRITE (R307). -/
  | write (n : BitVec 8)
  /-- TRACKED_WRITE (R308). -/
  | trackedWrite (n : BitVec 8)
  /-- STG_RD (R314). -/
  | stgRd (d : BitVec 6) (c : BitVec 8) (r : CtxName)
  /-- TL_WAIT (R314). -/
  | tlWait (c : BitVec 8) (a : Src 4)
  /-- TL_RD (R314). -/
  | tlRd (d : BitVec 4) (c : BitVec 8)
  /-- NOP (R45). -/
  | nop
  /-- BR (R102). -/
  | br (ofs : BitVec 18)
  /-- BRZ (R102). -/
  | brz (a : Src 6) (ofs : BitVec 18)
  /-- BRNZ (R102). -/
  | brnz (a : Src 6) (ofs : BitVec 18)
  /-- BRK (R108). -/
  | brk (a : Src 6) (ofs : BitVec 18)
  /-- CALL (R103). -/
  | call (d : BitVec 4) (ofs : BitVec 18)
  /-- RET (R104). -/
  | ret (a : Src 4) (g : Guard)
  /-- LOOP (R106). -/
  | loop (a : Src 6) (ofs : BitVec 18)
  /-- HALT (R109). -/
  | halt (g : Guard)
  /-- TKAWAIT (R110). -/
  | tkawait (a : Src 4) (dt : BitVec 18)
  /-- GATE (R114). -/
  | gate (n : BitVec 9)
  /-- WSPLIT (R117). -/
  | wsplit (a b : Src 6) (g : Guard)
  /-- WRET (R118). -/
  | wret (a : Src 6) (g : Guard)
  /-- JCB_ADD (R119). -/
  | jcbAdd (a : Src 6) (g : Guard)
  /-- JCB_POST (R119). -/
  | jcbPost (g : Guard)
  /-- NPRE_ON (R121). -/
  | npreOn (g : Guard)
  /-- NPRE_OFF (R121). -/
  | npreOff (g : Guard)
  /-- TRAP (R351). -/
  | trap (code : BitVec 16)
  /-- SVC (R351). -/
  | svc (code : BitVec 16)
  /-- BRKPT (R351). -/
  | brkpt (code : BitVec 16)
  /-- IRET (R352). -/
  | iret
  /-- CRGET (R353). -/
  | crget (d : BitVec 6) (f : Bool) (r : CReg)
  /-- CRSET (R353). -/
  | crset (a : Src 6) (f : Bool) (r : CReg)
  /-- OPEN_SPAN_ENTRY (R111). -/
  | openSpanEntry (st : StrandId)
  /-- FENCE_ACQ (R326). -/
  | fenceAcq (sc : Scope) (g : Guard)
  /-- FENCE_REL (R326). -/
  | fenceRel (sc : Scope) (g : Guard)
  /-- FENCE_AR (R326). -/
  | fenceAr (sc : Scope) (g : Guard)
  /-- FENCE_SC (R326). -/
  | fenceSc (sc : Scope) (g : Guard)
  /-- WAITA_EQ (R327). -/
  | waitaEq (o : MS 6) (sc : Scope)
  /-- WAITA_NE (R327). -/
  | waitaNe (o : MS 6) (sc : Scope)
  /-- WAITA_GEN (R327). -/
  | waitaGen (o : MS 6) (sc : Scope)
  /-- BAR_ARR (R331). -/
  | barArr (n : BitVec 9)
  /-- BAR_WAIT (R331). -/
  | barWait (n : BitVec 9)
  /-- BAR_SYNC (R331). -/
  | barSync (n : BitVec 9)
  /-- WAIT_FORM_ISSUE (R113). -/
  | waitFormIssue (st : StrandId)
  /-- TKAWAIT_ISSUE (R110). -/
  | tkawaitIssue (st : StrandId)
  /-- RESULT_LANDING (R97). -/
  | resultLanding (st : StrandId) (l : Landing)
  /-- RUN_END (R99). -/
  | runEnd (st : StrandId)
  /-- BANK_COMMIT (R206). -/
  | bankCommit (t : TileId) (core : Nat) (bank : BitVec 6) (d : BankData)
  /-- MAP_CHANGE_EFFECT (R216). -/
  | mapChangeEffect (t : TileId) (ch : MapChange)
  /-- FORMAT_CHANGE_EFFECT (R222). -/
  | formatChangeEffect (t : TileId) (bank : BitVec 6) (f : Fmt)
  /-- REDUCTION_APPLY (R335). -/
  | reductionApply (t : TileId)
  /-- STAGE_ROW_TRANSFER (R234). -/
  | stageRowTransfer (t : TileId) (p : StageStep)
  /-- MMA_START (R239). -/
  | mmaStart (t : TileId) (op : Nat)
  /-- MMA_GROUP_ADD (R241). -/
  | mmaGroupAdd (t : TileId) (op b g : Nat)
  /-- MMA_BLOCK_WRITE (R239). -/
  | mmaBlockWrite (t : TileId) (op b : Nat)
  /-- MMA_COMPLETION (R239). -/
  | mmaCompletion (t : TileId) (op : Nat)
  /-- ARRAY_SEND (R276). -/
  | arraySend (t : TileId) (send : Nat)
  /-- OPERAND_ROW_DEPOSIT (R245). -/
  | operandRowDeposit (t : TileId) (slot : Nat) (row : MVec) (fmt : BitVec 6)
  /-- FLIT_ARRIVAL (R257). -/
  | flitArrival (t : TileId) (side : Side) (f : Transit)
  /-- FLIT_RELEASE (R257). -/
  | flitRelease (t : TileId) (side : Side)
  /-- LANDED_FLIT_DUE (R281). -/
  | landedFlitDue (t : TileId) (tag : BitVec 12) (due : Nat)
  /-- LANDING_LOST (R281). -/
  | landingLost (t : TileId) (tag : BitVec 12) (due : Nat)
  /-- HOLD_DELIVERY (R264). -/
  | holdDelivery (t : TileId) (q : Nat) (mark : HoldMark)
  /-- HOLD_END (R264). -/
  | holdEnd (t : TileId)
  /-- VOLTAGE_DROOP (R38). -/
  | voltageDroop (t : TileId) (part : Nat)
  /-- LOCAL_TRIM_UPDATE (R260). -/
  | localTrimUpdate (t : TileId)
  /-- WAFER_TRIM_UPDATE (R260). -/
  | waferTrimUpdate (links : List (Nat × Int))
  /-- DEADBAND_SLEW_SET (R261). -/
  | deadbandSlewSet (db sl : Nat)
  /-- THROTTLE (R262). -/
  | throttle (cut : Throttle)
  /-- RAIL_CHANGE (R38). -/
  | railChange (field : Nat) (place : Place) (high : Bool)
  /-- COUNT_UPSET (R268). -/
  | countUpset (t : TileId) (d : BitVec 64)
  /-- BIT_UPSET (R403). -/
  | bitUpset (p : UpsetPlace) (mask : BitVec 72)
  /-- ALIGNMENT (R289). -/
  | alignment (t : TileId)
  /-- PEER_LINK_LOSS (R345). -/
  | peerLinkLoss (port : Nat)
  /-- GATE_RELEASE (R114). -/
  | gateRelease (cl n : Nat)
  /-- GATE_TIMEOUT (R115). -/
  | gateTimeout (cl n : Nat)
  /-- BARRIER_PHASE_COMPLETION (R329). -/
  | barrierPhaseCompletion (cl n : Nat)
  /-- BARRIER_TIMEOUT (R329). -/
  | barrierTimeout (st : StrandId) (n : Nat)
  /-- NON_PRE_EMPTIBLE_CAP (R121). -/
  | nonPreEmptibleCap (st : StrandId)
  /-- WEIGHT_ARRIVAL (R117). -/
  | weightArrival (cl : Nat) (rcv : Option StrandId) (share : Nat)
  /-- JCB_TOTAL_ARRIVAL (R119). -/
  | jcbTotalArrival (st : StrandId) (n : Nat)
  /-- JCB_POST_ARRIVAL (R119). -/
  | jcbPostArrival (cl : Nat)
  /-- STRAND_RETIREMENT (R109). -/
  | strandRetirement (st : StrandId)
  /-- CLAIM_EVALUATION (R120). -/
  | claimEvaluation (cl : Nat)
  /-- COMMAND_ACTIVATION (R302). -/
  | commandActivation (c : CtxId)
  /-- READ_LINE_REQUEST (R312). -/
  | readLineRequest (c : CtxId) (m j : Nat)
  /-- STAGING_FLIT_RELEASE (R304). -/
  | stagingFlitRelease (c : CtxId) (m i : Nat)
  /-- STAGING_DEPOSIT (R305). -/
  | stagingDeposit (c : CtxId) (m k : Nat)
  /-- STAGING_SOURCE_READ (R307). -/
  | stagingSourceRead (c : CtxId) (m k : Nat)
  /-- STAGING_WRITE_FLIT (R307). -/
  | stagingWriteFlit (c : CtxId) (m i : Nat)
  /-- STAGING_WRITE_COMMIT (R307). -/
  | stagingWriteCommit (c : CtxId) (m : Nat)
  /-- TRACKER_FIRE (R308). -/
  | trackerFire (c : CtxId)
  /-- TIMELINE_ADVANCE (R309). -/
  | timelineAdvance (c : CtxId)
  /-- FLAG_WRITE (R310). -/
  | flagWrite (c : CtxId) (m : Nat)
  /-- FATAL_STOP (R341). -/
  | fatalStop (cl : Nat)
  /-- UNCORRECTABLE_HALT (R344). -/
  | uncorrectableHalt (cl : Nat)
  /-- PREEMPTION_STOP (R346). -/
  | preemptionStop (cl : Nat)
  /-- SELF_TEST_MOVE (R348). -/
  | selfTestMove (field row col : Nat)
  /-- SELF_TEST_MOVE_BACK (R348). -/
  | selfTestMoveBack (field row : Nat)
  /-- ABORT_STOP (R368). -/
  | abortStop (cl : Nat)
  /-- CLAIM_RELEASE (R369). -/
  | claimRelease (cl : Nat)
  /-- POWER_ON (R370). -/
  | powerOn (b : BootFindings)
  /-- HOST_FAR_WRITE (R325). -/
  | hostFarWrite (addr : Nat) (w : FarData)
  /-- HOST_FAR_READ (R356). -/
  | hostFarRead (addr len : Nat)
  /-- QNOTIFY_WRITE (R359). -/
  | qnotifyWrite (q : BitVec 6) (w : BitVec 64)
  /-- HOST_REGISTER_WRITE (R356). -/
  | hostRegisterWrite (off : Nat) (v : BitVec 64)
  /-- PACKET_READ (R360). -/
  | packetRead (q : BitVec 6)
  /-- FLEET_LAUNCH (R363). -/
  | fleetLaunch (packet args : List Byte)
  /-- MANAGEMENT_SIDEBAND_MESSAGE (R37). -/
  | managementSidebandMessage (msg : FleetMessage)
  /-- LOAD (R365). -/
  | load (a : MbArgs)
  /-- EVICT (R365). -/
  | evict (a : MbArgs)
  /-- LEASE (R365). -/
  | lease (a : MbArgs)
  /-- UNLEASE (R365). -/
  | unlease (a : MbArgs)
  /-- UNLEASE_EFFECT (R365). -/
  | unleaseEffect (slot : BitVec 8)
  /-- QUEUE_ENABLE (R365). -/
  | queueEnable (a : MbArgs)
  /-- QUEUE_DISABLE (R365). -/
  | queueDisable (a : MbArgs)
  /-- QUEUE_DISABLE_DRAIN (R365). -/
  | queueDisableDrain (q : BitVec 6)
  /-- INVTLB (R365). -/
  | invtlb (a : MbArgs)
  /-- PREEMPT (R365). -/
  | preempt (a : MbArgs)
  /-- RESUME (R347). -/
  | resume (a : MbArgs)
  /-- ABORT (R368). -/
  | abort (a : MbArgs)
  /-- FWLOAD (R374). -/
  | fwload (a : MbArgs)
  /-- RECORD (R367). -/
  | record (a : MbArgs)
  /-- RESTART (R367). -/
  | restart (a : MbArgs)
  /-- OP_NOT_ASSIGNED (R366). -/
  | opNotAssigned (op : BitVec 8)
  /-- SWITCH_REQUEST (R377). -/
  | switchRequest (c : Controller) (addr : BitVec 32)
  /-- FIRMWARE_SWITCH (R374). -/
  | firmwareSwitch (c : Controller)
  /-- ALIVE (R377). -/
  | alive (sig : CtlSignal)
  /-- ACCEPT (R377). -/
  | accept (sig : CtlSignal)
  /-- ROLLBACK (R376). -/
  | rollback (c : Controller)
  /-- GET_VERSION (R372). -/
  | getVersion
  /-- GET_CAPABILITIES (R372). -/
  | getCapabilities (flags : Nat)
  /-- NEGOTIATE_ALGORITHMS (R372). -/
  | negotiateAlgorithms (asym hash : Nat)
  /-- GET_DIGESTS (R372). -/
  | getDigests
  /-- GET_CERTIFICATE (R372). -/
  | getCertificate (slot offset len : Nat)
  /-- CHALLENGE (R372). -/
  | challenge (slot : Nat) (nonce : List Byte)
  /-- GET_MEASUREMENTS (R372). -/
  | getMeasurements (index : Nat) (sign : Bool)
  /-- ACCESSION_RECORD_WRITE (R361). -/
  | accessionRecordWrite (slot : BitVec 8) (rec bart : List Byte)
  /-- RETAINED_IMAGE_FAULT (R377). -/
  | retainedImageFault (c : Controller)
  /-- TILE_FAILS_SELF_TEST (R348). -/
  | tileFailsSelfTest (field row : Nat)
  deriving DecidableEq, Repr

end Sys2Proof
end

