-- ==== Sys2Proof/WellFormed.lean ====
section
/-!
DEFINITION. Which instructions are well formed: what the operand types of Syntax.lean do not say by themselves
(spec/02 R53, R58 to R60, R71 to R74; spec/06 R160; spec/10 R290; spec/11 R315).
-/

namespace Sys2Proof

/-- Bytes of an element size (R66). -/
def Size.bytes : Size → Nat
  | .b => 1 | .h => 2 | .w => 4

/-- The width of a format in bits (R139). -/
def Fmt.width : Fmt → Nat
  | .flt .fp32 => 32
  | .flt .bf16 => 16
  | .flt .fp16 => 16
  | .int t => 8 * t.size.bytes
  | .fam _ => 8

/-- Whether a format is one of the six integer formats (R160). -/
def Fmt.isInt : Fmt → Bool
  | .int _ => true
  | .flt _ => false
  | .fam _ => false

/-- Whether a source names a register. -/
def Src.isReg {n : Nat} : Src n → Bool
  | .reg _ => true
  | .latch _ => false

/-- Whether a source names an even register, as a pair source must (R53). -/
def Src.isEvenReg {n : Nat} : Src n → Bool
  | .reg i => i.toNat % 2 == 0
  | .latch _ => false

/-- Whether a source is a latch or a register below `k` (R49). -/
def Src.below {n : Nat} (k : Nat) : Src n → Bool
  | .reg i => decide (i.toNat < k)
  | .latch _ => true

/-- Whether a destination is suppressed or names an even register (R53). -/
def Dst.isEven {n : Nat} : Dst n → Bool
  | .reg i => i.toNat % 2 == 0
  | .none => true

/-- The registers that live in the a file (R299). -/
def CtxReg.isA : CtxReg → Bool
  | .far | .tick | .flag => true
  | .len | .cmd | .loc | .tag | .pitch | .fval | .tcount => false

/-- The status words that live in the a file (R299). -/
def CtxStat.isA : CtxStat → Bool
  | .issued | .active => true
  | .state | .bind => false

def CtxName.isA : CtxName → Bool
  | .reg r => r.isA
  | .stat r => r.isA

/-- The control registers that `crset` may name (R349): those whose access is RW, and `cr.drift`. -/
def CReg.writable : CReg → Bool
  | .span | .fault | .fdata | .epc | .etgt | .tvec | .escr | .dbg | .drift => true
  | .tick | .rebase | .coord | .stage | .part | .hop | .wheel | .rq | .heapBase | .heapLimit | .heapOff | .weight
  | .lag | .collide | .wclk | .cyc => false

/-- The encoding conditions on an instruction that follow from its bits alone and that its operand types leave open
(R56, R74). Events carry no encoding. -/
def Instr.wellFormed : Instr → Bool
  | .movi _ _ _ => true
  | .movhi _ _ _ _ => true
  | .add _ => true
  | .addi _ => true
  | .sub _ => true
  | .and _ => true
  | .andi _ => true
  | .or _ => true
  | .ori _ => true
  | .xor _ => true
  | .xori _ => true
  | .andn _ => true
  | .mul _ => true
  | .mulh _ => true
  | .mulhn _ => true
  | .div _ => true
  | .divn _ => true
  | .rem _ => true
  | .remn _ => true
  | .shl _ => true
  | .shli _ => true
  | .shr _ => true
  | .shri _ => true
  | .sra _ => true
  | .srai _ => true
  | .rol _ => true
  | .min _ => true
  | .max _ => true
  | .minn _ => true
  | .maxn _ => true
  | .ceq _ => true
  | .cne _ => true
  | .clt _ => true
  | .cltn _ => true
  | .cle _ => true
  | .clen _ => true
  | .ceqi _ => true
  | .clti _ => true
  | .sel _ => true
  | .clz _ => true
  | .ctz _ => true
  | .popc _ => true
  | .bfx o => decide (o.pos.toNat + o.wid.toNat + 1 ≤ 32)  -- R58
  | .bfxs o => decide (o.pos.toNat + o.wid.toNat + 1 ≤ 32)  -- R58
  | .bfi _ _ _ _ pos wid => decide (pos.toNat + wid.toNat + 1 ≤ 32)  -- R58
  | .aadd _ => true
  | .aaddi _ => true
  | .asub _ => true
  | .amk _ => true
  | .ahi _ => true
  | .alo _ => true
  | .kset _ => true
  | .kget _ => true
  | .fadd _ => true
  | .fsub _ => true
  | .fmul _ => true
  | .fmin _ => true
  | .fmax _ => true
  | .fabs _ => true
  | .fneg _ => true
  | .fma _ => true
  | .fms _ => true
  | .fnma _ => true
  | .frcp _ => true
  | .frsq _ => true
  | .fexp2 _ => true
  | .flog2 _ => true
  | .dot2 _ => true
  | .fcmpEq _ => true
  | .fcmpNe _ => true
  | .fcmpLt _ => true
  | .fcmpLe _ => true
  | .fcmpUn _ => true
  | .iadd _ _ => true
  | .isub _ _ => true
  | .imul _ _ => true
  | .imulh _ => true
  | .imad _ _ => true
  | .iand _ => true
  | .ior _ => true
  | .ixor _ => true
  | .imin _ => true
  | .imax _ => true
  | .ishl _ => true
  | .ishr _ => true
  | .isra _ => true
  | .icmpEq _ => true
  | .icmpNe _ => true
  | .icmpLt _ => true
  | .icmpLe _ => true
  | .vsel _ => true
  | .vbc _ => true
  | .vmov _ => true
  | .vmovi _ _ ty sat _ => decide (sat = false ∨ ty.isInt = false)  -- R59
  | .vext _ => true
  | .vins _ => true
  | .vperm _ => true
  | .vrot _ => true
  | .vzip _ => true
  | .vunzip _ => true
  | .vsum _ => true
  | .vmaxr _ => true
  | .kand _ => true
  | .kor _ => true
  | .kxor _ => true
  | .knot _ => true
  | .kcnt _ => true
  | .ldB _ => true
  | .ldBn _ => true
  | .ldH _ => true
  | .ldHn _ => true
  | .ldW _ => true
  | .stB _ => true
  | .stH _ => true
  | .stW _ => true
  | .vldRow _ => true
  | .vldCol _ _ => true
  | .vstRow _ => true
  | .vstCol _ _ => true
  | .vld2 _ _ => true
  | .vst2 _ _ => true
  | .vlddRow _ => true
  | .vlddCol _ => true
  | .vgt _ _ => true
  | .vgt2 _ _ => true
  | .vsc _ _ => true
  | .amoAdd _ => true
  | .amoAnd _ => true
  | .amoOr _ => true
  | .amoXor _ => true
  | .amoMin _ => true
  | .amoMax _ => true
  | .amoXchg _ => true
  | .amoCas _ _ => true
  | .redF32 _ => true
  | .redS32 _ => true
  | .cvt o => decide (o.rnd = .rne ∨ o.tf.isInt = false ∨ o.ff.isInt = false)  -- R160
  | .qblk o => decide (o.ff = .bf16 ∨ o.a.isEvenReg)  -- R53, R160
  | .dqblk o => decide (o.tf = .bf16 ∨ o.d.isEven)  -- R53, R160
  | .vpk o => decide (o.tf.width < o.ff.width ∧ o.a.isReg ∧ (o.rnd = .rne ∨ o.tf.isInt = false ∨ o.ff.isInt = false))  -- R53, R160
  | .vupk _ _ tf ff => decide (ff.width < tf.width)  -- R160
  | .rngSeed _ _ _ => true
  | .rngPop _ _ => true
  | .spush _ _ _ => true
  | .spop _ _ _ => true
  | .scnt _ _ _ => true
  | .sreset _ _ => true
  | .bgive _ _ _ => true
  | .blend _ _ mask => decide (mask ≠ 0)  -- R71
  | .bback _ => true
  | .brot _ => true
  | .brotRev _ => true
  | .bmap _ _ _ => true
  | .bfmt _ _ => true
  | .bzero _ => true
  | .bcopy _ _ plate cnt => decide (plate.toNat + cnt.toNat + 1 ≤ 16)  -- R71
  | .mclaim _ => true
  | .mrel _ => true
  | .mstageRow _ => true
  | .mstageCol _ _ => true
  | .mshape _ _ _ _ => true
  | .mma _ _ _ _ _ => true
  | .maccRd _ _ _ _ => true
  | .maccZero _ => true
  | .mqnt _ _ _ => true
  | .xsendLo _ _ => true
  | .xsendHi _ _ => true
  | .xrecvLo _ _ => true
  | .xrecvHi _ _ => true
  | .xland _ dt => decide (dt ≠ 0)  -- R72
  | .xtag _ _ => true
  | .xpoll _ _ => true
  | .tkalign => true
  | .tkhold dt => decide (1 ≤ dt.toNat ∧ dt.toNat ≤ 4096)  -- R290
  | .stgSet _ r a => decide (r.isA = false ∨ a.below 16)  -- R49, R315
  | .readToBank _ => true
  | .readToLandingBuffer _ => true
  | .write _ => true
  | .trackedWrite _ => true
  | .stgRd d _ r => decide (r.isA = false ∨ d.toNat < 16)  -- R49, R315
  | .tlWait _ _ => true
  | .tlRd _ _ => true
  | .nop => true
  | .br _ => true
  | .brz _ _ => true
  | .brnz _ _ => true
  | .brk _ _ => true
  | .call _ _ => true
  | .ret _ _ => true
  | .loop _ ofs => decide (0 < ofs.toInt)  -- R73
  | .halt _ => true
  | .tkawait _ _ => true
  | .gate _ => true
  | .wsplit _ _ _ => true
  | .wret _ _ => true
  | .jcbAdd _ _ => true
  | .jcbPost _ => true
  | .npreOn _ => true
  | .npreOff _ => true
  | .trap _ => true
  | .svc _ => true
  | .brkpt _ => true
  | .iret => true
  | .crget d f _ => decide (f = false ∨ d.toNat < 16)  -- R49
  | .crset a f r => decide (r.writable ∧ (f = false ∨ a.below 16))  -- R49, R73
  | .openSpanEntry _ => true
  | .fenceAcq _ _ => true
  | .fenceRel _ _ => true
  | .fenceAr _ _ => true
  | .fenceSc _ _ => true
  | .waitaEq _ _ => true
  | .waitaNe _ _ => true
  | .waitaGen _ _ => true
  | .barArr _ => true
  | .barWait _ => true
  | .barSync _ => true
  | .waitFormIssue _ => true
  | .tkawaitIssue _ => true
  | .resultLanding _ _ => true
  | .runEnd _ => true
  | .bankCommit _ _ _ _ => true
  | .mapChangeEffect _ _ => true
  | .formatChangeEffect _ _ _ => true
  | .reductionApply _ => true
  | .stageRowTransfer _ _ => true
  | .mmaStart _ _ => true
  | .mmaGroupAdd _ _ _ _ => true
  | .mmaBlockWrite _ _ _ => true
  | .mmaCompletion _ _ => true
  | .arraySend _ _ => true
  | .operandRowDeposit _ _ _ _ => true
  | .flitArrival _ _ _ => true
  | .flitRelease _ _ => true
  | .landedFlitDue _ _ _ => true
  | .landingLost _ _ _ => true
  | .holdDelivery _ _ _ => true
  | .holdEnd _ => true
  | .voltageDroop _ _ => true
  | .localTrimUpdate _ => true
  | .waferTrimUpdate _ => true
  | .deadbandSlewSet _ _ => true
  | .throttle _ => true
  | .railChange _ _ _ => true
  | .countUpset _ _ => true
  | .bitUpset _ _ => true
  | .alignment _ => true
  | .peerLinkLoss _ => true
  | .gateRelease _ _ => true
  | .gateTimeout _ _ => true
  | .barrierPhaseCompletion _ _ => true
  | .barrierTimeout _ _ => true
  | .nonPreEmptibleCap _ => true
  | .weightArrival _ _ _ => true
  | .jcbTotalArrival _ _ => true
  | .jcbPostArrival _ => true
  | .strandRetirement _ => true
  | .claimEvaluation _ => true
  | .commandActivation _ => true
  | .readLineRequest _ _ _ => true
  | .stagingFlitRelease _ _ _ => true
  | .stagingDeposit _ _ _ => true
  | .stagingSourceRead _ _ _ => true
  | .stagingWriteFlit _ _ _ => true
  | .stagingWriteCommit _ _ => true
  | .trackerFire _ => true
  | .timelineAdvance _ => true
  | .flagWrite _ _ => true
  | .fatalStop _ => true
  | .uncorrectableHalt _ => true
  | .preemptionStop _ => true
  | .selfTestMove _ _ _ => true
  | .selfTestMoveBack _ _ => true
  | .abortStop _ => true
  | .claimRelease _ => true
  | .powerOn _ => true
  | .hostFarWrite _ _ => true
  | .hostFarRead _ _ => true
  | .qnotifyWrite _ _ => true
  | .hostRegisterWrite _ _ => true
  | .packetRead _ => true
  | .fleetLaunch _ _ => true
  | .managementSidebandMessage _ => true
  | .load _ => true
  | .evict _ => true
  | .lease _ => true
  | .unlease _ => true
  | .unleaseEffect _ => true
  | .queueEnable _ => true
  | .queueDisable _ => true
  | .queueDisableDrain _ => true
  | .invtlb _ => true
  | .preempt _ => true
  | .resume _ => true
  | .abort _ => true
  | .fwload _ => true
  | .record _ => true
  | .restart _ => true
  | .opNotAssigned _ => true
  | .switchRequest _ _ => true
  | .firmwareSwitch _ => true
  | .alive _ => true
  | .accept _ => true
  | .rollback _ => true
  | .getVersion => true
  | .getCapabilities _ => true
  | .negotiateAlgorithms _ _ => true
  | .getDigests => true
  | .getCertificate _ _ _ => true
  | .challenge _ _ => true
  | .getMeasurements _ _ => true
  | .accessionRecordWrite _ _ _ => true
  | .retainedImageFault _ => true
  | .tileFailsSelfTest _ _ => true

/-- The encoding checks that need the number of the issuing core (R56, R71): a `bgive` to the strand's own core and a
`blend` that lends to it are illegal instructions. -/
def Instr.legalOn (core : BitVec 2) : Instr → Bool
  | .bgive _ c _ => decide (c ≠ core)
  | .blend _ _ mask => !(mask.getLsbD core.toNat)
  | .movi _ _ _ => true
  | .movhi _ _ _ _ => true
  | .add _ => true
  | .addi _ => true
  | .sub _ => true
  | .and _ => true
  | .andi _ => true
  | .or _ => true
  | .ori _ => true
  | .xor _ => true
  | .xori _ => true
  | .andn _ => true
  | .mul _ => true
  | .mulh _ => true
  | .mulhn _ => true
  | .div _ => true
  | .divn _ => true
  | .rem _ => true
  | .remn _ => true
  | .shl _ => true
  | .shli _ => true
  | .shr _ => true
  | .shri _ => true
  | .sra _ => true
  | .srai _ => true
  | .rol _ => true
  | .min _ => true
  | .max _ => true
  | .minn _ => true
  | .maxn _ => true
  | .ceq _ => true
  | .cne _ => true
  | .clt _ => true
  | .cltn _ => true
  | .cle _ => true
  | .clen _ => true
  | .ceqi _ => true
  | .clti _ => true
  | .sel _ => true
  | .clz _ => true
  | .ctz _ => true
  | .popc _ => true
  | .bfx _ => true
  | .bfxs _ => true
  | .bfi _ _ _ _ _ _ => true
  | .aadd _ => true
  | .aaddi _ => true
  | .asub _ => true
  | .amk _ => true
  | .ahi _ => true
  | .alo _ => true
  | .kset _ => true
  | .kget _ => true
  | .fadd _ => true
  | .fsub _ => true
  | .fmul _ => true
  | .fmin _ => true
  | .fmax _ => true
  | .fabs _ => true
  | .fneg _ => true
  | .fma _ => true
  | .fms _ => true
  | .fnma _ => true
  | .frcp _ => true
  | .frsq _ => true
  | .fexp2 _ => true
  | .flog2 _ => true
  | .dot2 _ => true
  | .fcmpEq _ => true
  | .fcmpNe _ => true
  | .fcmpLt _ => true
  | .fcmpLe _ => true
  | .fcmpUn _ => true
  | .iadd _ _ => true
  | .isub _ _ => true
  | .imul _ _ => true
  | .imulh _ => true
  | .imad _ _ => true
  | .iand _ => true
  | .ior _ => true
  | .ixor _ => true
  | .imin _ => true
  | .imax _ => true
  | .ishl _ => true
  | .ishr _ => true
  | .isra _ => true
  | .icmpEq _ => true
  | .icmpNe _ => true
  | .icmpLt _ => true
  | .icmpLe _ => true
  | .vsel _ => true
  | .vbc _ => true
  | .vmov _ => true
  | .vmovi _ _ _ _ _ => true
  | .vext _ => true
  | .vins _ => true
  | .vperm _ => true
  | .vrot _ => true
  | .vzip _ => true
  | .vunzip _ => true
  | .vsum _ => true
  | .vmaxr _ => true
  | .kand _ => true
  | .kor _ => true
  | .kxor _ => true
  | .knot _ => true
  | .kcnt _ => true
  | .ldB _ => true
  | .ldBn _ => true
  | .ldH _ => true
  | .ldHn _ => true
  | .ldW _ => true
  | .stB _ => true
  | .stH _ => true
  | .stW _ => true
  | .vldRow _ => true
  | .vldCol _ _ => true
  | .vstRow _ => true
  | .vstCol _ _ => true
  | .vld2 _ _ => true
  | .vst2 _ _ => true
  | .vlddRow _ => true
  | .vlddCol _ => true
  | .vgt _ _ => true
  | .vgt2 _ _ => true
  | .vsc _ _ => true
  | .amoAdd _ => true
  | .amoAnd _ => true
  | .amoOr _ => true
  | .amoXor _ => true
  | .amoMin _ => true
  | .amoMax _ => true
  | .amoXchg _ => true
  | .amoCas _ _ => true
  | .redF32 _ => true
  | .redS32 _ => true
  | .cvt _ => true
  | .qblk _ => true
  | .dqblk _ => true
  | .vpk _ => true
  | .vupk _ _ _ _ => true
  | .rngSeed _ _ _ => true
  | .rngPop _ _ => true
  | .spush _ _ _ => true
  | .spop _ _ _ => true
  | .scnt _ _ _ => true
  | .sreset _ _ => true
  | .bback _ => true
  | .brot _ => true
  | .brotRev _ => true
  | .bmap _ _ _ => true
  | .bfmt _ _ => true
  | .bzero _ => true
  | .bcopy _ _ _ _ => true
  | .mclaim _ => true
  | .mrel _ => true
  | .mstageRow _ => true
  | .mstageCol _ _ => true
  | .mshape _ _ _ _ => true
  | .mma _ _ _ _ _ => true
  | .maccRd _ _ _ _ => true
  | .maccZero _ => true
  | .mqnt _ _ _ => true
  | .xsendLo _ _ => true
  | .xsendHi _ _ => true
  | .xrecvLo _ _ => true
  | .xrecvHi _ _ => true
  | .xland _ _ => true
  | .xtag _ _ => true
  | .xpoll _ _ => true
  | .tkalign => true
  | .tkhold _ => true
  | .stgSet _ _ _ => true
  | .readToBank _ => true
  | .readToLandingBuffer _ => true
  | .write _ => true
  | .trackedWrite _ => true
  | .stgRd _ _ _ => true
  | .tlWait _ _ => true
  | .tlRd _ _ => true
  | .nop => true
  | .br _ => true
  | .brz _ _ => true
  | .brnz _ _ => true
  | .brk _ _ => true
  | .call _ _ => true
  | .ret _ _ => true
  | .loop _ _ => true
  | .halt _ => true
  | .tkawait _ _ => true
  | .gate _ => true
  | .wsplit _ _ _ => true
  | .wret _ _ => true
  | .jcbAdd _ _ => true
  | .jcbPost _ => true
  | .npreOn _ => true
  | .npreOff _ => true
  | .trap _ => true
  | .svc _ => true
  | .brkpt _ => true
  | .iret => true
  | .crget _ _ _ => true
  | .crset _ _ _ => true
  | .openSpanEntry _ => true
  | .fenceAcq _ _ => true
  | .fenceRel _ _ => true
  | .fenceAr _ _ => true
  | .fenceSc _ _ => true
  | .waitaEq _ _ => true
  | .waitaNe _ _ => true
  | .waitaGen _ _ => true
  | .barArr _ => true
  | .barWait _ => true
  | .barSync _ => true
  | .waitFormIssue _ => true
  | .tkawaitIssue _ => true
  | .resultLanding _ _ => true
  | .runEnd _ => true
  | .bankCommit _ _ _ _ => true
  | .mapChangeEffect _ _ => true
  | .formatChangeEffect _ _ _ => true
  | .reductionApply _ => true
  | .stageRowTransfer _ _ => true
  | .mmaStart _ _ => true
  | .mmaGroupAdd _ _ _ _ => true
  | .mmaBlockWrite _ _ _ => true
  | .mmaCompletion _ _ => true
  | .arraySend _ _ => true
  | .operandRowDeposit _ _ _ _ => true
  | .flitArrival _ _ _ => true
  | .flitRelease _ _ => true
  | .landedFlitDue _ _ _ => true
  | .landingLost _ _ _ => true
  | .holdDelivery _ _ _ => true
  | .holdEnd _ => true
  | .voltageDroop _ _ => true
  | .localTrimUpdate _ => true
  | .waferTrimUpdate _ => true
  | .deadbandSlewSet _ _ => true
  | .throttle _ => true
  | .railChange _ _ _ => true
  | .countUpset _ _ => true
  | .bitUpset _ _ => true
  | .alignment _ => true
  | .peerLinkLoss _ => true
  | .gateRelease _ _ => true
  | .gateTimeout _ _ => true
  | .barrierPhaseCompletion _ _ => true
  | .barrierTimeout _ _ => true
  | .nonPreEmptibleCap _ => true
  | .weightArrival _ _ _ => true
  | .jcbTotalArrival _ _ => true
  | .jcbPostArrival _ => true
  | .strandRetirement _ => true
  | .claimEvaluation _ => true
  | .commandActivation _ => true
  | .readLineRequest _ _ _ => true
  | .stagingFlitRelease _ _ _ => true
  | .stagingDeposit _ _ _ => true
  | .stagingSourceRead _ _ _ => true
  | .stagingWriteFlit _ _ _ => true
  | .stagingWriteCommit _ _ => true
  | .trackerFire _ => true
  | .timelineAdvance _ => true
  | .flagWrite _ _ => true
  | .fatalStop _ => true
  | .uncorrectableHalt _ => true
  | .preemptionStop _ => true
  | .selfTestMove _ _ _ => true
  | .selfTestMoveBack _ _ => true
  | .abortStop _ => true
  | .claimRelease _ => true
  | .powerOn _ => true
  | .hostFarWrite _ _ => true
  | .hostFarRead _ _ => true
  | .qnotifyWrite _ _ => true
  | .hostRegisterWrite _ _ => true
  | .packetRead _ => true
  | .fleetLaunch _ _ => true
  | .managementSidebandMessage _ => true
  | .load _ => true
  | .evict _ => true
  | .lease _ => true
  | .unlease _ => true
  | .unleaseEffect _ => true
  | .queueEnable _ => true
  | .queueDisable _ => true
  | .queueDisableDrain _ => true
  | .invtlb _ => true
  | .preempt _ => true
  | .resume _ => true
  | .abort _ => true
  | .fwload _ => true
  | .record _ => true
  | .restart _ => true
  | .opNotAssigned _ => true
  | .switchRequest _ _ => true
  | .firmwareSwitch _ => true
  | .alive _ => true
  | .accept _ => true
  | .rollback _ => true
  | .getVersion => true
  | .getCapabilities _ => true
  | .negotiateAlgorithms _ _ => true
  | .getDigests => true
  | .getCertificate _ _ _ => true
  | .challenge _ _ => true
  | .getMeasurements _ _ => true
  | .accessionRecordWrite _ _ _ => true
  | .retainedImageFault _ => true
  | .tileFailsSelfTest _ _ => true

end Sys2Proof
end

