-- ==== Sys2Proof/Machine/Num.lean ====
section
/-!
DEFINITION. Number formats, rounding and conversion (spec/06 R139 to R153), the exact arithmetic under the vector and
matrix forms (spec/07 R171 to R184, spec/09 R241, R242), and the mixing function of the random bits (spec/06 R155).
-/

namespace Sys2Proof.Machine

/-! ## Exact values -/

/-- An exact value (R145): NaN, an infinity, or the dyadic number (-1)^neg * m * 2^e; m = 0 is a signed zero. -/
inductive Num where
  | nan
  | inf (neg : Bool)
  | fin (neg : Bool) (m : Nat) (e : Int)
  deriving DecidableEq, Repr

/-- The parameters of a floating format (R140, R142, R143): trailing bits, bias, the sign's bit place when it is signed,
and the magnitude codes of its largest finite value, its infinity and its NaN. -/
structure FloatSpec where
  t : Nat
  bias : Nat
  sign : Option Nat
  maxCode : Nat
  infCode : Option Nat
  nanCode : Nat
  negZero : Bool
  deriving DecidableEq, Repr

/-- P of R142. -/
def precNum : Prec → Nat
  | .p1 => 1 | .p2 => 2 | .p3 => 3 | .p4 => 4 | .p5 => 5 | .p6 => 6 | .p7 => 7

def floatSpec : FTy → FloatSpec
  | .fp32 => ⟨23, 127, some 31, 0x7F7FFFFF, some 0x7F800000, 0x7FC00000, true⟩
  | .bf16 => ⟨7, 127, some 15, 0x7F7F, some 0x7F80, 0x7FC0, true⟩
  | .fp16 => ⟨10, 15, some 15, 0x7BFF, some 0x7C00, 0x7E00, true⟩

def famSpec (f : Fam) : FloatSpec :=
  let p := precNum f.p
  if f.uns then ⟨p - 1, 2 ^ (8 - p), none, if f.ext then 0xFD else 0xFE, if f.ext then some 0xFE else none, 0xFF, false⟩
  else ⟨p - 1, 2 ^ (7 - p), some 7, if f.ext then 0x7E else 0x7F, if f.ext then some 0x7F else none, 0x80, false⟩

/-- The exact value of a magnitude code (R142). -/
def FloatSpec.magnitude (s : FloatSpec) (neg : Bool) (c : Nat) : Num :=
  let e := c >>> s.t
  let f := c % 2 ^ s.t
  if e = 0 then .fin neg f (1 - s.bias - s.t) else .fin neg (2 ^ s.t + f) ((e : Int) - s.bias - s.t)

/-- The exact value of a code (R140, R142, R143, R145). -/
def FloatSpec.decode (s : FloatSpec) (c : Nat) : Num :=
  match s.sign with
  | none =>
    if c = s.nanCode then .nan
    else if s.infCode = some c then .inf false
    else s.magnitude false c
  | some b =>
    let neg := c.testBit b
    let m := c % 2 ^ b
    if s.negZero then
      if m > s.infCode.getD 0 then .nan
      else if s.infCode = some m then .inf neg
      else s.magnitude neg m
    else if c = s.nanCode then .nan
    else if s.infCode = some m then .inf neg
    else s.magnitude neg m

/-- An integer as an exact value. -/
def numOfInt (v : Int) : Num := .fin (decide (v < 0)) v.natAbs 0

/-- The integer of a code of `w` bits (R141). -/
def intOfCode (signed : Bool) (w c : Nat) : Int :=
  if signed && c.testBit (w - 1) then (c : Int) - 2 ^ w else c

/-- The format's parameters, when it is a floating one. -/
def floatSpecOf : Fmt → Option FloatSpec
  | .flt t => some (floatSpec t)
  | .fam f => some (famSpec f)
  | .int _ => none

/-- R145. -/
def decodeNum (f : Fmt) (c : Nat) : Num :=
  match f with
  | .flt t => (floatSpec t).decode c
  | .fam t => (famSpec t).decode c
  | .int t => numOfInt (intOfCode t.signed (8 * t.size.bytes) c)

/-! ## Rounding (R147, R148) -/

/-- A magnitude on or above `m * 2^e`, strictly above it and below the next multiple when `sticky`. -/
structure Mag where
  m : Nat
  e : Int
  sticky : Bool
  deriving DecidableEq, Repr

/-- Whether the magnitude between the grid points `lo` and `lo + 1` rounds up: `rem` of `2^s`, sticky, evenness of the
lower point, sign, mode and random bits (R147, R148). -/
def roundsUp (mode : Rnd) (neg loEven : Bool) (rem s : Nat) (sticky : Bool) (rb : Nat) : Bool :=
  let inexact := rem != 0 || sticky
  let twice := 2 * rem
  let above := decide (twice > 2 ^ s) || (decide (twice = 2 ^ s) && sticky)
  let tie := decide (twice = 2 ^ s) && !sticky
  match mode with
  | .rne => above || (tie && !loEven)
  | .rna => above || tie
  | .rtz => false
  | .rup => inexact && !neg
  | .rdn => inexact && neg
  | .sto8 => inexact && decide ((rem <<< 8) >>> s + rb ≥ 2 ^ 8)
  | .sto16 => inexact && decide ((rem <<< 16) >>> s + rb ≥ 2 ^ 16)

/-- Rounds a magnitude to a multiple of `2^q`; `even` says whether a lower multiple counts as even. -/
def roundAt (mode : Rnd) (neg : Bool) (x : Mag) (q : Int) (even : Nat → Bool) (rb : Nat) : Nat :=
  let s := q - x.e
  if s ≤ 0 then x.m <<< (-s).toNat
  else
    let k := s.toNat
    let lo := x.m >>> k
    if roundsUp mode neg (even lo) (x.m % 2 ^ k) k x.sticky rb then lo + 1 else lo

/-- floor(log2 m) for m > 0. -/
def log2floor (m : Nat) : Nat := Nat.log2 m

/-- Rounds a non-zero magnitude to the grid of a floating format with its exponent range unbounded above, and gives its
magnitude code, also unbounded above (R147, R149). -/
def FloatSpec.roundCode (s : FloatSpec) (mode : Rnd) (neg : Bool) (x : Mag) (rb : Nat) : Nat :=
  let emin : Int := 1 - s.bias
  let top : Int := x.e + (log2floor x.m : Int)
  let q : Int := max (top - s.t) (emin - s.t)
  let even := fun lo => if s.t = 0 ∧ lo ≠ 0 then (q + s.bias) % 2 = 0 else lo % 2 == 0
  let r := roundAt mode neg x q even rb
  let (r, q) := if r = 2 ^ (s.t + 1) then (2 ^ s.t, q + 1) else (r, q)
  if r < 2 ^ s.t then r
  else ((q + s.t + s.bias).toNat <<< s.t) + (r - 2 ^ s.t)

/-- A magnitude code with its sign. -/
def FloatSpec.withSign (s : FloatSpec) (neg : Bool) (c : Nat) : Nat :=
  match s.sign with
  | some b => if neg then c + 2 ^ b else c
  | none => c

/-- The signed zero of a format, where it has one (R146, R149). -/
def FloatSpec.zeroCode (s : FloatSpec) (neg : Bool) : Nat := if s.negZero then s.withSign neg 0 else 0

/-- What an overflow becomes (R149). -/
def FloatSpec.overflow (s : FloatSpec) (mode : Rnd) (sat neg : Bool) : Nat :=
  let largest := s.withSign neg s.maxCode
  if sat then largest
  else match s.infCode with
    | none => s.nanCode
    | some i =>
      let infinite := s.withSign neg i
      match mode with
      | .rne | .rna | .sto8 | .sto16 => infinite
      | .rtz => largest
      | .rup => if neg then largest else infinite
      | .rdn => if neg then infinite else largest

/-- Rounds a signed magnitude into a floating format (R147 to R150). -/
def FloatSpec.encodeMag (s : FloatSpec) (mode : Rnd) (sat neg : Bool) (x : Mag) (rb : Nat) : Nat :=
  if x.m = 0 ∧ x.sticky = false then s.zeroCode neg
  else if neg ∧ s.sign = none then (if sat then 0 else s.nanCode)
  else
    let c := s.roundCode mode neg x rb
    if c = 0 then s.zeroCode neg
    else if c > s.maxCode then s.overflow mode sat neg
    else s.withSign neg c

/-- Converts an exact value into a floating format (R146 to R150). -/
def FloatSpec.encode (s : FloatSpec) (mode : Rnd) (sat : Bool) (x : Num) (rb : Nat) : Nat :=
  match x with
  | .nan => s.nanCode
  | .inf neg =>
    match s.sign, s.infCode with
    | none, none => if sat then (if neg then 0 else s.maxCode) else s.nanCode
    | none, some i => if neg then (if sat then 0 else s.nanCode) else i
    | some _, some i => s.withSign neg i
    | some _, none => if sat then s.withSign neg s.maxCode else s.nanCode
  | .fin neg m e => s.encodeMag mode sat neg ⟨m, e, false⟩ rb

/-- The least and greatest integer of a format (R141). -/
def intRange (signed : Bool) (w : Nat) : Int × Int :=
  if signed then (-(2 ^ (w - 1)), 2 ^ (w - 1) - 1) else (0, 2 ^ w - 1)

/-- The code of an integer, modulo 2^w. -/
def codeOfInt (w : Nat) (v : Int) : Nat := (v % 2 ^ w).toNat

/-- An integer clamped to a range. -/
def clampInt (lo hi v : Int) : Int := if v < lo then lo else if v > hi then hi else v

/-- The indefinite value (R151). -/
def indefinite (signed : Bool) (w : Nat) : Nat := if signed then 2 ^ (w - 1) else 2 ^ w - 1

/-- Converts an exact value from a floating source into an integer format (R151). -/
def intFromNum (t : ITy) (mode : Rnd) (sat : Bool) (x : Num) (rb : Nat) : Nat :=
  let w := 8 * t.size.bytes
  let r := intRange t.signed w
  match x with
  | .nan => if sat then 0 else indefinite t.signed w
  | .inf neg => if sat then codeOfInt w (if neg then r.1 else r.2) else indefinite t.signed w
  | .fin neg m e =>
    let k := roundAt mode neg ⟨m, e, false⟩ 0 (fun lo => lo % 2 == 0) rb
    let v : Int := if neg then -(k : Int) else k
    if v < r.1 ∨ r.2 < v then (if sat then codeOfInt w (clampInt r.1 r.2 v) else indefinite t.signed w)
    else codeOfInt w v

/-- The conversion procedure (R145 to R152): a code of `ff` to a code of `tf`, with the element's random bits. -/
def convert (ff tf : Fmt) (mode : Rnd) (sat : Bool) (c : Nat) (rb : Nat) : Nat :=
  match ff, tf with
  | .int s, .int t =>
    let v := intOfCode s.signed (8 * s.size.bytes) c
    let w := 8 * t.size.bytes
    if sat then codeOfInt w (clampInt (intRange t.signed w).1 (intRange t.signed w).2 v) else codeOfInt w v
  | ff, .int t => intFromNum t mode sat (decodeNum ff c) rb
  | ff, .flt t => (floatSpec t).encode mode sat (decodeNum ff c) rb
  | ff, .fam t => (famSpec t).encode mode sat (decodeNum ff c) rb

/-- Converts an exact value into any format; used where the source is not a code (R165, R166). -/
def encodeNum (tf : Fmt) (mode : Rnd) (sat : Bool) (x : Num) (rb : Nat) : Nat :=
  match tf with
  | .flt t => (floatSpec t).encode mode sat x rb
  | .fam t => (famSpec t).encode mode sat x rb
  | .int t => intFromNum t mode sat x rb

/-- The canonical NaN of a floating format (R60). -/
def canonNaN : Fmt → Nat
  | .flt t => (floatSpec t).nanCode
  | .fam t => (famSpec t).nanCode
  | .int _ => 0

/-! ## Exact arithmetic (R171) -/

/-- The signed significand of a finite value at the exponent `e0`, which is at most its own. -/
def alignTo (e0 : Int) (neg : Bool) (m : Nat) (e : Int) : Int :=
  let v : Int := (m <<< (e - e0).toNat : Nat)
  if neg then -v else v

def Num.neg : Num → Num
  | .nan => .nan
  | .inf n => .inf !n
  | .fin n m e => .fin (!n) m e

/-- Exact sum; an exact zero of opposite signs is +0 (R171). -/
def Num.add : Num → Num → Num
  | .nan, _ => .nan
  | _, .nan => .nan
  | .inf a, .inf b => if a = b then .inf a else .nan
  | .inf a, .fin _ _ _ => .inf a
  | .fin _ _ _, .inf b => .inf b
  | .fin na ma ea, .fin nb mb eb =>
    let e0 := min ea eb
    let s := alignTo e0 na ma ea + alignTo e0 nb mb eb
    if s = 0 then .fin (na && nb) 0 0 else .fin (decide (s < 0)) s.natAbs e0

/-- Exact product; 0 times infinity is invalid (R171). -/
def Num.mul : Num → Num → Num
  | .nan, _ => .nan
  | _, .nan => .nan
  | .inf a, .inf b => .inf (a != b)
  | .inf a, .fin nb mb _ => if mb = 0 then .nan else .inf (a != nb)
  | .fin na ma _, .inf b => if ma = 0 then .nan else .inf (na != b)
  | .fin na ma ea, .fin nb mb eb => .fin (na != nb) (ma * mb) (ea + eb)

/-- The value times a power of two. -/
def Num.scale (k : Int) : Num → Num
  | .nan => .nan
  | .inf n => .inf n
  | .fin n m e => .fin n m (e + k)

/-- Rounds an exact value to a floating type under rne, overflow to infinity (R171). -/
def roundNum (t : FTy) (x : Num) : Nat := (floatSpec t).encode .rne false x 0

/-- The order of two values that are not NaN: less, equal (zeros of both signs equal), greater. -/
def Num.cmp : Num → Num → Option Ordering
  | .nan, _ => none
  | _, .nan => none
  | .inf a, .inf b => some (if a = b then .eq else if a then .lt else .gt)
  | .inf a, .fin _ _ _ => some (if a then .lt else .gt)
  | .fin _ _ _, .inf b => some (if b then .gt else .lt)
  | .fin na ma ea, .fin nb mb eb =>
    let e0 := min ea eb
    some (compare (alignTo e0 na ma ea) (alignTo e0 nb mb eb))

/-- Whether a finite value or infinity carries a minus sign. -/
def Num.isNeg : Num → Bool
  | .nan => false
  | .inf n => n
  | .fin n _ _ => n

def Num.isNaN : Num → Bool
  | .nan => true
  | .inf _ => false
  | .fin _ _ _ => false

def Num.isInf : Num → Bool
  | .inf _ => true
  | .nan => false
  | .fin _ _ _ => false

def Num.isZero : Num → Bool
  | .fin _ m _ => m == 0
  | .nan => false
  | .inf _ => false

/-- The lesser code, -0 below +0, canonical NaN if either is NaN (R172). -/
def fminCode (f : Fmt) (a b : Nat) : Nat :=
  match (decodeNum f a).cmp (decodeNum f b) with
  | none => canonNaN f
  | some .lt => a
  | some .gt => b
  | some .eq => if (decodeNum f a).isNeg then a else b

/-- The greater code, +0 above -0, canonical NaN if either is NaN (R172). -/
def fmaxCode (f : Fmt) (a b : Nat) : Nat :=
  match (decodeNum f a).cmp (decodeNum f b) with
  | none => canonNaN f
  | some .lt => b
  | some .gt => a
  | some .eq => if (decodeNum f a).isNeg then b else a

/-! ## Transcendental forms (R174) -/

/-- floor(sqrt n) for n < 4^bits, bit by bit. -/
def isqrtAux (n : Nat) : Nat → Nat → Nat
  | 0, r => r
  | k + 1, r => if (r + 2 ^ k) * (r + 2 ^ k) ≤ n then isqrtAux n k (r + 2 ^ k) else isqrtAux n k r

def isqrt (n : Nat) : Nat := isqrtAux n (log2floor n / 2 + 1) 0

/-- 1/(m * 2^e) with 64 bits more than m has. -/
def rcpMag (m : Nat) (e : Int) : Mag :=
  let k := log2floor m + 64
  ⟨2 ^ k / m, -e - k, 2 ^ k % m != 0⟩

/-- 1/sqrt(m * 2^e). -/
def rsqMag (m : Nat) (e : Int) : Mag :=
  let m' := if e % 2 = 0 then m else 2 * m
  let e' := if e % 2 = 0 then e else e - 1
  let k := log2floor m' + 64
  let r := isqrt (2 ^ (2 * k) / m')
  ⟨r, -(e' / 2) - k, r * r * m' != 2 ^ (2 * k)⟩

/-- 2^f in fixed point with `p` fraction bits, f = the low `n` bits of `fr` over 2^n: the product of the successive
square roots of two that f's bits select. -/
def exp2Frac (p : Nat) (fr : Nat) : Nat → Nat → Nat → Nat
  | 0, _, acc => acc
  | n + 1, root, acc =>
    let root' := isqrt (root <<< p)
    exp2Frac p fr n root' (if fr.testBit n then (acc * root') >>> p else acc)

/-- 2^x for finite x, as a magnitude. Beyond 2^12 in magnitude the result is beyond every format; below 2^-40 it rounds
to 1. DEDUCED: notes/assumptions/13.md. -/
def exp2Mag (neg : Bool) (m : Nat) (e : Int) : Mag :=
  if m = 0 then ⟨1, 0, false⟩
  else
    let top := e + (log2floor m : Int)
    if top ≥ 12 then ⟨1, if neg then -8192 else 8192, false⟩
    else if top < -40 then ⟨1, 0, false⟩
    else
      let n := (-e).toNat
      let v : Int := if neg then -((m <<< e.toNat : Nat) : Int) else (m <<< e.toNat : Nat)
      let ip := v / 2 ^ n
      let fr := (v % 2 ^ n).toNat
      if fr = 0 then ⟨1, ip, false⟩
      else ⟨exp2Frac 160 fr n (2 ^ 161) (2 ^ 160), ip - 160, true⟩

/-- The first `n` fraction bits of log2 y, y in [1, 2) in fixed point with `p` fraction bits, by repeated squaring. -/
def log2Frac (p : Nat) : Nat → Nat → Nat → Nat
  | 0, _, acc => acc
  | n + 1, y, acc =>
    let y2 := (y * y) >>> p
    if y2 ≥ 2 ^ (p + 1) then log2Frac p n (y2 >>> 1) (2 * acc + 1) else log2Frac p n y2 (2 * acc)

/-- log2 (m * 2^e) for m > 0: its sign and magnitude. DEDUCED: notes/assumptions/13.md. -/
def log2Mag (m : Nat) (e : Int) : Bool × Mag :=
  let k := log2floor m
  let ip : Int := e + k
  if m = 2 ^ k then (decide (ip < 0), ⟨ip.natAbs, 0, false⟩)
  else
    let v : Int := ip * 2 ^ 100 + (log2Frac 320 100 (m <<< (320 - k)) 0 : Nat)
    if v < 0 then (true, ⟨(-v - 1).toNat, -100, true⟩) else (false, ⟨v.toNat, -100, true⟩)

/-- R174. -/
def frcpCode (t : FTy) (c : Nat) : Nat :=
  let s := floatSpec t
  match s.decode c with
  | .nan => s.nanCode
  | .inf n => s.zeroCode n
  | .fin n m e => if m = 0 then s.encode .rne false (.inf n) 0 else s.encodeMag .rne false n (rcpMag m e) 0

/-- R174. -/
def frsqCode (t : FTy) (c : Nat) : Nat :=
  let s := floatSpec t
  match s.decode c with
  | .nan => s.nanCode
  | .inf n => if n then s.nanCode else s.zeroCode false
  | .fin n m e =>
    if m = 0 then s.encode .rne false (.inf n) 0
    else if n then s.nanCode else s.encodeMag .rne false false (rsqMag m e) 0

/-- R174. -/
def fexp2Code (t : FTy) (c : Nat) : Nat :=
  let s := floatSpec t
  match s.decode c with
  | .nan => s.nanCode
  | .inf n => if n then s.zeroCode false else s.encode .rne false (.inf false) 0
  | .fin n m e => s.encodeMag .rne false false (exp2Mag n m e) 0

/-- R174. -/
def flog2Code (t : FTy) (c : Nat) : Nat :=
  let s := floatSpec t
  match s.decode c with
  | .nan => s.nanCode
  | .inf n => if n then s.nanCode else s.encode .rne false (.inf false) 0
  | .fin n m e =>
    if m = 0 then s.encode .rne false (.inf true) 0
    else if n then s.nanCode
    else s.encodeMag .rne false (log2Mag m e).1 (log2Mag m e).2 0

/-! ## The sum of a group (R241, R242) -/

/-- One product of a group: its exact value and its product exponent eA + eB. -/
structure Product where
  val : Num
  exp : Int
  deriving DecidableEq, Repr

/-- A product of two decoded operands; the exponent of an operand is that of its format's grid (R241). -/
def mkProduct (sa sb : FloatSpec) (a b : Num) : Product :=
  match a, b with
  | .fin _ _ ea, .fin _ _ eb => ⟨a.mul b, ea + sa.t + (eb + sb.t)⟩
  | _, _ => ⟨a.mul b, 0⟩

/-- The aligned, truncated sum of a group's products, or its special value (R241, R242). -/
def groupValue (fw : Nat) (ps : List Product) : Num :=
  if ps.any (fun p => p.val.isNaN) then .nan
  else
    let infs := (ps.filter fun p => p.val.isInf).map fun p => p.val.isNeg
    match infs with
    | n :: rest => if rest.all (fun m => m == n) then .inf n else .nan
    | [] =>
      let live := ps.filter fun p => !p.val.isZero
      match live with
      | [] => .fin false 0 0
      | p :: rest =>
        let e := rest.foldl (fun acc q => max acc q.exp) p.exp
        let term : Product → Int := fun q =>
          match q.val with
          | .fin n m x =>
            let sh := x + fw - e
            let v : Int := if n then -(m : Int) else m
            if sh ≥ 0 then v * 2 ^ sh.toNat else v / 2 ^ (-sh).toNat
          | _ => 0
        let sum : Int := live.foldl (fun acc q => acc + term q) 0
        .fin (decide (sum < 0)) sum.natAbs (e - fw)

/-- Adds a group value to an accumulator element, rounding once (R241). -/
def accumulate (v : BitVec 32) (g : Num) : BitVec 32 :=
  BitVec.ofNat 32 (roundNum .fp32 ((decodeNum (.flt .fp32) v.toNat).add g))

/-! ## Random bits (R155) -/

/-- R155. -/
def mix (k c : BitVec 64) : BitVec 64 :=
  let z := c ^^^ k
  let z := z + 0x6A1DC3B52E97F04B#64
  let z := (z ^^^ (z >>> 29)) * 0x8F3A2C61D5B70E93#64
  let z := (z ^^^ (z >>> 32)) * 0x5C1E97A34B2DF6C5#64
  z ^^^ (z >>> 29)

/-- Word `m` of key `K` (R154). -/
def rngWord (key m : BitVec 64) : BitVec 32 := (mix key m).extractLsb' 32 32

/-- The random bits of output element `i` for a mode (R157). -/
def randomBits (mode : Rnd) (w : BitVec 32) (i : Nat) : Nat :=
  let e := mix (w.setWidth 64) (BitVec.ofNat 64 i)
  match mode with
  | .sto8 => (e.extractLsb' 56 8).toNat
  | .sto16 => (e.extractLsb' 48 16).toNat
  | _ => 0

/-- Whether a mode draws random bits (R156). -/
def stochastic : Rnd → Bool
  | .sto8 | .sto16 => true
  | .rne | .rtz | .rup | .rdn | .rna => false

/-- emax of a family format (R144): the exponent of its largest finite value. -/
def famEmax (f : Fam) : Int :=
  match (famSpec f).magnitude false (famSpec f).maxCode with
  | .fin _ m e => e + (log2floor m : Int)
  | _ => 0

end Sys2Proof.Machine
end

