-- ==== Sys2Proof/Config.lean ====
section
/-!
DEFINITION. What the spec leaves open and the machine goes on: free values, each an opaque constant with no body
(notes/assumptions/5.md). No statement rests on a value of one.
-/

namespace Sys2Proof.Config

/-- The two signing keys: Actowald's firmware key and the operator's model key (spec/14 R371). -/
inductive SigningKey where
  | firmware | model
  deriving DecidableEq, Repr

/-- Whether an RSASSA-PSS signature block verifies under a key (spec/14 R371). The scheme itself is not stated by the spec;
the arguments are the key, the signed bytes' SHA-256 digest and the block. UNVERIFIED, a free value (log entry 6). -/
opaque signatureValid : SigningKey → BitVec 256 → List Byte → Bool

/-- The certificate of a signing key, and the SHA-256 digest of the root key that is fused into the module (spec/14 R371):
byte strings that the spec does not give. -/
opaque keyCertificate : SigningKey → List Byte
opaque rootKeyDigest : BitVec 256

/-- Whether a certificate chains to the root key of a digest (spec/14 R371, log entry 6). -/
opaque chainsTo : List Byte → BitVec 256 → Bool

/-- The version of a firmware image, and the format version of the hand-over records that it writes (spec/14 R375): the
images' own, named by their digests. -/
opaque firmwareVersion : BitVec 256 → BitVec 32
opaque recordFormat : BitVec 256 → BitVec 8

/-- Whether an image knows a section type of a hand-over record in a format version (spec/14 R375). -/
opaque knowsSection : BitVec 256 → BitVec 16 → BitVec 8 → Bool

/-- The digest of an image that the boot ROM finds in a half (spec/14 R370): the arguments are the controller's number and
whether it is the retained half. -/
opaque bootImage : Nat → Bool → Nat → BitVec 256

/-- What an upset of three or more bits does to the word read (spec/13 R403): detected as a failure (`none`) or passed
with bits that differ (`some`). The arguments are the stored word and the flip mask over 64 data and 8 check bits. -/
opaque upsetOutcome : BitVec 64 → BitVec 72 → Option (BitVec 64)

/-- The nanoseconds of wall time after a number of machine cycles (spec/13 R349 `cr.wclk`, spec/01 R23). -/
opaque wallNanoseconds : Nat → BitVec 64

/-- A byte string the SPDM responder sends that the spec does not give (certificates, signatures, nonces): spec/14
R372. The arguments are the request code and a counter of the state. -/
opaque spdmBytes : Nat → Nat → List Byte

/-- Whether an engine that misses no longer holds an old translation it may still use (spec/11 R295): `true` drops a
held entry. The argument is a counter of the state. -/
opaque tlbDrops : Nat → Bool

/-- The cycles by which the memory delivers a line late (spec/01 R22, spec/11 R304): 0 when it is in time. The argument is
a counter of the state. -/
opaque lateLine : Nat → Nat

/-- The digest of a firmware image or of data that the spec measures and does not give (spec/14 R370, R372). The
arguments are the measurement index and a counter of the state. -/
opaque bootDigest : Nat → Nat → BitVec 256

/-- The refresh and retry state of an engine that its outgoing firmware hands over (spec/14 R375): the memory's own, which the
spec does not give. The arguments are the engine and a counter of the state. -/
opaque refreshState : Nat → Nat → BitVec 64

/-- What the curator's core reads outside its own memory, where the spec gives its control paths no addresses (spec/01 R35). The
argument is a counter of the state. -/
opaque curatorBus : Nat → BitVec 32

/-- Where the curator puts a page table or the frame of a page that it maps for a lease (spec/14 R365, spec/11 R297), and
whether granule tags are checked there: the spec gives neither. The argument is a counter of the state. -/
opaque leaseFrame : Nat → Nat
opaque leaseTags : Nat → Bool

/-- The physical latency of a peer link in ticks (spec/10 R277): a property of the fleet's joining, by peer port. -/
opaque peerLatency : Nat → Nat

end Sys2Proof.Config
end

