-- ==== Sys2Proof/Decode.lean ====
section
/-!
DEFINITION. The encoder and the decoder of bundles and syllables, from the layouts and the opcode map of
spec/02_bundles_and_opcode_map.md (R42 to R74).
-/

namespace Sys2Proof

/-! ## Codes -/

def SlotClass.index : SlotClass → Nat
  | .s0 => 0 | .s1 => 1 | .v0 => 2 | .v1 => 3 | .m => 4 | .x => 5 | .e => 6 | .c => 7

/-- The classes in header-bit order (R42). -/
def SlotClass.all : List SlotClass := [.s0, .s1, .v0, .v1, .m, .x, .e, .c]

def SSlot.cls : SSlot → SlotClass
  | .s0 => .s0 | .s1 => .s1

def VSlot.cls : VSlot → SlotClass
  | .v0 => .v0 | .v1 => .v1

/-- R48. -/
def Latch.code : Latch → BitVec 3
  | .sa => 0 | .sb => 1 | .va => 2 | .vb => 3 | .ld => 4 | .cv => 5 | .mx => 6 | .xf => 7

def Latch.dec (c : BitVec 3) : Latch :=
  match c.toNat with
  | 0 => .sa | 1 => .sb | 2 => .va | 3 => .vb | 4 => .ld | 5 => .cv | 6 => .mx | _ => .xf

/-- A source field (R48). -/
def Src.bits {n : Nat} : Src n → BitVec 7
  | .reg i => i.setWidth 7
  | .latch l => 0b1000#4 ++ l.code

/-- A pair source: the even register of the pair (R53). -/
def Src.pairBits : Src 5 → BitVec 7
  | .reg i => 0#1 ++ i ++ 0#1
  | .latch l => 0b1000#4 ++ l.code

/-- R48, R49: an index beyond the file, or a latch code with a non-zero bit in [5:3], is illegal. -/
def Src.dec (n : Nat) (f : BitVec 7) : Option (Src n) :=
  if f.getLsbD 6 = false then
    if f.toNat < 2 ^ n then some (.reg (f.setWidth n)) else none
  else if f.extractLsb' 3 3 = 0 then some (.latch (Latch.dec (f.extractLsb' 0 3))) else none

/-- R53: an odd register or a latch is illegal. -/
def Src.decPair (f : BitVec 7) : Option (Src 5) :=
  if f.getLsbD 6 = false ∧ f.getLsbD 0 = false then some (.reg (f.extractLsb' 1 5)) else none

/-- The W bit of a destination (R51). -/
def Dst.w {n : Nat} : Dst n → Bool
  | .reg _ => false
  | .none => true

def Dst.bits {n : Nat} : Dst n → BitVec 6
  | .reg i => i.setWidth 6
  | .none => 0

def Dst.pairBits : Dst 5 → BitVec 6
  | .reg i => i ++ 0#1
  | .none => 0

/-- R49, R51: a non-zero D under W = 1, or an index beyond the file, is illegal. -/
def Dst.dec (n : Nat) (w : Bool) (d : BitVec 6) : Option (Dst n) :=
  if w then (if d = 0 then some .none else Option.none)
  else if d.toNat < 2 ^ n then some (.reg (d.setWidth n)) else Option.none

def Dst.decPair (w : Bool) (d : BitVec 6) : Option (Dst 5) :=
  if w then (if d = 0 then some .none else Option.none)
  else if d.getLsbD 0 = false then some (.reg (d.extractLsb' 1 5)) else Option.none

/-- R66. -/
def Size.code : Size → BitVec 2
  | .b => 0 | .h => 1 | .w => 2

def Size.dec (c : BitVec 2) : Option Size :=
  match c.toNat with
  | 0 => some .b | 1 => some .h | 2 => some .w | _ => none

/-- FN of `vld2` and `vst2` (R70). -/
def Orient.code : Orient → BitVec 7
  | .row => 0
  | .col e => 1#1 ++ e.code ++ 0#4

def Orient.dec (f : BitVec 7) : Option Orient :=
  if f.getLsbD 6 = false then some .row else (Size.dec (f.extractLsb' 4 2)).map .col

def Prec.num : Prec → BitVec 3
  | .p1 => 1 | .p2 => 2 | .p3 => 3 | .p4 => 4 | .p5 => 5 | .p6 => 6 | .p7 => 7

def Prec.dec (c : BitVec 3) : Option Prec :=
  match c.toNat with
  | 1 => some .p1 | 2 => some .p2 | 3 => some .p3 | 4 => some .p4 | 5 => some .p5 | 6 => some .p6 | 7 => some .p7
  | _ => none

def FTy.fmt (t : FTy) : Fmt := .flt t

def HTy.fty : HTy → FTy
  | .bf16 => .bf16 | .fp16 => .fp16

def BTy.fty : BTy → FTy
  | .fp32 => .fp32 | .bf16 => .bf16

/-- R61. -/
def Fmt.code : Fmt → BitVec 6
  | .flt .fp32 => 0x00
  | .flt .bf16 => 0x01
  | .flt .fp16 => 0x02
  | .int ⟨true, .w⟩ => 0x04
  | .int ⟨true, .h⟩ => 0x05
  | .int ⟨true, .b⟩ => 0x06
  | .int ⟨false, .w⟩ => 0x08
  | .int ⟨false, .h⟩ => 0x09
  | .int ⟨false, .b⟩ => 0x0A
  | .fam t => 1#1 ++ BitVec.ofBool t.uns ++ BitVec.ofBool t.ext ++ t.p.num

def Fam.dec (c : BitVec 6) : Option Fam :=
  if c.getLsbD 5 then (Prec.dec (c.extractLsb' 0 3)).map fun p => ⟨c.getLsbD 4, c.getLsbD 3, p⟩ else none

def Fmt.dec (c : BitVec 6) : Option Fmt :=
  if c.getLsbD 5 then (Fam.dec c).map .fam
  else match c.toNat with
    | 0x00 => some (.flt .fp32)
    | 0x01 => some (.flt .bf16)
    | 0x02 => some (.flt .fp16)
    | 0x04 => some (.int ⟨true, .w⟩)
    | 0x05 => some (.int ⟨true, .h⟩)
    | 0x06 => some (.int ⟨true, .b⟩)
    | 0x08 => some (.int ⟨false, .w⟩)
    | 0x09 => some (.int ⟨false, .h⟩)
    | 0x0A => some (.int ⟨false, .b⟩)
    | _ => none

def FTy.dec (c : BitVec 6) : Option FTy :=
  match Fmt.dec c with
  | some (.flt t) => some t
  | _ => none

def HTy.dec (c : BitVec 6) : Option HTy :=
  match Fmt.dec c with
  | some (.flt .bf16) => some .bf16
  | some (.flt .fp16) => some .fp16
  | _ => none

def BTy.dec (c : BitVec 6) : Option BTy :=
  match Fmt.dec c with
  | some (.flt .fp32) => some .fp32
  | some (.flt .bf16) => some .bf16
  | _ => none

def ITy.dec (c : BitVec 6) : Option ITy :=
  match Fmt.dec c with
  | some (.int t) => some t
  | _ => none

/-- R62. -/
def Rnd.code : Rnd → BitVec 3
  | .rne => 0 | .rtz => 1 | .rup => 2 | .rdn => 3 | .rna => 4 | .sto8 => 5 | .sto16 => 6

def Rnd.dec (c : BitVec 3) : Option Rnd :=
  match c.toNat with
  | 0 => some .rne | 1 => some .rtz | 2 => some .rup | 3 => some .rdn | 4 => some .rna | 5 => some .sto8
  | 6 => some .sto16 | _ => none

/-- R63. -/
def Scope.code : Scope → BitVec 3
  | .core => 0 | .tile => 1 | .field => 2 | .claim => 3 | .wafer => 4 | .store => 5 | .host => 6 | .fleet => 7

def Scope.dec (c : BitVec 3) : Option Scope :=
  match c.toNat with
  | 0 => some .core | 1 => some .tile | 2 => some .field | 3 => some .claim | 4 => some .wafer | 5 => some .store
  | 6 => some .host | _ => some .fleet

/-- R349. -/
def CReg.number : CReg → BitVec 10
  | .tick => 0x000 | .rebase => 0x001 | .coord => 0x002 | .stage => 0x003 | .part => 0x004 | .hop => 0x005
  | .wheel => 0x006 | .rq => 0x007 | .heapBase => 0x008 | .heapLimit => 0x009 | .heapOff => 0x00A | .weight => 0x00B
  | .span => 0x00C | .fault => 0x010 | .fdata => 0x011 | .epc => 0x012 | .etgt => 0x013 | .tvec => 0x014
  | .escr => 0x015 | .dbg => 0x016 | .lag => 0x020 | .collide => 0x021 | .drift => 0x022 | .wclk => 0x023
  | .cyc => 0x024

def CReg.dec (c : BitVec 10) : Option CReg :=
  match c.toNat with
  | 0x000 => some .tick | 0x001 => some .rebase | 0x002 => some .coord | 0x003 => some .stage | 0x004 => some .part
  | 0x005 => some .hop | 0x006 => some .wheel | 0x007 => some .rq | 0x008 => some .heapBase
  | 0x009 => some .heapLimit | 0x00A => some .heapOff | 0x00B => some .weight | 0x00C => some .span
  | 0x010 => some .fault | 0x011 => some .fdata | 0x012 => some .epc | 0x013 => some .etgt | 0x014 => some .tvec
  | 0x015 => some .escr | 0x016 => some .dbg | 0x020 => some .lag | 0x021 => some .collide | 0x022 => some .drift
  | 0x023 => some .wclk | 0x024 => some .cyc
  | _ => none

/-- R299. -/
def CtxReg.index : CtxReg → BitVec 4
  | .far => 0 | .len => 1 | .cmd => 2 | .loc => 3 | .tag => 4 | .tick => 5 | .pitch => 6 | .flag => 7 | .fval => 8
  | .tcount => 9

def CtxReg.dec (c : BitVec 4) : Option CtxReg :=
  match c.toNat with
  | 0 => some .far | 1 => some .len | 2 => some .cmd | 3 => some .loc | 4 => some .tag | 5 => some .tick
  | 6 => some .pitch | 7 => some .flag | 8 => some .fval | 9 => some .tcount | _ => none

def CtxStat.index : CtxStat → BitVec 4
  | .state => 12 | .issued => 13 | .active => 14 | .bind => 15

def CtxName.index : CtxName → BitVec 4
  | .reg r => r.index
  | .stat r => r.index

def CtxName.dec (c : BitVec 4) : Option CtxName :=
  match c.toNat with
  | 12 => some (.stat .state) | 13 => some (.stat .issued) | 14 => some (.stat .active) | 15 => some (.stat .bind)
  | _ => (CtxReg.dec c).map .reg

/-! ## Layouts (R47, R58, R59, R64 to R67) -/

def mkG (op : BitVec 8) (w : Bool) (d : BitVec 6) (sa sb : BitVec 7) (g : BitVec 4) (fn : BitVec 7) : BitVec 40 :=
  op ++ BitVec.ofBool w ++ d ++ sa ++ sb ++ g ++ fn

def mkI (op : BitVec 8) (w : Bool) (d : BitVec 6) (sa : BitVec 7) (imm : BitVec 18) : BitVec 40 :=
  op ++ BitVec.ofBool w ++ d ++ sa ++ imm

def mkIV (op : BitVec 8) (w : Bool) (d : BitVec 6) (sat : Bool) (ty : BitVec 6) (imm : BitVec 16) : BitVec 40 :=
  op ++ BitVec.ofBool w ++ d ++ BitVec.ofBool sat ++ ty ++ 0#2 ++ imm

def mkA (op : BitVec 8) (w : Bool) (d : BitVec 6) (base : BitVec 4) (ofs : BitVec 10) (g : BitVec 4) (fn : BitVec 7) :
    BitVec 40 :=
  op ++ BitVec.ofBool w ++ d ++ base ++ ofs ++ g ++ fn

def mkMX (op : BitVec 8) (w : Bool) (d : BitVec 6) (base : BitVec 4) (sx : BitVec 7) (g : BitVec 4) (fn : BitVec 7) :
    BitVec 40 :=
  op ++ BitVec.ofBool w ++ d ++ base ++ sx ++ 0#3 ++ g ++ fn

def mkXF (op : BitVec 8) (w : Bool) (d : BitVec 6) (sa : BitVec 7) (tf ff : BitVec 6) (rnd : BitVec 3) (sat : Bool) :
    BitVec 40 :=
  op ++ BitVec.ofBool w ++ d ++ sa ++ tf ++ ff ++ rnd ++ BitVec.ofBool sat ++ 0#2

def mkXB (op : BitVec 8) (s u : BitVec 6) (p : BitVec 8) (g : BitVec 4) (fn : BitVec 7) : BitVec 40 :=
  op ++ 0#1 ++ s ++ u ++ p ++ g ++ fn

def mkER (op : BitVec 8) (w : Bool) (d : BitVec 6) (sa : BitVec 7) (tag : BitVec 12) (fn : BitVec 6) : BitVec 40 :=
  op ++ BitVec.ofBool w ++ d ++ sa ++ tag ++ fn

def mkES (op : BitVec 8) (slot : BitVec 8) (base : BitVec 4) (ofs : BitVec 9) (nr : BitVec 6) (o : Bool)
    (e : BitVec 2) : BitVec 40 :=
  op ++ slot ++ base ++ ofs ++ nr ++ BitVec.ofBool o ++ e ++ 0#2

def mkCK (op : BitVec 8) (d : BitVec 6) (sa : BitVec 7) (crn : BitVec 10) (f : Bool) : BitVec 40 :=
  op ++ 0#1 ++ d ++ sa ++ crn ++ BitVec.ofBool f ++ 0#7

/-! ## Fields -/

def fOP (w : BitVec 40) : BitVec 8 := w.extractLsb' 32 8
def fW (w : BitVec 40) : Bool := w.getLsbD 31
def fD (w : BitVec 40) : BitVec 6 := w.extractLsb' 25 6
def fSA (w : BitVec 40) : BitVec 7 := w.extractLsb' 18 7
def fSB (w : BitVec 40) : BitVec 7 := w.extractLsb' 11 7
def fG (w : BitVec 40) : BitVec 4 := w.extractLsb' 7 4
def fFN (w : BitVec 40) : BitVec 7 := w.extractLsb' 0 7
def fTY (w : BitVec 40) : BitVec 6 := w.extractLsb' 0 6
def fSAT (w : BitVec 40) : Bool := w.getLsbD 6
def fIMM (w : BitVec 40) : BitVec 18 := w.extractLsb' 0 18
def fBASE (w : BitVec 40) : BitVec 4 := w.extractLsb' 21 4
def fOFS (w : BitVec 40) : BitVec 10 := w.extractLsb' 11 10
def fSX (w : BitVec 40) : BitVec 7 := w.extractLsb' 14 7
def fTO (w : BitVec 40) : BitVec 6 := w.extractLsb' 12 6
def fFROM (w : BitVec 40) : BitVec 6 := w.extractLsb' 6 6
def fRND (w : BitVec 40) : BitVec 3 := w.extractLsb' 3 3
def fTAG (w : BitVec 40) : BitVec 12 := w.extractLsb' 6 12

/-! ## The encoder (R68 to R73) -/

/-- The slot class and the 40 bits of an instruction; the events have none. -/
def Instr.encode : Instr → Option (SlotClass × BitVec 40)
  | .movi sl d imm => some (sl.cls, mkI 0x01 d.w d.bits 0 imm)
  | .movhi sl w d imm => some (sl.cls, mkI 0x02 w d 0 imm)
  | .add o => some (o.sl.cls, mkG 0x08 o.d.w o.d.bits o.a.bits o.b.bits o.g 0)
  | .addi o => some (o.sl.cls, mkI 0x09 o.d.w o.d.bits o.a.bits o.imm)
  | .sub o => some (o.sl.cls, mkG 0x0A o.d.w o.d.bits o.a.bits o.b.bits o.g 0)
  | .and o => some (o.sl.cls, mkG 0x18 o.d.w o.d.bits o.a.bits o.b.bits o.g 0)
  | .andi o => some (o.sl.cls, mkI 0x19 o.d.w o.d.bits o.a.bits o.imm)
  | .or o => some (o.sl.cls, mkG 0x1A o.d.w o.d.bits o.a.bits o.b.bits o.g 0)
  | .ori o => some (o.sl.cls, mkI 0x1B o.d.w o.d.bits o.a.bits o.imm)
  | .xor o => some (o.sl.cls, mkG 0x1C o.d.w o.d.bits o.a.bits o.b.bits o.g 0)
  | .xori o => some (o.sl.cls, mkI 0x1D o.d.w o.d.bits o.a.bits o.imm)
  | .andn o => some (o.sl.cls, mkG 0x1E o.d.w o.d.bits o.a.bits o.b.bits o.g 0)
  | .mul o => some (o.sl.cls, mkG 0x0C o.d.w o.d.bits o.a.bits o.b.bits o.g 0)
  | .mulh o => some (o.sl.cls, mkG 0x0D o.d.w o.d.bits o.a.bits o.b.bits o.g 0)
  | .mulhn o => some (o.sl.cls, mkG 0x0E o.d.w o.d.bits o.a.bits o.b.bits o.g 0)
  | .div o => some (o.sl.cls, mkG 0x10 o.d.w o.d.bits o.a.bits o.b.bits o.g 0)
  | .divn o => some (o.sl.cls, mkG 0x11 o.d.w o.d.bits o.a.bits o.b.bits o.g 0)
  | .rem o => some (o.sl.cls, mkG 0x12 o.d.w o.d.bits o.a.bits o.b.bits o.g 0)
  | .remn o => some (o.sl.cls, mkG 0x13 o.d.w o.d.bits o.a.bits o.b.bits o.g 0)
  | .shl o => some (o.sl.cls, mkG 0x20 o.d.w o.d.bits o.a.bits o.b.bits o.g 0)
  | .shli o => some (o.sl.cls, mkI 0x21 o.d.w o.d.bits o.a.bits (o.n.setWidth 18))
  | .shr o => some (o.sl.cls, mkG 0x22 o.d.w o.d.bits o.a.bits o.b.bits o.g 0)
  | .shri o => some (o.sl.cls, mkI 0x23 o.d.w o.d.bits o.a.bits (o.n.setWidth 18))
  | .sra o => some (o.sl.cls, mkG 0x24 o.d.w o.d.bits o.a.bits o.b.bits o.g 0)
  | .srai o => some (o.sl.cls, mkI 0x25 o.d.w o.d.bits o.a.bits (o.n.setWidth 18))
  | .rol o => some (o.sl.cls, mkG 0x26 o.d.w o.d.bits o.a.bits o.b.bits o.g 0)
  | .min o => some (o.sl.cls, mkG 0x28 o.d.w o.d.bits o.a.bits o.b.bits o.g 0)
  | .max o => some (o.sl.cls, mkG 0x29 o.d.w o.d.bits o.a.bits o.b.bits o.g 0)
  | .minn o => some (o.sl.cls, mkG 0x2A o.d.w o.d.bits o.a.bits o.b.bits o.g 0)
  | .maxn o => some (o.sl.cls, mkG 0x2B o.d.w o.d.bits o.a.bits o.b.bits o.g 0)
  | .ceq o => some (o.sl.cls, mkG 0x30 o.d.w o.d.bits o.a.bits o.b.bits o.g 0)
  | .cne o => some (o.sl.cls, mkG 0x31 o.d.w o.d.bits o.a.bits o.b.bits o.g 0)
  | .clt o => some (o.sl.cls, mkG 0x32 o.d.w o.d.bits o.a.bits o.b.bits o.g 0)
  | .cltn o => some (o.sl.cls, mkG 0x33 o.d.w o.d.bits o.a.bits o.b.bits o.g 0)
  | .cle o => some (o.sl.cls, mkG 0x34 o.d.w o.d.bits o.a.bits o.b.bits o.g 0)
  | .clen o => some (o.sl.cls, mkG 0x35 o.d.w o.d.bits o.a.bits o.b.bits o.g 0)
  | .ceqi o => some (o.sl.cls, mkI 0x36 o.d.w o.d.bits o.a.bits o.imm)
  | .clti o => some (o.sl.cls, mkI 0x37 o.d.w o.d.bits o.a.bits o.imm)
  | .sel o => some (o.sl.cls, mkG 0x38 o.d.w o.d.bits o.a.bits o.b.bits o.g 0)
  | .clz o => some (o.sl.cls, mkG 0x39 o.d.w o.d.bits o.a.bits 0 o.g 0)
  | .ctz o => some (o.sl.cls, mkG 0x3A o.d.w o.d.bits o.a.bits 0 o.g 0)
  | .popc o => some (o.sl.cls, mkG 0x3B o.d.w o.d.bits o.a.bits 0 o.g 0)
  | .bfx o => some (o.sl.cls, mkI 0x3C o.d.w o.d.bits o.a.bits (0#8 ++ o.wid ++ o.pos))
  | .bfxs o => some (o.sl.cls, mkI 0x3D o.d.w o.d.bits o.a.bits (0#8 ++ o.wid ++ o.pos))
  | .bfi sl w d a pos wid => some (sl.cls, mkI 0x3E w d a.bits (0#8 ++ wid ++ pos))
  | .aadd o => some (o.sl.cls, mkG 0x40 o.d.w o.d.bits o.a.bits o.b.bits o.g 0)
  | .aaddi o => some (o.sl.cls, mkI 0x41 o.d.w o.d.bits o.a.bits o.imm)
  | .asub o => some (o.sl.cls, mkG 0x42 o.d.w o.d.bits o.a.bits o.b.bits o.g 0)
  | .amk o => some (o.sl.cls, mkG 0x43 o.d.w o.d.bits o.a.bits o.b.bits o.g 0)
  | .ahi o => some (o.sl.cls, mkG 0x44 o.d.w o.d.bits o.a.bits 0 o.g 0)
  | .alo o => some (o.sl.cls, mkG 0x45 o.d.w o.d.bits o.a.bits 0 o.g 0)
  | .kset o => some (o.sl.cls, mkG 0x48 o.d.w o.d.bits o.a.bits 0 o.g 0)
  | .kget o => some (o.sl.cls, mkG 0x49 o.d.w o.d.bits o.a.bits 0 o.g 0)
  | .fadd o => some (o.sl.cls, mkG 0x01 o.d.w o.d.bits o.a.bits o.b.bits o.g (0#1 ++ o.ty.fmt.code))
  | .fsub o => some (o.sl.cls, mkG 0x02 o.d.w o.d.bits o.a.bits o.b.bits o.g (0#1 ++ o.ty.fmt.code))
  | .fmul o => some (o.sl.cls, mkG 0x03 o.d.w o.d.bits o.a.bits o.b.bits o.g (0#1 ++ o.ty.fmt.code))
  | .fmin o => some (o.sl.cls, mkG 0x07 o.d.w o.d.bits o.a.bits o.b.bits o.g (0#1 ++ o.ty.fmt.code))
  | .fmax o => some (o.sl.cls, mkG 0x08 o.d.w o.d.bits o.a.bits o.b.bits o.g (0#1 ++ o.ty.fmt.code))
  | .fabs o => some (o.sl.cls, mkG 0x09 o.d.w o.d.bits o.a.bits 0 o.g (0#1 ++ o.ty.fmt.code))
  | .fneg o => some (o.sl.cls, mkG 0x0A o.d.w o.d.bits o.a.bits 0 o.g (0#1 ++ o.ty.fmt.code))
  | .fma o => some (o.sl.cls, mkG 0x04 o.w o.d o.a.bits o.b.bits o.g (0#1 ++ o.ty.fmt.code))
  | .fms o => some (o.sl.cls, mkG 0x05 o.w o.d o.a.bits o.b.bits o.g (0#1 ++ o.ty.fmt.code))
  | .fnma o => some (o.sl.cls, mkG 0x06 o.w o.d o.a.bits o.b.bits o.g (0#1 ++ o.ty.fmt.code))
  | .frcp o => some (o.sl.cls, mkG 0x0B o.d.w o.d.bits o.a.bits 0 o.g (0#1 ++ o.ty.fmt.code))
  | .frsq o => some (o.sl.cls, mkG 0x0C o.d.w o.d.bits o.a.bits 0 o.g (0#1 ++ o.ty.fmt.code))
  | .fexp2 o => some (o.sl.cls, mkG 0x0D o.d.w o.d.bits o.a.bits 0 o.g (0#1 ++ o.ty.fmt.code))
  | .flog2 o => some (o.sl.cls, mkG 0x0E o.d.w o.d.bits o.a.bits 0 o.g (0#1 ++ o.ty.fmt.code))
  | .dot2 o => some (o.sl.cls, mkG 0x0F o.d.w o.d.bits o.a.bits o.b.bits o.g (0#1 ++ o.ty.fty.fmt.code))
  | .fcmpEq o => some (o.sl.cls, mkG 0x10 o.d.w o.d.bits o.a.bits o.b.bits o.g (0#1 ++ o.ty.fmt.code))
  | .fcmpNe o => some (o.sl.cls, mkG 0x11 o.d.w o.d.bits o.a.bits o.b.bits o.g (0#1 ++ o.ty.fmt.code))
  | .fcmpLt o => some (o.sl.cls, mkG 0x12 o.d.w o.d.bits o.a.bits o.b.bits o.g (0#1 ++ o.ty.fmt.code))
  | .fcmpLe o => some (o.sl.cls, mkG 0x13 o.d.w o.d.bits o.a.bits o.b.bits o.g (0#1 ++ o.ty.fmt.code))
  | .fcmpUn o => some (o.sl.cls, mkG 0x14 o.d.w o.d.bits o.a.bits o.b.bits o.g (0#1 ++ o.ty.fmt.code))
  | .iadd o sat => some (o.sl.cls, mkG 0x20 o.d.w o.d.bits o.a.bits o.b.bits o.g (BitVec.ofBool sat ++ (Fmt.int o.ty).code))
  | .isub o sat => some (o.sl.cls, mkG 0x21 o.d.w o.d.bits o.a.bits o.b.bits o.g (BitVec.ofBool sat ++ (Fmt.int o.ty).code))
  | .imul o sat => some (o.sl.cls, mkG 0x22 o.d.w o.d.bits o.a.bits o.b.bits o.g (BitVec.ofBool sat ++ (Fmt.int o.ty).code))
  | .imulh o => some (o.sl.cls, mkG 0x23 o.d.w o.d.bits o.a.bits o.b.bits o.g (0#1 ++ (Fmt.int o.ty).code))
  | .imad o sat => some (o.sl.cls, mkG 0x24 o.w o.d o.a.bits o.b.bits o.g (BitVec.ofBool sat ++ (Fmt.int o.ty).code))
  | .iand o => some (o.sl.cls, mkG 0x25 o.d.w o.d.bits o.a.bits o.b.bits o.g (0#1 ++ (Fmt.int o.ty).code))
  | .ior o => some (o.sl.cls, mkG 0x26 o.d.w o.d.bits o.a.bits o.b.bits o.g (0#1 ++ (Fmt.int o.ty).code))
  | .ixor o => some (o.sl.cls, mkG 0x27 o.d.w o.d.bits o.a.bits o.b.bits o.g (0#1 ++ (Fmt.int o.ty).code))
  | .imin o => some (o.sl.cls, mkG 0x2B o.d.w o.d.bits o.a.bits o.b.bits o.g (0#1 ++ (Fmt.int o.ty).code))
  | .imax o => some (o.sl.cls, mkG 0x2C o.d.w o.d.bits o.a.bits o.b.bits o.g (0#1 ++ (Fmt.int o.ty).code))
  | .ishl o => some (o.sl.cls, mkG 0x28 o.d.w o.d.bits o.a.bits o.b.bits o.g (0#1 ++ (Fmt.int o.ty).code))
  | .ishr o => some (o.sl.cls, mkG 0x29 o.d.w o.d.bits o.a.bits o.b.bits o.g (0#1 ++ (Fmt.int o.ty).code))
  | .isra o => some (o.sl.cls, mkG 0x2A o.d.w o.d.bits o.a.bits o.b.bits o.g (0#1 ++ (Fmt.int o.ty).code))
  | .icmpEq o => some (o.sl.cls, mkG 0x30 o.d.w o.d.bits o.a.bits o.b.bits o.g (0#1 ++ (Fmt.int o.ty).code))
  | .icmpNe o => some (o.sl.cls, mkG 0x31 o.d.w o.d.bits o.a.bits o.b.bits o.g (0#1 ++ (Fmt.int o.ty).code))
  | .icmpLt o => some (o.sl.cls, mkG 0x32 o.d.w o.d.bits o.a.bits o.b.bits o.g (0#1 ++ (Fmt.int o.ty).code))
  | .icmpLe o => some (o.sl.cls, mkG 0x33 o.d.w o.d.bits o.a.bits o.b.bits o.g (0#1 ++ (Fmt.int o.ty).code))
  | .vsel o => some (o.sl.cls, mkG 0x40 o.d.w o.d.bits o.a.bits o.b.bits o.g (0#1 ++ o.ty.code))
  | .vbc o => some (o.sl.cls, mkG 0x41 o.d.w o.d.bits o.a.bits 0 o.g (0#1 ++ o.ty.code))
  | .vmov o => some (o.sl.cls, mkG 0x4A o.d.w o.d.bits o.a.bits 0 o.g (0#1 ++ o.ty.code))
  | .vmovi sl d ty sat imm => some (sl.cls, mkIV 0x4B d.w d.bits sat ty.code imm)
  | .vext o => some (o.sl.cls, mkG 0x42 o.d.w o.d.bits o.a.bits o.b.bits o.g (0#1 ++ o.ty.code))
  | .vins o => some (o.sl.cls, mkG 0x43 o.w o.d o.a.bits o.b.bits o.g (0#1 ++ o.ty.code))
  | .vperm o => some (o.sl.cls, mkG 0x44 o.d.w o.d.bits o.a.bits o.b.bits o.g (0#1 ++ o.ty.code))
  | .vrot o => some (o.sl.cls, mkG 0x45 o.d.w o.d.bits o.a.bits o.b.bits o.g (0#1 ++ o.ty.code))
  | .vzip o => some (o.sl.cls, mkG 0x46 o.d.w o.d.pairBits o.a.bits o.b.bits o.g (0#1 ++ o.ty.code))
  | .vunzip o => some (o.sl.cls, mkG 0x47 o.d.w o.d.pairBits o.a.bits o.b.bits o.g (0#1 ++ o.ty.code))
  | .vsum o => some (o.sl.cls, mkG 0x48 o.d.w o.d.bits o.a.bits 0 o.g (0#1 ++ o.ty.code))
  | .vmaxr o => some (o.sl.cls, mkG 0x49 o.d.w o.d.bits o.a.bits 0 o.g (0#1 ++ o.ty.code))
  | .kand o => some (o.sl.cls, mkG 0x50 o.d.w o.d.bits o.a.bits o.b.bits o.g 0)
  | .kor o => some (o.sl.cls, mkG 0x51 o.d.w o.d.bits o.a.bits o.b.bits o.g 0)
  | .kxor o => some (o.sl.cls, mkG 0x52 o.d.w o.d.bits o.a.bits o.b.bits o.g 0)
  | .knot o => some (o.sl.cls, mkG 0x53 o.d.w o.d.bits o.a.bits 0 o.g 0)
  | .kcnt o => some (o.sl.cls, mkG 0x54 o.d.w o.d.bits o.a.bits 0 o.g 0)
  | .ldB o => some (.m, mkA 0x01 o.d.w o.d.bits o.base o.ofs o.g 0)
  | .ldBn o => some (.m, mkA 0x01 o.d.w o.d.bits o.base o.ofs o.g 8)
  | .ldH o => some (.m, mkA 0x01 o.d.w o.d.bits o.base o.ofs o.g 16)
  | .ldHn o => some (.m, mkA 0x01 o.d.w o.d.bits o.base o.ofs o.g 24)
  | .ldW o => some (.m, mkA 0x01 o.d.w o.d.bits o.base o.ofs o.g 32)
  | .stB o => some (.m, mkA 0x02 false o.d o.base o.ofs o.g 0)
  | .stH o => some (.m, mkA 0x02 false o.d o.base o.ofs o.g 16)
  | .stW o => some (.m, mkA 0x02 false o.d o.base o.ofs o.g 32)
  | .vldRow o => some (.m, mkA 0x03 o.d.w o.d.bits o.base o.ofs o.g 0)
  | .vldCol o e => some (.m, mkA 0x03 o.d.w o.d.bits o.base o.ofs o.g (1#1 ++ e.code ++ 0#4))
  | .vstRow o => some (.m, mkA 0x04 false o.d o.base o.ofs o.g 0)
  | .vstCol o e => some (.m, mkA 0x04 false o.d o.base o.ofs o.g (1#1 ++ e.code ++ 0#4))
  | .vld2 o r => some (.m, mkA 0x05 o.d.w o.d.pairBits o.base o.ofs o.g r.code)
  | .vst2 o r => some (.m, mkA 0x06 false (o.d ++ 0#1) o.base o.ofs o.g r.code)
  | .vlddRow o => some (.m, mkA 0x07 o.d.w o.d.bits o.base o.ofs o.g 0)
  | .vlddCol o => some (.m, mkA 0x07 o.d.w o.d.bits o.base o.ofs o.g 64)
  | .vgt o e => some (.m, mkMX 0x08 o.d.w o.d.bits o.base o.sx.bits o.g (0#1 ++ e.code ++ 0#4))
  | .vgt2 o e => some (.m, mkMX 0x09 o.d.w o.d.pairBits o.base o.sx.bits o.g (0#1 ++ e.code ++ 0#4))
  | .vsc o e => some (.m, mkMX 0x0A false o.d o.base o.sx.bits o.g (0#1 ++ e.code ++ 0#4))
  | .amoAdd o => some (.m, mkMX 0x10 o.d.w o.d.bits o.base o.sx.bits o.g 0)
  | .amoAnd o => some (.m, mkMX 0x10 o.d.w o.d.bits o.base o.sx.bits o.g 8)
  | .amoOr o => some (.m, mkMX 0x10 o.d.w o.d.bits o.base o.sx.bits o.g 16)
  | .amoXor o => some (.m, mkMX 0x10 o.d.w o.d.bits o.base o.sx.bits o.g 24)
  | .amoMin o => some (.m, mkMX 0x10 o.d.w o.d.bits o.base o.sx.bits o.g 32)
  | .amoMax o => some (.m, mkMX 0x10 o.d.w o.d.bits o.base o.sx.bits o.g 40)
  | .amoXchg o => some (.m, mkMX 0x10 o.d.w o.d.bits o.base o.sx.bits o.g 48)
  | .amoCas w o => some (.m, mkMX 0x10 w o.d o.base o.sx.bits o.g 56)
  | .redF32 o => some (.m, mkMX 0x11 false o.d o.base o.sx.bits o.g 0)
  | .redS32 o => some (.m, mkMX 0x11 false o.d o.base o.sx.bits o.g 64)
  | .cvt o => some (.x, mkXF 0x01 o.d.w o.d.bits o.a.bits o.tf.code o.ff.code o.rnd.code o.sat)
  | .qblk o => some (.x, mkXF 0x02 o.d.w o.d.bits o.a.bits (Fmt.fam o.tf).code o.ff.fty.fmt.code o.rnd.code o.sat)
  | .dqblk o => some (.x, mkXF 0x03 o.d.w o.d.bits o.a.bits o.tf.fty.fmt.code (Fmt.fam o.ff).code o.rnd.code o.sat)
  | .vpk o => some (.x, mkXF 0x04 o.d.w o.d.bits (o.a.pairBits) o.tf.code o.ff.code o.rnd.code o.sat)
  | .vupk d a tf ff => some (.x, mkXF 0x05 d.w d.pairBits a.bits tf.code ff.code 0 false)
  | .rngSeed a b g => some (.x, mkG 0x08 false 0 a.bits b.bits g 0)
  | .rngPop d g => some (.x, mkG 0x09 d.w d.bits 0 0 g 0)
  | .spush m a g => some (.x, mkG 0x10 false 0 a.bits 0 g (0#1 ++ m))
  | .spop d m g => some (.x, mkG 0x11 d.w d.bits 0 0 g (0#1 ++ m))
  | .scnt d m g => some (.x, mkG 0x12 d.w d.bits 0 0 g (0#1 ++ m))
  | .sreset m g => some (.x, mkG 0x13 false 0 0 0 g (0#1 ++ m))
  | .bgive o core u => some (.x, mkXB 0x20 o.s u (core ++ 0#6) o.g 0)
  | .blend o u mask => some (.x, mkXB 0x21 o.s u 0 o.g (0#3 ++ mask))
  | .bback o => some (.x, mkXB 0x22 o.s 0 0 o.g 0)
  | .brot o => some (.x, mkXB 0x23 o.s 0 0 o.g 0)
  | .brotRev o => some (.x, mkXB 0x23 o.s 0 0 o.g 1)
  | .bmap d m g => some (.x, mkG 0x24 d.w d.bits 0 0 g (0#1 ++ m))
  | .bfmt o fmt => some (.x, mkXB 0x25 o.s 0 (0#2 ++ fmt.code) o.g 0)
  | .bzero o => some (.x, mkXB 0x26 o.s 0 0 o.g 0)
  | .bcopy o src plate cnt => some (.x, mkXB 0x27 o.s src (plate ++ cnt) o.g 0)
  | .mclaim n => some (.e, mkI 0x01 false 0 0 (0#10 ++ n))
  | .mrel n => some (.e, mkI 0x02 false 0 0 (0#10 ++ n))
  | .mstageRow o => some (.e, mkES 0x03 o.slot o.base o.ofs o.nr false 0)
  | .mstageCol o e => some (.e, mkES 0x03 o.slot o.base o.ofs o.nr true e.code)
  | .mshape sh base ofs g => some (.e, mkA 0x04 false (0#4 ++ sh) base ofs g 0)
  | .mma sh set na nb g => some (.e, mkG 0x05 false 0 0 0 g (BitVec.ofBool na ++ BitVec.ofBool nb ++ BitVec.ofBool set ++ 0#2 ++ sh))
  | .maccRd d tile row quarter => some (.e, mkI 0x06 d.w d.bits 0 (0#2 ++ quarter ++ row ++ tile))
  | .maccZero n => some (.e, mkI 0x07 false 0 0 (0#10 ++ n))
  | .mqnt o fam sat => some (.e, mkA 0x08 false o.d o.base o.ofs o.g (BitVec.ofBool sat ++ (Fmt.fam fam).code))
  | .xsendLo tag a => some (.e, mkER 0x10 false 0 a.bits tag 0)
  | .xsendHi tag a => some (.e, mkER 0x10 false 0 a.bits tag 1)
  | .xrecvLo d tag => some (.e, mkER 0x11 d.w d.bits 0 tag 0)
  | .xrecvHi d tag => some (.e, mkER 0x11 d.w d.bits 0 tag 1)
  | .xland a dt => some (.e, mkI 0x12 false 0 a.bits dt)
  | .xtag a i => some (.e, mkER 0x13 false 0 a.bits (0xFF#8 ++ i) 0)
  | .xpoll d tag => some (.e, mkER 0x14 false d 0 tag 0)
  | .tkalign => some (.e, mkG 0x15 false 0 0 0 0 0)
  | .tkhold dt => some (.e, mkI 0x16 false 0 0 dt)
  | .stgSet c r a => some (.e, mkI 0x20 false 0 a.bits (0#5 ++ BitVec.ofBool r.isA ++ r.index ++ c))
  | .readToBank n => some (.e, mkI 0x21 false 0 0 (0#10 ++ n))
  | .readToLandingBuffer n => some (.e, mkI 0x21 false 0 0 (0#10 ++ n))
  | .write n => some (.e, mkI 0x21 false 0 0 (0#10 ++ n))
  | .trackedWrite n => some (.e, mkI 0x21 false 0 0 (0#10 ++ n))
  | .stgRd d c r => some (.e, mkI 0x22 false d 0 (0#5 ++ BitVec.ofBool r.isA ++ r.index ++ c))
  | .tlWait c a => some (.e, mkI 0x28 false 0 a.bits (0#10 ++ c))
  | .tlRd d c => some (.e, mkI 0x29 false (0#2 ++ d) 0 (0#10 ++ c))
  | .nop => some (.c, mkG 0x00 false 0 0 0 0 0)
  | .br ofs => some (.c, mkI 0x01 false 0 0 ofs)
  | .brz a ofs => some (.c, mkI 0x02 false 0 a.bits ofs)
  | .brnz a ofs => some (.c, mkI 0x03 false 0 a.bits ofs)
  | .brk a ofs => some (.c, mkI 0x04 false 0 a.bits ofs)
  | .call d ofs => some (.c, mkI 0x05 false (0#2 ++ d) 0 ofs)
  | .ret a g => some (.c, mkG 0x06 false 0 a.bits 0 g 0)
  | .loop a ofs => some (.c, mkI 0x07 false 0 a.bits ofs)
  | .halt g => some (.c, mkG 0x08 false 0 0 0 g 0)
  | .tkawait a dt => some (.c, mkI 0x10 false 0 a.bits dt)
  | .gate n => some (.c, mkI 0x11 false 0 0 (0#9 ++ n))
  | .wsplit a b g => some (.c, mkG 0x18 false 0 a.bits b.bits g 0)
  | .wret a g => some (.c, mkG 0x19 false 0 a.bits 0 g 0)
  | .jcbAdd a g => some (.c, mkG 0x1A false 0 a.bits 0 g 0)
  | .jcbPost g => some (.c, mkG 0x1B false 0 0 0 g 0)
  | .npreOn g => some (.c, mkG 0x1C false 0 0 0 g 0)
  | .npreOff g => some (.c, mkG 0x1D false 0 0 0 g 0)
  | .trap code => some (.c, mkI 0x20 false 0 0 (0#2 ++ code))
  | .svc code => some (.c, mkI 0x21 false 0 0 (0#2 ++ code))
  | .brkpt code => some (.c, mkI 0x22 false 0 0 (0#2 ++ code))
  | .iret => some (.c, mkG 0x23 false 0 0 0 0 0)
  | .crget d f r => some (.c, mkCK 0x24 d 0 r.number f)
  | .crset a f r => some (.c, mkCK 0x25 0 a.bits r.number f)
  | .openSpanEntry _ => none
  | .fenceAcq sc g => some (.c, mkG 0x30 false 0 0 0 g (0#2 ++ 0#2 ++ sc.code))
  | .fenceRel sc g => some (.c, mkG 0x30 false 0 0 0 g (1#2 ++ 0#2 ++ sc.code))
  | .fenceAr sc g => some (.c, mkG 0x30 false 0 0 0 g (2#2 ++ 0#2 ++ sc.code))
  | .fenceSc sc g => some (.c, mkG 0x30 false 0 0 0 g (3#2 ++ 0#2 ++ sc.code))
  | .waitaEq o sc => some (.c, mkA 0x31 false o.d o.base o.ofs o.g (0#2 ++ 0#2 ++ sc.code))
  | .waitaNe o sc => some (.c, mkA 0x31 false o.d o.base o.ofs o.g (1#2 ++ 0#2 ++ sc.code))
  | .waitaGen o sc => some (.c, mkA 0x31 false o.d o.base o.ofs o.g (2#2 ++ 0#2 ++ sc.code))
  | .barArr n => some (.c, mkI 0x32 false 0 0 (0#9 ++ n))
  | .barWait n => some (.c, mkI 0x33 false 0 0 (0#9 ++ n))
  | .barSync n => some (.c, mkI 0x34 false 0 0 (0#9 ++ n))
  | .waitFormIssue _ => none
  | .tkawaitIssue _ => none
  | .resultLanding _ _ => none
  | .runEnd _ => none
  | .bankCommit _ _ _ _ => none
  | .mapChangeEffect _ _ => none
  | .formatChangeEffect _ _ _ => none
  | .reductionApply _ => none
  | .stageRowTransfer _ _ => none
  | .mmaStart _ _ => none
  | .mmaGroupAdd _ _ _ _ => none
  | .mmaBlockWrite _ _ _ => none
  | .mmaCompletion _ _ => none
  | .arraySend _ _ => none
  | .operandRowDeposit _ _ _ _ => none
  | .flitArrival _ _ _ => none
  | .flitRelease _ _ => none
  | .landedFlitDue _ _ _ => none
  | .landingLost _ _ _ => none
  | .holdDelivery _ _ _ => none
  | .holdEnd _ => none
  | .voltageDroop _ _ => none
  | .localTrimUpdate _ => none
  | .waferTrimUpdate _ => none
  | .deadbandSlewSet _ _ => none
  | .throttle _ => none
  | .railChange _ _ _ => none
  | .countUpset _ _ => none
  | .bitUpset _ _ => none
  | .alignment _ => none
  | .peerLinkLoss _ => none
  | .gateRelease _ _ => none
  | .gateTimeout _ _ => none
  | .barrierPhaseCompletion _ _ => none
  | .barrierTimeout _ _ => none
  | .nonPreEmptibleCap _ => none
  | .weightArrival _ _ _ => none
  | .jcbTotalArrival _ _ => none
  | .jcbPostArrival _ => none
  | .strandRetirement _ => none
  | .claimEvaluation _ => none
  | .commandActivation _ => none
  | .readLineRequest _ _ _ => none
  | .stagingFlitRelease _ _ _ => none
  | .stagingDeposit _ _ _ => none
  | .stagingSourceRead _ _ _ => none
  | .stagingWriteFlit _ _ _ => none
  | .stagingWriteCommit _ _ => none
  | .trackerFire _ => none
  | .timelineAdvance _ => none
  | .flagWrite _ _ => none
  | .fatalStop _ => none
  | .uncorrectableHalt _ => none
  | .preemptionStop _ => none
  | .selfTestMove _ _ _ => none
  | .selfTestMoveBack _ _ => none
  | .abortStop _ => none
  | .claimRelease _ => none
  | .powerOn _ => none
  | .hostFarWrite _ _ => none
  | .hostFarRead _ _ => none
  | .qnotifyWrite _ _ => none
  | .hostRegisterWrite _ _ => none
  | .packetRead _ => none
  | .fleetLaunch _ _ => none
  | .managementSidebandMessage _ => none
  | .load _ => none
  | .evict _ => none
  | .lease _ => none
  | .unlease _ => none
  | .unleaseEffect _ => none
  | .queueEnable _ => none
  | .queueDisable _ => none
  | .queueDisableDrain _ => none
  | .invtlb _ => none
  | .preempt _ => none
  | .resume _ => none
  | .abort _ => none
  | .fwload _ => none
  | .record _ => none
  | .restart _ => none
  | .opNotAssigned _ => none
  | .switchRequest _ _ => none
  | .firmwareSwitch _ => none
  | .alive _ => none
  | .accept _ => none
  | .rollback _ => none
  | .getVersion => none
  | .getCapabilities _ => none
  | .negotiateAlgorithms _ _ => none
  | .getDigests => none
  | .getCertificate _ _ _ => none
  | .challenge _ _ => none
  | .getMeasurements _ _ => none
  | .accessionRecordWrite _ _ _ => none
  | .retainedImageFault _ => none
  | .tileFailsSelfTest _ _ => none

/-! ## The decoder: the candidate of an opcode, then the check that nothing reserved is set -/

/-- The candidate of a scalar syllable by its opcode (R68). -/
def candidateS (sl : SSlot) (w : BitVec 40) : Option Instr :=
  match (fOP w).toNat with
  | 0x01 => do some (.movi sl (← Dst.dec 6 (fW w) (fD w)) (fIMM w))
  | 0x02 => some (.movhi sl (fW w) (fD w) (fIMM w))
  | 0x08 => do some (.add ⟨sl, ← Dst.dec 6 (fW w) (fD w), ← Src.dec 6 (fSA w), ← Src.dec 6 (fSB w), fG w⟩)
  | 0x09 => do some (.addi ⟨sl, ← Dst.dec 6 (fW w) (fD w), ← Src.dec 6 (fSA w), fIMM w⟩)
  | 0x0A => do some (.sub ⟨sl, ← Dst.dec 6 (fW w) (fD w), ← Src.dec 6 (fSA w), ← Src.dec 6 (fSB w), fG w⟩)
  | 0x18 => do some (.and ⟨sl, ← Dst.dec 6 (fW w) (fD w), ← Src.dec 6 (fSA w), ← Src.dec 6 (fSB w), fG w⟩)
  | 0x19 => do some (.andi ⟨sl, ← Dst.dec 6 (fW w) (fD w), ← Src.dec 6 (fSA w), fIMM w⟩)
  | 0x1A => do some (.or ⟨sl, ← Dst.dec 6 (fW w) (fD w), ← Src.dec 6 (fSA w), ← Src.dec 6 (fSB w), fG w⟩)
  | 0x1B => do some (.ori ⟨sl, ← Dst.dec 6 (fW w) (fD w), ← Src.dec 6 (fSA w), fIMM w⟩)
  | 0x1C => do some (.xor ⟨sl, ← Dst.dec 6 (fW w) (fD w), ← Src.dec 6 (fSA w), ← Src.dec 6 (fSB w), fG w⟩)
  | 0x1D => do some (.xori ⟨sl, ← Dst.dec 6 (fW w) (fD w), ← Src.dec 6 (fSA w), fIMM w⟩)
  | 0x1E => do some (.andn ⟨sl, ← Dst.dec 6 (fW w) (fD w), ← Src.dec 6 (fSA w), ← Src.dec 6 (fSB w), fG w⟩)
  | 0x0C => do some (.mul ⟨sl, ← Dst.dec 6 (fW w) (fD w), ← Src.dec 6 (fSA w), ← Src.dec 6 (fSB w), fG w⟩)
  | 0x0D => do some (.mulh ⟨sl, ← Dst.dec 6 (fW w) (fD w), ← Src.dec 6 (fSA w), ← Src.dec 6 (fSB w), fG w⟩)
  | 0x0E => do some (.mulhn ⟨sl, ← Dst.dec 6 (fW w) (fD w), ← Src.dec 6 (fSA w), ← Src.dec 6 (fSB w), fG w⟩)
  | 0x10 => do some (.div ⟨sl, ← Dst.dec 6 (fW w) (fD w), ← Src.dec 6 (fSA w), ← Src.dec 6 (fSB w), fG w⟩)
  | 0x11 => do some (.divn ⟨sl, ← Dst.dec 6 (fW w) (fD w), ← Src.dec 6 (fSA w), ← Src.dec 6 (fSB w), fG w⟩)
  | 0x12 => do some (.rem ⟨sl, ← Dst.dec 6 (fW w) (fD w), ← Src.dec 6 (fSA w), ← Src.dec 6 (fSB w), fG w⟩)
  | 0x13 => do some (.remn ⟨sl, ← Dst.dec 6 (fW w) (fD w), ← Src.dec 6 (fSA w), ← Src.dec 6 (fSB w), fG w⟩)
  | 0x20 => do some (.shl ⟨sl, ← Dst.dec 6 (fW w) (fD w), ← Src.dec 6 (fSA w), ← Src.dec 6 (fSB w), fG w⟩)
  | 0x21 => do some (.shli ⟨sl, ← Dst.dec 6 (fW w) (fD w), ← Src.dec 6 (fSA w), (fIMM w).extractLsb' 0 5⟩)
  | 0x22 => do some (.shr ⟨sl, ← Dst.dec 6 (fW w) (fD w), ← Src.dec 6 (fSA w), ← Src.dec 6 (fSB w), fG w⟩)
  | 0x23 => do some (.shri ⟨sl, ← Dst.dec 6 (fW w) (fD w), ← Src.dec 6 (fSA w), (fIMM w).extractLsb' 0 5⟩)
  | 0x24 => do some (.sra ⟨sl, ← Dst.dec 6 (fW w) (fD w), ← Src.dec 6 (fSA w), ← Src.dec 6 (fSB w), fG w⟩)
  | 0x25 => do some (.srai ⟨sl, ← Dst.dec 6 (fW w) (fD w), ← Src.dec 6 (fSA w), (fIMM w).extractLsb' 0 5⟩)
  | 0x26 => do some (.rol ⟨sl, ← Dst.dec 6 (fW w) (fD w), ← Src.dec 6 (fSA w), ← Src.dec 6 (fSB w), fG w⟩)
  | 0x28 => do some (.min ⟨sl, ← Dst.dec 6 (fW w) (fD w), ← Src.dec 6 (fSA w), ← Src.dec 6 (fSB w), fG w⟩)
  | 0x29 => do some (.max ⟨sl, ← Dst.dec 6 (fW w) (fD w), ← Src.dec 6 (fSA w), ← Src.dec 6 (fSB w), fG w⟩)
  | 0x2A => do some (.minn ⟨sl, ← Dst.dec 6 (fW w) (fD w), ← Src.dec 6 (fSA w), ← Src.dec 6 (fSB w), fG w⟩)
  | 0x2B => do some (.maxn ⟨sl, ← Dst.dec 6 (fW w) (fD w), ← Src.dec 6 (fSA w), ← Src.dec 6 (fSB w), fG w⟩)
  | 0x30 => do some (.ceq ⟨sl, ← Dst.dec 6 (fW w) (fD w), ← Src.dec 6 (fSA w), ← Src.dec 6 (fSB w), fG w⟩)
  | 0x31 => do some (.cne ⟨sl, ← Dst.dec 6 (fW w) (fD w), ← Src.dec 6 (fSA w), ← Src.dec 6 (fSB w), fG w⟩)
  | 0x32 => do some (.clt ⟨sl, ← Dst.dec 6 (fW w) (fD w), ← Src.dec 6 (fSA w), ← Src.dec 6 (fSB w), fG w⟩)
  | 0x33 => do some (.cltn ⟨sl, ← Dst.dec 6 (fW w) (fD w), ← Src.dec 6 (fSA w), ← Src.dec 6 (fSB w), fG w⟩)
  | 0x34 => do some (.cle ⟨sl, ← Dst.dec 6 (fW w) (fD w), ← Src.dec 6 (fSA w), ← Src.dec 6 (fSB w), fG w⟩)
  | 0x35 => do some (.clen ⟨sl, ← Dst.dec 6 (fW w) (fD w), ← Src.dec 6 (fSA w), ← Src.dec 6 (fSB w), fG w⟩)
  | 0x36 => do some (.ceqi ⟨sl, ← Dst.dec 6 (fW w) (fD w), ← Src.dec 6 (fSA w), fIMM w⟩)
  | 0x37 => do some (.clti ⟨sl, ← Dst.dec 6 (fW w) (fD w), ← Src.dec 6 (fSA w), fIMM w⟩)
  | 0x38 => do some (.sel ⟨sl, ← Dst.dec 6 (fW w) (fD w), ← Src.dec 6 (fSA w), ← Src.dec 6 (fSB w), fG w⟩)
  | 0x39 => do some (.clz ⟨sl, ← Dst.dec 6 (fW w) (fD w), ← Src.dec 6 (fSA w), fG w⟩)
  | 0x3A => do some (.ctz ⟨sl, ← Dst.dec 6 (fW w) (fD w), ← Src.dec 6 (fSA w), fG w⟩)
  | 0x3B => do some (.popc ⟨sl, ← Dst.dec 6 (fW w) (fD w), ← Src.dec 6 (fSA w), fG w⟩)
  | 0x3C => do some (.bfx ⟨sl, ← Dst.dec 6 (fW w) (fD w), ← Src.dec 6 (fSA w), (fIMM w).extractLsb' 0 5, (fIMM w).extractLsb' 5 5⟩)
  | 0x3D => do some (.bfxs ⟨sl, ← Dst.dec 6 (fW w) (fD w), ← Src.dec 6 (fSA w), (fIMM w).extractLsb' 0 5, (fIMM w).extractLsb' 5 5⟩)
  | 0x3E => do some (.bfi sl (fW w) (fD w) (← Src.dec 6 (fSA w)) ((fIMM w).extractLsb' 0 5) ((fIMM w).extractLsb' 5 5))
  | 0x40 => do some (.aadd ⟨sl, ← Dst.dec 4 (fW w) (fD w), ← Src.dec 4 (fSA w), ← Src.dec 6 (fSB w), fG w⟩)
  | 0x41 => do some (.aaddi ⟨sl, ← Dst.dec 4 (fW w) (fD w), ← Src.dec 4 (fSA w), fIMM w⟩)
  | 0x42 => do some (.asub ⟨sl, ← Dst.dec 4 (fW w) (fD w), ← Src.dec 4 (fSA w), ← Src.dec 4 (fSB w), fG w⟩)
  | 0x43 => do some (.amk ⟨sl, ← Dst.dec 4 (fW w) (fD w), ← Src.dec 6 (fSA w), ← Src.dec 6 (fSB w), fG w⟩)
  | 0x44 => do some (.ahi ⟨sl, ← Dst.dec 6 (fW w) (fD w), ← Src.dec 4 (fSA w), fG w⟩)
  | 0x45 => do some (.alo ⟨sl, ← Dst.dec 6 (fW w) (fD w), ← Src.dec 4 (fSA w), fG w⟩)
  | 0x48 => do some (.kset ⟨sl, ← Dst.dec 4 (fW w) (fD w), ← Src.dec 6 (fSA w), fG w⟩)
  | 0x49 => do some (.kget ⟨sl, ← Dst.dec 6 (fW w) (fD w), ← Src.dec 4 (fSA w), fG w⟩)
  | _ => none

/-- The candidate of a vector syllable by its opcode (R69). -/
def candidateV (sl : VSlot) (w : BitVec 40) : Option Instr :=
  match (fOP w).toNat with
  | 0x01 => do some (.fadd ⟨sl, ← Dst.dec 6 (fW w) (fD w), ← Src.dec 6 (fSA w), ← Src.dec 6 (fSB w), fG w, ← FTy.dec (fTY w)⟩)
  | 0x02 => do some (.fsub ⟨sl, ← Dst.dec 6 (fW w) (fD w), ← Src.dec 6 (fSA w), ← Src.dec 6 (fSB w), fG w, ← FTy.dec (fTY w)⟩)
  | 0x03 => do some (.fmul ⟨sl, ← Dst.dec 6 (fW w) (fD w), ← Src.dec 6 (fSA w), ← Src.dec 6 (fSB w), fG w, ← FTy.dec (fTY w)⟩)
  | 0x07 => do some (.fmin ⟨sl, ← Dst.dec 6 (fW w) (fD w), ← Src.dec 6 (fSA w), ← Src.dec 6 (fSB w), fG w, ← FTy.dec (fTY w)⟩)
  | 0x08 => do some (.fmax ⟨sl, ← Dst.dec 6 (fW w) (fD w), ← Src.dec 6 (fSA w), ← Src.dec 6 (fSB w), fG w, ← FTy.dec (fTY w)⟩)
  | 0x09 => do some (.fabs ⟨sl, ← Dst.dec 6 (fW w) (fD w), ← Src.dec 6 (fSA w), fG w, ← FTy.dec (fTY w)⟩)
  | 0x0A => do some (.fneg ⟨sl, ← Dst.dec 6 (fW w) (fD w), ← Src.dec 6 (fSA w), fG w, ← FTy.dec (fTY w)⟩)
  | 0x04 => do some (.fma ⟨sl, fW w, fD w, ← Src.dec 6 (fSA w), ← Src.dec 6 (fSB w), fG w, ← FTy.dec (fTY w)⟩)
  | 0x05 => do some (.fms ⟨sl, fW w, fD w, ← Src.dec 6 (fSA w), ← Src.dec 6 (fSB w), fG w, ← FTy.dec (fTY w)⟩)
  | 0x06 => do some (.fnma ⟨sl, fW w, fD w, ← Src.dec 6 (fSA w), ← Src.dec 6 (fSB w), fG w, ← FTy.dec (fTY w)⟩)
  | 0x0B => do some (.frcp ⟨sl, ← Dst.dec 6 (fW w) (fD w), ← Src.dec 6 (fSA w), fG w, ← FTy.dec (fTY w)⟩)
  | 0x0C => do some (.frsq ⟨sl, ← Dst.dec 6 (fW w) (fD w), ← Src.dec 6 (fSA w), fG w, ← FTy.dec (fTY w)⟩)
  | 0x0D => do some (.fexp2 ⟨sl, ← Dst.dec 6 (fW w) (fD w), ← Src.dec 6 (fSA w), fG w, ← FTy.dec (fTY w)⟩)
  | 0x0E => do some (.flog2 ⟨sl, ← Dst.dec 6 (fW w) (fD w), ← Src.dec 6 (fSA w), fG w, ← FTy.dec (fTY w)⟩)
  | 0x0F => do some (.dot2 ⟨sl, ← Dst.dec 6 (fW w) (fD w), ← Src.dec 6 (fSA w), ← Src.dec 6 (fSB w), fG w, ← HTy.dec (fTY w)⟩)
  | 0x10 => do some (.fcmpEq ⟨sl, ← Dst.dec 4 (fW w) (fD w), ← Src.dec 6 (fSA w), ← Src.dec 6 (fSB w), fG w, ← FTy.dec (fTY w)⟩)
  | 0x11 => do some (.fcmpNe ⟨sl, ← Dst.dec 4 (fW w) (fD w), ← Src.dec 6 (fSA w), ← Src.dec 6 (fSB w), fG w, ← FTy.dec (fTY w)⟩)
  | 0x12 => do some (.fcmpLt ⟨sl, ← Dst.dec 4 (fW w) (fD w), ← Src.dec 6 (fSA w), ← Src.dec 6 (fSB w), fG w, ← FTy.dec (fTY w)⟩)
  | 0x13 => do some (.fcmpLe ⟨sl, ← Dst.dec 4 (fW w) (fD w), ← Src.dec 6 (fSA w), ← Src.dec 6 (fSB w), fG w, ← FTy.dec (fTY w)⟩)
  | 0x14 => do some (.fcmpUn ⟨sl, ← Dst.dec 4 (fW w) (fD w), ← Src.dec 6 (fSA w), ← Src.dec 6 (fSB w), fG w, ← FTy.dec (fTY w)⟩)
  | 0x20 => do some (.iadd ⟨sl, ← Dst.dec 6 (fW w) (fD w), ← Src.dec 6 (fSA w), ← Src.dec 6 (fSB w), fG w, ← ITy.dec (fTY w)⟩ (fSAT w))
  | 0x21 => do some (.isub ⟨sl, ← Dst.dec 6 (fW w) (fD w), ← Src.dec 6 (fSA w), ← Src.dec 6 (fSB w), fG w, ← ITy.dec (fTY w)⟩ (fSAT w))
  | 0x22 => do some (.imul ⟨sl, ← Dst.dec 6 (fW w) (fD w), ← Src.dec 6 (fSA w), ← Src.dec 6 (fSB w), fG w, ← ITy.dec (fTY w)⟩ (fSAT w))
  | 0x23 => do some (.imulh ⟨sl, ← Dst.dec 6 (fW w) (fD w), ← Src.dec 6 (fSA w), ← Src.dec 6 (fSB w), fG w, ← ITy.dec (fTY w)⟩)
  | 0x24 => do some (.imad ⟨sl, fW w, fD w, ← Src.dec 6 (fSA w), ← Src.dec 6 (fSB w), fG w, ← ITy.dec (fTY w)⟩ (fSAT w))
  | 0x25 => do some (.iand ⟨sl, ← Dst.dec 6 (fW w) (fD w), ← Src.dec 6 (fSA w), ← Src.dec 6 (fSB w), fG w, ← ITy.dec (fTY w)⟩)
  | 0x26 => do some (.ior ⟨sl, ← Dst.dec 6 (fW w) (fD w), ← Src.dec 6 (fSA w), ← Src.dec 6 (fSB w), fG w, ← ITy.dec (fTY w)⟩)
  | 0x27 => do some (.ixor ⟨sl, ← Dst.dec 6 (fW w) (fD w), ← Src.dec 6 (fSA w), ← Src.dec 6 (fSB w), fG w, ← ITy.dec (fTY w)⟩)
  | 0x2B => do some (.imin ⟨sl, ← Dst.dec 6 (fW w) (fD w), ← Src.dec 6 (fSA w), ← Src.dec 6 (fSB w), fG w, ← ITy.dec (fTY w)⟩)
  | 0x2C => do some (.imax ⟨sl, ← Dst.dec 6 (fW w) (fD w), ← Src.dec 6 (fSA w), ← Src.dec 6 (fSB w), fG w, ← ITy.dec (fTY w)⟩)
  | 0x28 => do some (.ishl ⟨sl, ← Dst.dec 6 (fW w) (fD w), ← Src.dec 6 (fSA w), ← Src.dec 6 (fSB w), fG w, ← ITy.dec (fTY w)⟩)
  | 0x29 => do some (.ishr ⟨sl, ← Dst.dec 6 (fW w) (fD w), ← Src.dec 6 (fSA w), ← Src.dec 6 (fSB w), fG w, ← ITy.dec (fTY w)⟩)
  | 0x2A => do some (.isra ⟨sl, ← Dst.dec 6 (fW w) (fD w), ← Src.dec 6 (fSA w), ← Src.dec 6 (fSB w), fG w, ← ITy.dec (fTY w)⟩)
  | 0x30 => do some (.icmpEq ⟨sl, ← Dst.dec 4 (fW w) (fD w), ← Src.dec 6 (fSA w), ← Src.dec 6 (fSB w), fG w, ← ITy.dec (fTY w)⟩)
  | 0x31 => do some (.icmpNe ⟨sl, ← Dst.dec 4 (fW w) (fD w), ← Src.dec 6 (fSA w), ← Src.dec 6 (fSB w), fG w, ← ITy.dec (fTY w)⟩)
  | 0x32 => do some (.icmpLt ⟨sl, ← Dst.dec 4 (fW w) (fD w), ← Src.dec 6 (fSA w), ← Src.dec 6 (fSB w), fG w, ← ITy.dec (fTY w)⟩)
  | 0x33 => do some (.icmpLe ⟨sl, ← Dst.dec 4 (fW w) (fD w), ← Src.dec 6 (fSA w), ← Src.dec 6 (fSB w), fG w, ← ITy.dec (fTY w)⟩)
  | 0x40 => do some (.vsel ⟨sl, ← Dst.dec 6 (fW w) (fD w), ← Src.dec 6 (fSA w), ← Src.dec 6 (fSB w), fG w, ← Fmt.dec (fTY w)⟩)
  | 0x41 => do some (.vbc ⟨sl, ← Dst.dec 6 (fW w) (fD w), ← Src.dec 6 (fSA w), fG w, ← Fmt.dec (fTY w)⟩)
  | 0x4A => do some (.vmov ⟨sl, ← Dst.dec 6 (fW w) (fD w), ← Src.dec 6 (fSA w), fG w, ← Fmt.dec (fTY w)⟩)
  | 0x4B => do some (.vmovi sl (← Dst.dec 6 (fW w) (fD w)) (← Fmt.dec (w.extractLsb' 18 6)) (w.getLsbD 24) (w.extractLsb' 0 16))
  | 0x42 => do some (.vext ⟨sl, ← Dst.dec 6 (fW w) (fD w), ← Src.dec 6 (fSA w), ← Src.dec 6 (fSB w), fG w, ← Fmt.dec (fTY w)⟩)
  | 0x43 => do some (.vins ⟨sl, fW w, fD w, ← Src.dec 6 (fSA w), ← Src.dec 6 (fSB w), fG w, ← Fmt.dec (fTY w)⟩)
  | 0x44 => do some (.vperm ⟨sl, ← Dst.dec 6 (fW w) (fD w), ← Src.dec 6 (fSA w), ← Src.dec 6 (fSB w), fG w, ← Fmt.dec (fTY w)⟩)
  | 0x45 => do some (.vrot ⟨sl, ← Dst.dec 6 (fW w) (fD w), ← Src.dec 6 (fSA w), ← Src.dec 6 (fSB w), fG w, ← Fmt.dec (fTY w)⟩)
  | 0x46 => do some (.vzip ⟨sl, ← Dst.decPair (fW w) (fD w), ← Src.dec 6 (fSA w), ← Src.dec 6 (fSB w), fG w, ← Fmt.dec (fTY w)⟩)
  | 0x47 => do some (.vunzip ⟨sl, ← Dst.decPair (fW w) (fD w), ← Src.dec 6 (fSA w), ← Src.dec 6 (fSB w), fG w, ← Fmt.dec (fTY w)⟩)
  | 0x48 => do some (.vsum ⟨sl, ← Dst.dec 6 (fW w) (fD w), ← Src.dec 6 (fSA w), fG w, ← Fmt.dec (fTY w)⟩)
  | 0x49 => do some (.vmaxr ⟨sl, ← Dst.dec 6 (fW w) (fD w), ← Src.dec 6 (fSA w), fG w, ← Fmt.dec (fTY w)⟩)
  | 0x50 => do some (.kand ⟨sl, ← Dst.dec 4 (fW w) (fD w), ← Src.dec 4 (fSA w), ← Src.dec 4 (fSB w), fG w, ()⟩)
  | 0x51 => do some (.kor ⟨sl, ← Dst.dec 4 (fW w) (fD w), ← Src.dec 4 (fSA w), ← Src.dec 4 (fSB w), fG w, ()⟩)
  | 0x52 => do some (.kxor ⟨sl, ← Dst.dec 4 (fW w) (fD w), ← Src.dec 4 (fSA w), ← Src.dec 4 (fSB w), fG w, ()⟩)
  | 0x53 => do some (.knot ⟨sl, ← Dst.dec 4 (fW w) (fD w), ← Src.dec 4 (fSA w), fG w, ()⟩)
  | 0x54 => do some (.kcnt ⟨sl, ← Dst.dec 6 (fW w) (fD w), ← Src.dec 4 (fSA w), fG w, ()⟩)
  | _ => none

/-- The candidate of a scratchpad syllable by its opcode (R70). -/
def candidateM (w : BitVec 40) : Option Instr :=
  match (fOP w).toNat with
  | 0x01 =>
    if (fFN w).toNat = 0 then do some (.ldB ⟨← Dst.dec 6 (fW w) (fD w), fBASE w, fOFS w, fG w⟩)
    else if (fFN w).toNat = 8 then do some (.ldBn ⟨← Dst.dec 6 (fW w) (fD w), fBASE w, fOFS w, fG w⟩)
    else if (fFN w).toNat = 16 then do some (.ldH ⟨← Dst.dec 6 (fW w) (fD w), fBASE w, fOFS w, fG w⟩)
    else if (fFN w).toNat = 24 then do some (.ldHn ⟨← Dst.dec 6 (fW w) (fD w), fBASE w, fOFS w, fG w⟩)
    else if (fFN w).toNat = 32 then do some (.ldW ⟨← Dst.dec 6 (fW w) (fD w), fBASE w, fOFS w, fG w⟩)
    else none
  | 0x02 =>
    if (fFN w).toNat = 0 then some (.stB ⟨fD w, fBASE w, fOFS w, fG w⟩)
    else if (fFN w).toNat = 16 then some (.stH ⟨fD w, fBASE w, fOFS w, fG w⟩)
    else if (fFN w).toNat = 32 then some (.stW ⟨fD w, fBASE w, fOFS w, fG w⟩)
    else none
  | 0x03 =>
    if (fFN w).toNat < 64 then do some (.vldRow ⟨← Dst.dec 6 (fW w) (fD w), fBASE w, fOFS w, fG w⟩)
    else if (fFN w).toNat ≥ 64 then do some (.vldCol ⟨← Dst.dec 6 (fW w) (fD w), fBASE w, fOFS w, fG w⟩ (← Size.dec (w.extractLsb' 4 2)))
    else none
  | 0x04 =>
    if (fFN w).toNat < 64 then some (.vstRow ⟨fD w, fBASE w, fOFS w, fG w⟩)
    else if (fFN w).toNat ≥ 64 then do some (.vstCol ⟨fD w, fBASE w, fOFS w, fG w⟩ (← Size.dec (w.extractLsb' 4 2)))
    else none
  | 0x05 => do some (.vld2 ⟨← Dst.decPair (fW w) (fD w), fBASE w, fOFS w, fG w⟩ (← Orient.dec (fFN w)))
  | 0x06 => do some (.vst2 ⟨(fD w).extractLsb' 1 5, fBASE w, fOFS w, fG w⟩ (← Orient.dec (fFN w)))
  | 0x07 =>
    if (fFN w).toNat < 64 then do some (.vlddRow ⟨← Dst.dec 6 (fW w) (fD w), fBASE w, fOFS w, fG w⟩)
    else if (fFN w).toNat ≥ 64 then do some (.vlddCol ⟨← Dst.dec 6 (fW w) (fD w), fBASE w, fOFS w, fG w⟩)
    else none
  | 0x08 => do some (.vgt ⟨← Dst.dec 6 (fW w) (fD w), fBASE w, ← Src.dec 6 (fSX w), fG w⟩ (← Size.dec (w.extractLsb' 4 2)))
  | 0x09 => do some (.vgt2 ⟨← Dst.decPair (fW w) (fD w), fBASE w, ← Src.dec 6 (fSX w), fG w⟩ (← Size.dec (w.extractLsb' 4 2)))
  | 0x0A => do some (.vsc ⟨fD w, fBASE w, ← Src.dec 6 (fSX w), fG w⟩ (← Size.dec (w.extractLsb' 4 2)))
  | 0x10 =>
    if (fFN w).toNat = 0 then do some (.amoAdd ⟨← Dst.dec 6 (fW w) (fD w), fBASE w, ← Src.dec 6 (fSX w), fG w⟩)
    else if (fFN w).toNat = 8 then do some (.amoAnd ⟨← Dst.dec 6 (fW w) (fD w), fBASE w, ← Src.dec 6 (fSX w), fG w⟩)
    else if (fFN w).toNat = 16 then do some (.amoOr ⟨← Dst.dec 6 (fW w) (fD w), fBASE w, ← Src.dec 6 (fSX w), fG w⟩)
    else if (fFN w).toNat = 24 then do some (.amoXor ⟨← Dst.dec 6 (fW w) (fD w), fBASE w, ← Src.dec 6 (fSX w), fG w⟩)
    else if (fFN w).toNat = 32 then do some (.amoMin ⟨← Dst.dec 6 (fW w) (fD w), fBASE w, ← Src.dec 6 (fSX w), fG w⟩)
    else if (fFN w).toNat = 40 then do some (.amoMax ⟨← Dst.dec 6 (fW w) (fD w), fBASE w, ← Src.dec 6 (fSX w), fG w⟩)
    else if (fFN w).toNat = 48 then do some (.amoXchg ⟨← Dst.dec 6 (fW w) (fD w), fBASE w, ← Src.dec 6 (fSX w), fG w⟩)
    else if (fFN w).toNat = 56 then do some (.amoCas (fW w) ⟨fD w, fBASE w, ← Src.dec 6 (fSX w), fG w⟩)
    else none
  | 0x11 =>
    if (fFN w).toNat = 0 then do some (.redF32 ⟨fD w, fBASE w, ← Src.dec 6 (fSX w), fG w⟩)
    else if (fFN w).toNat = 64 then do some (.redS32 ⟨fD w, fBASE w, ← Src.dec 6 (fSX w), fG w⟩)
    else none
  | _ => none

/-- The candidate of a conversion and bank syllable by its opcode (R71). -/
def candidateX (w : BitVec 40) : Option Instr :=
  match (fOP w).toNat with
  | 0x01 => do some (.cvt ⟨← Dst.dec 6 (fW w) (fD w), ← Src.dec 6 (fSA w), ← Fmt.dec (fTO w), ← Fmt.dec (fFROM w), ← Rnd.dec (fRND w), w.getLsbD 2⟩)
  | 0x02 => do some (.qblk ⟨← Dst.dec 6 (fW w) (fD w), ← Src.dec 6 (fSA w), ← Fam.dec (fTO w), ← BTy.dec (fFROM w), ← Rnd.dec (fRND w), w.getLsbD 2⟩)
  | 0x03 => do some (.dqblk ⟨← Dst.dec 6 (fW w) (fD w), ← Src.dec 6 (fSA w), ← BTy.dec (fTO w), ← Fam.dec (fFROM w), ← Rnd.dec (fRND w), w.getLsbD 2⟩)
  | 0x04 => do some (.vpk ⟨← Dst.dec 6 (fW w) (fD w), ← Src.decPair (fSA w), ← Fmt.dec (fTO w), ← Fmt.dec (fFROM w), ← Rnd.dec (fRND w), w.getLsbD 2⟩)
  | 0x05 => do some (.vupk (← Dst.decPair (fW w) (fD w)) (← Src.dec 6 (fSA w)) (← Fmt.dec (fTO w)) (← Fmt.dec (fFROM w)))
  | 0x08 => do some (.rngSeed (← Src.dec 6 (fSA w)) (← Src.dec 6 (fSB w)) (fG w))
  | 0x09 => do some (.rngPop (← Dst.dec 6 (fW w) (fD w)) (fG w))
  | 0x10 => do some (.spush (w.extractLsb' 0 6) (← Src.dec 6 (fSA w)) (fG w))
  | 0x11 => do some (.spop (← Dst.dec 6 (fW w) (fD w)) (w.extractLsb' 0 6) (fG w))
  | 0x12 => do some (.scnt (← Dst.dec 6 (fW w) (fD w)) (w.extractLsb' 0 6) (fG w))
  | 0x13 => some (.sreset (w.extractLsb' 0 6) (fG w))
  | 0x20 => some (.bgive ⟨fD w, fG w⟩ (w.extractLsb' 17 2) (w.extractLsb' 19 6))
  | 0x21 => some (.blend ⟨fD w, fG w⟩ (w.extractLsb' 19 6) (w.extractLsb' 0 4))
  | 0x22 => some (.bback ⟨fD w, fG w⟩)
  | 0x23 =>
    if (fFN w).toNat = 0 then some (.brot ⟨fD w, fG w⟩)
    else if (fFN w).toNat = 1 then some (.brotRev ⟨fD w, fG w⟩)
    else none
  | 0x24 => do some (.bmap (← Dst.dec 6 (fW w) (fD w)) (w.extractLsb' 0 6) (fG w))
  | 0x25 => do some (.bfmt ⟨fD w, fG w⟩ (← Fmt.dec (w.extractLsb' 11 6)))
  | 0x26 => some (.bzero ⟨fD w, fG w⟩)
  | 0x27 => some (.bcopy ⟨fD w, fG w⟩ (w.extractLsb' 19 6) (w.extractLsb' 15 4) (w.extractLsb' 11 4))
  | _ => none

/-- The candidate of a matrix, fabric and staging syllable by its opcode (R72). -/
def candidateE (w : BitVec 40) : Option Instr :=
  match (fOP w).toNat with
  | 0x01 => some (.mclaim (w.extractLsb' 0 8))
  | 0x02 => some (.mrel (w.extractLsb' 0 8))
  | 0x03 =>
    if w.getLsbD 4 = false then some (.mstageRow ⟨w.extractLsb' 24 8, w.extractLsb' 20 4, w.extractLsb' 11 9, w.extractLsb' 5 6⟩)
    else if w.getLsbD 4 = true then do some (.mstageCol ⟨w.extractLsb' 24 8, w.extractLsb' 20 4, w.extractLsb' 11 9, w.extractLsb' 5 6⟩ (← Size.dec (w.extractLsb' 2 2)))
    else none
  | 0x04 => some (.mshape (w.extractLsb' 25 2) (fBASE w) (fOFS w) (fG w))
  | 0x05 => some (.mma (w.extractLsb' 0 2) (w.getLsbD 4) (w.getLsbD 6) (w.getLsbD 5) (fG w))
  | 0x06 => do some (.maccRd (← Dst.dec 6 (fW w) (fD w)) (w.extractLsb' 0 8) (w.extractLsb' 8 6) (w.extractLsb' 14 2))
  | 0x07 => some (.maccZero (w.extractLsb' 0 8))
  | 0x08 => do some (.mqnt ⟨fD w, fBASE w, fOFS w, fG w⟩ (← Fam.dec (fTY w)) (fSAT w))
  | 0x10 =>
    if (w.extractLsb' 0 6).toNat = 0 then do some (.xsendLo (fTAG w) (← Src.dec 6 (fSA w)))
    else if (w.extractLsb' 0 6).toNat = 1 then do some (.xsendHi (fTAG w) (← Src.dec 6 (fSA w)))
    else none
  | 0x11 =>
    if (w.extractLsb' 0 6).toNat = 0 then do some (.xrecvLo (← Dst.dec 6 (fW w) (fD w)) (fTAG w))
    else if (w.extractLsb' 0 6).toNat = 1 then do some (.xrecvHi (← Dst.dec 6 (fW w) (fD w)) (fTAG w))
    else none
  | 0x12 => do some (.xland (← Src.dec 6 (fSA w)) (fIMM w))
  | 0x13 => do some (.xtag (← Src.dec 6 (fSA w)) (w.extractLsb' 6 4))
  | 0x14 => some (.xpoll (fD w) (fTAG w))
  | 0x15 => some .tkalign
  | 0x16 => some (.tkhold (fIMM w))
  | 0x20 => do some (.stgSet (w.extractLsb' 0 8) (← CtxReg.dec (w.extractLsb' 8 4)) (← Src.dec 6 (fSA w)))
  | 0x21 => some (.readToBank (w.extractLsb' 0 8))
  | 0x22 => do some (.stgRd (fD w) (w.extractLsb' 0 8) (← CtxName.dec (w.extractLsb' 8 4)))
  | 0x28 => do some (.tlWait (w.extractLsb' 0 8) (← Src.dec 4 (fSA w)))
  | 0x29 => some (.tlRd (w.extractLsb' 25 4) (w.extractLsb' 0 8))
  | _ => none

/-- The candidate of a sequencing, synchronisation and system syllable by its opcode (R73). -/
def candidateC (w : BitVec 40) : Option Instr :=
  match (fOP w).toNat with
  | 0x00 => some .nop
  | 0x01 => some (.br (fIMM w))
  | 0x02 => do some (.brz (← Src.dec 6 (fSA w)) (fIMM w))
  | 0x03 => do some (.brnz (← Src.dec 6 (fSA w)) (fIMM w))
  | 0x04 => do some (.brk (← Src.dec 6 (fSA w)) (fIMM w))
  | 0x05 => some (.call (w.extractLsb' 25 4) (fIMM w))
  | 0x06 => do some (.ret (← Src.dec 4 (fSA w)) (fG w))
  | 0x07 => do some (.loop (← Src.dec 6 (fSA w)) (fIMM w))
  | 0x08 => some (.halt (fG w))
  | 0x10 => do some (.tkawait (← Src.dec 4 (fSA w)) (fIMM w))
  | 0x11 => some (.gate (w.extractLsb' 0 9))
  | 0x18 => do some (.wsplit (← Src.dec 6 (fSA w)) (← Src.dec 6 (fSB w)) (fG w))
  | 0x19 => do some (.wret (← Src.dec 6 (fSA w)) (fG w))
  | 0x1A => do some (.jcbAdd (← Src.dec 6 (fSA w)) (fG w))
  | 0x1B => some (.jcbPost (fG w))
  | 0x1C => some (.npreOn (fG w))
  | 0x1D => some (.npreOff (fG w))
  | 0x20 => some (.trap (w.extractLsb' 0 16))
  | 0x21 => some (.svc (w.extractLsb' 0 16))
  | 0x22 => some (.brkpt (w.extractLsb' 0 16))
  | 0x23 => some .iret
  | 0x24 => do some (.crget (fD w) (w.getLsbD 7) (← CReg.dec (w.extractLsb' 8 10)))
  | 0x25 => do some (.crset (← Src.dec 6 (fSA w)) (w.getLsbD 7) (← CReg.dec (w.extractLsb' 8 10)))
  | 0x30 =>
    if (w.extractLsb' 5 2).toNat = 0 then do some (.fenceAcq (← Scope.dec (w.extractLsb' 0 3)) (fG w))
    else if (w.extractLsb' 5 2).toNat = 1 then do some (.fenceRel (← Scope.dec (w.extractLsb' 0 3)) (fG w))
    else if (w.extractLsb' 5 2).toNat = 2 then do some (.fenceAr (← Scope.dec (w.extractLsb' 0 3)) (fG w))
    else if (w.extractLsb' 5 2).toNat = 3 then do some (.fenceSc (← Scope.dec (w.extractLsb' 0 3)) (fG w))
    else none
  | 0x31 =>
    if (w.extractLsb' 5 2).toNat = 0 then do some (.waitaEq ⟨fD w, fBASE w, fOFS w, fG w⟩ (← Scope.dec (w.extractLsb' 0 3)))
    else if (w.extractLsb' 5 2).toNat = 1 then do some (.waitaNe ⟨fD w, fBASE w, fOFS w, fG w⟩ (← Scope.dec (w.extractLsb' 0 3)))
    else if (w.extractLsb' 5 2).toNat = 2 then do some (.waitaGen ⟨fD w, fBASE w, fOFS w, fG w⟩ (← Scope.dec (w.extractLsb' 0 3)))
    else none
  | 0x32 => some (.barArr (w.extractLsb' 0 9))
  | 0x33 => some (.barWait (w.extractLsb' 0 9))
  | 0x34 => some (.barSync (w.extractLsb' 0 9))
  | _ => none

/-- The candidate of a syllable of any class. -/
def candidate : SlotClass → BitVec 40 → Option Instr
  | .s0, w => candidateS .s0 w
  | .s1, w => candidateS .s1 w
  | .v0, w => candidateV .v0 w
  | .v1, w => candidateV .v1 w
  | .m, w => candidateM w
  | .x, w => candidateX w
  | .e, w => candidateE w
  | .c, w => candidateC w

/-- The instruction of a syllable, or none where R74 makes it an illegal instruction: the candidate of its opcode when
it is well formed and its encoding is the syllable itself, so that no reserved bit is set. -/
def decodeSyllable (c : SlotClass) (w : BitVec 40) : Option Instr :=
  match candidate c w with
  | some i => if i.wellFormed && decide (i.encode = some (c, w)) then some i else none
  | none => none

/-- The one instruction that the decoder answers for the words of `i`: the four staging commands share one syllable
(R72, R300), which decodes to the first of them; the command word tells them apart when it issues. -/
def Instr.canon : Instr → Instr
  | .readToLandingBuffer c => .readToBank c
  | .write c => .readToBank c
  | .trackedWrite c => .readToBank c
  | i => i

/-! ## Bundles (R42, R43) -/

/-- The classes that a header announces, in increasing class order. -/
def headerClasses (h : Byte) : List SlotClass := SlotClass.all.filter fun c => h.getLsbD c.index

/-- The number of bytes of a bundle with this header. -/
def bundleLength (h : Byte) : Nat := 1 + 5 * (headerClasses h).length

/-- Five bytes as a syllable, lowest address first. -/
def syllable (b : List Byte) : BitVec 40 :=
  b.getD 4 0 ++ b.getD 3 0 ++ b.getD 2 0 ++ b.getD 1 0 ++ b.getD 0 0

/-- The bytes of a syllable, lowest address first. -/
def syllableBytes (w : BitVec 40) : List Byte :=
  [w.extractLsb' 0 8, w.extractLsb' 8 8, w.extractLsb' 16 8, w.extractLsb' 24 8, w.extractLsb' 32 8]

/-- The syllables of a bundle with their classes, from the bytes after the header. -/
def splitSyllables : List SlotClass → List Byte → List (SlotClass × BitVec 40)
  | [], _ => []
  | c :: cs, b => (c, syllable b) :: splitSyllables cs (b.drop 5)

/-- The bundle at the head of a byte string: for each syllable its class and its instruction, or none where the
syllable is an illegal instruction. -/
def decodeBundle (bytes : List Byte) : List (SlotClass × Option Instr) :=
  (splitSyllables (headerClasses (bytes.getD 0 0)) (bytes.drop 1)).map fun p => (p.1, decodeSyllable p.1 p.2)

/-- The bytes of the one-syllable bundle that holds an instruction. -/
def Instr.bundleBytes (i : Instr) : Option (List Byte) :=
  i.encode.map fun p => BitVec.ofNat 8 (2 ^ p.1.index) :: syllableBytes p.2

/-- The bytes of a natural number, least significant first. -/
def leBytes : Nat → Nat → List Byte
  | 0, _ => []
  | n + 1, w => BitVec.ofNat 8 w :: leBytes n (w / 256)

/-- The instruction that the decoder reads from a bundle whose bytes are the bits of `w`, the header first, when the
bundle holds exactly one syllable. -/
def decodeTableWord (nbits w : Nat) : Option Instr :=
  match decodeBundle (leBytes 41 (w % 2 ^ nbits)) with
  | [(_, some i)] => some i
  | _ => none

end Sys2Proof
end

