-- ==== Sys2Proof/Machine/State.lean ====
section
/-!
DEFINITION. The state of the module: every piece of state that spec/ names (INVENTORY.md lists them with their rules),
the reasons a step can stop, and the state right after reset.
-/

namespace Sys2Proof.Machine

/-! ## Stops -/

/-- Why the machine stops with a fault. -/
inductive Fault where
  /-- Raised by BIT_UPSET of a far-memory piece, and by a host address given to it as an upset, at or above 3 x 2^40
  (spec/11 R292: that piece does not exist). Safe: the machine stops where there is nothing to upset. -/
  | noSuchAddress
  deriving DecidableEq, Repr

/-- Why the model gives an instruction no meaning. -/
inductive Refusal where
  /-- Raised by an arm of Dispatch.lean for an instruction that has no meaning yet. Safe: the model stops. -/
  | notModelled (mnemonic : String)
  deriving DecidableEq, Repr

/-! ## Memory -/

/-- Sparse bytes: addresses strictly rising, no entry equal to what an unlisted address reads as (0: spec/08 R201 for
SRAM, a DESIGN CHOICE for far memory, notes/assumptions/1.md). -/
abbrev Memory := List Host.Cell

/-! ## A strand -/

/-- A bypass latch (R50). -/
structure LatchState where
  val : MVec
  valid : Bool
  deriving DecidableEq, Repr

/-- An entry of the loop stack (R105). -/
structure LoopEntry where
  start : BitVec 64
  stop : BitVec 64
  count : Nat
  deriving DecidableEq, Repr

/-- The states of a map entry (R199). -/
inductive MapSt where
  | detached | owned | lent | read | leaving | arriving
  deriving DecidableEq, Repr

/-- An entry of a bank map (R199). -/
structure MapEntry where
  st : MapSt
  bank : BitVec 6
  deriving DecidableEq, Repr

/-- What a strand's issue unit is doing (R96). `absent`: the image places no strand in the core. `stopped`: the strand
took a fatal fault (R341). -/
inductive CoreStatus where
  | absent
  | running
  | waiting
  | tkawait (till : Nat)
  | gate (n : Nat)
  | halted
  | retired
  | stopped
  deriving DecidableEq, Repr

/-- The state of one control core and its strand (R15, R16, R349). `tkAt` is the target that a `tkawait` took at its
bundle's first presentation, with the mark of the register that it was read from (R110, R343). -/
structure Core where
  g : Tab 6 MWord
  a : Tab 4 MQuad
  v : Tab 6 MVec
  k : Tab 4 MMask
  latch : Tab 3 LatchState
  pc : BitVec 64
  xfer : Option (BitVec 64 × Nat)
  idle : Nat
  loops : List LoopEntry
  aside : List LoopEntry
  status : CoreStatus
  synced : Option Nat
  span : Bool
  rebase : Quad
  stage : Byte
  taint : Bool
  npre : Option Nat
  heapBase : Quad
  heapLimit : Quad
  heapOff : Quad
  weight : BitVec 33
  posted : Bool
  fCode : BitVec 16
  fAct : Bool
  fNest : Bool
  fDly : BitVec 2
  fClass : BitVec 3
  fCause : Byte
  fdata : Quad
  epc : BitVec 22
  etgt : BitVec 22
  tvecEn : Bool
  tvec : BitVec 22
  escr : Quad
  dbg : Bool
  rngK : Quad
  rngN : Quad
  map : Tab 6 MapEntry
  shapes : Tab 2 MVec
  aliases : Tab 4 (Option (BitVec 12))
  arrivals : List (Nat × Nat)
  pendingFault : Option (BitVec 8)
  tkAt : Option MQuad
  retiredAt : Option Nat
  deriving DecidableEq, Repr

/-- A core at the start tick of its strand (R123, R105, R111, R349, R350), with no strand in it. -/
def Core.fresh : Core where
  g := Tab.all 6 (.clean 0)
  a := Tab.all 4 (.clean 0)
  v := Tab.all 6 (.clean 0)
  k := Tab.all 4 (.clean 0)
  latch := Tab.all 3 ⟨.clean 0, false⟩
  pc := 0
  xfer := none
  idle := 0
  loops := []
  aside := []
  status := .absent
  synced := none
  span := false
  rebase := 0
  stage := 0
  taint := false
  npre := none
  heapBase := 0
  heapLimit := 0
  heapOff := 0
  weight := 0
  posted := false
  fCode := 0
  fAct := false
  fNest := false
  fDly := 0
  fClass := 0
  fCause := 0
  fdata := 0
  epc := 0
  etgt := 0
  tvecEn := false
  tvec := 0
  escr := 0
  dbg := false
  rngK := 0
  rngN := 0
  map := Tab.all 6 ⟨.detached, 0⟩
  shapes := Tab.all 2 (.clean 0)
  aliases := Tab.all 4 none
  arrivals := []
  pendingFault := none
  tkAt := none
  retiredAt := none

/-! ## A tile -/

/-- The stream state of a bank (R187). -/
structure Stream where
  h : BitVec 14
  c : Nat
  deriving DecidableEq, Repr

/-- An operand slot (R229). -/
structure OpSlot where
  owner : Option (BitVec 2)
  p : Nat
  fmt : Option Fmt
  f : Nat
  u : Nat
  deriving DecidableEq, Repr

/-- An accumulator tile (R229). `since` is the tick of the acceptance that began its busy interval. -/
structure AccTile where
  zero : BitVec 256
  y : Nat
  since : Nat
  deriving DecidableEq, Repr

/-- An accepted matrix operation (R235, R238, R239). -/
structure MmaOp where
  id : Nat
  core : BitVec 2
  acc : BitVec 8
  aslot : BitVec 8
  bslot : BitVec 8
  m : Nat
  n : Nat
  k : Nat
  afirst : Nat
  astride : Nat
  bfirst : Nat
  bstride : Nat
  set : Bool
  na : Bool
  nb : Bool
  fa : Fmt
  fb : Fmt
  coop : Bool
  gr : Nat
  gc : Nat
  ta : BitVec 12
  tb : BitVec 12
  start : Nat
  done : Nat
  deriving DecidableEq, Repr

/-- An array send under way (R276): the rows still to go, each flit of a row in turn. -/
structure ArraySend where
  id : Nat
  slot : BitVec 8
  tag : BitVec 12
  fmt : BitVec 6
  rows : List Nat
  half : Bool
  deriving DecidableEq, Repr

/-- An element of a block under accumulation, with its mark (R239, R243). -/
abbrev AccElem := Marked 32 1

/-- A block of a result that the array has finished and writes back at the next tick (R239): its accumulator tile, its first
row and column, the rows and columns of the result, and its 16 x 16 elements. -/
structure ArrBlock where
  acc : BitVec 8
  row0 : Nat
  col0 : Nat
  m : Nat
  n : Nat
  elems : List AccElem
  deriving DecidableEq, Repr

/-- A route table entry (R271): `inp` none is the local port; the outputs are sides and the local port. -/
structure Route where
  tag : BitVec 12
  slot : Nat
  inp : Option Side
  outs : List Side
  loc : Bool
  deriving DecidableEq, Repr

/-- An entry of the landing buffer (R279). `ready` is the ready tick of an unlanded flit or the landing tick of a
landed one; `armed` says that the entry is ready from that tick, without a slot still to be found; `origin` is the flit's. -/
structure LandEntry where
  tag : BitVec 12
  data : BitVec 256
  psn : BitVec 4
  ready : Nat
  kind : BitVec 2
  armed : Bool
  origin : Option (CtxId × Nat × Nat)
  deriving DecidableEq, Repr

/-- A posted landing slot (R279). -/
structure Post where
  tag : BitVec 12
  due : Nat
  core : BitVec 2
  deriving DecidableEq, Repr

/-- The bank ticks of an access that are fixed at its issue (R206), with the window of an `amo` (R333). -/
structure Booking where
  bank : BitVec 6
  first : Nat
  last : Nat
  window : Bool
  core : BitVec 2
  cls : Nat
  iss : Nat
  deriving DecidableEq, Repr

/-- What a presented bundle that passes its own checks, or a retirement, asks of the tile in this tick (R216, R220, R225,
R284, R333). `withdraw` is the entry that a read mapping withdrawn at retirement takes; `retire` says that the core's strand
retires in this tick. -/
inductive Intent where
  | change (names : List (BitVec 2 × BitVec 6)) (marks : List (BitVec 2 × BitVec 6 × MapEntry))
  | rotate (slot : BitVec 6) (rev : Bool)
  | send (tag : BitVec 12)
  | book (b : Booking)
  | withdraw (slot : BitVec 6) (e : MapEntry)
  | retire
  deriving DecidableEq, Repr

/-- The state of one logical tile (R15 to R19). `elastic` holds the flits in the buffers with the ticks at which they leave
the router (R257); `outs` the output ports that flits of the present tick have taken, none for the local one (R272);
`wheel` the router's wheel position (R266). `delay` counts the cycles that the tile has stood still, in [`stopFrom`,
`stopUntil`) the latest stretch of them; `lagHigh` says that its lag has reached the point at which a hold is raised and
has not fallen below it since (R258, R263). `gained` counts the cycles that the tile's clock has run more than its wafer's
rate, through its trim, less those that a slow trim and droops have cost it; `trimAt` is the cycle of its latest trim
update (R260). -/
structure Tile where
  part : Quad
  slotTable : List (Option (BitVec 2) × Nat)
  sram : Memory
  marks : List Nat
  flips : List (Nat × BitVec 72)
  fmts : Tab 6 Fmt
  streams : Tab 6 Stream
  homes : Tab 6 (Option (BitVec 2 × BitVec 6))
  opSlots : Tab 8 OpSlot
  accs : Tab 8 AccTile
  arrX : Nat
  arrQueue : List MmaOp
  arrAcc : List AccElem
  arrOut : List ArrBlock
  arrNext : Nat
  sends : List ArraySend
  redN : BitVec 32
  redBuf : List RedEntry
  bookings : List Booking
  touched : List (BitVec 6 × Bool)
  locals : List (BitVec 12)
  outs : List (Option Side)
  elastic : List (Side × Nat × Flit)
  landing : List LandEntry
  taken : List LandEntry
  posts : List Post
  tagPsn : List (BitVec 12)
  tagLost : List (BitVec 12)
  lastArray : List (BitVec 12 × Flit)
  routes : List Route
  wheel : BitVec 7
  off : BitVec 64
  offHist : List (Nat × BitVec 64)
  dir : BitVec 4
  delta : BitVec 16
  pend : Option Nat
  delay : Int
  holds : BitVec 16
  peak : BitVec 16
  stopFrom : Nat
  stopUntil : Nat
  lagHigh : Bool
  held : Bool
  collide : Quad
  trim : Int
  trimAcc : Int
  trimCycles : Nat
  trimAt : Nat
  gained : Int
  droop : Nat
  linkErr : List (Side × BitVec 5)
  intents : List (BitVec 2 × Intent)
  deriving DecidableEq, Repr

/-- The partition word of a tile without a record of kind 0x0003: SCR = 64 (R195). -/
def defaultPart : Quad := 0x0000000400000000

/-- A tile at the start tick `start` of its claim, with no record in the image (R195, R201, R229) and its wheel position
at `pos` (R266). -/
def Tile.fresh (start : Nat) (pos : BitVec 7) : Tile where
  part := defaultPart
  slotTable := []
  sram := []
  marks := []
  flips := []
  fmts := Tab.all 6 (.flt .fp32)
  streams := Tab.all 6 ⟨0, 0⟩
  homes := Tab.all 6 none
  opSlots := Tab.all 8 ⟨none, 0, none, start, start⟩
  accs := Tab.all 8 ⟨BitVec.allOnes 256, start, start⟩
  arrX := start
  arrQueue := []
  arrAcc := []
  arrOut := []
  arrNext := 0
  sends := []
  redN := 0
  redBuf := []
  bookings := []
  touched := []
  locals := []
  outs := []
  elastic := []
  landing := []
  taken := []
  posts := []
  tagPsn := []
  tagLost := []
  lastArray := []
  routes := []
  wheel := pos
  off := 0
  offHist := []
  dir := 0
  delta := 0
  pend := none
  delay := 0
  holds := 0
  peak := 0
  stopFrom := 0
  stopUntil := 0
  lagHigh := false
  held := false
  collide := 0
  trim := 0
  trimAcc := 0
  trimCycles := 0
  trimAt := 0
  gained := 0
  droop := 0
  linkErr := []
  intents := []

/-! ## Operations in flight -/

/-- The atomic operations (R332). -/
inductive AmoOp where
  | add | and | or | xor | min | max | xchg | cas
  deriving DecidableEq, Repr

/-- A bank read that meets its bank after the issue tick (R206), with the strand that issued it and whether the strand
was tainted then (R343). Cells are byte offsets; a missing cell is a disabled element. -/
inductive LateRead where
  | pair (st : StrandId) (taint : Bool) (first : MVec) (d : Dst 5) (bank : BitVec 6) (cells : List (Option Nat)) (en : Mask)
  | amo (st : StrandId) (taint : Bool) (op : AmoOp) (bank : BitVec 6) (off : Nat) (data cmp : MWord) (d : Dst 6)
  | pop (st : StrandId) (taint : Bool) (bank : BitVec 6) (h : BitVec 14) (d : Dst 6)
  | copy (st : StrandId) (taint : Bool) (iss : Nat) (src : BitVec 6) (ff : Fmt) (dst : BitVec 6) (tf : Fmt) (row : Nat)
  deriving DecidableEq, Repr

/-- What an agenda entry does when its tick comes: an event row, a late bank read, or a delayed bundle fault check. -/
inductive Action where
  | ev (i : Event)
  | read (r : LateRead)
  deriving DecidableEq, Repr

/-- An operation issued and not yet effected. `phase` and `rank` place it inside its tick (R207, R208); `iss` and `cls`
are its issue tick and slot class (R50, R54); `vis` is the tick from which its write is seen, for writes that releases
cover (R317, R324); `retire` is the tick that its strand's retirement waits for (R109); `done` the one that the claim's
completion waits for (R120). -/
structure Sched where
  claim : Nat
  tick : Nat
  phase : Nat
  rank : Nat
  iss : Nat
  cls : Nat
  owner : Option StrandId
  vis : Option Nat
  retire : Nat
  done : Nat
  act : Action
  deriving DecidableEq, Repr

/-! ## A claim -/

/-- The completion mechanisms (R116). -/
inductive Mech where
  | weight | jcb
  deriving DecidableEq, Repr

/-- An entry of the claim's fault record (R342). `core` 15 names an engine, a router or a deposit. -/
structure FaultRec where
  cause : Byte
  tick : Nat
  x : Nat
  y : Nat
  core : Nat
  cls : Nat
  data : Quad
  deriving DecidableEq, Repr

/-- The first uncorrectable error of a claim (R344, R369). -/
structure ErrRec where
  tick : Nat
  x : Nat
  y : Nat
  core : Nat
  place : Quad
  deriving DecidableEq, Repr

/-- Whether and why a claim's count stands. -/
inductive ClaimRun where
  | running
  | preempted (b : Nat)
  | faulted (at_ : Nat)
  | haltedAt (b : Nat)
  | aborted (b : Nat)
  | ended (at_ : Nat) (satisfied : Bool)
  deriving DecidableEq, Repr

/-- A named barrier: its phase, the arrivals of the phase, the arrivals of a pending gate, its release tick once it is fixed,
and the claim's tick at which its first member arrived (R114, R115, R329). -/
structure Barrier where
  phase : Nat
  arrived : List (StrandId × Nat)
  gated : List (StrandId × Nat)
  release : Option Nat
  since : Nat
  deriving DecidableEq, Repr

/-- A binding of a strand's local context number (R298). -/
structure Binding where
  st : StrandId
  c : BitVec 8
  ctx : CtxId
  deriving DecidableEq, Repr

/-- A declared far range (R93, R297). -/
structure FarRange where
  addr : Nat
  len : Nat
  rd : Bool
  wr : Bool
  deriving DecidableEq, Repr

/-- How far a move of a row has come with the gates of its claim (R36, R122): it has not fallen due, it waits for the
claim's next gate, that gate has released. -/
inductive GateWait where
  | notDue | waits | passed
  deriving DecidableEq, Repr

/-- A requested move of a row, to put a column under test or, without one, to shift back (R348). -/
structure MoveReq where
  field : Nat
  row : Nat
  col : Option Nat
  gate : GateWait
  deriving DecidableEq, Repr

/-- A tile frozen for a late landing (R281): the tag, the wall cycle at which the landing is lost, the wall cycle of its next
hold (R263), and the step that its flit lets go on. -/
structure Freeze where
  tile : TileId
  tag : BitVec 12
  limit : Nat
  next : Nat
  retry : Event
  deriving DecidableEq, Repr

/-- The state of one claim (R29, R116, R328, R342, R346). Of a fleet's claim: `peerIn` holds the other wafers' entries on its
peer links (R273), `parley` the boundary at which its count stands until every wafer has said whether it may stop there, and
`answers` what they have said (R363). -/
structure Claim where
  tick : Nat
  start : Nat
  fx0 : Nat
  fy0 : Nat
  fw : Nat
  fh : Nat
  wafer : Nat
  fleet : Bool
  mech : Mech
  returned : Nat
  jcount : Nat
  jtotal : Nat
  jbad : Bool
  slot : Byte
  user : BitVec 32
  sig : Nat
  crec : Nat
  run : ClaimRun
  faults : List FaultRec
  faultCount : Nat
  firstErr : Option ErrRec
  fatal : Option Nat
  preempt : Bool
  moves : List MoveReq
  abort : Option Nat
  vitrine : List Sched
  barriers : List (Nat × Barrier)
  bart : List (BitVec 64)
  tags : List (BitVec 12 × Nat × Nat)
  ranges : List FarRange
  binds : List Binding
  ptroot : Nat
  lostPorts : List Nat
  peerIn : List PeerRoute
  parley : Option Nat
  answers : List (Nat × Nat × Bool)
  frozen : Option Freeze
  lastDone : Nat
  evaluated : Bool
  deriving DecidableEq, Repr

/-! ## Staging -/

/-- The writable registers of a context (R299). -/
structure CtxRegs where
  far : Quad
  len : Quad
  cmd : Quad
  loc : Quad
  tag : Quad
  tick : Quad
  pitch : Quad
  flag : Quad
  fval : Quad
  tcount : Quad
  deriving DecidableEq, Repr

def CtxRegs.zero : CtxRegs := ⟨0, 0, 0, 0, 0, 0, 0, 0, 0, 0⟩

/-- A command in flight (R301 to R310): its number, its registers, its activation tick, its first tick, its units, the
bank format, the lines fetched, the far bytes whose code failed (their offsets in the command and the addresses of their
pieces), the rows read at the source, their physical far bytes, the rows received by the engine, its flits' release ticks with the hops and the edge link of its route, the edge
link and release tick of its flag, its completion tick C (none while a tracker waits), and the tracker's count. -/
structure Cmd where
  num : Nat
  regs : CtxRegs
  active : Nat
  t0 : Nat
  units : Nat
  fmt : Fmt
  lines : List (Nat × MVec)
  bad : List (Nat × Nat)
  src : List (Nat × MVec)
  phys : List (Nat × List Nat)
  rows : List (Nat × MVec)
  release : List Nat
  hops : Nat
  edge : Nat
  flagAt : Option (Nat × Nat)
  commit : Option Nat
  armed : Bool
  count : Nat
  deriving DecidableEq, Repr

/-- An engine context (R298, R299). -/
structure Ctx where
  owner : Option StrandId
  shadow : CtxRegs
  pending : Option (Nat × CtxRegs)
  activeTill : Option Nat
  issued : Nat
  activeNum : Nat
  timeline : Nat
  cmds : List Cmd
  deriving DecidableEq, Repr

def Ctx.fresh : Ctx := ⟨none, .zero, none, none, 0, 0, 0, []⟩

/-- A TLB entry (R295): the claim, the virtual page, its size and the leaf. -/
structure TlbEntry where
  engine : Nat
  claim : Nat
  page : Nat
  size : Nat
  leaf : BitVec 64
  deriving DecidableEq, Repr

/-! ## The management side -/

/-- A user-mode queue (R355, R357). -/
structure Queue where
  target : Quad
  qread : Quad
  base : Quad
  wbase : Quad
  wlim : Quad
  log2 : Nat
  en : Bool
  badPkt : Bool
  badIdx : Bool
  waitV : Bool
  disabling : Bool
  deriving DecidableEq, Repr

/-- The diagnostic mailbox (R366); `hop` and `hargs` are the code and the arguments of the command in hand, `held` its outcome
while the curator is between a switch and its acceptance (R378). -/
structure Mailbox where
  op : Byte
  htag : BitVec 16
  args : MbArgs
  ring : Bool
  busy : Bool
  done : Bool
  result : Byte
  echo : BitVec 16
  hand : BitVec 16
  hop : Byte
  hargs : MbArgs
  held : Option (Byte × Quad)
  res0 : Quad
  res1 : Quad
  res2 : Quad
  res3 : Quad
  deriving DecidableEq, Repr

/-- The states of a catalogue slot (R365). -/
inductive CatSt where
  | empty | loading | resident | evicting
  deriving DecidableEq, Repr

/-- A catalogue slot: its state, the resident image, the lease with the ranges that it pins (R297), and the request that
waits (R365). -/
structure CatSlot where
  st : CatSt
  image : List Byte
  leased : Bool
  pinned : List FarRange
  unlease : Bool
  deriving DecidableEq, Repr

/-- Power state of the module (R370, R373). -/
inductive Power where
  | off | running | safe
  deriving DecidableEq, Repr

/-- The firmware state of an embedded controller and its switch unit (R374 to R377): the digests of the images in its two
halves, its memory, which holds both halves and the hand-over record, the registers of the switch unit, the address of the
record of the latest switch, and whether a switch has been asked for that waits for the controller's requests (R374). -/
structure Ctl where
  active : BitVec 256
  retained : BitVec 256
  mem : Memory
  half : Bool
  arg : BitVec 32
  rbk : Bool
  alive : Bool
  accept : Bool
  recver : Byte
  switching : Bool
  since : Nat
  recordAt : BitVec 32
  failed : Bool
  asked : Bool
  deriving DecidableEq, Repr

/-- The curator's core, RV32IMC: its 32 registers, the first of which reads zero, and its program counter (R11, R35). Its
firmware is no part of the spec: boot, switches and rollbacks set the registers (R374, R376). DESIGN CHOICE:
notes/assumptions/56.md. -/
structure CuratorCore where
  x : Tab 5 Word
  pc : Word
  deriving DecidableEq, Repr

/-- What a docent keeps of its field (R23, R36, R348): the temperature, the counts of holds and of droops, and a
performance counter of freeze cycles. DESIGN CHOICE: notes/assumptions/57.md. -/
structure Docent where
  temp : Int
  holds : Nat
  droops : Nat
  freezes : Nat
  deriving DecidableEq, Repr

/-- The outcomes of a boot step (R367, R370). -/
inductive StepOut where
  | pass | fail | skipped | alternative
  deriving DecidableEq, Repr

/-- A part of a fleet launch that has ended (R363, R369). -/
structure FleetPart where
  wafer : Nat
  kind : Nat
  fault : Quad
  ftick : Quad
  fdata : Quad
  endTick : Nat
  tlmin : Option Nat
  deriving DecidableEq, Repr

/-- What step 4 of R32 reads for a slot: its image, its accession record, the barrier and the binding table that the record
names, and the ranges that its lease pins (R361). -/
structure SlotParts where
  image : List Byte
  record : List Byte
  barriers : List (BitVec 64)
  words : List (BitVec 64)
  pinned : List FarRange
  deriving DecidableEq, Repr

/-- A fleet launch under preparation or under way on this wafer (R363): its packet and arguments, what its slot held at step
4, the queue that the leader took it from, this wafer's own reason to refuse it, how many wafers' peer routes have come with
those routes, the verdicts of the wafers (0 for passed), and the parts that have ended. Of a launch whose leader's part has
ended: `gone` is the step of wall time at which it did, `stands` the boundary at which the other parts stand pre-empted. -/
structure FleetLaunch where
  packet : List Byte
  args : List Byte
  took : SlotParts
  queue : Option Nat
  own : Nat
  told : Nat
  incoming : List PeerRoute
  verdicts : List (Nat × Nat)
  parts : List FleetPart
  started : Bool
  gone : Option Nat
  stands : Option Nat
  deriving DecidableEq, Repr

/-- A fleet that forms (R277, R365): this wafer's number, the number of wafers, Lp and Hf, and the wafers that have agreed. -/
structure Forming where
  wafer : Nat
  wafers : Nat
  lp : Nat
  hf : Nat
  agreed : List Nat
  deriving DecidableEq, Repr

/-- A tile under self-test (R348): field, row and physical column. -/
structure SelfTest where
  field : Nat
  row : Nat
  col : Nat
  deriving DecidableEq, Repr

/-- The fault that the syllable just executed raised (R57); a transient of the issue of one bundle. -/
structure Note where
  cause : Byte
  cls : SlotClass
  deriving DecidableEq, Repr

/-- A step of the present tick that is still to be taken: an event, a late read, the parts of a claim's tick in their
order, a tile's presentation of its bundles, a strand's issue. DESIGN CHOICE: notes/assumptions/3.md. -/
inductive Task where
  | ev (i : Event)
  | read (r : LateRead)
  | early (cl : Nat)
  | drift (cl : Nat)
  | issues (cl : Nat)
  | present (t : TileId)
  | issue (st : StrandId)
  | late (cl : Nat)
  | endTick (cl : Nat)
  deriving DecidableEq, Repr

/-- The state of the whole module. -/
structure State where
  cores : List (StrandId × Core)
  tiles : List (TileId × Tile)
  claims : List (Nat × Claim)
  agenda : List Sched
  ctxs : List (CtxId × Ctx)
  tlb : List TlbEntry
  far : Memory
  farMarks : List Nat
  farFlips : List (Nat × BitVec 72)
  farTags : List (Nat × BitVec 4)
  queues : Tab 6 Queue
  turn : Nat
  mbox : Mailbox
  cats : Tab 8 CatSlot
  accessions : Tab 8 (List Byte)
  reply : List Byte
  meas : Tab 3 (BitVec 256)
  startRec : Tab 3 (StepOut × Nat)
  power : Power
  ctls : List (Controller × Ctl)
  curator : CuratorCore
  docents : List (Nat × Docent)
  findings : BootFindings
  shifts : List (Nat × Nat × Nat)
  retiredTiles : List (Nat × Nat × Nat)
  detours : List (Nat × Nat × Side)
  failedBypass : List (Nat × Nat)
  badFields : List Nat
  lowRail : List (Nat × Nat × Nat)
  lh : Nat
  wheel : Nat
  replayLog2 : Nat
  lp : Nat
  db4 : Nat
  slew : Nat
  waferTrim : Int
  waferInt : Int
  fbAcc : Nat
  throttle : Nat
  baseCut : Nat
  cut : Option (Nat × List Nat)
  tests : List SelfTest
  fleet : Option (Nat × Nat × Nat)
  forming : Option Forming
  fleetLaunch : Option FleetLaunch
  fleetMsgs : List FleetMessage
  peerOut : List (Nat × Nat × Flit)
  peerHolds : List (Nat × Nat × Nat)
  peerLambda : List (Nat × Int)
  spdm : List Byte
  wall : Nat
  todo : List Task
  inputs : List (Nat × Event)
  focus : StrandId
  note : Option Note
  free : Nat
  deriving DecidableEq, Repr

/-! ## Reset -/

def Queue.reset : Queue := ⟨0, 0, 0, 0, 0, 0, false, false, false, false, false⟩

def Mailbox.reset : Mailbox := ⟨0, 0, .zero, false, false, false, 0, 0, 0, 0, .zero, none, 0, 0, 0, 0⟩

def Ctl.reset : Ctl := ⟨0, 0, [], false, 0, false, false, false, 0, false, 0, 0, false, false⟩

def CuratorCore.reset : CuratorCore := ⟨Tab.all 5 0, 0⟩

def Docent.reset : Docent := ⟨0, 0, 0, 0⟩

/-- Boot tests that find nothing wrong, with the default fabric parameters (R40). -/
def findingsNone : BootFindings := ⟨[], [], [], [], [], [], [], [], 32, 12, []⟩

/-- The module right after reset: powered off, before the boot of R370, with no claim. Values the spec gives: R357,
R366, R372, R40 (defaults), R260, R261. The others are named in notes/assumptions/1.md to 5.md.
DESIGN CHOICE: notes/assumptions/2.md. -/
def State.reset : State where
  cores := []
  tiles := []
  claims := []
  agenda := []
  ctxs := []
  tlb := []
  far := []
  farMarks := []
  farFlips := []
  farTags := []
  queues := Tab.all 6 .reset
  turn := 0
  mbox := .reset
  cats := Tab.all 8 ⟨.empty, [], false, [], false⟩
  accessions := Tab.all 8 []
  reply := []
  meas := Tab.all 3 0
  startRec := Tab.all 3 (.pass, 0)
  power := .off
  ctls := []
  curator := .reset
  docents := []
  findings := findingsNone
  shifts := []
  retiredTiles := []
  detours := []
  failedBypass := []
  badFields := []
  lowRail := []
  lh := 6
  wheel := 32
  replayLog2 := 12
  lp := 512
  db4 := 4
  slew := 50
  waferTrim := 0
  waferInt := 0
  fbAcc := 0
  throttle := 0
  baseCut := 0
  cut := none
  tests := []
  fleet := none
  forming := none
  fleetLaunch := none
  fleetMsgs := []
  peerOut := []
  peerHolds := []
  peerLambda := []
  spdm := []
  wall := 0
  todo := []
  inputs := []
  focus := .first
  note := none
  free := 0

end Sys2Proof.Machine
end

