-- ==== Sys2Proof/Machine/Ops.lean ====
section
/-!
DEFINITION. The named operations over the state: memory, the tables of strands, tiles, claims and contexts, registers,
the agenda, instruction fetch, bank reads and writes with poison and SECDED, taking an exception and returning from one.
-/

namespace Sys2Proof.Machine

/-! ## Memory (R5, R201, R292) -/

namespace Memory

/-- The byte at an address; an unlisted address reads 0. -/
def read : Memory → Nat → Byte
  | [], _ => 0
  | (k, v) :: m, a => if k = a then v else read m a

/-- Inserts a non-zero byte in its place. -/
def insert : Memory → Nat → Byte → Memory
  | [], a, b => [(a, b)]
  | (k, v) :: m, a, b =>
    if a < k then (a, b) :: (k, v) :: m
    else if a = k then (a, b) :: m
    else (k, v) :: insert m a b

/-- Removes the entry of an address. -/
def erase : Memory → Nat → Memory
  | [], _ => []
  | (k, v) :: m, a => if k = a then m else (k, v) :: erase m a

/-- Writes one byte and keeps the canonical form: writing 0 removes the entry. -/
def write (m : Memory) (a : Nat) (b : Byte) : Memory := if b = 0 then m.erase a else m.insert a b

/-- Writes bytes at consecutive addresses. -/
def writeList (m : Memory) (a : Nat) : List Byte → Memory
  | [] => m
  | b :: bs => (m.write a b).writeList (a + 1) bs

/-- The `n` bytes from an address. -/
def readList (m : Memory) (a : Nat) : Nat → List Byte
  | 0 => []
  | n + 1 => m.read a :: m.readList (a + 1) n

/-- Whether every entry's address is above `lo` (when there is a bound), rising, and no byte is 0. -/
def wfFrom : Option Nat → Memory → Bool
  | _, [] => true
  | lo, (k, v) :: m => (match lo with | none => true | some a => decide (a < k)) && (v != 0) && wfFrom (some k) m

/-- The canonical form: addresses strictly rising, no entry equal to what an unlisted address reads as. -/
def wf (m : Memory) : Bool := wfFrom none m

end Memory

/-- A little-endian value of bytes. -/
def leNat : List Byte → Nat
  | [] => 0
  | b :: bs => b.toNat + 256 * leNat bs

/-- Reads `n` bytes as a little-endian number (R5). -/
def Memory.readNat (m : Memory) (a n : Nat) : Nat := leNat (m.readList a n)

/-- Byte `i` of a value of any width. -/
def byteOf {n : Nat} (v : BitVec n) (i : Nat) : Byte := v.extractLsb' (8 * i) 8

/-- Bytes as a bit vector, lowest address in the lowest bits. -/
def bitsOfBytes (n : Nat) (l : List Byte) : BitVec n := BitVec.ofNat n (leNat l)

/-- The first `n` bytes of a value. -/
def bytesOf {w : Nat} (v : BitVec w) (n : Nat) : List Byte := (List.range n).map (byteOf v)

/-! ## Tables -/

/-- The value of a key in an association list. -/
def find {κ α : Type} [DecidableEq κ] : List (κ × α) → κ → Option α
  | [], _ => none
  | (k, v) :: l, x => if k = x then some v else find l x

/-- Replaces or appends the value of a key. -/
def put {κ α : Type} [DecidableEq κ] : List (κ × α) → κ → α → List (κ × α)
  | [], x, y => [(x, y)]
  | (k, v) :: l, x, y => if k = x then (x, y) :: l else (k, v) :: put l x y

/-- Removes a key. -/
def drop {κ α : Type} [DecidableEq κ] (l : List (κ × α)) (x : κ) : List (κ × α) := l.filter fun p => decide (p.1 ≠ x)

/-- Inserts into a sorted set of naturals. -/
def setInsert : List Nat → Nat → List Nat
  | [], x => [x]
  | y :: l, x => if x < y then x :: y :: l else if x = y then y :: l else y :: setInsert l x

/-- Removes from a set of naturals. -/
def setErase (l : List Nat) (x : Nat) : List Nat := l.filter fun y => y != x

/-- A claim that does not exist: it is stopped, covers no field and holds nothing. -/
def Claim.absent : Claim where
  tick := 0
  start := 0
  fx0 := 0
  fy0 := 0
  fw := 0
  fh := 0
  wafer := 0
  fleet := false
  mech := .weight
  returned := 0
  jcount := 0
  jtotal := 0
  jbad := false
  slot := 0
  user := 0
  sig := 0
  crec := 0
  run := .ended 0 false
  faults := []
  faultCount := 0
  firstErr := none
  fatal := none
  preempt := false
  moves := []
  abort := none
  vitrine := []
  barriers := []
  bart := []
  tags := []
  ranges := []
  binds := []
  ptroot := 0
  lostPorts := []
  peerIn := []
  parley := none
  answers := []
  frozen := none
  lastDone := 0
  evaluated := false

namespace State

def claimOf (s : State) (c : Nat) : Claim := (find s.claims c).getD .absent
def setClaim (s : State) (c : Nat) (x : Claim) : State := { s with claims := put s.claims c x }
def modClaim (s : State) (c : Nat) (f : Claim → Claim) : State := s.setClaim c (f (s.claimOf c))

def coreOf (s : State) (i : StrandId) : Core := (find s.cores i).getD .fresh
def setCore (s : State) (i : StrandId) (x : Core) : State := { s with cores := put s.cores i x }
def modCore (s : State) (i : StrandId) (f : Core → Core) : State := s.setCore i (f (s.coreOf i))

/-- A tile; one that nothing has touched stands as at its start, with its wheel position moved on (R266). -/
def tileOf (s : State) (t : TileId) : Tile :=
  (find s.tiles t).getD (.fresh (s.claimOf t.claim).start (BitVec.ofNat 7 ((s.claimOf t.claim).tick % s.wheel)))
def setTile (s : State) (t : TileId) (x : Tile) : State := { s with tiles := put s.tiles t x }
def modTile (s : State) (t : TileId) (f : Tile → Tile) : State := s.setTile t (f (s.tileOf t))

def ctxOf (s : State) (c : CtxId) : Ctx := (find s.ctxs c).getD .fresh
def setCtx (s : State) (c : CtxId) (x : Ctx) : State := { s with ctxs := put s.ctxs c x }
def modCtx (s : State) (c : CtxId) (f : Ctx → Ctx) : State := s.setCtx c (f (s.ctxOf c))

def ctlOf (s : State) (c : Controller) : Ctl := (find s.ctls c).getD .reset
def setCtl (s : State) (c : Controller) (x : Ctl) : State := { s with ctls := put s.ctls c x }

/-- The tick of a claim's count (R24). -/
def now (s : State) (c : Nat) : Nat := (s.claimOf c).tick

/-- The tick of the count of the focus strand's claim: the issue tick t of R3. -/
def t (s : State) : Nat := s.now s.focus.tile.claim

/-- The core of the focus strand. -/
def me (s : State) : Core := s.coreOf s.focus

/-- The tile of the focus strand. -/
def myTile (s : State) : Tile := s.tileOf s.focus.tile

/-- The own count of a tile (R24, R268). -/
def countOf (s : State) (i : TileId) : BitVec 64 := BitVec.ofNat 64 (s.now i.claim) + (s.tileOf i).off

/-- A router's wheel position (R266). -/
def wheelPos (s : State) (t : TileId) : Nat := (s.tileOf t).wheel.toNat

/-- The replay interval (R40). -/
def replay (s : State) : Nat := 2 ^ s.replayLog2

end State

/-- The strands of a claim that the image places. -/
def strandsOf (s : State) (c : Nat) : List StrandId :=
  (s.cores.filter fun p => p.1.tile.claim = c ∧ p.2.status ≠ .absent).map fun p => p.1

/-- A natural number rounded up to a multiple. -/
def ceilTo (m n : Nat) : Nat := (n + m - 1) / m * m

/-- |a - b|. -/
def dist (a b : Nat) : Nat := (a - b) + (b - a)

/-- The Manhattan distance of two tiles. -/
def hops (a b : TileId) : Nat := dist a.x b.x + dist a.y b.y

/-- Whether claim-relative coordinates lie inside the claim. -/
def Claim.inside (c : Claim) (x y : Nat) : Bool := decide (x < 12 * c.fw ∧ y < 12 * c.fh)

/-! ## The agenda -/

/-- Stops of the claim's count. -/
def phStop : Nat := 0
/-- Flits on wires, hold ends, trackers that fire. -/
def phWire : Nat := 1
/-- Run ends and gate releases. -/
def phRun : Nat := 2
/-- Landings and effects at the start of a tick. -/
def phLand : Nat := 3
/-- Bank reads that meet their bank after the issue tick. -/
def phRead : Nat := 6
/-- Array block reads and group additions, which see no write of their own tick (R207). -/
def phArray : Nat := 6
/-- Bank commits, at the end of the tick. -/
def phCommit : Nat := 7
/-- What follows from the tick's commits. -/
def phEnd : Nat := 9

namespace State

/-- Puts an operation on the agenda. -/
def plan (s : State) (e : Sched) : State := { s with agenda := s.agenda ++ [e] }

/-- An event of a claim at a tick, owned by no strand. -/
def planEv (s : State) (cl tick phase : Nat) (i : Event) : State :=
  s.plan ⟨cl, tick, phase, 0, s.now cl, 8, none, none, 0, 0, .ev i⟩

/-- A step to be taken next in this tick. -/
def push (s : State) (i : Event) : State := { s with todo := .ev i :: s.todo }

/-- A landing of the focus strand `lat` ticks after issue, from the slot class `cls` (R97). -/
def land (s : State) (cls : SlotClass) (lat : Nat) (l : Landing) : State :=
  s.plan ⟨s.focus.tile.claim, s.t + lat, phLand, 0, s.t, cls.index, some s.focus, none, s.t + lat, 0,
    .ev (.resultLanding s.focus l)⟩

end State

/-! ## Registers (R16, R48, R50) -/

namespace Core

/-- g0 reads zero. -/
def readG (c : Core) (i : BitVec 6) : MWord := if i = 0 then .clean 0 else c.g.at i
def readA (c : Core) (i : BitVec 4) : MQuad := c.a.at i
def readV (c : Core) (i : BitVec 6) : MVec := c.v.at i
/-- k0 reads all ones. -/
def readK (c : Core) (i : BitVec 4) : MMask := if i = 0 then .clean 0xFFFF else c.k.at i

/-- Writes to g0 are discarded. -/
def writeG (c : Core) (i : BitVec 6) (v : MWord) : Core := if i = 0 then c else { c with g := c.g.put i v }
def writeA (c : Core) (i : BitVec 4) (v : MQuad) : Core := { c with a := c.a.put i v }
def writeV (c : Core) (i : BitVec 6) (v : MVec) : Core := { c with v := c.v.put i v }
/-- Writes to k0 are discarded. -/
def writeK (c : Core) (i : BitVec 4) (v : MMask) : Core := if i = 0 then c else { c with k := c.k.put i v }

/-- A latch by its name. -/
def latchOf (c : Core) (l : Latch) : LatchState := c.latch.at l.code

def setLatch (c : Core) (l : Latch) (x : LatchState) : Core := { c with latch := c.latch.put l.code x }

/-- All eight latches become invalid (R50, R99). -/
def endRun (c : Core) : Core := { c with latch := c.latch.map fun x => { x with valid := false } }

end Core

/-- The lanes of `en` take their 32 bits from `new`, the others from `old` (R55). -/
def mergeLanes (en : Mask) (old new : Vec) : Vec :=
  let m : Vec := (List.range 16).foldl (fun acc i => if en.getLsbD i then acc ||| ((0xFFFFFFFF : Vec) <<< (32 * i)) else acc) 0
  (new &&& m) ||| (old &&& ~~~m)

/-- The granules after a lane-masked write: fully written ones take the new mark, partly written ones keep a mark. -/
def mergeMarks (en : Mask) (old new : BitVec 8) : BitVec 8 :=
  (List.range 8).foldl (fun acc i =>
    let lo := en.getLsbD (2 * i)
    let hi := en.getLsbD (2 * i + 1)
    let b := if lo && hi then new.getLsbD i else if lo || hi then new.getLsbD i || old.getLsbD i else old.getLsbD i
    if b then acc ||| (1 <<< i) else acc) 0

/-- A register write that lands (R51, R54, R55). -/
def Core.applyWrite (c : Core) : RegWrite → Core
  | .g d v => c.writeG d v
  | .a d v => c.writeA d v
  | .v d v en => c.writeV d ⟨mergeLanes en (c.readV d).val v.val, mergeMarks en (c.readV d).psn v.psn⟩
  | .k d v en =>
    c.writeK d ⟨(v.val &&& en) ||| ((c.readK d).val &&& ~~~en), v.psn ||| (if en = 0xFFFF then 0 else (c.readK d).psn)⟩

/-! ## SECDED (R403) -/

/-- The number of set bits. -/
def popcount {n : Nat} (v : BitVec n) : Nat := ((List.range n).filter fun i => v.getLsbD i).length

/-- The SECDED code at work on a stored word with a flip mask of 64 data and 8 check bits (R403): the bits delivered and
whether the code failed. -/
def secded (stored : BitVec 64) (flip : BitVec 72) : BitVec 64 × Bool :=
  match popcount flip with
  | 0 => (stored, false)
  | 1 => (stored, false)
  | 2 => (stored ^^^ flip.extractLsb' 0 64, true)
  | _ =>
    match Config.upsetOutcome stored flip with
    | none => (stored ^^^ flip.extractLsb' 0 64, true)
    | some v => (v, false)

/-- The stored 64-bit word at a word index of a memory. -/
def wordAt (m : Memory) (w : Nat) : BitVec 64 := bitsOfBytes 64 (m.readList (8 * w) 8)

/-! ## Instruction fetch (R43, R44, R198) -/

/-- Counts of the partition word (R196): instruction banks of cores 0 to 3, then SCR, OPD and ACC. -/
def partField (w : Quad) (i : Nat) : Nat := (w.extractLsb' (7 * i) 7).toNat

def Tile.ins (t : Tile) (core : Nat) : Nat := partField t.part core
def Tile.scr (t : Tile) : Nat := partField t.part 4
def Tile.opd (t : Tile) : Nat := partField t.part 5
def Tile.acc (t : Tile) : Nat := partField t.part 6
/-- The first instruction bank of a core (R89). -/
def Tile.insBase (t : Tile) (core : Nat) : Nat := ((List.range core).map t.ins).foldl (· + ·) 0
/-- The first scratchpad bank (R89). -/
def Tile.scrBase (t : Tile) : Nat := t.insBase 4
/-- The first operand bank (R197). -/
def Tile.opdBase (t : Tile) : Nat := t.scrBase + t.scr
/-- The first accumulator bank (R197). -/
def Tile.accBase (t : Tile) : Nat := t.opdBase + t.opd

def Tile.isScratch (t : Tile) (b : Nat) : Bool := decide (t.scrBase ≤ b ∧ b < t.opdBase)
def Tile.isAcc (t : Tile) (b : Nat) : Bool := decide (t.accBase ≤ b ∧ b < t.accBase + t.acc)

/-- The place of a bank byte in the tile's SRAM. -/
def bankAddr (bank : BitVec 6) (off : Nat) : Nat := bank.toNat * 65536 + off

/-- The byte at an SRAM address as a read delivers it through its word's code (R403). -/
def Tile.sramByte (t : Tile) (a : Nat) : Byte :=
  match find t.flips (a / 8) with
  | none => t.sram.read a
  | some f => byteOf (secded (wordAt t.sram (a / 8)) f).1 (a % 8)

/-- The byte of a core's instruction space, or none outside its instruction banks (R198). -/
def Tile.insByte (t : Tile) (core : Nat) (a : Nat) : Option Byte :=
  if a < 65536 * t.ins core then some (t.sramByte (65536 * t.insBase core + a)) else none

/-- What fetch finds at an address (R43). -/
inductive Fetch where
  | bundle (addr : BitVec 64) (bytes : List Byte)
  | illegal (addr : BitVec 64)
  deriving DecidableEq, Repr

/-- The bundle at a header address: illegal outside the instruction banks, at a zero header at offset 0 of a line, or
where the bundle crosses its line. -/
def fetchHeader (t : Tile) (core : Nat) (pc : BitVec 64) : Fetch :=
  match t.insByte core pc.toNat with
  | none => .illegal pc
  | some h =>
    if h = 0 then .illegal pc
    else if pc.toNat % 64 + bundleLength h > 64 then .illegal pc
    else .bundle pc ((List.range (bundleLength h)).map fun i => (t.insByte core (pc.toNat + i)).getD 0)

/-- Skips padding: a zero byte at offsets 1 to 63 of a line moves fetch to the next line (R43). -/
def skipPadding (t : Tile) (core : Nat) (pc : BitVec 64) : BitVec 64 :=
  if t.insByte core pc.toNat = some 0 ∧ pc.toNat % 64 ≠ 0 then BitVec.ofNat 64 ((pc.toNat / 64 + 1) * 64) else pc

/-- The bundle that issues at an address, padding skipped. -/
def fetch (t : Tile) (core : Nat) (pc : BitVec 64) : Fetch := fetchHeader t core (skipPadding t core pc)

/-- The sequential successor of the bundle at an address, padding skipped (R44, R98). Outside the strand's instruction banks,
where R103 is silent, a bundle counts six bytes. DESIGN CHOICE: notes/assumptions/53.md. -/
def nextHeader (t : Tile) (core : Nat) (pc : BitVec 64) : BitVec 64 :=
  match t.insByte core pc.toNat with
  | none => pc + 6
  | some h => skipPadding t core (pc + BitVec.ofNat 64 (bundleLength h))

namespace State

/-- The header address of the focus strand's next bundle, padding skipped. -/
def headerPc (s : State) : BitVec 64 := skipPadding s.myTile s.focus.core.toNat s.me.pc

/-- The sequential successor of the focus strand's bundle. -/
def nextPc (s : State) : BitVec 64 := nextHeader s.myTile s.focus.core.toNat s.headerPc

end State

/-! ## Faults (R339 to R342) -/

/-- The crossing bound of a claim: 260, or Hf for a fleet claim (R278, R341). -/
def crossing (s : State) (cl : Nat) : Nat :=
  if (s.claimOf cl).fleet then (match s.fleet with | some (_, _, hf) => hf | none => 260) else 260

/-- The order of the fault record (R342). -/
def FaultRec.before (a b : FaultRec) : Bool :=
  if a.tick ≠ b.tick then decide (a.tick < b.tick)
  else if a.y ≠ b.y then decide (a.y < b.y)
  else if a.x ≠ b.x then decide (a.x < b.x)
  else if a.core ≠ b.core then decide (a.core < b.core)
  else decide (a.cls < b.cls)

def insertFault : List FaultRec → FaultRec → List FaultRec
  | [], r => [r]
  | x :: l, r => if r.before x then r :: x :: l else x :: insertFault l r

/-- Records a fault: the first 64 entries in the record's order are kept, the others are counted only (R342). -/
def recordFault (s : State) (cl : Nat) (r : FaultRec) : State :=
  s.modClaim cl fun c => { c with
    faults := (insertFault c.faults r).take 64
    faultCount := c.faultCount + 1 }

/-- A fatal fault at the present tick d stops the claim at d + H (R341). -/
def fatalAt (s : State) (cl : Nat) : State :=
  match (s.claimOf cl).fatal with
  | some _ => s
  | none =>
    let d := s.now cl
    (s.modClaim cl fun c => { c with fatal := some d }).planEv cl (d + crossing s cl) phStop (.fatalStop cl)

/-- A claim fault recorded against a tile with core 0xF (R338, R342). -/
def claimFault (s : State) (i : TileId) (cause : Byte) (data : Quad) : State :=
  fatalAt (recordFault s i.claim ⟨cause, s.now i.claim, i.x, i.y, 15, 0, data⟩) i.claim

/-- The delay position of the focus strand's bundle (R340). -/
def Core.dly (c : Core) : BitVec 2 :=
  match c.xfer with
  | some (_, 2) => 1
  | some (_, _) => 2
  | none => 0

/-- The loop stack is set aside and the handler's first bundle issues three ticks later (R340). NEST stays as it was, and a
`bar.sync` that the handler interrupts is presented for the first time again after it (R331). DESIGN CHOICE:
notes/assumptions/31.md and notes/assumptions/40.md. -/
def enterHandler (s : State) (i : StrandId) (cause : Byte) (cls : Nat) (code : BitVec 16) (data : Quad)
    (resume : BitVec 64) : State :=
  let c := s.coreOf i
  let c' : Core := { c with
    fCause := cause
    fClass := BitVec.ofNat 3 cls
    fDly := c.dly
    fCode := code
    fAct := true
    fdata := data
    epc := resume.setWidth 22
    etgt := match c.xfer with | some (tg, _) => tg.setWidth 22 | none => 0
    aside := c.loops
    loops := []
    xfer := none
    pc := c.tvec.setWidth 64
    idle := 2
    status := .running
    synced := none
    pendingFault := none
    tkAt := none }
  let n := s.now i.tile.claim
  (s.setCore i c').planEv i.tile.claim (n + 3) phRun (.runEnd i)

/-- A bundle fault of a strand that is not trapped: the strand issues nothing more and the claim stops (R341).
DEDUCED: notes/assumptions/31.md. -/
def takeFatal (s : State) (i : StrandId) (cause : Byte) (cls : Nat) (code : BitVec 16) (data : Quad) (nest : Bool) : State :=
  let c := s.coreOf i
  fatalAt (s.setCore i { c with
    fCause := cause
    fClass := BitVec.ofNat 3 cls
    fDly := c.dly
    fCode := code
    fNest := c.fNest || nest
    fdata := data
    status := .stopped
    synced := none
    pendingFault := none
    tkAt := none }) i.tile.claim

/-- Taking a bundle fault (R339, R340, R342): recorded; trapped in an open span with TEN = 1 and ACT = 0; fatal
otherwise, as cause 0x75 with NEST when a handler is active. `resume` is the resume address. -/
def takeFault (s : State) (i : StrandId) (cause : Byte) (cls : Nat) (code : BitVec 16) (data : Quad)
    (resume : BitVec 64) : State :=
  let c := s.coreOf i
  let rec_ := fun (x : Byte) (d : Quad) =>
    recordFault s i.tile.claim ⟨x, s.now i.tile.claim, i.tile.x, i.tile.y, i.core.toNat, cls, d⟩
  if c.fAct then takeFatal (rec_ 0x75 (cause.setWidth 64)) i 0x75 cls code (cause.setWidth 64) true
  else if c.span ∧ c.tvecEn then enterHandler (rec_ cause data) i cause cls code data resume
  else takeFatal (rec_ cause data) i cause cls code data false

/-- A fault taken before the issues of the present tick t: this tick is none of the handler's two empty ones, so its first
bundle issues at t + 3 (R96, R340). -/
def takeEarlyFault (s : State) (i : StrandId) (cause : Byte) (resume : BitVec 64) (cls : Nat := 0) : State :=
  (takeFault s i cause cls 0 0 resume).modCore i fun c => { c with idle := if c.status = .running then 3 else c.idle }

/-- Redirects fetch with two empty ticks; the run ends where the next bundle issues (R99, R106). -/
def redirect (s : State) (pc : BitVec 64) : State :=
  (s.modCore s.focus fun c => { c with pc := pc, idle := 2 }).planEv s.focus.tile.claim (s.t + 3) phRun (.runEnd s.focus)

/-- The return from a handler (R352): the bundle at `cr.epc` issues at t + 3, where the run ends; the interrupted transfer
goes on as DLY says; ACT and the loop stack change at t + 3. -/
def returnFrom (s : State) : State :=
  let c := s.me
  let x := match c.fDly.toNat with
    | 1 => some (c.etgt.setWidth 64, 2)
    | 2 => some (c.etgt.setWidth 64, 1)
    | _ => none
  (redirect s (c.epc.setWidth 64) |>.modCore s.focus fun c => { c with xfer := x }).planEv s.focus.tile.claim (s.t + 3) phLand
    (.resultLanding s.focus .leave)

namespace State

/-- The focus strand's syllable of class `cls` faults: the fault is taken against its bundle (R339) and noted for R57. -/
def fault (s : State) (cls : SlotClass) (cause : Byte) (data : Quad := 0) : State :=
  { takeFault s s.focus cause cls.index 0 data s.headerPc with note := some ⟨cause, cls⟩ }

/-- A `trap`, `svc` or `brkpt`: the resume address is the next sequential bundle (R351). -/
def faultNext (s : State) (cls : SlotClass) (cause : Byte) (code : BitVec 16) : State :=
  { takeFault s s.focus cause cls.index code 0 s.nextPc with note := some ⟨cause, cls⟩ }

/-- A poisoned decision or address taints the strand (R343). -/
def taintIf (s : State) (p : Bool) : State := if p then s.modCore s.focus fun c => { c with taint := true } else s

end State

/-! ## Uncorrectable errors (R344, R403) -/

/-- Records the first uncorrectable error of a claim at the present tick and plans its halt. -/
def uncorrectable (s : State) (i : TileId) (core : Nat) (place : Quad) : State :=
  match (s.claimOf i.claim).firstErr with
  | some _ => s
  | none =>
    let d := s.now i.claim
    (s.modClaim i.claim fun c => { c with firstErr := some ⟨d, i.x, i.y, core, place⟩ }).planEv i.claim
      (ceilTo s.replay (d + crossing s i.claim)) phStop (.uncorrectableHalt i.claim)

/-- The bits that a read of an SRAM word delivers and whether its code failed. -/
def Tile.wordView (t : Tile) (w : Nat) : BitVec 64 × Bool :=
  match find t.flips w with
  | none => (wordAt t.sram w, false)
  | some f => secded (wordAt t.sram w) f

/-- A byte of a bank as a read delivers it, with its word's mark (failures mark it, R344). -/
def Tile.byteView (t : Tile) (bank : BitVec 6) (off : Nat) : Byte × Bool :=
  let a := bankAddr bank off
  match find t.flips (a / 8) with
  | none => (t.sram.read a, t.marks.contains (a / 8))
  | some _ => (byteOf (t.wordView (a / 8)).1 (a % 8), t.marks.contains (a / 8) || (t.wordView (a / 8)).2)

/-- The bytes at the given bank offsets as a vector, byte i of the result from cell i; a missing cell reads 0. -/
def Tile.readCells (t : Tile) (bank : BitVec 6) (cells : List (Option Nat)) : MVec :=
  let bs := cells.map fun c => match c with | none => ((0 : Byte), false) | some o => t.byteView bank o
  ⟨bitsOfBytes 512 (bs.map fun b => b.1),
    bs.zipIdx.foldl (fun acc p => if p.1.2 then acc ||| (1 <<< (p.2 / 8)) else acc) 0⟩

/-- The offsets of the words of the cells whose code fails (R344). -/
def Tile.failures (t : Tile) (bank : BitVec 6) (cells : List (Option Nat)) : List Nat :=
  if t.flips.isEmpty then []
  else cells.filterMap fun c => c.bind fun o =>
    if (t.wordView (bankAddr bank o / 8)).2 then some (o / 8 * 8) else none

/-- The first word of the cells whose code fails, if any (R344). -/
def Tile.failing (t : Tile) (bank : BitVec 6) (cells : List (Option Nat)) : Option Nat := (t.failures bank cells).head?

/-- The failing words of a read are marked at its bank tick (R344, spec/16 R395). -/
def Tile.markFailures (t : Tile) (bank : BitVec 6) (cells : List (Option Nat)) : Tile :=
  { t with marks := (t.failures bank cells).foldl (fun m o => setInsert m (bankAddr bank o / 8)) t.marks }

/-- Where a SECDED failure was found (R369). -/
def bankPlace (bank : BitVec 6) (off : Nat) : Quad := (1#2 ++ 0#40 ++ bank ++ BitVec.ofNat 16 off)

/-- A bank read meets its bank: a failure of the code is an uncorrectable error (R344). -/
def checkRead (s : State) (i : TileId) (core : Nat) (bank : BitVec 6) (cells : List (Option Nat)) : State :=
  match (s.tileOf i).failing bank cells with
  | none => s
  | some o => (uncorrectable s i core (bankPlace bank o)).modTile i fun t => t.markFailures bank cells

/-- The addresses in a core's instruction space that the fetch of a bundle reads. -/
def fetchReads (t : Tile) (core : Nat) (pc : BitVec 64) : List Nat :=
  (match fetch t core pc with
    | .bundle a bytes => pc.toNat :: (List.range bytes.length).map (a.toNat + ·)
    | .illegal a => [pc.toNat, a.toNat]).filter fun a => decide (a < 65536 * t.ins core)

/-- A strand's fetch reads its instruction bank: a failure of the code is an uncorrectable error (R344). -/
def checkFetch (s : State) (st : StrandId) : State :=
  let t := s.tileOf st.tile
  if t.flips.isEmpty then s
  else (fetchReads t st.core.toNat (s.coreOf st).pc).foldl (fun s a =>
    let p := 65536 * t.insBase st.core.toNat + a
    checkRead s st.tile st.core.toNat (BitVec.ofNat 6 (p / 65536)) [some (p % 65536)]) s

/-- The cells of one whole row. -/
def rowCells (row : Nat) : List (Option Nat) := (List.range 64).map fun b => some (64 * row + b)

/-! ## Bank commits (R206, R207, R319, R343, R403) -/

/-- The distinct word indices of a list of bytes. -/
def wordsOf (l : List BankByte) : List Nat := l.foldl (fun acc b => setInsert acc (b.off / 8)) []

/-- The distinct rows of a list of bytes. -/
def rowsOf (l : List BankByte) : List Nat := l.foldl (fun acc b => setInsert acc (b.off / 64)) []

/-- One 64-bit word of a write: merged and checked when the write covers part of it (R403), marked when the data is
poisoned, cleared of marks and flips when it covers the whole word with clean data. -/
def Tile.commitWord (t : Tile) (bank : BitVec 6) (l : List BankByte) (w : Nat) : Tile :=
  let mine := l.filter fun b => b.off / 8 = w
  let g := bankAddr bank (8 * w) / 8
  let whole := ((List.range 8).all fun j => mine.any fun b => b.off % 8 = j)
  let psn := mine.any fun b => b.psn
  let view := t.wordView g
  let base := if whole then t.sram else t.sram.writeList (8 * g) (bytesOf view.1 8)
  let marks :=
    if psn || (!whole && view.2) then setInsert t.marks g
    else if whole then setErase t.marks g else t.marks
  { t with
    sram := mine.foldl (fun m b => m.write (bankAddr bank b.off) b.val) base
    marks := marks
    flips := drop t.flips g }

/-- Commits the bytes of one write access to a bank. -/
def Tile.commit (t : Tile) (bank : BitVec 6) (l : List BankByte) : Tile :=
  (wordsOf l).foldl (fun t w => t.commitWord bank l w) t

/-- The partly written words whose code fails (R403). -/
def Tile.partialFailure (t : Tile) (bank : BitVec 6) (l : List BankByte) : Option Nat :=
  if t.flips.isEmpty then none
  else ((wordsOf l).filter fun w =>
    (!((List.range 8).all fun j => l.any fun b => b.off = 8 * w + j)) && (t.wordView (bankAddr bank (8 * w) / 8)).2).head?

/-- The armed trackers that watch a bank of a tile count each watched row that an access commits (R308). -/
def countRows (s : State) (i : TileId) (bank : BitVec 6) (rows : List Nat) : State :=
  { s with ctxs := s.ctxs.map fun p =>
      (p.1, { p.2 with cmds := p.2.cmds.map fun c =>
        let loc := c.regs.loc
        if c.armed ∧ (p.2.owner.map fun o => o.tile.claim) = some i.claim ∧ (loc.extractLsb' 0 8).toNat = i.x
            ∧ (loc.extractLsb' 8 8).toNat = i.y ∧ loc.extractLsb' 16 6 = bank then
          let r0 := (loc.extractLsb' 22 10).toNat
          { c with count := c.count + (rows.filter fun r => r0 ≤ r ∧ r < r0 + c.units).length }
        else c }) }

/-- Commits a write access of a core, a deposit or the array: bytes, marks, the partial-write check, the trackers, which count
the array's write-backs as they count any other write access (R308). DEDUCED: notes/assumptions/39.md. -/
def commitBytes (s : State) (i : TileId) (core : Nat) (bank : BitVec 6) (l : List BankByte) : State :=
  let t := s.tileOf i
  let s := match t.partialFailure bank l with
    | none => s
    | some w => uncorrectable s i core (bankPlace bank (8 * w))
  countRows (s.setTile i (t.commit bank l)) i bank (rowsOf l)

/-- The bytes of a vector at the given offsets; missing offsets are disabled elements. -/
def bytesAt (v : MVec) (cells : List (Option Nat)) : List BankByte :=
  cells.zipIdx.filterMap fun p => p.1.map fun o => ⟨o, byteOf v.val p.2, v.psn.getLsbD (p.2 / 8)⟩

/-- The bytes of one whole row. -/
def rowBytes (row : Nat) (v : MVec) : List BankByte := bytesAt v (rowCells row)

/-! ## Accumulator rows (R229) -/

/-- The accumulator tile of a bank row, and the row's number in it (R197, R239). -/
def accRow (t : Tile) (bank row : Nat) : BitVec 8 × Nat :=
  (BitVec.ofNat 8 (4 * (bank - t.accBase) + row / 256), row % 256)

/-- Whether a row of an accumulator bank has its zero bit set. -/
def Tile.rowZero (t : Tile) (bank row : Nat) : Bool :=
  t.isAcc bank && (t.accs.at (accRow t bank row).1).zero.getLsbD (accRow t bank row).2

/-- A row as a reader sees it: zero where the zero bit of an accumulator row is set (R229). -/
def Tile.readRow (t : Tile) (bank : BitVec 6) (row : Nat) : MVec :=
  if t.rowZero bank.toNat row then .clean 0 else t.readCells bank (rowCells row)

/-- Clears the zero bit of a written accumulator row. -/
def Tile.clearZero (t : Tile) (bank row : Nat) : Tile :=
  if t.isAcc bank then
    let k := accRow t bank row
    let a := t.accs.at k.1
    { t with accs := t.accs.put k.1 { a with zero := a.zero &&& ~~~((1 : BitVec 256) <<< k.2) } }
  else t

/-- Writes some columns of an accumulator row: where the zero bit was set, the other columns become +0 (R229). -/
def commitAccRow (s : State) (i : TileId) (bank : BitVec 6) (row : Nat) (l : List BankByte) : State :=
  let t := s.tileOf i
  if t.rowZero bank.toNat row then
    let zeros := (List.range 64).map fun b => (⟨64 * row + b, 0, false⟩ : BankByte)
    let s := s.setTile i ((t.commit bank zeros).clearZero bank.toNat row)
    commitBytes s i 15 bank l
  else commitBytes s i 15 bank l

end Sys2Proof.Machine
end

