-- ==== Sys2Proof/Machine/Operands.lean ====
section
/-!
DEFINITION. Operand forms: sources and latches (R48 to R50), destinations and latches of results (R51, R53, R55),
elements of vectors (R139), scratchpad addresses and the cells of an access (R203, R204, R212 to R215).
-/

namespace Sys2Proof.Machine

/-! ## Sources -/

namespace Core

/-- Whether a source may be read: a register always, a latch when it is valid (R50). -/
def ok {n : Nat} (c : Core) : Src n → Bool
  | .reg _ => true
  | .latch l => (c.latchOf l).valid

/-- The low bits of a latch with the mark of its first granule (R50). -/
def latchLow (c : Core) (n : Nat) (l : Latch) : Marked n 1 :=
  ⟨(c.latchOf l).val.val.setWidth n, (c.latchOf l).val.psn.extractLsb' 0 1⟩

def srcG (c : Core) : Src 6 → MWord
  | .reg i => c.readG i
  | .latch l => c.latchLow 32 l

def srcA (c : Core) : Src 4 → MQuad
  | .reg i => c.readA i
  | .latch l => c.latchLow 64 l

def srcK (c : Core) : Src 4 → MMask
  | .reg i => c.readK i
  | .latch l => c.latchLow 16 l

/-- A latch narrower than 512 bits reads as zero above its width. DESIGN CHOICE: notes/assumptions/51.md. -/
def srcV (c : Core) : Src 6 → MVec
  | .reg i => c.readV i
  | .latch l => (c.latchOf l).val

/-- A source whose file a field F selects: g gives 32 bits zero-extended, a gives 64 (R314, R353). -/
def srcF (c : Core) (f : Bool) (a : Src 6) : MQuad :=
  match a with
  | .reg i => if f then c.readA (i.setWidth 4) else ⟨(c.readG i).val.setWidth 64, (c.readG i).psn⟩
  | .latch l => if f then c.latchLow 64 l else ⟨(c.latchLow 32 l).val.setWidth 64, (c.latchLow 32 l).psn⟩

end Core

/-! ## Destinations -/

/-- The latch of a scalar slot (R48). -/
def sLatch : SSlot → Latch
  | .s0 => .sa | .s1 => .sb

/-- The latch of a vector slot (R48). -/
def vLatch : VSlot → Latch
  | .v0 => .va | .v1 => .vb

/-- The marks of a result, all set when the strand is tainted (R343). -/
def Core.mark {n m : Nat} (c : Core) (v : Marked n m) : Marked n m := if c.taint then ⟨v.val, BitVec.allOnes m⟩ else v

/-- A value zero-extended to a latch, its mark on the first granule (R50). -/
def toLatch {n : Nat} (v : Marked n 1) : MVec := ⟨v.val.setWidth 512, v.psn.setWidth 8⟩

/-- The granules that hold an enabled lane. -/
def granules (en : Mask) : BitVec 8 :=
  (List.range 8).foldl (fun acc i => if en.getLsbD (2 * i) || en.getLsbD (2 * i + 1) then acc ||| (1 <<< i) else acc) 0

/-- A lane result as its latch takes it: disabled elements zero (R51, R55). -/
def laneLatch (en : Mask) (v : MVec) : MVec := ⟨mergeLanes en 0 v.val, v.psn &&& granules en⟩

namespace State

/-- A g result lands after `lat` ticks in D and in the latch (R51, R124). -/
def landG (s : State) (cls : SlotClass) (lat : Nat) (d : Dst 6) (l : Option Latch) (v : MWord) : State :=
  let v := s.me.mark v
  s.land cls lat (.result (match d with | .reg i => [.g i v] | .none => []) (l.map fun l => (l, toLatch v)))

/-- An a result (R51, R135). -/
def landA (s : State) (cls : SlotClass) (lat : Nat) (d : Dst 4) (l : Option Latch) (v : MQuad) : State :=
  let v := s.me.mark v
  s.land cls lat (.result (match d with | .reg i => [.a i v] | .none => []) (l.map fun l => (l, toLatch v)))

/-- A k result: the enabled bits are written, the latch takes the result zero-extended (R169, R176). -/
def landK (s : State) (cls : SlotClass) (lat : Nat) (d : Dst 4) (l : Option Latch) (en : Mask) (v : MMask) : State :=
  let v := s.me.mark v
  s.land cls lat (.result (match d with | .reg i => [.k i v en] | .none => [])
    (l.map fun l => (l, toLatch ⟨v.val &&& en, v.psn⟩)))

/-- A v result with its enabled lanes (R51, R55). -/
def landV (s : State) (cls : SlotClass) (lat : Nat) (d : Dst 6) (l : Option Latch) (en : Mask) (v : MVec) : State :=
  let v := s.me.mark v
  s.land cls lat (.result (match d with | .reg i => [.v i v en] | .none => []) (l.map fun l => (l, laneLatch en v)))

/-- A result into the pair D, D+1; the latch receives the value written to D (R53). -/
def landPair (s : State) (cls : SlotClass) (lat : Nat) (d : Dst 5) (l : Option Latch) (en : Mask) (lo hi : MVec) : State :=
  let lo := s.me.mark lo
  let hi := s.me.mark hi
  s.land cls lat (.result
    (match d with | .reg i => [.v (i ++ 0#1) lo en, .v (i ++ 1#1) hi en] | .none => [])
    (l.map fun l => (l, laneLatch en lo)))

end State

/-! ## Elements (R139, R169) -/

/-- Element j of width w. -/
def elem {n : Nat} (w : Nat) (v : BitVec n) (j : Nat) : Nat := (v.toNat >>> (w * j)) % 2 ^ w

/-- The elements 0 to n - 1. -/
def elems {k : Nat} (w n : Nat) (v : BitVec k) : List Nat := (List.range n).map (elem w v)

/-- A vector from its elements, element 0 lowest; missing elements are zero. -/
def ofElems (w : Nat) (l : List Nat) : Nat := l.foldr (fun x acc => x % 2 ^ w + acc * 2 ^ w) 0

def vecOf (w : Nat) (l : List Nat) : Vec := BitVec.ofNat 512 (ofElems w l)

/-- Element-wise map of one vector. -/
def map1 (w : Nat) (f : Nat → Nat) (a : Vec) : Vec := vecOf w ((elems w (512 / w) a).map f)

/-- Element-wise map of two vectors. -/
def map2 (w : Nat) (f : Nat → Nat → Nat) (a b : Vec) : Vec :=
  vecOf w ((List.range (512 / w)).map fun j => f (elem w a j) (elem w b j))

/-- Element-wise map of three vectors. -/
def map3 (w : Nat) (f : Nat → Nat → Nat → Nat) (a b c : Vec) : Vec :=
  vecOf w ((List.range (512 / w)).map fun j => f (elem w a j) (elem w b j) (elem w c j))

/-- Bit i of a compare result: the relation holds for every element of lane i (R176). -/
def laneAll (w : Nat) (p : Nat → Nat → Bool) (a b : Vec) : Mask :=
  let k := 32 / w
  (List.range 16).foldl (fun acc i =>
    if (List.range k).all fun e => p (elem w a (k * i + e)) (elem w b (k * i + e)) then acc ||| (1 <<< i) else acc) 0

/-- Every mark of a vector as one. -/
def anyPsn {m : Nat} (p : BitVec m) : Bool := p != 0

/-- A mark for every granule. -/
def allMarks (b : Bool) (m : Nat) : BitVec m := if b then BitVec.allOnes m else 0

/-! ## Scratchpad addresses (R203, R204) -/

/-- Sign extension to 64 bits. -/
def sx64 {n : Nat} (v : BitVec n) : Quad := v.signExtend 64

/-- ea := (a[BASE][55:0] + sx(OFS) x scale)[55:0]. -/
def effAddr (base : Quad) (ofs : Quad) (scale : Nat) : BitVec 56 :=
  (base + ofs * BitVec.ofNat 64 scale).setWidth 56

/-- The map slot of an address. -/
def eaSlot (ea : BitVec 56) : BitVec 6 := ea.extractLsb' 16 6

/-- The bank offset of an address. -/
def eaOff (ea : BitVec 56) : Nat := (ea.extractLsb' 0 16).toNat

/-- The datum of causes 0x10 to 0x14 (R349). -/
def eaDatum (ea : BitVec 56) : Quad := ea.setWidth 64

def sizeBits (e : Size) : Nat := 8 * e.bytes

/-- The first cells of a `.row` access: 64 consecutive bytes. -/
def cellsRow (o : Nat) : List Nat := (List.range 64).map fun b => o + b

/-- The cells of a `.col` access of element bytes `k` at offset o, element j in row row0 + j (R204). -/
def cellsCol (k o : Nat) : List Nat :=
  ((List.range (64 / k)).map fun j => (List.range k).map fun b => o + 64 * j + b).flatten

def cellsOf : Orient → Nat → List Nat
  | .row, o => cellsRow o
  | .col e, o => cellsCol e.bytes o

/-- Alignment of an access's offset (R204). -/
def aligned : Orient → Nat → Bool
  | .row, o => o % 64 == 0
  | .col e, o => decide (o % e.bytes = 0 ∧ o / 64 % (64 / e.bytes) = 0)

/-- The scale of OFS (R70). -/
def scaleOf : Orient → Nat
  | .row => 64
  | .col e => e.bytes

/-- The element width of an access: `.row` counts as 32 bits (R212). -/
def widthOf : Orient → Nat
  | .row => 32
  | .col e => sizeBits e

/-- Cells with disabled elements removed: byte b of element j is kept when the guard enables the element's lane. -/
def maskCells (en : Mask) (l : List Nat) : List (Option Nat) :=
  l.zipIdx.map fun p => if en.getLsbD (p.2 / 4) then some p.1 else none

/-- The row selected for each element by a gather or scatter: byte positions are those of the element (R215). -/
def cellsGather (k o : Nat) (idx : Vec) : List Nat :=
  ((List.range (64 / k)).map fun j => (List.range k).map fun b => o + 64 * elem (8 * k) idx j + k * j + b).flatten

/-- Whether some enabled element's index leaves the plate (R215). -/
def gatherLeaves (k : Nat) (en : Mask) (idx : Vec) : Bool :=
  (List.range (64 / k)).any fun j => en.getLsbD (k * j / 4) && decide (elem (8 * k) idx j ≥ 64)

end Sys2Proof.Machine
end

