-- ==== Sys2Proof/Machine/Flags.lean ====
section
/-!
DEFINITION. Guards, lane masks and the two frames of a syllable's execution (R55 to R57). The machine keeps no
arithmetic flags (spec/05 R124, spec/06 R153, spec/07 R170): a compare's result is a register.
-/

namespace Sys2Proof.Machine

/-- The guard's register as read at t (R55). -/
def State.guard (s : State) (g : Guard) : MMask := s.me.readK g

/-- A non-lane syllable: disabled by bit 0 of its guard it only may taint (R343); with an invalid latch among the
sources it reads it faults with 0x03 (R50); otherwise it has its effect (R55). -/
def guarded (s : State) (cls : SlotClass) (g : Guard) (valid : Bool) (eff : State → State) :
    Host.Outcome State Fault Refusal :=
  let k := s.guard g
  if k.val.getLsbD 0 = false then .next (s.taintIf (anyPsn k.psn))
  else if valid = false then .next (s.fault cls 0x03)
  else .next (eff (s.taintIf (anyPsn k.psn)))

/-- An unguarded syllable. -/
def always (s : State) (cls : SlotClass) (valid : Bool) (eff : State → State) : Host.Outcome State Fault Refusal :=
  if valid = false then .next (s.fault cls 0x03) else .next (eff s)

/-- A lane syllable: every source it reads must be valid, whatever the guard enables (R56); the effect gets the lane
mask. -/
def laned (s : State) (cls : SlotClass) (g : Guard) (valid : Bool) (eff : Mask → State → State) :
    Host.Outcome State Fault Refusal :=
  if valid = false then .next (s.fault cls 0x03)
  else .next (eff (s.guard g).val (s.taintIf (anyPsn (s.guard g).psn)))

/-- What a syllable's operand checks answer: the first fault in its order, with its datum, or none. -/
abbrev Check := Option (Byte × Quad)

/-- The first failing check of a list, in order. -/
def firstFault (l : List (Bool × Byte × Quad)) : Check :=
  (l.find? fun p => p.1).map fun p => p.2

/-- The fault of the first failing check, else the effect. -/
def State.checked (s : State) (cls : SlotClass) (c : Check) (eff : State) : State :=
  match c with
  | some (cause, data) => s.fault cls cause data
  | none => eff

/-- A guarded syllable with operand checks: a disabled one makes none of them (R56), and one that faults changes
nothing (R57). -/
def guardedC (s : State) (cls : SlotClass) (g : Guard) (valid : Bool) (c : Check) (eff : State → State) :
    Host.Outcome State Fault Refusal :=
  let k := s.guard g
  if k.val.getLsbD 0 = false then .next (s.taintIf (anyPsn k.psn))
  else if valid = false then .next (s.fault cls 0x03)
  else .next (s.checked cls c (eff (s.taintIf (anyPsn k.psn))))

/-- An unguarded syllable with operand checks. -/
def alwaysC (s : State) (cls : SlotClass) (valid : Bool) (c : Check) (eff : State → State) :
    Host.Outcome State Fault Refusal :=
  if valid = false then .next (s.fault cls 0x03) else .next (s.checked cls c (eff s))

/-- A lane syllable with operand checks on its enabled elements; with none enabled it makes no check (R56). -/
def lanedC (s : State) (cls : SlotClass) (g : Guard) (valid : Bool) (c : Mask → Check) (eff : Mask → State → State) :
    Host.Outcome State Fault Refusal :=
  let k := s.guard g
  if valid = false then .next (s.fault cls 0x03)
  else .next (s.checked cls (if k.val = 0 then none else c k.val) (eff k.val (s.taintIf (anyPsn k.psn))))

/-! ## Wait forms (R113) -/

/-- What a wait form finds when its bundle is presented. -/
inductive WaitResult where
  | met
  | unmet
  | fault (cause : Byte) (data : Quad)
  deriving DecidableEq, Repr

/-- A wait form: met, it has its effect; unmet, the bundle waits in an open span and faults with span (0x74) in a closed
one (R113). `mark`: a poisoned value decides, which taints a strand that waits from the tick of the presentation (R343). -/
def waits (s : State) (cls : SlotClass) (r : WaitResult) (mark : Bool) (eff : State) : Host.Outcome State Fault Refusal :=
  match r with
  | .met => .next eff
  | .fault c d => .next (s.fault cls c d)
  | .unmet =>
    if s.me.span then .next ((s.taintIf mark).modCore s.focus fun c => { c with status := .waiting })
    else .next (s.fault cls 0x74)

end Sys2Proof.Machine
end

