-- ==== Sys2Proof/Machine/Access.lean ====
section
/-!
DEFINITION. What every access to a bank through a core's map shares: the entry as the tick sees it (R199, R216), the
checks of R210, the bank ticks fixed at issue with the windows of R333, and writes that commit later (R206, R208).
-/

namespace Sys2Proof.Machine

/-! ## Map entries -/

/-- Whether an entry reaches a bank (R199). -/
def MapSt.usable : MapSt → Bool
  | .owned | .lent | .read => true
  | .detached | .leaving | .arriving => false

/-- Whether an entry reaches a bank writably. -/
def MapSt.writable : MapSt → Bool
  | .owned | .lent => true
  | .detached | .read | .leaving | .arriving => false

/-- The state that a change presented in this tick gives an entry, if one does (R216). -/
def intentMark (l : List (BitVec 2 × Intent)) (core : BitVec 2) (slot : BitVec 6) : Option MapEntry :=
  (l.filterMap fun p =>
    match p.2 with
    | .change _ marks => (marks.find? fun m => m.1 == core && m.2.1 == slot).map fun m => m.2.2
    | .withdraw u e => if p.1 = core ∧ u = slot then some e else none
    | .rotate _ _ | .send _ | .book _ | .retire => none).head?

namespace State

/-- A map entry of a core of the focus tile as it stands at t, changes issued at t included (R216). -/
def entryOf (s : State) (core : BitVec 2) (slot : BitVec 6) : MapEntry :=
  (intentMark s.myTile.intents core slot).getD (((s.coreOf ⟨s.focus.tile, core⟩).map).at slot)

/-- The focus strand's entry. -/
def entry (s : State) (slot : BitVec 6) : MapEntry := s.entryOf s.focus.core slot

/-- A map entry of a core of the focus tile without the changes issued at t, as map changes read it (R216). -/
def rawEntry (s : State) (core : BitVec 2) (slot : BitVec 6) : MapEntry := ((s.coreOf ⟨s.focus.tile, core⟩).map).at slot

/-- The bank that an address reaches. -/
def bankAt (s : State) (ea : BitVec 56) : BitVec 6 := (s.entry (eaSlot ea)).bank

/-- Detached address (0x10), then read-only mapping (0x11) for a write (R203, R199, R210). -/
def reach (s : State) (write : Bool) (ea : BitVec 56) : List (Bool × Byte × Quad) :=
  [(ea.extractLsb' 22 34 != 0 || !(s.entry (eaSlot ea)).st.usable, 0x10, eaDatum ea),
   (write && (s.entry (eaSlot ea)).st == .read, 0x11, eaDatum ea)]

/-! ## Bank ticks fixed at issue (R206, R333) -/

/-- A booking of the focus strand's syllable. -/
def book (s : State) (cls : SlotClass) (bank : BitVec 6) (first last : Nat) (window : Bool := false) : Booking :=
  ⟨bank, s.t + first, s.t + last, window, s.focus.core, cls.index, s.t⟩

end State

/-- Whether two accesses conflict: one lies in the other's read-modify-write window (R333). -/
def Booking.meets (a b : Booking) : Bool :=
  a.bank == b.bank && decide (a.first ≤ b.last) && decide (b.first ≤ a.last) && (a.window || b.window)

/-- Whether two bookings are of one syllable. -/
def Booking.same (a b : Booking) : Bool := a.core == b.core && a.cls == b.cls && a.iss == b.iss

namespace State

/-- The accesses booked in the tile, those presented in this tick included. -/
def booked (s : State) : List Booking :=
  s.myTile.bookings ++ s.myTile.intents.filterMap fun p =>
    match p.2 with
    | .book b => some b
    | .change _ _ | .rotate _ _ | .send _ | .withdraw _ _ | .retire => none

/-- RMW window (0x14): an access of the syllable conflicts with one issued earlier or in this tick (R333).
DEDUCED: notes/assumptions/33.md. -/
def windowHit (s : State) (bs : List Booking) : Bool :=
  bs.any fun b => s.booked.any fun x => !b.same x && b.meets x

/-- Books the accesses of a syllable. -/
def addBookings (s : State) (bs : List Booking) : State :=
  s.modTile s.focus.tile fun t =>
    { t with bookings := t.bookings ++ bs, intents := t.intents ++ bs.map fun b => (s.focus.core, .book b) }

/-- Records what the focus strand's bundle asks of the tile in this tick. -/
def addIntent (s : State) (i : Intent) : State :=
  s.modTile s.focus.tile fun t => { t with intents := t.intents ++ [(s.focus.core, i)] }

/-! ## Writes (R206, R208) -/

end State

/-- The cores of a tile in the order in which they issue in a tick (R208). -/
def coreOrder (n : Nat) : List (BitVec 2) := (List.range 4).map fun i => BitVec.ofNat 2 (n + i)

/-- How many cores come before a core in the rotated order of bank tick n (R208). -/
def coreTurn (core : BitVec 2) (n : Nat) : Nat := (core.toNat + 4 - n % 4) % 4

/-- A core's place among the accesses of bank tick n; `k` is 0 for the M slot, 1 for the X slot, 2 for the E slot, 3 for
the reorder buffer (R208, R249, R335). Deposits (0 and 1), array stages (2 to 5) and write-backs (6) come before. -/
def coreRank (core : BitVec 2) (n k : Nat) : Nat := 8 + 4 * coreTurn core n + k

/-- The place of an array stage (R249). -/
def stageRank (core : BitVec 2) (n : Nat) : Nat := 2 + coreTurn core n

/-- The place of an array write-back (R208, R240). -/
def backRank : Nat := 6

namespace State

/-- Plans a write access of the focus strand, committed at the end of tick t + `lat` and seen from the tick after;
without an enabled element there is no access (R56). -/
def planWrite (s : State) (cls : SlotClass) (k lat : Nat) (bank : BitVec 6) (l : List BankByte) : State :=
  if l.isEmpty then s
  else s.plan ⟨s.focus.tile.claim, s.t + lat, phCommit, coreRank s.focus.core (s.t + lat) k, s.t, cls.index, some s.focus,
    some (s.t + lat + 1), s.t + lat + 1, 0,
    .ev (.bankCommit s.focus.tile s.focus.core.toNat bank (.bytes (l.map fun b => { b with psn := b.psn || s.me.taint })))⟩

/-- Plans a read that meets its bank `lat` ticks after issue; `done` is the tick its effects are over. -/
def planRead (s : State) (cls : SlotClass) (k lat fin : Nat) (vis : Option Nat) (r : LateRead) : State :=
  s.plan ⟨s.focus.tile.claim, s.t + lat, phRead, coreRank s.focus.core (s.t + lat) k, s.t, cls.index, some s.focus,
    vis, s.t + fin, 0, .read r⟩

/-- A bank read of the focus strand at t: a failure of the code is an uncorrectable error (R344). -/
def readNow (s : State) (bank : BitVec 6) (cells : List (Option Nat)) : State :=
  checkRead s s.focus.tile s.focus.core.toNat bank cells

end State

end Sys2Proof.Machine
end

