-- ==== Sys2Proof/Machine/Convert.lean ====
section
/-!
DEFINITION. The conversion forms and the random-bit generator of the X slot (spec/06 R154 to R168).
-/

namespace Sys2Proof.Machine

/-- The word at the head of the strand's queue: number n of its key (R154). -/
def headWord (s : State) : BitVec 32 := rngWord s.me.rngK s.me.rngN

/-- Takes one word (R156). -/
def takeWord (s : State) : State := s.modCore s.focus fun c => { c with rngN := c.rngN + 1 }

/-- Takes one word when the mode is stochastic (R156). -/
def takeIf (mode : Rnd) (s : State) : State := if stochastic mode then takeWord s else s

/-- The register pair that starts at a source register as 1,024 bits, with 16 marks (R139). -/
def pairOf (s : State) (a : Src 6) : Marked 1024 16 :=
  match a with
  | .reg i =>
    let lo := s.me.readV i
    let hi := s.me.readV (i + 1)
    ⟨hi.val ++ lo.val, hi.psn ++ lo.psn⟩
  | .latch _ => .clean 0

/-- The marks of `n` elements of width `wt` from elements of width `wf` with the source's marks (R343). -/
def mapMarks {m : Nat} (wf wt n : Nat) (p : BitVec m) : BitVec 16 :=
  (List.range n).foldl (fun acc i => if p.getLsbD (wf * i / 64) then acc ||| (1 <<< (wt * i / 64)) else acc) 0

/-- The elements converted one by one (R162 to R164). -/
def convertElems {k : Nat} (tf ff : Fmt) (rnd : Rnd) (sat : Bool) (w : BitVec 32) (n : Nat) (v : BitVec k) : List Nat :=
  (elems ff.width n v).zipIdx.map fun p => convert ff tf rnd sat p.1 (randomBits rnd w p.2)

/-- A result in D and `%cv` (R159). -/
def landCv (s : State) (lat : Nat) (d : Dst 6) (v : MVec) : State := s.landV .x lat d (some .cv) 0xFFFF v

/-- A result in the pair D, D+1; `%cv` takes the value written to D (R53, R159). -/
def landCvPair (s : State) (lat : Nat) (d : Dst 5) (v : Marked 1024 16) : State :=
  s.landPair .x lat d (some .cv) 0xFFFF ⟨v.val.extractLsb' 0 512, v.psn.extractLsb' 0 8⟩
    ⟨v.val.extractLsb' 512 512, v.psn.extractLsb' 8 8⟩

def execCvt (o : XF 6 6 Fmt Fmt) (s : State) : Host.Outcome State Fault Refusal :=
  always s .x (s.me.ok o.a) fun s =>
    let a := s.me.srcV o.a
    let n := 512 / max o.ff.width o.tf.width
    landCv (takeIf o.rnd s) 2 o.d
      ⟨vecOf o.tf.width (convertElems o.tf o.ff o.rnd o.sat (headWord s) n a.val),
        (mapMarks o.ff.width o.tf.width n a.psn).setWidth 8⟩

def execVpk (o : XF 6 5 Fmt Fmt) (s : State) : Host.Outcome State Fault Refusal :=
  always s .x true fun s =>
    let a := pairOf s (match o.a with | .reg i => .reg (i ++ 0#1) | .latch l => .latch l)
    let n := 1024 / o.ff.width
    landCv (takeIf o.rnd s) 2 o.d
      ⟨vecOf o.tf.width (convertElems o.tf o.ff o.rnd o.sat (headWord s) n a.val),
        (mapMarks o.ff.width o.tf.width n a.psn).setWidth 8⟩

def execVupk (d : Dst 5) (a : Src 6) (tf ff : Fmt) (s : State) : Host.Outcome State Fault Refusal :=
  always s .x (s.me.ok a) fun s =>
    let v := s.me.srcV a
    let n := 1024 / tf.width
    landCvPair s 2 d
      ⟨BitVec.ofNat 1024 (ofElems tf.width (convertElems tf ff .rne false 0 n v.val)), mapMarks ff.width tf.width n v.psn⟩

/-! ## Blocks (R165, R166) -/

/-- |x| as a value. -/
def Num.abs : Num → Num
  | .nan => .nan
  | .inf _ => .inf false
  | .fin _ m e => .fin false m e

/-- The greater of two values without NaN. -/
def Num.greater (a b : Num) : Num := match a.cmp b with | some .lt => b | _ => a

/-- The scale code of a block without NaN (R165). -/
def blockScale (t : Fam) (amax : Num) : Nat :=
  match amax with
  | .fin _ m e => if m = 0 then 0 else (clampInt 1 254 (e + (log2floor m : Int) - famEmax t + 128)).toNat
  | .inf _ => 254
  | .nan => 255

/-- One block of 32 elements quantised: the element codes and the scale (R165, R248). -/
def quantBlock (t : Fam) (ff : Fmt) (rnd : Rnd) (sat : Bool) (w : BitVec 32) (codes : List Nat) : List Nat × Nat :=
  let xs := codes.map (decodeNum ff)
  if xs.any Num.isNaN then
    (xs.zipIdx.map fun p => encodeNum (.fam t) rnd sat p.1 (randomBits rnd w p.2), 0xFF)
  else
    let c := blockScale t ((xs.map Num.abs).foldl Num.greater (.fin false 0 0))
    if c = 0 then (codes.map fun _ => 0, 0)
    else (xs.zipIdx.map fun p => encodeNum (.fam t) rnd sat (p.1.scale (128 - (c : Int))) (randomBits rnd w p.2), c)

/-- The 64-byte row of a block: elements in bytes 0 to 31, the scale in byte 32, zeros (R165). -/
def blockRow (b : List Nat × Nat) : Vec := vecOf 8 (b.1 ++ [b.2])

def execQblk (o : XF 6 6 Fam BTy) (s : State) : Host.Outcome State Fault Refusal :=
  always s .x (s.me.ok o.a) fun s =>
    let f : Fmt := .flt o.ff.fty
    let v : Marked 1024 16 :=
      match o.ff with
      | .fp32 => pairOf s o.a
      | .bf16 => ⟨(s.me.srcV o.a).val.setWidth 1024, (s.me.srcV o.a).psn.setWidth 16⟩
    landCv (takeIf o.rnd s) 3 o.d
      ⟨blockRow (quantBlock o.tf f o.rnd o.sat (headWord s) (elems f.width 32 v.val)),
        if anyPsn v.psn then 0x1F else 0⟩

/-- One element of a block expanded (R166). -/
def expandElem (t : FTy) (f : Fam) (rnd : Rnd) (sat : Bool) (scale q rb : Nat) : Nat :=
  let x := decodeNum (.fam f) q
  if scale = 0xFF then canonNaN (.flt t)
  else if scale = 0 then (if x.isNaN || x.isInf then canonNaN (.flt t) else 0)
  else encodeNum (.flt t) rnd sat (x.scale ((scale : Int) - 128)) rb

def execDqblk (o : XF 6 6 BTy Fam) (s : State) : Host.Outcome State Fault Refusal :=
  always s .x (s.me.ok o.a) fun s =>
    let a := s.me.srcV o.a
    let t := o.tf.fty
    let wt := Fmt.width (.flt t)
    let scale := elem 8 a.val 32
    let l := (elems 8 32 a.val).zipIdx.map fun p =>
      expandElem t o.ff o.rnd o.sat scale p.1 (randomBits o.rnd (headWord s) p.2)
    let psn := if a.psn.getLsbD 4 then BitVec.allOnes 16 else mapMarks 8 wt 32 a.psn
    let s := takeIf o.rnd s
    match o.tf with
    | .bf16 => landCv s 3 o.d ⟨vecOf 16 l, psn.setWidth 8⟩
    | .fp32 =>
      landCvPair s 3 (match o.d with | .reg i => .reg (i.extractLsb' 1 5) | .none => .none) ⟨BitVec.ofNat 1024 (ofElems 32 l), psn⟩

/-! ## The generator (R167, R168) -/

def execRngSeed (a b : Src 6) (g : Guard) (s : State) : Host.Outcome State Fault Refusal :=
  guarded s .x g (s.me.ok a && s.me.ok b) fun s =>
    s.land .x 1 (.seed ((s.me.srcG b).val ++ (s.me.srcG a).val))

def execRngPop (d : Dst 6) (g : Guard) (s : State) : Host.Outcome State Fault Refusal :=
  guarded s .x g true fun s => (takeWord s).landG .x 2 d (some .cv) (.clean (headWord s))

end Sys2Proof.Machine
end

