-- ==== Sys2Proof/Machine/Matrix.lean ====
section
/-!
DEFINITION. The matrix forms of the E slot (spec/09 R228 to R251) and the array's own steps: staged rows, group additions
and block writes.
-/

namespace Sys2Proof.Machine

/-! ## Places (R197, R233, R239) -/

/-- The operand slots and accumulator tiles of a tile. -/
def Tile.slots (t : Tile) : Nat := 4 * t.opd
def Tile.accTiles (t : Tile) : Nat := 4 * t.acc

def Tile.slotBank (t : Tile) (slot : BitVec 8) : BitVec 6 := BitVec.ofNat 6 (t.opdBase + slot.toNat / 4)
def slotOff (slot : BitVec 8) (row : Nat) : Nat := 16384 * (slot.toNat % 4) + 64 * row
def Tile.accBank (t : Tile) (acc : BitVec 8) : BitVec 6 := BitVec.ofNat 6 (t.accBase + acc.toNat / 4)
/-- The bank row of a row and quarter of an accumulator tile. -/
def accBankRow (acc : BitVec 8) (row quarter : Nat) : Nat := 256 * (acc.toNat % 4) + 4 * row + quarter

/-- A tile is busy until its busy end; the operation accepted in this tick shows from the next (R240).
DEDUCED: notes/assumptions/32.md. -/
def AccTile.busyAt (a : AccTile) (n : Nat) : Bool := decide (a.since < n ∧ n < a.y)

/-! ## Leases (R230) -/

/-- The owner of position w among the entries of a slot table. -/
def leaseOwner : List (Option (BitVec 2) × Nat) → Nat → Option (BitVec 2)
  | [], _ => none
  | (none, _) :: l, w => leaseOwner l w
  | (some c, n) :: l, w => if w < 64 * n then some c else leaseOwner l (w - 64 * n)

/-- 64 times the sum of the lengths of the non-empty entries. -/
def leaseLength (l : List (Option (BitVec 2) × Nat)) : Nat :=
  (l.map fun e => match e.1 with | some _ => 64 * e.2 | none => 0).foldl (· + ·) 0

/-- Whether a core holds the lease at a count. -/
def Tile.holdsLease (t : Tile) (core : BitVec 2) (n : Nat) : Bool :=
  leaseLength t.slotTable != 0 && leaseOwner t.slotTable (n % leaseLength t.slotTable) == some core

/-! ## Claiming slots (R232) -/

/-- Whether another core's `mclaim` of this slot, issued in this tick, comes first (R232). DEDUCED: notes/assumptions/43.md. -/
def claimedNow (s : State) (n : BitVec 8) : Bool :=
  s.agenda.any fun e =>
    match e.act with
    | .ev (.resultLanding st (.claimSlot k)) =>
      k == n.toNat && st.tile == s.focus.tile && st.core != s.focus.core && e.iss == s.t
    | _ => false

def execMclaim (n : BitVec 8) (s : State) : Host.Outcome State Fault Refusal :=
  let o := s.myTile.opSlots.at n
  alwaysC s .e true
    (firstFault [(decide (n.toNat ≥ s.myTile.slots), 0x23, 0),
      (o.owner.isSome && o.owner != some s.focus.core, 0x25, 0),
      (o.owner == some s.focus.core && decide (s.t < o.u), 0x25, 0), (claimedNow s n, 0x25, 0)])
    fun s => s.land .e 1 (.claimSlot n.toNat)

def execMrel (n : BitVec 8) (s : State) : Host.Outcome State Fault Refusal :=
  let o := s.myTile.opSlots.at n
  alwaysC s .e true
    (firstFault [(decide (n.toNat ≥ s.myTile.slots), 0x23, 0), (o.owner != some s.focus.core, 0x21, 0),
      (decide (s.t < o.u), 0x25, 0)])
    fun s => s.land .e 1 (.freeSlot n.toNat)

/-! ## Staging (R234) -/

/-- Whether the array takes a format (R234, R237). -/
def stagedFmt : Fmt → Bool
  | .fam _ => true
  | .flt .bf16 | .flt .fp16 => true
  | .flt .fp32 => false
  | .int _ => false

/-- The cells of staged row j. -/
def stageCells (r : Orient) (o j : Nat) : List Nat :=
  match r with
  | .row => cellsRow (o + 64 * j)
  | .col e => cellsCol e.bytes (o + e.bytes * j)

/-- Whether the staged region leaves its plate. -/
def stageLeaves (r : Orient) (o n : Nat) : Bool :=
  match r with
  | .row => decide (o / 64 % 64 + n > 64)
  | .col e => decide (o % 64 + n * e.bytes > 64)

/-- Plans the transfer of one staged row: read at tick t + 3 + j, written at t + 4 + j (R234). -/
def planStage (s : State) (bank dst : BitVec 6) (cells : List Nat) (off j : Nat) : State :=
  s.plan ⟨s.focus.tile.claim, s.t + 3 + j, phRead, stageRank s.focus.core (s.t + 3 + j), s.t, SlotClass.e.index,
    some s.focus, none, s.t + 5 + j, 0, .ev (.stageRowTransfer s.focus.tile (.read s.focus bank cells dst off))⟩

/-- `mstage` in an orientation. -/
def stage (s : State) (o : ES) (r : Orient) : Host.Outcome State Fault Refusal :=
  let t := s.myTile
  let sl := t.opSlots.at o.slot
  let n := o.nr.toNat + 1
  let ea := effAddr (s.me.readA o.base).val (sx64 o.ofs) 64
  let bank := s.bankAt ea
  let f := t.fmts.at bank
  let dst := t.slotBank o.slot
  let bs := [s.book .e bank 3 (n + 2), s.book .e dst 4 (n + 3)]
  let badFmt := !stagedFmt f ||
    (match r with | .row => false | .col e => sizeBits e != f.width) || (match sl.fmt with | none => false | some g => g != f)
  alwaysC s .e true
    (firstFault ([(decide (o.slot.toNat ≥ t.slots), 0x23, 0), (sl.owner != some s.focus.core, 0x21, 0),
        (decide (s.t < sl.u), 0x25, 0)] ++ s.reach false ea ++
      [(!aligned r (eaOff ea), 0x12, eaDatum ea), (stageLeaves r (eaOff ea) n, 0x13, eaDatum ea), (badFmt, 0x17, 0),
       (decide (sl.p + n > 192), 0x24, 0), (s.windowHit bs, 0x14, eaDatum ea)]))
    fun s =>
      let s := (s.taintIf (anyPsn (s.me.readA o.base).psn)).addBookings bs
      let s := s.modTile s.focus.tile fun t =>
        { t with opSlots := t.opSlots.put o.slot { sl with p := sl.p + n, fmt := some f, f := s.t + 4 + n } }
      (List.range n).foldl (fun s j => planStage s bank dst (stageCells r (eaOff ea) j) (slotOff o.slot (sl.p + j)) j) s

def execMstageRow (o : ES) (s : State) := stage s o .row
def execMstageCol (o : ES) (e : Size) (s : State) := stage s o (.col e)

/-- A staged row is read, or written into its slot (R234): with the marks that its bank words have, whatever the strand's taint,
as the array spreads poison by its own rule (R343). DEDUCED: notes/assumptions/45.md. -/
def transferRow (s : State) (t : TileId) : StageStep → State
  | .read st bank cells dstBank dst =>
    let c := cells.map some
    let s := checkRead s t 15 bank c
    let n := s.now t.claim
    s.plan ⟨t.claim, n + 1, phCommit, stageRank st.core (n + 1), n, SlotClass.e.index, some st, none, n + 2, 0,
      .ev (.stageRowTransfer t (.write dstBank dst ((s.tileOf t).readCells bank c)))⟩
  | .write dstBank dst row => commitBytes s t 15 dstBank (rowBytes (dst / 64) row)

/-! ## Shape records (R235 to R237) -/

def execMshape (sh : BitVec 2) (base : BitVec 4) (ofs : BitVec 10) (g : Guard) (s : State) :
    Host.Outcome State Fault Refusal :=
  let ea := effAddr (s.me.readA base).val (sx64 ofs) 64
  let bank := s.bankAt ea
  let bs := [s.book .e bank 0 0]
  guardedC s .e g true
    (firstFault (s.reach false ea ++ [(eaOff ea % 64 != 0, 0x12, eaDatum ea), (s.windowHit bs, 0x14, eaDatum ea)]))
    fun s =>
      let s := (s.taintIf (anyPsn (s.me.readA base).psn)).addBookings bs
      let c := rowCells (eaOff ea / 64)
      (s.readNow bank c).land .e 3 (.shape sh (s.me.mark (s.myTile.readCells bank c)))

/-- The fields of a shape record. -/
def shapeOp (r : Vec) : MmaOp where
  id := 0
  core := 0
  aslot := byteOf r 3
  bslot := byteOf r 4
  acc := byteOf r 5
  m := (byteOf r 0).toNat + 1
  n := (byteOf r 1).toNat + 1
  k := (byteOf r 2).toNat
  afirst := (byteOf r 6).toNat
  astride := (byteOf r 7).toNat
  bfirst := (byteOf r 8).toNat
  bstride := (byteOf r 9).toNat
  set := false
  na := false
  nb := false
  fa := .flt .fp32
  fb := .flt .fp32
  coop := r.getLsbD 80
  gr := (r.extractLsb' 81 2).toNat
  gc := (r.extractLsb' 83 2).toNat
  ta := r.extractLsb' 96 12
  tb := r.extractLsb' 112 12
  start := 0
  done := 0

/-- Whether every reserved bit of a record is zero (R235). -/
def shapeReserved (r : Vec) : Bool :=
  r.extractLsb' 85 3 == 0 && r.extractLsb' 88 8 == 0 && r.extractLsb' 108 4 == 0 && r.extractLsb' 124 4 == 0 &&
    r.extractLsb' 128 384 == 0

/-- The common operand width of two tags, when the array takes them together (R237). -/
def pairWidth : Option Fmt → Option Fmt → Option Nat
  | some (.fam _), some (.fam _) => some 8
  | some (.flt a), some (.flt b) => if a ≠ .fp32 ∧ b ≠ .fp32 then some 16 else none
  | _, _ => none

/-- The bytes that an operand's elements span in their rows (R237). -/
def spanOf (first k stride w : Nat) : Nat := (first + (k - 1) * stride + 1) * w / 8

/-- The panels of an operand. -/
def panels (span : Nat) : Nat := (span + 63) / 64

/-- Whether a record is valid for an operation that issues now (R237). -/
def shapeValid (t : Tile) (r : Vec) : Bool :=
  let o := shapeOp r
  let a := t.opSlots.at o.aslot
  let b := t.opSlots.at o.bslot
  match pairWidth a.fmt b.fmt with
  | none => false
  | some w =>
    let sa := spanOf o.afirst o.k o.astride w
    let sb := spanOf o.bfirst o.k o.bstride w
    shapeReserved r && decide (o.m ≤ 64 ∧ o.n ≤ 64 ∧ 1 ≤ o.k ∧ o.k ≤ 192 * 8 / w ∧ 1 ≤ o.astride ∧ 1 ≤ o.bstride
      ∧ sa ≤ 192 ∧ sb ≤ 192 ∧ 64 * (panels sa - 1) + o.m ≤ a.p ∧ 64 * (panels sb - 1) + o.n ≤ b.p)
      && (o.coop || (o.gr == 0 && o.gc == 0 && o.ta == 0 && o.tb == 0))

/-! ## Operations (R238, R239) -/

/-- The operand width of an operation. -/
def MmaOp.width (o : MmaOp) : Nat := o.fa.width
/-- The group length Lg (R237). -/
def MmaOp.group (o : MmaOp) : Nat := if o.width = 8 then 16 else 4
/-- The groups of an element, and the blocks of the result (R239). -/
def MmaOp.groups (o : MmaOp) : Nat := (o.k + o.group - 1) / o.group
def MmaOp.blockCols (o : MmaOp) : Nat := (o.n + 15) / 16
def MmaOp.blocks (o : MmaOp) : Nat := (o.m + 15) / 16 * o.blockCols
def MmaOp.find? (l : List MmaOp) (id : Nat) : Option MmaOp := l.find? fun o => o.id == id

/-- The panels of an operand in which an operation reads an element (R237). -/
def panelsRead (first k stride w : Nat) : List Nat :=
  (List.range (panels (spanOf first k stride w))).filter fun p =>
    (List.range k).any fun i => (first + i * stride) * w / 8 / 64 == p

/-- The slot rows of an operand that a co-operative operation sends, those that it reads: panel by panel, rows rising
(R244). -/
def sendRows (first k stride w rows : Nat) : List Nat :=
  ((panelsRead first k stride w).map fun p => (List.range rows).map fun i => 64 * p + i).flatten

/-- The rows that an operation sends of its operands. -/
def MmaOp.sendA (o : MmaOp) : List Nat := sendRows o.afirst o.k o.astride o.width o.m
def MmaOp.sendB (o : MmaOp) : List Nat := sendRows o.bfirst o.k o.bstride o.width o.n

/-- The wheel slots in which a router holds an entry from the local port for a tag (R276). -/
def Tile.localSlots (t : Tile) (tag : BitVec 12) : List Nat :=
  (t.routes.filter fun r => r.tag == tag && r.inp.isNone).map fun r => r.slot

/-- How far a router's wheel position stands ahead of its claim's count, modulo W: 0 unless the position is upset (R266). -/
def wheelShift (s : State) (t : TileId) : Nat := (s.wheelPos t + s.wheel - s.now t.claim % s.wheel) % s.wheel

/-- The first tick at or after n in which such an entry stands at the wheel position, which is `shift` ahead of the count
(R266, R276). -/
def nextSend (wheel shift : Nat) (slots : List Nat) (n : Nat) : Option Nat :=
  ((List.range wheel).find? fun d => slots.contains ((n + d + shift) % wheel)).map fun d => n + d

/-- The tick after the last of k flits sent from tick n leaves the router. -/
def sendEnd (wheel shift : Nat) (slots : List Nat) : Nat → Nat → Nat
  | 0, n => n
  | k + 1, n =>
    match nextSend wheel shift slots n with
    | none => 2 ^ 64
    | some m => sendEnd wheel shift slots k (m + 1)

/-- The in-use end of an operand slot: its completion, and the end of its send (R239, R244). -/
def sendUse (s : State) (t : Tile) (sends : Bool) (tag : BitVec 12) (rows : List Nat) (start fin : Nat) : Nat :=
  if sends then max fin (sendEnd s.wheel (wheelShift s s.focus.tile) (t.localSlots tag) (2 * rows.length) start) else fin

/-- Plans an array step of an operation. -/
def planArray (s : State) (t : TileId) (tick phase rank : Nat) (i : Event) : State :=
  s.plan ⟨t.claim, tick, phase, rank, s.now t.claim, 8, none, none, 0, 0, .ev i⟩

/-- The steps of an accepted operation: start, one addition per group and block, one write per block, completion. -/
def planMma (s : State) (t : TileId) (o : MmaOp) : State :=
  let s := planArray s t o.start phLand 0 (.mmaStart t o.id)
  let s := (List.range o.blocks).foldl (fun s b =>
    let s := (List.range o.groups).foldl (fun s g =>
      planArray s t (o.start + b * o.groups + g) phArray 0 (.mmaGroupAdd t o.id b g)) s
    planArray s t (o.start + (b + 1) * o.groups) phCommit backRank (.mmaBlockWrite t o.id b)) s
  planArray s t o.done phLand 0 (.mmaCompletion t o.id)

/-- Accepting an operation (R239). -/
def acceptMma (s : State) (r : Vec) (set na nb : Bool) : State :=
  let t := s.myTile
  let o := shapeOp r
  let a := t.opSlots.at o.aslot
  let b := t.opSlots.at o.bslot
  let o : MmaOp := { o with
    id := t.arrNext, core := s.focus.core, set := set, na := na, nb := nb
    fa := a.fmt.getD (.flt .fp32), fb := b.fmt.getD (.flt .fp32) }
  let start := max (max (s.t + 2) t.arrX) (max a.f b.f)
  let fin := start + o.blocks * o.groups + 1
  let o : MmaOp := { o with start := start, done := fin }
  let ua := sendUse s t (o.coop && o.gc == 0) o.ta o.sendA start fin
  let ub := sendUse s t (o.coop && o.gr == 0) o.tb o.sendB start fin
  let slots := t.opSlots.put o.aslot { a with u := max a.u ua }
  let b := slots.at o.bslot
  let acc := t.accs.at o.acc
  let t : Tile := { t with
    opSlots := slots.put o.bslot { b with u := max b.u ub }
    accs := t.accs.put o.acc { acc with y := fin, since := if s.t < acc.y then acc.since else s.t }
    arrX := start + o.blocks * o.groups
    arrQueue := t.arrQueue ++ [o]
    arrNext := t.arrNext + 1 }
  let s := s.setTile s.focus.tile t
  let s := s.modClaim s.focus.tile.claim fun c => { c with lastDone := max c.lastDone fin }
  planMma s s.focus.tile o

def execMma (sh : BitVec 2) (set na nb : Bool) (g : Guard) (s : State) : Host.Outcome State Fault Refusal :=
  let t := s.myTile
  let r := s.me.shapes.at sh
  let o := shapeOp r.val
  let mine := fun n => (t.opSlots.at n).owner == some s.focus.core
  guardedC s .e g true
    (firstFault [(!t.holdsLease s.focus.core (s.countOf s.focus.tile).toNat, 0x20, 0),
      (decide (o.aslot.toNat ≥ t.slots ∨ o.bslot.toNat ≥ t.slots ∨ o.acc.toNat ≥ t.accTiles), 0x23, 0),
      (!(mine o.aslot && mine o.bslot), 0x21, 0), (!shapeValid t r.val, 0x24, 0),
      (decide (t.arrQueue.length ≥ 8), 0x26, 0)])
    fun s => acceptMma (s.taintIf (anyPsn r.psn)) r.val set na nb

/-! ## The array at work (R239 to R243) -/

/-- The bank cells of element k of an operand row (R233). -/
def elemCells (slot : BitVec 8) (row first stride w k : Nat) : List Nat :=
  let b := (first + k * stride) * w / 8
  (List.range (w / 8)).map fun j => slotOff slot (64 * ((b + j) / 64) + row) + (b + j) % 64

/-- An operand element: its exact value with its sign option, and its mark (R241, R243). -/
def operandElem (t : Tile) (slot : BitVec 8) (f : Fmt) (neg : Bool) (row first stride k : Nat) : Num × Bool :=
  let bs := (elemCells slot row first stride f.width k).map fun c => t.byteView (t.slotBank slot) c
  let x := decodeNum f (leNat (bs.map fun p => p.1))
  (if neg then x.neg else x, bs.any fun p => p.2)

/-- Fw of R241. -/
def MmaOp.fw (o : MmaOp) : Nat := if o.width = 8 then 18 else 35

/-- The grid parameters of a staged format. -/
def specOf (f : Fmt) : FloatSpec := (floatSpecOf f).getD (floatSpec .fp32)

/-- The k of group g that lie below K. -/
def MmaOp.ks (o : MmaOp) (g : Nat) : List Nat :=
  ((List.range o.group).map fun i => g * o.group + i).filter fun k => k < o.k

/-- Group g added into one element (R241 to R243). -/
def addGroup (t : Tile) (o : MmaOp) (i j g : Nat) (v : AccElem) : AccElem :=
  let xs := (o.ks g).map fun k =>
    (operandElem t o.aslot o.fa o.na i o.afirst o.astride k, operandElem t o.bslot o.fb o.nb j o.bfirst o.bstride k)
  let ps := xs.map fun p => mkProduct (specOf o.fa) (specOf o.fb) p.1.1 p.2.1
  ⟨accumulate v.val (groupValue o.fw ps), v.psn ||| allMarks (xs.any fun p => p.1.2 || p.2.2) 1⟩

/-- The result rows and columns of block b. -/
def MmaOp.row0 (o : MmaOp) (b : Nat) : Nat := 16 * (b / o.blockCols)
def MmaOp.col0 (o : MmaOp) (b : Nat) : Nat := 16 * (b % o.blockCols)

/-- The finished block that is written back in this tick, where it is block b of the same accumulator tile (R240). -/
def writingNow (t : Tile) (o : MmaOp) (b : Nat) : Option ArrBlock :=
  t.arrOut.head?.filter fun w => w.acc == o.acc && w.row0 == o.row0 b && w.col0 == o.col0 b

/-- The block as the array reads it: +0 under `.set`; the values being written, where this block is written in the tick;
else the tile's rows (R229, R239, R240). -/
def loadBlock (t : Tile) (o : MmaOp) (b : Nat) : List AccElem :=
  ((List.range 16).map fun r =>
    let row := if o.set then (⟨0, 0⟩ : MVec) else t.readRow (t.accBank o.acc) (accBankRow o.acc (o.row0 b + r) (o.col0 b / 16))
    (List.range 16).map fun c =>
      let held : AccElem := ⟨row.val.extractLsb' (32 * c) 32, row.psn.extractLsb' (c / 2) 1⟩
      match (if o.set then none else writingNow t o b) with
      | none => held
      | some w => if w.row0 + r < w.m ∧ w.col0 + c < w.n then w.elems.getD (16 * r + c) held else held).flatten

/-- The rows of a block that lie below M. -/
def MmaOp.blockRows (o : MmaOp) (b : Nat) : List Nat := (List.range 16).filter fun r => o.row0 b + r < o.m

/-- Whether an element of a block is among the values being written in this tick, of which a read takes it (R240). -/
def writtenNow (t : Tile) (o : MmaOp) (b r c : Nat) : Bool :=
  match writingNow t o b with
  | none => false
  | some w => decide (w.row0 + r < w.m ∧ w.col0 + c < w.n)

/-- The cells that a block's read takes from the bank: columns below N of the rows whose zero bit is clear, without the
elements that are being written in the tick (R229, R239, R240; R344 for their check). -/
def blockCells (t : Tile) (o : MmaOp) (b : Nat) : List (Option Nat) :=
  ((o.blockRows b).filter fun r =>
    !t.rowZero (t.accBank o.acc).toNat (accBankRow o.acc (o.row0 b + r) (o.col0 b / 16))).map (fun r =>
      ((List.range (4 * min 16 (o.n - o.col0 b))).filter fun i => !writtenNow t o b r (i / 4)).map fun i =>
        some (64 * accBankRow o.acc (o.row0 b + r) (o.col0 b / 16) + i)) |>.flatten

/-- The operand cells that group g of block b reads. -/
def groupCells (o : MmaOp) (b g : Nat) : List (Option Nat) × List (Option Nat) :=
  ((((List.range 16).filter fun r => o.row0 b + r < o.m).map fun r =>
      ((o.ks g).map fun k => elemCells o.aslot (o.row0 b + r) o.afirst o.astride o.width k).flatten).flatten.map some,
   (((List.range 16).filter fun c => o.col0 b + c < o.n).map fun c =>
      ((o.ks g).map fun k => elemCells o.bslot (o.col0 b + c) o.bfirst o.bstride o.width k).flatten).flatten.map some)

/-- The array port touches a bank; a read beside a write of one tick counts as one access (R240). -/
def touchArray (s : State) (t : TileId) (bank : BitVec 6) : State :=
  s.modTile t fun x => { x with touched := if x.touched.contains (bank, true) then x.touched else (bank, true) :: x.touched }

/-- Group g of block b is added; the first group reads the block before it, the last one finishes it (R239). -/
def groupAdd (s : State) (t : TileId) (o : MmaOp) (b g : Nat) : State :=
  let bank := (s.tileOf t).accBank o.acc
  let s := if g = 0 && !o.set then checkRead (touchArray s t bank) t 15 bank (blockCells (s.tileOf t) o b) else s
  let cells := groupCells o b g
  let s := checkRead s t 15 ((s.tileOf t).slotBank o.aslot) cells.1
  let s := checkRead s t 15 ((s.tileOf t).slotBank o.bslot) cells.2
  let x := s.tileOf t
  let blk := if g = 0 then loadBlock x o b else x.arrAcc
  let blk := blk.zipIdx.map fun p =>
    let i := o.row0 b + p.2 / 16
    let j := o.col0 b + p.2 % 16
    if i < o.m ∧ j < o.n then addGroup x o i j g p.1 else p.1
  s.setTile t { x with
    arrAcc := blk
    arrOut := if g + 1 = o.groups then x.arrOut ++ [⟨o.acc, o.row0 b, o.col0 b, o.m, o.n, blk⟩] else x.arrOut }

/-- The bytes of a block's row with columns below N, at their place in the accumulator bank. -/
def blockRowBytes (o : MmaOp) (b r : Nat) (blk : List AccElem) : List BankByte :=
  ((List.range 16).filter fun c => o.col0 b + c < o.n).map (fun c =>
    let e := blk.getD (16 * r + c) (.clean 0)
    (List.range 4).map fun k =>
      (⟨64 * accBankRow o.acc (o.row0 b + r) (o.col0 b / 16) + 4 * c + k, byteOf e.val k, anyPsn e.psn⟩ : BankByte)) |>.flatten

/-- The bytes of block b's write-back. -/
def blockBytes (o : MmaOp) (b : Nat) (blk : List AccElem) : List BankByte :=
  ((o.blockRows b).map fun r => blockRowBytes o b r blk).flatten

/-- The elements of the block that was finished first. -/
def Tile.firstBlock (t : Tile) : List AccElem :=
  match t.arrOut with
  | [] => []
  | w :: _ => w.elems

/-- Block b, the one finished first, is written back (R239). -/
def blockWrite (s : State) (t : TileId) (o : MmaOp) (b : Nat) : State :=
  let bank := (s.tileOf t).accBank o.acc
  let blk := (s.tileOf t).firstBlock
  let s := s.modTile t fun x => { x with arrOut := x.arrOut.tail }
  (o.blockRows b).foldl (fun s r =>
    commitAccRow s t bank (accBankRow o.acc (o.row0 b + r) (o.col0 b / 16)) (blockRowBytes o b r blk)) (touchArray s t bank)

/-! ## Reading, clearing and quantising accumulators (R246 to R248) -/

/-- The checks of an accumulator tile: range, then busy. -/
def accChecks (s : State) (n : BitVec 8) : List (Bool × Byte × Quad) :=
  [(decide (n.toNat ≥ s.myTile.accTiles), 0x23, 0), ((s.myTile.accs.at n).busyAt s.t, 0x22, 0)]

/-- A read of an accumulator row by a core checks the code of the words it takes from the bank. -/
def accReadCheck (s : State) (bank : BitVec 6) (row : Nat) : State :=
  if s.myTile.rowZero bank.toNat row then s else s.readNow bank (rowCells row)

def execMaccRd (d : Dst 6) (tile : BitVec 8) (row : BitVec 6) (quarter : BitVec 2) (s : State) :
    Host.Outcome State Fault Refusal :=
  alwaysC s .e true (firstFault (accChecks s tile)) fun s =>
    let bank := s.myTile.accBank tile
    let r := accBankRow tile row.toNat quarter.toNat
    (accReadCheck (s.addBookings [s.book .e bank 0 0]) bank r).landV .e 3 d (some .mx) 0xFFFF (s.myTile.readRow bank r)

def execMaccZero (n : BitVec 8) (s : State) : Host.Outcome State Fault Refusal :=
  alwaysC s .e true (firstFault (accChecks s n)) fun s => s.land .e 2 (.zeroTile n.toNat)

/-- Half h of a quantised tile row: the block of its 32 elements, with the marks of a block (R248, R343). -/
def quantHalf (fam : Fam) (sat : Bool) (rows : List MVec) (h : Nat) : MVec :=
  let rs := [rows.getD (2 * h) (.clean 0), rows.getD (2 * h + 1) (.clean 0)]
  ⟨blockRow (quantBlock fam (.flt .fp32) .rne sat 0 ((rs.map fun r => elems 32 16 r.val).flatten)),
    if rs.any fun r => anyPsn r.psn then 0x1F else 0⟩

def execMqnt (o : MS 6) (fam : Fam) (sat : Bool) (s : State) : Host.Outcome State Fault Refusal :=
  let d := s.me.readG o.d
  let acc : BitVec 8 := d.val.extractLsb' 0 8
  let row := (d.val.extractLsb' 8 6).toNat
  let ea := effAddr (s.me.readA o.base).val (sx64 o.ofs) 64
  let bank := s.bankAt ea
  let abank := s.myTile.accBank acc
  let bs := [s.book .e abank 0 0, s.book .e bank 2 3]
  guardedC s .e o.g true
    (firstFault (accChecks s acc ++ s.reach true ea ++
      [(eaOff ea % 64 != 0, 0x12, eaDatum ea), (eaOff ea / 64 % 64 == 63, 0x13, eaDatum ea),
       (s.windowHit bs, 0x14, eaDatum ea)]))
    fun s =>
      let s := (s.taintIf (anyPsn d.psn || anyPsn (s.me.readA o.base).psn)).addBookings bs
      let s := (List.range 4).foldl (fun s q => accReadCheck s abank (accBankRow acc row q)) s
      let rows := (List.range 4).map fun q => s.myTile.readRow abank (accBankRow acc row q)
      s.planWrite .e 2 3 bank
        (rowBytes (eaOff ea / 64) (quantHalf fam sat rows 0) ++ rowBytes (eaOff ea / 64 + 1) (quantHalf fam sat rows 1))

end Sys2Proof.Machine
end

