-- ==== Sys2Proof/Machine/Fabric.lean ====
section
/-!
DEFINITION. The fabric: links, elastic buffers, routes, landing, counts and drift, holds and trim (spec/10 R255 to R282,
R345, R402), and the fabric and tick forms of the E slot (R283 to R291).
-/

namespace Sys2Proof.Machine

/-! ## Geometry (R12 to R14, R33, R402) -/

def oppositeSide : Side → Side
  | .north => .south | .south => .north | .east => .west | .west => .east

def sideIndex : Side → Nat
  | .north => 0 | .east => 1 | .south => 2 | .west => 3

def allSides : List Side := [.north, .east, .south, .west]

/-- A claim-relative tile's logical coordinates. -/
def globalOf (c : Claim) (t : TileId) : Nat × Nat := (12 * c.fx0 + t.x, 12 * c.fy0 + t.y)

/-- The tile of the same claim across a side, if the side does not lead out of the claim. -/
def neighbour (c : Claim) (t : TileId) : Side → Option TileId
  | .north => if t.y = 0 then none else some { t with y := t.y - 1 }
  | .south => if t.y + 1 < 12 * c.fh then some { t with y := t.y + 1 } else none
  | .west => if t.x = 0 then none else some { t with x := t.x - 1 }
  | .east => if t.x + 1 < 12 * c.fw then some { t with x := t.x + 1 } else none

/-- The edge link at a side of a tile (R33). -/
def edgeLink (g : Nat × Nat) : Side → Option Nat
  | .north => if g.2 = 0 then some g.1 else none
  | .east => if g.1 = 143 then some (144 + g.2) else none
  | .south => if g.2 = 83 then some (228 + (143 - g.1)) else none
  | .west => if g.1 = 0 then some (372 + (83 - g.2)) else none

/-- The engine of an edge link (R33). -/
def engineOf (link : Nat) : Nat := link / 19

/-- The edge tile and side of an edge link. -/
def edgeTile (link : Nat) : (Nat × Nat) × Side :=
  if link < 144 then ((link, 0), .north)
  else if link < 228 then ((143, link - 144), .east)
  else if link < 372 then ((371 - link, 83), .south)
  else ((0, 455 - link), .west)

/-- Whether an engine is bound to a claim (R298). -/
def Claim.binds? (c : Claim) (e : Nat) : Bool := c.binds.any fun b => b.ctx.engine == e

/-- What lies across a claim link (R402): an edge link may serve an engine, a peer port, or both, each in its own slots
(R33, R274). -/
inductive Across where
  | tile (t : TileId)
  | engine (e : Nat)
  | peer (p : Nat)
  | both (e : Nat)
  deriving DecidableEq, Repr

/-- What lies across a side of a tile, when that is a claim link: an edge link serves the engine that R33 gives it to where
that is bound to the claim, and in a fleet claim the peer port beside it. -/
def across (s : State) (t : TileId) (d : Side) : Option Across :=
  let c := s.claimOf t.claim
  match neighbour c t d with
  | some n => some (.tile n)
  | none =>
    match edgeLink (globalOf c t) d with
    | none => none
    | some l =>
      match c.binds? (engineOf l), c.fleet with
      | true, true => some (.both (engineOf l))
      | true, false => some (.engine (engineOf l))
      | false, true => some (.peer (engineOf l))
      | false, false => none

/-- The peer port at a side of a tile, if the claim uses one there. -/
def portAt (s : State) (t : TileId) (d : Side) : Option Nat :=
  match across s t d with
  | some (.peer p) => some p
  | some (.both p) => some p
  | some (.tile _) => none
  | some (.engine _) => none
  | none => none

/-- The physical column of a logical column of a field's row, where the map skips some tiles: field, row, physical column
(R13). -/
def colIn (skips : List (Nat × Nat × Nat)) (field row col : Nat) : Nat :=
  if skips.any fun r => r.1 == field && r.2.1 == row && decide (r.2.2 ≤ col) then col + 1 else col

/-- The physical column of a logical column of a field's row (R13): a row's shift starts at the retired or tested tile. -/
def physCol (s : State) (field row col : Nat) : Nat := colIn (s.retiredTiles ++ s.shifts) field row col

/-- The field number and the position inside the field of a logical tile (R12). -/
def fieldOf (g : Nat × Nat) : Nat := 12 * (g.2 / 12) + g.1 / 12

/-- The physical latency of the link at a side (R14): 1 inside a field, 2 across a stitch, 3 across a bypass, three more
on a detour, which carries both directions of its link and never a bypass; an edge link counts 1. -/
def linkLatency (s : State) (t : TileId) (d : Side) : Nat :=
  let c := s.claimOf t.claim
  let g := globalOf c t
  let listed := fun (g : Nat × Nat) (d : Side) => s.detours.any fun x => x.1 == g.1 && x.2.1 == g.2 && x.2.2 == d
  match neighbour c t d with
  | none => 1
  | some n =>
    let h := globalOf c n
    let base :=
      match d with
      | .north | .south => if g.2 / 12 = h.2 / 12 then 1 else 2
      | .east | .west =>
        let w := if g.1 < h.1 then g else h
        let e := if g.1 < h.1 then h else g
        let pw := 13 * (w.1 / 12) + physCol s (fieldOf w) (w.2 % 12) (w.1 % 12)
        let pe := 13 * (e.1 / 12) + physCol s (fieldOf e) (e.2 % 12) (e.1 % 12)
        if pe - pw > 1 then 3 else if g.1 / 12 = h.1 / 12 then 1 else 2
    if base ≠ 3 ∧ (listed g d || listed h (oppositeSide d)) = true then base + 3 else base

/-- The logical latency of what lies across: Lh, or Lp over a peer link (R25, R277). -/
def logicalLatency (s : State) : Across → Nat
  | .tile _ | .engine _ | .both _ => s.lh
  | .peer _ => s.lp

/-- The tiles of a claim. -/
def claimTiles (c : Claim) (cl : Nat) : List TileId :=
  ((List.range (12 * c.fh)).map fun y => (List.range (12 * c.fw)).map fun x => (⟨cl, x, y⟩ : TileId)).flatten

/-! ## Lag and holds (R258, R259, R263, R264) -/

/-- The usable slack (R25). -/
def usableSlack (s : State) : Nat := if s.lh = 6 then s.lh - 3 else s.lh - 5

/-- The cycle of its wafer's rate in which a tile stands, since its claim's start: its ticks and what it stood still (R258). -/
def cycleOf (s : State) (t : TileId) : Nat := ((s.now t.claim - (s.claimOf t.claim).start : Nat) + (s.tileOf t).delay).toNat

/-- The cycles of a tile's own clock since its claim's start (R260, R349 `cr.cyc`). -/
def ownCycles (s : State) (t : TileId) : Nat := ((cycleOf s t : Int) + (s.tileOf t).gained).toNat

/-- The cycles from a stretch's start to its end that lie above cycle w. -/
def beyond (from_ until_ w : Nat) : Nat := until_ - max from_ (w + 1)

/-- Puts a hold among others in the order of their cycles. -/
def insertHold : List (Nat × Nat) → Nat × Nat → List (Nat × Nat)
  | [], h => [h]
  | x :: l, h => if h.2 < x.2 then h :: x :: l else x :: insertHold l h

/-- The holds on their way to a tile, in the order of their cycles of delivery: their lengths and these cycles. -/
def holdsTo (s : State) (t : TileId) : List (Nat × Nat) :=
  (s.agenda.filterMap fun e =>
    match e.act with
    | .ev (.holdDelivery o q ⟨cycle, none⟩) => if o = t then some (q, cycle) else none
    | _ => none).foldl insertHold []

/-- The cycles that a tile's count has stood still up to cycle w, holds on their way to it included (R258, R264). -/
def stood (s : State) (t : TileId) (w : Nat) : Int :=
  let x := s.tileOf t
  let coming := (holdsTo s t).foldl (fun (acc : Nat × Nat) h =>
    (max acc.1 (h.2 + h.1), acc.2 + (min (h.2 + h.1) (w + 1) - max h.2 acc.1))) (x.stopUntil, 0)
  x.delay - beyond x.stopFrom x.stopUntil w + coming.2

/-- The measured deviation of a claim link at a cycle, in sixteenths of a flit (R258): how far the tile's count trails its
neighbour's; an engine keeps the tile's pace, a peer link shows what was measured on it last. -/
def lambda (s : State) (t : TileId) (w : Nat) : Across → Int
  | .tile n => 16 * (stood s t w - stood s n w)
  | .engine _ => 0
  | .peer p | .both p => (find s.peerLambda p).getD 0

/-- The deviations of a tile's claim links at a cycle. -/
def lambdas (s : State) (t : TileId) (w : Nat) : List Int := (allSides.filterMap fun d => across s t d).map (lambda s t w)

/-- The deviation of a claim link, projected to the end of f more cycles in which the tile's count stands (R263). -/
def lambdaAfter (s : State) (t : TileId) (w f : Nat) (a : Across) : Int :=
  match a with
  | .tile _ => lambda s t w a + 16 * f
  | .engine _ => lambda s t w a
  | .peer _ => lambda s t w a + 16 * f
  | .both _ => lambda s t w a + 16 * f

/-- A tile's lag at a cycle, projected to the end of f more that it stands (R258, R263). -/
def lagTo (s : State) (t : TileId) (w f : Nat) : Nat :=
  (((allSides.filterMap fun d => across s t d).map (lambdaAfter s t w f)).foldl max 0 / 16).toNat

/-- A tile's lag at a cycle (R258). -/
def lagAt (s : State) (t : TileId) (w : Nat) : Nat := lagTo s t w 0

/-- A tile's lag (R258). -/
def lagOf (s : State) (t : TileId) : Nat := lagAt s t (cycleOf s t)

/-- The slack of what lies across a link: the usable slack, or a peer link's own (R25, R267, R277). -/
def driftSlack (s : State) : Across → Nat
  | .tile _ | .engine _ => usableSlack s
  | .peer p | .both p => s.lp - Config.peerLatency p

/-- Whether a tile's lag on some link, projected to the end of f more cycles that it stands, reaches that link's slack less one:
the point at which it raises a hold (R263, R277). -/
def highAt (s : State) (t : TileId) (w f : Nat) : Bool :=
  (allSides.filterMap fun d => across s t d).any fun a =>
    decide (driftSlack s a ≤ (lambdaAfter s t w f a / 16).toNat + 1)

/-- The hold distance between two tiles of a claim: one cycle a hop, two across a stitch (R264). -/
def holdDistance (c : Claim) (a b : TileId) : Nat :=
  let g := globalOf c a
  let h := globalOf c b
  hops a b + dist (g.1 / 12) (h.1 / 12) + dist (g.2 / 12) (h.2 / 12)

/-- A 16-bit counter that saturates. -/
def satInc (x : BitVec 16) : BitVec 16 := if x = 0xFFFF then x else x + 1

/-- Changes what a docent keeps of the field of a tile (R23). DESIGN CHOICE: notes/assumptions/57.md. -/
def modDocent (s : State) (t : TileId) (f : Docent → Docent) : State :=
  let k := fieldOf (globalOf (s.claimOf t.claim) t)
  { s with docents := put s.docents k (f ((find s.docents k).getD .reset)) }

/-- The tick at whose start a tile stands in cycle `x`: the one that a stop from that cycle on delays. -/
def tickAt (s : State) (t : TileId) (x : Nat) : Nat :=
  max (s.now t.claim + 1) ((s.claimOf t.claim).start + (x - stood s t (x - 1)).toNat)

/-- The holds on their way to a tile keep their cycles of delivery: each takes effect at the tick that now belongs to its
cycle (R264). -/
def retime (s : State) (t : TileId) : State :=
  { s with agenda := s.agenda.map fun e =>
      match e.act with
      | .ev (.holdDelivery o _ ⟨x, none⟩) => if o = t ∧ s.now t.claim < e.tick then { e with tick := tickAt s t x } else e
      | _ => e }

/-- A hold of q cycles goes from a tile, in cycle `cy`, to some tiles of its claim: each receives it after its hold distance,
and the holds that were on their way to it are delivered in their own cycles (R264). -/
def sendHold (s : State) (t : TileId) (q cy : Nat) (dests : List TileId) : State :=
  dests.foldl (fun s o =>
    let x := cy + holdDistance (s.claimOf t.claim) t o
    let u := s.planEv t.claim (tickAt s o x) phWire (.holdDelivery o q ⟨x, none⟩)
    if (holdsTo s o).isEmpty then u else retime u o) s

/-- The hold distance from a tile to the nearest edge tile of a peer port. -/
def portDistance (c : Claim) (t : TileId) (p : Nat) : Nat :=
  ((List.range 19).map fun i =>
    let e := (edgeTile (19 * p + i)).1
    holdDistance c t ⟨t.claim, e.1 - 12 * c.fx0, e.2 - 12 * c.fy0⟩).foldl min 1000

/-- In a fleet claim a hold leaves over every peer link but the one it came by, and reaches the far wafer after the link's
physical latency (R278). -/
def holdOut (s : State) (t : TileId) (q cy : Nat) (by_ : Option Nat) : State :=
  let c := s.claimOf t.claim
  if c.fleet then
    { s with peerHolds := s.peerHolds ++ ((List.range 24).filter fun p => by_ != some p).map fun p =>
        (p, q, cy + portDistance c t p + Config.peerLatency p) }
  else s

/-- Raises a hold of q cycles in a cycle (R263, R264): every other tile of the claim receives it after its hold distance. -/
def raiseHoldAt (s : State) (t : TileId) (q cy : Nat) : State :=
  let s := modDocent (s.modTile t fun x => { x with holds := satInc x.holds }) t fun d => { d with holds := d.holds + 1 }
  holdOut (sendHold s t q cy ((claimTiles (s.claimOf t.claim) t.claim).filter fun o => o != t)) t q cy none

/-- Raises a hold of q cycles in the present cycle. -/
def raiseHold (s : State) (t : TileId) (q : Nat) : State := raiseHoldAt s t q (cycleOf s t)

/-- A staging engine raises a hold of q cycles at an edge tile: every tile of the claim receives it (R304, R264). -/
def engineHold (s : State) (t : TileId) (q : Nat) : State :=
  let cy := cycleOf s t
  holdOut (sendHold s t q cy (claimTiles (s.claimOf t.claim) t.claim)) t q cy none

/-- A tile's count stands still for f cycles from cycle w on. -/
def Tile.stand (x : Tile) (w f : Nat) : Tile :=
  { x with
    delay := x.delay + f
    stopFrom := if w ≤ x.stopUntil then x.stopFrom else w
    stopUntil := max x.stopUntil (w + f) }

/-- A tile's peak is at least its lag at some cycles (R259). -/
def notePeak (s : State) (t : TileId) (ws : List Nat) : State :=
  let lag := (ws.map (lagAt s t)).foldl max 0
  s.modTile t fun x => { x with peak := BitVec.ofNat 16 (max x.peak.toNat (min lag 0xFFFF)) }

/-- The f cycles from cycle w on. -/
def cyclesFrom (w f : Nat) : List Nat := (List.range f).map (w + ·)

/-- A freeze or a stretch of f cycles (R209, R38, R258): in its first cycle the tile raises a hold when its lag, projected
to the end, reaches a link's slack less one; then its count stands (R263). DEDUCED: notes/assumptions/16.md. -/
def addLag (s : State) (t : TileId) (f : Nat) : State :=
  if f = 0 then s
  else
    let w := cycleOf s t
    let s := if highAt s t w f then (raiseHold s t (lagTo s t w f)).modTile t fun x => { x with lagHigh := true } else s
    notePeak (retime (s.modTile t fun x => x.stand (w + 1) f) t) t (cyclesFrom (w + 1) f)

/-- What the cycles show in which a hold stops a tile: its lag enters its peak, and the first in which it reaches a link's slack
less one raises a hold, where none has since it was last below (R259, R263). -/
def seeStop (s : State) (t : TileId) (ws : List Nat) : State :=
  let s := notePeak s t ws
  match (if (s.tileOf t).lagHigh then none else ws.find? fun w => highAt s t w 0) with
  | none => s
  | some w => (raiseHoldAt s t (lagAt s t w) w).modTile t fun x => { x with lagHigh := true }

/-- A tile's lag, whatever raised it, enters its peak; where it has reached a link's slack less one it raises a hold, once
until it falls below again (R259, R263). -/
def lagTile (s : State) (t : TileId) : State :=
  let lag := lagOf s t
  let high := highAt s t (cycleOf s t) 0
  let s := if high && !(s.tileOf t).lagHigh then raiseHold s t lag else s
  if lag = 0 ∧ (s.tileOf t).lagHigh = false then s
  else notePeak (s.modTile t fun x => { x with lagHigh := high }) t [cycleOf s t]

/-- Every tile of a claim whose clocks are not level looks at its lag. -/
def lagTick (s : State) (cl : Nat) : State :=
  if (s.tiles.all fun p => p.1.claim != cl || p.2.delay == 0) && s.peerLambda.isEmpty then s
  else (claimTiles (s.claimOf cl) cl).foldl lagTile s

/-! ## Counts and drift (R266 to R270) -/

/-- What a tile's count differed from the claim's count by at a tick. -/
def Tile.offAt (t : Tile) (n : Nat) : BitVec 64 :=
  match t.offHist.find? fun p => decide (p.1 ≤ n) with
  | some p => p.2
  | none => 0

/-- The difference of the count behind the label of the flit that leaves the router at tick n (R267). -/
def labelOff (s : State) (a : Across) (n : Nat) : BitVec 64 :=
  match a with
  | .tile t => (s.tileOf t).offAt (n - s.lh)
  | .engine _ | .peer _ | .both _ => 0

/-- A tile takes a new difference of its count from tick n. -/
def Tile.setOff (t : Tile) (n : Nat) (d : BitVec 64) : Tile :=
  { t with off := d, offHist := (n, d) :: t.offHist.filter fun p => decide (p.1 ≠ n) }

/-- A label that differs from a tile's own count sets the drift bit of its side; beyond the slack it is fatal (R267). -/
def noteDrift (s : State) (t : TileId) (d : Side) (delta : BitVec 16) (slack : Nat) : State :=
  if delta = 0 then s
  else
    let s := s.modTile t fun x => { x with dir := x.dir ||| (1 <<< (sideIndex d)), delta := delta }
    if delta.toInt.natAbs ≥ slack then claimFault s t 0x32 0 else s

/-- One tile compares the labels of the flits that leave it in this tick, side by side: of several deltas of one tick the last
side's stands (R267, R269). DESIGN CHOICE: notes/assumptions/44.md. -/
def driftTile (s : State) (t : TileId) : State :=
  let n := s.now t.claim
  allSides.foldl (fun s d =>
    match across s t d with
    | none => s
    | some a => noteDrift s t d (((s.tileOf t).off - labelOff s a n).setWidth 16) (driftSlack s a)) s

/-- Every tile whose own or whose neighbours' count has been upset compares labels. -/
def driftTick (s : State) (cl : Nat) : State :=
  if s.tiles.all fun p => p.1.claim != cl || p.2.offHist.isEmpty then s
  else
    let c := s.claimOf cl
    let upset := (s.tiles.filter fun p => p.1.claim = cl ∧ p.2.offHist ≠ []).map fun p => p.1
    let near := (upset.map fun t => t :: allSides.filterMap (neighbour c t)).flatten.eraseDups
    near.foldl driftTile s

/-- Whether a claim may stop at a replay boundary: no DIR bit set and every count level (R270). -/
def driftFree (s : State) (cl : Nat) : Bool := s.tiles.all fun p => p.1.claim != cl || (p.2.dir == 0 && p.2.off == 0)

/-! ## Routes (R271, R272) -/

/-- The route entry of an input, a tag and the wheel position. -/
def routeAt (s : State) (t : TileId) (inp : Option Side) (tag : BitVec 12) : Option Route :=
  (s.tileOf t).routes.find? fun r => r.tag == tag && r.inp == inp && r.slot == s.wheelPos t

/-- The tag of the router's entry for an input and the wheel position, whatever the tag (R256, R273). -/
def routeTag (s : State) (t : TileId) (inp : Side) : Option (BitVec 12) :=
  ((s.tileOf t).routes.find? fun r => r.inp == some inp && r.slot == s.wheelPos t).map fun r => r.tag

/-- A local source claims an entry; a second one in the tick is a route slot collision (R272, R307). -/
def claimLocal (s : State) (t : TileId) (tag : BitVec 12) : State × Bool :=
  if (s.tileOf t).locals.contains tag then (claimFault s t 0x30 0, false)
  else (s.modTile t fun x => { x with locals := tag :: x.locals }, true)

/-! ## Landing (R279 to R282) -/

/-- The parts of one tick of a claim, in order. -/
def tickTasks (cl : Nat) : List Task := [.early cl, .drift cl, .issues cl, .late cl, .endTick cl]


/-- A flit marked lost: zero data, every quarter poisoned (R256). DEDUCED: notes/assumptions/29.md. -/
def lostFlit (f : Flit) (tag : BitVec 12) : Flit := { f with data := 0, psn := 0xF, lost := true, nul := false, tag := tag }

/-- The tick at or after n whose bits [15:0] equal LT (R281). -/
def landingTick (n : Nat) (lt : BitVec 16) : Nat := n + (lt - BitVec.ofNat 16 n).toNat

/-- The earliest landing slot posted for a tag that no flit in the landing buffer waits for (R282). -/
def firstPost (t : Tile) (tag : BitVec 12) : Option Nat :=
  (t.posts.filter fun p => p.tag = tag ∧
    (t.landing.any fun e => e.tag == tag && e.kind == 0 && !e.armed && e.ready == p.due) = false).foldl (fun acc p => some (match acc with | none => p.due | some d => min d p.due)) none

/-- Puts an entry into the landing buffer; a full buffer is landing table (0x35), fatally (R280). -/
def enterLanding (s : State) (t : TileId) (e : LandEntry) : State :=
  if (s.tileOf t).landing.length ≥ 32 then claimFault s t 0x35 0
  else s.modTile t fun x => { x with landing := x.landing ++ [e] }

/-- Whether a delivery has found a tile's landing buffer full: the flit does not wait there, but it was delivered, so no
later tick freezes for it (R280, R281). DEDUCED: notes/assumptions/27.md. -/
def landingSpilt (s : State) (t : TileId) : Bool :=
  (s.claimOf t.claim).faults.any fun f => f.cause == 0x35 && f.core == 15 && f.x == t.x && f.y == t.y

/-- A late landing freezes its tile, with no known end: its lag is projected as two more than it is, so it raises a hold of
that length in the first cycle, and another when the cycles of that one are over (R281, R263). `retry` is the step that the
flit lets go on. DEDUCED: notes/assumptions/28.md. -/
def freezeFor (s : State) (t : TileId) (tag : BitVec 12) (retry : Event) : State :=
  if landingSpilt s t then s
  else
    let q := lagOf s t + 2
    raiseHold (s.modClaim t.claim fun c => { c with
      frozen := some ⟨t, tag, s.wall + 2 ^ 24, s.wall + q, retry⟩ }) t q

/-- A cycle of a freeze passes: it spends lag, and raises the next hold where the last one's cycles are over. -/
def freezeCycle (s : State) (z : Freeze) : State :=
  let t := z.tile
  let q := lagOf s t + 2
  let s := if z.next ≤ s.wall then
      raiseHold (s.modClaim t.claim fun c => { c with frozen := some { z with next := s.wall + q } }) t q
    else s
  let w := cycleOf s t
  notePeak (retime (s.modTile t fun x => x.stand (w + 1) 1) t) t [w + 1]

/-- An array row is deposited into its operand slot (R245). -/
def depositOperandRow (s : State) (t : TileId) (slot : Nat) (row : MVec) (fmt : BitVec 6) : State :=
  let x := s.tileOf t
  let k := BitVec.ofNat 8 slot
  let o := x.opSlots.at k
  let n := s.now t.claim
  let f := Fmt.dec fmt
  if o.owner.isNone || decide (slot ≥ x.slots) then claimFault s t 0x21 0
  else if n < o.u then claimFault s t 0x25 0
  else if o.p ≥ 192 then claimFault s t 0x24 0
  else if o.fmt.isSome ∧ o.fmt ≠ f then claimFault s t 0x17 0
  else
    let bank := x.slotBank k
    let s := s.modTile t fun x => { x with
      opSlots := x.opSlots.put k { o with p := o.p + 1, fmt := f }
      touched := (bank, false) :: x.touched }
    s.plan ⟨t.claim, n, phCommit, 0, n, 8, none, none, 0, 0,
      .ev (.bankCommit t 15 bank (.bytes (rowBytes (slotOff k o.p / 64) row)))⟩

/-- A row of two flits. -/
def flitRow (lo hi : BitVec 256) (plo phi : BitVec 4) : MVec := ⟨hi ++ lo, phi ++ plo⟩

/-- A flit is delivered to the tile at the present tick (R276, R280 to R282): an array row whose two flits come one after the
other is deposited after the effects that land in the tick, and a HALF = 1 flit without its partner just before it is a fault;
a lost flit of an array row becomes an entry like any other lost flit, and is no array delivery. A landed flit whose tick has
come is looked at after the slots that are posted in the tick (R281, R285). -/
def deliver (s : State) (t : TileId) (f : Flit) : State :=
  let n := s.now t.claim
  let s := s.modTile t fun x => { x with
    tagPsn := if f.psn != 0 && !x.tagPsn.contains f.tag then f.tag :: x.tagPsn else x.tagPsn
    tagLost := if f.lost && !x.tagLost.contains f.tag then f.tag :: x.tagLost else x.tagLost }
  if f.kind = 1 ∧ f.lost = false then
    if f.half then
      match (find (s.tileOf t).lastArray f.tag).filter fun lo => lo.pair == f.pair with
      | none => claimFault s t 0x24 0
      | some lo =>
        let s := s.modTile t fun x => { x with lastArray := drop x.lastArray f.tag }
        s.planEv t.claim n (phLand + 1)
          (.operandRowDeposit t f.slot.toNat (flitRow lo.data f.data lo.psn f.psn) f.fmt)
    else s.modTile t fun x => { x with lastArray := put x.lastArray f.tag f }
  else if f.kind = 2 then
    enterLanding s t ⟨f.tag, f.data, f.psn, landingTick n f.lt, 2, false, f.origin⟩
  else if f.land then
    let due := landingTick n f.lt
    (enterLanding s t ⟨f.tag, f.data, f.psn, due, 0, false, none⟩).planEv t.claim due (phLand + 1)
      (.landedFlitDue t f.tag due)
  else
    match (if f.lost then firstPost (s.tileOf t) f.tag else none) with
    | some due => enterLanding s t ⟨f.tag, f.data, f.psn, max n due, 0, false, none⟩
    | none => enterLanding s t ⟨f.tag, f.data, f.psn, n, 0, true, none⟩

/-- A tile reaches the landing tick of a tag (R281): a flit with its slot becomes ready and consumes it; a flit without
a slot is landing unposted (0x31) and leaves the buffer; a slot without a flit freezes the tile, which may raise a hold. -/
def landDue (s : State) (t : TileId) (tag : BitVec 12) (due : Nat) : State :=
  let x := s.tileOf t
  let here := x.landing.any fun e => e.tag == tag && e.ready == due && e.kind == 0 && !e.armed
  let posted := x.posts.any fun p => p.tag == tag && p.due == due
  if here && posted then
    s.modTile t fun x => { x with
      landing := (x.landing.foldl (fun (acc : List LandEntry × Bool) e =>
        if !acc.2 && e.tag == tag && e.ready == due && e.kind == 0 && !e.armed then (acc.1 ++ [{ e with armed := true }], true)
        else (acc.1 ++ [e], acc.2)) ([], false)).1
      posts := x.posts.filter fun p => !(p.tag == tag && p.due == due) }
  else if here then
    claimFault (s.modTile t fun x => { x with
      landing := x.landing.eraseP fun e => e.tag == tag && e.ready == due && e.kind == 0 && !e.armed }) t 0x31 0
  else if posted then freezeFor s t tag (.landedFlitDue t tag due)
  else s

/-! ## Flits on their way (R256, R257, R272) -/

/-- Half of a row with the 32 bytes of a flit put in. -/
def withHalf (v : MVec) (hi : Bool) (f : Flit) : MVec :=
  if hi then ⟨f.data ++ v.val.extractLsb' 0 256, f.psn ++ v.psn.extractLsb' 0 4⟩
  else ⟨v.val.extractLsb' 256 256 ++ f.data, v.psn.extractLsb' 4 4 ++ f.psn⟩

/-- A write flit reaches its engine: it fills its half of its row (R307). -/
def Cmd.takes (i : Nat) (f : Flit) (c : Cmd) : Cmd :=
  { c with rows := put c.rows (i / 2) (withHalf ((find c.rows (i / 2)).getD (.clean 0)) (i % 2 = 1) f) }

/-- An engine receives a flit of a claim: a staging deposit flit belongs to the command that injected it. -/
def engineTakes (s : State) (e : Nat) (f : Flit) : State :=
  match f.kind == 2, f.origin with
  | true, some (k, m, i) =>
    if k.engine = e then
      s.modCtx k fun x => { x with cmds := x.cmds.map fun c => if c.num = m then c.takes i f else c }
    else s
  | _, _ => s

/-- A flit goes to the engine across a side, which has it the logical latency later (R25, R307). -/
def sendEngine (s : State) (t : TileId) (d : Side) (f : Flit) : State :=
  let n := s.now t.claim
  s.planEv t.claim (n + s.lh) phWire (.flitArrival t d ⟨n + s.lh, f, true⟩)

/-- A flit leaves a tile over one side. On a link of an engine and a peer port it is the engine's where a command of that
engine injected it, and the port's otherwise. -/
def sendOut (s : State) (t : TileId) (d : Side) (f : Flit) : State :=
  let n := s.now t.claim
  let f := { f with label := (BitVec.ofNat 64 n + (s.tileOf t).off).setWidth 16 }
  match across s t d with
  | some (.tile o) => s.planEv t.claim (n + linkLatency s t d) phWire (.flitArrival o (oppositeSide d) ⟨n + s.lh, f, false⟩)
  | some (.peer p) => { s with peerOut := s.peerOut ++ [(n, p, f)] }
  | some (.engine _) => sendEngine s t d f
  | some (.both e) =>
    if (f.origin.map fun o => o.1.engine) = some e then sendEngine s t d f else { s with peerOut := s.peerOut ++ [(n, e, f)] }
  | none => s

/-- A flit needs an output port, none for the local one: a second flit of the tick there is a route slot collision (R272). -/
def takePort (s : State) (t : TileId) (p : Option Side) (go : State → State) : State :=
  if (s.tileOf t).outs.contains p then claimFault s t 0x30 0
  else go (s.modTile t fun x => { x with outs := p :: x.outs })

/-- A flit is copied to every port of its entry (R272). -/
def forward (s : State) (t : TileId) (r : Route) (f : Flit) : State :=
  let s := r.outs.foldl (fun s d => takePort s t (some d) fun s => sendOut s t d f) s
  if r.loc then takePort s t none fun s => deliver s t f else s

/-- A local flit is injected on its entry (R272, R284). -/
def inject (s : State) (t : TileId) (f : Flit) : State :=
  match routeAt s t none f.tag with
  | none => s
  | some r =>
    let c := claimLocal s t f.tag
    if c.2 then forward c.1 t r f else c.1

/-- The flit that a frozen tile waits for comes late over its own link (R281): it is delivered at once, and the tick that stood
goes on with the step that waited. -/
def thaw (s : State) (z : Freeze) (f : Flit) : State :=
  let s := deliver (s.modClaim z.tile.claim fun c => { c with frozen := none }) z.tile f
  { s with todo := s.todo ++ .ev z.retry :: tickTasks z.tile.claim }

/-- A flit enters the receiving router's elastic buffer, which it leaves at the tick `due`: the logical latency after it was
sent, whatever becomes of the link while it is on its way (R25, R257). -/
def arrive (s : State) (t : TileId) (d : Side) (due : Nat) (f : Flit) : State :=
  let n := s.now t.claim
  match (s.claimOf t.claim).frozen.filter fun z => z.tile == t && z.tag == f.tag && f.land && decide (due ≤ n) with
  | some z => thaw s z f
  | none =>
    (s.modTile t fun x => { x with elastic := x.elastic ++ [(d, due, f)] }).planEv t.claim (max n due) phRun (.flitRelease t d)

/-- A flit that has crossed a link enters the router behind it, or the engine. -/
def crossed (s : State) (t : TileId) (d : Side) (f : Transit) : State :=
  if f.out then
    match across s t d with
    | some (.engine e) => engineTakes s e f.flit
    | some (.both e) => engineTakes s e f.flit
    | some (.tile _) => s
    | some (.peer _) => s
    | none => s
  else arrive s t d f.due f.flit

/-- Where a link-code error was found (R369). -/
def linkPlace (d : Side) : Quad := 2#2 ++ 0#60 ++ BitVec.ofNat 2 (sideIndex d)

/-- A link-code error that cannot be corrected: damaged quarters are poisoned, a damaged sideband makes the flit a lost
flit of the entry's tag, or a null flit where no entry owns the input (R256). DESIGN CHOICE: notes/assumptions/30.md. -/
def damage (s : State) (t : TileId) (d : Side) (mask : BitVec 5) (f : Flit) : Option Flit :=
  if mask.getLsbD 4 then (routeTag s t d).map fun tag => lostFlit f tag
  else some { f with psn := f.psn ||| mask.setWidth 4 }

/-- A flit leaves a router over the entry for its input (R272). -/
def routeOn (s : State) (t : TileId) (d : Side) (f : Flit) : State :=
  match routeAt s t (some d) f.tag with
  | none => claimFault s t 0x30 0
  | some e => forward s t e f

/-- The flit of a side whose tick has come leaves the router (R257, R272). Over a peer link that lost its partner none leaves
but the lost flits (R345); a flit that came over a peer link shows its label here (R277). -/
def release (s : State) (t : TileId) (d : Side) : State :=
  let n := s.now t.claim
  match (s.tileOf t).elastic.find? fun e => e.1 == d && decide (e.2.1 ≤ n) with
  | none => s
  | some (_, due, f) =>
    let s := s.modTile t fun x => { x with elastic := x.elastic.erase (d, due, f) }
    let port := if f.origin.isSome then none else portAt s t d
    if (port.map fun p => (s.claimOf t.claim).lostPorts.contains p) = some true then s
    else
      let s := match port with
        | none => s
        | some p => noteDrift s t d ((s.countOf t).setWidth 16 - (f.label + BitVec.ofNat 16 s.lp)) (driftSlack s (.peer p))
      let err := find (s.tileOf t).linkErr d
      let s := s.modTile t fun x => { x with linkErr := drop x.linkErr d }
      let r := match err with
        | none => (s, some f)
        | some m => (if m = 0 then s else uncorrectable s t 15 (linkPlace d), if m = 0 then some f else damage s t d m f)
      match r.2 with
      | none => r.1
      | some f => if f.nul then r.1 else routeOn r.1 t d f

/-- The null flit of this tick on a side, of zero data (R256). -/
def nullFlit : Flit := ⟨0, 0, false, false, 0, 0, false, true, 0, 0, 0, 0, none, none⟩

/-- An error on the null flit of a side is uncorrectable too; where it touches the sideband and an entry owns the input, a lost
flit leaves (R256). -/
def nullError (s : State) (t : TileId) (e : Side × BitVec 5) : State :=
  let s := s.modTile t fun x => { x with linkErr := drop x.linkErr e.1 }
  if e.2 = 0 then s
  else
    let s := uncorrectable s t 15 (linkPlace e.1)
    match damage s t e.1 e.2 nullFlit with
    | none => s
    | some f => if f.nul then s else routeOn s t e.1 f

/-- The errors of a tick that met no other flit met null flits (R256). -/
def nullErrors (s : State) (cl : Nat) : State :=
  (s.tiles.filter fun p => p.1.claim = cl ∧ p.2.linkErr ≠ []).foldl (fun s p => p.2.linkErr.foldl (fun s e => nullError s p.1 e) s) s

/-- Whether the entry of an input and a tag at the wheel position is the peer port's: on a link that a bound engine shares, one
whose successor across the link another wafer has (R33, R273). DESIGN CHOICE: notes/assumptions/58.md. -/
def portEntry (s : State) (t : TileId) (d : Side) (link : Nat) (tag : BitVec 12) : Bool :=
  match across s t d with
  | some (.both _) => (s.claimOf t.claim).peerIn.any fun r =>
      r.link == link && r.tag == tag && (r.slot + s.lp) % s.wheel == s.wheelPos t
  | some (.tile _) => true
  | some (.engine _) => true
  | some (.peer _) => true
  | none => true

/-- The lost flits that an edge router releases for a peer link that lost its partner, in the slots of the port (R345). -/
def lostTick (s : State) (cl : Nat) : State :=
  (s.claimOf cl).lostPorts.foldl (fun s p =>
    (List.range 19).foldl (fun s i =>
      let e := edgeTile (19 * p + i)
      let c := s.claimOf cl
      let t : TileId := ⟨cl, e.1.1 - 12 * c.fx0, e.1.2 - 12 * c.fy0⟩
      match routeTag s t e.2 with
      | none => s
      | some tag =>
        match routeAt s t (some e.2) tag with
        | none => s
        | some r => if portEntry s t e.2 (19 * p + i) tag then forward s t r (lostFlit nullFlit tag) else s) s) s

/-! ## Array sends (R244, R276) -/

/-- The next flit of an array send is planned for the first tick, from n on, in which its router holds an entry for its tag
(R276). -/
def planSend (s : State) (t : TileId) (a : ArraySend) (n : Nat) : State :=
  match nextSend s.wheel (wheelShift s t) ((s.tileOf t).localSlots a.tag) n with
  | none => s
  | some m => s.planEv t.claim m phRun (.arraySend t a.id)

/-- An operation's sends begin at its start tick (R244). DESIGN CHOICE: notes/assumptions/7.md. -/
def startSends (s : State) (t : TileId) (o : MmaOp) : State :=
  let go := fun (s : State) (on : Bool) (slot : BitVec 8) (tag : BitVec 12) (f : Fmt) (rows : List Nat) =>
    if on then
      let x := s.tileOf t
      let id := x.arrNext
      let a : ArraySend := ⟨id, slot, tag, f.code, rows, false⟩
      planSend (s.setTile t { x with arrNext := id + 1, sends := x.sends ++ [a] }) t a o.start
    else s
  let s := go s (o.coop && o.gc == 0) o.aslot o.ta o.fa o.sendA
  go s (o.coop && o.gr == 0) o.bslot o.tb o.fb o.sendB

/-- The next flit of an array send is injected, or waits on where no entry stands at the wheel position (R266, R276). -/
def sendFlit (s : State) (t : TileId) (a : ArraySend) : State :=
  match a.rows with
  | [] => s
  | row :: rest =>
    if (routeAt s t none a.tag).isNone then planSend s t a (s.now t.claim + 1)
    else
    let x := s.tileOf t
    let cells := rowCells (slotOff a.slot row / 64)
    let s := checkRead s t 15 (x.slotBank a.slot) cells
    let v := x.readCells (x.slotBank a.slot) cells
    let f : Flit := {
      data := if a.half then v.val.extractLsb' 256 256 else v.val.extractLsb' 0 256
      lt := 0, land := false, half := a.half, fmt := a.fmt
      psn := if a.half then v.psn.extractLsb' 4 4 else v.psn.extractLsb' 0 4
      lost := false, nul := false, kind := 1, tag := a.tag, label := 0, slot := a.slot, origin := none
      pair := some (t, a.id, row) }
    let s := inject s t f
    let a' : ArraySend := { a with rows := if a.half then rest else a.rows, half := !a.half }
    let s := s.modTile t fun x => { x with
      sends := if a'.rows.isEmpty then x.sends.filter (fun y => y.id != a.id) else x.sends.map fun y => if y.id = a.id then a' else y }
    if a'.rows.isEmpty then s else planSend s t a (s.now t.claim + 1)

/-! ## The forms (R283 to R290) -/

/-- The tag a send goes out on: an alias's binding, or the tag itself (R284). -/
def resolveTag (s : State) (tag : BitVec 12) : Option (BitVec 12) :=
  if tag.extractLsb' 4 8 = 0xFF then s.me.aliases.at (tag.extractLsb' 0 4) else some tag

/-- Whether another core sends on the tag in this tick (R284). -/
def sendConflict (s : State) (tag : BitVec 12) : Bool :=
  s.myTile.intents.any fun p => p.1 != s.focus.core && p.2 == .send tag

/-- `xsend` of one half of a register (R284). -/
def send (s : State) (tag : BitVec 12) (a : Src 6) (hi : Bool) : Host.Outcome State Fault Refusal :=
  let g := resolveTag s tag
  let routed := match g with | none => false | some g => (routeAt s s.focus.tile none g).isSome
  alwaysC s .e (s.me.ok a)
    (firstFault [(!routed, 0x33, 0), (sendConflict s (g.getD tag), 0x30, 0)])
    fun s =>
      let v := s.me.mark (s.me.srcV a)
      inject (s.addIntent (.send (g.getD tag))) s.focus.tile {
        data := if hi then v.val.extractLsb' 256 256 else v.val.extractLsb' 0 256
        lt := 0, land := false, half := false, fmt := 0
        psn := if hi then v.psn.extractLsb' 4 4 else v.psn.extractLsb' 0 4
        lost := false, nul := false, kind := 0, tag := g.getD tag, label := 0, slot := 0, origin := none
        pair := none }

def execXsendLo (tag : BitVec 12) (a : Src 6) (s : State) := send s tag a false
def execXsendHi (tag : BitVec 12) (a : Src 6) (s : State) := send s tag a true

/-- The oldest ready entry of a tag: by ready tick, then delivery order (R287). -/
def oldestReady (l : List LandEntry) (tag : BitVec 12) (n : Nat) : Option LandEntry :=
  (l.filter fun e => e.tag = tag ∧ e.kind = 0 ∧ e.armed ∧ e.ready ≤ n).foldl (fun acc e =>
    match acc with
    | none => some e
    | some b => if e.ready < b.ready then some e else some b) none

/-- `xrecv` into one half of a register (R287); `%xf` takes the entry's data. -/
def receive (s : State) (d : Dst 6) (tag : BitVec 12) (hi : Bool) : Host.Outcome State Fault Refusal :=
  let e := oldestReady s.myTile.landing tag s.t
  alwaysC s .e true (firstFault [(e.isNone, 0x34, 0)]) fun s =>
    match e with
    | none => s
    | some e =>
      let s := s.modTile s.focus.tile fun t => { t with
        landing := t.landing.erase e
        taken := e :: t.taken }
      let lo : MVec := ⟨e.data.setWidth 512, e.psn.setWidth 8⟩
      let v : MVec := if hi then ⟨e.data ++ 0#256, e.psn ++ 0#4⟩ else lo
      s.land .e 1 (.result (match d with | .reg i => [.v i (s.me.mark v) 0xFFFF] | .none => []) (some (.xf, s.me.mark lo)))

def execXrecvLo (d : Dst 6) (tag : BitVec 12) (s : State) := receive s d tag false
def execXrecvHi (d : Dst 6) (tag : BitVec 12) (s : State) := receive s d tag true

/-- The landing slots that land at the next tick, posted in this one. DEDUCED: notes/assumptions/43.md. -/
def postingNow (s : State) : List (BitVec 12 × Nat) :=
  s.agenda.filterMap fun e =>
    match e.act with
    | .ev (.resultLanding st (.post tag due)) => if st.tile = s.focus.tile then some (tag, due) else none
    | _ => none

/-- `xland` (R285): the slot is posted from t + 1, and the strand's retirement waits for its tick (R97, R109). -/
def execXland (a : Src 6) (dt : BitVec 18) (s : State) : Host.Outcome State Fault Refusal :=
  let v := s.me.srcG a
  let tag : BitVec 12 := v.val.setWidth 12
  let due := s.t + dt.toNat
  let mine := (s.myTile.posts.filter fun p => p.core = s.focus.core).length
  alwaysC s .e (s.me.ok a)
    (firstFault [(decide (mine ≥ 16) || s.myTile.posts.any (fun p => p.tag == tag && p.due == due)
      || (postingNow s).any (fun p => p.1 == tag && p.2 == due), 0x35, 0)])
    fun s => (s.taintIf (anyPsn v.psn)).plan ⟨s.focus.tile.claim, s.t + 1, phLand, 0, s.t, SlotClass.e.index, some s.focus, none,
      max (s.t + 1) due, 0, .ev (.resultLanding s.focus (.post tag due))⟩

/-- The lowest tag of the claim's table that names a tile and has a local entry in this router (R286). -/
def tagFor (s : State) (x y : Nat) : Option (BitVec 12) :=
  ((s.claimOf s.focus.tile.claim).tags.filter fun e =>
      e.2.1 = x ∧ e.2.2 = y ∧ (s.myTile.routes.any fun r => r.tag == e.1 && r.inp.isNone)).foldl
    (fun acc e => some (match acc with | none => e.1 | some b => if e.1 < b then e.1 else b)) none

def execXtag (a : Src 6) (i : BitVec 4) (s : State) : Host.Outcome State Fault Refusal :=
  let v := s.me.srcG a
  let x := (v.val.extractLsb' 0 8).toNat
  let y := (v.val.extractLsb' 8 8).toNat
  let r := tagFor s x y
  let out := v.val.extractLsb' 16 16 != 0 || !(s.claimOf s.focus.tile.claim).inside x y
  alwaysC s .e (s.me.ok a) (firstFault [(out || r.isNone, 0x33, 0)])
    fun s => (s.taintIf (anyPsn v.psn)).land .e 1 (.aliasTag i (r.getD 0))

/-- The status word of a tag as it stands at the tick (R7, R288): entries that another core takes in this tick count. -/
def pollWord (s : State) (tag : BitVec 12) : Word :=
  let isAlias := tag.extractLsb' 4 8 = 0xFF
  let b := resolveTag s tag
  let g := b.getD tag
  let t := s.myTile
  let known := !isAlias || b.isSome
  let has := fun (p : Bool) (k : Nat) => if p then 2 ^ k else 0
  let here := t.landing ++ t.taken
  let wait := (here.filter fun e => e.tag = g ∧ e.kind = 0 ∧ s.t < e.ready).length
  let ready := (here.filter fun e => e.tag = g ∧ e.kind = 0 ∧ e.ready ≤ s.t).length
  BitVec.ofNat 32 (has (isAlias && b.isSome) 15 + if known then
    has (t.tagPsn.contains g) 14 + has (t.tagLost.contains g) 13 + has (t.posts.any fun p => p.tag == g) 12 +
      wait * 64 + ready else 0)

def execXpoll (d : BitVec 6) (tag : BitVec 12) (s : State) : Host.Outcome State Fault Refusal :=
  .next (s.landG .e 1 (.reg d) Option.none (.clean (pollWord s tag)))

def execTkalign (s : State) : Host.Outcome State Fault Refusal :=
  alwaysC s .e true (firstFault [(s.me.span, 0x74, 0)]) fun s =>
    match s.myTile.pend with
    | some _ => s
    | none =>
      (s.modTile s.focus.tile fun t => { t with pend := some (s.t + 1) }).planEv s.focus.tile.claim
        (s.t + (s.wheel - s.wheelPos s.focus.tile)) phRun (.alignment s.focus.tile)

/-- `tkhold`: its hold is raised at t + 1 (R290). -/
def execTkhold (dt : BitVec 18) (s : State) : Host.Outcome State Fault Refusal :=
  alwaysC s .e true (firstFault [(s.me.span, 0x74, 0)]) fun s =>
    s.land .e 1 (.hold dt.toNat)

/-- The value that more than half of a list hold. -/
def majority (l : List (BitVec 16)) : Option (BitVec 16) :=
  l.find? fun m => decide (2 * (l.filter fun x => x = m).length > l.length)

/-- The first strand of a tile, in the order of R208, that has a bundle to present in this tick. -/
def firstPresenting (s : State) (t : TileId) : Option StrandId :=
  ((coreOrder (s.now t.claim)).map fun c => (⟨t, c⟩ : StrandId)).find? fun st =>
    match (s.coreOf st).status with
    | .running => (s.coreOf st).idle == 0
    | .waiting => true
    | .tkawait till => decide (till ≤ (s.countOf t).toNat)
    | .absent | .gate _ | .halted | .retired | .stopped => false

/-- A tile adopts the majority count of its neighbours at its wheel boundary b; without one the bundle presented at b takes
drift beyond slack, fatally (R289). DEDUCED: notes/assumptions/44.md. -/
def align (s : State) (t : TileId) : State :=
  let n := s.now t.claim
  let vs := (allSides.filterMap fun d => across s t d).map fun a => (BitVec.ofNat 64 n + labelOff s a n).setWidth 16
  match majority vs with
  | none =>
    let s := s.modTile t fun x => { x with pend := none }
    match firstPresenting s t with
    | none => claimFault s t 0x32 0
    | some st => takeFatal (recordFault s t.claim ⟨0x32, n, t.x, t.y, st.core.toNat, 0, 0⟩) st 0x32 0 0 0 false
  | some m =>
    let own := s.countOf t
    let c := own + (m - own.setWidth 16).signExtend 64
    s.modTile t fun x =>
      { (if c = own then x else x.setOff n (c - BitVec.ofNat 64 n)) with dir := 0, delta := 0, pend := none }

/-! ## Events of holds, clocks and links -/

/-- A hold reaches a tile in its cycle `cycle`: its count stands for q cycles, the union with earlier holds, and goes on (R264).
DEDUCED: notes/assumptions/16.md. -/
def holdArrives (s : State) (t : TileId) (q cycle : Nat) : State :=
  let from_ := max cycle (s.tileOf t).stopUntil
  let more := (cycle + q) - from_
  (seeStop (retime (s.modTile t fun x => { x.stand from_ more with held := true }) t) t (cyclesFrom from_ more)).push
    (.holdEnd t)

/-- A hold of another wafer comes in over a peer port at an edge tile: it reaches every tile of the claim, and goes on over the
other ports (R278). -/
def holdIn (s : State) (t : TileId) (q cycle port : Nat) : State :=
  let s := sendHold s t q cycle ((claimTiles (s.claimOf t.claim) t.claim).filter fun o => o != t)
  holdArrives (holdOut s t q cycle (some port)) t q cycle

/-- A hold is delivered: to its tile, or over a peer port. -/
def holdDelivered (s : State) (t : TileId) (q cycle : Nat) : Option Nat → State
  | none => holdArrives s t q cycle
  | some p => holdIn s t q cycle p

/-- A droop stretch of some thousandths of a cycle; whole cycles add lag, and are none of the tile's own (R38, R258).
DESIGN CHOICE: notes/assumptions/49.md. -/
def droopStretch (s : State) (t : TileId) (part : Nat) : State :=
  let d := (s.tileOf t).droop + part
  addLag (modDocent (s.modTile t fun x => { x with droop := d % 1000, gained := x.gained - (d / 1000 : Nat) }) t fun x =>
    { x with droops := x.droops + 1 }) t (d / 1000)

/-- A value clamped to plus or minus a bound. -/
def clampTo (b x : Int) : Int := max (-b) (min b x)

/-- A deviation in sixteenths of a flit with the deadband of `db4` quarter flits taken off (R260). -/
def deadband (db4 : Nat) (e : Int) : Int :=
  let d : Int := 4 * db4
  if e.natAbs ≤ 4 * db4 then 0 else e - e.sign * d

/-- fb in millionths of the nominal rate: the base of the wafer as cuts and the throttle lower it (R262). -/
def fbRate (s : State) : Nat := 1000000 - s.throttle - s.baseCut

/-- The slew of an update in thousandths of a ppm: sl ppm/us over an interval of some cycles at fb × (1 + τ), at 1.70 GHz
where nothing lowers fb, with τ in thousandths of a ppm (R260, R261). -/
def slewStep (s : State) (cycles : Nat) (τ : Int) : Int :=
  s.slew * cycles * 1000 * 1000000 * 1000000000 / (1700 * fbRate s * (1000000000 + τ))

/-- The mean of some deviations, rounded down to a sixteenth of a flit (R260). DESIGN CHOICE: notes/assumptions/16.md. -/
def meanOf (l : List Int) : Int := if l.isEmpty then 0 else l.foldl (· + ·) 0 / l.length

/-- The cycle in which a tile's next 1,024 own cycles are over (R260). -/
def trimCycle (x : Tile) : Nat := ((1024 * (x.trimCycles + 1) : Nat) - x.gained : Int).toNat

/-- The target of the local trim for a deviation in sixteenths of a flit, in thousandths of a ppm (R260). -/
def localTarget (db4 : Nat) (e : Int) : Int := clampTo 5000000 (20000 * deadband db4 e / 16)

/-- A tile's local trim update after 1,024 of its own cycles, with what its links showed in the last of them (R260). Trims are
in thousandths of a ppm, rounded down; `trimAcc` holds what the trim has repaid of a cycle, in thousandths of a ppm times
cycles. DEDUCED: notes/assumptions/16.md. -/
def trimTile (s : State) (t : TileId) : State :=
  let x := s.tileOf t
  let w := trimCycle x
  let target := localTarget s.db4 (meanOf (lambdas s t w))
  let acc := x.trimAcc + 1024 * x.trim
  let whole := acc / 1000000000
  let s := s.modTile t fun x => { x with
    trim := x.trim + clampTo (slewStep s (w - x.trimAt) s.waferTrim) (target - x.trim)
    trimAcc := acc - whole * 1000000000
    trimCycles := x.trimCycles + 1
    trimAt := w
    gained := x.gained + whole
    delay := if 0 ≤ whole then x.delay - whole else x.delay }
  addLag (if 0 < whole then retime s t else s) t (-whole).toNat

/-- 1,024 cycles of fb in millionths of a cycle of the nominal rate (R260). -/
def trimInterval : Nat := 1024 * 1000000

/-- The wafer's rate keeper takes its update from what is measured on the active peer links, each in sixteenths of a flit: ew
is their mean (R260, R262). The interval is 1,024 cycles of fb, as long as throttle and cut make them; the next update falls
as many later. Outside a fleet both terms stay 0. -/
def trimWafer (s : State) (links : List (Nat × Int)) : State :=
  match s.fleet with
  | none => s
  | some _ =>
    let d := deadband s.db4 (meanOf (links.map fun l => l.2))
    let i := clampTo 15000000 (s.waferInt + 20 * d * 1024 * 1000000 / (1700 * 16 * fbRate s))
    let target := clampTo 15000000 (20000 * d / 16 + i)
    let i := if s.throttle = 0 then i else min i 0
    let target := if s.throttle = 0 then target else min target 0
    { s with peerLambda := links, fbAcc := s.fbAcc - trimInterval, waferInt := i, waferTrim := s.waferTrim + clampTo (slewStep s 1024 0) (target - s.waferTrim) }

/-- The docent's firmware sets the deadband, in quarter flits, and the slew limit; any other value of one is rejected and the
previous one kept (R261). -/
def setGains (s : State) (db sl : Nat) : State :=
  { s with
    db4 := if 1 ≤ db ∧ db ≤ 4 * (s.lh - 5) then db else s.db4
    slew := if 10 ≤ sl ∧ sl ≤ 200 then sl else s.slew }

/-- A wafer of a fleet throttles to no more than this, in ppm below the fleet's base (R262). -/
def fleetThrottle : Nat := 15000

/-- A docent throttles its wafer, in ppm below the base; in a fleet a deeper cut than R262 allows is proposed to the other
wafers as a cut of the base rate, which no wafer makes before all agree (R262, R365). -/
def setThrottle (s : State) (ppm : Nat) : State :=
  match s.fleet with
  | none => { s with throttle := ppm }
  | some _ =>
    if ppm ≤ fleetThrottle then { s with throttle := ppm }
    else { s with
      throttle := fleetThrottle
      cut := some (ppm - fleetThrottle, [])
      fleetMsgs := s.fleetMsgs ++ [.cutProposed (ppm - fleetThrottle)] }

/-- Whether a claim holds its fields: until its launch ends, which is that of a fleet when every part has ended and the record is
written (R363, R369). -/
def holdsFields (s : State) (c : Claim) : Bool :=
  match c.run with
  | .ended _ _ => c.fleet && s.fleetLaunch.any fun f => f.started
  | .running | .preempted _ | .faulted _ | .haltedAt _ | .aborted _ => true

/-- Whether a claim that holds its fields covers a logical tile. -/
def claimAt (s : State) (x y : Nat) : Option Nat :=
  (s.claims.find? fun p =>
    let c := p.2
    holdsFields s c &&
      decide (12 * c.fx0 ≤ x ∧ x < 12 * (c.fx0 + c.fw) ∧ 12 * c.fy0 ≤ y ∧ y < 12 * (c.fy0 + c.fh))).map fun p => p.1

/-- Whether a logical tile of a field's row stands on a physical column. -/
def mapped (s : State) (field row col : Nat) : Bool := (List.range 12).any fun l => physCol s field row l == col

/-- Whether a physical tile belongs to a claim: a logical tile of a held field stands on it. -/
def tileClaimed (s : State) (field row col : Nat) : Bool :=
  mapped s field row col && (claimAt s (12 * (field % 12)) (12 * (field / 12))).isSome

/-- A rail change of a physical tile, by field, row and physical column; a tile of a claim is never put on the low rail
(R38). -/
def railChange (s : State) (field row col : Nat) (high : Bool) : State :=
  let rest := s.lowRail.filter fun p => p != (field, row, col)
  if high then { s with lowRail := rest }
  else if tileClaimed s field row col then s
  else { s with lowRail := (field, row, col) :: rest }

/-- The tiles of claims leave the low rail (R38). -/
def raiseRails (s : State) : State := { s with lowRail := s.lowRail.filter fun p => !tileClaimed s p.1 p.2.1 p.2.2 }

/-- An upset of a tile's count register (R268). -/
def upsetCount (s : State) (t : TileId) (d : BitVec 64) : State :=
  s.modTile t fun x => x.setOff (s.now t.claim) (x.off + d)

/-- The tick from which a tile may inject the next flit of an array send: the present one, unless it has injected one of the
tag in it. -/
def sendFloor (s : State) (t : TileId) (tag : BitVec 12) : Nat :=
  s.now t.claim + if (s.tileOf t).locals.contains tag then 1 else 0

/-- The tick of an array send's next flit or of an alignment as the wheel position now stands (R266, R276, R289). -/
def wheelTick (s : State) (t : TileId) (e : Sched) : Sched :=
  match e.act with
  | .ev (.arraySend o id) =>
    if o = t then
      match (s.tileOf t).sends.find? fun a => a.id == id with
      | none => e
      | some a =>
        match nextSend s.wheel (wheelShift s t) ((s.tileOf t).localSlots a.tag) (sendFloor s t a.tag) with
        | none => e
        | some n => { e with tick := n }
    else e
  | .ev (.alignment o) =>
    if o = t then { e with tick := s.now t.claim + (s.wheel - s.wheelPos t) % s.wheel } else e
  | _ => e

/-- The flits that an array send has still to inject. -/
def ArraySend.left (a : ArraySend) : Nat := 2 * a.rows.length - if a.half then 1 else 0

/-- The ends of the uses of an operand slot that are still to come: operations that read it, and their sends, begun or not
(R239, R244). -/
def pendingUses (s : State) (t : TileId) (k : BitVec 8) : List Nat :=
  let x := s.tileOf t
  let fin := fun (tag : BitVec 12) (flits from_ : Nat) => sendEnd s.wheel (wheelShift s t) (x.localSlots tag) flits from_
  let queued := x.arrQueue.filter fun o => s.agenda.any fun e => e.act == .ev (.mmaStart t o.id)
  (x.arrQueue.filter fun o => o.aslot == k || o.bslot == k).map (fun o => o.done) ++
    (x.sends.filter fun a => a.slot == k).map (fun a => fin a.tag a.left (sendFloor s t a.tag)) ++
    (queued.filter fun o => o.coop && o.gc == 0 && o.aslot == k).map (fun o => fin o.ta (2 * o.sendA.length) o.start) ++
    (queued.filter fun o => o.coop && o.gr == 0 && o.bslot == k).map fun o => fin o.tb (2 * o.sendB.length) o.start

/-- The in-use ends of a tile's operand slots as the wheel position now stands. -/
def reckonUses (s : State) (t : TileId) : State :=
  s.modTile t fun x => { x with opSlots := ((List.range 256).foldl (fun l i =>
    let k := BitVec.ofNat 8 i
    match pendingUses s t k with
    | [] => l
    | u :: us => l.put k { l.at k with u := us.foldl max u }) x.opSlots) }

/-- An upset of a router's wheel position (R272): the array sends and the alignment that use it follow it (R266). -/
def upsetWheel (s : State) (t : TileId) (mask : BitVec 7) : State :=
  let s := s.modTile t fun x => { x with wheel := BitVec.ofNat 7 ((x.wheel ^^^ mask).toNat % s.wheel) }
  let s := if (s.tileOf t).sends.isEmpty && (s.tileOf t).arrQueue.isEmpty then s else reckonUses s t
  { s with agenda := s.agenda.map (wheelTick s t) }

/-- A peer link loses its partner: every running claim of a fleet sees lost flits on it from now (R345). -/
def losePeer (s : State) (port : Nat) : State :=
  { s with claims := s.claims.map fun p =>
      if p.2.fleet ∧ ¬ p.2.lostPorts.contains port then (p.1, { p.2 with lostPorts := port :: p.2.lostPorts }) else p }

/-- A frozen tile has waited 2^24 cycles: landing lost (R281). DEDUCED: notes/assumptions/28.md. -/
def landingLost (s : State) (t : TileId) (tag : BitVec 12) (due : Nat) : State :=
  let s := s.modClaim t.claim fun c => { c with frozen := none }
  let s := s.modTile t fun x => { x with posts := x.posts.filter fun p => !(p.tag == tag && p.due == due) }
  claimFault s t 0x36 0

end Sys2Proof.Machine
end

