-- ==== Sys2Proof/Machine/Binder.lean ====
section
/-!
DEFINITION. The binder's choice between a row's shift and a detour for a link whose direct wires fail (spec/01 R13, R14,
spec/10 R275). Wires are named by a physical tile, its column of the wafer (13 for each field) and its row, and a side.
DESIGN CHOICE for the order of the choices: notes/assumptions/61.md.
-/

namespace Sys2Proof.Machine

/-- The tiles that a map skips: field, row of the field, physical column. -/
abbrev Skips := List (Nat × Nat × Nat)

/-- Direct wires: the physical column and the row of a tile, and a side. -/
abbrev Wire := Nat × Nat × Side

/-- The two tiles that wires join, the one in the west or the north first, and whether they run from west to east; none for
wires that would lead off the wafer. -/
def wireEnds (w : Wire) : Option ((Nat × Nat) × (Nat × Nat) × Bool) :=
  let ends : (Nat × Nat) × (Nat × Nat) × Bool := match w.2.2 with
    | .west => ((w.1 - 1, w.2.1), (w.1, w.2.1), true)
    | .east => ((w.1, w.2.1), (w.1 + 1, w.2.1), true)
    | .north => ((w.1, w.2.1 - 1), (w.1, w.2.1), false)
    | .south => ((w.1, w.2.1), (w.1, w.2.1 + 1), false)
  if ends.1 ≠ ends.2.1 ∧ ends.2.1.1 < 156 ∧ ends.2.1.2 < 84 then some ends else none

/-- The field and the row of the field of a physical tile. -/
def rowOf (x y : Nat) : Nat × Nat := (12 * (y / 12) + x / 13, y % 12)

/-- The logical tile that a map puts on a physical tile (R13). -/
def logicalAt (skips : Skips) (x y : Nat) : Option (Nat × Nat) :=
  ((List.range 12).find? fun l => colIn skips (rowOf x y).1 (rowOf x y).2 l == x % 13).map fun l => (12 * (x / 13) + l, y)

/-- The link between two logical neighbours that runs over direct wires under a map, if one does, named by its tile in the west
or the north: a bypass and a link between different columns run over other wires (R14). -/
def linkOn (skips : Skips) (w : Wire) : Option (Nat × Nat × Side) :=
  (wireEnds w).bind fun e =>
    match logicalAt skips e.1.1 e.1.2, logicalAt skips e.2.1.1 e.2.1.2 with
    | some a, some b =>
      if e.2.2 then some (a.1, a.2, .east) else if a.1 = b.1 then some (a.1, a.2, .south) else none
    | _, _ => none

/-- The links that a map leaves on failed wires: they are placed on detours (R14). -/
def detoursOf (wires : List Wire) (skips : Skips) : List (Nat × Nat × Side) := (wires.filterMap (linkOn skips)).eraseDups

/-- The rows of fields in which wires end. -/
def wireRows (wires : List Wire) : List (Nat × Nat) :=
  ((wires.filterMap wireEnds).map fun e => [rowOf e.1.1 e.1.2, rowOf e.2.1.1 e.2.1.2]).flatten.eraseDups

/-- The map with a row shifted from a column on, or not shifted. -/
def withShift (skips : Skips) (r : Nat × Nat) : Option Nat → Skips
  | none => skips.filter fun t => !(t.1 == r.1 && t.2.1 == r.2)
  | some c => (skips.filter fun t => !(t.1 == r.1 && t.2.1 == r.2)) ++ [(r.1, r.2, c)]

/-- The map, or with some shift of a row the first one that leaves the fewest links on failed wires, where one leaves fewer. -/
def bestShift (wires : List Wire) (skips : Skips) (r : Nat × Nat) (l : List (Option Nat)) : Skips :=
  l.foldl (fun m c =>
    if (detoursOf wires (withShift skips r c)).length < (detoursOf wires m).length then withShift skips r c else m) skips

/-- The shifts that a row admits: none, or one from any of its 12 columns. -/
def rowShifts : List (Option Nat) := none :: (List.range 12).map some

/-- Every row of a list takes its best shift beside those of the others. -/
def shiftRows (wires : List Wire) (rows : List (Nat × Nat)) (skips : Skips) : Skips :=
  rows.foldl (fun m r => bestShift wires m r rowShifts) skips

/-- The shifts of whole rows, taken again while a link is left that one of them may still avoid. -/
def improve (wires : List Wire) (rows : List (Nat × Nat)) : Nat → Skips → Skips
  | 0, m => m
  | n + 1, m =>
    let u := shiftRows wires rows m
    if (detoursOf wires u).length < (detoursOf wires m).length then improve wires rows n u else m

/-- The shifts that the binder adds for failed wires, in rows whose reserve tile and bypass are free: a link goes on a detour
only where no shift of a row avoids its wires (R13, R14, R275). -/
def chooseShifts (wires : List Wire) (retired : Skips) (failedBypass : List (Nat × Nat)) : Skips :=
  let rows := (wireRows wires).filter fun r =>
    !failedBypass.contains r && !retired.any fun t => t.1 == r.1 && t.2.1 == r.2
  (improve wires rows wires.length retired).filter fun t => !retired.contains t

end Sys2Proof.Machine
end

