-- ==== Sys2Proof/Machine/Digest.lean ====
section
/-!
DEFINITION. SHA-256 over byte strings (spec/03 R92, spec/14 R371, R372, R375). The spec names the function; its
definition is FIPS 180-4's (notes/assumptions/8.md). The constants are computed from the primes that define them.
-/

namespace Sys2Proof.Machine

/-- The largest number below `r + 2 ^ n` whose `e`-th power is at most `x`, found from its highest bit down. -/
def rootFrom (e x : Nat) : Nat → Nat → Nat
  | 0, r => r
  | n + 1, r => rootFrom e x n (if (r + 2 ^ n) ^ e ≤ x then r + 2 ^ n else r)

/-- The first 32 bits of the fraction of the `e`-th root of `p`. -/
def rootBits (e p : Nat) : Word := BitVec.ofNat 32 (rootFrom e (p * 2 ^ (32 * e)) 40 0)

/-- The primes below 312: 64 of them. -/
def shaPrimes : List Nat := (List.range 312).filter fun p => 2 ≤ p && (List.range p).all fun d => d < 2 || p % d != 0

/-- The digest that a message starts from: eight words, the first in the highest bits. -/
abbrev ShaWords := List Word

def shaStart : ShaWords := (shaPrimes.take 8).map (rootBits 2)

/-- The exclusive or of a word rotated right by each of some amounts. -/
def rotations (x : Word) (by_ : List Nat) : Word := by_.foldl (fun r n => r ^^^ x.rotateRight n) 0

/-- One step: the words move down one place; the new first and fifth words mix in the constant and the schedule word. -/
def shaStep (w : ShaWords) (add : Word) : ShaWords :=
  match w with
  | [p, q, r, s, t, u, v, x] =>
    let mix := x + add + rotations t [6, 11, 25] + (v ^^^ (t &&& (u ^^^ v)))
    [mix + rotations p [2, 13, 22] + ((p &&& q) ||| (r &&& (p ||| q))), p, q, r, s + mix, t, u, v]
  | other => other

/-- The schedule word that follows sixteen. -/
def nextScheduled (w : List Word) : Word :=
  let lo := w.getD 1 0
  let hi := w.getD 14 0
  w.getD 0 0 + w.getD 9 0 + (rotations lo [7, 18] ^^^ (lo >>> 3)) + (rotations hi [17, 19] ^^^ (hi >>> 10))

/-- A word of each of some primes, with the schedule's window of sixteen words moving along. -/
def shaSteps : List Nat → List Word → ShaWords → ShaWords
  | [], _, s => s
  | p :: ps, w, s => shaSteps ps (w.drop 1 ++ [nextScheduled w]) (shaStep s (rootBits 3 p + w.getD 0 0))

/-- The words of a block of 64 bytes, each big-endian. -/
def blockWords (b : List Byte) : List Word :=
  (List.range 16).map fun i => ((b.drop (4 * i)).take 4).foldl (fun x y => x <<< 8 ||| y.setWidth 32) 0

def shaBlock (s : ShaWords) (b : List Byte) : ShaWords := List.zipWith (· + ·) s (shaSteps shaPrimes (blockWords b) s)

/-- Some blocks of a padded message. -/
def shaBlocks : Nat → List Byte → ShaWords → ShaWords
  | 0, _, s => s
  | n + 1, b, s => shaBlocks n (b.drop 64) (shaBlock s (b.take 64))

/-- A message with its padding: a one bit, zeros, and its length in bits, big-endian. -/
def shaPad (m : List Byte) : List Byte :=
  m ++ [0x80] ++ List.replicate ((119 - m.length % 64) % 64) 0 ++
    (List.range 8).map fun i => BitVec.ofNat 8 (8 * m.length / 256 ^ (7 - i))

/-- The SHA-256 digest of a byte string, its first byte in the highest bits. PRESUMED: notes/assumptions/8.md. -/
def sha256 (m : List Byte) : BitVec 256 :=
  let words := shaBlocks ((shaPad m).length / 64) (shaPad m) shaStart
  words.foldl (fun d w => d <<< 32 ||| w.setWidth 256) 0

/-- A digest as the 32 bytes of a byte string, first byte first. -/
def digestBytes (d : BitVec 256) : List Byte := (List.range 32).map fun i => byteOf d (31 - i)

end Sys2Proof.Machine
end

