-- ==== Sys2Proof/Machine/Image.lean ====
section
/-!
DEFINITION. Model images (spec/03 R92 to R94) and the translation of Sedge code (spec/02 R75 to R78): parsing, the checks
that LOAD makes, and what a launch reads from an image.
-/

namespace Sys2Proof.Machine

/-! ## Records (R93) -/

/-- A record of an image with its offset. -/
structure ImgRec where
  off : Nat
  kind : Nat
  x : Nat
  y : Nat
  strand : Nat
  rsv : Nat
  payload : List Byte
  deriving DecidableEq, Repr

/-- The header of an image (R92) with its records. -/
structure Image where
  magic : Nat
  version : Nat
  hop : Nat
  wheel : Nat
  slot : Nat
  fw : Nat
  fh : Nat
  flags : Nat
  nrec : Nat
  len : Nat
  digest : List Byte
  cver : Nat
  rsv : Nat
  recs : List ImgRec
  past : Option Nat
  deriving DecidableEq, Repr

/-- The little-endian number in `n` bytes at an offset of a byte string. -/
def leAt (b : List Byte) (off n : Nat) : Nat := leNat ((b.drop off).take n)

/-- Up to `n` records from an offset; the second part is the offset of a record that runs past LEN (R93). What the zero padding
of a record holds is not looked at, nor is what follows the last record. DESIGN CHOICE: notes/assumptions/52.md. -/
def parseRecs (len : Nat) : Nat → Nat → List Byte → List ImgRec × Option Nat
  | 0, _, _ => ([], none)
  | n + 1, off, b =>
    let plen := leAt b 8 8
    let size := 16 + ceilTo 8 plen
    if off + 16 > len ∨ off + size > len then ([], some off)
    else
      let rest := parseRecs len n (off + size) (b.drop size)
      (⟨off, leAt b 0 2, leAt b 2 2, leAt b 4 2, leAt b 6 1, leAt b 7 1, (b.drop 16).take plen⟩ :: rest.1, rest.2)

/-- The image in a byte string. -/
def parseImage (b : List Byte) : Image :=
  let r := parseRecs (leAt b 16 8) (leAt b 12 4) 64 (b.drop 64)
  { magic := leAt b 0 4, version := leAt b 4 2, hop := leAt b 6 1, wheel := leAt b 7 1, slot := leAt b 8 1
    fw := leAt b 9 1, fh := leAt b 10 1, flags := leAt b 11 1, nrec := leAt b 12 4, len := leAt b 16 8
    digest := (b.drop 24).take 32, cver := leAt b 56 4, rsv := leAt b 60 4, recs := r.1, past := r.2 }

/-- Whether a kind is a strand's, a tile's or the image's (R93). -/
def recScope (kind : Nat) : Option Nat :=
  if kind = 1 ∨ kind = 2 ∨ kind = 6 ∨ kind = 11 then some 0
  else if kind = 3 ∨ kind = 4 ∨ kind = 5 ∨ kind = 7 ∨ kind = 8 ∨ kind = 9 then some 1
  else if kind = 10 ∨ kind = 12 ∨ kind = 13 then some 2
  else none

/-- Fixed-size entries of a payload. -/
def entriesOf (n : Nat) (b : List Byte) : List (List Byte) := (List.range (b.length / n)).map fun i => (b.drop (n * i)).take n

namespace Image

/-- The payload of a tile's first record of a kind: where several of one kind name a tile, the first stands (R93).
DESIGN CHOICE: notes/assumptions/52.md. -/
def tileRec (i : Image) (kind x y : Nat) : Option (List Byte) :=
  (i.recs.find? fun r => r.kind == kind && r.x == x && r.y == y).map fun r => r.payload

/-- The payload of a strand's first record of a kind: where several of one kind name a strand, the first stands (R93).
DESIGN CHOICE: notes/assumptions/52.md. -/
def strandRec (i : Image) (kind x y c : Nat) : Option (List Byte) :=
  (i.recs.find? fun r => r.kind == kind && r.x == x && r.y == y && r.strand == c).map fun r => r.payload

/-- The partition word of a tile (R195). -/
def part (i : Image) (x y : Nat) : Quad :=
  match i.tileRec 3 x y with
  | some b => BitVec.ofNat 64 (leNat b)
  | none => defaultPart

/-- Whether the image places a strand in a core. -/
def hasStrand (i : Image) (x y c : Nat) : Bool := (i.strandRec 1 x y c).isSome || (i.strandRec 2 x y c).isSome

end Image

/-- Whether a partition word makes a bank a scratchpad bank (R89). -/
def scratchOf (w : Quad) (b : Nat) : Bool := ({ Tile.fresh 0 0 with part := w }).isScratch b

/-! ## Sedge code (R75 to R78) -/

/-- Whether a source names a latch. -/
def srcIsLatch {n : Nat} (a : Src n) : Bool :=
  match a with
  | .reg _ => false
  | .latch _ => true

/-- Whether a syllable's source fields name a latch, which no Sedge word does (R78). -/
def hasLatch : Instr → Bool
  | .movi _ _ _ => false
  | .movhi _ _ _ _ => false
  | .add o => srcIsLatch o.a || srcIsLatch o.b
  | .addi o => srcIsLatch o.a
  | .sub o => srcIsLatch o.a || srcIsLatch o.b
  | .and o => srcIsLatch o.a || srcIsLatch o.b
  | .andi o => srcIsLatch o.a
  | .or o => srcIsLatch o.a || srcIsLatch o.b
  | .ori o => srcIsLatch o.a
  | .xor o => srcIsLatch o.a || srcIsLatch o.b
  | .xori o => srcIsLatch o.a
  | .andn o => srcIsLatch o.a || srcIsLatch o.b
  | .mul o => srcIsLatch o.a || srcIsLatch o.b
  | .mulh o => srcIsLatch o.a || srcIsLatch o.b
  | .mulhn o => srcIsLatch o.a || srcIsLatch o.b
  | .div o => srcIsLatch o.a || srcIsLatch o.b
  | .divn o => srcIsLatch o.a || srcIsLatch o.b
  | .rem o => srcIsLatch o.a || srcIsLatch o.b
  | .remn o => srcIsLatch o.a || srcIsLatch o.b
  | .shl o => srcIsLatch o.a || srcIsLatch o.b
  | .shli o => srcIsLatch o.a
  | .shr o => srcIsLatch o.a || srcIsLatch o.b
  | .shri o => srcIsLatch o.a
  | .sra o => srcIsLatch o.a || srcIsLatch o.b
  | .srai o => srcIsLatch o.a
  | .rol o => srcIsLatch o.a || srcIsLatch o.b
  | .min o => srcIsLatch o.a || srcIsLatch o.b
  | .max o => srcIsLatch o.a || srcIsLatch o.b
  | .minn o => srcIsLatch o.a || srcIsLatch o.b
  | .maxn o => srcIsLatch o.a || srcIsLatch o.b
  | .ceq o => srcIsLatch o.a || srcIsLatch o.b
  | .cne o => srcIsLatch o.a || srcIsLatch o.b
  | .clt o => srcIsLatch o.a || srcIsLatch o.b
  | .cltn o => srcIsLatch o.a || srcIsLatch o.b
  | .cle o => srcIsLatch o.a || srcIsLatch o.b
  | .clen o => srcIsLatch o.a || srcIsLatch o.b
  | .ceqi o => srcIsLatch o.a
  | .clti o => srcIsLatch o.a
  | .sel o => srcIsLatch o.a || srcIsLatch o.b
  | .clz o => srcIsLatch o.a
  | .ctz o => srcIsLatch o.a
  | .popc o => srcIsLatch o.a
  | .bfx o => srcIsLatch o.a
  | .bfxs o => srcIsLatch o.a
  | .bfi _ _ _ a _ _ => srcIsLatch a
  | .aadd o => srcIsLatch o.a || srcIsLatch o.b
  | .aaddi o => srcIsLatch o.a
  | .asub o => srcIsLatch o.a || srcIsLatch o.b
  | .amk o => srcIsLatch o.a || srcIsLatch o.b
  | .ahi o => srcIsLatch o.a
  | .alo o => srcIsLatch o.a
  | .kset o => srcIsLatch o.a
  | .kget o => srcIsLatch o.a
  | .fadd o => srcIsLatch o.a || srcIsLatch o.b
  | .fsub o => srcIsLatch o.a || srcIsLatch o.b
  | .fmul o => srcIsLatch o.a || srcIsLatch o.b
  | .fmin o => srcIsLatch o.a || srcIsLatch o.b
  | .fmax o => srcIsLatch o.a || srcIsLatch o.b
  | .fabs o => srcIsLatch o.a
  | .fneg o => srcIsLatch o.a
  | .fma o => srcIsLatch o.a || srcIsLatch o.b
  | .fms o => srcIsLatch o.a || srcIsLatch o.b
  | .fnma o => srcIsLatch o.a || srcIsLatch o.b
  | .frcp o => srcIsLatch o.a
  | .frsq o => srcIsLatch o.a
  | .fexp2 o => srcIsLatch o.a
  | .flog2 o => srcIsLatch o.a
  | .dot2 o => srcIsLatch o.a || srcIsLatch o.b
  | .fcmpEq o => srcIsLatch o.a || srcIsLatch o.b
  | .fcmpNe o => srcIsLatch o.a || srcIsLatch o.b
  | .fcmpLt o => srcIsLatch o.a || srcIsLatch o.b
  | .fcmpLe o => srcIsLatch o.a || srcIsLatch o.b
  | .fcmpUn o => srcIsLatch o.a || srcIsLatch o.b
  | .iadd o _ => srcIsLatch o.a || srcIsLatch o.b
  | .isub o _ => srcIsLatch o.a || srcIsLatch o.b
  | .imul o _ => srcIsLatch o.a || srcIsLatch o.b
  | .imulh o => srcIsLatch o.a || srcIsLatch o.b
  | .imad o _ => srcIsLatch o.a || srcIsLatch o.b
  | .iand o => srcIsLatch o.a || srcIsLatch o.b
  | .ior o => srcIsLatch o.a || srcIsLatch o.b
  | .ixor o => srcIsLatch o.a || srcIsLatch o.b
  | .imin o => srcIsLatch o.a || srcIsLatch o.b
  | .imax o => srcIsLatch o.a || srcIsLatch o.b
  | .ishl o => srcIsLatch o.a || srcIsLatch o.b
  | .ishr o => srcIsLatch o.a || srcIsLatch o.b
  | .isra o => srcIsLatch o.a || srcIsLatch o.b
  | .icmpEq o => srcIsLatch o.a || srcIsLatch o.b
  | .icmpNe o => srcIsLatch o.a || srcIsLatch o.b
  | .icmpLt o => srcIsLatch o.a || srcIsLatch o.b
  | .icmpLe o => srcIsLatch o.a || srcIsLatch o.b
  | .vsel o => srcIsLatch o.a || srcIsLatch o.b
  | .vbc o => srcIsLatch o.a
  | .vmov o => srcIsLatch o.a
  | .vmovi _ _ _ _ _ => false
  | .vext o => srcIsLatch o.a || srcIsLatch o.b
  | .vins o => srcIsLatch o.a || srcIsLatch o.b
  | .vperm o => srcIsLatch o.a || srcIsLatch o.b
  | .vrot o => srcIsLatch o.a || srcIsLatch o.b
  | .vzip o => srcIsLatch o.a || srcIsLatch o.b
  | .vunzip o => srcIsLatch o.a || srcIsLatch o.b
  | .vsum o => srcIsLatch o.a
  | .vmaxr o => srcIsLatch o.a
  | .kand o => srcIsLatch o.a || srcIsLatch o.b
  | .kor o => srcIsLatch o.a || srcIsLatch o.b
  | .kxor o => srcIsLatch o.a || srcIsLatch o.b
  | .knot o => srcIsLatch o.a
  | .kcnt o => srcIsLatch o.a
  | .ldB _ => false
  | .ldBn _ => false
  | .ldH _ => false
  | .ldHn _ => false
  | .ldW _ => false
  | .stB _ => false
  | .stH _ => false
  | .stW _ => false
  | .vldRow _ => false
  | .vldCol _ _ => false
  | .vstRow _ => false
  | .vstCol _ _ => false
  | .vld2 _ _ => false
  | .vst2 _ _ => false
  | .vlddRow _ => false
  | .vlddCol _ => false
  | .vgt o _ => srcIsLatch o.sx
  | .vgt2 o _ => srcIsLatch o.sx
  | .vsc o _ => srcIsLatch o.sx
  | .amoAdd o => srcIsLatch o.sx
  | .amoAnd o => srcIsLatch o.sx
  | .amoOr o => srcIsLatch o.sx
  | .amoXor o => srcIsLatch o.sx
  | .amoMin o => srcIsLatch o.sx
  | .amoMax o => srcIsLatch o.sx
  | .amoXchg o => srcIsLatch o.sx
  | .amoCas _ o => srcIsLatch o.sx
  | .redF32 o => srcIsLatch o.sx
  | .redS32 o => srcIsLatch o.sx
  | .cvt o => srcIsLatch o.a
  | .qblk o => srcIsLatch o.a
  | .dqblk o => srcIsLatch o.a
  | .vpk o => srcIsLatch o.a
  | .vupk _ a _ _ => srcIsLatch a
  | .rngSeed a b _ => srcIsLatch a || srcIsLatch b
  | .rngPop _ _ => false
  | .spush _ a _ => srcIsLatch a
  | .spop _ _ _ => false
  | .scnt _ _ _ => false
  | .sreset _ _ => false
  | .bgive _ _ _ => false
  | .blend _ _ _ => false
  | .bback _ => false
  | .brot _ => false
  | .brotRev _ => false
  | .bmap _ _ _ => false
  | .bfmt _ _ => false
  | .bzero _ => false
  | .bcopy _ _ _ _ => false
  | .mclaim _ => false
  | .mrel _ => false
  | .mstageRow _ => false
  | .mstageCol _ _ => false
  | .mshape _ _ _ _ => false
  | .mma _ _ _ _ _ => false
  | .maccRd _ _ _ _ => false
  | .maccZero _ => false
  | .mqnt _ _ _ => false
  | .xsendLo _ a => srcIsLatch a
  | .xsendHi _ a => srcIsLatch a
  | .xrecvLo _ _ => false
  | .xrecvHi _ _ => false
  | .xland a _ => srcIsLatch a
  | .xtag a _ => srcIsLatch a
  | .xpoll _ _ => false
  | .tkalign => false
  | .tkhold _ => false
  | .stgSet _ _ a => srcIsLatch a
  | .readToBank _ => false
  | .readToLandingBuffer _ => false
  | .write _ => false
  | .trackedWrite _ => false
  | .stgRd _ _ _ => false
  | .tlWait _ a => srcIsLatch a
  | .tlRd _ _ => false
  | .nop => false
  | .br _ => false
  | .brz a _ => srcIsLatch a
  | .brnz a _ => srcIsLatch a
  | .brk a _ => srcIsLatch a
  | .call _ _ => false
  | .ret a _ => srcIsLatch a
  | .loop a _ => srcIsLatch a
  | .halt _ => false
  | .tkawait a _ => srcIsLatch a
  | .gate _ => false
  | .wsplit a b _ => srcIsLatch a || srcIsLatch b
  | .wret a _ => srcIsLatch a
  | .jcbAdd a _ => srcIsLatch a
  | .jcbPost _ => false
  | .npreOn _ => false
  | .npreOff _ => false
  | .trap _ => false
  | .svc _ => false
  | .brkpt _ => false
  | .iret => false
  | .crget _ _ _ => false
  | .crset a _ _ => srcIsLatch a
  | .openSpanEntry _ => false
  | .fenceAcq _ _ => false
  | .fenceRel _ _ => false
  | .fenceAr _ _ => false
  | .fenceSc _ _ => false
  | .waitaEq _ _ => false
  | .waitaNe _ _ => false
  | .waitaGen _ _ => false
  | .barArr _ => false
  | .barWait _ => false
  | .barSync _ => false
  | .waitFormIssue _ => false
  | .tkawaitIssue _ => false
  | .resultLanding _ _ => false
  | .runEnd _ => false
  | .bankCommit _ _ _ _ => false
  | .mapChangeEffect _ _ => false
  | .formatChangeEffect _ _ _ => false
  | .reductionApply _ => false
  | .stageRowTransfer _ _ => false
  | .mmaStart _ _ => false
  | .mmaGroupAdd _ _ _ _ => false
  | .mmaBlockWrite _ _ _ => false
  | .mmaCompletion _ _ => false
  | .arraySend _ _ => false
  | .operandRowDeposit _ _ _ _ => false
  | .flitArrival _ _ _ => false
  | .flitRelease _ _ => false
  | .landedFlitDue _ _ _ => false
  | .landingLost _ _ _ => false
  | .holdDelivery _ _ _ => false
  | .holdEnd _ => false
  | .voltageDroop _ _ => false
  | .localTrimUpdate _ => false
  | .waferTrimUpdate _ => false
  | .deadbandSlewSet _ _ => false
  | .throttle _ => false
  | .railChange _ _ _ => false
  | .countUpset _ _ => false
  | .bitUpset _ _ => false
  | .alignment _ => false
  | .peerLinkLoss _ => false
  | .gateRelease _ _ => false
  | .gateTimeout _ _ => false
  | .barrierPhaseCompletion _ _ => false
  | .barrierTimeout _ _ => false
  | .nonPreEmptibleCap _ => false
  | .weightArrival _ _ _ => false
  | .jcbTotalArrival _ _ => false
  | .jcbPostArrival _ => false
  | .strandRetirement _ => false
  | .claimEvaluation _ => false
  | .commandActivation _ => false
  | .readLineRequest _ _ _ => false
  | .stagingFlitRelease _ _ _ => false
  | .stagingDeposit _ _ _ => false
  | .stagingSourceRead _ _ _ => false
  | .stagingWriteFlit _ _ _ => false
  | .stagingWriteCommit _ _ => false
  | .trackerFire _ => false
  | .timelineAdvance _ => false
  | .flagWrite _ _ => false
  | .fatalStop _ => false
  | .uncorrectableHalt _ => false
  | .preemptionStop _ => false
  | .selfTestMove _ _ _ => false
  | .selfTestMoveBack _ _ => false
  | .abortStop _ => false
  | .claimRelease _ => false
  | .powerOn _ => false
  | .hostFarWrite _ _ => false
  | .hostFarRead _ _ => false
  | .qnotifyWrite _ _ => false
  | .hostRegisterWrite _ _ => false
  | .packetRead _ => false
  | .fleetLaunch _ _ => false
  | .managementSidebandMessage _ => false
  | .load _ => false
  | .evict _ => false
  | .lease _ => false
  | .unlease _ => false
  | .unleaseEffect _ => false
  | .queueEnable _ => false
  | .queueDisable _ => false
  | .queueDisableDrain _ => false
  | .invtlb _ => false
  | .preempt _ => false
  | .resume _ => false
  | .abort _ => false
  | .fwload _ => false
  | .record _ => false
  | .restart _ => false
  | .opNotAssigned _ => false
  | .switchRequest _ _ => false
  | .firmwareSwitch _ => false
  | .alive _ => false
  | .accept _ => false
  | .rollback _ => false
  | .getVersion => false
  | .getCapabilities _ => false
  | .negotiateAlgorithms _ _ => false
  | .getDigests => false
  | .getCertificate _ _ _ => false
  | .challenge _ _ => false
  | .getMeasurements _ _ => false
  | .accessionRecordWrite _ _ _ => false
  | .retainedImageFault _ => false
  | .tileFailsSelfTest _ _ => false

/-- The class and the opcode of a Sedge word (R76). -/
def sedgeClass (w : BitVec 64) : Option (SlotClass × BitVec 8) :=
  let sop := w.extractLsb' 52 8
  match (w.extractLsb' 60 4).toNat with
  | 0 => some (.s0, sop)
  | 1 => some (.v0, sop)
  | 2 => some (.m, sop)
  | 3 => some (.x, sop)
  | 4 => some (.e, sop)
  | 5 => if sop.toNat < 16 then some (.e, sop + 16) else none
  | 6 | 7 => some (.c, sop)
  | _ => none

/-- The number of bundles of a word. -/
def sedgeReps (w : BitVec 64) : Nat := (w.extractLsb' 48 4).toNat + 1

/-- The number of the first bundle of word k, counted over the words (R77). -/
def sedgeBundle (ws : List (BitVec 64)) (k : Nat) : Nat := ((ws.take k).map sedgeReps).foldl (· + ·) 0

/-- The address of bundle j of a translated stream (R77). -/
def sedgeAddr (j : Nat) : Nat := 64 * (j / 10) + 6 * (j % 10)

/-- Whether an opcode of the C class has the CB layout (R73). -/
def isCb (c : SlotClass) (op : BitVec 8) : Bool := c == .c && (decide (1 ≤ op.toNat ∧ op.toNat ≤ 5) || op == 7)

/-- The syllable of word k, or none where the word does not translate (R76 to R78). A branch whose target is no word of
the stream and not its end does not translate (notes/assumptions/9.md). -/
def sedgeSyllable (ws : List (BitVec 64)) (core : BitVec 2) (k : Nat) (w : BitVec 64) : Option (SlotClass × BitVec 40) :=
  match sedgeClass w with
  | none => none
  | some (c, op) =>
    let body := w.extractLsb' 0 32
    if w.extractLsb' 32 16 != 0 || body.getLsbD 31 then none
    else
      let target := (k : Int) + (body.extractLsb' 0 18).toInt
      let ofs : Int := (sedgeAddr (sedgeBundle ws target.toNat) : Int) - sedgeAddr (sedgeBundle ws k)
      let cbBad := sedgeReps w != 1 || decide (target < 0 ∨ ws.length < target ∨ ofs < -131072 ∨ 131071 < ofs)
      let w40 := if isCb c op then op ++ body.extractLsb' 18 14 ++ BitVec.ofInt 18 ofs else op ++ body
      if isCb c op && cbBad then none
      else
        match decodeSyllable c w40 with
        | some i => if i.legalOn core && !hasLatch i then some (c, w40) else none
        | none => none

/-- The index of the first word that does not translate. -/
def sedgeFirstBad (ws : List (BitVec 64)) (core : BitVec 2) : Option Nat :=
  (ws.zipIdx.find? fun p => (sedgeSyllable ws core p.2 p.1).isNone).map fun p => p.2

/-- The words of a payload. -/
def sedgeWords (b : List Byte) : List (BitVec 64) := (entriesOf 8 b).map (bitsOfBytes 64)

/-- The translated code: one 6-byte bundle for each issue of a word, ten to a line (R77). -/
def sedgeCode (ws : List (BitVec 64)) (core : BitVec 2) : List Byte :=
  let bs := (ws.zipIdx.map fun p =>
    match sedgeSyllable ws core p.2 p.1 with
    | none => []
    | some (c, w) => List.replicate (sedgeReps p.1) (BitVec.ofNat 8 (2 ^ c.index) :: syllableBytes w)).flatten
  (bs.zipIdx.map fun p => if p.2 % 10 = 9 then p.1 ++ [0, 0, 0, 0] else p.1).flatten

/-- The code bytes of a strand (R93): the kind of its record says whether they are translated (R76); bit 0 of the header's FLAGS
is not compared with it (R92). DESIGN CHOICE: notes/assumptions/52.md. -/
def Image.code (i : Image) (x y c : Nat) : List Byte :=
  match i.strandRec 1 x y c with
  | some b => b
  | none =>
    match i.strandRec 2 x y c with
    | some b => sedgeCode (sedgeWords b) (BitVec.ofNat 2 c)
    | none => []

/-! ## Entries of tile and image records (R93) -/

/-- A port of a route entry: none is the local port. -/
def portOf (n : Nat) : Option Side :=
  match n with
  | 0 => some .north
  | 1 => some .east
  | 2 => some .south
  | 3 => some .west
  | _ => none

/-- A route entry. -/
def routeOf (b : List Byte) : Route :=
  let m := leAt b 4 1
  { tag := BitVec.ofNat 12 (leAt b 0 2), slot := leAt b 2 1, inp := portOf (leAt b 3 1)
    outs := ((List.range 4).filter fun k => m.testBit k).filterMap portOf, loc := m.testBit 4 }

/-- The limits of a route entry (R88, R93). -/
def routeFits (wheel : Nat) (b : List Byte) : Bool :=
  decide (leAt b 0 2 < 4096 ∧ leAt b 2 1 < wheel ∧ leAt b 3 1 ≤ 4 ∧ leAt b 4 1 < 32 ∧ leAt b 4 1 ≠ 0 ∧ leAt b 5 3 = 0)

/-- Whether two route entries of a tile drive one output port in one slot (R90, R273). -/
def sameOutput (a b : Route) : Bool :=
  a.slot == b.slot && ((a.loc && b.loc) || a.outs.any fun d => b.outs.contains d)

/-- Whether some element of a list is related to a later one. -/
def anyPair {α : Type} (r : α → α → Bool) : List α → Bool
  | [] => false
  | a :: l => l.any (r a) || anyPair r l

/-- The route entries of a tile. -/
def Image.routes (i : Image) (x y : Nat) : List Route :=
  ((i.recs.filter fun r => r.kind == 9 && r.x == x && r.y == y).map fun r => (entriesOf 8 r.payload).map routeOf).flatten

/-- A tag entry. -/
def tagOf (b : List Byte) : BitVec 12 × Nat × Nat := (BitVec.ofNat 12 (leAt b 0 2), leAt b 2 2, leAt b 4 2)

def Image.tags (i : Image) : List (BitVec 12 × Nat × Nat) :=
  ((i.recs.filter fun r => r.kind == 10).map fun r => (entriesOf 8 r.payload).map tagOf).flatten

/-- A range entry. -/
def rangeOf (b : List Byte) : FarRange := ⟨leAt b 0 8, leAt b 8 8, (leAt b 16 8).testBit 0, (leAt b 16 8).testBit 1⟩

def Image.ranges (i : Image) : List FarRange :=
  ((i.recs.filter fun r => r.kind == 12).map fun r => (entriesOf 24 r.payload).map rangeOf).flatten

/-- The banks that a map record names, with their slots. -/
def mapBanks (b : List Byte) : List (Nat × Nat) :=
  (b.zipIdx.filter fun p => p.1 != 0xFF).map fun p => (p.2, p.1.toNat)

/-! ## The checks of LOAD (R94, R90, R78) -/

/-- The length and the limits of a record's payload (R88, R93, R195). A destination in the tag table outside the image's
fields does not fail a load. DESIGN CHOICE: notes/assumptions/52.md. -/
def payloadFits (i : Image) (r : ImgRec) : Bool :=
  let b := r.payload
  let n := b.length
  let w := i.part r.x r.y
  match r.kind with
  | 1 => n % 64 == 0
  | 2 => n % 8 == 0
  | 3 => n == 8 && leNat b >>> 49 == 0 && ((List.range 7).map (partField (BitVec.ofNat 64 (leNat b)))).foldl (· + ·) 0 == 64
  | 4 => n == 4
  | 5 => n == 32 && (entriesOf 2 b).all fun e => decide (leAt e 0 1 < 64 ∧ (leAt e 1 1 < 4 ∨ leAt e 1 1 = 255))
  | 6 => n == 64 && (mapBanks b).all fun p => scratchOf w p.2
  | 7 => n == 64 && b.zipIdx.all fun p =>
      if scratchOf w p.2 then decide (p.1.toNat < 64) && (Fmt.dec (p.1.setWidth 6)).isSome else p.1 == 0xFF
  | 8 => decide (8 ≤ n) && leAt b 1 1 == 0 && leAt b 4 4 == 0 && scratchOf w (leAt b 0 1) &&
      decide (leAt b 2 2 + (n - 8) ≤ 65536)
  | 9 => n % 8 == 0 && (entriesOf 8 b).all (routeFits i.wheel)
  | 10 => n % 8 == 0 && (entriesOf 8 b).all fun e => decide (leAt e 0 2 < 4096 ∧ leAt e 6 2 = 0)
  | 11 => n == 16 && decide (leAt b 0 1 < 16) && leAt b 1 7 == 0
  | 12 => n % 24 == 0 && (entriesOf 24 b).all fun e =>
      decide (leAt e 0 8 % 65536 = 0 ∧ leAt e 8 8 % 65536 = 0 ∧ leAt e 16 8 < 4 ∧ leAt e 16 8 ≠ 0)
  | 13 => decide (1 ≤ n ∧ n ≤ 32)
  | _ => false

/-- The conditions of R90 that a record breaks, given the records before it. -/
def recClashes (i : Image) (prev : List ImgRec) (r : ImgRec) : Bool :=
  let mine := prev.filter fun p => p.x == r.x && p.y == r.y
  match r.kind with
  | 1 => (i.tileRec 3 r.x r.y).isNone || (mine.any fun p => p.kind == 2 && p.strand == r.strand) ||
      decide (65536 * partField (i.part r.x r.y) r.strand < r.payload.length)
  | 2 => (i.tileRec 3 r.x r.y).isNone || (mine.any fun p => p.kind == 1 && p.strand == r.strand) ||
      decide (65536 * partField (i.part r.x r.y) r.strand < sedgeAddr (sedgeBundle (sedgeWords r.payload) r.payload.length))
  | 3 => mine.any fun p => p.kind == 3
  | 6 => (i.tileRec 3 r.x r.y).isNone || anyPair (fun a b => a.2 == b.2) (mapBanks r.payload) ||
      (mine.any fun p => p.kind == 6 && (mapBanks p.payload).any fun a => (mapBanks r.payload).any fun b => a.2 == b.2)
  | 9 => anyPair sameOutput ((entriesOf 8 r.payload).map routeOf) ||
      (mine.any fun p => p.kind == 9 && (entriesOf 8 p.payload).any fun a =>
        (entriesOf 8 r.payload).any fun b => sameOutput (routeOf a) (routeOf b))
  | 10 => anyPair (fun a b => (tagOf a).1 == (tagOf b).1) (entriesOf 8 r.payload) ||
      (prev.any fun p => p.kind == 10 && (entriesOf 8 p.payload).any fun a =>
        (entriesOf 8 r.payload).any fun b => (tagOf a).1 == (tagOf b).1)
  | 11 => (i.tileRec 3 r.x r.y).isNone
  | _ => false

/-- What MBRES0 reports of a record that fails: its offset, or the index of its first failing Sedge word (R93, R94). X and Y of
a record of image scope may hold anything. DESIGN CHOICE: notes/assumptions/52.md. -/
def recBad (i : Image) (prev : List ImgRec) (r : ImgRec) : Option Nat :=
  let scopeBad :=
    match recScope r.kind with
    | none => true
    | some 0 => decide (3 < r.strand) || decide (12 * i.fw ≤ r.x ∨ 12 * i.fh ≤ r.y)
    | some 1 => r.strand != 255 || decide (12 * i.fw ≤ r.x ∨ 12 * i.fh ≤ r.y)
    | some _ => r.strand != 255
  if scopeBad || r.rsv != 0 || !payloadFits i r || recClashes i prev r then some r.off
  else if r.kind = 2 then sedgeFirstBad (sedgeWords r.payload) (BitVec.ofNat 2 r.strand)
  else none

/-- The first failing record of a list, in order. DEDUCED: notes/assumptions/9.md. -/
def firstRecBad (i : Image) : List ImgRec → List ImgRec → Option Nat
  | _, [] => none
  | prev, r :: rest =>
    match recBad i prev r with
    | some n => some n
    | none => firstRecBad i (r :: prev) rest

/-- What makes a load fail: none, or the value of MBRES0 (0 for the header: notes/assumptions/9.md). `len` is the LEN of the
command; a header whose LEN differs from it, or whose FW or FH no claim can have, fails too. The header's SLOT is not compared
with the slot that LOAD names, and CVER, the catalogue's version, is not judged. DESIGN CHOICE: notes/assumptions/52.md. -/
def imageBad (b : List Byte) (len : Nat) : Option Nat :=
  let i := parseImage b
  if i.magic ≠ 0x45415249 ∨ i.version ≠ 1 ∨ i.len ≠ len ∨ len < 64 ∨ 1 < i.flags ∨ i.rsv ≠ 0
      ∨ i.fw < 1 ∨ 12 < i.fw ∨ i.fh < 1 ∨ 7 < i.fh ∨ i.digest ≠ digestBytes (sha256 ((b.take len).drop 64)) then some 0
  else
    match firstRecBad i [] i.recs with
    | some n => some n
    | none => i.past

end Sys2Proof.Machine
end

