-- ==== Sys2Proof/Machine/Banks.lean ====
section
/-!
DEFINITION. The M forms (spec/08 R210 to R215, spec/12 R332 to R335): one meaning per form over the shared frames.
-/

namespace Sys2Proof.Machine

/-! ## Frames -/

/-- ea of a layout-A form (R203). -/
def eaOf (s : State) (base : BitVec 4) (ofs : BitVec 10) (scale : Nat) : BitVec 56 :=
  effAddr (s.me.readA base).val (sx64 ofs) scale

/-- ea of an MX form (R203). -/
def eaMx (s : State) (base : BitVec 4) : BitVec 56 := (s.me.readA base).val.setWidth 56

/-- The checks of R210 in order, then RMW window. -/
def mChecks (s : State) (write : Bool) (ea : BitVec 56) (ok cross : Bool) (bs : List Booking) : Check :=
  firstFault (s.reach write ea ++ [(!ok, 0x12, eaDatum ea), (cross, 0x13, eaDatum ea), (s.windowHit bs, 0x14, eaDatum ea)])

/-- A scalar load (R211). -/
def mLoad (s : State) (o : MA 6) (e : Size) (signed : Bool) : Host.Outcome State Fault Refusal :=
  let ea := eaOf s o.base o.ofs e.bytes
  let bank := s.bankAt ea
  let bs := [s.book .m bank 0 0]
  guardedC s .m o.g true (mChecks s false ea (eaOff ea % e.bytes == 0) false bs) fun s =>
    let s := s.taintIf (anyPsn (s.me.readA o.base).psn)
    let cells := (List.range e.bytes).map fun i => some (eaOff ea + i)
    let v := s.myTile.readCells bank cells
    ((s.readNow bank cells).addBookings bs).landG .m 3 o.d (some .ld)
      ⟨BitVec.ofInt 32 (intOfCode signed (sizeBits e) (v.val.toNat % 2 ^ sizeBits e)), allMarks (anyPsn v.psn) 1⟩

/-- A scalar store (R211). -/
def mStore (s : State) (o : MS 6) (e : Size) : Host.Outcome State Fault Refusal :=
  let ea := eaOf s o.base o.ofs e.bytes
  let bank := s.bankAt ea
  let bs := [s.book .m bank 2 2]
  guardedC s .m o.g true (mChecks s true ea (eaOff ea % e.bytes == 0) false bs) fun s =>
    let s := s.taintIf (anyPsn (s.me.readA o.base).psn)
    let v := s.me.readG o.d
    (s.addBookings bs).planWrite .m 0 2 bank
      ((List.range e.bytes).map fun i => ⟨eaOff ea + i, byteOf v.val i, anyPsn v.psn⟩)

/-- What a lane load does with its cells in one register: the value and a check of the code. -/
def laneLoad (s : State) (bank : BitVec 6) (en : Mask) (cells : List Nat) : MVec × State :=
  let c := maskCells en cells
  (s.myTile.readCells bank c, s.readNow bank c)

/-- A one-register lane load of given cells (R212, R215). -/
def mLoadV (s : State) (d : Dst 6) (g : Guard) (valid : Bool) (ea : BitVec 56) (ok : Bool) (cross : Mask → Bool)
    (psn : Bool) (cells : List Nat) : Host.Outcome State Fault Refusal :=
  let bank := s.bankAt ea
  let bs := [s.book .m bank 0 0]
  lanedC s .m g valid (fun en => mChecks s false ea ok (cross en) bs) fun en s =>
    if en = 0 then s.landV .m 3 d (some .ld) 0 (.clean 0)
    else
      let s := (s.taintIf psn).addBookings bs
      let r := laneLoad s bank en cells
      r.2.landV .m 3 d (some .ld) en r.1

/-- A one-register lane store (R212, R215). -/
def mStoreV (s : State) (d : BitVec 6) (g : Guard) (valid : Bool) (ea : BitVec 56) (ok : Bool) (cross : Mask → Bool)
    (psn : Bool) (cells : List Nat) : Host.Outcome State Fault Refusal :=
  let bank := s.bankAt ea
  let bs := [s.book .m bank 2 2]
  lanedC s .m g valid (fun en => mChecks s true ea ok (cross en) bs) fun en s =>
    if en = 0 then s
    else ((s.taintIf psn).addBookings bs).planWrite .m 0 2 bank (bytesAt (s.me.readV d) (maskCells en cells))

/-- A pair load: the first register at t, the second at t + 1, both land at t + 3 (R206, R213). -/
def mLoadPair (s : State) (d : Dst 5) (g : Guard) (valid : Bool) (ea : BitVec 56) (ok : Bool) (cross : Mask → Bool)
    (psn : Bool) (cells cells2 : List Nat) : Host.Outcome State Fault Refusal :=
  let bank := s.bankAt ea
  let bs := [s.book .m bank 0 1]
  lanedC s .m g valid (fun en => mChecks s false ea ok (cross en) bs) fun en s =>
    if en = 0 then s.landPair .m 3 d (some .ld) 0 (.clean 0) (.clean 0)
    else
      let s := (s.taintIf psn).addBookings bs
      let r := laneLoad s bank en cells
      r.2.planRead .m 0 1 3 none (.pair s.focus s.me.taint r.1 d bank (maskCells en cells2) en)

/-- A pair store: both registers are committed together at the end of t + 2 (R206, R213). -/
def mStorePair (s : State) (d : BitVec 5) (g : Guard) (ea : BitVec 56) (ok : Bool) (cross : Bool)
    (psn : Bool) (cells cells2 : List Nat) : Host.Outcome State Fault Refusal :=
  let bank := s.bankAt ea
  let bs := [s.book .m bank 1 2]
  lanedC s .m g true (fun _ => mChecks s true ea ok cross bs) fun en s =>
    if en = 0 then s
    else ((s.taintIf psn).addBookings bs).planWrite .m 0 2 bank
      (bytesAt (s.me.readV (d ++ 0#1)) (maskCells en cells) ++ bytesAt (s.me.readV (d ++ 1#1)) (maskCells en cells2))

/-! ## `ld` and `st` (R211) -/

def execLdB (o : MA 6) (s : State) := mLoad s o .b true
def execLdBn (o : MA 6) (s : State) := mLoad s o .b false
def execLdH (o : MA 6) (s : State) := mLoad s o .h true
def execLdHn (o : MA 6) (s : State) := mLoad s o .h false
def execLdW (o : MA 6) (s : State) := mLoad s o .w false
def execStB (o : MS 6) (s : State) := mStore s o .b
def execStH (o : MS 6) (s : State) := mStore s o .h
def execStW (o : MS 6) (s : State) := mStore s o .w

/-! ## `vld` and `vst` (R212) -/

/-- The `vld` of an orientation. -/
def vldAt (o : MA 6) (r : Orient) (s : State) : Host.Outcome State Fault Refusal :=
  let ea := eaOf s o.base o.ofs (scaleOf r)
  mLoadV s o.d o.g true ea (aligned r (eaOff ea)) (fun _ => false) (anyPsn (s.me.readA o.base).psn) (cellsOf r (eaOff ea))

/-- The `vst` of an orientation. -/
def vstAt (o : MS 6) (r : Orient) (s : State) : Host.Outcome State Fault Refusal :=
  let ea := eaOf s o.base o.ofs (scaleOf r)
  mStoreV s o.d o.g true ea (aligned r (eaOff ea)) (fun _ => false) (anyPsn (s.me.readA o.base).psn) (cellsOf r (eaOff ea))

def execVldRow (o : MA 6) (s : State) := vldAt o .row s
def execVldCol (o : MA 6) (e : Size) (s : State) := vldAt o (.col e) s
def execVstRow (o : MS 6) (s : State) := vstAt o .row s
def execVstCol (o : MS 6) (e : Size) (s : State) := vstAt o (.col e) s

/-! ## `vld2` and `vst2` (R213) -/

/-- Where the second register's cells start: the next row, or the next columns. -/
def nextCells (r : Orient) (o : Nat) : List Nat :=
  match r with
  | .row => cellsRow (o + 64)
  | .col e => cellsCol e.bytes (o + e.bytes)

/-- Whether the pair leaves its plate. -/
def pairLeaves (r : Orient) (o : Nat) : Bool :=
  match r with
  | .row => o / 64 % 64 == 63
  | .col e => decide (o % 64 + 2 * e.bytes > 64)

def execVld2 (o : MA 5) (r : Orient) (s : State) : Host.Outcome State Fault Refusal :=
  let ea := eaOf s o.base o.ofs (scaleOf r)
  mLoadPair s o.d o.g true ea (aligned r (eaOff ea)) (fun _ => pairLeaves r (eaOff ea))
    (anyPsn (s.me.readA o.base).psn) (cellsOf r (eaOff ea)) (nextCells r (eaOff ea))

def execVst2 (o : MS 5) (r : Orient) (s : State) : Host.Outcome State Fault Refusal :=
  let ea := eaOf s o.base o.ofs (scaleOf r)
  mStorePair s o.d o.g ea (aligned r (eaOff ea)) (pairLeaves r (eaOff ea))
    (anyPsn (s.me.readA o.base).psn) (cellsOf r (eaOff ea)) (nextCells r (eaOff ea))

/-! ## `vldd` (R214) -/

/-- The lane value of an element: exact in fp32, or extended to 32 bits. -/
def decodeLane (f : Fmt) (c : Nat) : Nat :=
  match f with
  | .int t => codeOfInt 32 (intOfCode t.signed (8 * t.size.bytes) c)
  | f => convert f (.flt .fp32) .rne false c 0

/-- The byte offsets of lane i. -/
def lddCells (col : Bool) (k o i : Nat) : List Nat :=
  (List.range k).map fun b => if col then o + 64 * i + b else o + k * i + b

/-- Alignment of a `vldd`. -/
def lddAligned (col : Bool) (k o : Nat) : Bool :=
  if col then decide (o % 64 % k = 0 ∧ o / 64 % 64 % 16 = 0) else o % (16 * k) == 0

/-- `vldd` in one of its two orientations. -/
def vlddAt (o : MA 6) (col : Bool) (s : State) : Host.Outcome State Fault Refusal :=
  let ea := eaOf s o.base o.ofs (if col then 1 else 64)
  let bank := s.bankAt ea
  let f := s.myTile.fmts.at bank
  let k := f.width / 8
  let bs := [s.book .m bank 0 0]
  lanedC s .m o.g true (fun _ => mChecks s false ea (lddAligned col k (eaOff ea)) false bs) fun en s =>
    if en = 0 then s.landV .m 3 o.d (some .ld) 0 (.clean 0)
    else
      let s := (s.taintIf (anyPsn (s.me.readA o.base).psn)).addBookings bs
      let lane := fun i => (lddCells col k (eaOff ea) i).map fun c => s.myTile.byteView bank c
      let v : MVec := ⟨vecOf 32 ((List.range 16).map fun i => decodeLane f (leNat ((lane i).map fun p => p.1))),
        (List.range 16).foldl (fun acc i =>
          if en.getLsbD i && (lane i).any fun p => p.2 then acc ||| (1 <<< (i / 2)) else acc) 0⟩
      let cells := (((List.range 16).filter fun i => en.getLsbD i).map fun i => lddCells col k (eaOff ea) i).flatten
      (s.readNow bank (cells.map some)).landV .m 3 o.d (some .ld) en v

def execVlddRow (o : MA 6) (s : State) := vlddAt o false s
def execVlddCol (o : MA 6) (s : State) := vlddAt o true s

/-! ## Gather and scatter (R215) -/

/-- The marks of the index register that enabled lanes use. -/
def idxPsn (s : State) (g : Guard) (v : MVec) : Bool := anyPsn (v.psn &&& granules (s.guard g).val)

def execVgt (o : MX 6) (e : Size) (s : State) : Host.Outcome State Fault Refusal :=
  let ea := eaMx s o.base
  let idx := s.me.srcV o.sx
  mLoadV s o.d o.g (s.me.ok o.sx) ea (eaOff ea % 4096 == 0) (fun en => gatherLeaves e.bytes en idx.val)
    (anyPsn (s.me.readA o.base).psn || idxPsn s o.g idx) (cellsGather e.bytes (eaOff ea) idx.val)

def execVgt2 (o : MX 5) (e : Size) (s : State) : Host.Outcome State Fault Refusal :=
  let ea := eaMx s o.base
  let idx := s.me.srcV o.sx
  mLoadPair s o.d o.g (s.me.ok o.sx) ea (eaOff ea % 4096 == 0)
    (fun en => eaOff ea / 4096 == 15 || gatherLeaves e.bytes en idx.val)
    (anyPsn (s.me.readA o.base).psn || idxPsn s o.g idx) (cellsGather e.bytes (eaOff ea) idx.val)
    (cellsGather e.bytes (eaOff ea + 4096) idx.val)

def execVsc (o : MXS) (e : Size) (s : State) : Host.Outcome State Fault Refusal :=
  let ea := eaMx s o.base
  let idx := s.me.srcV o.sx
  mStoreV s o.d o.g (s.me.ok o.sx) ea (eaOff ea % 4096 == 0) (fun en => gatherLeaves e.bytes en idx.val)
    (anyPsn (s.me.readA o.base).psn || idxPsn s o.g idx) (cellsGather e.bytes (eaOff ea) idx.val)

/-! ## Atomic operations (R332, R333) -/

/-- The new word of an atomic operation. -/
def AmoOp.apply (op : AmoOp) (old x cmp : Word) : Word :=
  match op with
  | .add => old + x
  | .and => old &&& x
  | .or => old ||| x
  | .xor => old ^^^ x
  | .min => if old.toInt ≤ x.toInt then old else x
  | .max => if old.toInt ≤ x.toInt then x else old
  | .xchg => x
  | .cas => if old = cmp then x else old

/-- An `amo`: the bank at t + 1, its window at t + 2 and t + 3, the old value at t + 4 (R332, R333). -/
def mAmo (s : State) (op : AmoOp) (d : Dst 6) (cmp : MWord) (base : BitVec 4) (sx : Src 6) (g : Guard) :
    Host.Outcome State Fault Refusal :=
  let ea := eaMx s base
  let bank := s.bankAt ea
  let bs := [s.book .m bank 1 1, s.book .m bank 2 3 true]
  guardedC s .m g (s.me.ok sx) (mChecks s true ea (eaOff ea % 4 == 0) false bs) fun s =>
    let s := (s.taintIf (anyPsn (s.me.readA base).psn)).addBookings bs
    s.planRead .m 0 1 4 (some (s.t + 4)) (.amo s.focus s.me.taint op bank (eaOff ea) (s.me.srcG sx) cmp d)

def execAmoAdd (o : MX 6) (s : State) := mAmo s .add o.d (.clean 0) o.base o.sx o.g
def execAmoAnd (o : MX 6) (s : State) := mAmo s .and o.d (.clean 0) o.base o.sx o.g
def execAmoOr (o : MX 6) (s : State) := mAmo s .or o.d (.clean 0) o.base o.sx o.g
def execAmoXor (o : MX 6) (s : State) := mAmo s .xor o.d (.clean 0) o.base o.sx o.g
def execAmoMin (o : MX 6) (s : State) := mAmo s .min o.d (.clean 0) o.base o.sx o.g
def execAmoMax (o : MX 6) (s : State) := mAmo s .max o.d (.clean 0) o.base o.sx o.g
def execAmoXchg (o : MX 6) (s : State) := mAmo s .xchg o.d (.clean 0) o.base o.sx o.g
def execAmoCas (w : Bool) (o : MXS) (s : State) :=
  mAmo s .cas (if w then .none else .reg o.d) (s.me.readG o.d) o.base o.sx o.g

/-! ## Ordered reductions (R334) -/

/-- The entries of the tile that enter its reorder buffer at the next tick. -/
def enteringRed (s : State) : List RedEntry :=
  s.agenda.filterMap fun e =>
    match e.act with
    | .ev (.resultLanding st (.redEntry r)) => if st.tile = s.focus.tile then some r else none
    | _ => none

/-- Reduction sequence (0x52): the index is out of the window or taken (R334). -/
def redRefused (s : State) (i : Word) : Bool :=
  decide ((i - s.myTile.redN).toNat ≥ 32) || s.myTile.redBuf.any (fun r => r.idx == i)
    || (enteringRed s).any fun r => r.idx == i

/-- A `red`: its entry enters the reorder buffer at t + 1, with no lane enabled too (R334). -/
def mRed (s : State) (kind : RedKind) (o : MXS) : Host.Outcome State Fault Refusal :=
  let ea := eaMx s o.base
  let en := (s.guard o.g).val
  let k := s.guard o.g
  if s.me.ok o.sx = false then .next (s.fault .m 0x03)
  else
    let i := s.me.srcG o.sx
    .next (s.checked .m
      (firstFault ((if en = 0 then [] else s.reach true ea ++ [(eaOff ea % 64 != 0, 0x12, eaDatum ea)]) ++
        [(redRefused s i.val, 0x52, 0)]))
      (let s := (s.taintIf (anyPsn k.psn)).taintIf (en != 0 && anyPsn (s.me.readA o.base).psn)
       s.plan ⟨s.focus.tile.claim, s.t + 1, phLand, 0, s.t, SlotClass.m.index, some s.focus, none, 0, 0,
         .ev (.resultLanding s.focus (.redEntry
           ⟨i.val, s.focus.core, s.t, s.bankAt ea, eaOff ea / 64, s.me.mark (s.me.readV o.d), en, kind⟩))⟩))

def execRedF32 (o : MXS) (s : State) := mRed s .f32 o
def execRedS32 (o : MXS) (s : State) := mRed s .s32 o

end Sys2Proof.Machine
end

