-- ==== Sys2Proof/Machine/Stream.lean ====
section
/-!
DEFINITION. Conditional streams (spec/07 R187 to R194): the X forms that push, pop, count and reset.
-/

namespace Sys2Proof.Machine

/-- The byte offset of record r of a stream with head h (R187). -/
def recordOff (h : Nat) (r : Nat) : Nat := 4 * ((h + r) % 16384)

/-- The cells of 16 records from a head. -/
def recordCells (h : Nat) : List (Option Nat) :=
  ((List.range 16).map fun r => (List.range 4).map fun b => some (recordOff h r + b)).flatten

/-- The enabled lanes of a vector as records' bytes, in lane order (R190). -/
def pushBytes (h c : Nat) (en : Mask) (v : MVec) : List BankByte :=
  (((List.range 16).filter fun i => en.getLsbD i).zipIdx.map fun p =>
    (List.range 4).map fun b =>
      (⟨recordOff h (c + p.2) + b, byteOf v.val (4 * p.1 + b), v.psn.getLsbD (p.1 / 2)⟩ : BankByte)).flatten

/-- A stream change that takes effect at t + 1 (R190 to R193). -/
def streamAt (s : State) (bank : BitVec 6) (c : StreamChange) : State := s.land .x 1 (.stream bank c)

/-- `spush` (R189, R190): its checks in R189's order, the window of an `amo` (R333) after them.
DESIGN CHOICE: notes/assumptions/54.md. -/
def execSpush (m : BitVec 6) (a : Src 6) (g : Guard) (s : State) : Host.Outcome State Fault Refusal :=
  let e := s.entry m
  let st := s.myTile.streams.at e.bank
  let bs := [s.book .x e.bank 2 2]
  lanedC s .x g (s.me.ok a)
    (fun en => firstFault [(!e.st.usable, 0x10, 0), (e.st == .read, 0x11, 0),
      (decide (st.c + popcount en > 16384), 0x15, 0), (s.windowHit bs, 0x14, 0)])
    fun en s =>
      if en = 0 then s
      else streamAt ((s.addBookings bs).planWrite .x 1 2 e.bank (pushBytes st.h.toNat st.c en (s.me.srcV a))) e.bank
        (.push (popcount en))

/-- The wait condition of `spop` (R191). -/
def spopCond (s : State) (m : BitVec 6) : WaitResult :=
  let e := s.entry m
  match e.st with
  | .owned | .lent => if (s.myTile.streams.at e.bank).c ≥ 16 then .met else .unmet
  | .read => .fault 0x11 0
  | .detached | .leaving | .arriving => if s.me.span then .unmet else .fault 0x10 0

/-- `spop` (R191): the window of an `amo` (R333) is checked where its wait condition is met.
DESIGN CHOICE: notes/assumptions/54.md. -/
def execSpop (d : Dst 6) (m : BitVec 6) (g : Guard) (s : State) : Host.Outcome State Fault Refusal :=
  let k := s.guard g
  if k.val.getLsbD 0 = false then .next (s.taintIf (anyPsn k.psn))
  else
    let e := s.entry m
    let bs := [s.book .x e.bank 2 2]
    waits s .x (spopCond s m) (anyPsn k.psn)
      (s.checked .x (firstFault [(s.windowHit bs, 0x14, 0)])
        (let s := (s.taintIf (anyPsn k.psn)).addBookings bs
         (streamAt s e.bank .pop).planRead .x 1 2 3 none
           (.pop s.focus s.me.taint e.bank (s.myTile.streams.at e.bank).h d)))

def execScnt (d : Dst 6) (m : BitVec 6) (g : Guard) (s : State) : Host.Outcome State Fault Refusal :=
  let e := s.entry m
  let st := s.myTile.streams.at e.bank
  guardedC s .x g true (firstFault [(!e.st.usable, 0x10, 0)]) fun s =>
    s.landG .x 1 d (some .cv) (.clean (BitVec.ofNat 32 (st.h.toNat * 65536 + st.c)))

def execSreset (m : BitVec 6) (g : Guard) (s : State) : Host.Outcome State Fault Refusal :=
  let e := s.entry m
  guardedC s .x g true (firstFault [(!e.st.usable, 0x10, 0), (e.st == .read, 0x11, 0)]) fun s =>
    streamAt s e.bank .reset

end Sys2Proof.Machine
end

