-- ==== Sys2Proof/Machine/Switch.lean ====
section
/-!
DEFINITION. The bank-switch forms (spec/08 R202, R216 to R225): maps, gives, lends, returns, rotations, formats, zeroing
and copies.
-/

namespace Sys2Proof.Machine

/-! ## Entries -/

/-- Writes a map entry of a core of a tile. -/
def setEntry (s : State) (t : TileId) (core : BitVec 2) (slot : BitVec 6) (e : MapEntry) : State :=
  s.modCore ⟨t, core⟩ fun c => { c with map := c.map.put slot e }

/-- A map entry of a core of a tile. -/
def entryIn (s : State) (t : TileId) (core : BitVec 2) (slot : BitVec 6) : MapEntry := ((s.coreOf ⟨t, core⟩).map).at slot

/-- The cores of a tile. -/
def allCores : List (BitVec 2) := [0, 1, 2, 3]

/-- The 64 map slots. -/
def allSlots : List (BitVec 6) := (List.range 64).map fun i => BitVec.ofNat 6 i

/-- The entries of a tile that hold a bank in a state the predicate admits. -/
def holders (s : State) (t : TileId) (bank : BitVec 6) (p : MapSt → Bool) : List (BitVec 2 × BitVec 6) :=
  (allCores.map fun c => (allSlots.filter fun u =>
    (entryIn s t c u).bank == bank && p (entryIn s t c u).st).map fun u => (c, u)).flatten

/-- Names that a change of another core, presented in this tick, names too (R216). -/
def namesConflict (s : State) (names : List (BitVec 2 × BitVec 6)) : Bool :=
  s.myTile.intents.any fun p => p.1 != s.focus.core &&
    match p.2 with
    | .change n _ => n.any fun x => names.any fun y => x == y
    | .withdraw u _ => names.contains (p.1, u)
    | .rotate _ _ | .send _ | .book _ | .retire => false

/-- Makes a change: its marks at t, its effect at t + 4 (R216). -/
def change (s : State) (names : List (BitVec 2 × BitVec 6)) (marks : List (BitVec 2 × BitVec 6 × MapEntry))
    (ch : MapChange) : State :=
  let s := s.addIntent (.change names marks)
  let s := marks.foldl (fun s m => setEntry s s.focus.tile m.1 m.2.1 m.2.2) s
  s.plan ⟨s.focus.tile.claim, s.t + 4, phLand, 0, s.t, SlotClass.x.index, some s.focus, some (s.t + 4), s.t + 4, 0,
    .ev (.mapChangeEffect s.focus.tile ch)⟩

/-! ## `bmap` (R202) -/

/-- One bit per core that satisfies a predicate. DEDUCED: notes/assumptions/34.md. -/
def coreBits (p : BitVec 2 → Bool) : Nat := (allCores.map fun c => if p c then 2 ^ c.toNat else 0).foldl (· + ·) 0

/-- The state codes of R199. -/
def MapSt.code : MapSt → Nat
  | .detached => 0 | .owned => 1 | .lent => 2 | .read => 3 | .leaving => 4 | .arriving => 5

/-- The word that `bmap` writes for an entry. -/
def bmapWord (s : State) (e : MapEntry) : Word :=
  if e.st = .detached then 0
  else
    let home := match s.myTile.homes.at e.bank with | some h => h.2.toNat * 32768 + h.1.toNat * 8192 | none => 0
    let has := fun (p : MapSt → Bool) (c : BitVec 2) => allSlots.any fun u => (s.entryOf c u).bank == e.bank && p (s.entryOf c u).st
    let cores := match e.st with
      | .lent => coreBits (has fun x => x == .read)
      | .read => coreBits (has MapSt.writable)
      | _ => 0
    BitVec.ofNat 32 (home + cores * 512 + e.st.code * 64 + e.bank.toNat)

def execBmap (d : Dst 6) (m : BitVec 6) (g : Guard) (s : State) : Host.Outcome State Fault Refusal :=
  guarded s .x g true fun s => s.landG .x 2 d (some .cv) (.clean (bmapWord s (s.entry m)))

/-! ## Give, lend and return (R217 to R219) -/

/-- The faults of an entry that a change moves: 0x10 for 0, 4, 5 and 0x11 for 3. DEDUCED: notes/assumptions/35.md. -/
def ownChecks (e : MapEntry) : List (Bool × Byte × Quad) := [(!e.st.usable, 0x10, 0), (e.st == .read, 0x11, 0)]

def execBgive (o : XB) (core : BitVec 2) (u : BitVec 6) (s : State) : Host.Outcome State Fault Refusal :=
  let e := s.rawEntry s.focus.core o.s
  let r := s.rawEntry core u
  let names := [(s.focus.core, o.s), (core, u)]
  guardedC s .x o.g true
    (firstFault (ownChecks e ++ [(e.st == .lent || r.st != .detached, 0x16, 0), (namesConflict s names, 0x16, 0)]))
    fun s => change s names [(s.focus.core, o.s, ⟨.leaving, e.bank⟩), (core, u, ⟨.arriving, e.bank⟩)]
      (.give s.focus.core o.s core u e.bank)

def execBlend (o : XB) (u : BitVec 6) (mask : BitVec 4) (s : State) : Host.Outcome State Fault Refusal :=
  let e := s.rawEntry s.focus.core o.s
  let rs := allCores.filter fun c => mask.getLsbD c.toNat
  let names := (s.focus.core, o.s) :: rs.map fun c => (c, u)
  guardedC s .x o.g true
    (firstFault (ownChecks e ++
      [(e.st == .lent || rs.any fun c => (s.rawEntry c u).st != .detached, 0x16, 0), (namesConflict s names, 0x16, 0)]))
    fun s => change s names (rs.map fun c => (c, u, ⟨.arriving, e.bank⟩)) (.lend s.focus.core o.s mask u e.bank)

def execBback (o : XB) (s : State) : Host.Outcome State Fault Refusal :=
  let me := s.focus.core
  let e := s.rawEntry me o.s
  let own := (me, o.s)
  match e.st with
  | .detached | .leaving | .arriving => guardedC s .x o.g true (some (0x10, 0)) fun s => s
  | .read =>
    guardedC s .x o.g true (firstFault [(namesConflict s [own], 0x16, 0)])
      fun s => change s [own] [(me, o.s, ⟨.leaving, e.bank⟩)] (.withdraw [own] e.bank)
  | .lent =>
    let rs := holders s s.focus.tile e.bank fun x => x == .read
    guardedC s .x o.g true (firstFault [(namesConflict s (own :: rs), 0x16, 0)])
      fun s => change s (own :: rs) (rs.map fun r => (r.1, r.2, ⟨.leaving, e.bank⟩)) (.withdraw rs e.bank)
  | .owned =>
    match s.myTile.homes.at e.bank with
    | none => guardedC s .x o.g true none fun s => s
    | some h =>
      if h = own then guardedC s .x o.g true none fun s => s
      else
        guardedC s .x o.g true
          (firstFault [((s.rawEntry h.1 h.2).st != .detached, 0x16, 0), (namesConflict s [own, h], 0x16, 0)])
          fun s => change s [own, h] [(me, o.s, ⟨.leaving, e.bank⟩), (h.1, h.2, ⟨.arriving, e.bank⟩)]
            (.back me o.s h.1 h.2 e.bank)

/-! ## Rotation (R220) -/

/-- Whether a core holds a live strand: placed by the image and not retired by this tick (R220). -/
def liveCore (s : State) (t : TileId) (c : BitVec 2) : Bool :=
  (s.coreOf ⟨t, c⟩).status != .absent && (s.coreOf ⟨t, c⟩).status != .retired &&
    !((s.tileOf t).intents.any fun p => p.1 == c && p.2 == .retire)

/-- Whether a core presents an enabled `brot` of this slot and direction in this tick. -/
def presentsBrot (s : State) (c : BitVec 2) (slot : BitVec 6) (rev : Bool) : Bool :=
  c == s.focus.core || s.myTile.intents.any fun p => p.1 == c && p.2 == .rotate slot rev

/-- The last live core in that order: it makes the quartet's rotation. -/
def lastLive (s : State) : Option (BitVec 2) :=
  ((coreOrder s.t).filter fun c => liveCore s s.focus.tile c).getLast?

/-- Entries that a rotation names and another change of this tick names too; the `brot` forms of one rotation do not
conflict with one another (R216). -/
def rotationConflict (s : State) (slot : BitVec 6) (rev : Bool) : Bool :=
  let others := s.myTile.intents.filter fun p => !(s.myTile.intents.contains (p.1, .rotate slot rev))
  namesConflict (s.modTile s.focus.tile fun x => { x with intents := others }) (allCores.map fun c => (c, slot))

/-- A rotation of entry `slot` of the quartet, made by the last live core; the change that each other core issued is its
share of it, in force at the same tick (R97, R109, R220). Every entry is in state 4 until then, a detached one with bank 0.
In a strand's retirement tick the entry that it withdraws is that of a core without a live strand, which comes before the
conflict of R225. DESIGN CHOICE: notes/assumptions/54.md. -/
def rotate (s : State) (o : XB) (rev : Bool) : Host.Outcome State Fault Refusal :=
  let e := s.rawEntry s.focus.core o.s
  let names := allCores.map fun c => (c, o.s)
  let still := fun (x : MapEntry) => x.st == .detached || x.st == .owned
  let quorum := allCores.all fun c => !liveCore s s.focus.tile c || presentsBrot s c o.s rev
  let others := allCores.all fun c => c == s.focus.core || still (s.rawEntry c o.s)
  guardedC s .x o.g true
    (firstFault [(!quorum, 0x50, 0), (e.st == .leaving || e.st == .arriving, 0x10, 0), (!still e, 0x16, 0),
      (!others, 0x50, 0), (rotationConflict s o.s rev, 0x16, 0)])
    fun s =>
      let s' := (s.addIntent (.rotate o.s rev)).addIntent (.change [] [(s.focus.core, o.s, ⟨.leaving, e.bank⟩)])
      if lastLive s = some s.focus.core then
        change s' names (allCores.map fun c => (c, o.s, ⟨.leaving, (s.rawEntry c o.s).bank⟩))
          (.rotate o.s rev (allCores.map fun c =>
            if (s.rawEntry c o.s).st = .owned then some (s.rawEntry c o.s).bank else none))
      else s'.plan ⟨s.focus.tile.claim, s.t + 4, phLand, 0, s.t, SlotClass.x.index, some s.focus, some (s.t + 4), s.t + 4, 0,
        .ev (.mapChangeEffect s.focus.tile (.rotate o.s rev []))⟩

def execBrot (o : XB) (s : State) : Host.Outcome State Fault Refusal := rotate s o false
def execBrotRev (o : XB) (s : State) : Host.Outcome State Fault Refusal := rotate s o true

/-! ## The effects of changes, four ticks after issue (R216 to R220) -/

/-- The owner's entry becomes owned when no read mapping of its bank remains (R219). -/
def settleOwner (s : State) (t : TileId) (bank : BitVec 6) : State :=
  if (holders s t bank fun x => x == .read || x == .leaving).isEmpty then
    (holders s t bank fun x => x == .lent).foldl (fun s h => setEntry s t h.1 h.2 ⟨.owned, bank⟩) s
  else s

/-- A change takes effect. -/
def applyChange (s : State) (t : TileId) : MapChange → State
  | .give fc fs tc ts bank => setEntry (setEntry s t fc fs ⟨.detached, 0⟩) t tc ts ⟨.owned, bank⟩
  | .back fc fs tc ts bank => setEntry (setEntry s t fc fs ⟨.detached, 0⟩) t tc ts ⟨.owned, bank⟩
  | .lend core slot readers u bank =>
    setEntry ((allCores.filter fun c => readers.getLsbD c.toNat).foldl (fun s c => setEntry s t c u ⟨.read, bank⟩) s)
      t core slot ⟨.lent, bank⟩
  | .withdraw gone bank => settleOwner (gone.foldl (fun s g => setEntry s t g.1 g.2 ⟨.detached, 0⟩) s) t bank
  | .rotate slot rev banks =>
    (allCores.zip banks).foldl (fun s p =>
      let d : BitVec 2 := if rev then p.1 + 3 else p.1 + 1
      match p.2 with
      | none => setEntry s t d slot ⟨.detached, 0⟩
      | some b => (setEntry s t d slot ⟨.owned, b⟩).modTile t fun x => { x with homes := x.homes.put b (some (d, slot)) }) s

/-- What the retirement of a strand asks of its tile: it is no longer live, its read mappings leave (R220, R225). -/
def retireIntents (s : State) (st : StrandId) : List (BitVec 2 × Intent) :=
  (st.core, .retire) :: (allSlots.filter fun u => (entryIn s st.tile st.core u).st == .read).map fun u =>
    (st.core, .withdraw u ⟨.leaving, (entryIn s st.tile st.core u).bank⟩)

/-- The withdrawals of a tick enter the maps when the tick closes: a change of the tick that names one meets it as a
conflict (R216, R225). -/
def applyWithdrawals (s : State) (t : TileId) : State :=
  ((s.tileOf t).intents.filter fun p => (s.coreOf ⟨t, p.1⟩).status == .retired).foldl (fun s p =>
    match p.2 with
    | .withdraw u e => setEntry s t p.1 u e
    | .change _ _ | .rotate _ _ | .send _ | .book _ | .retire => s) s

/-- The effect of the withdrawal of one read mapping at retirement, four ticks on (R225); the claim's completion does not
wait for it (R120). -/
def withdrawAt (s : State) (st : StrandId) (slot : BitVec 6) : State :=
  let bank := (entryIn s st.tile st.core slot).bank
  let n := s.now st.tile.claim
  s.plan ⟨st.tile.claim, n + 4, phLand, 0, n, 8, none, none, 0, 0,
    .ev (.mapChangeEffect st.tile (.withdraw [(st.core, slot)] bank))⟩

/-! ## Format, zero and copy (R222 to R224) -/

def execBfmt (o : XB) (fmt : Fmt) (s : State) : Host.Outcome State Fault Refusal :=
  let e := s.entry o.s
  guardedC s .x o.g true (firstFault (ownChecks e)) fun s =>
    s.plan ⟨s.focus.tile.claim, s.t + 4, phLand, 0, s.t, SlotClass.x.index, some s.focus, some (s.t + 4), s.t + 4, 0,
      .ev (.formatChangeEffect s.focus.tile e.bank fmt)⟩

/-- Row j of a `bzero`, committed at the end of t + 2 + j (R206). -/
def zeroRow (s : State) (bank : BitVec 6) (j : Nat) : State :=
  s.plan ⟨s.focus.tile.claim, s.t + 2 + j, phCommit, coreRank s.focus.core (s.t + 2 + j) 1, s.t, SlotClass.x.index,
    some s.focus, some (s.t + 3 + j), s.t + 3 + j, 0, .ev (.bankCommit s.focus.tile s.focus.core.toNat bank
      (if s.me.taint then .bytes (rowBytes j ⟨0, 0xFF⟩) else .zeroRow j))⟩

def execBzero (o : XB) (s : State) : Host.Outcome State Fault Refusal :=
  let e := s.entry o.s
  let bs := [s.book .x e.bank 2 1025]
  guardedC s .x o.g true (firstFault (ownChecks e ++ [(s.windowHit bs, 0x14, 0)])) fun s =>
    (List.range 1024).foldl (fun s j => zeroRow s e.bank j) (s.addBookings bs)

/-- `bcopy`: where several of its faults hold, 0x10 comes before 0x11, and the window's 0x14 last (R224, R333).
DESIGN CHOICE: notes/assumptions/54.md. -/
def execBcopy (o : XB) (src : BitVec 6) (plate cnt : BitVec 4) (s : State) : Host.Outcome State Fault Refusal :=
  let d := s.entry o.s
  let e := s.entry src
  let ff := s.myTile.fmts.at e.bank
  let tf := s.myTile.fmts.at d.bank
  let n := cnt.toNat + 1
  let bs := [s.book .x e.bank 3 (64 * n + 2), s.book .x d.bank 4 (64 * n + 3)]
  guardedC s .x o.g true
    (firstFault [(!d.st.usable || !e.st.usable, 0x10, 0), (d.st == .read, 0x11, 0), (d.bank == e.bank, 0x16, 0),
      (ff.width != tf.width, 0x17, 0), (s.windowHit bs, 0x14, 0)])
    fun s => (List.range (64 * n)).foldl (fun s' j =>
        s'.planRead .x 1 (3 + j) (5 + j) (some (s.t + 5 + j))
          (.copy s.focus s.me.taint s.t e.bank ff d.bank tf (64 * plate.toNat + j)))
      (s.addBookings bs)

/-- A row of a copy: unchanged between equal formats, else converted element by element (R224). -/
def copyRow (ff tf : Fmt) (v : MVec) : MVec :=
  if ff = tf then v else ⟨map1 ff.width (fun c => convert ff tf .rne false c 0) v.val, v.psn⟩

end Sys2Proof.Machine
end

