-- ==== Sys2Proof/Machine/Staging.lean ====
section
/-!
DEFINITION. The staging engines: contexts and the staging forms (spec/11 R298 to R301, R314), far addresses (R292 to
R297), the life of a command (R302 to R313).
-/

namespace Sys2Proof.Machine

/-! ## Context registers (R299, R300) -/

/-- Whether the register is read and written through the a file (F = 1). -/
def ctxRegWide : CtxReg → Bool
  | .far | .tick | .flag => true
  | .len | .cmd | .loc | .tag | .pitch | .fval | .tcount => false

def CtxRegs.get (r : CtxRegs) : CtxReg → Quad
  | .far => r.far | .len => r.len | .cmd => r.cmd | .loc => r.loc | .tag => r.tag | .tick => r.tick
  | .pitch => r.pitch | .flag => r.flag | .fval => r.fval | .tcount => r.tcount

def CtxRegs.put (r : CtxRegs) (i : CtxReg) (v : Quad) : CtxRegs :=
  match i with
  | .far => { r with far := v } | .len => { r with len := v } | .cmd => { r with cmd := v }
  | .loc => { r with loc := v } | .tag => { r with tag := v } | .tick => { r with tick := v }
  | .pitch => { r with pitch := v } | .flag => { r with flag := v } | .fval => { r with fval := v }
  | .tcount => { r with tcount := v }

namespace CtxRegs

def opc (r : CtxRegs) : Nat := (r.cmd.extractLsb' 0 2).toNat
def red (r : CtxRegs) : Nat := (r.cmd.extractLsb' 2 2).toNat
def conv (r : CtxRegs) : Bool := r.cmd.getLsbD 4
def ffmt (r : CtxRegs) : Option Fmt := Fmt.dec (r.cmd.extractLsb' 5 6)
def rnd (r : CtxRegs) : Rnd := (Rnd.dec (r.cmd.extractLsb' 11 3)).getD .rne
def sat (r : CtxRegs) : Bool := r.cmd.getLsbD 14
def fl (r : CtxRegs) : Bool := r.cmd.getLsbD 15
def isWrite (r : CtxRegs) : Bool := decide (r.opc ≥ 2)
def locX (r : CtxRegs) : Nat := (r.loc.extractLsb' 0 8).toNat
def locY (r : CtxRegs) : Nat := (r.loc.extractLsb' 8 8).toNat
def locBank (r : CtxRegs) : BitVec 6 := r.loc.extractLsb' 16 6
def row0 (r : CtxRegs) : Nat := (r.loc.extractLsb' 22 10).toNat
def dataTag (r : CtxRegs) : BitVec 12 := r.tag.extractLsb' 0 12
def flagTag (r : CtxRegs) : BitVec 12 := r.tag.extractLsb' 16 12
def flagX (r : CtxRegs) : Nat := (r.flag.extractLsb' 0 8).toNat
def flagY (r : CtxRegs) : Nat := (r.flag.extractLsb' 8 8).toNat
def flagBank (r : CtxRegs) : BitVec 6 := r.flag.extractLsb' 16 6
def flagWord (r : CtxRegs) : Nat := (r.flag.extractLsb' 24 14).toNat

/-- The invalid command words of R300. -/
def cmdInvalid (r : CtxRegs) : Bool :=
  (r.red != 0 && r.opc != 0) || ((r.conv || r.cmd.extractLsb' 5 6 != 0) && r.opc == 1)
    || (r.cmd.extractLsb' 5 6 != 0 && !r.conv) || decide (5 ≤ (r.cmd.extractLsb' 11 3).toNat)
    || (r.conv && r.ffmt.isNone) || r.cmd.extractLsb' 16 48 != 0

/-- Whether `stg.go` finds the shadow invalid (R314). A PITCH of 0 is let through, and the units of such a command share a tick
(R299). DESIGN CHOICE: notes/assumptions/39.md. -/
def invalid (r : CtxRegs) : Bool :=
  r.loc.extractLsb' 32 32 != 0 || r.tag.extractLsb' 12 4 != 0 || r.tag.extractLsb' 28 36 != 0
    || r.pitch.extractLsb' 16 48 != 0 || r.flag.extractLsb' 22 2 != 0 || r.flag.extractLsb' 38 26 != 0
    || r.far.extractLsb' 0 6 != 0 || r.len == 0 || r.len.extractLsb' 0 6 != 0 || r.cmdInvalid
    || (r.opc == 3 && r.tcount == 0)

end CtxRegs

/-- The engine context of a strand's local number (R298). -/
def bindingOf (s : State) (st : StrandId) (c : BitVec 8) : Option CtxId :=
  ((s.claimOf st.tile.claim).binds.find? fun b => b.st == st && b.c == c).map fun b => b.ctx

/-- Whether a context's tracked write waits to become active. -/
def Ctx.tracks (x : Ctx) : Bool :=
  match x.pending with
  | some (_, r) => r.opc == 3
  | none => false

/-- Whether a command's tracker is armed. -/
def Ctx.armed (x : Ctx) : Bool := x.cmds.any fun c => c.armed

/-- Whether the active command's request phase is not over (R299 STATE bit 1, R302). -/
def Ctx.isActive (x : Ctx) (n : Nat) : Bool :=
  x.armed || (match x.activeTill with | some e => decide (n < e) | none => false)

/-! ## The forms (R314) -/

def execStgSet (c : BitVec 8) (r : CtxReg) (a : Src 6) (s : State) : Host.Outcome State Fault Refusal :=
  let v := s.me.srcF (ctxRegWide r) a
  alwaysC s .e (s.me.ok a) (firstFault [((bindingOf s s.focus c).isNone, 0x43, 0)]) fun s =>
    (s.taintIf (anyPsn v.psn)).land .e 1 (.ctxReg c r v.val)

/-- The context of a local number; an unbound one reads as fresh. -/
def State.ctxFor (s : State) (c : BitVec 8) : Ctx :=
  match bindingOf s s.focus c with
  | some k => s.ctxOf k
  | none => .fresh

/-- `stg.go`: one form whose CMD selects the kind of command (R300, R301). Its own effect at t + 1 counts for the strand's
retirement tick (R97, R109). DESIGN CHOICE: notes/assumptions/53.md. -/
def stgGo (s : State) (c : BitVec 8) : Host.Outcome State Fault Refusal :=
  let b := bindingOf s s.focus c
  let x := s.ctxFor c
  alwaysC s .e true
    (firstFault [(s.me.span, 0x74, 0), (b.isNone || x.pending.isSome, 0x43, 0), (x.shadow.invalid, 0x44, 0)])
    fun s => s.land .e 1 (.ctxGo c)

def execReadToBank (n : BitVec 8) (s : State) := stgGo s n
def execReadToLandingBuffer (n : BitVec 8) (s : State) := stgGo s n
def execWrite (n : BitVec 8) (s : State) := stgGo s n
def execTrackedWrite (n : BitVec 8) (s : State) := stgGo s n

/-- The status registers (R299); an unbound context reads zero (R314). -/
def ctxStatus (b : Option CtxId) (x : Ctx) (n : Nat) : CtxStat → Quad
  | .state => BitVec.ofNat 64 ((if x.pending.isSome then 1 else 0) + (if x.isActive n then 2 else 0) + if x.armed then 4 else 0)
  | .issued => BitVec.ofNat 64 x.issued
  | .active => BitVec.ofNat 64 x.activeNum
  | .bind => match b with
    | none => 0
    | some k => BitVec.ofNat 64 (2 ^ 31 + k.ctx * 32 + k.engine)

/-- `stg.rd`: a shadow or status register (R314). -/
def execStgRd (d : BitVec 6) (c : BitVec 8) (r : CtxName) (s : State) : Host.Outcome State Fault Refusal :=
  let x := s.ctxFor c
  let v := match r with
    | .reg r => x.shadow.get r
    | .stat r => ctxStatus (bindingOf s s.focus c) x s.t r
  let wide : Bool := match r with
    | .reg r => ctxRegWide r
    | .stat r => r == .issued || r == .active
  .next (if wide then s.landA .e 2 (.reg (d.setWidth 4)) Option.none (.clean v)
    else s.landG .e 2 (.reg d) Option.none (.clean (v.setWidth 32)))

/-- The wait condition of `tl.wait` (R309, R314). -/
def tlWaitCond (s : State) (c : BitVec 8) (a : Src 4) : WaitResult :=
  let n := (s.me.srcA a).val.toNat
  let x := s.ctxFor c
  if (bindingOf s s.focus c).isNone || decide (n > x.issued) then .fault 0x43 0
  else if n ≤ x.timeline then .met
  else .unmet

def execTlWait (c : BitVec 8) (a : Src 4) (s : State) : Host.Outcome State Fault Refusal :=
  if s.me.ok a = false then .next (s.fault .e 0x03)
  else waits s .e (tlWaitCond s c a) (anyPsn (s.me.srcA a).psn) (s.taintIf (anyPsn (s.me.srcA a).psn))

def execTlRd (d : BitVec 4) (c : BitVec 8) (s : State) : Host.Outcome State Fault Refusal :=
  .next (s.landA .e 2 (.reg d) Option.none (.clean (BitVec.ofNat 64 (s.ctxFor c).timeline)))

/-! ## Far memory (R292, R296, R403) -/

/-- 3 x 2^40. -/
def farLimit : Nat := 3 * 2 ^ 40

/-- The bits that a read of an 8-byte piece delivers and whether its code failed. -/
def farView (s : State) (p : Nat) : BitVec 64 × Bool :=
  match find s.farFlips p with
  | none => (wordAt s.far p, false)
  | some f => secded (wordAt s.far p) f

/-- A far byte with its mark. -/
def farByte (s : State) (a : Nat) : Byte × Bool :=
  match find s.farFlips (a / 8) with
  | none => (s.far.read a, s.farMarks.contains (a / 8))
  | some _ => (byteOf (farView s (a / 8)).1 (a % 8), s.farMarks.contains (a / 8) || (farView s (a / 8)).2)

/-- The granule tag of a far byte. -/
def farTag (s : State) (a : Nat) : BitVec 4 := (find s.farTags (a / 32)).getD 0

/-- Whether a write covers all eight bytes of a piece with clean data. -/
def coversClean (l : List (Nat × Byte × Bool)) (p : Nat) : Bool :=
  (List.range 8).all (fun j => l.any fun b => b.1 == 8 * p + j) && !(l.any fun b => b.1 / 8 == p && b.2.2)

/-- Writes bytes with their marks: poisoned data marks its piece, clean data clears the mark of a piece that it covers whole
and keeps it where it covers part (R343); written pieces lose their flips (R403). DEDUCED: notes/assumptions/45.md. -/
def farWrite (s : State) (l : List (Nat × Byte × Bool)) : State :=
  l.foldl (fun s b => { s with
    far := s.far.write b.1 b.2.1
    farMarks := if b.2.2 then setInsert s.farMarks (b.1 / 8) else s.farMarks
    farFlips := drop s.farFlips (b.1 / 8) })
    { s with farMarks := s.farMarks.filter fun p => !coversClean l p }

/-- The host and the curator set granule tags (R296): a granule's number and its tag. -/
def setFarTags (s : State) (tags : List (Nat × BitVec 4)) : State :=
  { s with farTags := tags.foldl (fun l t => if 32 * t.1 < farLimit then (if t.2 = 0 then drop l t.1 else put l t.1 t.2) else l) s.farTags }

/-! ## Translation (R293 to R297) -/

/-- The levels of a walk from the root: shift and index bits. -/
def walkLevels : List (Nat × Nat) := [(34, 14), (29, 5), (21, 8), (16, 5)]

/-- What a walk finds: the leaf with its page shift, none where an entry is malformed; and the first piece on its way whose
code failed (R403). -/
structure WalkResult where
  leaf : Option (Nat × BitVec 64)
  bad : Option Nat
  deriving DecidableEq, Repr

/-- A walk from a table, whose entries are read as `view` delivers far pieces (R294, R344). -/
def walkFrom (view : Nat → BitVec 64 × Bool) (v : Nat) : List (Nat × Nat) → Nat → Option Nat → WalkResult
  | [], _, bad => ⟨none, bad⟩
  | (sh, bits) :: rest, base, bad =>
    let p := base / 8 + (v >>> sh) % 2 ^ bits
    let e := (view p).1
    let bad := bad.or (if (view p).2 then some p else none)
    let a := (e.extractLsb' 8 34).toNat * 256
    if !e.getLsbD 0 || e.extractLsb' 42 22 != 0 || e.extractLsb' 5 3 != 0 then ⟨none, bad⟩
    else if e.getLsbD 1 then
      if a % 2 ^ sh ≠ 0 ∨ a + 2 ^ sh > farLimit then ⟨none, bad⟩ else ⟨some (sh, e), bad⟩
    else
      match rest with
      | [] => ⟨none, bad⟩
      | (_, b) :: _ => if a % (8 * 2 ^ b) ≠ 0 ∨ a + 8 * 2 ^ b > farLimit then ⟨none, bad⟩ else walkFrom view v rest a bad

/-- The walk of a claim's table. -/
def walk (s : State) (cl v : Nat) : WalkResult :=
  let root := (s.claimOf cl).ptroot
  if root + 2 ^ 17 > farLimit then ⟨none, none⟩ else walkFrom (farView s) v walkLevels root none

/-- Where a stack error was found (R369). -/
def stackPlace (a : Nat) : Quad := BitVec.ofNat 64 a

/-- A walk that fills the TLB; an entry whose code fails is an uncorrectable error at the tick of the walk, against the issuing
strand's tile (R344). -/
def walkFill (s : State) (e : Nat) (t : TileId) (v : Nat) : State × Option (Nat × BitVec 64) :=
  let cl := t.claim
  let w := walk s cl v
  let s := match w.bad with
    | none => s
    | some p => uncorrectable s t 15 (stackPlace (8 * p))
  match w.leaf with
  | none => (s, none)
  | some (sh, leaf) =>
    ({ s with tlb := ⟨e, cl, v >>> sh, sh, leaf⟩ ::
        s.tlb.filter fun x => !(x.engine == e && x.claim == cl && x.size == sh && x.page == v >>> sh) }, some (sh, leaf))

/-- A lookup: a hit uses the entry held, where the engine still holds it (R295, log entry 5); a miss walks and fills; a
write through an entry with W = 0 walks once more. DEDUCED: notes/assumptions/18.md. -/
def lookup (s : State) (e : Nat) (t : TileId) (v : Nat) (write : Bool) : State × Option (Nat × BitVec 64) :=
  match s.tlb.find? fun x => x.engine == e && x.claim == t.claim && x.page == v >>> x.size with
  | none => walkFill s e t v
  | some x =>
    if Config.tlbDrops s.free then walkFill { s with free := s.free + 1 } e t v
    else
      let s := { s with free := s.free + 1 }
      if write && !x.leaf.getLsbD 3 then walkFill s e t v else (s, some (x.size, x.leaf))

/-- The outcome of translating one byte: out of the lease, permission denied, and the physical byte with its tag check. -/
structure ByteMap where
  out : Bool
  denied : Bool
  phys : Nat
  check : Bool
  deriving DecidableEq, Repr

/-- Whether the strand's heap window holds v[55:0] (R293). -/
def inWindow (c : Core) (v : Nat) : Bool := decide (c.heapOff.toNat ≤ v ∧ v < c.heapOff.toNat + c.heapLimit.toNat)

/-- One byte under the leaf of its page, or in the window (R293, R297). DEDUCED: notes/assumptions/37.md. -/
def mapByte (c : Core) (cl : Claim) (write : Bool) (leaf : Option (Nat × BitVec 64)) (v : Nat) : ByteMap :=
  if inWindow c v then
    let p := c.heapBase.toNat + (v - c.heapOff.toNat)
    ⟨decide (p ≥ farLimit), false, p, true⟩
  else
    let rs := cl.ranges.filter fun r => decide (r.addr ≤ v ∧ v < r.addr + r.len)
    match leaf with
    | none => ⟨true, false, 0, false⟩
    | some (sh, e) =>
      ⟨rs.isEmpty || decide (v ≥ 2 ^ 48),
        !(if write then e.getLsbD 3 else e.getLsbD 2) || !(rs.any fun r => if write then r.wr else r.rd),
        (e.extractLsb' 8 34).toNat * 256 + v % 2 ^ sh, e.getLsbD 4⟩

/-- Translates and checks `n` bytes from a far address for a strand (R293, R312): the physical bytes, or the cause. -/
def translate (s : State) (st : StrandId) (e : Nat) (write : Bool) (far : Quad) (n : Nat) : State × Except Byte (List Nat) :=
  let core := s.coreOf st
  let vs := (List.range n).map fun i => ((far + BitVec.ofNat 64 i).extractLsb' 0 56).toNat
  let pages := ((vs.filter fun v => !inWindow core v && decide (v < 2 ^ 48)).map fun v => v / 65536).eraseDups
  let r := pages.foldl (fun (acc : State × List (Nat × Option (Nat × BitVec 64))) p =>
    let q := lookup acc.1 e st.tile (p * 65536) write
    (q.1, (p, q.2) :: acc.2)) (s, [])
  let c := s.claimOf st.tile.claim
  let ms := vs.map fun v => mapByte core c write ((find r.2 (v / 65536)).getD none) v
  (r.1,
    if ms.any fun m => m.out then .error 0x40
    else if ms.any fun m => m.denied then .error 0x42
    else if ms.any fun m => m.check && farTag s m.phys != far.extractLsb' 56 4 then .error 0x41
    else .ok (ms.map fun m => m.phys))

/-! ## Routes of a command (R303, R304, R307) -/

/-- The hops from a tile to a destination's local port along a tag's entries, entering at `inp` in a wheel slot. -/
def traceIn (s : State) (tag : BitVec 12) (dest : TileId) : Nat → TileId → Option Side → Nat → Option Nat
  | 0, _, _, _ => none
  | fuel + 1, t, inp, slot =>
    match (s.tileOf t).routes.find? fun r => r.tag == tag && r.inp == inp && r.slot == slot with
    | none => none
    | some r =>
      if r.loc && t == dest then some 0
      else
        (r.outs.filterMap fun d =>
          match neighbour (s.claimOf t.claim) t d with
          | none => none
          | some n => (traceIn s tag dest fuel n (some (oppositeSide d)) ((slot + s.lh) % s.wheel)).map (· + 1)).head?

/-- The hops from a tile to an edge link of an engine along a tag's entries, and the link. -/
def traceOut (s : State) (tag : BitVec 12) (e : Nat) : Nat → TileId → Option Side → Nat → Option (Nat × Nat)
  | 0, _, _, _ => none
  | fuel + 1, t, inp, slot =>
    match (s.tileOf t).routes.find? fun r => r.tag == tag && r.inp == inp && r.slot == slot with
    | none => none
    | some r =>
      (r.outs.filterMap fun d =>
        match neighbour (s.claimOf t.claim) t d with
        | none =>
          match edgeLink (globalOf (s.claimOf t.claim) t) d with
          | some l => if engineOf l = e then some (0, l) else none
          | none => none
        | some n => (traceOut s tag e fuel n (some (oppositeSide d)) ((slot + s.lh) % s.wheel)).map fun p => (p.1 + 1, p.2)).head?

/-- The claim-relative tile and the side at an edge link, when the claim covers that tile. -/
def edgeOf (c : Claim) (cl l : Nat) : Option (TileId × Side) :=
  let g := (edgeTile l).1
  if 12 * c.fx0 ≤ g.1 ∧ g.1 < 12 * (c.fx0 + c.fw) ∧ 12 * c.fy0 ≤ g.2 ∧ g.2 < 12 * (c.fy0 + c.fh) then
    some (⟨cl, g.1 - 12 * c.fx0, g.2 - 12 * c.fy0⟩, (edgeTile l).2)
  else none

/-- A path of a tag between an engine and a tile: the edge link, the hops, and the slots of the entries at its start. -/
structure Path where
  link : Nat
  hops : Nat
  slots : List Nat
  deriving DecidableEq, Repr

/-- A bound on the hops of a trace that visits no entry of a claim twice: its tiles, times the inputs, times the slots. -/
def traceFuel (s : State) (cl : Nat) : Nat := 144 * (s.claimOf cl).fw * (s.claimOf cl).fh * 5 * s.wheel + 1

/-- The path from an engine to a tile on a tag: the first of its links whose entries lead there (R304). Of the entries at that
link only those count whose own trace reaches the tile, and the hops are the first one's. DEDUCED: notes/assumptions/38.md. -/
def pathIn (s : State) (cl e : Nat) (tag : BitVec 12) (dest : TileId) : Option Path :=
  ((List.range 19).filterMap fun i =>
    let l := 19 * e + i
    match edgeOf (s.claimOf cl) cl l with
    | none => none
    | some (t, d) =>
      let hits := ((s.tileOf t).routes.filter fun r => r.tag == tag && r.inp == some d).filterMap fun r =>
        (traceIn s tag dest (traceFuel s cl) t (some d) r.slot).map fun h => (r.slot, h)
      match hits with
      | [] => none
      | (_, h) :: _ => some ⟨l, h, hits.map fun p => p.1⟩).head?

/-- The path from a tile's local port to an engine on a tag (R307), from the entries whose own trace reaches it.
DEDUCED: notes/assumptions/38.md. -/
def pathOut (s : State) (e : Nat) (tag : BitVec 12) (t : TileId) : Option Path :=
  let hits := ((s.tileOf t).routes.filter fun r => r.tag == tag && r.inp.isNone).filterMap fun r =>
    (traceOut s tag e (traceFuel s t.claim) t none r.slot).map fun h => (r.slot, h)
  match hits with
  | [] => none
  | (_, h) :: _ => some ⟨h.2, h.1, hits.map fun p => p.1⟩

/-- The latest tick at or before a bound whose slot, `add` ticks on, is one of a path's (R304). -/
def latestTick (wheel add : Nat) (slots : List Nat) (bound : Nat) : Option Nat :=
  ((List.range wheel).find? fun d => decide (d ≤ bound) && slots.contains ((bound - d + add) % wheel)).map fun d => bound - d

/-- The release ticks of a read's units (R304): two flits for a row, one for a landing-buffer flit or a flag. -/
def readReleases (s : State) (p : Path) (rows : Bool) (dues : List Nat) : Option (List Nat) :=
  let go := fun bound => latestTick s.wheel s.lh p.slots bound
  (dues.mapM fun due =>
    if due < (p.hops + 1) * s.lh then none
    else
      match go (due - (p.hops + 1) * s.lh) with
      | none => none
      | some m =>
        if rows then (if m = 0 then none else (go (m - 1)).map fun k => [k, m]) else some [m]).map List.flatten

/-- The release ticks of a write's flits (R307): each at the earliest tick with an entry, after the row's read and after
the flit before it. -/
def writeReleases (wheel : Nat) (slots : List Nat) : List Nat → Nat → Option (List Nat)
  | [], _ => some []
  | lo :: rest, last =>
    match nextSend wheel 0 slots (max lo (last + 1)) with
    | none => none
    | some m => (writeReleases wheel slots rest m).map (m :: ·)

/-! ## Activation (R302, R303) -/

/-- An event of a context at a tick of its claim. -/
def planCtx (s : State) (k : CtxId) (cl tick phase rank flag : Nat) (i : Event) : State :=
  s.plan ⟨cl, tick, phase, rank, (k.engine * 256 + k.ctx) * 2 + flag, 8, none, none, 0, 0, .ev i⟩

/-- The tick of unit k (R302). -/
def Cmd.due (c : Cmd) (k : Nat) : Nat := c.t0 + k * c.regs.pitch.toNat

/-- The width of the far elements. -/
def Cmd.wf (c : Cmd) : Nat := if c.regs.conv then (match c.regs.ffmt with | some f => f.width | none => c.fmt.width) else c.fmt.width

/-- The far bytes of one unit (R305 to R307). -/
def Cmd.unitFar (c : Cmd) : Nat := if c.regs.opc = 1 then 32 else 64 * c.wf / c.fmt.width

def strictlyRising : List Nat → Bool
  | a :: b :: l => decide (a < b) && strictlyRising (b :: l)
  | _ => true

/-- Whether another command of the engine for the claim holds a release tick on the link. -/
def releaseTaken (s : State) (cl : Nat) (k : CtxId) (num link : Nat) (m : Nat) : Bool :=
  s.ctxs.any fun p => p.1.engine == k.engine && ((p.2.owner.map fun o => o.tile.claim) == some cl)
    && p.2.cmds.any fun c => !(p.1 == k && c.num == num)
      && ((!c.regs.isWrite && c.edge == link && c.release.contains m) || c.flagAt == some (link, m))

/-- The number of units and whether it is whole (R302). -/
def unitsOf (r : CtxRegs) (wb wf : Nat) : Nat × Bool :=
  if r.opc = 1 then (r.len.toNat / 32, true) else (r.len.toNat * wb / (wf * 64), r.len.toNat * wb % (wf * 64) == 0)

/-- The tile and check 1 of R303. -/
def destOf (s : State) (cl : Nat) (r : CtxRegs) : Option TileId :=
  let c := s.claimOf cl
  if r.opc = 1 then
    (c.tags.find? fun e => e.1 == r.dataTag).bind fun e => if c.inside e.2.1 e.2.2 then some ⟨cl, e.2.1, e.2.2⟩ else none
  else if c.inside r.locX r.locY then some ⟨cl, r.locX, r.locY⟩ else none

/-- The tile of a command's flag, when its bank is a scratchpad bank (R310). -/
def flagDest (s : State) (cl : Nat) (r : CtxRegs) : Option TileId :=
  if (s.claimOf cl).inside r.flagX r.flagY then
    let t : TileId := ⟨cl, r.flagX, r.flagY⟩
    if (s.tileOf t).isScratch r.flagBank.toNat then some t else none
  else none

/-- Releases, the completion tick and the flag's release of a command whose T0 is known: none breaks item 4 of R303. -/
def schedule (s : State) (cl : Nat) (k : CtxId) (c : Cmd) (p : Path) (fp : Option Path) (floor : Nat) : Option Cmd :=
  let dues := (List.range c.units).map c.due
  let rel := if c.regs.isWrite then writeReleases s.wheel p.slots ((dues.map fun d => [d + 1, d + 1]).flatten) 0
    else readReleases s p (c.regs.opc == 0) dues
  match rel with
  | none => none
  | some ms =>
    let last := ms.getLastD 0
    let fin := if c.regs.isWrite then last + (p.hops + 1) * s.lh + 2048 else dues.getLastD c.t0
    let bad := !strictlyRising ms || (!c.regs.isWrite && ms.any fun m => decide (m < floor) || releaseTaken s cl k c.num p.link m)
    let c := { c with release := ms, hops := p.hops, edge := p.link, commit := some fin }
    if bad then none
    else
      match fp with
      | none => some c
      | some q =>
        match readReleases s q false [fin + 256] with
        | some [m] =>
          if m < floor ∨ releaseTaken s cl k c.num q.link m ∨ (!c.regs.isWrite && p.link == q.link && ms.contains m) then none
          else some { c with flagAt := some (q.link, m) }
        | _ => none

/-- The completion of a command in the sense of R311: the later of C + 1 and its flag's landing tick. -/
def Cmd.finished (c : Cmd) : Option Nat := c.commit.map fun x => if c.regs.fl then x + 256 else x + 1

/-- Puts a command's scheduled steps on the agenda: reads or source reads, flits, deposits, the commit, the timeline, the
flag (R304 to R310). -/
def planCmd (s : State) (cl : Nat) (k : CtxId) (c : Cmd) : State :=
  let units := List.range c.units
  let fin := c.commit.getD 0
  let s :=
    if c.regs.isWrite then
      let s := units.foldl (fun s j => planCtx s k cl (c.due j) phRead 1 0 (.stagingSourceRead k c.num j)) s
      let s := c.release.zipIdx.foldl (fun s p => planCtx s k cl p.1 phRun 0 0 (.stagingWriteFlit k c.num p.2)) s
      planCtx s k cl fin phLand 0 0 (.stagingWriteCommit k c.num)
    else
      let s := c.release.zipIdx.foldl (fun s p => planCtx s k cl p.1 phWire 0 0 (.stagingFlitRelease k c.num p.2)) s
      units.foldl (fun s j => planCtx s k cl (c.due j) (phLand + 1) 1 0 (.stagingDeposit k c.num j)) s
  let s := planCtx s k cl (fin + 1) phLand 1 0 (.timelineAdvance k)
  let s := match c.flagAt with
    | none => s
    | some (_, m) =>
      planCtx (planCtx s k cl m phWire 0 1 (.stagingFlitRelease k c.num c.release.length)) k cl (fin + 256) (phLand + 1) 1 1
        (.flagWrite k c.num)
  s.modClaim cl fun x => { x with lastDone := max x.lastDone ((c.finished).getD 0) }

/-- A pending command becomes active at the present tick A (R302, R303); the route of a tracked write's flag is checked when
its tracker fires (R310). A command that fails its checks ends its request phase at once, and the bound r0 + n of 1,024 rows
is not asked of OPC 1, which names no row. DESIGN CHOICE: notes/assumptions/39.md. -/
def activate (s : State) (k : CtxId) : State :=
  let x := s.ctxOf k
  match x.pending, x.owner with
  | some (num, r), some st =>
    let cl := st.tile.claim
    let a := s.now cl
    let dest := destOf s cl r
    let t := dest.getD st.tile
    let bank := r.locBank
    let tile := s.tileOf t
    let fmt := if tile.isAcc bank.toNat then .flt .fp32 else tile.fmts.at bank
    let c : Cmd := {
      num := num, regs := r, active := a, t0 := r.tick.toNat, units := 0, fmt := fmt, lines := [], bad := [], src := []
      phys := [], rows := [], release := [], hops := 0, edge := 0, flagAt := none, commit := none, armed := false, count := 0 }
    let u := unitsOf r fmt.width c.wf
    let c := { c with units := u.1 }
    let path := dest.bind fun t => if r.isWrite then pathOut s k.engine r.dataTag t else pathIn s cl k.engine r.dataTag t
    let fdest := if r.fl then flagDest s cl r else none
    let fpath := fdest.bind fun t => pathIn s cl k.engine r.flagTag t
    let redFmt := fmt == .flt .fp32 || fmt == .flt .bf16
    let s0 := s.setCtx k { x with pending := none, activeNum := num, activeTill := some a }
    if dest.isNone || (r.opc != 1 && (!(tile.isScratch bank.toNat || tile.isAcc bank.toNat) || !u.2 ||
        decide (r.row0 + u.1 > 1024) || (r.red != 0 && !redFmt))) || (r.fl && fdest.isNone) then
      claimFault s0 st.tile 0x44 0
    else if path.isNone || (r.fl && r.opc != 3 && fpath.isNone) then claimFault s0 st.tile 0x44 0
    else if (!r.isWrite && decide (c.t0 < a + 16384)) || (r.opc == 2 && decide (c.t0 < a + 512)) then
      claimFault s0 st.tile 0x45 0
    else if r.opc = 3 then
      s0.setCtx k { x with
        pending := none, activeNum := num, activeTill := none, cmds := x.cmds ++ [{ c with armed := true }] }
    else
      match path with
      | none => claimFault s0 st.tile 0x44 0
      | some p =>
        match schedule s cl k c p fpath a with
        | none => claimFault s0 st.tile 0x45 0
        | some c =>
          let till := if r.isWrite then c.due (c.units - 1) + 1 else a + c.units
          let s := s0.setCtx k { x with
            pending := none, activeNum := num, activeTill := some till, cmds := x.cmds ++ [c] }
          let s := planCmd s cl k c
          if r.isWrite then s
          else (List.range (r.len.toNat / 64)).foldl (fun s j =>
            planCtx s k cl (a + j) phRead 2 0 (.readLineRequest k num j)) s
  | _, _ => s

/-- A command is committed: it is pending, and becomes active at once or when the active command's request phase ends
(R301, R302). -/
def commitCmd (s : State) (k : CtxId) : State :=
  let x := s.ctxOf k
  match x.owner with
  | none => s
  | some st =>
    let n := s.now st.tile.claim
    let s := s.setCtx k { x with pending := some (x.issued + 1, x.shadow), issued := x.issued + 1 }
    match x.activeTill with
    | some e => if e ≤ n then s.push (.commandActivation k) else planCtx s k st.tile.claim e (phLand + 1) 0 0 (.commandActivation k)
    | none => if x.armed then s else s.push (.commandActivation k)

/-! ## Commands at work -/

/-- A command of a context by number. -/
def Ctx.cmd? (x : Ctx) (m : Nat) : Option Cmd := x.cmds.find? fun c => c.num == m

def Ctx.setCmd (x : Ctx) (c : Cmd) : Ctx := { x with cmds := x.cmds.map fun y => if y.num = c.num then c else y }

/-- A fault that an engine detects, recorded against the issuing strand's tile (R312). -/
def engineFault (s : State) (st : StrandId) (cause : Byte) (data : Quad := 0) : State := claimFault s st.tile cause data

/-- Read line j is requested, translated and checked (R302, R312). -/
def requestLine (s : State) (k : CtxId) (m j : Nat) : State :=
  let x := s.ctxOf k
  match x.cmd? m, x.owner with
  | some c, some st =>
    let r := translate s st k.engine false (c.regs.far + BitVec.ofNat 64 (64 * j)) 64
    match r.2 with
    | .error cause => engineFault r.1 st cause
    | .ok ps =>
      let s := r.1
      let bs := ps.map (farByte s)
      let v : MVec := ⟨bitsOfBytes 512 (bs.map fun b => b.1),
        bs.zipIdx.foldl (fun acc p => if p.1.2 then acc ||| (1 <<< (p.2 / 8)) else acc) 0⟩
      let bad := ps.zipIdx.filterMap fun p => if (farView s (p.1 / 8)).2 then some (64 * j + p.2, p.1 / 8 * 8) else none
      s.setCtx k ((s.ctxOf k).setCmd { c with lines := put c.lines j v, bad := c.bad ++ bad })
  | _, _ => s

/-- The far bytes of a unit with their marks, or none where a line is missing. -/
def Cmd.unitBytes (c : Cmd) (u : Nat) : Option (List (Byte × Bool)) :=
  (List.range c.unitFar).mapM fun i =>
    let o := u * c.unitFar + i
    (find c.lines (o / 64)).map fun v => (byteOf v.val (o % 64), v.psn.getLsbD (o % 64 / 8))

/-- The first piece that feeds a unit and whose code failed (R344, R403). -/
def Cmd.unitBad (c : Cmd) (u : Nat) : Option Nat :=
  (c.bad.find? fun p => decide (u * c.unitFar ≤ p.1 ∧ p.1 < (u + 1) * c.unitFar)).map fun p => p.2

/-- Bytes cut into elements of a width, each with its mark. -/
def cutElems (w : Nat) (l : List (Byte × Bool)) : List (Nat × Bool) :=
  (List.range (8 * l.length / w)).map fun e =>
    let mine := (l.drop (e * w / 8)).take (w / 8)
    (leNat (mine.map fun p => p.1), mine.any fun p => p.2)

/-- Elements of a width as bytes. -/
def joinElems (w : Nat) (l : List (Nat × Bool)) : List (Byte × Bool) :=
  (l.map fun p => (List.range (w / 8)).map fun j => (BitVec.ofNat 8 (p.1 >>> (8 * j)), p.2)).flatten

/-- Bytes converted element by element, with no random word (R305, R307). -/
def convertBytes (ff tf : Fmt) (rnd : Rnd) (sat : Bool) (l : List (Byte × Bool)) : List (Byte × Bool) :=
  joinElems tf.width ((cutElems ff.width l).map fun p => (convert ff tf rnd sat p.1 0, p.2))

/-- 64 bytes with their marks as a row. -/
def rowOfBytes (l : List (Byte × Bool)) : MVec :=
  ⟨bitsOfBytes 512 (l.map fun b => b.1), l.zipIdx.foldl (fun acc p => if p.1.2 then acc ||| (1 <<< (p.2 / 8)) else acc) 0⟩

/-- A row as bytes with their marks. -/
def bytesOfRow (v : MVec) : List (Byte × Bool) := (List.range 64).map fun i => (byteOf v.val i, v.psn.getLsbD (i / 8))

/-- The row of unit u as the engine sends it: the far bytes, converted to the bank's format with CONV = 1 (R305). -/
def Cmd.sentRow (c : Cmd) (u : Nat) : Option MVec :=
  (c.unitBytes u).map fun l =>
    rowOfBytes (if c.regs.conv then convertBytes (c.regs.ffmt.getD c.fmt) c.fmt c.regs.rnd c.regs.sat l else l)

/-- The flit of a release: half of a row, 32 far bytes, or a flag's value (R304, R306, R310). -/
def Cmd.flit (c : Cmd) (k : CtxId) (i : Nat) (label : BitVec 16) : Option Flit :=
  let mk := fun (due : Nat) (kind : BitVec 2) (tag : BitVec 12) (data : BitVec 256) (psn : BitVec 4) =>
    ({ data := data, lt := BitVec.ofNat 16 due, land := true, half := false, fmt := 0, psn := psn, lost := false, nul := false
       kind := kind, tag := tag, label := label, slot := 0, origin := some (k, c.num, i), pair := none } : Flit)
  if i = c.release.length then
    some (mk (c.commit.getD 0 + 256) 2 c.regs.flagTag (c.regs.fval.setWidth 256) 0)
  else if c.regs.opc = 1 then
    (c.unitBytes i).map fun l =>
      let v := rowOfBytes l
      mk (c.due i) 0 c.regs.dataTag (v.val.setWidth 256) (v.psn.setWidth 4)
  else
    (c.sentRow (i / 2)).map fun v =>
      if i % 2 = 0 then mk (c.due (i / 2)) 2 c.regs.dataTag (v.val.extractLsb' 0 256) (v.psn.extractLsb' 0 4)
      else mk (c.due (i / 2)) 2 c.regs.dataTag (v.val.extractLsb' 256 256) (v.psn.extractLsb' 4 4)

/-- The engine releases a flit onto its edge link; a line that the memory delivers late costs a hold, whose length is a free
value (R304, notes/assumptions/5.md). DEDUCED: notes/assumptions/50.md. -/
def releaseFlit (s : State) (k : CtxId) (m i : Nat) : State :=
  let x := s.ctxOf k
  match x.cmd? m, x.owner with
  | some c, some st =>
    let cl := st.tile.claim
    let n := s.now cl
    let link := if i = c.release.length then (match c.flagAt with | some p => p.1 | none => c.edge) else c.edge
    match c.flit k i (BitVec.ofNat 16 n), edgeOf (s.claimOf cl) cl link with
    | some f, some (t, d) =>
      let q := Config.lateLine s.free
      let s := { s with free := s.free + 1 }
      (if q = 0 then s else engineHold s t q).planEv cl (n + 1) phWire (.flitArrival t d ⟨n + s.lh, f, false⟩)
    | _, _ => s
  | _, _ => s

/-- Takes the waiting flits i, i + 1, ... (n of them) of a command's landing tick out of a landing buffer (R280). -/
def takeLanded (l : List LandEntry) (k : CtxId) (m due i n : Nat) : Option (List LandEntry × List LandEntry) :=
  let mine := (List.range n).filterMap fun j =>
    l.find? fun e => e.kind == 2 && e.ready == due && e.origin == some (k, m, i + j)
  if mine.length < n then none else some (mine, mine.foldl List.erase l)

/-- Whether a tile's read-modify-write window covers a bank at a tick (R333). DEDUCED: notes/assumptions/33.md. -/
def Tile.windowAt (t : Tile) (bank : BitVec 6) (n : Nat) : Bool :=
  t.bookings.any fun b => b.window && b.bank == bank && decide (b.first ≤ n ∧ n ≤ b.last)

/-- The datum of an accumulator-busy fault of an engine: the tile, bank and row in LOC's layout (R240). -/
def locDatum (t : TileId) (bank : BitVec 6) (row : Nat) : Quad :=
  BitVec.ofNat 64 (t.x + 256 * t.y + 65536 * bank.toNat + 2 ^ 22 * row)

/-- The checks of an access of an engine to a bank row at the present tick (R240, R333). DEDUCED: notes/assumptions/39.md. -/
def engineAccess (s : State) (st : StrandId) (t : TileId) (bank : BitVec 6) (row : Nat) (ok : State → State) : State :=
  let x := s.tileOf t
  let n := s.now t.claim
  if x.isAcc bank.toNat && (x.accs.at (accRow x bank.toNat row).1).busyAt n then
    engineFault s st 0x22 (locDatum t bank row)
  else if x.windowAt bank n then claimFault s t 0x14 0
  else ok (s.modTile t fun x => { x with touched := (bank, false) :: x.touched })

/-- One element of a reduce (R305). -/
def reduceElem (red : Nat) (f : Fmt) (old x : Nat) : Nat :=
  match f with
  | .flt t =>
    if red = 1 then roundNum t ((decodeNum f old).add (decodeNum f x))
    else if red = 2 then fmaxCode f old x else fminCode f old x
  | .int _ | .fam _ => x

/-- The row that a deposit leaves: the sent row, reduced with the bank row where RED asks for it (R305). -/
def depositRow (c : Cmd) (old sent : MVec) : MVec :=
  if c.regs.red = 0 then sent
  else ⟨map2 c.fmt.width (reduceElem c.regs.red c.fmt) old.val sent.val, old.psn ||| sent.psn⟩

/-- Plans a staging deposit's commit in the present tick (R208, R311). -/
def planDeposit (s : State) (k : CtxId) (t : TileId) (bank : BitVec 6) (flag : Nat) (l : List BankByte) : State :=
  planCtx s k t.claim (s.now t.claim) phCommit 1 flag (.bankCommit t 15 bank (.bytes l))

/-- Unit u of a read reaches its tick: a row is deposited; a stack error of its line is uncorrectable now (R305, R344). -/
def deposit (s : State) (k : CtxId) (m u : Nat) : State :=
  let x := s.ctxOf k
  match x.cmd? m, x.owner with
  | some c, some st =>
    let t := (destOf s st.tile.claim c.regs).getD st.tile
    let s := match c.unitBad u with | some a => uncorrectable s t 15 (stackPlace a) | none => s
    if c.regs.opc = 1 then s
    else
      match takeLanded (s.tileOf t).landing k m (c.due u) (2 * u) 2 with
      | some ([lo, hi], rest) =>
        let s := s.modTile t fun x => { x with landing := rest }
        let bank := c.regs.locBank
        let row := c.regs.row0 + u
        engineAccess s st t bank row fun s =>
          let s := if c.regs.red = 0 || (s.tileOf t).rowZero bank.toNat row then s else checkRead s t 15 bank (rowCells row)
          let old := (s.tileOf t).readRow bank row
          planDeposit s k t bank 0 (rowBytes row (depositRow c old (flitRow lo.data hi.data lo.psn hi.psn)))
      | _ => freezeFor s t c.regs.dataTag (.stagingDeposit k m u)
  | _, _ => s

/-- The flag word is written at C + 256 (R310). -/
def writeFlag (s : State) (k : CtxId) (m : Nat) : State :=
  let x := s.ctxOf k
  match x.cmd? m, x.owner with
  | some c, some st =>
    let t : TileId := ⟨st.tile.claim, c.regs.flagX, c.regs.flagY⟩
    match takeLanded (s.tileOf t).landing k m (c.commit.getD 0 + 256) c.release.length 1 with
    | some ([e], rest) =>
      let s := s.modTile t fun x => { x with landing := rest }
      let o := 4 * c.regs.flagWord
      engineAccess s st t c.regs.flagBank (o / 64) fun s =>
        planDeposit s k t c.regs.flagBank 1 ((List.range 4).map fun i => ⟨o + i, byteOf e.data i, e.psn.getLsbD 0⟩)
    | _ => freezeFor s t c.regs.flagTag (.flagWrite k m)
  | _, _ => s

/-- Source row u of a write is read and its far bytes are checked (R307, R312). -/
def readSource (s : State) (k : CtxId) (m u : Nat) : State :=
  let x := s.ctxOf k
  match x.cmd? m, x.owner with
  | some c, some st =>
    let t := (destOf s st.tile.claim c.regs).getD st.tile
    let bank := c.regs.locBank
    let row := c.regs.row0 + u
    engineAccess s st t bank row fun s =>
      let s := if (s.tileOf t).rowZero bank.toNat row then s else checkRead s t 15 bank (rowCells row)
      let v := (s.tileOf t).readRow bank row
      let r := translate s st k.engine true (c.regs.far + BitVec.ofNat 64 (u * c.unitFar)) c.unitFar
      let c := { c with src := put c.src u v }
      match r.2 with
      | .error cause => engineFault (r.1.setCtx k ((r.1.ctxOf k).setCmd c)) st cause
      | .ok ps => r.1.setCtx k ((r.1.ctxOf k).setCmd { c with phys := put c.phys u ps })
  | _, _ => s

/-- Flit i of a write is injected at its tile's local port (R307). -/
def writeFlit (s : State) (k : CtxId) (m i : Nat) : State :=
  let x := s.ctxOf k
  match x.cmd? m, x.owner with
  | some c, some st =>
    let t := (destOf s st.tile.claim c.regs).getD st.tile
    match find c.src (i / 2) with
    | none => s
    | some v =>
      inject s t {
        data := if i % 2 = 0 then v.val.extractLsb' 0 256 else v.val.extractLsb' 256 256
        lt := 0, land := false, half := false, fmt := 0
        psn := if i % 2 = 0 then v.psn.extractLsb' 0 4 else v.psn.extractLsb' 4 4
        lost := false, nul := false, kind := 2, tag := c.regs.dataTag, label := 0, slot := 0, origin := some (k, m, i)
        pair := none }
  | _, _ => s

/-- The far bytes of a received row (R307). -/
def Cmd.farRow (c : Cmd) (v : MVec) : List (Byte × Bool) :=
  if c.regs.conv then convertBytes c.fmt (c.regs.ffmt.getD c.fmt) c.regs.rnd c.regs.sat (bytesOfRow v) else bytesOfRow v

/-- The received rows of a command whose checks passed reach far memory. -/
def Cmd.commitRows (c : Cmd) (s : State) : State :=
  (List.range c.units).foldl (fun s u =>
    match find c.rows u, find c.phys u with
    | some v, some ps => farWrite s ((ps.zip (c.farRow v)).map fun p => (p.1, p.2.1, p.2.2))
    | _, _ => s) s

/-- A write command commits at C: every received row whose checks passed. A stack that cannot commit by then costs a hold, whose
length is a free value (R307, notes/assumptions/5.md). DEDUCED: notes/assumptions/50.md. -/
def commitWrite (s : State) (k : CtxId) (m : Nat) : State :=
  let x := s.ctxOf k
  match x.cmd? m, x.owner with
  | some c, some st =>
    let q := Config.lateLine s.free
    let s := { s with free := s.free + 1 }
    let s := match (if q = 0 then none else edgeOf (s.claimOf st.tile.claim) st.tile.claim c.edge) with
      | none => s
      | some e => engineHold s e.1 q
    c.commitRows s
  | _, _ => s

/-- A tracker fires: T0 is the present tick, the route of its flag is checked (R310) and the write is scheduled (R308). -/
def fireTracker (s : State) (k : CtxId) : State :=
  let x := s.ctxOf k
  match x.cmds.find? (fun c => c.armed), x.owner with
  | some c, some st =>
    let cl := st.tile.claim
    let n := s.now cl
    let c := { c with armed := false, t0 := n }
    let path := (destOf s cl c.regs).bind fun t => pathOut s k.engine c.regs.dataTag t
    let fpath := if c.regs.fl then (flagDest s cl c.regs).bind fun t => pathIn s cl k.engine c.regs.flagTag t else none
    if c.regs.fl && fpath.isNone then engineFault (s.setCtx k { x.setCmd c with activeTill := some n }) st 0x44
    else
      match path.bind fun p => schedule s cl k c p fpath n with
      | none => engineFault (s.setCtx k { x.setCmd c with activeTill := some n }) st 0x45
      | some c =>
        let till := c.due (c.units - 1) + 1
        let s := planCmd (s.setCtx k { x.setCmd c with activeTill := some till }) cl k c
        if x.pending.isSome then planCtx s k cl till (phLand + 1) 0 0 (.commandActivation k) else s
  | _, _ => s

/-- Whether the tracker's count has reached TCOUNT (R308). -/
def Ctx.fires (x : Ctx) : Bool := x.cmds.any fun c => c.armed && decide (c.regs.tcount.toNat ≤ c.count)

/-- The counter passes every command, in order, that has reached C + 1 (R309). -/
def advanceFrom (n : Nat) (cmds : List Cmd) : Nat → Nat → Nat
  | 0, m => m
  | fuel + 1, m =>
    match cmds.find? fun c => c.num == m + 1 with
    | some c => (match c.commit with | some x => if x + 1 ≤ n then advanceFrom n cmds fuel (m + 1) else m | none => m)
    | none => m

def advanceTimeline (s : State) (k : CtxId) : State :=
  let x := s.ctxOf k
  match x.owner with
  | none => s
  | some st => s.setCtx k { x with timeline := advanceFrom (s.now st.tile.claim) x.cmds x.cmds.length x.timeline }

end Sys2Proof.Machine
end

