-- ==== Sys2Proof/Machine/Sync.lean ====
section
/-!
DEFINITION. Ordering and synchronisation: fences (spec/12 R324, R326), `waita` (R327), named barriers (R328 to R331) and
the gates that share their member sets (spec/04 R114, R115).
-/

namespace Sys2Proof.Machine

/-! ## What a release covers (R324, R326) -/

/-- A reduction of a strand that its tile has not applied: its entry in the reorder buffer, or still to enter it. -/
def redsOf (s : State) (st : StrandId) : List RedEntry :=
  ((s.tileOf st.tile).redBuf.filter fun r => r.core = st.core) ++
  s.agenda.filterMap fun e =>
    match e.act with
    | .ev (.resultLanding o (.redEntry r)) => if o = st then some r else none
    | _ => none

/-- The tick after which a buffered entry is applied, when every lower index is in the buffer (R326). -/
def redVisible (t : Tile) (n : Nat) (r : RedEntry) : Option Nat :=
  let d := (r.idx - t.redN).toNat
  if (List.range (d + 1)).all fun j => t.redBuf.any fun x => x.idx == t.redN + BitVec.ofNat 32 j then some (n + d + 1) else none

/-- The visibility ticks of a strand's planned writes, issued at or before a tick. -/
def visOf (s : State) (st : StrandId) (before : Nat) : List Nat :=
  s.agenda.filterMap fun e => if e.owner = some st ∧ e.iss ≤ before then e.vis else none

/-- Whether a scope's check set holds the strand's staging commands too (R324). -/
def Scope.hasStaging : Scope → Bool
  | .store | .host => true
  | .core | .tile | .field | .claim | .wafer | .fleet => false

/-- The focus strand's staging commands that do not complete by a tick, or whose completion is not known. -/
def lateCommands (s : State) (by_ : Nat) : Bool :=
  s.ctxs.any fun p => p.2.owner == some s.focus &&
    (p.2.pending.isSome || p.2.cmds.any fun c => match c.finished with | some x => decide (by_ < x) | none => true)

/-- Ordering (0x18): a write of the check set, issued before the bundle, is not seen by t + 3 (R326). -/
def fenceFails (s : State) (sc : Scope) : Bool :=
  let n := s.t
  match sc with
  | .core => false
  | .tile | .field | .claim | .wafer | .fleet | .store | .host =>
    (s.agenda.any fun e => e.owner == some s.focus && decide (e.iss < n) &&
      (match e.vis with | some v => decide (n + 3 < v) | none => false)) ||
    ((redsOf s s.focus).filter fun r => r.iss < n).any (fun r =>
      match redVisible s.myTile n r with | some v => decide (n + 3 < v) | none => true) ||
    ((sc == .store || sc == .host) && lateCommands s (n + 3))

/-- A release fence (R326). -/
def releaseFence (s : State) (sc : Scope) (g : Guard) : Host.Outcome State Fault Refusal :=
  guardedC s .c g true (firstFault [(fenceFails s sc, 0x18, 0)]) fun s => s

/-- `fence.acq` changes nothing (R320). -/
def execFenceAcq (_ : Scope) (g : Guard) (s : State) : Host.Outcome State Fault Refusal := guarded s .c g true fun s => s
def execFenceRel (sc : Scope) (g : Guard) (s : State) := releaseFence s sc g
def execFenceAr (sc : Scope) (g : Guard) (s : State) := releaseFence s sc g
def execFenceSc (sc : Scope) (g : Guard) (s : State) := releaseFence s sc g

/-! ## `waita` (R327) -/

/-- The conditions of `waita`. -/
inductive WaitCmp where
  | eq | ne | gen
  deriving DecidableEq, Repr

/-- The address of a `waita`. -/
def waitaEa (s : State) (o : MS 6) : BitVec 56 := effAddr (s.me.readA o.base).val (sx64 o.ofs) 4

/-- The four cells of the awaited word. -/
def waitaCells (s : State) (o : MS 6) : List (Option Nat) := (List.range 4).map fun i => some (eaOff (waitaEa s o) + i)

/-- The operand checks of `waita`, made at every presentation. -/
def waitaChecks (s : State) (o : MS 6) : Check :=
  firstFault (s.reach false (waitaEa s o) ++ [(eaOff (waitaEa s o) % 4 != 0, 0x12, eaDatum (waitaEa s o))])

/-- The watch path reads the word with its code: a failure is an uncorrectable error and marks the word (R327, R344). -/
def watch (s : State) (o : MS 6) : State :=
  if (waitaChecks s o).isSome then s
  else
    let bank := s.bankAt (waitaEa s o)
    s.readNow bank (waitaCells s o)

/-- The wait condition of an enabled `waita`. -/
def waitaCond (s : State) (o : MS 6) (c : WaitCmp) : WaitResult :=
  match waitaChecks s o with
  | some f => .fault f.1 f.2
  | none =>
    let bs := (List.range 4).map fun i => s.myTile.byteView (s.bankAt (waitaEa s o)) (eaOff (waitaEa s o) + i)
    let x : Word := bitsOfBytes 32 (bs.map fun b => b.1)
    let d := (s.me.readG o.d).val
    if bs.any fun b => b.2 then .unmet
    else if (match c with | .eq => x == d | .ne => x != d | .gen => decide (d.toNat ≤ x.toNat)) then .met else .unmet

/-- Whether a poisoned guard, or of an enabled `waita` a poisoned base or comparand, decides what it does (R343). -/
def waitaMark (s : State) (o : MS 6) : Bool :=
  anyPsn (s.guard o.g).psn || (s.guard o.g).val.getLsbD 0 && (anyPsn (s.me.readA o.base).psn || anyPsn (s.me.readG o.d).psn)

/-- `waita`: a disabled one is no wait form and does nothing (R327). DEDUCED: notes/assumptions/36.md. -/
def waita (s : State) (o : MS 6) (c : WaitCmp) : Host.Outcome State Fault Refusal :=
  if (s.guard o.g).val.getLsbD 0 = false then .next (s.taintIf (waitaMark s o))
  else
    let s := watch s o
    waits s .c (waitaCond s o c) (waitaMark s o) (s.taintIf (waitaMark s o))

def execWaitaEq (o : MS 6) (_ : Scope) (s : State) := waita s o .eq
def execWaitaNe (o : MS 6) (_ : Scope) (s : State) := waita s o .ne
def execWaitaGen (o : MS 6) (_ : Scope) (s : State) := waita s o .gen

/-! ## Member sets (R328) -/

/-- A barrier's descriptor. -/
def descOf (s : State) (cl n : Nat) : BitVec 64 := ((s.claimOf cl).bart[n]?).getD 0

/-- Whether a descriptor's rectangle, core bits and stage filter admit a strand. -/
def admits (d : BitVec 64) (st : StrandId) (stage : Byte) : Bool :=
  d.getLsbD 63 &&
  decide ((d.extractLsb' 0 8).toNat ≤ st.tile.x ∧ st.tile.x ≤ (d.extractLsb' 16 8).toNat ∧
    (d.extractLsb' 8 8).toNat ≤ st.tile.y ∧ st.tile.y ≤ (d.extractLsb' 24 8).toNat) &&
  d.getLsbD (32 + st.core.toNat) && (!d.getLsbD 36 || d.extractLsb' 40 8 == stage)

/-- The members of barrier n. -/
def membersOf (s : State) (cl n : Nat) : List StrandId :=
  (strandsOf s cl).filter fun st => admits (descOf s cl n) st (s.coreOf st).stage

def isMember (s : State) (st : StrandId) (n : Nat) : Bool := admits (descOf s st.tile.claim n) st (s.coreOf st).stage

def barrierOf (s : State) (cl n : Nat) : Barrier := (find (s.claimOf cl).barriers n).getD ⟨0, [], [], none, 0⟩

def setBarrier (s : State) (cl n : Nat) (b : Barrier) : State :=
  s.modClaim cl fun c => { c with barriers := put c.barriers n b }

/-! ## Phases (R329, R330) -/

/-- The tick at which a member arrived in the current phase, a retired one at its retirement tick. -/
def phaseArrival (s : State) (b : Barrier) (st : StrandId) : Option Nat :=
  match find b.arrived st with
  | some a => some a
  | none => if (s.coreOf st).status = .retired then (s.coreOf st).retiredAt else none

/-- The latest arrival of a phase, once every member has arrived. -/
def lastArrival (s : State) (cl n : Nat) : Option Nat :=
  ((membersOf s cl n).mapM fun st => phaseArrival s (barrierOf s cl n) st).map fun l => l.foldl max 0

/-- K0 of R329. -/
def phaseFloor (s : State) (d : BitVec 64) (a : Nat) : Nat :=
  let w := (d.extractLsb' 16 8).toNat - (d.extractLsb' 0 8).toNat
  let h := (d.extractLsb' 24 8).toNat - (d.extractLsb' 8 8).toNat
  if w = 0 ∧ h = 0 then a + 3 else a + s.lh * (w + h + 2)

/-- V of R329: the latest visibility tick of a write that a member issued at or before its arrival. -/
def phaseVisible (s : State) (cl n : Nat) : Nat :=
  ((membersOf s cl n).map fun st =>
    match phaseArrival s (barrierOf s cl n) st with
    | some a => (visOf s st a).foldl max 0
    | none => 0).foldl max 0

/-- Whether a member's reduction, issued at or before its arrival, is still to be applied (R329). -/
def phaseReds (s : State) (cl n : Nat) : Bool :=
  (membersOf s cl n).any fun st =>
    match phaseArrival s (barrierOf s cl n) st with
    | some a => (redsOf s st).any fun r => decide (r.iss ≤ a)
    | none => false

/-- Plans the completion of the current phase once every member has arrived (R329). DEDUCED: notes/assumptions/40.md. -/
def planPhase (s : State) (cl n : Nat) : State :=
  if (barrierOf s cl n).arrived.isEmpty then s
  else
    match lastArrival s cl n with
    | none => s
    | some a =>
      s.planEv cl (max (s.now cl + 1) (max (phaseFloor s (descOf s cl n) a) (phaseVisible s cl n))) phRun
        (.barrierPhaseCompletion cl n)

/-- A phase completes, or waits on for a write that a member's arrival covers (R329). -/
def completePhase (s : State) (cl n : Nat) : State :=
  let now := s.now cl
  if phaseReds s cl n then s.planEv cl (now + 1) phRun (.barrierPhaseCompletion cl n)
  else if now < phaseVisible s cl n then s.planEv cl (phaseVisible s cl n) phRun (.barrierPhaseCompletion cl n)
  else
    let b := barrierOf s cl n
    setBarrier s cl n { b with phase := b.phase + 1, arrived := [] }

/-! ## The barrier forms (R331) -/

/-- The focus strand's outstanding arrival on n, as the phase it names. -/
def outstanding (s : State) (st : StrandId) (n : Nat) : Option Nat := find (s.coreOf st).arrivals n

/-- Whether a member's outstanding arrival names a phase that has not completed. -/
def arrivalOpen (s : State) (st : StrandId) (n : Nat) : Bool :=
  match outstanding s st n with
  | some p => decide ((barrierOf s st.tile.claim n).phase ≤ p)
  | none => false

/-- The checks that every barrier form makes first (R328, R115). -/
def barrierChecks (s : State) (n : Nat) : List (Bool × Byte × Quad) :=
  [(!isMember s s.focus n, 0x51, 0), (!(barrierOf s s.focus.tile.claim n).gated.isEmpty, 0x74, 0)]

/-- The focus strand arrives at barrier n in the current phase; its timeout is looked at after the phases that complete in the
same tick (R329). -/
def arriveAt (s : State) (n : Nat) : State :=
  let cl := s.focus.tile.claim
  let b := barrierOf s cl n
  let s := setBarrier s cl n { b with arrived := put b.arrived s.focus s.t }
  let s := s.modCore s.focus fun c => { c with arrivals := put c.arrivals n b.phase }
  planPhase (s.plan ⟨cl, s.t + 2 ^ 24, phRun, 1, s.t, 8, none, none, 0, 0, .ev (.barrierTimeout s.focus n)⟩) cl n

/-- The outstanding arrival is cleared at the issue of `bar.wait` or `bar.sync`. -/
def clearArrival (s : State) (n : Nat) : State :=
  s.modCore s.focus fun c => { c with arrivals := drop c.arrivals n, synced := none }

def execBarArr (n : BitVec 9) (s : State) : Host.Outcome State Fault Refusal :=
  alwaysC s .c true (firstFault (barrierChecks s n.toNat ++ [(arrivalOpen s s.focus n.toNat, 0x51, 0)]))
    fun s => arriveAt s n.toNat

/-- The wait condition of `bar.wait`. -/
def barWaitCond (s : State) (n : Nat) : WaitResult :=
  match firstFault (barrierChecks s n ++ [((outstanding s s.focus n).isNone, 0x51, 0)]) with
  | some f => .fault f.1 f.2
  | none => if arrivalOpen s s.focus n then .unmet else .met

def execBarWait (n : BitVec 9) (s : State) : Host.Outcome State Fault Refusal :=
  waits s .c (barWaitCond s n.toNat) false (clearArrival s n.toNat)

/-- The wait condition of `bar.sync`, whose arrival `synced` records once it is made; after that it waits as `bar.wait` does,
with its checks (R331). -/
def barSyncCond (s : State) (n : Nat) : WaitResult :=
  if s.me.synced = some n then barWaitCond s n
  else
    match firstFault (barrierChecks s n ++ [(arrivalOpen s s.focus n, 0x51, 0)]) with
    | some f => .fault f.1 f.2
    | none => .unmet

/-- The arrival that a `bar.sync` makes at its first presentation, in an open span: a faulting one makes none (R331). -/
def syncArrive (s : State) (n : Nat) : State :=
  if s.me.span && s.me.synced != some n && barSyncCond s n == .unmet then
    (arriveAt s n).modCore s.focus fun c => { c with synced := some n }
  else s

def execBarSync (n : BitVec 9) (s : State) : Host.Outcome State Fault Refusal :=
  waits (syncArrive s n.toNat) .c (barSyncCond s n.toNat) false (clearArrival s n.toNat)

/-- Whether the bundle that a waiting strand presents waits on barrier n. -/
def waitsOn (s : State) (st : StrandId) (n : Nat) : Bool :=
  (s.coreOf st).status == .waiting &&
  match fetch (s.tileOf st.tile) st.core.toNat (s.coreOf st).pc with
  | .illegal _ => false
  | .bundle _ bytes =>
    (decodeBundle bytes).any fun p =>
      match p.2 with
      | some (.barWait m) => m.toNat == n
      | some (.barSync m) => m.toNat == n
      | _ => false

/-- Gate timeout (0x71) of a member that waits on a phase 2^24 ticks after its own arrival (R329): one that waits in that tick,
since a wait first presented later takes none. DESIGN CHOICE: notes/assumptions/40.md. -/
def barrierTimeout (s : State) (st : StrandId) (n : Nat) : State :=
  let due := match find (barrierOf s st.tile.claim n).arrived st with
    | some a => a + 2 ^ 24 == s.now st.tile.claim
    | none => false
  if due && arrivalOpen s st n && waitsOn s st n then
    let c := s.coreOf st
    takeEarlyFault s st 0x71 (skipPadding (s.tileOf st.tile) st.core.toNat c.pc) SlotClass.c.index
  else s

/-! ## Gates (R114, R115) -/

/-- The latest arrival at a pending gate, once every member has arrived or retired. -/
def gateArrival (s : State) (cl n : Nat) : Option Nat :=
  let b := barrierOf s cl n
  ((membersOf s cl n).mapM fun st =>
    match find b.gated st with
    | some a => some a
    | none => if (s.coreOf st).status = CoreStatus.retired then (s.coreOf st).retiredAt else none).map fun (l : List Nat) =>
      l.foldl max 0

/-- V of R114. -/
def gateVisible (s : State) (cl n : Nat) : Nat :=
  ((membersOf s cl n).map fun st => (visOf s st (s.now cl)).foldl max 0).foldl max 0

def gateReds (s : State) (cl n : Nat) : Bool := (membersOf s cl n).any fun st => !(redsOf s st).isEmpty

/-- Whether some tile of a claim has a count of its own (R268). -/
def drifted (s : State) (cl : Nat) : Bool := s.tiles.any fun p => p.1.claim == cl && p.2.off != 0

/-- Fixes the release tick of a pending gate once every member has arrived or retired (R114).
DEDUCED: notes/assumptions/40.md. -/
def planGate (s : State) (cl n : Nat) : State :=
  let b := barrierOf s cl n
  if b.gated.isEmpty then s
  else
    match gateArrival s cl n with
    | none => s
    | some a =>
      let r := ceilTo s.wheel (max (a + 320) (gateVisible s cl n))
      (setBarrier s cl n { b with release := some r }).planEv cl (if drifted s cl then r - 2 else r) phRun (.gateRelease cl n)

/-- A member leaves its gate: a closed span, a new base, no valid latch (R114). -/
def ungate (s : State) (st : StrandId) (r : Nat) : State :=
  let s := s.modCore st fun c => { c with status := .running, span := false, rebase := BitVec.ofNat 64 r }
  s.push (.runEnd st)

/-- A move that waits for a gate waits no more (R36, R122). -/
def MoveReq.pass (m : MoveReq) : MoveReq := { m with gate := if m.gate = .waits then .passed else m.gate }

/-- Whether some gate of a claim releases in the present tick. -/
def gateOpens (s : State) (cl : Nat) : Bool :=
  (s.claimOf cl).barriers.any fun p =>
    match p.2.release with
    | some r => decide (r ≤ s.now cl) && !gateReds s cl p.1 && decide (gateVisible s cl p.1 ≤ r)
    | none => false

/-- A gate releases every arrived member whose tile's count has reached the release tick, or waits on for a write (R114,
R266). -/
def releaseGate (s : State) (cl n : Nat) : State :=
  let b := barrierOf s cl n
  let now := s.now cl
  match b.release with
  | none => s
  | some r =>
    if gateReds s cl n ∨ r < gateVisible s cl n then
      let r' := ceilTo s.wheel (max (now + 1) (gateVisible s cl n))
      (setBarrier s cl n { b with release := some r' }).planEv cl r' phRun (.gateRelease cl n)
    else
      let go := b.gated.filter fun p => decide (r ≤ (s.countOf p.1.tile).toNat)
      let rest := b.gated.filter fun p => !decide (r ≤ (s.countOf p.1.tile).toNat)
      let s := (go.filter fun p => (s.coreOf p.1).status == .gate n).foldl (fun s p => ungate s p.1 r) s
      let s := s.modClaim cl fun c => { c with moves := c.moves.map MoveReq.pass }
      if rest.isEmpty then setBarrier s cl n { b with gated := [], release := none }
      else (setBarrier s cl n { b with gated := rest }).planEv cl (now + 1) phRun (.gateRelease cl n)

/-- An arrival is still missing 2^24 ticks after the first: every arrived member takes gate timeout against the bundle
after its gate, and the gate is cleared (R115). The first arrival is the first `gate` that a member issues, not a retirement
before it, and a member that arrives or retires in the very tick of the timeout is still missing.
DESIGN CHOICE: notes/assumptions/40.md. -/
def gateTimeout (s : State) (cl n : Nat) : State :=
  let b := barrierOf s cl n
  match b.gated, b.release with
  | _ :: _, none =>
    if s.now cl = b.since + 2 ^ 24 then
      b.gated.foldl (fun s p =>
        let c := s.coreOf p.1
        if c.status = .gate n then
          takeEarlyFault (s.setCore p.1 { c with status := .running }) p.1 0x71
            (skipPadding (s.tileOf p.1.tile) p.1.core.toNat c.pc)
        else s)
        (setBarrier s cl n { b with gated := [], release := none })
    else s
  | _, _ => s

/-- `gate n`: the strand arrives and issues nothing more until the release (R112, R114, R328, R329). The first one of a phase
starts the count of R115. DESIGN CHOICE: notes/assumptions/40.md. -/
def execGate (n : BitVec 9) (s : State) : Host.Outcome State Fault Refusal :=
  let cl := s.focus.tile.claim
  let k := n.toNat
  alwaysC s .c true
    (firstFault [(!isMember s s.focus k, if s.me.span then 0x74 else 0x51, 0),
      ((membersOf s cl k).any fun st => arrivalOpen s st k, 0x51, 0)])
    fun s =>
      let b := barrierOf s cl k
      let s := setBarrier s cl k { b with
        gated := put b.gated s.focus (s.countOf s.focus.tile).toNat
        since := if b.gated.isEmpty then s.t else b.since }
      let s := s.modCore s.focus fun c => { c with status := .gate k }
      planGate (if b.gated.isEmpty then s.planEv cl (s.t + 2 ^ 24) phRun (.gateTimeout cl k) else s) cl k

/-! ## Retirement at barriers and gates -/

/-- A retired member counts as arrived in the phases and gates that miss it (R115, R329). -/
def settleBarriers (s : State) (st : StrandId) : State :=
  let cl := st.tile.claim
  ((s.claimOf cl).barriers.filter fun p => isMember s st p.1).foldl (fun s p =>
    let s := if (find p.2.arrived st).isSome then s else planPhase s cl p.1
    if p.2.release.isSome then s else planGate s cl p.1) s

end Sys2Proof.Machine
end

