-- ==== Sys2Proof/Machine/Sequence.lean ====
section
/-!
DEFINITION. The sequencing forms of the C slot (spec/04): branches, calls, loops, `halt`, `tkawait`, completion mechanisms,
non-pre-emptible sections, with the arrivals and the retirement that follow from them.
-/

namespace Sys2Proof.Machine

/-! ## Transfers (R98, R102 to R104) -/

/-- A taken transfer: two delay bundles, then the bundle at the target (R98). -/
def branchTo (s : State) (target : BitVec 64) : State := s.modCore s.focus fun c => { c with xfer := some (target, 2) }

/-- The target of an offset field: signed bytes from the bundle's header (R102). -/
def labelOf (s : State) (ofs : BitVec 18) : BitVec 64 := s.headerPc + sx64 ofs

def execNop (s : State) : Host.Outcome State Fault Refusal := .next s

def execBr (ofs : BitVec 18) (s : State) : Host.Outcome State Fault Refusal := .next (branchTo s (labelOf s ofs))

/-- A conditional branch (R102). -/
def branchIf (s : State) (a : Src 6) (taken : Word → Bool) (go : State → State) : Host.Outcome State Fault Refusal :=
  let v := s.me.srcG a
  always s .c (s.me.ok a) fun s =>
    let s := s.taintIf (anyPsn v.psn)
    if taken v.val then go s else s

def execBrz (a : Src 6) (ofs : BitVec 18) (s : State) := branchIf s a (fun v => v == 0) fun s => branchTo s (labelOf s ofs)
def execBrnz (a : Src 6) (ofs : BitVec 18) (s : State) := branchIf s a (fun v => v != 0) fun s => branchTo s (labelOf s ofs)

/-- `brk` pops the top entry of the loop stack at t (R108). -/
def execBrk (a : Src 6) (ofs : BitVec 18) (s : State) :=
  branchIf s a (fun v => v != 0) fun s =>
    branchTo (s.modCore s.focus fun c => { c with loops := c.loops.tail }) (labelOf s ofs)

/-- The header after the second delay bundle in sequential order (R103). -/
def returnAddress (s : State) : BitVec 64 :=
  let next := nextHeader s.myTile s.focus.core.toNat
  next (next (next s.headerPc))

def execCall (d : BitVec 4) (ofs : BitVec 18) (s : State) : Host.Outcome State Fault Refusal :=
  .next ((branchTo s (labelOf s ofs)).landA .c 3 (.reg d) Option.none (.clean (returnAddress s)))

def execRet (a : Src 4) (g : Guard) (s : State) : Host.Outcome State Fault Refusal :=
  let v := s.me.srcA a
  guarded s .c g (s.me.ok a) fun s => branchTo (s.taintIf (anyPsn v.psn)) v.val

/-! ## Loops (R105 to R107) -/

def execLoop (a : Src 6) (ofs : BitVec 18) (s : State) : Host.Outcome State Fault Refusal :=
  let v := s.me.srcG a
  let e := labelOf s ofs
  let start := s.nextPc
  alwaysC s .c (s.me.ok a)
    (firstFault [(start != e && v.val != 0 && decide (s.me.loops.length ≥ 4), 0x04, 0)])
    fun s =>
      let s := s.taintIf (anyPsn v.psn)
      if start = e then s
      else if v.val = 0 then redirect s e
      else s.modCore s.focus fun c => { c with loops := ⟨start, e, v.val.toNat⟩ :: c.loops }

/-- What sequential fetch finds at the next header q after a bundle that began at `at_`: the loop stack and the header of
the bundle that issues next (R107). -/
def closeLoops (at_ q : BitVec 64) : List LoopEntry → List LoopEntry × BitVec 64
  | [] => ([], q)
  | e :: rest =>
    if q = e.stop then
      if e.count > 1 then ({ e with count := e.count - 1 } :: rest, e.start) else closeLoops at_ q rest
    else if at_.toNat < e.stop.toNat ∧ e.stop.toNat < q.toNat then closeLoops at_ q rest
    else (e :: rest, q)

/-- Whether the bundle at an address is one of the last three of the body of the innermost loop (R101). -/
def inLoopTail (t : Tile) (core : Nat) (at_ : BitVec 64) : List LoopEntry → Bool
  | [] => false
  | e :: _ =>
    let next := nextHeader t core
    decide (e.start.toNat ≤ at_.toNat ∧ at_.toNat < e.stop.toNat) &&
      (next at_ == e.stop || next (next at_) == e.stop || next (next (next at_)) == e.stop)

/-! ## Completion mechanisms (R116 to R119) -/

/-- The tick at which an update that the focus strand sends to a tile arrives (R116). -/
def arrivalTick (s : State) (dest : TileId) : Nat := s.t + s.lh * (hops s.focus.tile dest + 1)

/-- The claim's tile (0, 0). -/
def State.rootTile (s : State) : TileId := ⟨s.focus.tile.claim, 0, 0⟩

/-- Sends an update of claim state; the claim's completion waits for its arrival (R116, R120). -/
def sendUpdate (s : State) (dest : TileId) (i : Event) : State :=
  (s.modClaim s.focus.tile.claim fun c => { c with lastDone := max c.lastDone (arrivalTick s dest) }).plan ⟨s.focus.tile.claim, arrivalTick s dest, phLand, 0, s.t, SlotClass.c.index, none, none, 0, arrivalTick s dest, .ev i⟩

/-- The strand that a receiver word names (R117). -/
def receiverOf (s : State) (r : Word) : StrandId :=
  ⟨⟨s.focus.tile.claim, (r.extractLsb' 0 8).toNat, (r.extractLsb' 8 8).toNat⟩, r.extractLsb' 16 2⟩

/-- Whether a receiver word names another strand that the image places in the claim. -/
def receiverOk (s : State) (r : Word) : Bool :=
  let st := receiverOf s r
  r.extractLsb' 18 14 == 0 && (s.claimOf s.focus.tile.claim).inside st.tile.x st.tile.y && st != s.focus &&
    (s.coreOf st).status != .absent

def State.mech (s : State) : Mech := (s.claimOf s.focus.tile.claim).mech

def execWsplit (a b : Src 6) (g : Guard) (s : State) : Host.Outcome State Fault Refusal :=
  let share := s.me.srcG a
  let r := s.me.srcG b
  let held := s.me.weight
  guardedC s .c g (s.me.ok a && s.me.ok b)
    (firstFault [(s.mech != .weight, 0x73, 0), (share.val == 0 || decide (held.toNat ≤ share.val.toNat), 0x73, 0),
      (!receiverOk s r.val, 0x73, 0)])
    fun s =>
      let s := (s.taintIf (anyPsn r.psn)).modCore s.focus fun c => { c with weight := held - share.val.setWidth 33 }
      sendUpdate s (receiverOf s r.val).tile
        (.weightArrival s.focus.tile.claim (some (receiverOf s r.val)) share.val.toNat)

/-- Returns some of the focus strand's weight (R118). -/
def returnWeight (s : State) (share : Nat) : State :=
  sendUpdate (s.modCore s.focus fun c => { c with weight := c.weight - BitVec.ofNat 33 share }) s.rootTile
    (.weightArrival s.focus.tile.claim none share)

def execWret (a : Src 6) (g : Guard) (s : State) : Host.Outcome State Fault Refusal :=
  let share := s.me.srcG a
  guardedC s .c g (s.me.ok a)
    (firstFault [(s.mech != .weight, 0x73, 0),
      (share.val == 0 || decide (s.me.weight.toNat < share.val.toNat), 0x73, 0)])
    fun s => returnWeight s share.val.toNat

/-- A share of weight arrives: at a strand that has not retired, or at the claim's returned total (R117, R118). A share that
arrives in its receiver's retirement tick comes before the retirement. DESIGN CHOICE: notes/assumptions/53.md. -/
def weightArrives (s : State) (cl : Nat) (rcv : Option StrandId) (share : Nat) : State :=
  match rcv with
  | some r =>
    if (s.coreOf r).status = .retired then s.modClaim cl fun c => { c with returned := c.returned + share }
    else s.modCore r fun c => { c with weight := c.weight + BitVec.ofNat 33 share }
  | none => s.modClaim cl fun c => { c with returned := c.returned + share }

def execJcbAdd (a : Src 6) (g : Guard) (s : State) : Host.Outcome State Fault Refusal :=
  let n := s.me.srcG a
  guardedC s .c g (s.me.ok a) (firstFault [(s.mech != .jcb, 0x73, 0), (s.me.posted, 0x72, 0)])
    fun s => sendUpdate s s.rootTile (.jcbTotalArrival s.focus n.val.toNat)

/-- A raise of the total arrives: an overflow is a late raise (0x72) against the bundle that the strand presents now, or
leaves the completion unsatisfied when the strand issues nothing more (R119, R339). Of it and a section cap (0x70) of the same
tick the one noted later is taken. DESIGN CHOICE: notes/assumptions/41.md. -/
def totalArrives (s : State) (st : StrandId) (n : Nat) : State :=
  let cl := st.tile.claim
  let c := s.claimOf cl
  if c.jtotal + n < 2 ^ 64 then s.setClaim cl { c with jtotal := c.jtotal + n }
  else
    match (s.coreOf st).status with
    | .retired | .halted | .absent | .stopped => s.setClaim cl { c with jbad := true }
    | .running | .waiting | .tkawait _ | .gate _ => s.modCore st fun x => { x with pendingFault := some 0x72 }

def execJcbPost (g : Guard) (s : State) : Host.Outcome State Fault Refusal :=
  guardedC s .c g true (firstFault [(s.mech != .jcb, 0x73, 0)]) fun s =>
    sendUpdate (s.modCore s.focus fun c => { c with posted := true }) s.rootTile (.jcbPostArrival s.focus.tile.claim)

/-! ## Non-pre-emptible sections (R121) -/

/-- The cap on a section, in ticks. -/
def npreCap : Nat := 2 ^ 20

def execNpreOn (g : Guard) (s : State) : Host.Outcome State Fault Refusal :=
  guarded s .c g true fun s =>
    match s.me.npre with
    | some _ => s
    | none =>
      (s.modCore s.focus fun c => { c with npre := some s.t }).planEv s.focus.tile.claim (s.t + npreCap + 1) phRun
        (.nonPreEmptibleCap s.focus)

def execNpreOff (g : Guard) (s : State) : Host.Outcome State Fault Refusal :=
  guarded s .c g true fun s => s.modCore s.focus fun c => { c with npre := none }

/-- A section is still open after its cap: the strand takes 0x70 against the bundle it presents now (R121, R339). An `npre.off`
issued at the last tick of the cap closes the section in time. DESIGN CHOICE: notes/assumptions/53.md. -/
def sectionCap (s : State) (st : StrandId) : State :=
  match (s.coreOf st).npre with
  | some t0 =>
    if t0 + npreCap + 1 = s.now st.tile.claim then s.modCore st fun c => { c with pendingFault := some 0x70 } else s
  | none => s

/-! ## Halt and retirement (R109) -/

/-- The retirement tick of a strand that halts now: the latest landing or visibility tick of what it issued (R109), the effect
of an `stg.go` at its t + 1 among them. DESIGN CHOICE: notes/assumptions/53.md. -/
def retirementTick (s : State) (st : StrandId) : Nat :=
  (s.agenda.filterMap fun e => if e.owner = some st then some e.retire else none).foldl max (s.now st.tile.claim)

def execHalt (g : Guard) (s : State) : Host.Outcome State Fault Refusal :=
  guarded s .c g true fun s =>
    let s := s.modCore s.focus fun c => { c with npre := none }
    let w := s.me.weight.toNat
    let s := if s.mech = .weight ∧ w ≠ 0 then returnWeight s w else s
    let s := s.modCore s.focus fun c => { c with status := .halted }
    let r := retirementTick s s.focus
    if r = s.t then s.push (.strandRetirement s.focus)
    else s.planEv s.focus.tile.claim r (phLand + 1) (.strandRetirement s.focus)

/-- Whether every strand of a claim has retired. -/
def allRetired (s : State) (cl : Nat) : Bool := (strandsOf s cl).all fun st => (s.coreOf st).status == .retired

/-- The operand slots of a core are released at the later of now and their U (R251). In a tick in which a strand halts and
retires, the cores that issue after it find the slots free. DESIGN CHOICE: notes/assumptions/54.md. -/
def releaseSlots (s : State) (st : StrandId) : State :=
  let n := s.now st.tile.claim
  let t := s.tileOf st.tile
  ((List.range t.slots).filter fun i => (t.opSlots.at (BitVec.ofNat 8 i)).owner == some st.core).foldl (fun s i =>
    let u := (t.opSlots.at (BitVec.ofNat 8 i)).u
    if u ≤ n then s.modTile st.tile fun t =>
      { t with opSlots := t.opSlots.put (BitVec.ofNat 8 i) { t.opSlots.at (BitVec.ofNat 8 i) with owner := none } }
    else s.planEv st.tile.claim u phLand (.resultLanding st (.freeSlot i))) s

/-- The tiles against which a claim's trackers that have not fired fall short, one for each (R308, R312). -/
def shortTrackers (s : State) (cl : Nat) : List TileId :=
  (s.ctxs.filter fun p => p.2.armed || p.2.tracks).filterMap fun p =>
    match p.2.owner with
    | some o => if o.tile.claim = cl then some o.tile else none
    | none => none

/-- A halted strand retires: its read mappings are withdrawn, its shapes discarded, its slots released (R109, R225, R251);
when it is the last of its claim, every tracker that has not fired is short (0x46, R308). -/
def retireStrand (s : State) (st : StrandId) : State :=
  let n := s.now st.tile.claim
  let s := s.modCore st fun c => { c with status := .retired, retiredAt := some n, shapes := Tab.all 2 (.clean 0) }
  let s := s.modTile st.tile fun t => { t with intents := t.intents ++ retireIntents s st }
  let s := (allSlots.filter fun u => (entryIn s st.tile st.core u).st == .read).foldl (fun s u => withdrawAt s st u) s
  let s := settleBarriers (releaseSlots s st) st
  if allRetired s st.tile.claim then
    (shortTrackers s st.tile.claim).foldl (fun s t => claimFault s t 0x46 0) s
  else s

/-! ## `tkawait` (R110) -/

/-- The target tick of `tkawait` with its source's mark: read at the first presentation of its bundle and kept while it waits
(R110, R343). -/
def tkTarget (s : State) (a : Src 4) (dt : BitVec 18) : MQuad :=
  match s.me.tkAt with
  | some n => n
  | none => ⟨(s.me.srcA a).val + dt.setWidth 64, (s.me.srcA a).psn⟩

/-- Whether the strand's count has reached the target. -/
def tkReached (s : State) (a : Src 4) (dt : BitVec 18) : Bool :=
  decide ((tkTarget s a dt).val.toNat ≤ (s.countOf s.focus.tile).toNat)

/-- `tkawait`: at its target or later it issues, else the bundle waits. -/
def execTkawait (a : Src 4) (dt : BitVec 18) (s : State) : Host.Outcome State Fault Refusal :=
  always s .c (s.me.ok a) fun s =>
    if tkReached s a dt then
      (s.taintIf (anyPsn (tkTarget s a dt).psn)).modCore s.focus fun c => { c with status := .running, tkAt := none }
    else (s.taintIf (anyPsn (tkTarget s a dt).psn)).modCore s.focus fun c =>
      { c with status := .tkawait (tkTarget s a dt).val.toNat, tkAt := some (tkTarget s a dt) }

end Sys2Proof.Machine
end

