-- ==== Sys2Proof/Machine/System.lean ====
section
/-!
DEFINITION. The system forms (spec/13 R351 to R353) and the control registers (R349, R350).
-/

namespace Sys2Proof.Machine

/-! ## Traps (R351, R352) -/

def execTrap (code : BitVec 16) (s : State) : Host.Outcome State Fault Refusal := .next (s.faultNext .c 0x7F code)

def execSvc (code : BitVec 16) (s : State) : Host.Outcome State Fault Refusal := .next (s.faultNext .c 0x7D code)

/-- `brkpt` with BE = 0 does nothing. -/
def execBrkpt (code : BitVec 16) (s : State) : Host.Outcome State Fault Refusal :=
  .next (if s.me.dbg then s.faultNext .c 0x7E code else s)

/-- `iret`: outside a handler it takes trap state (0x75). -/
def execIret (s : State) : Host.Outcome State Fault Refusal :=
  .next (s.checked .c (firstFault [(!s.me.fAct, 0x75, 0)]) (returnFrom s))

/-! ## Control registers (R349, R350) -/

/-- `cr.fault` as a word. -/
def Core.faultWord (c : Core) : Quad :=
  (0#32 ++ c.fCode ++ BitVec.ofBool c.fAct ++ BitVec.ofBool c.fNest ++ c.fDly ++ 0#1 ++ c.fClass ++ c.fCause : BitVec 64)

/-- `cr.coord` of a strand. -/
def coordWord (s : State) (st : StrandId) : Quad :=
  let c := s.claimOf st.tile.claim
  let g := globalOf c st.tile
  BitVec.ofNat 64 (c.wafer * 2 ^ 48 + st.tile.y * 2 ^ 40 + st.tile.x * 2 ^ 32 + st.core.toNat * 2 ^ 24 + fieldOf g * 2 ^ 16 +
    g.2 * 2 ^ 8 + g.1)

/-- `cr.lag` (R259). -/
def lagWord (s : State) (t : TileId) : Quad :=
  let x := s.tileOf t
  (0#16 ++ x.holds ++ x.peak ++ BitVec.ofNat 16 (lagOf s t) : BitVec 64)

/-- `cr.drift` (R269). -/
def driftWord (s : State) (t : TileId) : Quad :=
  let x := s.tileOf t
  let pend := match x.pend with | some n => decide (n ≤ s.now t.claim) | none => false
  (0#43 ++ BitVec.ofBool pend ++ x.delta ++ x.dir : BitVec 64)

/-- The value of a control register as the focus strand reads it at t. -/
def crValue (s : State) : CReg → Quad
  | .tick => s.countOf s.focus.tile
  | .rebase => s.me.rebase
  | .coord => coordWord s s.focus
  | .stage => s.me.stage.setWidth 64
  | .part => s.myTile.part
  | .hop => BitVec.ofNat 64 s.lh
  | .wheel => BitVec.ofNat 64 s.wheel
  | .rq => BitVec.ofNat 64 (s.replayLog2 * 65536 + (if s.me.taint then 2 else 0) + if s.me.npre.isSome then 1 else 0)
  | .heapBase => s.me.heapBase
  | .heapLimit => s.me.heapLimit
  | .heapOff => s.me.heapOff
  | .weight => s.me.weight.setWidth 64
  | .span => if s.me.span then 1 else 0
  | .fault => s.me.faultWord
  | .fdata => s.me.fdata
  | .epc => s.me.epc.setWidth 64
  | .etgt => s.me.etgt.setWidth 64
  | .tvec => (BitVec.ofBool s.me.tvecEn ++ 0#41 ++ s.me.tvec : BitVec 64)
  | .escr => s.me.escr
  | .dbg => if s.me.dbg then 1 else 0
  | .lag => lagWord s s.focus.tile
  | .collide => s.myTile.collide
  | .drift => driftWord s s.focus.tile
  | .wclk => Config.wallNanoseconds s.wall
  | .cyc => BitVec.ofNat 64 (ownCycles s s.focus.tile)

def execCrget (d : BitVec 6) (f : Bool) (r : CReg) (s : State) : Host.Outcome State Fault Refusal :=
  let v := crValue s r
  .next (if f then s.landA .c 2 (.reg (d.setWidth 4)) Option.none (.clean v)
    else s.landG .c 2 (.reg d) Option.none (.clean (v.setWidth 32)))

/-- The registers whose value is an address of the strand's code (R343, R349). DEDUCED: notes/assumptions/36.md. -/
def crIsAddress : CReg → Bool
  | .epc | .etgt | .tvec => true
  | .tick | .rebase | .coord | .stage | .part | .hop | .wheel | .rq | .heapBase | .heapLimit | .heapOff | .weight | .span
  | .fault | .fdata | .escr | .dbg | .lag | .collide | .drift | .wclk | .cyc => false

/-- The place of a `crset` in its tick: one of `cr.drift` comes before the flits that leave the routers, so that a detection of
the tick stands (R267, R353). -/
def crsetPhase : CReg → Nat
  | .drift => phWire
  | .tick | .rebase | .coord | .stage | .part | .hop | .wheel | .rq | .heapBase | .heapLimit | .heapOff | .weight | .span
  | .fault | .fdata | .epc | .etgt | .tvec | .escr | .dbg | .lag | .collide | .wclk | .cyc => phLand

/-- `crset`: the write lands at t + 1 (R353). -/
def execCrset (a : Src 6) (f : Bool) (r : CReg) (s : State) : Host.Outcome State Fault Refusal :=
  let v := s.me.srcF f a
  always s .c (s.me.ok a) fun s =>
    (s.taintIf (crIsAddress r && anyPsn v.psn)).plan ⟨s.focus.tile.claim, s.t + 1, crsetPhase r, 0, s.t, SlotClass.c.index,
      some s.focus, none, s.t + 1, 0, .ev (.resultLanding s.focus (.creg r v.val))⟩

/-- A `crset` lands in a strand's registers (R350): read-only fields and reserved bits keep their values. -/
def Core.setCreg (c : Core) (r : CReg) (v : Quad) : Core :=
  match r with
  | .fault => { c with
      fCode := v.extractLsb' 16 16, fNest := v.getLsbD 14, fDly := v.extractLsb' 12 2, fClass := v.extractLsb' 8 3
      fCause := v.extractLsb' 0 8 }
  | .fdata => { c with fdata := v }
  | .epc => { c with epc := v.extractLsb' 0 22 }
  | .etgt => { c with etgt := v.extractLsb' 0 22 }
  | .tvec => { c with tvecEn := v.getLsbD 63, tvec := v.extractLsb' 0 22 }
  | .escr => { c with escr := v }
  | .dbg => { c with dbg := v.getLsbD 0 }
  | .span | .drift | .tick | .rebase | .coord | .stage | .part | .hop | .wheel | .rq | .heapBase | .heapLimit | .heapOff
  | .weight | .lag | .collide | .wclk | .cyc => c

/-- A strand enters an open span (R111). -/
def openSpan (s : State) (st : StrandId) : State := s.modCore st fun c => { c with span := true }

/-- A `crset` lands: the span bit opens a span, DIR clears where 1 is written, the others are written (R111, R353). -/
def landCreg (s : State) (st : StrandId) (r : CReg) (v : Quad) : State :=
  match r with
  | .span => if v.getLsbD 0 then s.push (.openSpanEntry st) else s
  | .drift => s.modTile st.tile fun t => { t with dir := t.dir &&& ~~~(v.extractLsb' 0 4) }
  | .fault | .fdata | .epc | .etgt | .tvec | .escr | .dbg | .tick | .rebase | .coord | .stage | .part | .hop | .wheel | .rq
  | .heapBase | .heapLimit | .heapOff | .weight | .lag | .collide | .wclk | .cyc => s.modCore st fun c => c.setCreg r v

end Sys2Proof.Machine
end

