-- ==== Sys2Proof/Machine/Effects.lean ====
section
/-!
DEFINITION. What happens at later ticks: landings, bank commits, map and format changes, reductions, array steps, flits,
staging steps, synchronisation and completion arrivals (the event rows of spec/95_what_each_step_holds.md that follow
from issued syllables).
-/

namespace Sys2Proof.Machine

/-! ## Landings (R97, R100) -/

/-- Results are written to their registers and their latch (R50, R51). -/
def landResult (s : State) (st : StrandId) (regs : List RegWrite) (latch : Option (Latch × MVec)) : State :=
  s.modCore st fun c =>
    let c := regs.foldl Core.applyWrite c
    match latch with
    | none => c
    | some (l, v) => c.setLatch l ⟨v, true⟩

/-- A change of a bank's stream state (R190 to R192). -/
def changeStream (x : Stream) : StreamChange → Stream
  | .push n => { x with c := x.c + n }
  | .pop => ⟨x.h + 16, x.c - 16⟩
  | .reset => ⟨0, 0⟩

/-- A landing slot is posted (R285); its tick comes now or later (R281), and the strand's retirement waits for it (R97,
R109). -/
def postSlot (s : State) (st : StrandId) (tag : BitVec 12) (due : Nat) : State :=
  let s := s.modTile st.tile fun t => { t with posts := t.posts ++ [⟨tag, due, st.core⟩] }
  let n := s.now st.tile.claim
  if due ≤ n then s.push (.landedFlitDue st.tile tag due)
  else s.plan ⟨st.tile.claim, due, phLand + 1, 0, n, 8, some st, none, due, 0, .ev (.landedFlitDue st.tile tag due)⟩

/-- A command's context number of a strand, when bound. -/
def withCtx (s : State) (st : StrandId) (c : BitVec 8) (f : CtxId → State) : State :=
  match bindingOf s st c with
  | some k => f k
  | none => s

/-- What a landing does (R97). -/
def landNow (s : State) (st : StrandId) : Landing → State
  | .result regs latch => landResult s st regs latch
  | .shape i v => s.modCore st fun c => { c with shapes := c.shapes.put i v }
  | .creg r v => landCreg s st r v
  | .seed key => s.modCore st fun c => { c with rngK := key, rngN := 0 }
  | .stream bank c => s.modTile st.tile fun t => { t with streams := t.streams.put bank (changeStream (t.streams.at bank) c) }
  | .aliasTag i tag => s.modCore st fun c => { c with aliases := c.aliases.put i (some tag) }
  | .post tag due => postSlot s st tag due
  | .claimSlot n => s.modTile st.tile fun t =>
      let k := BitVec.ofNat 8 n
      { t with opSlots := t.opSlots.put k { t.opSlots.at k with owner := some st.core, p := 0, fmt := none } }
  | .freeSlot n => s.modTile st.tile fun t =>
      let k := BitVec.ofNat 8 n
      { t with opSlots := t.opSlots.put k { t.opSlots.at k with owner := none } }
  | .zeroTile n => s.modTile st.tile fun t =>
      let k := BitVec.ofNat 8 n
      { t with accs := t.accs.put k { t.accs.at k with zero := BitVec.allOnes 256 } }
  | .ctxReg c r v => withCtx s st c fun k => s.modCtx k fun x => { x with shadow := x.shadow.put r v }
  | .ctxGo c => withCtx s st c fun k => commitCmd s k
  | .redEntry e => s.modTile st.tile fun t => { t with redBuf := t.redBuf ++ [e] }
  | .leave => s.modCore st fun c => { c with fAct := false, loops := c.aside, aside := [] }
  | .hold q => raiseHold s st.tile q

def execResultLanding (st : StrandId) (l : Landing) (s : State) : Host.Outcome State Fault Refusal := .next (landNow s st l)

/-- A run ends: no latch is valid (R99). -/
def execRunEnd (st : StrandId) (s : State) : Host.Outcome State Fault Refusal := .next (s.modCore st Core.endRun)

def execOpenSpanEntry (st : StrandId) (s : State) : Host.Outcome State Fault Refusal := .next (openSpan s st)

/-- A waiting bundle is presented again: the issue unit takes it in this tick (R113). -/
def execWaitFormIssue (st : StrandId) (s : State) : Host.Outcome State Fault Refusal :=
  .next { s with todo := .issue st :: s.todo }

/-- A `tkawait` has reached its target: its bundle is presented (R110). -/
def execTkawaitIssue (st : StrandId) (s : State) : Host.Outcome State Fault Refusal :=
  .next { s with todo := .issue st :: s.todo }

/-! ## Banks (R206, R216, R222) -/

/-- A write access commits (R206): a row of an accumulator bank leaves its zero bit (R229). Rows that the array wrote before a
stop are only counted (R250, R308). -/
def commitData (s : State) (t : TileId) (core : Nat) (bank : BitVec 6) : BankData → State
  | .zeroRow row => commitBytes s t core bank (rowBytes row (.clean 0))
  | .counted rows => countRows s t bank rows
  | .bytes l =>
    if (s.tileOf t).isAcc bank.toNat then
      (rowsOf l).foldl (fun s row => (commitAccRow s t bank row (l.filter fun b => b.off / 64 = row)).modTile t fun x =>
        x.clearZero bank.toNat row) s
    else commitBytes s t core bank l

def execBankCommit (t : TileId) (core : Nat) (bank : BitVec 6) (d : BankData) (s : State) : Host.Outcome State Fault Refusal :=
  .next (commitData s t core bank d)

def execMapChangeEffect (t : TileId) (ch : MapChange) (s : State) : Host.Outcome State Fault Refusal :=
  .next (applyChange s t ch)

def execFormatChangeEffect (t : TileId) (bank : BitVec 6) (f : Fmt) (s : State) : Host.Outcome State Fault Refusal :=
  .next (s.modTile t fun x => { x with fmts := x.fmts.put bank f })

/-! ## Reductions (R335) -/

/-- One lane of a reduction. -/
def redLane (kind : RedKind) (w x : Nat) : Nat :=
  match kind with
  | .f32 => roundNum .fp32 ((decodeNum (.flt .fp32) w).add (decodeNum (.flt .fp32) x))
  | .s32 => (w + x) % 2 ^ 32

/-- The bytes that the application of an entry writes. -/
def redBytes (t : Tile) (e : RedEntry) : List BankByte :=
  let old := t.readCells e.bank (rowCells e.row)
  let new : MVec := ⟨map2 32 (redLane e.kind) old.val e.data.val, old.psn ||| e.data.psn⟩
  bytesAt new (maskCells e.en (cellsRow (64 * e.row)))

/-- The reorder buffer applies the entry for N, if it holds one (R335). -/
def applyReduction (s : State) (t : TileId) : State :=
  let x := s.tileOf t
  match x.redBuf.find? fun e => e.idx == x.redN with
  | none => s
  | some e =>
    let n := s.now t.claim
    let s := (s.setTile t { x with redN := x.redN + 1, redBuf := x.redBuf.erase e }).modClaim t.claim fun c =>
      { c with lastDone := max c.lastDone (n + 1) }
    if e.en = 0 then s
    else if x.windowAt e.bank n then claimFault s t 0x14 0
    else
      let s := checkRead (s.modTile t fun x => { x with touched := (e.bank, false) :: x.touched }) t e.core.toNat e.bank
        (maskCells e.en (cellsRow (64 * e.row)))
      s.plan ⟨t.claim, n, phCommit, coreRank e.core n 3, e.iss, SlotClass.m.index, some ⟨t, e.core⟩, some (n + 1), 0, n + 1,
        .ev (.bankCommit t e.core.toNat e.bank (.bytes (redBytes x e)))⟩

def execReductionApply (t : TileId) (s : State) : Host.Outcome State Fault Refusal := .next (applyReduction s t)

/-! ## Late reads (R206) -/

/-- The marks of a result of an operation issued by a strand that was tainted or not. -/
def markIf {n m : Nat} (taint : Bool) (v : Marked n m) : Marked n m := if taint then ⟨v.val, BitVec.allOnes m⟩ else v

/-- Plans the landing of a late read's result `lat` ticks on, for an operation issued `age` ticks ago. -/
def landLate (s : State) (st : StrandId) (cls : SlotClass) (age lat : Nat) (regs : List RegWrite) (l : Latch × MVec) : State :=
  let n := s.now st.tile.claim
  s.plan ⟨st.tile.claim, n + lat, phLand, 0, n - age, cls.index, some st, none, n + lat, 0,
    .ev (.resultLanding st (.result regs (some l)))⟩

/-- A bank read that meets its bank now. -/
def lateRead (s : State) : LateRead → State
  | .pair st taint first d bank cells en =>
    let v := markIf taint ((s.tileOf st.tile).readCells bank cells)
    let lo := markIf taint first
    landLate (checkRead s st.tile st.core.toNat bank cells) st .m 1 2
      (match d with | .reg i => [.v (i ++ 0#1) lo en, .v (i ++ 1#1) v en] | .none => []) (.ld, laneLatch en lo)
  | .amo st taint op bank off data cmp d =>
    let n := s.now st.tile.claim
    let cells := (List.range 4).map fun i => some (off + i)
    let r := (s.tileOf st.tile).readCells bank cells
    let old : MWord := markIf taint ⟨r.val.setWidth 32, r.psn.setWidth 1⟩
    let new := op.apply old.val data.val cmp.val
    let psn := anyPsn old.psn || anyPsn data.psn || anyPsn cmp.psn
    let s := landLate (checkRead s st.tile st.core.toNat bank cells) st .m 1 3
      (match d with | .reg i => [.g i old] | .none => []) (.ld, toLatch old)
    s.plan ⟨st.tile.claim, n + 2, phCommit, coreRank st.core (n + 2) 0, n - 1, SlotClass.m.index, some st, some (n + 3),
      n + 3, 0, .ev (.bankCommit st.tile st.core.toNat bank
        (.bytes ((List.range 4).map fun i => ⟨off + i, byteOf new i, psn⟩)))⟩
  | .pop st taint bank h d =>
    let cells := recordCells h.toNat
    let v := markIf taint ((s.tileOf st.tile).readCells bank cells)
    landLate (checkRead s st.tile st.core.toNat bank cells) st .x 2 1
      (match d with | .reg i => [.v i v 0xFFFF] | .none => []) (.cv, v)
  | .copy st taint iss src ff dst tf row =>
    let n := s.now st.tile.claim
    let cells := rowCells row
    let v := markIf taint (copyRow ff tf ((s.tileOf st.tile).readCells src cells))
    (checkRead s st.tile st.core.toNat src cells).plan ⟨st.tile.claim, n + 1, phCommit, coreRank st.core (n + 1) 1, iss,
      SlotClass.x.index, some st, some (n + 2), n + 2, 0,
      .ev (.bankCommit st.tile st.core.toNat dst (.bytes (rowBytes row v)))⟩

/-! ## The array (R234, R239, R244, R245) -/

def execStageRowTransfer (t : TileId) (p : StageStep) (s : State) : Host.Outcome State Fault Refusal := .next (transferRow s t p)

/-- Does something with an accepted operation of a tile. -/
def withOp (s : State) (t : TileId) (op : Nat) (f : MmaOp → State) : State :=
  match MmaOp.find? (s.tileOf t).arrQueue op with
  | some o => f o
  | none => s

def execMmaStart (t : TileId) (op : Nat) (s : State) : Host.Outcome State Fault Refusal := .next (withOp s t op (startSends s t))

def execMmaGroupAdd (t : TileId) (op b g : Nat) (s : State) : Host.Outcome State Fault Refusal :=
  .next (withOp s t op fun o => groupAdd s t o b g)

def execMmaBlockWrite (t : TileId) (op b : Nat) (s : State) : Host.Outcome State Fault Refusal :=
  .next (withOp s t op fun o => blockWrite s t o b)

def execMmaCompletion (t : TileId) (op : Nat) (s : State) : Host.Outcome State Fault Refusal :=
  .next (s.modTile t fun x => { x with arrQueue := x.arrQueue.filter fun o => o.id != op })

def execArraySend (t : TileId) (send : Nat) (s : State) : Host.Outcome State Fault Refusal :=
  .next (match (s.tileOf t).sends.find? fun a => a.id == send with
    | some a => sendFlit s t a
    | none => s)

def execOperandRowDeposit (t : TileId) (slot : Nat) (row : MVec) (fmt : BitVec 6) (s : State) :
    Host.Outcome State Fault Refusal :=
  .next (depositOperandRow s t slot row fmt)

/-! ## The fabric (R257, R264, R281, R289) -/

def execFlitArrival (t : TileId) (side : Side) (f : Transit) (s : State) : Host.Outcome State Fault Refusal :=
  .next (crossed s t side f)
def execFlitRelease (t : TileId) (side : Side) (s : State) : Host.Outcome State Fault Refusal := .next (release s t side)
def execLandedFlitDue (t : TileId) (tag : BitVec 12) (due : Nat) (s : State) : Host.Outcome State Fault Refusal :=
  .next (landDue s t tag due)
def execLandingLost (t : TileId) (tag : BitVec 12) (due : Nat) (s : State) : Host.Outcome State Fault Refusal :=
  .next (landingLost s t tag due)
def execHoldDelivery (t : TileId) (q : Nat) (mark : HoldMark) (s : State) : Host.Outcome State Fault Refusal :=
  .next (holdDelivered s t q mark.cycle mark.port)
def execHoldEnd (t : TileId) (s : State) : Host.Outcome State Fault Refusal :=
  .next (s.modTile t fun x => { x with held := false })
def execVoltageDroop (t : TileId) (part : Nat) (s : State) : Host.Outcome State Fault Refusal := .next (droopStretch s t part)
def execLocalTrimUpdate (t : TileId) (s : State) : Host.Outcome State Fault Refusal := .next (trimTile s t)
def execWaferTrimUpdate (links : List (Nat × Int)) (s : State) : Host.Outcome State Fault Refusal := .next (trimWafer s links)
def execDeadbandSlewSet (db sl : Nat) (s : State) : Host.Outcome State Fault Refusal := .next (setGains s db sl)
def execAlignment (t : TileId) (s : State) : Host.Outcome State Fault Refusal := .next (align s t)
def execPeerLinkLoss (port : Nat) (s : State) : Host.Outcome State Fault Refusal := .next (losePeer s port)

/-- An upset of a count; pending gates look again at the tick they release at (R268, R266). -/
def execCountUpset (t : TileId) (d : BitVec 64) (s : State) : Host.Outcome State Fault Refusal :=
  let s := upsetCount s t d
  .next (((s.claimOf t.claim).barriers.filter fun p => p.2.release.isSome).foldl (fun s p =>
    s.planEv t.claim (s.now t.claim + 1) phRun (.gateRelease t.claim p.1)) s)

/-- Adds flipped bits to those of a word. -/
def addFlips (l : List (Nat × BitVec 72)) (w : Nat) (mask : BitVec 72) : List (Nat × BitVec 72) :=
  let m := (find l w).getD 0 ^^^ mask
  if m = 0 then drop l w else put l w m

/-- An upset of stored bits, of a flit on a link or of a wheel position (R403, R256, R272). A far piece at or above 3 x 2^40 does not exist. -/
def execBitUpset (p : UpsetPlace) (mask : BitVec 72) (s : State) : Host.Outcome State Fault Refusal :=
  match p with
  | .bank t bank word => .next (s.modTile t fun x => { x with flips := addFlips x.flips (bankAddr bank (8 * word) / 8) mask })
  | .far piece =>
    if 8 * piece < farLimit then .next { s with farFlips := addFlips s.farFlips piece mask } else .fault .noSuchAddress
  | .link t side => .next (s.modTile t fun x => { x with linkErr := put x.linkErr side (mask.extractLsb' 0 5) })
  | .wheel t => .next (upsetWheel s t (mask.extractLsb' 0 7))

/-! ## Synchronisation and completion (R114 to R121, R329) -/

def execGateRelease (cl n : Nat) (s : State) : Host.Outcome State Fault Refusal := .next (releaseGate s cl n)
def execGateTimeout (cl n : Nat) (s : State) : Host.Outcome State Fault Refusal := .next (gateTimeout s cl n)
def execBarrierPhaseCompletion (cl n : Nat) (s : State) : Host.Outcome State Fault Refusal := .next (completePhase s cl n)
def execBarrierTimeout (st : StrandId) (n : Nat) (s : State) : Host.Outcome State Fault Refusal := .next (barrierTimeout s st n)
def execNonPreEmptibleCap (st : StrandId) (s : State) : Host.Outcome State Fault Refusal := .next (sectionCap s st)
def execWeightArrival (cl : Nat) (rcv : Option StrandId) (share : Nat) (s : State) : Host.Outcome State Fault Refusal :=
  .next (weightArrives s cl rcv share)
def execJcbTotalArrival (st : StrandId) (n : Nat) (s : State) : Host.Outcome State Fault Refusal := .next (totalArrives s st n)
def execJcbPostArrival (cl : Nat) (s : State) : Host.Outcome State Fault Refusal :=
  .next (s.modClaim cl fun c => { c with jcount := c.jcount + 1 })
def execStrandRetirement (st : StrandId) (s : State) : Host.Outcome State Fault Refusal := .next (retireStrand s st)

/-! ## Staging (R302 to R310) -/

def execCommandActivation (c : CtxId) (s : State) : Host.Outcome State Fault Refusal := .next (activate s c)
def execReadLineRequest (c : CtxId) (m j : Nat) (s : State) : Host.Outcome State Fault Refusal := .next (requestLine s c m j)
def execStagingFlitRelease (c : CtxId) (m i : Nat) (s : State) : Host.Outcome State Fault Refusal := .next (releaseFlit s c m i)
def execStagingDeposit (c : CtxId) (m k : Nat) (s : State) : Host.Outcome State Fault Refusal := .next (deposit s c m k)
def execStagingSourceRead (c : CtxId) (m k : Nat) (s : State) : Host.Outcome State Fault Refusal := .next (readSource s c m k)
def execStagingWriteFlit (c : CtxId) (m i : Nat) (s : State) : Host.Outcome State Fault Refusal := .next (writeFlit s c m i)
def execStagingWriteCommit (c : CtxId) (m : Nat) (s : State) : Host.Outcome State Fault Refusal := .next (commitWrite s c m)
def execTrackerFire (c : CtxId) (s : State) : Host.Outcome State Fault Refusal := .next (fireTracker s c)
def execTimelineAdvance (c : CtxId) (s : State) : Host.Outcome State Fault Refusal := .next (advanceTimeline s c)
def execFlagWrite (c : CtxId) (m : Nat) (s : State) : Host.Outcome State Fault Refusal := .next (writeFlag s c m)

end Sys2Proof.Machine
end

