-- ==== Sys2Proof/Machine/Stops.lean ====
section
/-!
DEFINITION. How a claim stops, resumes and ends: the evaluation and the completion record (spec/04 R120, spec/14 R369),
fatal stops and halts (spec/13 R341, R344), pre-emption and the vitrine (R122, R250, R346, R347), aborts (R368) and
roving self-test (R348).
-/

namespace Sys2Proof.Machine

/-- Whether a claim's count runs: in the safe state the compute rails are off (R373). -/
def isRunning (s : State) (cl : Nat) : Bool := (s.claimOf cl).run == .running && s.power != .safe

/-- The order of agenda entries: tick, place in the tick, issue tick and slot class (R208, R54).
DEDUCED: notes/assumptions/14.md. -/
def Sched.before (a b : Sched) : Bool :=
  if a.tick ≠ b.tick then decide (a.tick < b.tick)
  else if a.phase ≠ b.phase then decide (a.phase < b.phase)
  else if a.rank ≠ b.rank then decide (a.rank < b.rank)
  else if a.iss ≠ b.iss then decide (a.iss < b.iss)
  else decide (a.cls < b.cls)

/-- The first entry of a list in the order of the agenda; among equals the one planned first. -/
def leastSched : List Sched → Option Sched
  | [] => none
  | e :: l =>
    match leastSched l with
    | none => some e
    | some b => if b.before e then some b else some e

/-! ## The mailbox's outcome (R366) -/

/-- Whether a controller is between a switch and its acceptance (R378). -/
def switching (s : State) (c : Controller) : Bool := (s.ctlOf c).switching

/-- The mailbox shows the outcome of the command in hand: a result and a result word. -/
def mailboxShow (s : State) (result : Byte) (r0 : Quad) : State :=
  { s with mbox := { s.mbox with
      busy := false, done := true, result := result, echo := s.mbox.hand, held := none, res0 := r0, res1 := 0, res2 := 0, res3 := 0 } }

/-- The command in hand completes; what the mailbox shows of it waits through a curator switch (R378). -/
def mailboxDone (s : State) (result : Byte) (r0 : Quad) : State :=
  if switching s .curator then { s with mbox := { s.mbox with held := some (result, r0) } } else mailboxShow s result r0

/-- An outcome that waited for the end of a curator switch is shown. -/
def mailboxRelease (s : State) : State :=
  match (if switching s .curator then none else s.mbox.held) with
  | some (result, r0) => mailboxShow s result r0
  | none => s

/-- Whether the command in hand, its outcome still open, has a code and names a claim. -/
def commandFor (s : State) (op : Byte) (cl : Nat) : Bool :=
  s.mbox.busy && s.mbox.held.isNone && s.mbox.hop == op && s.mbox.hargs.a0.toNat == cl

/-- Whether the leader's part of a fleet's claim has stopped by itself, so that the other parts may still go on (R363). -/
def Claim.leftAlone (c : Claim) : Bool :=
  c.fleet && c.wafer == 0 && match c.run with
    | .faulted _ | .haltedAt _ | .ended _ _ => true
    | .running | .preempted _ | .aborted _ => false

/-- A command that waits for a claim's stop completes (R367, R368): PREEMPT with the boundary of its stop, or refused where
the claim stopped otherwise (DEDUCED, notes/assumptions/11.md); ABORT with the tick at which the claim stopped. One for a
fleet's claim whose other parts may go on waits for them (R363). -/
def claimStopped (s : State) (cl : Nat) : State :=
  let n := BitVec.ofNat 64 (s.now cl)
  if (s.claimOf cl).leftAlone then s
  else if commandFor s 9 cl then mailboxDone s 0 n
  else if commandFor s 7 cl then
    match (s.claimOf cl).run with
    | .preempted _ => mailboxDone s 0 n
    | .running | .faulted _ | .haltedAt _ | .aborted _ | .ended _ _ => mailboxDone s 1 0
  else s

/-- Puts an event off to the next step of wall time. DESIGN CHOICE: notes/assumptions/4.md. -/
def defer (s : State) (e : Event) : State := { s with inputs := s.inputs ++ [(s.wall + 1, e)] }

/-! ## Completion records (R369) -/

/-- The eight words of a completion record. -/
structure RecordWords where
  kind : Nat
  reason : Nat
  user : BitVec 32
  start : Nat
  endTick : Nat
  fault : Quad
  ftick : Quad
  fdata : Quad
  haltb : Nat
  tlmin : Nat
  deriving DecidableEq, Repr

/-- The 64 bytes of a completion record. -/
def RecordWords.bytes (r : RecordWords) : List Byte :=
  (([BitVec.ofNat 64 (r.kind + 256 * r.reason + 2 ^ 32 * r.user.toNat), BitVec.ofNat 64 r.start, BitVec.ofNat 64 r.endTick,
    r.fault, r.ftick, r.fdata, BitVec.ofNat 64 r.haltb, BitVec.ofNat 64 r.tlmin] : List (BitVec 64)).map fun w => bytesOf w 8).flatten

/-- Bytes at consecutive far addresses, clean. -/
def farBytesAt (a : Nat) (l : List Byte) : List (Nat × Byte × Bool) := l.zipIdx.map fun p => (a + p.2, p.1, false)

/-- The bytes that a host or command-processor read of far memory delivers. -/
def farRead (s : State) (a n : Nat) : List Byte := (List.range n).map fun i => (farByte s (a + i)).1

/-- The record is written at host scope, then the signal word is decremented, modulo 2^64. -/
def writeCompletion (s : State) (crec sig : Nat) (r : RecordWords) : State :=
  let s := farWrite s (farBytesAt crec r.bytes)
  let v : BitVec 64 := bitsOfBytes 64 (farRead s sig 8) - 1
  farWrite s (farBytesAt sig (bytesOf v 8))

/-- The fault words of a claim's record: the first error for a halt, else the primary fault, else zero. -/
def faultWords (c : Claim) (halt : Bool) : Quad × Quad × Quad :=
  let count := min c.faultCount 0xFFFF
  let word := fun (cause core x y : Nat) => BitVec.ofNat 64 (cause + 256 * core + 65536 * x + 2 ^ 24 * y + 2 ^ 32 * count)
  match (if halt then c.firstErr else none) with
  | some e => (word 0x60 e.core e.x e.y, BitVec.ofNat 64 e.tick, e.place)
  | none =>
    match c.faults with
    | f :: _ => (word f.cause.toNat f.core f.x f.y, BitVec.ofNat 64 f.tick, f.data)
    | [] => (0, 0, 0)

/-- The lowest timeline counter among the claim's bound contexts, none without one. -/
def tlMin (s : State) (c : Claim) : Option Nat :=
  match c.binds.map fun b => (s.ctxOf b.ctx).timeline with
  | [] => none
  | n :: l => some (l.foldl min n)

/-- Whether a launch of a slot is in flight, a pre-empted one included (R365). -/
def inFlight (s : State) (slot : Byte) : Bool :=
  (s.claims.any fun p => p.2.slot == slot && (match p.2.run with | .ended _ _ => false | _ => true)) ||
    (match s.fleetLaunch with | some f => f.packet.getD 2 0 == slot | none => false)

/-- The lease of a slot is released once its last signal has been decremented (R365). -/
def settleLease (s : State) (slot : Byte) : State :=
  if (s.cats.at slot).unlease && !inFlight s slot then s.push (.unleaseEffect slot) else s

/-- The order of R363's kinds from worst to best: fault, halt, aborted, unsatisfied, satisfied. -/
def kindRank (kind : Nat) : Nat :=
  match kind with
  | 3 => 0
  | 4 => 1
  | 5 => 2
  | 1 => 3
  | _ => 4

/-- The part that a fleet's record reports: the worst kind, of the lowest-numbered wafer. -/
def worstPart : List FleetPart → Option FleetPart
  | [] => none
  | p :: l =>
    match worstPart l with
    | none => some p
    | some q =>
      if kindRank q.kind < kindRank p.kind ∨ (kindRank q.kind = kindRank p.kind ∧ q.wafer < p.wafer) then some q else some p

/-- The least of the parts' lowest timeline counters; a part without a bound context has none (R369). -/
def partsTlMin (l : List FleetPart) : Option Nat :=
  match l.filterMap fun p => p.tlmin with
  | [] => none
  | n :: l => some (l.foldl min n)

/-- A command that waits for a fleet's claim completes when every part has ended: ABORT with the latest end (R363, R368), PREEMPT
refused. DEDUCED: notes/assumptions/11.md. -/
def partsStopped (s : State) (fin : Nat) : State :=
  if commandFor s 9 0 then mailboxDone s 0 (BitVec.ofNat 64 fin)
  else if commandFor s 7 0 then mailboxDone s 1 0
  else s

/-- When every part of a fleet launch has ended, the leader writes the record and decrements the signal, and every wafer frees
its fields (R363, R369). DESIGN CHOICE: notes/assumptions/20.md and 58.md. -/
def settleFleet (s : State) : State :=
  match s.fleetLaunch, s.fleet with
  | some f, some (0, n, _) =>
    if f.started && f.parts.length = n then
      match worstPart f.parts with
      | none => s
      | some p =>
        let fin := (f.parts.map fun q => q.endTick).foldl max 0
        let start := leAt8 f.packet
        let s := { partsStopped s fin with fleetLaunch := none, fleetMsgs := s.fleetMsgs ++ [.launchEnded] }
        settleLease (writeCompletion s (start 16) (start 8) {
          kind := p.kind, reason := 0, user := BitVec.ofNat 32 (start 0 >>> 32), start := (s.claimOf 0).start, endTick := fin
          fault := p.fault, ftick := p.ftick, fdata := p.fdata
          haltb := if p.kind = 4 ∨ p.kind = 5 then p.endTick else 0, tlmin := (partsTlMin f.parts).getD 0 }) (f.packet.getD 2 0)
    else s
  | _, _ => s
where
  /-- The 8-byte word at an offset of a packet. -/
  leAt8 (b : List Byte) (off : Nat) : Nat := leNat ((b.drop off).take 8)

/-- The event of a move of a row (R348). -/
def MoveReq.event (m : MoveReq) : Event :=
  match m.col with
  | some col => .selfTestMove m.field m.row col
  | none => .selfTestMoveBack m.field m.row

/-- A launch ends: record, signal, and the claim's fields are free, for a move that waited too (R369); a part of a fleet launch
reports to the leader, and its wafer holds the fields until the whole launch ends (R363). -/
def finishLaunch (s : State) (cl kind endTick haltb : Nat) (sat : Bool) : State :=
  let c := s.claimOf cl
  let w := faultWords c (kind == 4)
  let tl := tlMin s c
  let s := { (s.setClaim cl { c with run := .ended endTick sat, vitrine := [], moves := [] }) with
    agenda := s.agenda.filter fun e => e.claim != cl
    todo := s.todo ++ c.moves.map fun m => .ev m.event }
  if c.fleet then
    if c.wafer = 0 then
      settleFleet { s with fleetLaunch := s.fleetLaunch.map fun f =>
        { f with parts := f.parts ++ [⟨0, kind, w.1, w.2.1, w.2.2, endTick, tl⟩], gone := some s.wall } }
    else
      { s with
        fleetLaunch := s.fleetLaunch.map fun f => { f with gone := some s.wall }
        fleetMsgs := s.fleetMsgs ++ [.partEnded c.wafer kind w.1 w.2.1 w.2.2 endTick tl] }
  else
    settleLease (writeCompletion s c.crec c.sig {
      kind := kind, reason := 0, user := c.user, start := c.start, endTick := endTick, fault := w.1, ftick := w.2.1
      fdata := w.2.2, haltb := haltb, tlmin := tl.getD 0 }) c.slot

/-- The command processor evaluates a claim at C (R120). -/
def evaluateClaim (s : State) (cl : Nat) : State :=
  let c := s.claimOf cl
  let sat := match c.mech with
    | .weight => c.returned == 2 ^ 32
    | .jcb => c.jcount == c.jtotal && !c.jbad
  finishLaunch (claimStopped (s.setClaim cl { c with run := .ended c.tick sat }) cl) cl (if sat then 0 else 1) c.tick 0 sat

def execClaimEvaluation (cl : Nat) (s : State) : Host.Outcome State Fault Refusal :=
  .next (if isRunning s cl then evaluateClaim s cl else s)

/-- The curator releases a stopped claim; it waits through a curator switch (R369, R378). -/
def execClaimRelease (cl : Nat) (s : State) : Host.Outcome State Fault Refusal :=
  .next (if switching s .curator then defer s (.claimRelease cl)
    else match (s.claimOf cl).run with
      | .faulted n => finishLaunch s cl 3 n 0 false
      | .haltedAt b => finishLaunch s cl 4 b b false
      | .aborted b => finishLaunch s cl 5 b b false
      | .running | .preempted _ | .ended _ _ => s)

/-! ## Stops -/

/-- The wheel positions of a claim's routers go on by some ticks (R266). -/
def turnWheels (s : State) (cl d : Nat) : State :=
  { s with tiles := s.tiles.map fun p =>
      if p.1.claim = cl then (p.1, { p.2 with wheel := BitVec.ofNat 7 ((p.2.wheel.toNat + d) % s.wheel) }) else p }

/-- A claim's count and its wheel positions as they are at a tick. -/
def moveCount (s : State) (cl n : Nat) : State :=
  (turnWheels s cl ((n + s.wheel - s.now cl % s.wheel) % s.wheel)).modClaim cl fun c => { c with tick := n }

/-- Whether R250 lets an agenda entry finish: a step of the array or of a staged row, or the clearing of an accumulator tile
that comes before an accepted operation's steps. An operation stays in the array's queue until its own completion tick, so
that every later check falls as without the stop. -/
def Sched.arrayStep (s : State) (e : Sched) : Bool :=
  match e.act with
  | .ev (.stageRowTransfer _ _) => true
  | .ev (.mmaStart _ _) => true
  | .ev (.mmaGroupAdd _ _ _ _) => true
  | .ev (.mmaBlockWrite _ _ _) => true
  | .ev (.resultLanding st (.zeroTile n)) => (s.tileOf st.tile).arrQueue.any fun o => o.acc.toNat == n
  | _ => false

/-- What an entry in flight does to the banks of its claim, or on the way there: bank writes, late reads that write, reductions,
flits and the engines' steps with them (R206, R257, R305, R311, R335); none for every other entry. -/
def flightStep (s : State) : Action → Option State
  | .ev (.bankCommit t core bank d) => some (commitData s t core bank d)
  | .ev (.resultLanding st (.redEntry r)) => some (landNow s st (.redEntry r))
  | .ev (.reductionApply t) => some (applyReduction s t)
  | .ev (.flitArrival t d f) => some (crossed s t d f)
  | .ev (.flitRelease t d) => some (release s t d)
  | .ev (.readLineRequest k m j) => some (requestLine s k m j)
  | .ev (.stagingFlitRelease k m i) => some (releaseFlit s k m i)
  | .ev (.stagingDeposit k m u) => some (deposit s k m u)
  | .ev (.flagWrite k m) => some (writeFlag s k m)
  | .read (.amo st tn op b off d c w) => some (lateRead s (.amo st tn op b off d c w))
  | .read (.copy st tn iss src ff dst tf row) => some (lateRead s (.copy st tn iss src ff dst tf row))
  | _ => none

/-- The claim as an entry finds it: what is in flight and comes before it has been done, each step in a tick in which no port
but those of its own tick is taken. -/
def flightBefore (e : Sched) : Nat → State → State
  | 0, s => s
  | fuel + 1, s =>
    match leastSched (s.agenda.filter fun x => x.claim == e.claim && x.before e && (flightStep s x.act).isSome) with
    | none => s
    | some x =>
      let u := moveCount { s with agenda := s.agenda.erase x } e.claim x.tick
      let u := if x.tick = s.now e.claim then u
        else { u with tiles := u.tiles.map fun p => (p.1, { p.2 with outs := [], locals := [] }) }
      flightBefore e fuel ((flightStep u x.act).getD u)

/-- The steps that the arrays of a claim may still take. -/
def arraySteps : Nat := 2 ^ 24

/-- The reorder buffer of a tile applies an entry in every tick from b to n (R335). -/
def reduceUntil (s : State) (t : TileId) (b n : Nat) : State :=
  (List.range (n + 1 - b)).foldl (fun s j => s.planEv t.claim (b + j) phRead (.reductionApply t)) s

/-- A staged row is read from its bank as the operations before it leave it, those among them that have still to arrive at the
stop in tick b (R250). -/
def stageEarly (s : State) (t : TileId) (p : StageStep) (e : Sched) (b : Nat) : State :=
  let x := s.tileOf t
  let y := (flightBefore e arraySteps (reduceUntil s t b e.tick)).tileOf t
  (transferRow (s.setTile t { x with sram := y.sram, marks := y.marks, flips := y.flips }) t p).modTile t fun z =>
    { z with sram := x.sram, marks := x.marks, flips := x.flips }

/-- A block is written back; the trackers that watch its bank count its rows at the block's own tick (R308). -/
def writeEarly (s : State) (t : TileId) (o : MmaOp) (b : Nat) (e : Sched) : State :=
  let rows := (o.blockRows b).map fun r => accBankRow o.acc (o.row0 b + r) (o.col0 b / 16)
  ({ blockWrite s t o b with ctxs := s.ctxs }).plan { e with
    act := .ev (.bankCommit t 15 ((s.tileOf t).accBank o.acc) (.counted rows)) }

/-- One step of R250 of a claim that stops in tick `at_`, its entry taken off the agenda and the count at its tick; the landing
of a `macc.zero` stays as one without an effect, since its strand's retirement waits for it. -/
def finishStep (s : State) (at_ : Nat) (e : Sched) : State :=
  match e.act with
  | .ev (.stageRowTransfer t (.read st bank cells db dst)) => stageEarly s t (.read st bank cells db dst) e at_
  | .ev (.stageRowTransfer t (.write db dst row)) => transferRow s t (.write db dst row)
  | .ev (.mmaStart t op) => withOp s t op (startSends s t)
  | .ev (.mmaGroupAdd t op b g) => withOp s t op fun o => groupAdd s t o b g
  | .ev (.mmaBlockWrite t op b) => withOp s t op fun o => writeEarly s t o b e
  | .ev (.resultLanding st l) => (landNow s st l).plan { e with act := .ev (.resultLanding st (.result [] none)) }
  | _ => s

/-- The arrays of a claim that stops in tick `at_` finish what they have accepted and staged, each step at its own tick (R250).
DEDUCED: notes/assumptions/48.md. -/
def finishArrays (cl at_ : Nat) : Nat → State → State
  | 0, s => s
  | fuel + 1, s =>
    match leastSched (s.agenda.filter fun e => e.claim == cl && e.arrayStep s) with
    | none => s
    | some e => finishArrays cl at_ fuel (finishStep (moveCount { s with agenda := s.agenda.erase e } cl e.tick) at_ e)

/-- The arrays of a claim that stops at its present tick finish; the count stands at that tick, in which no port of a bank has
been used. -/
def settleArrays (s : State) (cl : Nat) : State :=
  let u := moveCount (finishArrays cl (s.now cl) arraySteps s) cl (s.now cl)
  { u with tiles := u.tiles.map fun p =>
      if p.1.claim = cl then (p.1, { p.2 with touched := (s.tileOf p.1).touched }) else p }

/-- The claim's count stands: what is in flight enters the vitrine with its offset (R341, R346). -/
def standStill (s : State) (cl : Nat) (run : ClaimRun) : State :=
  let b := s.now cl
  let mine := s.agenda.filter fun e => e.claim == cl
  { (s.modClaim cl fun c => { c with run := run, vitrine := mine.map fun e => { e with tick := e.tick - b } }) with
    agenda := s.agenda.filter fun e => e.claim != cl }

/-- A stop that the curator releases later (R369); the release is the curator's, one step of wall time on.
DEDUCED: notes/assumptions/22.md. -/
def stopForRelease (s : State) (cl : Nat) (run : ClaimRun) : State :=
  defer (claimStopped (standStill s cl run) cl) (.claimRelease cl)

/-- A fatal fault stops the claim for good (R341). -/
def execFatalStop (cl : Nat) (s : State) : Host.Outcome State Fault Refusal :=
  .next (if isRunning s cl then stopForRelease s cl (.faulted (s.now cl)) else s)

/-- The first tile of a claim that has a DIR bit set or whose count is its own (R270). -/
def driftedTile (s : State) (cl : Nat) : TileId :=
  match s.tiles.find? fun p => p.1.claim == cl && !(p.2.dir == 0 && p.2.off == 0) with
  | some p => p.1
  | none => ⟨cl, 0, 0⟩

/-- A stop at a replay boundary is only made where no tile has drifted; else drift beyond slack is taken (R270). -/
def stopOrDrift (s : State) (cl : Nat) (stop : State → State) : State :=
  if driftFree s cl then stop s else claimFault s (driftedTile s cl) 0x32 0

/-- The claim halts after an uncorrectable error, unless a fatal fault has cancelled the halt (R344, R341). -/
def execUncorrectableHalt (cl : Nat) (s : State) : Host.Outcome State Fault Refusal :=
  .next (if isRunning s cl && (s.claimOf cl).fatal.isNone then
    stopOrDrift s cl fun s => stopForRelease (settleArrays s cl) cl (.haltedAt (s.now cl))
  else s)

/-- Records the fault-record entry of an abort (R368). -/
def recordAbort (s : State) (cl : Nat) : State := recordFault s cl ⟨0x61, s.now cl, 0, 0, 15, 0, 0⟩

/-- An abort stops the claim, unless a fatal fault or an uncorrectable error came first (R368). -/
def execAbortStop (cl : Nat) (s : State) : Host.Outcome State Fault Refusal :=
  .next (if isRunning s cl && (s.claimOf cl).fatal.isNone && (s.claimOf cl).firstErr.isNone then
    stopForRelease (recordAbort (settleArrays s cl) cl) cl (.aborted (s.now cl))
  else s)

/-- Whether a strand of the claim is in a non-pre-emptible section (R121). -/
def inSection (s : State) (cl : Nat) : Bool := (strandsOf s cl).any fun st => (s.coreOf st).npre.isSome

/-- Whether a strand of the claim is in an open span. -/
def inSpan (s : State) (cl : Nat) : Bool :=
  (strandsOf s cl).any fun st => (s.coreOf st).span && (s.coreOf st).status != .retired

/-- Whether the claim may stop here for a request: at a replay boundary, with no section open, no fatal fault taken and no
other stop due in this tick (R122, R341). DEDUCED: notes/assumptions/47.md. -/
def mayStop (s : State) (cl : Nat) : Bool :=
  isRunning s cl && s.now cl % s.replay == 0 && !inSection s cl && (s.claimOf cl).fatal.isNone &&
    !(s.agenda.any fun e => e.claim == cl && e.tick == s.now cl && e.phase == phStop)

/-- The pre-emption of a claim at its present boundary (R346). -/
def stopPreempted (s : State) (cl : Nat) : State :=
  stopOrDrift (s.modClaim cl fun c => { c with preempt := false }) cl fun s =>
    claimStopped (standStill (settleArrays s cl) cl (.preempted (s.now cl))) cl

/-- Once every wafer of the fleet has said whether it may stop at the boundary at which the claim's count stands, all stop there
or all go on (R363). -/
def settleParley (s : State) (cl : Nat) : State :=
  let c := s.claimOf cl
  match c.parley, s.fleet with
  | some b, some (_, n, _) =>
    let said := c.answers.filter fun a => a.2.1 == b
    if (List.range n).all fun v => said.any fun a => a.1 == v then
      let s := s.modClaim cl fun c => { c with parley := none, answers := c.answers.filter fun a => decide (b < a.2.1) }
      if said.all fun a => a.2.2 then stopPreempted s cl else { s with todo := s.todo ++ tickTasks cl }
    else s
  | _, _ => s

/-- A wafer says of a boundary of the fleet's claim whether it may stop there (R363). DESIGN CHOICE: notes/assumptions/58.md. -/
def sayBoundary (s : State) (cl b : Nat) (ok : Bool) : State :=
  match s.fleet with
  | none => s
  | some (w, _, _) =>
    { s.modClaim cl fun c => { c with answers := c.answers ++ [(w, b, ok)] } with
      fleetMsgs := s.fleetMsgs ++ [.boundary w b ok] }

/-- A requested pre-emption stops the claim at the first boundary that admits it (R122, R346); it waits through a curator
switch (R378). A fleet's claim stops where every wafer admits it: its count stands at the boundary until all have said so
(R363). -/
def execPreemptionStop (cl : Nat) (s : State) : Host.Outcome State Fault Refusal :=
  let ok := mayStop s cl && !switching s .curator
  .next (if !(s.claimOf cl).preempt then s
    else if (s.claimOf cl).fleet && s.fleet.isSome then
      if isRunning s cl && s.now cl % s.replay == 0 && (s.claimOf cl).parley.isNone then
        let s := sayBoundary (s.modClaim cl fun c => { c with parley := some c.tick }) cl (s.now cl) ok
        settleParley { s with todo := s.todo.filter fun k => !(tickTasks cl).contains k } cl
      else s
    else if ok then stopPreempted s cl
    else s)

/-- A pre-empted claim goes on from its boundary: every vitrine entry keeps its offset (R347). -/
def resumeClaim (s : State) (cl : Nat) : State :=
  let c := s.claimOf cl
  { (s.setClaim cl { c with run := .running, vitrine := [] }) with
    agenda := s.agenda ++ c.vitrine.map fun e => { e with tick := e.tick + c.tick }
    todo := s.todo ++ tickTasks cl }

/-! ## Roving self-test (R348, R275) -/

/-- The claim that holds a field. -/
def holderOf (s : State) (field : Nat) : Option Nat := claimAt s (12 * (field % 12)) (12 * (field / 12))

/-- Whether a row's reserve tile stands in for a retired tile. -/
def rowRetired (s : State) (field row : Nat) : Bool := s.retiredTiles.any fun r => r.1 == field && r.2.1 == row

/-- Whether a row's map admits no shift: its reserve tile is in use, or its bypass has failed (R275). -/
def rowFixed (s : State) (field row : Nat) : Bool := rowRetired s field row || s.failedBypass.contains (field, row)

/-- Whether a tile of a row is under test. -/
def rowTested (s : State) (field row : Nat) : Bool := s.tests.any fun x => x.field == field && x.row == row

/-- Whether a docent is testing a tile of its field, or has asked for a move to test another one: it tests one at a time. -/
def docentBusy (s : State) (m : MoveReq) : Bool :=
  (s.tests.any fun x => x.field == m.field) ||
    s.claims.any fun p => p.2.moves.any fun o => o.field == m.field && o.col.isSome && (o.row, o.col) != (m.row, m.col)

/-- The row's mapping shifts, the tile goes under test and to the low rail; a row that admits no shift keeps its map (R348,
R38). -/
def beginTest (s : State) (m : MoveReq) (col : Nat) : State :=
  raiseRails { s with
    tests := ⟨m.field, m.row, col⟩ :: s.tests
    lowRail := (m.field, m.row, col) :: s.lowRail.filter fun p => p != (m.field, m.row, col)
    shifts := if rowFixed s m.field m.row then s.shifts else (m.field, m.row, col) :: s.shifts }

/-- The row's mapping shifts back; a tile that a claim holds again leaves the low rail. -/
def endTest (s : State) (m : MoveReq) : State :=
  raiseRails { s with
    tests := s.tests.filter fun x => !(x.field == m.field && x.row == m.row)
    shifts := s.shifts.filter fun x => !(x.1 == m.field && x.2.1 == m.row) }

/-- What a move does to the map. -/
def moveMap (s : State) (m : MoveReq) : State :=
  match m.col with
  | some col => beginTest s m col
  | none => endTest s m

/-- Whether two moves ask for the same. -/
def MoveReq.same (a b : MoveReq) : Bool := a.field == b.field && a.row == b.row && a.col == b.col

/-- A requested move of a running claim looks at a replay boundary: one that falls due in an open span waits for the claim's
next gate; one that need not wait is made where R122 admits a stop, the count standing for it alone (R348, R250). -/
def moveAtBoundary (s : State) (cl : Nat) (m : MoveReq) : State :=
  let gate := if (m.gate = .notDue ∧ inSpan s cl = true) ∨ m.gate = .waits then
      (if gateOpens s cl then GateWait.passed else .waits) else m.gate
  let rest := (s.claimOf cl).moves.filter fun o => !o.same m
  if gate ≠ .waits ∧ mayStop s cl = true ∧ switching s (.docent m.field) = false ∧ switching s .curator = false then
    stopOrDrift (s.modClaim cl fun c => { c with moves := rest }) cl fun s => moveMap s m
  else s.modClaim cl fun c => { c with moves := c.moves.map fun o => if o.same m then { o with gate := gate } else o }

/-- A move of a row: at once where no running claim holds the field, else it waits among the claim's requested moves for a
replay boundary that the rules of R122 admit. It waits while the docent or the curator is switched (R378).
DEDUCED: notes/assumptions/23.md. -/
def moveRow (s : State) (m : MoveReq) : State :=
  let free := fun (s : State) =>
    if switching s (.docent m.field) || switching s .curator then defer s m.event else moveMap s m
  match holderOf s m.field with
  | none => free s
  | some cl =>
    match (s.claimOf cl).run with
    | .running =>
      match (s.claimOf cl).moves.find? fun o => o.same m with
      | some o => if s.now cl % s.replay = 0 then moveAtBoundary s cl o else s
      | none => s.modClaim cl fun c => { c with moves := c.moves ++ [m] }
    | .preempted _ | .faulted _ | .haltedAt _ | .aborted _ | .ended _ _ =>
      free (s.modClaim cl fun c => { c with moves := c.moves.filter fun o => !o.same m })

/-- The docent moves a row so that a tile goes under self-test; it tests one tile at a time, and passes over a row whose
reserve tile is in use, or whose bypass has failed, while a claim holds the field (R275, R348). -/
def execSelfTestMove (field row col : Nat) (s : State) : Host.Outcome State Fault Refusal :=
  let m : MoveReq := ⟨field, row, some col, .notDue⟩
  .next (if docentBusy s m || (rowFixed s field row && (holderOf s field).isSome) then s else moveRow s m)

/-- The mapping of a tested row shifts back. -/
def execSelfTestMoveBack (field row : Nat) (s : State) : Host.Outcome State Fault Refusal :=
  .next (if rowTested s field row then moveRow s ⟨field, row, Option.none, .notDue⟩ else s)

/-- A tile that fails its test stays retired; where its row admits no shift, the field becomes unavailable. The binder keeps
what it found for the next start (R348, R275). -/
def execTileFailsSelfTest (field row : Nat) (s : State) : Host.Outcome State Fault Refusal :=
  .next (match s.tests.find? fun x => x.field == field && x.row == row with
    | none => s
    | some x =>
      let fixed := rowFixed s field row
      let s := { s with
        tests := s.tests.filter fun y => !(y.field == field && y.row == row)
        findings := { s.findings with retired := (field, row, x.col) :: s.findings.retired } }
      if fixed then { s with badFields := setInsert s.badFields field }
      else { s with
        shifts := s.shifts.filter fun y => !(y.1 == field && y.2.1 == row)
        retiredTiles := (field, row, x.col) :: s.retiredTiles })

/-! ## Rails and rates (R38, R262, R378) -/

/-- A docent's throttle; base-rate changes wait while the docent is switched. -/
def execThrottle (cut : Throttle) (s : State) : Host.Outcome State Fault Refusal :=
  .next (if switching s (.docent cut.field) then defer s (.throttle cut) else setThrottle s cut.ppm)

/-- A docent's rail change; it waits while the docent is switched. -/
def execRailChange (field : Nat) (place : Place) (high : Bool) (s : State) : Host.Outcome State Fault Refusal :=
  .next (if switching s (.docent field) then defer s (.railChange field place high) else railChange s field place.row place.col high)

/-! ## The safe state (R373) -/

/-- The module enters the safe state: its claims stand, its queues are disabled, and a command that is in the curator's hand
and that the safe state does not admit is not available any more. DESIGN CHOICE: notes/assumptions/24.md. -/
def enterSafe (s : State) : State :=
  let s := { s with
    power := .safe
    queues := (List.range 64).foldl (fun (t : Tab 6 Queue) i =>
      let q := BitVec.ofNat 6 i
      t.put q { t.at q with en := false, disabling := false }) s.queues }
  if s.mbox.busy && s.mbox.hop != 0x0A then mailboxDone s 5 0 else s

end Sys2Proof.Machine
end

