-- ==== Sys2Proof/Machine/Launch.lean ====
section
/-!
DEFINITION. Queue packets and the launch: R32, R95, R123, R154, R195 to R201, R273, R298, R328, R355 to R364.
-/

namespace Sys2Proof.Machine

/-! ## Accession records (R361) -/

/-- The fields of an accession record. -/
structure AccRec where
  v : Bool
  mech : Bool
  fleet : Bool
  fx0 : Nat
  fy0 : Nat
  fw : Nat
  fh : Nat
  cslot : Nat
  ptroot : Nat
  bartAt : Nat
  ctxtAt : Nat
  qmask : Nat
  ctxn : Nat
  tstart : Nat
  rsv : Nat
  deriving DecidableEq, Repr

def parseAcc (b : List Byte) : AccRec :=
  { v := (leAt b 0 1).testBit 0, mech := (leAt b 0 1).testBit 1, fleet := (leAt b 0 1).testBit 2
    fx0 := leAt b 1 1, fy0 := leAt b 2 1, fw := leAt b 3 1, fh := leAt b 4 1, cslot := leAt b 5 1
    ptroot := leAt b 8 8, bartAt := leAt b 16 8, ctxtAt := leAt b 24 8, qmask := leAt b 32 8, ctxn := leAt b 40 4
    tstart := leAt b 48 8, rsv := leAt b 0 1 / 8 + leAt b 6 2 + leAt b 44 4 + leAt b 56 8 }

/-- The malformed records of R361; a fleet's part covers the whole wafer (R363). -/
def AccRec.malformed (a : AccRec) (slot replay fw fh : Nat) : Bool :=
  a.rsv != 0 || decide (11 < a.fx0 ∨ 6 < a.fy0 ∨ 12 < a.fx0 + a.fw ∨ 7 < a.fy0 + a.fh) || a.fw != fw || a.fh != fh ||
    a.cslot != slot || a.ptroot % 131072 != 0 || decide (farLimit ≤ a.ptroot) || a.bartAt % 64 != 0 || a.ctxtAt % 64 != 0 ||
    a.tstart % replay != 0 || (a.fleet && !(a.fx0 == 0 && a.fy0 == 0 && a.fw == 12 && a.fh == 7))

/-- The fields of a record's claim. -/
def AccRec.fields (a : AccRec) : List Nat :=
  ((List.range a.fh).map fun y => (List.range a.fw).map fun x => 12 * (a.fy0 + y) + a.fx0 + x).flatten

/-- The claim of a record: the field number of its first field (R367). -/
def AccRec.claim (a : AccRec) : Nat := a.fx0 + 12 * a.fy0

/-- Words of far memory, eight bytes each. -/
def farWords (s : State) (a n : Nat) : List (BitVec 64) := (List.range n).map fun k => bitsOfBytes 64 (farRead s (a + 8 * k) 8)

/-- The barrier table that a record names, 4 KiB of far memory (R328, R361). DEDUCED: notes/assumptions/10.md. -/
def barrierWords (s : State) (a : AccRec) : List (BitVec 64) := farWords s a.bartAt 512

/-- The context-binding table that a record names (R361). DEDUCED: notes/assumptions/10.md. -/
def bindWords (s : State) (a : AccRec) : List (BitVec 64) := farWords s a.ctxtAt a.ctxn

/-- A binding entry (R361). -/
def bindingOfWord (cl : Nat) (w : BitVec 64) : Binding :=
  ⟨⟨⟨cl, (w.extractLsb' 0 8).toNat, (w.extractLsb' 8 8).toNat⟩, w.extractLsb' 16 2⟩, w.extractLsb' 18 8,
    ⟨(w.extractLsb' 26 5).toNat, (w.extractLsb' 31 8).toNat⟩⟩

/-- Whether an engine has an edge link on the claim's edge (R298). -/
def engineOnEdge (c : Claim) (cl e : Nat) : Bool := (List.range 19).any fun i => (edgeOf c cl (19 * e + i)).isSome

/-- Whether the bindings of a launch break R298. -/
def bindingsBad (c : Claim) (cl : Nat) (ws : List (BitVec 64)) : Bool :=
  let on := (ws.filter fun w => w.getLsbD 63).map (bindingOfWord cl)
  (on.any fun b => !c.inside b.st.tile.x b.st.tile.y || decide (24 ≤ b.ctx.engine) || !engineOnEdge c cl b.ctx.engine) ||
  anyPair (fun (a b : Binding) => (a.st == b.st && a.c == b.c && a.ctx != b.ctx) || (a.ctx == b.ctx && a.st != b.st)) on

/-- Whether a claim that has not ended binds one of the same engine contexts (R298). DEDUCED: notes/assumptions/26.md. -/
def contextsHeld (s : State) (c : Claim) : Bool :=
  s.claims.any fun p => holdsFields s p.2 && p.2.binds.any fun b => c.binds.any fun d => d.ctx == b.ctx

/-- Whether a barrier descriptor refuses the launch (R328). -/
def descriptorBad (c : Claim) (d : BitVec 64) : Bool :=
  d.getLsbD 63 && (d.extractLsb' 48 15 != 0 || d.extractLsb' 37 3 != 0 ||
    decide ((d.extractLsb' 16 8).toNat < (d.extractLsb' 0 8).toNat ∨ (d.extractLsb' 24 8).toNat < (d.extractLsb' 8 8).toNat) ||
    !c.inside (d.extractLsb' 16 8).toNat (d.extractLsb' 24 8).toNat)

/-! ## Route tables (R273) -/

/-- Whether a tile holds an entry with an input, a tag and a slot. -/
def hasEntry (s : State) (t : TileId) (inp : Side) (tag : BitVec 12) (slot : Nat) : Bool :=
  (s.tileOf t).routes.any fun r => r.inp == some inp && r.tag == tag && r.slot == slot

/-- Whether a side that leads outside the claim is an edge link of one of its engines or of its peer port. -/
def edgeAllowed (s : State) (t : TileId) (d : Side) : Bool :=
  match across s t d with
  | some (.engine _) => true
  | some (.peer _) => true
  | some (.both _) => true
  | some (.tile _) => true
  | none => false

/-- Whether a route entry of a tile refuses the launch. -/
def routeBad (s : State) (t : TileId) (r : Route) : Bool :=
  let c := s.claimOf t.claim
  decide (0xFF0 ≤ r.tag.toNat) ||
  (r.outs.any fun d =>
    match neighbour c t d with
    | some o => !hasEntry s o (oppositeSide d) r.tag ((r.slot + s.lh) % s.wheel)
    | none => !edgeAllowed s t d) ||
  (match r.inp with
    | none => false
    | some d =>
      match neighbour c t d with
      | some o => !((s.tileOf o).routes.any fun q =>
          q.outs.contains (oppositeSide d) && q.tag == r.tag && (q.slot + s.lh) % s.wheel == r.slot)
      | none => !edgeAllowed s t d)

/-- Whether the route tables of a claim refuse its launch. -/
def routesBad (s : State) (cl : Nat) : Bool :=
  (claimTiles (s.claimOf cl) cl).any fun t =>
    let rs := (s.tileOf t).routes
    rs.any (routeBad s t) || anyPair (fun (a b : Route) => sameOutput a b || (a.inp.isSome && a.inp == b.inp && a.slot == b.slot)) rs

/-! ## Building a claim (R123, R195 to R201, R229, R349) -/

/-- The map entries of a strand at its start (R200). -/
def startMap (b : List Byte) : Tab 6 MapEntry :=
  (mapBanks b).foldl (fun m p => m.put (BitVec.ofNat 6 p.1) ⟨.owned, BitVec.ofNat 6 p.2⟩) (Tab.all 6 ⟨.detached, 0⟩)

/-- The homes that a strand's map record gives its banks (R200). -/
def startHomes (c : Nat) (b : List Byte) (h : Tab 6 (Option (BitVec 2 × BitVec 6))) : Tab 6 (Option (BitVec 2 × BitVec 6)) :=
  (mapBanks b).foldl (fun h p => h.put (BitVec.ofNat 6 p.2) (some (BitVec.ofNat 2 c, BitVec.ofNat 6 p.1))) h

/-- A tile at its claim's start tick (R195, R200, R201, R229), its wheel position that of the tick (R266). Where records of
kind 0x0008 overlap in a bank, the later one stands (R93). DESIGN CHOICE: notes/assumptions/52.md. -/
def buildTile (i : Image) (start x y : Nat) : Tile :=
  let w := i.part x y
  let base : Tile := { Tile.fresh start (BitVec.ofNat 7 (start % i.wheel)) with part := w, routes := i.routes x y }
  let coded := (List.range 4).foldl (fun (m : Memory) c => m.writeList (65536 * base.insBase c) (i.code x y c)) ([] : Memory)
  let sram := (i.recs.filter fun r => r.kind == 8 && r.x == x && r.y == y).foldl (fun (m : Memory) r =>
    m.writeList (65536 * leAt r.payload 0 1 + leAt r.payload 2 2) (r.payload.drop 8)) coded
  { base with
    sram := sram
    slotTable := match i.tileRec 5 x y with
      | none => []
      | some b => (entriesOf 2 b).map fun e => (if leAt e 1 1 < 4 then some (BitVec.ofNat 2 (leAt e 1 1)) else none, leAt e 0 1 + 1)
    fmts := match i.tileRec 7 x y with
      | none => base.fmts
      | some b => b.zipIdx.foldl (fun f p =>
          if scratchOf w p.2 then f.put (BitVec.ofNat 6 p.2) ((Fmt.dec (p.1.setWidth 6)).getD (.flt .fp32)) else f) base.fmts
    homes := (List.range 4).foldl (fun h c => match i.strandRec 6 x y c with
      | some b => startHomes c b h
      | none => h) base.homes }

/-- An argument of the packet: its address and length (R358). -/
def argOf (args : List Byte) (k : Nat) : Quad × Quad :=
  (BitVec.ofNat 64 (leAt args (16 * k) 8), BitVec.ofNat 64 (leAt args (16 * k + 8) 8))

/-- A strand at its start tick (R95, R116, R123, R154, R349). -/
def buildCore (i : Image) (args : List Byte) (start : Nat) (st : StrandId) (root : Bool) : Core :=
  let x := st.tile.x
  let y := st.tile.y
  let c := st.core.toNat
  let heap : Quad × Quad × Quad := match i.strandRec 11 x y c with
    | none => (0, 0, 0)
    | some b => ((argOf args (leAt b 0 1)).1, (argOf args (leAt b 0 1)).2, BitVec.ofNat 64 (leAt b 8 8))
  { Core.fresh with
    status := .running
    rebase := BitVec.ofNat 64 start
    stage := ((i.tileRec 4 x y).getD []).getD c 0
    weight := if root then BitVec.ofNat 33 (2 ^ 32) else 0
    heapBase := heap.1
    heapLimit := heap.2.1
    heapOff := heap.2.2
    rngK := BitVec.ofNat 64 (c + 4 * x + 1024 * y)
    map := match i.strandRec 6 x y c with
      | none => Core.fresh.map
      | some b => startMap b }

/-- The strands that an image places in a claim, in the order of y, x and core (R116). -/
def imageStrands (i : Image) (tiles : List TileId) : List StrandId :=
  (tiles.map fun t => ((List.range 4).filter fun c => i.hasStrand t.x t.y c).map fun c =>
    (⟨t, BitVec.ofNat 2 c⟩ : StrandId)).flatten

/-- The words of a packet (R358). -/
def pkSlot (p : List Byte) : Nat := leAt p 2 1
def pkNarg (p : List Byte) : Nat := leAt p 3 1
def pkSig (p : List Byte) : Nat := leAt p 8 8
def pkCrec (p : List Byte) : Nat := leAt p 16 8
def pkArgt (p : List Byte) : Nat := leAt p 24 8
def pkTotal (p : List Byte) : Nat := leAt p 32 8

/-- What a launch takes from its slot: the image, the record, the tables that the record names, and the ranges that the slot's
lease pins. -/
structure LaunchParts where
  image : Image
  acc : AccRec
  barriers : List (BitVec 64)
  words : List (BitVec 64)
  pinned : List FarRange
  deriving DecidableEq, Repr

/-- What step 4 of R32 reads for a slot: a launch past that step keeps it (R361). -/
def takeSlot (s : State) (slot : Byte) : SlotParts :=
  let a := parseAcc (s.accessions.at slot)
  ⟨(s.cats.at slot).image, s.accessions.at slot, barrierWords s a, bindWords s a, (s.cats.at slot).pinned⟩

def SlotParts.read (p : SlotParts) : LaunchParts :=
  ⟨parseImage p.image, parseAcc p.record, p.barriers, p.words, p.pinned⟩

/-- The claim that a record, an image and a packet describe. -/
def buildClaim (s : State) (l : LaunchParts) (p : List Byte) : Claim :=
  let a := l.acc
  { Claim.absent with
    tick := a.tstart, start := a.tstart, fx0 := a.fx0, fy0 := a.fy0, fw := a.fw, fh := a.fh
    wafer := match s.fleet with | some (w, _, _) => if a.fleet then w else 0 | none => 0
    fleet := a.fleet
    mech := if a.mech then .jcb else .weight
    jtotal := pkTotal p
    slot := p.getD 2 0
    user := BitVec.ofNat 32 (leAt p 4 4)
    sig := pkSig p
    crec := pkCrec p
    run := .running
    bart := l.barriers
    tags := l.image.tags
    ranges := l.pinned
    binds := (l.words.filter fun w => w.getLsbD 63).map (bindingOfWord a.claim)
    ptroot := a.ptroot }

/-- The module with a new claim in place: its tiles, strands and bound contexts at the start tick (R32 steps 4 to 7). What an
earlier claim of the same name left is gone; its tiles are on the high rail (R38), and a test in a row that admits no shift
ends (R275). -/
def installClaim (s : State) (l : LaunchParts) (p args : List Byte) : State :=
  let a := l.acc
  let i := l.image
  let cl := a.claim
  let c := buildClaim s l p
  let tiles := claimTiles c cl
  let sts := imageStrands i tiles
  raiseRails { s with
    claims := put s.claims cl c
    tiles := s.tiles.filter (fun q => q.1.claim != cl) ++ tiles.map fun t => (t, buildTile i a.tstart t.x t.y)
    cores := s.cores.filter (fun q => q.1.tile.claim != cl) ++
      sts.map fun st => (st, buildCore i args a.tstart st (!a.mech && sts.head? == some st))
    ctxs := s.ctxs.filter (fun q => (q.2.owner.map fun o => o.tile.claim) != some cl &&
        !(c.binds.any fun b => b.ctx == q.1)) ++
      (c.binds.foldl (fun (l : List (CtxId × Ctx)) b => put l b.ctx { Ctx.fresh with owner := some b.st }) [])
    agenda := s.agenda.filter fun e => e.claim != cl
    tlb := s.tlb.filter fun e => e.claim != cl
    tests := s.tests.filter fun x => !(a.fields.contains x.field && rowFixed s x.field x.row) }

/-! ## The checks of a launch (R32, R362) -/

/-- Whether a range of bytes lies inside a queue's window and below 3 x 2^40. -/
def Queue.holds (q : Queue) (a n : Nat) : Bool :=
  n == 0 || decide (q.wbase.toNat ≤ a ∧ a + n ≤ q.wbase.toNat + q.wlim.toNat ∧ a + n ≤ farLimit)

/-- Whether a packet is dropped (R360). -/
def packetDropped (q : Queue) (p : List Byte) : Bool :=
  pkSig p % 8 != 0 || !q.holds (pkSig p) 8 || pkCrec p % 64 != 0 || !q.holds (pkCrec p) 64

/-- Reason 0x01 of R362. -/
def packetBad (q : Queue) (p args : List Byte) : Bool :=
  leAt p 1 1 != 1 || decide (16 < pkNarg p) || leAt p 0 1 / 2 != 0 || leAt p 41 7 != 0 || leAt p 48 16 != 0 ||
    pkArgt p % 64 != 0 || !q.holds (pkArgt p) (16 * pkNarg p) ||
    (List.range (pkNarg p)).any fun k => !q.holds (argOf args k).1.toNat (argOf args k).2.toNat

/-- Whether a field may not be launched on: reported by the binder, or its docent has failed (R275, R377). -/
def fieldUnavailable (s : State) (f : Nat) : Bool := s.badFields.contains f || (s.ctlOf (.docent f)).failed

/-- Whether another claim holds a field, one of a fleet under preparation included: that covers the whole wafer (R363). -/
def fieldHeld (s : State) (f : Nat) : Bool :=
  (holderOf s f).isSome || (s.fleetLaunch.map fun l => !l.started) == some true

/-- Reason 0x05 of R362, for a packet of queue `q` (none for a packet that the leader of a fleet sent). A wafer of a fleet runs
the fleet's claim and no other (R277, R363). -/
def recordRefused (s : State) (l : LaunchParts) (slot : Nat) (q : Option Nat) : Bool :=
  let a := l.acc
  !a.v || (l.words.any fun w => w.extractLsb' 39 24 != 0) || (match q with | some k => !a.qmask.testBit k | none => false) || a.malformed slot s.replay l.image.fw l.image.fh ||
    (a.fields.any fun f => fieldHeld s f || fieldUnavailable s f) || (a.fleet != s.fleet.isSome) ||
    l.words.any fun w => w.getLsbD 63 && (s.ctlOf (.engine (bindingOfWord 0 w).ctx.engine)).failed

/-- The relocation records that name an argument the packet does not carry (R95). -/
def relocationBad (i : Image) (p : List Byte) : Bool := i.recs.any fun r => r.kind == 11 && decide (pkNarg p ≤ leAt r.payload 0 1)

/-- Steps 2 to 6 of R32: the reason of the refusal, or 0 (R362). -/
def launchReason (s : State) (q : Option Nat) (l : LaunchParts) (p args : List Byte) : Nat :=
  let slot := p.getD 2 0
  if (s.cats.at slot).st ≠ .resident then 2
  else if (s.cats.at slot).leased = false ∨ (l.image.ranges.all fun r => l.pinned.contains r) = false then 3
  else if l.image.hop ≠ s.lh ∨ l.image.wheel ≠ s.wheel then 4
  else if recordRefused s l slot.toNat q then 5
  else if pkTotal p ≠ 0 ∧ l.acc.mech = false then 6
  else
    let c := buildClaim s l p
    if bindingsBad c l.acc.claim l.words || contextsHeld s c then 8
    else if l.barriers.any (descriptorBad c) then 9
    else if routesBad (installClaim s l p args) l.acc.claim then 10
    else if relocationBad l.image p then 7
    else 0

/-- Step 7: every strand starts at the record's start tick, whose tick is taken now. -/
def startClaim (s : State) (l : LaunchParts) (p args : List Byte) : State :=
  let s := installClaim s l p args
  { s with todo := s.todo ++ tickTasks l.acc.claim }

/-- A refused launch gets its record and its decrement at once (R362, R369). -/
def refuseLaunch (s : State) (p : List Byte) (reason : Nat) : State :=
  settleLease (writeCompletion s (pkCrec p) (pkSig p) {
    kind := 2, reason := reason, user := BitVec.ofNat 32 (leAt p 4 4), start := 0, endTick := 0, fault := 0, ftick := 0
    fdata := 0, haltb := 0, tlmin := 0 }) (p.getD 2 0)

/-! ## Fleets (R363) -/

/-- The lowest-numbered wafer's refusal, or 0. -/
def fleetReason (v : List (Nat × Nat)) : Nat :=
  ((v.filter fun p => p.2 ≠ 0).foldl (fun (acc : Option (Nat × Nat)) p =>
    match acc with
    | none => some p
    | some q => if p.1 < q.1 then some p else some q) none).elim 0 fun p => p.2

/-- When every wafer's verdict is here, the launch starts on this wafer, or the leader refuses it. -/
def settleVerdicts (s : State) : State :=
  match s.fleetLaunch, s.fleet with
  | some f, some (w, n, _) =>
    if f.started || decide (f.verdicts.length < n) then s
    else if fleetReason f.verdicts = 0 then
      let l := f.took.read
      (startClaim { s with fleetLaunch := some { f with started := true } } l f.packet f.args).modClaim l.acc.claim fun c =>
        { c with peerIn := f.incoming }
    else
      let s := { s with fleetLaunch := none }
      if w = 0 then refuseLaunch s f.packet (fleetReason f.verdicts) else settleLease s (f.packet.getD 2 0)
  | _, _ => s

/-- The entries of a claim that drive links of its peer ports, those that a bound engine shares among them (R33, R273). -/
def peerRoutesOf (s : State) (cl : Nat) : List PeerRoute :=
  ((claimTiles (s.claimOf cl) cl).map fun t => ((s.tileOf t).routes.map fun r => r.outs.filterMap fun d =>
    match across s t d with
    | some (.peer _) => (edgeLink (globalOf (s.claimOf cl) t) d).map fun l => (⟨l, r.tag, r.slot, false⟩ : PeerRoute)
    | some (.both _) => (edgeLink (globalOf (s.claimOf cl) t) d).map fun l => (⟨l, r.tag, r.slot, true⟩ : PeerRoute)
    | some (.tile _) => none
    | some (.engine _) => none
    | none => none).flatten).flatten

/-- Whether a sending wafer's entry has its successor here: its tag, in the slot Lp later (R273). One on a link that an engine of
the sending wafer shares is that engine's where this wafer has no entry for its tag on the link.
DESIGN CHOICE: notes/assumptions/58.md. -/
def peerMatched (s : State) (cl : Nat) (r : PeerRoute) : Bool :=
  let c := s.claimOf cl
  let e := edgeTile r.link
  let t : TileId := ⟨cl, e.1.1 - 12 * c.fx0, e.1.2 - 12 * c.fy0⟩
  hasEntry s t e.2 r.tag ((r.slot + s.lp) % s.wheel) ||
    r.shared && !(s.tileOf t).routes.any fun q => q.inp == some e.2 && q.tag == r.tag

/-- The wafer's reason, once every other wafer's entries are here: an entry without its successor refuses at step 5, before the
check of step 6 (R362, R363). -/
def peerReason (s : State) (f : FleetLaunch) : Nat :=
  let l := f.took.read
  if (f.own = 0 ∨ f.own = 7) ∧ (f.incoming.all (peerMatched (installClaim s l f.packet f.args) l.acc.claim)) = false then 10
  else f.own

/-- When the peer routes of every other wafer are here, this one's verdict goes to them. -/
def settleRoutes (s : State) : State :=
  match s.fleetLaunch, s.fleet with
  | some f, some (w, n, _) =>
    if f.told + 1 < n ∨ (f.verdicts.any fun v => v.1 == w) = true then s
    else
      let r := peerReason s f
      settleVerdicts { s with
        fleetLaunch := some { f with verdicts := f.verdicts ++ [(w, r)] }
        fleetMsgs := s.fleetMsgs ++ [.verdict w r] }
  | _, _ => s

/-- A wafer takes steps 2 to 6 of a fleet launch; the leader sends the packet with its argument table to the others, and every
wafer its entries on peer links (R363). -/
def prepareFleet (s : State) (q : Option Nat) (p args : List Byte) : State :=
  let took := takeSlot s (p.getD 2 0)
  let l := took.read
  let own := launchReason s q l p args
  let routes := if own = 0 ∨ own = 7 then peerRoutesOf (installClaim s l p args) l.acc.claim else []
  settleRoutes { s with
    fleetLaunch := some ⟨p, args, took, q, own, 0, [], [], [], false, none, none⟩
    fleetMsgs := s.fleetMsgs ++ ((if q.isSome then [.launch p args] else []) ++ [.peerRoutes routes]) }

/-- A wafer that is not the leader receives a fleet packet (R363); one that does not run takes none (R373). -/
def receiveLaunch (s : State) (packet args : List Byte) : State :=
  if s.power ≠ .running then s
  else
    match s.fleet, s.fleetLaunch with
    | some _, none => prepareFleet s none packet args
    | _, _ => s

def execFleetLaunch (packet args : List Byte) (s : State) : Host.Outcome State Fault Refusal :=
  .next (receiveLaunch s packet args)

/-! ## Queues (R359, R360) -/

/-- Changes a queue's registers. -/
def State.modQueue (s : State) (q : BitVec 6) (f : Queue → Queue) : State := { s with queues := s.queues.put q (f (s.queues.at q)) }

/-- Packet n of a queue lies here (R358). -/
def Queue.entry (q : Queue) (n : Nat) : Nat := q.base.toNat + 64 * (n % 2 ^ q.log2)

/-- The head packet is consumed: its V is cleared at host scope and QREAD rises; a queue that waits to be disabled may now
have drained (R360, R365). -/
def consume (s : State) (q : BitVec 6) (p : List Byte) : State :=
  let x := s.queues.at q
  let s := farWrite s (farBytesAt (x.entry x.qread.toNat) ((p.take 8).set 0 (p.getD 0 0 &&& 0xFE)))
  let s := s.modQueue q fun x => { x with qread := x.qread + 1 }
  if x.disabling && x.qread + 1 == x.target then s.push (.queueDisableDrain q) else s

/-- A packet with V = 1 whose addresses are good goes through the steps of R32. -/
def launchPacket (s : State) (q : BitVec 6) (p args : List Byte) : State :=
  let x := s.queues.at q
  let l := (takeSlot s (p.getD 2 0)).read
  if packetBad x p args then refuseLaunch s p 1
  else if s.fleet.isSome && (s.cats.at (p.getD 2 0)).st == .resident && l.acc.v && l.acc.fleet && s.fleetLaunch.isNone then
    prepareFleet s (some q.toNat) p args
  else
    let r := launchReason s (some q.toNat) l p args
    if r = 0 then startClaim s l p args else refuseLaunch s p r

/-- Whether a queue's fleet packet is in steps 2 to 6 of R32: its packets go through the steps in order, one at a time (R360,
R363). -/
def queuePreparing (s : State) (q : BitVec 6) : Bool :=
  s.fleetLaunch.any fun f => !f.started && f.queue == some q.toNat

/-- Whether the command processor may read a queue's head packet (R360). -/
def queueReady (s : State) (q : BitVec 6) : Bool :=
  let x := s.queues.at q
  x.en && !x.waitV && decide (x.qread.toNat < x.target.toNat) && !queuePreparing s q

/-- The command processor reads the head packet of a queue (R360). A packet with V = 1 waits through a curator switch
(R378). -/
def readPacket (s : State) (q : BitVec 6) : State :=
  let x := s.queues.at q
  if queueReady s q then
    let p := farRead s (x.entry x.qread.toNat) 64
    if leAt p 0 1 % 2 = 0 then s.modQueue q fun x => { x with waitV := true }
    else if switching s .curator then s
    else if packetDropped x p then consume (s.modQueue q fun x => { x with badPkt := true }) q p
    else
      let args := farRead s (pkArgt p) (16 * min (pkNarg p) 16)
      launchPacket (consume s q p) q p args
  else s

def execPacketRead (q : BitVec 6) (s : State) : Host.Outcome State Fault Refusal := .next (readPacket s q)

/-- A host write to QNOTIFY (R359): taken it sets the target and lets a stopped queue go on, and one that waits to be disabled
may have drained by it (R365); else it sets BADIDX. -/
def notify (s : State) (q : BitVec 6) (w : BitVec 64) : State :=
  let x := s.queues.at q
  if x.en ∧ x.qread.toNat ≤ w.toNat ∧ w.toNat ≤ x.qread.toNat + 2 ^ x.log2 then
    let s := s.modQueue q fun x => { x with target := w, waitV := false }
    if x.disabling && x.qread == w then s.push (.queueDisableDrain q) else s
  else s.modQueue q fun x => { x with badIdx := true }

def execQnotifyWrite (q : BitVec 6) (w : BitVec 64) (s : State) : Host.Outcome State Fault Refusal := .next (notify s q w)

end Sys2Proof.Machine
end

