-- ==== Sys2Proof/Machine/Handover.lean ====
section
/-!
DEFINITION. The embedded controllers' memories and the hand-over records of a live firmware switch (spec/14 R367, R374,
R375): what an outgoing image writes and what an incoming one checks. DESIGN CHOICE for the places of the fields:
notes/assumptions/55.md.
-/

namespace Sys2Proof.Machine

/-! ## Controllers (R367, R374) -/

/-- A controller's number (R367). -/
def controllerOf (n : Nat) : Option Controller :=
  if n = 0 then some .curator
  else if 0x100 ≤ n ∧ n < 0x118 then some (.engine (n - 0x100))
  else if 0x200 ≤ n ∧ n < 0x254 then some (.docent (n - 0x200))
  else none

/-- The number by which a controller is named (R367). -/
def controllerNumber : Controller → Nat
  | .curator => 0
  | .engine e => 0x100 + e
  | .docent f => 0x200 + f

/-- The controllers in the order of their numbers. -/
def allControllers : List Controller := .curator :: (List.range 24).map Controller.engine ++ (List.range 84).map Controller.docent

/-- Changes a controller's state. -/
def State.modCtl (s : State) (c : Controller) (f : Ctl → Ctl) : State := s.setCtl c (f (s.ctlOf c))

/-- The bytes of one half of a controller's memory: 256 KiB of the curator's; the spec gives no number for the others. -/
def halfSize : Controller → Nat
  | .curator => 0x40000
  | .engine _ => 0x80000000
  | .docent _ => 0x80000000

/-- Where a half begins in a controller's memory: also the entry of the image in it. -/
def halfBase (c : Controller) (upper : Bool) : Nat := if upper then halfSize c else 0

/-- Bytes written into a controller's memory, those past its end dropped. -/
def Ctl.store (c : Controller) (a : Nat) (b : List Byte) (x : Ctl) : Ctl :=
  { x with mem := x.mem.writeList a (b.take (2 * halfSize c - a)) }

/-- Bytes of a controller's memory, none where they pass its end. -/
def Ctl.bytesAt (c : Controller) (x : Ctl) (a n : Nat) : List Byte :=
  if a + n ≤ 2 * halfSize c then x.mem.readList a n else []

/-! ## What an outgoing image writes (R375) -/

/-- The eight bytes of a number. -/
def numBytes (n : Nat) : List Byte := bytesOf (BitVec.ofNat 64 n) 8

/-- The eight bytes of a signed number. -/
def intBytes (n : Int) : List Byte := bytesOf (BitVec.ofInt 64 n) 8

/-- A section: its type, its length and its contents. -/
def handSection (type : Nat) (b : List Byte) : List Byte := bytesOf (BitVec.ofNat 32 type) 4 ++ bytesOf (BitVec.ofNat 32 b.length) 4 ++ b

/-- The registers of a queue (R357). -/
def Queue.words (q : Queue) : List Quad :=
  [q.target, q.qread, q.base, q.wbase, q.wlim, BitVec.ofNat 64 (q.log2 * 256 + if q.en then 1 else 0),
    BitVec.ofNat 64 ((if q.badPkt then 4 else 0) + (if q.badIdx then 2 else 0) + if q.waitV then 1 else 0)]

def CatSt.code : CatSt → Byte
  | .empty => 0
  | .loading => 1
  | .resident => 2
  | .evicting => 3

/-- The queue table and the catalogue states. -/
def queueSection (s : State) : List Byte :=
  ((List.range 64).map fun q => ((s.queues.at (BitVec.ofNat 6 q)).words.map fun w => bytesOf w 8).flatten).flatten ++
    (List.range 256).map fun k => (s.cats.at (BitVec.ofNat 8 k)).st.code

/-- The dispatch slot table and the leases. -/
def slotSection (s : State) : List Byte :=
  ((List.range 256).map fun k =>
    let r := s.accessions.at (BitVec.ofNat 8 k)
    (List.range 64).map fun i => r.getD i 0).flatten ++
    (List.range 256).map fun k => if (s.cats.at (BitVec.ofNat 8 k)).leased then 1 else 0

/-- A port of a route entry: 0 for the local one. -/
def portByte : Option Side → Byte
  | none => 0
  | some .north => 1
  | some .east => 2
  | some .south => 3
  | some .west => 4

/-- A route entry's bytes under its claim's checksum. -/
def Route.sumBytes (r : Route) : List Byte :=
  bytesOf (BitVec.ofNat 16 r.tag.toNat) 2 ++ [BitVec.ofNat 8 r.slot, portByte r.inp] ++ r.outs.map (fun d => portByte (some d)) ++
    (if r.loc then [portByte none] else []) ++ [0xFF]

/-- The route-table checksums of the claims that run. -/
def routeSection (s : State) : List Byte :=
  (s.claims.map fun p =>
    if isRunning s p.1 then
      numBytes p.1 ++ digestBytes (sha256 (((s.tiles.filter fun t => t.1.claim = p.1).map fun t =>
        (t.2.routes.map Route.sumBytes).flatten).flatten))
    else []).flatten

/-- Whether a claim holds its fields. -/
def Claim.holds (c : Claim) : Bool :=
  match c.run with
  | .ended _ _ => false
  | .running | .preempted _ | .faulted _ | .haltedAt _ | .aborted _ => true

/-- The tiles of a field that a claim holds. -/
def fieldTiles (s : State) (f : Nat) : List (TileId × Tile) :=
  s.tiles.filter fun p =>
    (s.claimOf p.1.claim).holds && fieldOf (globalOf (s.claimOf p.1.claim) p.1) == f

/-- The trims of a docent's field with the deadband and the slew limit (R260, R261). -/
def trimSection (s : State) (f : Nat) : List Byte :=
  numBytes s.db4 ++ numBytes s.slew ++ ((fieldTiles s f).map fun p => intBytes p.2.trim).flatten

/-- The self-test position of a docent's field (R348). -/
def testSection (s : State) (f : Nat) : List Byte :=
  ((s.tests.filter fun x => x.field = f).map fun x => numBytes x.row ++ numBytes x.col).flatten

/-- The first errors of the claims that a predicate on the claim and its error admits (R344, R369). -/
def errorSection (s : State) (p : Nat → ErrRec → Bool) : List Byte :=
  (s.claims.map fun c =>
    match c.2.firstErr with
    | some e => if p c.1 e then numBytes e.tick ++ numBytes e.x ++ numBytes e.y ++ numBytes e.core ++ bytesOf e.place 8 else []
    | none => []).flatten

/-- The sections of a controller's record. An engine's refresh and retry state is a free value (notes/assumptions/5.md); its TLB
invalidations are done when they are asked for. -/
def sectionsOf (s : State) : Controller → List Byte
  | .curator => handSection 1 (queueSection s) ++ handSection 2 (slotSection s) ++ handSection 3 (routeSection s) ++
      handSection 7 (errorSection s fun _ _ => true)
  | .engine e => handSection 6 (bytesOf (Config.refreshState e s.free) 8) ++ handSection 7 (errorSection s fun _ e => e.place.extractLsb' 62 2 == 0)
  | .docent f => handSection 4 (trimSection s f) ++ handSection 5 (testSection s f) ++
      handSection 7 (errorSection s fun cl e => fieldOf (globalOf (s.claimOf cl) ⟨cl, e.x, e.y⟩) == f)

/-- The magic of a hand-over record (R375). -/
def recordMagic : BitVec 32 := 0x4F564448

/-- The hand-over record that a controller's running image writes for the image in the retained half (R375). -/
def handRecord (s : State) (c : Controller) : List Byte :=
  let x := s.ctlOf c
  let b := sectionsOf s c
  bytesOf recordMagic 4 ++ [Config.recordFormat x.active, 0, 0, 0] ++ bytesOf (Config.firmwareVersion x.active) 4 ++
    bytesOf (Config.firmwareVersion x.retained) 4 ++ numBytes (64 + b.length) ++ digestBytes (sha256 b) ++ List.replicate 8 0 ++ b

/-! ## What an incoming image checks (R375) -/

/-- The types of the sections of a record, none where a section runs past the record's end. -/
def sectionTypes : Nat → List Byte → Option (List Nat)
  | _, [] => some []
  | 0, _ :: _ => none
  | fuel + 1, b :: bs =>
    let n := leAt (b :: bs) 4 4
    if (b :: bs).length < 8 + n then none
    else (sectionTypes fuel ((b :: bs).drop (8 + n))).map fun l => leAt (b :: bs) 0 4 :: l

/-- Whether an image takes the record at an address of its controller's memory: the magic, the length and the hash are right
and it knows every section in the record's format version. -/
def recordTaken (c : Controller) (x : Ctl) (image : BitVec 256) (a : Nat) : Bool :=
  let h := x.bytesAt c a 64
  let len := leAt h 16 8
  let b := x.bytesAt c (a + 64) (len - 64)
  leAt h 0 4 == recordMagic.toNat && decide (64 ≤ len) && (h.drop 24).take 32 == digestBytes (sha256 b) &&
    match sectionTypes b.length b with
    | none => false
    | some l => l.all fun t => Config.knowsSection image (BitVec.ofNat 16 t) (h.getD 4 0)

/-- The format version of the record at an address (R377 RECVER). -/
def recordVersion (c : Controller) (x : Ctl) (a : Nat) : Byte := (x.bytesAt c a 64).getD 4 0

end Sys2Proof.Machine
end

