-- ==== Sys2Proof/Machine/Rv32.lean ====
section
/-!
DEFINITION. The curator's core at work: the instructions of RV32IMC, which the spec names and does not define (spec/01 R35),
run in order from its tightly coupled memory. PRESUMED: notes/assumptions/62.md.
-/

namespace Sys2Proof.Machine

/-- A register number of the core. -/
abbrev Reg5 := BitVec 5

/-- The operations on two registers, or on a register and an immediate. -/
inductive RvAlu where
  | add | sub | sll | slt | sltu | xor | srl | sra | or | and | mul | mulh | mulhsu | mulhu | div | divu | rem | remu
  deriving DecidableEq, Repr

/-- The conditions of a branch. -/
inductive RvCond where
  | eq | ne | lt | ge | ltu | geu
  deriving DecidableEq, Repr

/-- An instruction of the core, a compressed one as what it stands for. `n` is the bytes of an access. -/
inductive Rv where
  | lui (rd : Reg5) (imm : Word)
  | auipc (rd : Reg5) (imm : Word)
  | jal (rd : Reg5) (ofs : Word)
  | jalr (rd rs : Reg5) (ofs : Word)
  | branch (c : RvCond) (rs rt : Reg5) (ofs : Word)
  | load (rd rs : Reg5) (ofs : Word) (n : Nat) (signed : Bool)
  | store (rs rt : Reg5) (ofs : Word) (n : Nat)
  | alu (op : RvAlu) (rd rs rt : Reg5)
  | alui (op : RvAlu) (rd rs : Reg5) (imm : Word)
  | fence
  deriving DecidableEq, Repr

/-! ## Decoding -/

/-- `n` bits of a word from bit `i`. -/
def bitsAt {m : Nat} (w : BitVec m) (i n : Nat) : BitVec n := w.extractLsb' i n

def rvCond (f : BitVec 3) : Option RvCond :=
  match f.toNat with
  | 0 => some .eq | 1 => some .ne | 4 => some .lt | 5 => some .ge | 6 => some .ltu | 7 => some .geu | _ => none

/-- The operation of an OP word, by its two function fields. -/
def rvOp (f7 : BitVec 7) (f3 : BitVec 3) : Option RvAlu :=
  match f7.toNat, f3.toNat with
  | 0, 0 => some .add | 0, 1 => some .sll | 0, 2 => some .slt | 0, 3 => some .sltu
  | 0, 4 => some .xor | 0, 5 => some .srl | 0, 6 => some .or | 0, 7 => some .and
  | 32, 0 => some .sub | 32, 5 => some .sra
  | 1, 0 => some .mul | 1, 1 => some .mulh | 1, 2 => some .mulhsu | 1, 3 => some .mulhu
  | 1, 4 => some .div | 1, 5 => some .divu | 1, 6 => some .rem | 1, 7 => some .remu
  | _, _ => none

/-- The operation of an OP-IMM word; a shift takes its amount from the low five bits of the immediate. -/
def rvOpImm (f7 : BitVec 7) (f3 : BitVec 3) : Option RvAlu :=
  match f3.toNat with
  | 0 => some .add | 2 => some .slt | 3 => some .sltu | 4 => some .xor | 6 => some .or | 7 => some .and
  | 1 => if f7 = 0 then some .sll else none
  | _ => if f7 = 0 then some .srl else if f7 = 32 then some .sra else none

/-- A 32-bit word; none where it is no instruction of RV32IM that the core can go on from. -/
def rvDecode (w : Word) : Option Rv :=
  let rd := bitsAt w 7 5
  let rs := bitsAt w 15 5
  let rt := bitsAt w 20 5
  let f3 := bitsAt w 12 3
  let f7 := bitsAt w 25 7
  let immI : Word := (bitsAt w 20 12).signExtend 32
  let immS : Word := (bitsAt w 25 7 ++ bitsAt w 7 5 : BitVec 12).signExtend 32
  let immB : Word := (bitsAt w 31 1 ++ bitsAt w 7 1 ++ bitsAt w 25 6 ++ bitsAt w 8 4 ++ 0#1 : BitVec 13).signExtend 32
  let immU : Word := bitsAt w 12 20 ++ 0#12
  let immJ : Word := (bitsAt w 31 1 ++ bitsAt w 12 8 ++ bitsAt w 20 1 ++ bitsAt w 21 10 ++ 0#1 : BitVec 21).signExtend 32
  match (bitsAt w 0 7 : BitVec 7).toNat with
  | 0x37 => some (.lui rd immU)
  | 0x17 => some (.auipc rd immU)
  | 0x6F => some (.jal rd immJ)
  | 0x67 => if f3 = 0 then some (.jalr rd rs immI) else none
  | 0x63 => (rvCond f3).map fun c => .branch c rs rt immB
  | 0x03 =>
    match f3.toNat with
    | 0 => some (.load rd rs immI 1 true)
    | 1 => some (.load rd rs immI 2 true)
    | 2 => some (.load rd rs immI 4 true)
    | 4 => some (.load rd rs immI 1 false)
    | 5 => some (.load rd rs immI 2 false)
    | _ => none
  | 0x23 => if f3.toNat < 3 then some (.store rs rt immS (2 ^ f3.toNat)) else none
  | 0x13 => (rvOpImm f7 f3).map fun op => .alui op rd rs immI
  | 0x33 => (rvOp f7 f3).map fun op => .alu op rd rs rt
  | 0x0F => if f3 = 0 then some .fence else none
  | _ => none

/-- A register of a three-bit field of a compressed word. -/
def rvShort (f : BitVec 3) : Reg5 := 1#2 ++ f

/-- The offset of a compressed jump. -/
def rvJump (h : BitVec 16) : Word :=
  (bitsAt h 12 1 ++ bitsAt h 8 1 ++ bitsAt h 9 2 ++ bitsAt h 6 1 ++ bitsAt h 7 1 ++ bitsAt h 2 1 ++ bitsAt h 11 1 ++
    bitsAt h 3 3 ++ 0#1 : BitVec 12).signExtend 32

/-- The offset of a compressed branch. -/
def rvBranch (h : BitVec 16) : Word :=
  (bitsAt h 12 1 ++ bitsAt h 5 2 ++ bitsAt h 2 1 ++ bitsAt h 10 2 ++ bitsAt h 3 2 ++ 0#1 : BitVec 9).signExtend 32

/-- A compressed word of quadrant 0. -/
def rvQuad0 (h : BitVec 16) : Option Rv :=
  let rs := rvShort (bitsAt h 7 3)
  let rd := rvShort (bitsAt h 2 3)
  let ofs : Word := (bitsAt h 5 1 ++ bitsAt h 10 3 ++ bitsAt h 6 1 ++ 0#2 : BitVec 7).setWidth 32
  match (bitsAt h 13 3 : BitVec 3).toNat with
  | 0 =>
    let imm : Word := (bitsAt h 7 4 ++ bitsAt h 11 2 ++ bitsAt h 5 1 ++ bitsAt h 6 1 ++ 0#2 : BitVec 10).setWidth 32
    if imm = 0 then none else some (.alui .add rd 2 imm)
  | 2 => some (.load rd rs ofs 4 true)
  | 6 => some (.store rs rd ofs 4)
  | _ => none

/-- The arithmetic of quadrant 1 on short registers. -/
def rvArith (h : BitVec 16) (imm : Word) : Option Rv :=
  let rd := rvShort (bitsAt h 7 3)
  let rt := rvShort (bitsAt h 2 3)
  let high := h.getLsbD 12
  match (bitsAt h 10 2 : BitVec 2).toNat with
  | 0 => if high then none else some (.alui .srl rd rd imm)
  | 1 => if high then none else some (.alui .sra rd rd imm)
  | 2 => some (.alui .and rd rd imm)
  | _ =>
    if high then none
    else
      match (bitsAt h 5 2 : BitVec 2).toNat with
      | 0 => some (.alu .sub rd rd rt)
      | 1 => some (.alu .xor rd rd rt)
      | 2 => some (.alu .or rd rd rt)
      | _ => some (.alu .and rd rd rt)

/-- A compressed word of quadrant 1. -/
def rvQuad1 (h : BitVec 16) : Option Rv :=
  let rd : Reg5 := bitsAt h 7 5
  let imm : Word := (bitsAt h 12 1 ++ bitsAt h 2 5 : BitVec 6).signExtend 32
  match (bitsAt h 13 3 : BitVec 3).toNat with
  | 0 => some (.alui .add rd rd imm)
  | 1 => some (.jal 1 (rvJump h))
  | 2 => some (.alui .add rd 0 imm)
  | 3 =>
    if imm = 0 then none
    else if rd = 2 then
      some (.alui .add 2 2 ((bitsAt h 12 1 ++ bitsAt h 3 2 ++ bitsAt h 5 1 ++ bitsAt h 2 1 ++ bitsAt h 6 1 ++ 0#4 :
        BitVec 10).signExtend 32))
    else some (.lui rd (imm <<< 12))
  | 4 => rvArith h imm
  | 5 => some (.jal 0 (rvJump h))
  | 6 => some (.branch .eq (rvShort (bitsAt h 7 3)) 0 (rvBranch h))
  | _ => some (.branch .ne (rvShort (bitsAt h 7 3)) 0 (rvBranch h))

/-- A compressed word of quadrant 2. -/
def rvQuad2 (h : BitVec 16) : Option Rv :=
  let rd : Reg5 := bitsAt h 7 5
  let rt : Reg5 := bitsAt h 2 5
  let high := h.getLsbD 12
  match (bitsAt h 13 3 : BitVec 3).toNat with
  | 0 => if high then none else some (.alui .sll rd rd (rt.setWidth 32))
  | 2 =>
    if rd = 0 then none
    else some (.load rd 2 ((bitsAt h 2 2 ++ bitsAt h 12 1 ++ bitsAt h 4 3 ++ 0#2 : BitVec 8).setWidth 32) 4 true)
  | 4 =>
    if rt = 0 then (if rd = 0 then none else some (.jalr (if high then 1 else 0) rd 0))
    else some (.alu .add rd (if high then rd else 0) rt)
  | 6 => some (.store 2 rt ((bitsAt h 7 2 ++ bitsAt h 9 4 ++ 0#2 : BitVec 8).setWidth 32) 4)
  | _ => none

/-- A compressed word. -/
def rvCompressed (h : BitVec 16) : Option Rv :=
  match (bitsAt h 0 2 : BitVec 2).toNat with
  | 0 => rvQuad0 h
  | 1 => rvQuad1 h
  | _ => rvQuad2 h

/-! ## Execution -/

/-- The bytes of the core's memory, at the start of its address space (R35). -/
def tcmSize : Nat := 2 * halfSize .curator

namespace CuratorCore

/-- The first register reads zero. -/
def reg (c : CuratorCore) (i : Reg5) : Word := if i = 0 then 0 else c.x.at i

/-- Writes to the first register are discarded. -/
def setReg (c : CuratorCore) (i : Reg5) (v : Word) : CuratorCore := if i = 0 then c else { c with x := c.x.put i v }

end CuratorCore

def RvCond.holds (c : RvCond) (a b : Word) : Bool :=
  match c with
  | .eq => a == b
  | .ne => a != b
  | .lt => decide (a.toInt < b.toInt)
  | .ge => decide (b.toInt ≤ a.toInt)
  | .ltu => decide (a.toNat < b.toNat)
  | .geu => decide (b.toNat ≤ a.toNat)

/-- A division by zero gives all ones and the dividend as the remainder; the one that overflows, the dividend and zero. -/
def RvAlu.apply (op : RvAlu) (a b : Word) : Word :=
  let sh := b.toNat % 32
  match op with
  | .add => a + b
  | .sub => a - b
  | .sll => a <<< sh
  | .slt => if a.toInt < b.toInt then 1 else 0
  | .sltu => if a.toNat < b.toNat then 1 else 0
  | .xor => a ^^^ b
  | .srl => a >>> sh
  | .sra => a.sshiftRight sh
  | .or => a ||| b
  | .and => a &&& b
  | .mul => a * b
  | .mulh => BitVec.ofInt 32 (a.toInt * b.toInt / 2 ^ 32)
  | .mulhsu => BitVec.ofInt 32 (a.toInt * b.toNat / 2 ^ 32)
  | .mulhu => BitVec.ofNat 32 (a.toNat * b.toNat / 2 ^ 32)
  | .div => if b = 0 then BitVec.allOnes 32 else BitVec.ofInt 32 (a.toInt.tdiv b.toInt)
  | .divu => if b = 0 then BitVec.allOnes 32 else BitVec.ofNat 32 (a.toNat / b.toNat)
  | .rem => if b = 0 then a else BitVec.ofInt 32 (a.toInt.tmod b.toInt)
  | .remu => if b = 0 then a else BitVec.ofNat 32 (a.toNat % b.toNat)

/-- What the core fetches: an instruction and its length; none outside its memory or for a word that is no instruction. -/
def rvFetch (m : Memory) (pc : Word) : Option (Rv × Nat) :=
  let a := pc.toNat
  let h : BitVec 16 := BitVec.ofNat 16 (m.readNat a 2)
  if a + 2 > tcmSize then none
  else if bitsAt h 0 2 = 3#2 then
    if a + 4 > tcmSize then none else (rvDecode (BitVec.ofNat 32 (m.readNat a 4))).map fun i => (i, 4)
  else (rvCompressed h).map fun i => (i, 2)

/-- The module after the core's next instruction is taken off: its registers and its memory change, a read outside that memory is
a free value, and a write there is one of the acts that come to the module as events (R35). -/
def rvRun (s : State) (i : Rv) (len : Nat) : State :=
  let c := s.curator
  let next := c.pc + BitVec.ofNat 32 len
  let go := fun (c : CuratorCore) (pc : Word) => ({ s with curator := { c with pc := pc } } : State)
  match i with
  | .lui rd imm => go (c.setReg rd imm) next
  | .auipc rd imm => go (c.setReg rd (c.pc + imm)) next
  | .jal rd ofs => go (c.setReg rd next) (c.pc + ofs)
  | .jalr rd rs ofs => go (c.setReg rd next) ((c.reg rs + ofs) &&& ~~~1)
  | .branch k rs rt ofs => go c (if k.holds (c.reg rs) (c.reg rt) then c.pc + ofs else next)
  | .alu op rd rs rt => go (c.setReg rd (op.apply (c.reg rs) (c.reg rt))) next
  | .alui op rd rs imm => go (c.setReg rd (op.apply (c.reg rs) imm)) next
  | .fence => go c next
  | .load rd rs ofs n signed =>
    let a := (c.reg rs + ofs).toNat
    let inside := a + n ≤ tcmSize
    let v : Word := if inside then BitVec.ofNat 32 ((s.ctlOf .curator).mem.readNat a n) else Config.curatorBus s.free
    let v := if signed then (v.setWidth (8 * n)).signExtend 32 else (v.setWidth (8 * n)).setWidth 32
    { go (c.setReg rd v) next with free := if inside then s.free else s.free + 1 }
  | .store rs rt ofs n =>
    let a := (c.reg rs + ofs).toNat
    let u := go c next
    if a + n ≤ tcmSize then u.modCtl .curator fun x => x.store .curator a (bytesOf (c.reg rt) n) else u

/-- The curator's core takes one instruction in a step of wall time, of a module that is on and a curator that has not stopped;
it stands where it finds none. A fault of the core in the sense of R376 and R377 comes as an event. PRESUMED:
notes/assumptions/62.md. -/
def stepCurator (s : State) : State :=
  if s.power = .off ∨ (s.ctlOf .curator).failed = true then s
  else
    match rvFetch (s.ctlOf .curator).mem s.curator.pc with
    | some (i, len) => rvRun s i len
    | none => s

end Sys2Proof.Machine
end

