-- ==== Sys2Proof/Machine/Curator.lean ====
section
/-!
DEFINITION. The curator and the host's side of it (spec/14): the diagnostic mailbox and its commands (R365 to R368), the
accession records (R361), live firmware (R374 to R378), measurements and SPDM (R372), boot (R370, R373), the Vimas address
space (R356, R357, R325) and the messages of a fleet (R37, R363).
-/

namespace Sys2Proof.Machine

/-! ## Commands -/

/-- Whether arguments i and up, which a command does not use, are zero (R367). -/
def zeroFrom (a : MbArgs) (i : Nat) : Bool := (([a.a0, a.a1, a.a2, a.a3, a.a4, a.a5] : List (BitVec 64)).drop i).all (· == 0)

/-- A command with its checks: not available in the safe state (0x05), an argument outside its limits (0x04), refused in the
present state (0x01); else its effect (R366, R367, R373). -/
def command (s : State) (safeToo argsOk stateOk : Bool) (eff : State → State) : Host.Outcome State Fault Refusal :=
  .next (if s.power = .safe ∧ safeToo = false then mailboxDone s 5 0
    else if argsOk = false then mailboxDone s 4 0
    else if stateOk = false then mailboxDone s 1 0
    else eff s)

/-- Register i of the measurement registers becomes SHA-256 of itself and a digest (R372). -/
def extend (s : State) (i : BitVec 3) (h : BitVec 256) : State :=
  { s with meas := s.meas.put i (sha256 (digestBytes (s.meas.at i) ++ digestBytes h)) }

/-- A catalogue slot of a command. -/
def slotOf (a : MbArgs) : Byte := a.a0.setWidth 8

def slotOk (a : MbArgs) : Bool := decide (a.a0.toNat < 256)

/-- Whether bytes in far memory carry a good signature block, which follows them: it verifies under the key of their kind, and
that key's certificate chains to the fused root key (R371). -/
def signedOk (s : State) (key : Config.SigningKey) (addr len : Nat) : Bool :=
  Config.chainsTo (Config.keyCertificate key) Config.rootKeyDigest &&
    Config.signatureValid key (sha256 (farRead s addr len)) (farRead s (addr + len) 384)

/-- LOAD (R365): the signature, then the checks of R94; a failed load writes nothing into the slot. -/
def execLoad (a : MbArgs) (s : State) : Host.Outcome State Fault Refusal :=
  let addr := a.a1.toNat
  let len := a.a2.toNat
  command s false (slotOk a && addr % 64 == 0 && decide (addr + len + 384 ≤ farLimit) && zeroFrom a 3)
    ((s.cats.at (slotOf a)).st == .empty) fun s =>
      let b := farRead s addr len
      if !signedOk s .model addr len then mailboxDone s 2 0
      else
        match imageBad b len with
        | some n => mailboxDone s 3 (BitVec.ofNat 64 n)
        | none =>
          let s := { s with cats := s.cats.put (slotOf a) ⟨.resident, b, false, [], false⟩ }
          mailboxDone (extend s 5 (sha256 b)) 0 0

/-- EVICT: refused while a launch of the slot is in flight; else the slot, whatever it holds, becomes empty and its record's V
becomes 0. -/
def execEvict (a : MbArgs) (s : State) : Host.Outcome State Fault Refusal :=
  command s false (slotOk a && zeroFrom a 1) (!inFlight s (slotOf a)) fun s =>
    let acc := s.accessions.at (slotOf a)
    mailboxDone { s with
      cats := s.cats.put (slotOf a) ⟨.empty, [], false, [], false⟩
      accessions := s.accessions.put (slotOf a) (acc.set 0 (acc.getD 0 0 &&& 0xFE)) } 0 0

/-! ## What a lease maps (R297, R365) -/

/-- Bytes of far memory that the curator takes for a table or a page, aligned to their size. -/
def leasePlace (n size : Nat) : Nat := Config.leaseFrame n % (farLimit / size) * size

/-- A table entry (R294): V = 1, the other low bits as given, and the address. -/
def tableEntry (low a : Nat) : BitVec 64 := BitVec.ofNat 64 (1 + low + a)

/-- Writes a table entry, taking the next free place of the curator. -/
def putEntry (s : State) (p : Nat) (e : BitVec 64) : State :=
  { farWrite s (farBytesAt p (bytesOf e 8)) with free := s.free + 1 }

/-- Maps the 64 KiB page of a virtual address below a table: the tables that are missing, then the leaf. What is mapped already
stays. DESIGN CHOICE: notes/assumptions/60.md. -/
def mapPage (v : Nat) (rd wr : Bool) : List (Nat × Nat) → Nat → State → State
  | [], _, s => s
  | (sh, bits) :: rest, base, s =>
    let p := base + 8 * ((v >>> sh) % 2 ^ bits)
    let e := (farView s (p / 8)).1
    match rest with
    | [] =>
      if e.getLsbD 0 then s
      else putEntry s p (tableEntry (2 + (if rd then 4 else 0) + (if wr then 8 else 0) + if Config.leaseTags s.free then 16 else 0)
        (leasePlace s.free 65536))
    | (_, b) :: _ =>
      if e.getLsbD 0 then
        if e.getLsbD 1 then s else mapPage v rd wr rest ((e.extractLsb' 8 34).toNat * 256) s
      else
        let a := leasePlace s.free (8 * 2 ^ b)
        mapPage v rd wr rest a (putEntry (farWrite s (farBytesAt a (List.replicate (8 * 2 ^ b) 0))) p (tableEntry 0 a))

/-- The first addresses of the pages that a range covers, below 2^48. -/
def FarRange.pages (r : FarRange) : List Nat :=
  if r.len = 0 then []
  else
    ((List.range ((min (r.addr + r.len) (2 ^ 48) + 65535) / 65536 - r.addr / 65536)).map fun i => (r.addr / 65536 + i) * 65536)

/-- Maps what the lease of a slot pins in the table that the slot's record names; without a valid record, or with a root that
leaves far memory, nothing. -/
def mapLease (s : State) (slot : Byte) : State :=
  let a := parseAcc (s.accessions.at slot)
  if !a.v || !(s.cats.at slot).leased || decide (farLimit < a.ptroot + 2 ^ 17) then s
  else
    (s.cats.at slot).pinned.foldl (fun s r =>
      r.pages.foldl (fun s v => mapPage v r.rd r.wr walkLevels a.ptroot s) s) s

/-- LEASE pins and maps every range that the slot's image declares (R297, R365). -/
def execLease (a : MbArgs) (s : State) : Host.Outcome State Fault Refusal :=
  command s false (slotOk a && zeroFrom a 1) ((s.cats.at (slotOf a)).st == .resident) fun s =>
    let x := s.cats.at (slotOf a)
    mailboxDone (mapLease { s with cats := s.cats.put (slotOf a) { x with
      leased := true, pinned := (parseImage x.image).ranges, unlease := false } } (slotOf a)) 0 0

/-- UNLEASE takes effect, and completes, once the slot's last completion signal in flight has been decremented.
DEDUCED: notes/assumptions/25.md. -/
def execUnlease (a : MbArgs) (s : State) : Host.Outcome State Fault Refusal :=
  command s false (slotOk a && zeroFrom a 1) (s.cats.at (slotOf a)).leased fun s =>
    settleLease { s with cats := s.cats.put (slotOf a) { s.cats.at (slotOf a) with unlease := true } } (slotOf a)

/-- The lease is released, when no launch of the slot is in flight, and the command that waits for it completes. -/
def execUnleaseEffect (slot : BitVec 8) (s : State) : Host.Outcome State Fault Refusal :=
  .next (if (s.cats.at slot).unlease && !inFlight s slot then
    let s' := { s with cats := s.cats.put slot { s.cats.at slot with leased := false, pinned := [], unlease := false } }
    if commandFor s 4 slot.toNat then mailboxDone s' 0 0 else s'
  else s)

def execQueueEnable (a : MbArgs) (s : State) : Host.Outcome State Fault Refusal :=
  let q : BitVec 6 := a.a0.setWidth 6
  let k := a.a2.toNat
  command s false (decide (a.a0.toNat < 64 ∧ a.a1.toNat % 64 = 0 ∧ 4 ≤ k ∧ k ≤ 16 ∧ a.a1.toNat + 64 * 2 ^ k ≤ farLimit ∧ a.a5 = 1))
    (!(s.queues.at q).en) fun s =>
      mailboxDone (s.modQueue q fun x => { x with
        base := a.a1, log2 := k, wbase := a.a3, wlim := a.a4, qread := 0, target := 0, waitV := false, en := true }) 0 0

def execQueueDisable (a : MbArgs) (s : State) : Host.Outcome State Fault Refusal :=
  let q : BitVec 6 := a.a0.setWidth 6
  command s false (decide (a.a0.toNat < 64) && zeroFrom a 1) true fun s =>
    let x := s.queues.at q
    if x.en = false then mailboxDone s 0 0
    else
      let s := s.modQueue q fun x => { x with disabling := true }
      if x.qread = x.target then s.push (.queueDisableDrain q) else s

/-- A queue that is to be disabled has drained: EN is cleared and the command completes. -/
def execQueueDisableDrain (q : BitVec 6) (s : State) : Host.Outcome State Fault Refusal :=
  let x := s.queues.at q
  .next (if x.disabling && x.qread == x.target then
    mailboxDone (s.modQueue q fun x => { x with en := false, disabling := false }) 0 0 else s)

/-- Whether a TLB entry's page meets a range of virtual addresses. -/
def TlbEntry.meets (e : TlbEntry) (first len : Nat) : Bool :=
  decide (e.page * 2 ^ e.size < first + len ∧ first < (e.page + 1) * 2 ^ e.size)

def execInvtlb (a : MbArgs) (s : State) : Host.Outcome State Fault Refusal :=
  command s false (decide (a.a0.toNat < 84) && zeroFrom a 3) true fun s =>
    mailboxDone { s with tlb := s.tlb.filter fun e =>
      !(e.claim == a.a0.toNat && e.meets a.a1.toNat a.a2.toNat) } 0 0

/-- The launch of a fleet's claim of which the leader's own part has stopped by itself, the other parts still under way (R363). -/
def restOf (s : State) (cl : Nat) : Option FleetLaunch :=
  if (s.claimOf cl).leftAlone then s.fleetLaunch.filter fun f => f.started else none

/-- The tick of a request that all wafers take: the last one before a replay boundary more than a replay interval ahead. -/
def requestTick (s : State) (n : Nat) : Nat := (n / s.replay + 2) * s.replay - 1

/-- A request for the parts that go on after the leader's own, at the fleet's count, which moves on with wall time from the
leader's end; parts that stand pre-empted are asked at once, and go on from their boundary.
DESIGN CHOICE: notes/assumptions/58.md. -/
def askRest (s : State) (cl op : Nat) (f : FleetLaunch) : State :=
  match f.stands with
  | none =>
    { s with fleetMsgs := s.fleetMsgs ++ [.request op (requestTick s (s.now cl + (s.wall - f.gone.getD s.wall)))] }
  | some b =>
    { s with
      fleetMsgs := s.fleetMsgs ++ [.request op b]
      fleetLaunch := some (if op = 8 then { f with stands := none, gone := some (s.wall - (b - s.now cl)) } else f) }

/-- A request for a claim. That for a fleet's goes to the other wafers too: each takes it at the tick it names, so that all stop
at one boundary; what stands is asked at once (R363). DESIGN CHOICE: notes/assumptions/58.md. -/
def askFleet (s : State) (cl op : Nat) (go : State → State) : State :=
  if (s.claimOf cl).fleet then
    if isRunning s cl then
      let at_ := requestTick s (s.now cl)
      ({ s with fleetMsgs := s.fleetMsgs ++ [FleetMessage.request op at_] } : State).planEv cl at_ phWire
        (.managementSidebandMessage (.request op at_))
    else
      match restOf s cl with
      | some f => askRest s cl op f
      | none => go { s with fleetMsgs := s.fleetMsgs ++ [.request op (s.now cl)] }
  else go s

/-- Whether a claim runs, or parts of it do where the leader's own has stopped by itself (R363). -/
def claimRuns (s : State) (cl : Nat) : Bool := isRunning s cl || (restOf s cl).any fun f => f.stands.isNone

/-- The curator asks for a pre-emption; the command completes at the stop (R122, R365). One that is taken in a claim's tick at a
boundary counts for the next boundary. DESIGN CHOICE: notes/assumptions/47.md. -/
def execPreempt (a : MbArgs) (s : State) : Host.Outcome State Fault Refusal :=
  let cl := a.a0.toNat
  command s false (decide (cl < 84) && zeroFrom a 1) (claimRuns s cl) fun s =>
    askFleet s cl 7 fun s => s.modClaim cl fun c => { c with preempt := true }

def isPreempted (s : State) (cl : Nat) : Bool :=
  match (s.claimOf cl).run with
  | .preempted _ => true
  | .running | .faulted _ | .haltedAt _ | .aborted _ | .ended _ _ => false

/-- Whether a claim stands pre-empted, or the parts of it do that go on after the leader's own (R363). -/
def claimStands (s : State) (cl : Nat) : Bool := isPreempted s cl || (restOf s cl).any fun f => f.stands.isSome

def execResume (a : MbArgs) (s : State) : Host.Outcome State Fault Refusal :=
  let cl := a.a0.toNat
  command s false (decide (cl < 84) && zeroFrom a 1) (claimStands s cl) fun s =>
    mailboxDone (askFleet s cl 8 fun s => resumeClaim s cl) 0 0

/-- An abort is observed at the present tick: a running claim stops at the next boundary, a pre-empted one ends at once
(R368). -/
def observeAbort (s : State) (cl : Nat) : State :=
  let c := s.claimOf cl
  let n := c.tick
  match c.run with
  | .running =>
    if c.abort.isSome then s
    else (s.setClaim cl { c with abort := some n }).planEv cl ((n / s.replay + 1) * s.replay) phStop (.abortStop cl)
  | .preempted b =>
    let s := recordAbort (s.setClaim cl { c with run := .aborted b, abort := some n }) cl
    defer (claimStopped s cl) (.claimRelease cl)
  | .faulted _ | .haltedAt _ | .aborted _ | .ended _ _ => s

def execAbort (a : MbArgs) (s : State) : Host.Outcome State Fault Refusal :=
  let cl := a.a0.toNat
  command s false (decide (cl < 84) && zeroFrom a 1) (claimRuns s cl || claimStands s cl) fun s =>
    askFleet s cl 9 fun s => observeAbort s cl

/-- The image of a FWLOAD goes into the retained half, which now holds an image that verifies. -/
def storeImage (s : State) (c : Controller) (b : List Byte) : State :=
  { (s.modCtl c fun x => { x.store c (halfBase c (!x.half)) b with retained := sha256 b }) with
    findings := { s.findings with badRetained := s.findings.badRetained.filter fun k => k != c } }

/-- FWLOAD (R374 step 1): an image that a half can hold, its signature block at its end (R371), goes into the retained half when
its signature verifies; the command
completes at the acceptance or the rollback (R367), and in the safe state, where no switch follows, at once.
DESIGN CHOICE: notes/assumptions/24.md. -/
def execFwload (a : MbArgs) (s : State) : Host.Outcome State Fault Refusal :=
  let c := controllerOf a.a0.toNat
  let k := c.getD .curator
  let addr := a.a1.toNat
  let len := a.a2.toNat
  command s true (c.isSome && addr % 64 == 0 && decide (384 ≤ len ∧ addr + len ≤ farLimit ∧ len ≤ halfSize k) && zeroFrom a 3)
    (!switching s k) fun s =>
      if !signedOk s .firmware addr (len - 384) then mailboxDone s 2 0
      else
        let s := storeImage s k (farRead s addr len)
        if s.power = .safe then mailboxDone s 0 0 else s

/-- RECORD: the start-record entry of a boot step (R367, R370). -/
def execRecord (a : MbArgs) (s : State) : Host.Outcome State Fault Refusal :=
  let e := s.startRec.at (BitVec.ofNat 3 (a.a0.toNat - 1))
  let code := match e.1 with | .pass => 0 | .fail => 1 | .skipped => 2 | .alternative => 3
  command s true (decide (1 ≤ a.a0.toNat ∧ a.a0.toNat ≤ 8) && zeroFrom a 1) true fun s =>
    mailboxDone s 0 (BitVec.ofNat 64 (code + 256 * min e.2 255))

/-- A code that R367 does not assign. -/
def execOpNotAssigned (_ : BitVec 8) (s : State) : Host.Outcome State Fault Refusal := .next (mailboxDone s 6 0)

/-- The event of a command code. -/
def commandEvent (op : Byte) (a : MbArgs) : Event :=
  match op.toNat with
  | 0x01 => .load a
  | 0x02 => .evict a
  | 0x03 => .lease a
  | 0x04 => .unlease a
  | 0x05 => if a.a5 = 0 then .queueDisable a else .queueEnable a
  | 0x06 => .invtlb a
  | 0x07 => .preempt a
  | 0x08 => .resume a
  | 0x09 => .abort a
  | 0x0A => .fwload a
  | 0x0B => .record a
  | 0x0C => .restart a
  | _ => .opNotAssigned op

/-- The curator takes a submitted command and reads its registers (R366); the mailbox waits through a curator switch (R378),
and in the safe state a code that is not accepted there is not available (R373). -/
def takeCommand (s : State) : State :=
  let m := s.mbox
  if m.ring && !m.busy && !switching s .curator && s.power != .off then
    { s with mbox := { m with ring := false, busy := true, hand := m.htag, hop := m.op, hargs := m.args } }.push
      (commandEvent m.op m.args)
  else s

/-! ## Accession records (R361) -/

/-- The curator writes a record as one piece, with the barrier table at the address that the record gives (R328), and maps in the
record's table what the slot's lease pins (R297); it waits through a curator switch. DEDUCED: notes/assumptions/10.md. -/
def execAccessionRecordWrite (slot : BitVec 8) (rec bart : List Byte) (s : State) : Host.Outcome State Fault Refusal :=
  .next (if switching s .curator then defer s (.accessionRecordWrite slot rec bart)
    else mapLease (farWrite { s with accessions := s.accessions.put slot rec }
      ((farBytesAt (parseAcc rec).bartAt bart).filter fun b => decide (b.1 < farLimit))) slot)

/-! ## Live firmware (R374 to R378) -/

/-- Wall-clock milliseconds in cycles of the nominal rate (R3). DEDUCED: notes/assumptions/19.md. -/
def cyclesPerMs : Nat := 1700000

/-- Whether an agenda entry is a stop of a fleet's claim that has been asked for and waits for its tick (R363). -/
def stopAsked (e : Sched) : Bool :=
  match e.act with
  | .ev (.managementSidebandMessage (.request op _)) => op == 7 || op == 9
  | _ => false

/-- Whether a request of a controller to its hardware is outstanding: a stop that the curator has asked for, of a fleet's claim
too, or the draining of a queue; a move that a docent has asked for (R374). DEDUCED: notes/assumptions/24.md. -/
def requestsOut (s : State) : Controller → Bool
  | .curator =>
    (s.claims.any fun p => isRunning s p.1 && (p.2.preempt || p.2.abort.isSome)) || s.agenda.any stopAsked ||
      ((restOf s 0).isSome && (commandFor s 7 0 || commandFor s 9 0)) ||
      (List.range 64).any fun q => (s.queues.at (BitVec.ofNat 6 q)).disabling
  | .engine _ => false
  | .docent f => s.claims.any fun p => p.2.moves.any fun m => m.field == f

/-- A write of SWCMD with CODE 0x03: the running image has written the hand-over record into its controller's memory, at the
address in ARG, and asks for the switch, which waits for the controller's requests (R374, R377). During a switch the write
leaves its ARG and nothing else. -/
def askSwitch (s : State) (c : Controller) (addr : BitVec 32) : State :=
  if switching s c then s.modCtl c fun x => { x with arg := addr }
  else
    let r := handRecord s c
    ({ s with free := s.free + 1 }.modCtl c fun x =>
      { x.store c addr.toNat r with arg := addr, recordAt := addr }).push (.firmwareSwitch c)

def execSwitchRequest (c : Controller) (addr : BitVec 32) (s : State) : Host.Outcome State Fault Refusal :=
  .next (askSwitch s c addr)

/-- The curator's core starts at the entry of an image, with the address of the record and, in a second register, whether it
was started by a rollback (R374, R376). DESIGN CHOICE: notes/assumptions/56.md. -/
def curatorAt (x : Ctl) (rolledBack : Bool) : CuratorCore where
  x := ((Tab.all 5 0).put 10 x.recordAt).put 11 (if rolledBack then 1 else 0)
  pc := BitVec.ofNat 32 (halfBase .curator x.half)

/-- Sets the curator's core when the image that starts is the curator's. -/
def startImage (s : State) (c : Controller) (rolledBack : Bool) : State :=
  match c with
  | .curator => { s with curator := curatorAt (s.ctlOf .curator) rolledBack }
  | .engine _ => s
  | .docent _ => s

/-- The two halves of a controller change places, and the switch unit's signals are cleared (R374, R377). -/
def Ctl.swap (x : Ctl) : Ctl :=
  { x with active := x.retained, retained := x.active, half := !x.half, alive := false, accept := false, asked := false }

/-- Control moves to the image in the retained half, which must verify (R371), at the first cycle at which no request of the
controller is outstanding; the old one is kept (R374). The incoming image checks the record, and one that it refuses is rolled
back (R375, R376). -/
def execFirmwareSwitch (c : Controller) (s : State) : Host.Outcome State Fault Refusal :=
  let x := s.ctlOf c
  .next (if x.switching || s.findings.badRetained.contains c then s.setCtl c { x with asked := false }
    else if requestsOut s c then s.setCtl c { x with asked := true }
    else
      let s := startImage (extend (s.setCtl c { x.swap with rbk := false, switching := true, since := s.wall }) 6 x.retained) c false
      if recordTaken c x x.retained x.recordAt.toNat then s else s.push (.rollback c))

/-- The controllers whose switch has waited for their requests and need wait no more. -/
def readyControllers (s : State) : List Controller :=
  (s.ctls.filter fun p => p.2.asked && !requestsOut s p.1).map fun p => p.1

/-- SWCMD and SWST as their controller's core reads them: CODE reads 0 (R377). -/
def Ctl.swcmdWord (x : Ctl) : Quad := x.arg ++ 0#32
def Ctl.swstWord (x : Ctl) : Quad :=
  BitVec.ofNat 64 (256 * x.recver.toNat + (if x.rbk then 8 else 0) + (if x.half then 4 else 0) +
    (if x.accept then 2 else 0) + if x.alive then 1 else 0)

/-- Whether the command in hand is the FWLOAD of a controller. -/
def fwloadFor (s : State) (c : Controller) : Bool :=
  s.mbox.busy && s.mbox.held.isNone && s.mbox.hop == 0x0A && controllerOf s.mbox.hargs.a0.toNat == some c

/-- The running image signals ALIVE (R377). -/
def signalAlive (s : State) (c : Controller) (arg : BitVec 32) : State :=
  s.modCtl c fun x => { x with arg := arg, alive := true }

/-- ACCEPT ends the switch; written before ALIVE it counts as both. An image that a switch or a rollback started has accepted
the record, whose format version RECVER takes (R377). -/
def signalAccept (s : State) (c : Controller) (arg : BitVec 32) : State :=
  let x := s.ctlOf c
  let s := s.setCtl c { x with
    arg := arg, alive := true, accept := true, switching := false
    recver := if x.switching || x.rbk then recordVersion c x x.recordAt.toNat else x.recver }
  takeCommand (mailboxRelease (if x.switching && fwloadFor s c then mailboxDone s 0 0 else s))

/-- A write of SWCMD: the unit acts on its CODE, and ARG keeps what was written whatever CODE says (R377). -/
def writeSwcmd (s : State) (sig : CtlSignal) : State :=
  match sig.code.toNat with
  | 1 => signalAlive s sig.ctl sig.arg
  | 2 => signalAccept s sig.ctl sig.arg
  | 3 => askSwitch s sig.ctl sig.arg
  | _ => s.modCtl sig.ctl fun x => { x with arg := sig.arg }

/-- A write of SWCMD by a running image: with CODE 0x01, ALIVE. -/
def execAlive (sig : CtlSignal) (s : State) : Host.Outcome State Fault Refusal := .next (writeSwcmd s sig)

/-- A write of SWCMD by a running image: with CODE 0x02, ACCEPT. -/
def execAccept (sig : CtlSignal) (s : State) : Host.Outcome State Fault Refusal := .next (writeSwcmd s sig)

/-- The hardware rolls back: the retained image restarts at its entry with the same record and RBK set (R376). -/
def execRollback (c : Controller) (s : State) : Host.Outcome State Fault Refusal :=
  let x := s.ctlOf c
  .next (if x.switching = false then s
    else
      let s := startImage (extend (s.setCtl c { x.swap with rbk := true, switching := false }) 6 x.retained) c true
      takeCommand (mailboxRelease (if fwloadFor s c then mailboxDone s 0 1 else s)))

/-- The retained image, restarted by a rollback, faults before ACCEPT: the controller stops, and a stopped curator leaves the
module in the safe state (R377, R373). -/
def execRetainedImageFault (c : Controller) (s : State) : Host.Outcome State Fault Refusal :=
  let x := s.ctlOf c
  .next (if x.rbk && !x.accept then
    let s := s.setCtl c { x with failed := true }
    if c = .curator then enterSafe s else s
  else s)

/-- The switch units whose deadlines have passed: ALIVE within 10 ms, ACCEPT within 50 ms of the switch (R376, R377). -/
def lateControllers (s : State) : List Controller :=
  (s.ctls.filter fun p => p.2.switching &&
    (decide (p.2.since + 50 * cyclesPerMs ≤ s.wall) || (!p.2.alive && decide (p.2.since + 10 * cyclesPerMs ≤ s.wall)))).map
    fun p => p.1

/-! ## SPDM (R372) -/

/-- A response whose bytes the spec does not give. -/
def answer (s : State) (code : Nat) (more : List Byte) : State :=
  { s with spdm := more ++ Config.spdmBytes code s.free, free := s.free + 1 }

/-- The version byte of SPDM 1.2. -/
def execGetVersion (s : State) : Host.Outcome State Fault Refusal := .next (answer s 0x84 [0x12])
def execGetCapabilities (flags : Nat) (s : State) : Host.Outcome State Fault Refusal := .next (answer s (0xE1 + 2 ^ 16 * flags) [])

/-- RSA-3072 signatures and SHA-256 hashes only: the selection is the offered set cut to those (notes/assumptions/12.md). -/
def execNegotiateAlgorithms (asym hash : Nat) (s : State) : Host.Outcome State Fault Refusal :=
  .next (answer s 0xE3 (bytesOf (BitVec.ofNat 32 (asym &&& 8)) 4 ++ bytesOf (BitVec.ofNat 32 (hash &&& 1)) 4))

def execGetDigests (s : State) : Host.Outcome State Fault Refusal := .next (answer s 0x81 [])

def execGetCertificate (slot offset len : Nat) (s : State) : Host.Outcome State Fault Refusal :=
  .next (answer s (0x82 + 2 ^ 16 * (slot + 2 ^ 16 * (offset + 2 ^ 16 * len))) [])

def execChallenge (slot : Nat) (nonce : List Byte) (s : State) : Host.Outcome State Fault Refusal :=
  .next (answer s (0x83 + 2 ^ 16 * (slot + 2 ^ 16 * leNat nonce)) [])

/-- The measurement registers that an index names: blocks 1 to 8 carry registers 0 to 7; 0xFF names all of them. -/
def measured (s : State) (index : Nat) : List Byte :=
  if 1 ≤ index ∧ index ≤ 8 then digestBytes (s.meas.at (BitVec.ofNat 3 (index - 1)))
  else if index = 0xFF then ((List.range 8).map fun i => digestBytes (s.meas.at (BitVec.ofNat 3 i))).flatten
  else if index = 0 then [8]
  else []

def execGetMeasurements (index : Nat) (sign : Bool) (s : State) : Host.Outcome State Fault Refusal :=
  .next (if sign then answer s 0xE0 (measured s index) else { s with spdm := measured s index })

/-! ## Boot (R370, R372, R373) -/

/-- The controllers whose images a boot step verifies. -/
def stepControllers (k : Nat) : List Controller :=
  match k with
  | 2 => [.curator]
  | 3 => (List.range 24).map Controller.engine
  | 4 => (List.range 84).map Controller.docent
  | _ => []

/-- Whether a boot step fails: an active image does not verify; a field that is not yet marked unavailable fails; else as its
own tests find. -/
def stepFails (b : BootFindings) (known : List Nat) (k : Nat) : Bool :=
  match k with
  | 2 | 3 | 4 => (stepControllers k).any b.badActive.contains
  | 6 => b.failed.contains 6 || b.badFields.any fun f => !known.contains f
  | _ => b.failed.contains k

/-- Whether the alternative of a boot step fails too: neither half of some controller holds an image that verifies. -/
def alternativeFails (b : BootFindings) (k : Nat) : Bool :=
  match k with
  | 2 | 3 | 4 => (stepControllers k).any fun c => b.badActive.contains c && b.badRetained.contains c
  | _ => b.alternativeFails.contains k

/-- One boot step: its entry of the start record, and the power state where the boot ends with it (R370). A step that failed
at the previous start takes its alternative: the safe state for steps 1 and 5, none for step 8; the alternative's second
failure in a row leaves the module in the safe state, any other failure off. DEDUCED: notes/assumptions/21.md. -/
def bootStep (b : BootFindings) (known : List Nat) (k : Nat) (e : StepOut × Nat) : (StepOut × Nat) × Option Power :=
  if e.1 = .fail ∧ (k = 1 ∨ k = 5) then ((.alternative, e.2), some .safe)
  else if e.1 = .fail ∧ k ≠ 8 then
    if alternativeFails b k then ((.fail, e.2 + 1), some (if e.2 + 1 ≥ 3 then .safe else .off)) else ((.alternative, 0), none)
  else if stepFails b known k then ((.fail, e.2 + 1), some .off)
  else ((.pass, 0), none)

/-- How the boot steps went: the start record, the steps that were made, the power state where a step ended them. -/
structure BootRun where
  steps : Tab 3 (StepOut × Nat)
  made : List Nat
  stop : Option Power
  deriving DecidableEq, Repr

/-- The boot steps in order; those after the one that ends the boot are skipped. -/
def bootSteps (b : BootFindings) (known : List Nat) : List Nat → BootRun → BootRun
  | [], r => r
  | k :: ks, r =>
    let i := BitVec.ofNat 3 (k - 1)
    if r.stop.isSome then bootSteps b known ks { r with steps := r.steps.put i (.skipped, (r.steps.at i).2) }
    else
      let x := bootStep b known k (r.steps.at i)
      bootSteps b known ks ⟨r.steps.put i x.1, if x.2.isNone then r.made ++ [k] else r.made, x.2⟩

/-- The controllers that a boot starts from their retained half: those of a step that takes its alternative whose active image
does not verify. -/
def fallBack (b : BootFindings) (r : BootRun) : List Controller :=
  ([2, 3, 4].map fun k =>
    if (r.steps.at (BitVec.ofNat 3 (k - 1))).1 = .alternative then (stepControllers k).filter b.badActive.contains else []).flatten

/-- A controller as a boot finds it: its halves as they were, or images that the spec does not give (log entry 5), changed
over where the retained one starts; a switch unit after its reset (R377). -/
def bootCtl (s : State) (back : List Controller) (c : Controller) : Ctl :=
  let x := (find s.ctls c).getD { Ctl.reset with
    active := Config.bootImage (controllerNumber c) false s.free, retained := Config.bootImage (controllerNumber c) true s.free }
  let x := if back.contains c then x.swap else x
  { Ctl.reset with active := x.active, retained := x.retained, mem := x.mem, half := x.half }

/-- What a start found, with the halves of the controllers changed over that started from their retained one. -/
def afterFallBack (b : BootFindings) (back : List Controller) : BootFindings :=
  { b with
    badActive := (b.badActive.filter fun c => !back.contains c) ++ (b.badRetained.filter back.contains)
    badRetained := (b.badRetained.filter fun c => !back.contains c) ++ (b.badActive.filter back.contains) }

/-- Whether a field's row cannot do without one of its tiles: two fail, or one does and the row's bypass too (R275). -/
def rowLost (b : BootFindings) (t : Nat × Nat × Nat) : Bool :=
  b.failedBypass.contains (t.1, t.2.1) || b.retired.any fun u => u.1 == t.1 && u.2.1 == t.2.1 && u != t

/-- The fields that the binder reports: those that failed, and those that lost a row. -/
def lostFields (b : BootFindings) : List Nat :=
  (b.retired.filter (rowLost b)).foldl (fun l t => setInsert l t.1) b.badFields

/-- The module as it restarts: everything but the non-volatile start record, far memory, the controllers' halves, what the boot
tests find and wall time is as at reset. -/
def restarted (s : State) : State :=
  { State.reset with
    startRec := s.startRec, far := s.far, farMarks := s.farMarks, farFlips := s.farFlips, farTags := s.farTags
    findings := s.findings, wall := s.wall, inputs := s.inputs, free := s.free }

/-- What a boot step that is made measures: ROM and fuses, the curator's, the engine controllers' and the docents' images in
order, the fabric parameters and the binder's map (R372). -/
def bootMeasure (free : Nat) (s : State) (k : Nat) : State :=
  match k with
  | 1 => extend s 0 (Config.bootDigest 0 free)
  | 2 | 3 | 4 => (stepControllers k).foldl (fun s c => extend s (BitVec.ofNat 3 (k - 1)) (s.ctlOf c).active) s
  | 7 => extend s 4 (Config.bootDigest 1024 free)
  | _ => s

/-- The fabric parameters and the map of the binder, with the shifts that avoid failed wires, and the links that are left for
detours (R14, R40, R275). -/
def bindFields (s : State) (b : BootFindings) : State :=
  let retired := b.retired.filter fun t => !rowLost b t
  let skips := retired ++ chooseShifts b.failedWires retired b.failedBypass
  let detours := detoursOf b.failedWires skips
  { s with
    lh := if detours.isEmpty then 6 else 8
    wheel := if b.wheel = 48 ∨ b.wheel = 64 then b.wheel else 32
    replayLog2 := if 10 ≤ b.replayLog2 ∧ b.replayLog2 ≤ 16 then b.replayLog2 else 12
    badFields := lostFields b
    retiredTiles := skips
    failedBypass := b.failedBypass
    detours := detours }

/-- The boot at power-on or restart, with what its tests find. -/
def powerOn (s : State) (b : BootFindings) : State :=
  let r := bootSteps b s.badFields [1, 2, 3, 4, 5, 6, 7, 8] ⟨s.startRec, [], none⟩
  let back := fallBack b r
  let s0 := { restarted s with
    startRec := r.steps
    ctls := allControllers.map fun c => (c, bootCtl s back c)
    docents := b.temps.map fun (f, x) => (f, { Docent.reset with temp := x })
    findings := afterFallBack b back
    badFields := s.badFields
    free := s.free + 1 }
  let s1 := r.made.foldl (bootMeasure s.free) { s0 with curator := curatorAt (s0.ctlOf .curator) false }
  match r.stop with
  | some p => { s1 with power := p }
  | none => { bindFields s1 b with power := .running }

def execPowerOn (b : BootFindings) (s : State) : Host.Outcome State Fault Refusal := .next (powerOn s b)

/-- RESTART: the module restarts from step 1 of R370, with what the last start found (R367). -/
def execRestart (a : MbArgs) (s : State) : Host.Outcome State Fault Refusal :=
  command s true (zeroFrom a 0) true fun s => powerOn s s.findings

/-! ## The Vimas port (R356, R357, R366, R325) -/

/-- The host register page. -/
def pageBase : Nat := 0x030000000000

/-- A queue's register as the host reads it (R357). -/
def queueWord (q : Queue) (off : Nat) : Quad := if off % 8 = 0 then q.words.getD (off / 8) 0 else 0

/-- A mailbox register as the host reads it (R366). -/
def mailboxWord (m : Mailbox) (off : Nat) : Quad :=
  match off with
  | 0x1000 => BitVec.ofNat 64 (m.htag.toNat * 65536 + m.op.toNat)
  | 0x1008 => m.args.a0
  | 0x1010 => m.args.a1
  | 0x1018 => m.args.a2
  | 0x1020 => m.args.a3
  | 0x1028 => m.args.a4
  | 0x1030 => m.args.a5
  | 0x1038 => if m.ring then 1 else 0
  | 0x1040 => BitVec.ofNat 64 (m.echo.toNat * 2 ^ 32 + m.result.toNat * 256 + (if m.done then 2 else 0) + if m.busy then 1 else 0)
  | 0x1048 => m.res0
  | 0x1050 => m.res1
  | 0x1058 => m.res2
  | 0x1060 => m.res3
  | _ => 0

/-- The register at an offset of the page. -/
def pageWord (s : State) (off : Nat) : Quad :=
  if off < 0x1000 then queueWord (s.queues.at (BitVec.ofNat 6 (off / 64))) (off % 64) else mailboxWord s.mbox off

/-- A host read (R356): far memory by physical address; an aligned 8-byte read of the page; zero elsewhere. -/
def hostRead (s : State) (addr len : Nat) : List Byte :=
  if addr + len ≤ farLimit then farRead s addr len
  else if pageBase ≤ addr ∧ addr % 8 = 0 ∧ len = 8 then bytesOf (pageWord s (addr - pageBase)) 8
  else (List.range len).map fun i => if addr + i < farLimit then (farByte s (addr + i)).1 else 0

def execHostFarRead (addr len : Nat) (s : State) : Host.Outcome State Fault Refusal :=
  .next (if s.power = .off then s else { s with reply := hostRead s addr len })

/-- A host write over the Vimas port (R356, R325): far memory in 8-byte pieces, in order; an aligned 8-byte write of the page
goes to its register; other addresses are ignored. -/
def hostWrite (s : State) (addr : Nat) (data : List Byte) : State :=
  if pageBase ≤ addr ∧ addr < pageBase + 0x2000 then
    if addr % 8 = 0 ∧ data.length = 8 then s.push (.hostRegisterWrite (addr - pageBase) (bitsOfBytes 64 data)) else s
  else farWrite s ((farBytesAt addr data).filter fun b => decide (b.1 < farLimit))

/-- A host write, with the tags that the host or the curator sets beside it (R296). -/
def execHostFarWrite (addr : Nat) (w : FarData) (s : State) : Host.Outcome State Fault Refusal :=
  .next (if s.power = .off then s else setFarTags (hostWrite s addr w.data) w.tags)

/-- The mailbox register at an offset, written by the host (R366). -/
def mailboxWrite (s : State) (off : Nat) (v : BitVec 64) : State :=
  let m := s.mbox
  match off with
  | 0x1000 => { s with mbox := { m with op := v.setWidth 8, htag := v.extractLsb' 16 16 } }
  | 0x1008 => { s with mbox := { m with args := { m.args with a0 := v } } }
  | 0x1010 => { s with mbox := { m with args := { m.args with a1 := v } } }
  | 0x1018 => { s with mbox := { m with args := { m.args with a2 := v } } }
  | 0x1020 => { s with mbox := { m with args := { m.args with a3 := v } } }
  | 0x1028 => { s with mbox := { m with args := { m.args with a4 := v } } }
  | 0x1030 => { s with mbox := { m with args := { m.args with a5 := v } } }
  | 0x1038 => if v.getLsbD 0 && !m.busy && !m.done then takeCommand { s with mbox := { m with ring := true } } else s
  | 0x1040 => { s with mbox := { m with done := m.done && !v.getLsbD 1 } }
  | _ => s

/-- A register of the page, written by the host; offsets not aligned to 8, reserved and read-only ones are ignored. -/
def registerWrite (s : State) (off : Nat) (v : BitVec 64) : State :=
  if off % 8 ≠ 0 then s
  else if off < 0x1000 then
    let q := BitVec.ofNat 6 (off / 64)
    if off % 64 = 0 then s.push (.qnotifyWrite q v)
    else if off % 64 = 0x30 then
      s.modQueue q fun x => { x with badPkt := x.badPkt && !v.getLsbD 2, badIdx := x.badIdx && !v.getLsbD 1 }
    else s
  else mailboxWrite s off v

def execHostRegisterWrite (off : Nat) (v : BitVec 64) (s : State) : Host.Outcome State Fault Refusal :=
  .next (if s.power = .off then s else registerWrite s off v)

/-! ## Messages of a fleet (R37, R262, R277, R363) -/

/-- A request of the leader for the fleet's claim takes effect. -/
def fleetRequest (s : State) (op : Nat) : State :=
  match op with
  | 7 => if isRunning s 0 then s.modClaim 0 fun c => { c with preempt := true } else s
  | 8 => if isPreempted s 0 then resumeClaim s 0 else s
  | 9 => observeAbort s 0
  | _ => s

/-- The limits of a fleet: its wafers, its Lp, and the slack of every peer link (R277). -/
def fleetFits (s : State) (w n lp : Nat) : Bool :=
  decide (2 ≤ n ∧ n ≤ 64 ∧ w < n ∧ 512 ≤ lp ∧ lp ≤ 16384 ∧ lp % s.wheel = 0) &&
    (List.range 24).all fun p => decide (Config.peerLatency p + 256 ≤ lp)

/-- A fleet that this wafer can join forms: this wafer agrees to its Lp and waits for the others (R277, R365). -/
def formFleet (s : State) (w n lp hf : Nat) : State :=
  if fleetFits s w n lp then
    { s with forming := some ⟨w, n, lp, hf, []⟩, fleetMsgs := s.fleetMsgs ++ [.formAgreed w lp] }
  else s

/-- Another wafer agrees; when all have, the fleet stands. A throttle deeper than R262 allows a wafer of a fleet ends. -/
def formAgreed (s : State) (f : Forming) (v lp : Nat) : State :=
  if f.lp ≠ lp ∨ v = f.wafer ∨ f.wafers ≤ v ∨ f.agreed.contains v = true ∨ fleetFits s f.wafer f.wafers lp = false then s
  else if f.agreed.length + 2 < f.wafers then { s with forming := some { f with agreed := v :: f.agreed } }
  else { s with
    forming := none, fleet := some (f.wafer, f.wafers, f.hf), lp := lp, throttle := min s.throttle fleetThrottle, fbAcc := 0 }

/-- Once every wafer has spoken of a boundary, the parts that go on after the leader's own stand there where all admit it: the
PREEMPT in hand completes (R363). -/
def settleRest (s : State) (b : Nat) : State :=
  match restOf s 0, s.fleet with
  | some f, some (_, n, _) =>
    let said := (s.claimOf 0).answers.filter fun a => a.2.1 == b
    if (List.range n).all fun v => said.any fun a => a.1 == v then
      let s := s.modClaim 0 fun c => { c with answers := c.answers.filter fun a => decide (b < a.2.1) }
      if said.all fun a => a.2.2 then
        let s := { s with fleetLaunch := some { f with stands := some b } }
        if commandFor s 7 0 then mailboxDone s 0 (BitVec.ofNat 64 b) else s
      else s
    else s
  | _, _ => s

/-- Another wafer says of a boundary whether the fleet's claim may stop there (R363). A wafer whose part does not run stands in
no one's way. -/
def heardBoundary (s : State) (v b : Nat) (ok : Bool) : State :=
  let s := s.modClaim 0 fun c => { c with answers := c.answers ++ [(v, b, ok)] }
  let own := match s.fleet with
    | some (w, _, _) => (s.claimOf 0).answers.any fun a => a.1 == w && a.2.1 == b
    | none => true
  settleRest (if isRunning s 0 || own then settleParley s 0 else sayBoundary s 0 b true) b

/-- Whether a docent is switched: base-rate changes wait (R378). -/
def docentSwitching (s : State) : Bool := (List.range 84).any fun f => switching s (.docent f)

/-- Another wafer agrees to the cut that this one proposed; when all do, it is made on every wafer (R262, R365). -/
def cutAgreed (s : State) (w ppm : Nat) : State :=
  match s.cut, s.fleet with
  | some (p, l), some (_, n, _) =>
    if p ≠ ppm ∨ l.contains w = true then s
    else if l.length + 2 < n then { s with cut := some (p, w :: l) }
    else { s with cut := none, baseCut := s.baseCut + ppm, fleetMsgs := s.fleetMsgs ++ [.cutMade ppm] }
  | _, _ => s

/-- A message from another wafer's curator or command processor. -/
def heardMessage (s : State) (m : FleetMessage) : State :=
  match m with
  | .form w n lp hf => formFleet s w n lp hf
  | .formAgreed v lp =>
    match s.forming, s.fleet with
    | some f, _ => formAgreed s f v lp
    | none, none => defer s (.managementSidebandMessage m)
    | none, some _ => s
  | .cutProposed ppm =>
    match s.fleet with
    | some (w, _, _) => { s with fleetMsgs := s.fleetMsgs ++ [.cutAgreed w ppm] }
    | none => s
  | .cutAgreed w ppm => if docentSwitching s then defer s (.managementSidebandMessage m) else cutAgreed s w ppm
  | .cutMade ppm =>
    if docentSwitching s then defer s (.managementSidebandMessage m) else { s with baseCut := s.baseCut + ppm }
  | .launch packet args => receiveLaunch s packet args
  | .peerRoutes l =>
    match s.fleet, s.fleetLaunch with
    | some _, some f => settleRoutes { s with fleetLaunch := some { f with told := f.told + 1, incoming := f.incoming ++ l } }
    | some _, none => defer s (.managementSidebandMessage m)
    | none, _ => s
  | .verdict w r =>
    settleVerdicts { s with fleetLaunch := s.fleetLaunch.map fun f =>
      if (f.verdicts.any fun v => v.1 == w) = true then f else { f with verdicts := f.verdicts ++ [(w, r)] } }
  | .partEnded w kind fault ftick fdata fin tlmin =>
    settleFleet { s with fleetLaunch := s.fleetLaunch.map fun f =>
      { f with parts := f.parts ++ [⟨w, kind, fault, ftick, fdata, fin, tlmin⟩] } }
  | .boundary v b ok => if (s.claimOf 0).fleet then heardBoundary s v b ok else s
  | .launchEnded =>
    match s.fleetLaunch, (s.claimOf 0).run with
    | some f, .ended _ _ =>
      if f.started && (s.claimOf 0).wafer != 0 then settleLease { s with fleetLaunch := none } (f.packet.getD 2 0) else s
    | _, _ => s
  | .request op at_ =>
    if (s.claimOf 0).fleet then
      if isRunning s 0 && decide (s.now 0 < at_) then s.planEv 0 at_ phWire (.managementSidebandMessage m) else fleetRequest s op
    else s

/-- A module that does not run, in the safe state too, takes no message (R373). -/
def fleetMessage (s : State) (m : FleetMessage) : State := if s.power = .running then heardMessage s m else s

def execManagementSidebandMessage (msg : FleetMessage) (s : State) : Host.Outcome State Fault Refusal := .next (fleetMessage s msg)

end Sys2Proof.Machine
end

