-- ==== Sys2Proof/Machine/Scalar.lean ====
section
/-!
DEFINITION. The S forms (spec/05 R124 to R138): one meaning per form over the shared frames below.
-/

namespace Sys2Proof.Machine

/-! ## Frames -/

/-- A guarded g form of two g sources (R124). -/
def sBin (s : State) (o : SG3 6 6 6) (lat : Nat) (f : Word → Word → Word) : Host.Outcome State Fault Refusal :=
  guarded s o.sl.cls o.g (s.me.ok o.a && s.me.ok o.b) fun s =>
    s.landG o.sl.cls lat o.d (some (sLatch o.sl))
      ⟨f (s.me.srcG o.a).val (s.me.srcG o.b).val, (s.me.srcG o.a).psn ||| (s.me.srcG o.b).psn⟩

/-- A guarded g form of one g source (R124). -/
def sUn (s : State) (o : SG2 6 6) (f : Word → Word) : Host.Outcome State Fault Refusal :=
  guarded s o.sl.cls o.g (s.me.ok o.a) fun s =>
    s.landG o.sl.cls 1 o.d (some (sLatch o.sl)) ⟨f (s.me.srcG o.a).val, (s.me.srcG o.a).psn⟩

/-- An unguarded g form of one g source: the immediate forms (R124). -/
def sImm (s : State) (sl : SSlot) (d : Dst 6) (a : Src 6) (f : Word → Word) : Host.Outcome State Fault Refusal :=
  always s sl.cls (s.me.ok a) fun s =>
    s.landG sl.cls 1 d (some (sLatch sl)) ⟨f (s.me.srcG a).val, (s.me.srcG a).psn⟩

/-- A form that keeps bits of the register D names (R52): with W the result enters the latch only. -/
def keepDst (w : Bool) (d : BitVec 6) : Dst 6 := if w then .none else .reg d

/-- Immediates (R58). -/
def sx18 (i : BitVec 18) : Word := i.signExtend 32
def zx18 (i : BitVec 18) : Word := i.setWidth 32

/-- A compare result (R131). -/
def ofBoolWord (b : Bool) : Word := if b then 1 else 0

/-! ## Moves (R125) -/

def execMovi (sl : SSlot) (d : Dst 6) (imm : BitVec 18) (s : State) : Host.Outcome State Fault Refusal :=
  .next (s.landG sl.cls 1 d (some (sLatch sl)) (.clean (sx18 imm)))

def execMovhi (sl : SSlot) (w : Bool) (d : BitVec 6) (imm : BitVec 18) (s : State) :
    Host.Outcome State Fault Refusal :=
  .next (s.landG sl.cls 1 (keepDst w d) (some (sLatch sl))
    ⟨imm ++ (s.me.readG d).val.extractLsb' 0 14, (s.me.readG d).psn⟩)

/-! ## Add, subtract and logic (R126) -/

def execAdd (o : SG3 6 6 6) (s : State) := sBin s o 1 fun a b => a + b
def execAddi (o : SI 6) (s : State) := sImm s o.sl o.d o.a fun a => a + sx18 o.imm
def execSub (o : SG3 6 6 6) (s : State) := sBin s o 1 fun a b => a - b
def execAnd (o : SG3 6 6 6) (s : State) := sBin s o 1 fun a b => a &&& b
def execAndi (o : SI 6) (s : State) := sImm s o.sl o.d o.a fun a => a &&& zx18 o.imm
def execOr (o : SG3 6 6 6) (s : State) := sBin s o 1 fun a b => a ||| b
def execOri (o : SI 6) (s : State) := sImm s o.sl o.d o.a fun a => a ||| zx18 o.imm
def execXor (o : SG3 6 6 6) (s : State) := sBin s o 1 fun a b => a ^^^ b
def execXori (o : SI 6) (s : State) := sImm s o.sl o.d o.a fun a => a ^^^ zx18 o.imm
def execAndn (o : SG3 6 6 6) (s : State) := sBin s o 1 fun a b => a &&& ~~~b

/-! ## Multiply and divide (R127, R128) -/

def execMul (o : SG3 6 6 6) (s : State) := sBin s o 3 fun a b => a * b
def execMulh (o : SG3 6 6 6) (s : State) :=
  sBin s o 3 fun a b => (BitVec.ofInt 64 (a.toInt * b.toInt)).extractLsb' 32 32
def execMulhn (o : SG3 6 6 6) (s : State) :=
  sBin s o 3 fun a b => (BitVec.ofNat 64 (a.toNat * b.toNat)).extractLsb' 32 32

/-- Quotient and remainder of `div` and `rem` (R128). -/
def divSigned (a b : Word) : Int × Int :=
  if b.toInt = 0 then (-1, a.toInt)
  else if a.toInt = -(2 ^ 31) ∧ b.toInt = -1 then (-(2 ^ 31), 0)
  else (a.toInt.tdiv b.toInt, a.toInt - a.toInt.tdiv b.toInt * b.toInt)

/-- Quotient and remainder of `divn` and `remn` (R128). -/
def divNatural (a b : Word) : Nat × Nat :=
  if b.toNat = 0 then (2 ^ 32 - 1, a.toNat) else (a.toNat / b.toNat, a.toNat - a.toNat / b.toNat * b.toNat)

def execDiv (o : SG3 6 6 6) (s : State) := sBin s o 12 fun a b => BitVec.ofInt 32 (divSigned a b).1
def execDivn (o : SG3 6 6 6) (s : State) := sBin s o 12 fun a b => BitVec.ofNat 32 (divNatural a b).1
def execRem (o : SG3 6 6 6) (s : State) := sBin s o 12 fun a b => BitVec.ofInt 32 (divSigned a b).2
def execRemn (o : SG3 6 6 6) (s : State) := sBin s o 12 fun a b => BitVec.ofNat 32 (divNatural a b).2

/-! ## Shifts and rotate (R129): a count of 32 or more shifts everything out -/

def execShl (o : SG3 6 6 6) (s : State) := sBin s o 1 fun a b => a <<< b.toNat
def execShli (o : SSh) (s : State) := sImm s o.sl o.d o.a fun a => a <<< o.n.toNat
def execShr (o : SG3 6 6 6) (s : State) := sBin s o 1 fun a b => a >>> b.toNat
def execShri (o : SSh) (s : State) := sImm s o.sl o.d o.a fun a => a >>> o.n.toNat
def execSra (o : SG3 6 6 6) (s : State) := sBin s o 1 fun a b => a.sshiftRight b.toNat
def execSrai (o : SSh) (s : State) := sImm s o.sl o.d o.a fun a => a.sshiftRight o.n.toNat
def execRol (o : SG3 6 6 6) (s : State) := sBin s o 1 fun a b => a.rotateLeft (b.toNat % 32)

/-! ## Minimum, maximum and compares (R130, R131) -/

def execMin (o : SG3 6 6 6) (s : State) := sBin s o 1 fun a b => if a.toInt ≤ b.toInt then a else b
def execMax (o : SG3 6 6 6) (s : State) := sBin s o 1 fun a b => if a.toInt ≤ b.toInt then b else a
def execMinn (o : SG3 6 6 6) (s : State) := sBin s o 1 fun a b => if a.toNat ≤ b.toNat then a else b
def execMaxn (o : SG3 6 6 6) (s : State) := sBin s o 1 fun a b => if a.toNat ≤ b.toNat then b else a
def execCeq (o : SG3 6 6 6) (s : State) := sBin s o 1 fun a b => ofBoolWord (decide (a = b))
def execCne (o : SG3 6 6 6) (s : State) := sBin s o 1 fun a b => ofBoolWord (decide (a ≠ b))
def execClt (o : SG3 6 6 6) (s : State) := sBin s o 1 fun a b => ofBoolWord (decide (a.toInt < b.toInt))
def execCltn (o : SG3 6 6 6) (s : State) := sBin s o 1 fun a b => ofBoolWord (decide (a.toNat < b.toNat))
def execCle (o : SG3 6 6 6) (s : State) := sBin s o 1 fun a b => ofBoolWord (decide (a.toInt ≤ b.toInt))
def execClen (o : SG3 6 6 6) (s : State) := sBin s o 1 fun a b => ofBoolWord (decide (a.toNat ≤ b.toNat))
def execCeqi (o : SI 6) (s : State) := sImm s o.sl o.d o.a fun a => ofBoolWord (decide (a = sx18 o.imm))
def execClti (o : SI 6) (s : State) := sImm s o.sl o.d o.a fun a => ofBoolWord (decide (a.toInt < o.imm.toInt))

/-! ## Selection (R132): unguarded, G is the selector -/

def execSel (o : SG3 6 6 6) (s : State) : Host.Outcome State Fault Refusal :=
  always s o.sl.cls (s.me.ok o.a && s.me.ok o.b) fun s =>
    let k := s.guard o.g
    let s := s.taintIf (anyPsn k.psn)
    s.landG o.sl.cls 1 o.d (some (sLatch o.sl))
      ⟨if k.val.getLsbD 0 then (s.me.srcG o.a).val else (s.me.srcG o.b).val,
        (s.me.srcG o.a).psn ||| (s.me.srcG o.b).psn⟩

/-! ## Bit counting and bit fields (R133, R134) -/

/-- Zero bits above the highest 1, 32 for 0. -/
def countLeading (a : Word) : Nat := if a = 0 then 32 else 31 - Nat.log2 a.toNat

/-- Zero bits below the lowest 1, 32 for 0. -/
def countTrailing (a : Word) : Nat := ((List.range 32).find? fun i => a.getLsbD i).getD 32

def execClz (o : SG2 6 6) (s : State) := sUn s o fun a => BitVec.ofNat 32 (countLeading a)
def execCtz (o : SG2 6 6) (s : State) := sUn s o fun a => BitVec.ofNat 32 (countTrailing a)
def execPopc (o : SG2 6 6) (s : State) := sUn s o fun a => BitVec.ofNat 32 (popcount a)

/-- The low `w` bits set. -/
def ones (w : Nat) : Word := BitVec.ofNat 32 (2 ^ w - 1)

/-- The bit field of a word (R134). -/
def bitField (a : Word) (pos w : Nat) : Word := (a >>> pos) &&& ones w

/-- A field sign-extended from its top bit. -/
def signField (f : Word) (w : Nat) : Word := if f.getLsbD (w - 1) then f ||| ~~~ones w else f

def execBfx (o : SBf) (s : State) :=
  sImm s o.sl o.d o.a fun a => bitField a o.pos.toNat (o.wid.toNat + 1)
def execBfxs (o : SBf) (s : State) :=
  sImm s o.sl o.d o.a fun a => signField (bitField a o.pos.toNat (o.wid.toNat + 1)) (o.wid.toNat + 1)

def execBfi (sl : SSlot) (w : Bool) (d : BitVec 6) (a : Src 6) (pos wid : BitVec 5) (s : State) :
    Host.Outcome State Fault Refusal :=
  always s sl.cls (s.me.ok a) fun s =>
    let m := ones (wid.toNat + 1) <<< pos.toNat
    s.landG sl.cls 1 (keepDst w d) (some (sLatch sl))
      ⟨((s.me.readG d).val &&& ~~~m) ||| (((s.me.srcG a).val <<< pos.toNat) &&& m),
        (s.me.readG d).psn ||| (s.me.srcG a).psn⟩

/-! ## Address arithmetic (R135): the tag and the top bits stay apart -/

/-- Bits [63:56] of the base over a 56-bit sum. -/
def addrAdd (a : Quad) (x : Quad) : Quad := a.extractLsb' 56 8 ++ (a + x).extractLsb' 0 56

def execAadd (o : SG3 4 4 6) (s : State) : Host.Outcome State Fault Refusal :=
  guarded s o.sl.cls o.g (s.me.ok o.a && s.me.ok o.b) fun s =>
    s.landA o.sl.cls 1 o.d (some (sLatch o.sl))
      ⟨addrAdd (s.me.srcA o.a).val ((s.me.srcG o.b).val.signExtend 64), (s.me.srcA o.a).psn ||| (s.me.srcG o.b).psn⟩

def execAaddi (o : SI 4) (s : State) : Host.Outcome State Fault Refusal :=
  always s o.sl.cls (s.me.ok o.a) fun s =>
    s.landA o.sl.cls 1 o.d (some (sLatch o.sl))
      ⟨addrAdd (s.me.srcA o.a).val (o.imm.signExtend 64), (s.me.srcA o.a).psn⟩

def execAsub (o : SG3 4 4 4) (s : State) : Host.Outcome State Fault Refusal :=
  guarded s o.sl.cls o.g (s.me.ok o.a && s.me.ok o.b) fun s =>
    s.landA o.sl.cls 1 o.d (some (sLatch o.sl))
      ⟨(((s.me.srcA o.a).val - (s.me.srcA o.b).val).extractLsb' 0 56).signExtend 64,
        (s.me.srcA o.a).psn ||| (s.me.srcA o.b).psn⟩

def execAmk (o : SG3 4 6 6) (s : State) : Host.Outcome State Fault Refusal :=
  guarded s o.sl.cls o.g (s.me.ok o.a && s.me.ok o.b) fun s =>
    s.landA o.sl.cls 1 o.d (some (sLatch o.sl))
      ⟨(s.me.srcG o.a).val ++ (s.me.srcG o.b).val, (s.me.srcG o.a).psn ||| (s.me.srcG o.b).psn⟩

def execAhi (o : SG2 6 4) (s : State) : Host.Outcome State Fault Refusal :=
  guarded s o.sl.cls o.g (s.me.ok o.a) fun s =>
    s.landG o.sl.cls 1 o.d (some (sLatch o.sl)) ⟨(s.me.srcA o.a).val.extractLsb' 32 32, (s.me.srcA o.a).psn⟩

def execAlo (o : SG2 6 4) (s : State) : Host.Outcome State Fault Refusal :=
  guarded s o.sl.cls o.g (s.me.ok o.a) fun s =>
    s.landG o.sl.cls 1 o.d (some (sLatch o.sl)) ⟨(s.me.srcA o.a).val.extractLsb' 0 32, (s.me.srcA o.a).psn⟩

/-! ## Lane-mask transfers (R138) -/

def execKset (o : SG2 4 6) (s : State) : Host.Outcome State Fault Refusal :=
  guarded s o.sl.cls o.g (s.me.ok o.a) fun s =>
    s.landK o.sl.cls 1 o.d (some (sLatch o.sl)) 0xFFFF ⟨(s.me.srcG o.a).val.setWidth 16, (s.me.srcG o.a).psn⟩

def execKget (o : SG2 6 4) (s : State) : Host.Outcome State Fault Refusal :=
  guarded s o.sl.cls o.g (s.me.ok o.a) fun s =>
    s.landG o.sl.cls 1 o.d (some (sLatch o.sl)) ⟨(s.me.srcK o.a).val.setWidth 32, (s.me.srcK o.a).psn⟩

end Sys2Proof.Machine
end

