-- ==== Sys2Proof/Machine/Vector.lean ====
section
/-!
DEFINITION. The V forms (spec/07 R169 to R186): the frames first, then one meaning per form.
-/

namespace Sys2Proof.Machine

/-! ## Frames -/

/-- A lane form of two v sources with a v result (R170): the marks are judged per lane (R343). -/
def vBin {T : Type} (s : State) (o : VG3 6 6 6 T) (lat : Nat) (f : Vec → Vec → Vec) :
    Host.Outcome State Fault Refusal :=
  laned s o.sl.cls o.g (s.me.ok o.a && s.me.ok o.b) fun en s =>
    let a := s.me.srcV o.a
    let b := s.me.srcV o.b
    s.landV o.sl.cls lat o.d (some (vLatch o.sl)) en ⟨f a.val b.val, a.psn ||| b.psn⟩

/-- A lane form of one v source with a v result. -/
def vUn {T : Type} (s : State) (o : VG2 6 6 T) (lat : Nat) (f : Vec → Vec) : Host.Outcome State Fault Refusal :=
  laned s o.sl.cls o.g (s.me.ok o.a) fun en s =>
    let a := s.me.srcV o.a
    s.landV o.sl.cls lat o.d (some (vLatch o.sl)) en ⟨f a.val, a.psn⟩

/-- A lane form of two v sources and the register that D names (R52). -/
def vTri {T : Type} (s : State) (o : VG4 6 6 T) (lat : Nat) (f : Vec → Vec → Vec → Vec) :
    Host.Outcome State Fault Refusal :=
  laned s o.sl.cls o.g (s.me.ok o.a && s.me.ok o.b) fun en s =>
    let a := s.me.srcV o.a
    let b := s.me.srcV o.b
    let c := s.me.readV o.d
    s.landV o.sl.cls lat (if o.w then .none else .reg o.d) (some (vLatch o.sl)) en
      ⟨f a.val b.val c.val, a.psn ||| b.psn ||| c.psn⟩

/-- A compare: bit i of k[D] from lane i (R169, R176). -/
def vCmp {T : Type} (s : State) (o : VG3 4 6 6 T) (w : Nat) (p : Nat → Nat → Bool) :
    Host.Outcome State Fault Refusal :=
  laned s o.sl.cls o.g (s.me.ok o.a && s.me.ok o.b) fun en s =>
    let a := s.me.srcV o.a
    let b := s.me.srcV o.b
    s.landK o.sl.cls 3 o.d (some (vLatch o.sl)) en
      ⟨laneAll w p a.val b.val, allMarks (anyPsn ((a.psn ||| b.psn) &&& granules en)) 1⟩

/-- The width of a floating type. -/
def fWidth (t : FTy) : Nat := Fmt.width (.flt t)

/-- An element-wise floating operation of two operands on exact values, rounded once (R171). -/
def fOp2 (t : FTy) (f : Num → Num → Num) : Vec → Vec → Vec :=
  map2 (fWidth t) fun a b => roundNum t (f (decodeNum (.flt t) a) (decodeNum (.flt t) b))

/-- A fused operation with one rounding (R173). -/
def fOp3 (t : FTy) (f : Num → Num → Num → Num) : Vec → Vec → Vec → Vec :=
  map3 (fWidth t) fun a b c => roundNum t (f (decodeNum (.flt t) a) (decodeNum (.flt t) b) (decodeNum (.flt t) c))

/-! ## Floating-point arithmetic (R171 to R176) -/

def execFadd (o : VG3 6 6 6 FTy) (s : State) := vBin s o 3 (fOp2 o.ty Num.add)
def execFsub (o : VG3 6 6 6 FTy) (s : State) := vBin s o 3 (fOp2 o.ty fun a b => a.add b.neg)
def execFmul (o : VG3 6 6 6 FTy) (s : State) := vBin s o 4 (fOp2 o.ty Num.mul)
def execFmin (o : VG3 6 6 6 FTy) (s : State) := vBin s o 3 (map2 (fWidth o.ty) (fminCode (.flt o.ty)))
def execFmax (o : VG3 6 6 6 FTy) (s : State) := vBin s o 3 (map2 (fWidth o.ty) (fmaxCode (.flt o.ty)))

/-- `fabs` and `fneg` act on the sign bit alone (R172). -/
def execFabs (o : VG2 6 6 FTy) (s : State) := vUn s o 3 (map1 (fWidth o.ty) fun a => a % 2 ^ (fWidth o.ty - 1))
def execFneg (o : VG2 6 6 FTy) (s : State) := vUn s o 3 (map1 (fWidth o.ty) fun a => a ^^^ 2 ^ (fWidth o.ty - 1))

def execFma (o : VG4 6 6 FTy) (s : State) := vTri s o 4 (fOp3 o.ty fun a b c => (a.mul b).add c)
def execFms (o : VG4 6 6 FTy) (s : State) := vTri s o 4 (fOp3 o.ty fun a b c => (a.mul b).add c.neg)
def execFnma (o : VG4 6 6 FTy) (s : State) := vTri s o 4 (fOp3 o.ty fun a b c => (a.mul b).neg.add c)

def execFrcp (o : VG2 6 6 FTy) (s : State) := vUn s o 6 (map1 (fWidth o.ty) (frcpCode o.ty))
def execFrsq (o : VG2 6 6 FTy) (s : State) := vUn s o 6 (map1 (fWidth o.ty) (frsqCode o.ty))
def execFexp2 (o : VG2 6 6 FTy) (s : State) := vUn s o 6 (map1 (fWidth o.ty) (fexp2Code o.ty))
def execFlog2 (o : VG2 6 6 FTy) (s : State) := vUn s o 6 (map1 (fWidth o.ty) (flog2Code o.ty))

/-- R175: the two 16-bit products of a lane and their sum, rounded once to fp32. -/
def dotLanes (t : FTy) (a b : Vec) : Vec :=
  vecOf 32 ((List.range 16).map fun i =>
    let x := fun v j => decodeNum (.flt t) (elem 16 v j)
    roundNum .fp32 (((x a (2 * i)).mul (x b (2 * i))).add ((x a (2 * i + 1)).mul (x b (2 * i + 1)))))

def execDot2 (o : VG3 6 6 6 HTy) (s : State) := vBin s o 4 (dotLanes o.ty.fty)

/-- A floating compare; `nan` is the answer when either element is NaN (R176). -/
def fRel (t : FTy) (nan : Bool) (p : Ordering → Bool) (a b : Nat) : Bool :=
  match (decodeNum (.flt t) a).cmp (decodeNum (.flt t) b) with
  | none => nan
  | some r => p r

def execFcmpEq (o : VG3 4 6 6 FTy) (s : State) := vCmp s o (fWidth o.ty) (fRel o.ty false fun r => r == .eq)
def execFcmpNe (o : VG3 4 6 6 FTy) (s : State) := vCmp s o (fWidth o.ty) (fRel o.ty true fun r => r != .eq)
def execFcmpLt (o : VG3 4 6 6 FTy) (s : State) := vCmp s o (fWidth o.ty) (fRel o.ty false fun r => r == .lt)
def execFcmpLe (o : VG3 4 6 6 FTy) (s : State) := vCmp s o (fWidth o.ty) (fRel o.ty false fun r => r != .gt)
def execFcmpUn (o : VG3 4 6 6 FTy) (s : State) := vCmp s o (fWidth o.ty) (fRel o.ty true fun _ => false)

/-! ## Integer arithmetic (R177 to R179) -/

/-- The width of an integer type. -/
def iWidth (t : ITy) : Nat := sizeBits t.size

/-- The integer of an element. -/
def iVal (t : ITy) (c : Nat) : Int := intOfCode t.signed (iWidth t) c

/-- An exact result kept modulo 2^w, or clamped with SAT (R177). -/
def iCode (t : ITy) (sat : Bool) (r : Int) : Nat :=
  codeOfInt (iWidth t) (if sat then clampInt (intRange t.signed (iWidth t)).1 (intRange t.signed (iWidth t)).2 r else r)

def iOp2 (t : ITy) (sat : Bool) (f : Int → Int → Int) : Vec → Vec → Vec :=
  map2 (iWidth t) fun a b => iCode t sat (f (iVal t a) (iVal t b))

def execIadd (o : VG3 6 6 6 ITy) (sat : Bool) (s : State) := vBin s o 3 (iOp2 o.ty sat fun a b => a + b)
def execIsub (o : VG3 6 6 6 ITy) (sat : Bool) (s : State) := vBin s o 3 (iOp2 o.ty sat fun a b => a - b)
def execImul (o : VG3 6 6 6 ITy) (sat : Bool) (s : State) := vBin s o 4 (iOp2 o.ty sat fun a b => a * b)
def execImulh (o : VG3 6 6 6 ITy) (s : State) := vBin s o 4 (iOp2 o.ty false fun a b => a * b / 2 ^ iWidth o.ty)
def execImad (o : VG4 6 6 ITy) (sat : Bool) (s : State) :=
  vTri s o 4 (map3 (iWidth o.ty) fun a b c => iCode o.ty sat (iVal o.ty a * iVal o.ty b + iVal o.ty c))
def execIand (o : VG3 6 6 6 ITy) (s : State) := vBin s o 3 fun a b => a &&& b
def execIor (o : VG3 6 6 6 ITy) (s : State) := vBin s o 3 fun a b => a ||| b
def execIxor (o : VG3 6 6 6 ITy) (s : State) := vBin s o 3 fun a b => a ^^^ b
def execImin (o : VG3 6 6 6 ITy) (s : State) := vBin s o 3 (iOp2 o.ty false min)
def execImax (o : VG3 6 6 6 ITy) (s : State) := vBin s o 3 (iOp2 o.ty false max)

/-- R178: a count of w or more shifts everything out. -/
def execIshl (o : VG3 6 6 6 ITy) (s : State) :=
  vBin s o 3 (map2 (iWidth o.ty) fun a n => if n < iWidth o.ty then a <<< n else 0)
def execIshr (o : VG3 6 6 6 ITy) (s : State) :=
  vBin s o 3 (map2 (iWidth o.ty) fun a n => if n < iWidth o.ty then a >>> n else 0)
def execIsra (o : VG3 6 6 6 ITy) (s : State) :=
  vBin s o 3 (map2 (iWidth o.ty) fun a n =>
    codeOfInt (iWidth o.ty) (intOfCode true (iWidth o.ty) a / 2 ^ (min n (iWidth o.ty))))

def execIcmpEq (o : VG3 4 6 6 ITy) (s : State) := vCmp s o (iWidth o.ty) fun a b => iVal o.ty a == iVal o.ty b
def execIcmpNe (o : VG3 4 6 6 ITy) (s : State) := vCmp s o (iWidth o.ty) fun a b => iVal o.ty a != iVal o.ty b
def execIcmpLt (o : VG3 4 6 6 ITy) (s : State) :=
  vCmp s o (iWidth o.ty) fun a b => decide (iVal o.ty a < iVal o.ty b)
def execIcmpLe (o : VG3 4 6 6 ITy) (s : State) :=
  vCmp s o (iWidth o.ty) fun a b => decide (iVal o.ty a ≤ iVal o.ty b)

/-! ## Lane movement (R180 to R184) -/

/-- The marks a lane select leaves: per lane, from the source that supplies it (R343). -/
def selMarks (k : Mask) (a b : BitVec 8) : BitVec 8 := (a &&& granules k) ||| (b &&& granules (~~~k))

/-- `vsel`: unguarded, G is the selector, every element is written (R180). -/
def execVsel (o : VG3 6 6 6 Fmt) (s : State) : Host.Outcome State Fault Refusal :=
  always s o.sl.cls (s.me.ok o.a && s.me.ok o.b) fun s =>
    let k := s.guard o.g
    let s := s.taintIf (anyPsn k.psn)
    let a := s.me.srcV o.a
    let b := s.me.srcV o.b
    s.landV o.sl.cls 2 o.d (some (vLatch o.sl)) 0xFFFF ⟨mergeLanes k.val b.val a.val, selMarks k.val a.psn b.psn⟩

/-- The value that repeats the low w bits of a word (R180). -/
def broadcast (w : Nat) (x : Nat) : Vec := vecOf w (List.replicate (512 / w) x)

def execVbc (o : VG2 6 6 Fmt) (s : State) : Host.Outcome State Fault Refusal :=
  laned s o.sl.cls o.g (s.me.ok o.a) fun en s =>
    let a := s.me.srcG o.a
    s.landV o.sl.cls 2 o.d (some (vLatch o.sl)) en ⟨broadcast o.ty.width a.val.toNat, allMarks (anyPsn a.psn) 8⟩

def execVmov (o : VG2 6 6 Fmt) (s : State) := vUn s o 2 fun a => a

/-- The element that `vmovi` writes: for an integer type the sign-extended immediate's low bits (R59), else the
immediate as a bf16 pattern converted under rne (R60). -/
def vmoviElem (ty : Fmt) (sat : Bool) (imm : BitVec 16) : Nat :=
  match ty with
  | .int t => codeOfInt (8 * t.size.bytes) imm.toInt
  | f => convert (.flt .bf16) f .rne sat imm.toNat 0

def execVmovi (sl : VSlot) (d : Dst 6) (ty : Fmt) (sat : Bool) (imm : BitVec 16) (s : State) :
    Host.Outcome State Fault Refusal :=
  .next (s.landV sl.cls 2 d (some (vLatch sl)) 0xFFFF (.clean (broadcast ty.width (vmoviElem ty sat imm))))

/-- Whether `vext` sign-extends (R181). -/
def extSigned : Fmt → Bool
  | .int t => t.signed
  | .flt _ => false
  | .fam _ => false

def execVext (o : VG3 6 6 6 Fmt) (s : State) : Host.Outcome State Fault Refusal :=
  guarded s o.sl.cls o.g (s.me.ok o.a && s.me.ok o.b) fun s =>
    let a := s.me.srcV o.a
    let b := s.me.srcG o.b
    let w := o.ty.width
    let x := elem w a.val (b.val.toNat % (512 / w))
    s.landG o.sl.cls 3 o.d (some (vLatch o.sl))
      ⟨BitVec.ofInt 32 (intOfCode (extSigned o.ty) w x), allMarks (anyPsn a.psn || anyPsn b.psn) 1⟩

/-- One element of a vector replaced. -/
def putElem (w : Nat) (v : Vec) (j x : Nat) : Vec := vecOf w ((elems w (512 / w) v).set j x)

/-- `vins` writes the element at its landing, into the lanes that are enabled; the others keep what they hold then (R181, R55).
DEDUCED: notes/assumptions/54.md. -/
def execVins (o : VG4 6 6 Fmt) (s : State) : Host.Outcome State Fault Refusal :=
  laned s o.sl.cls o.g (s.me.ok o.a && s.me.ok o.b) fun en s =>
    let a := s.me.srcG o.a
    let b := s.me.srcG o.b
    let c := s.me.readV o.d
    let w := o.ty.width
    let j := b.val.toNat % (512 / w)
    let hit := en.getLsbD (w * j / 32)
    let e : MVec := ⟨if hit then putElem w c.val j a.val.toNat else c.val,
      if anyPsn b.psn then BitVec.allOnes 8
      else if hit && anyPsn a.psn then c.psn ||| (1 <<< (w * j / 64)) else c.psn⟩
    s.landV o.sl.cls 3 (if o.w then .none else .reg o.d) (some (vLatch o.sl)) en e

/-- A rearrangement: any poisoned source poisons the whole result (R343). -/
def vMove (s : State) (o : VG3 6 6 6 Fmt) (valid : Bool) (f : State → Vec) (psn : State → Bool) :
    Host.Outcome State Fault Refusal :=
  laned s o.sl.cls o.g valid fun en s =>
    s.landV o.sl.cls 3 o.d (some (vLatch o.sl)) en ⟨f s, allMarks (psn s) 8⟩

def execVperm (o : VG3 6 6 6 Fmt) (s : State) :=
  vMove s o (s.me.ok o.a && s.me.ok o.b)
    (fun s => map1 o.ty.width (fun p => elem o.ty.width (s.me.srcV o.a).val (p % (512 / o.ty.width))) (s.me.srcV o.b).val)
    fun s => anyPsn (s.me.srcV o.a).psn || anyPsn (s.me.srcV o.b).psn

def execVrot (o : VG3 6 6 6 Fmt) (s : State) :=
  vMove s o (s.me.ok o.a && s.me.ok o.b)
    (fun s =>
      let n := 512 / o.ty.width
      vecOf o.ty.width ((List.range n).map fun j =>
        elem o.ty.width (s.me.srcV o.a).val ((j + (s.me.srcG o.b).val.toNat % n) % n)))
    fun s => anyPsn (s.me.srcV o.a).psn || anyPsn (s.me.srcG o.b).psn

/-- R183: the elements of the two sources in turn. -/
def zipElems (w : Nat) (a b : Vec) : List Nat :=
  ((List.range (512 / w)).map fun j => [elem w a j, elem w b j]).flatten

/-- R183: even elements of the pair a:b first, then the odd ones. -/
def unzipElems (w : Nat) (a b : Vec) : List Nat :=
  let n := 512 / w
  let q := elems w n a ++ elems w n b
  ((List.range n).map fun j => q.getD (2 * j) 0) ++ ((List.range n).map fun j => q.getD (2 * j + 1) 0)

/-- A form that writes the pair D, D+1 with 2N elements (R183). -/
def vPair (s : State) (o : VG3 5 6 6 Fmt) (f : Nat → Vec → Vec → List Nat) : Host.Outcome State Fault Refusal :=
  laned s o.sl.cls o.g (s.me.ok o.a && s.me.ok o.b) fun en s =>
    let a := s.me.srcV o.a
    let b := s.me.srcV o.b
    let l := f o.ty.width a.val b.val
    let psn := allMarks (anyPsn a.psn || anyPsn b.psn) 8
    s.landPair o.sl.cls 3 o.d (some (vLatch o.sl)) en
      ⟨vecOf o.ty.width (l.take (512 / o.ty.width)), psn⟩ ⟨vecOf o.ty.width (l.drop (512 / o.ty.width)), psn⟩

def execVzip (o : VG3 5 6 6 Fmt) (s : State) := vPair s o zipElems
def execVunzip (o : VG3 5 6 6 Fmt) (s : State) := vPair s o unzipElems

/-- One level of the pairwise tree (R184). -/
def pairUp (f : Nat → Nat → Nat) : List Nat → List Nat
  | x :: y :: l => f x y :: pairUp f l
  | l => l

/-- The pairwise tree over 2^k elements (R184). -/
def tree (f : Nat → Nat → Nat) : Nat → List Nat → Nat
  | 0, l => l.headD 0
  | k + 1, l => tree f k (pairUp f l)

/-- The 32-bit value an element is widened to (R184). -/
def widenElem (ty : Fmt) (c : Nat) : Nat :=
  match ty with
  | .int t => codeOfInt 32 (intOfCode t.signed (8 * t.size.bytes) c)
  | f => convert f (.flt .fp32) .rne false c 0

/-- A reduction (R184). -/
def vReduce (s : State) (o : VG2 6 6 Fmt) (f : Nat → Nat → Nat) : Host.Outcome State Fault Refusal :=
  guarded s o.sl.cls o.g (s.me.ok o.a) fun s =>
    let a := s.me.srcV o.a
    let n := 512 / o.ty.width
    s.landG o.sl.cls 6 o.d (some (vLatch o.sl))
      ⟨BitVec.ofNat 32 (tree f (log2floor n) ((elems o.ty.width n a.val).map (widenElem o.ty))),
        allMarks (anyPsn a.psn) 1⟩

/-- The addition of `vsum` (R184). -/
def sumOp (ty : Fmt) (x y : Nat) : Nat :=
  match ty with
  | .int _ => (x + y) % 2 ^ 32
  | _ => roundNum .fp32 ((decodeNum (.flt .fp32) x).add (decodeNum (.flt .fp32) y))

/-- The maximum of `vmaxr` (R184). -/
def maxOp (ty : Fmt) (x y : Nat) : Nat :=
  match ty with
  | .int t => if intOfCode t.signed 32 x ≤ intOfCode t.signed 32 y then y else x
  | _ => fmaxCode (.flt .fp32) x y

def execVsum (o : VG2 6 6 Fmt) (s : State) := vReduce s o (sumOp o.ty)
def execVmaxr (o : VG2 6 6 Fmt) (s : State) := vReduce s o (maxOp o.ty)

/-! ## Mask forms (R185): guarded by bit 0, not lane forms -/

/-- A mask form of two sources. -/
def kBin (s : State) (o : VG3 4 4 4 Unit) (f : Mask → Mask → Mask) : Host.Outcome State Fault Refusal :=
  guarded s o.sl.cls o.g (s.me.ok o.a && s.me.ok o.b) fun s =>
    let a := s.me.srcK o.a
    let b := s.me.srcK o.b
    s.landK o.sl.cls 1 o.d (some (vLatch o.sl)) 0xFFFF ⟨f a.val b.val, a.psn ||| b.psn⟩

def execKand (o : VG3 4 4 4 Unit) (s : State) := kBin s o fun a b => a &&& b
def execKor (o : VG3 4 4 4 Unit) (s : State) := kBin s o fun a b => a ||| b
def execKxor (o : VG3 4 4 4 Unit) (s : State) := kBin s o fun a b => a ^^^ b

def execKnot (o : VG2 4 4 Unit) (s : State) : Host.Outcome State Fault Refusal :=
  guarded s o.sl.cls o.g (s.me.ok o.a) fun s =>
    let a := s.me.srcK o.a
    s.landK o.sl.cls 1 o.d (some (vLatch o.sl)) 0xFFFF ⟨~~~a.val, a.psn⟩

def execKcnt (o : VG2 6 4 Unit) (s : State) : Host.Outcome State Fault Refusal :=
  guarded s o.sl.cls o.g (s.me.ok o.a) fun s =>
    let a := s.me.srcK o.a
    s.landG o.sl.cls 1 o.d (some (vLatch o.sl)) ⟨BitVec.ofNat 32 (popcount a.val), a.psn⟩

end Sys2Proof.Machine
end

