-- ==== Sys2Proof/Machine/Dispatch.lean ====
section
/-!
DEFINITION. The one place where an instruction meets its meaning: one arm per constructor.
-/

namespace Sys2Proof.Machine

def exec (i : Instr) (s : State) : Host.Outcome State Fault Refusal :=
  match i with
  | .movi sl d imm => Sys2Proof.Machine.execMovi sl d imm s
  | .movhi sl w d imm => Sys2Proof.Machine.execMovhi sl w d imm s
  | .add o => Sys2Proof.Machine.execAdd o s
  | .addi o => Sys2Proof.Machine.execAddi o s
  | .sub o => Sys2Proof.Machine.execSub o s
  | .and o => Sys2Proof.Machine.execAnd o s
  | .andi o => Sys2Proof.Machine.execAndi o s
  | .or o => Sys2Proof.Machine.execOr o s
  | .ori o => Sys2Proof.Machine.execOri o s
  | .xor o => Sys2Proof.Machine.execXor o s
  | .xori o => Sys2Proof.Machine.execXori o s
  | .andn o => Sys2Proof.Machine.execAndn o s
  | .mul o => Sys2Proof.Machine.execMul o s
  | .mulh o => Sys2Proof.Machine.execMulh o s
  | .mulhn o => Sys2Proof.Machine.execMulhn o s
  | .div o => Sys2Proof.Machine.execDiv o s
  | .divn o => Sys2Proof.Machine.execDivn o s
  | .rem o => Sys2Proof.Machine.execRem o s
  | .remn o => Sys2Proof.Machine.execRemn o s
  | .shl o => Sys2Proof.Machine.execShl o s
  | .shli o => Sys2Proof.Machine.execShli o s
  | .shr o => Sys2Proof.Machine.execShr o s
  | .shri o => Sys2Proof.Machine.execShri o s
  | .sra o => Sys2Proof.Machine.execSra o s
  | .srai o => Sys2Proof.Machine.execSrai o s
  | .rol o => Sys2Proof.Machine.execRol o s
  | .min o => Sys2Proof.Machine.execMin o s
  | .max o => Sys2Proof.Machine.execMax o s
  | .minn o => Sys2Proof.Machine.execMinn o s
  | .maxn o => Sys2Proof.Machine.execMaxn o s
  | .ceq o => Sys2Proof.Machine.execCeq o s
  | .cne o => Sys2Proof.Machine.execCne o s
  | .clt o => Sys2Proof.Machine.execClt o s
  | .cltn o => Sys2Proof.Machine.execCltn o s
  | .cle o => Sys2Proof.Machine.execCle o s
  | .clen o => Sys2Proof.Machine.execClen o s
  | .ceqi o => Sys2Proof.Machine.execCeqi o s
  | .clti o => Sys2Proof.Machine.execClti o s
  | .sel o => Sys2Proof.Machine.execSel o s
  | .clz o => Sys2Proof.Machine.execClz o s
  | .ctz o => Sys2Proof.Machine.execCtz o s
  | .popc o => Sys2Proof.Machine.execPopc o s
  | .bfx o => Sys2Proof.Machine.execBfx o s
  | .bfxs o => Sys2Proof.Machine.execBfxs o s
  | .bfi sl w d a pos wid => Sys2Proof.Machine.execBfi sl w d a pos wid s
  | .aadd o => Sys2Proof.Machine.execAadd o s
  | .aaddi o => Sys2Proof.Machine.execAaddi o s
  | .asub o => Sys2Proof.Machine.execAsub o s
  | .amk o => Sys2Proof.Machine.execAmk o s
  | .ahi o => Sys2Proof.Machine.execAhi o s
  | .alo o => Sys2Proof.Machine.execAlo o s
  | .kset o => Sys2Proof.Machine.execKset o s
  | .kget o => Sys2Proof.Machine.execKget o s
  | .fadd o => Sys2Proof.Machine.execFadd o s
  | .fsub o => Sys2Proof.Machine.execFsub o s
  | .fmul o => Sys2Proof.Machine.execFmul o s
  | .fmin o => Sys2Proof.Machine.execFmin o s
  | .fmax o => Sys2Proof.Machine.execFmax o s
  | .fabs o => Sys2Proof.Machine.execFabs o s
  | .fneg o => Sys2Proof.Machine.execFneg o s
  | .fma o => Sys2Proof.Machine.execFma o s
  | .fms o => Sys2Proof.Machine.execFms o s
  | .fnma o => Sys2Proof.Machine.execFnma o s
  | .frcp o => Sys2Proof.Machine.execFrcp o s
  | .frsq o => Sys2Proof.Machine.execFrsq o s
  | .fexp2 o => Sys2Proof.Machine.execFexp2 o s
  | .flog2 o => Sys2Proof.Machine.execFlog2 o s
  | .dot2 o => Sys2Proof.Machine.execDot2 o s
  | .fcmpEq o => Sys2Proof.Machine.execFcmpEq o s
  | .fcmpNe o => Sys2Proof.Machine.execFcmpNe o s
  | .fcmpLt o => Sys2Proof.Machine.execFcmpLt o s
  | .fcmpLe o => Sys2Proof.Machine.execFcmpLe o s
  | .fcmpUn o => Sys2Proof.Machine.execFcmpUn o s
  | .iadd o sat => Sys2Proof.Machine.execIadd o sat s
  | .isub o sat => Sys2Proof.Machine.execIsub o sat s
  | .imul o sat => Sys2Proof.Machine.execImul o sat s
  | .imulh o => Sys2Proof.Machine.execImulh o s
  | .imad o sat => Sys2Proof.Machine.execImad o sat s
  | .iand o => Sys2Proof.Machine.execIand o s
  | .ior o => Sys2Proof.Machine.execIor o s
  | .ixor o => Sys2Proof.Machine.execIxor o s
  | .imin o => Sys2Proof.Machine.execImin o s
  | .imax o => Sys2Proof.Machine.execImax o s
  | .ishl o => Sys2Proof.Machine.execIshl o s
  | .ishr o => Sys2Proof.Machine.execIshr o s
  | .isra o => Sys2Proof.Machine.execIsra o s
  | .icmpEq o => Sys2Proof.Machine.execIcmpEq o s
  | .icmpNe o => Sys2Proof.Machine.execIcmpNe o s
  | .icmpLt o => Sys2Proof.Machine.execIcmpLt o s
  | .icmpLe o => Sys2Proof.Machine.execIcmpLe o s
  | .vsel o => Sys2Proof.Machine.execVsel o s
  | .vbc o => Sys2Proof.Machine.execVbc o s
  | .vmov o => Sys2Proof.Machine.execVmov o s
  | .vmovi sl d ty sat imm => Sys2Proof.Machine.execVmovi sl d ty sat imm s
  | .vext o => Sys2Proof.Machine.execVext o s
  | .vins o => Sys2Proof.Machine.execVins o s
  | .vperm o => Sys2Proof.Machine.execVperm o s
  | .vrot o => Sys2Proof.Machine.execVrot o s
  | .vzip o => Sys2Proof.Machine.execVzip o s
  | .vunzip o => Sys2Proof.Machine.execVunzip o s
  | .vsum o => Sys2Proof.Machine.execVsum o s
  | .vmaxr o => Sys2Proof.Machine.execVmaxr o s
  | .kand o => Sys2Proof.Machine.execKand o s
  | .kor o => Sys2Proof.Machine.execKor o s
  | .kxor o => Sys2Proof.Machine.execKxor o s
  | .knot o => Sys2Proof.Machine.execKnot o s
  | .kcnt o => Sys2Proof.Machine.execKcnt o s
  | .ldB o => Sys2Proof.Machine.execLdB o s
  | .ldBn o => Sys2Proof.Machine.execLdBn o s
  | .ldH o => Sys2Proof.Machine.execLdH o s
  | .ldHn o => Sys2Proof.Machine.execLdHn o s
  | .ldW o => Sys2Proof.Machine.execLdW o s
  | .stB o => Sys2Proof.Machine.execStB o s
  | .stH o => Sys2Proof.Machine.execStH o s
  | .stW o => Sys2Proof.Machine.execStW o s
  | .vldRow o => Sys2Proof.Machine.execVldRow o s
  | .vldCol o e => Sys2Proof.Machine.execVldCol o e s
  | .vstRow o => Sys2Proof.Machine.execVstRow o s
  | .vstCol o e => Sys2Proof.Machine.execVstCol o e s
  | .vld2 o r => Sys2Proof.Machine.execVld2 o r s
  | .vst2 o r => Sys2Proof.Machine.execVst2 o r s
  | .vlddRow o => Sys2Proof.Machine.execVlddRow o s
  | .vlddCol o => Sys2Proof.Machine.execVlddCol o s
  | .vgt o e => Sys2Proof.Machine.execVgt o e s
  | .vgt2 o e => Sys2Proof.Machine.execVgt2 o e s
  | .vsc o e => Sys2Proof.Machine.execVsc o e s
  | .amoAdd o => Sys2Proof.Machine.execAmoAdd o s
  | .amoAnd o => Sys2Proof.Machine.execAmoAnd o s
  | .amoOr o => Sys2Proof.Machine.execAmoOr o s
  | .amoXor o => Sys2Proof.Machine.execAmoXor o s
  | .amoMin o => Sys2Proof.Machine.execAmoMin o s
  | .amoMax o => Sys2Proof.Machine.execAmoMax o s
  | .amoXchg o => Sys2Proof.Machine.execAmoXchg o s
  | .amoCas w o => Sys2Proof.Machine.execAmoCas w o s
  | .redF32 o => Sys2Proof.Machine.execRedF32 o s
  | .redS32 o => Sys2Proof.Machine.execRedS32 o s
  | .cvt o => Sys2Proof.Machine.execCvt o s
  | .qblk o => Sys2Proof.Machine.execQblk o s
  | .dqblk o => Sys2Proof.Machine.execDqblk o s
  | .vpk o => Sys2Proof.Machine.execVpk o s
  | .vupk d a tf ff => Sys2Proof.Machine.execVupk d a tf ff s
  | .rngSeed a b g => Sys2Proof.Machine.execRngSeed a b g s
  | .rngPop d g => Sys2Proof.Machine.execRngPop d g s
  | .spush m a g => Sys2Proof.Machine.execSpush m a g s
  | .spop d m g => Sys2Proof.Machine.execSpop d m g s
  | .scnt d m g => Sys2Proof.Machine.execScnt d m g s
  | .sreset m g => Sys2Proof.Machine.execSreset m g s
  | .bgive o core u => Sys2Proof.Machine.execBgive o core u s
  | .blend o u mask => Sys2Proof.Machine.execBlend o u mask s
  | .bback o => Sys2Proof.Machine.execBback o s
  | .brot o => Sys2Proof.Machine.execBrot o s
  | .brotRev o => Sys2Proof.Machine.execBrotRev o s
  | .bmap d m g => Sys2Proof.Machine.execBmap d m g s
  | .bfmt o fmt => Sys2Proof.Machine.execBfmt o fmt s
  | .bzero o => Sys2Proof.Machine.execBzero o s
  | .bcopy o src plate cnt => Sys2Proof.Machine.execBcopy o src plate cnt s
  | .mclaim n => Sys2Proof.Machine.execMclaim n s
  | .mrel n => Sys2Proof.Machine.execMrel n s
  | .mstageRow o => Sys2Proof.Machine.execMstageRow o s
  | .mstageCol o e => Sys2Proof.Machine.execMstageCol o e s
  | .mshape sh base ofs g => Sys2Proof.Machine.execMshape sh base ofs g s
  | .mma sh set na nb g => Sys2Proof.Machine.execMma sh set na nb g s
  | .maccRd d tile row quarter => Sys2Proof.Machine.execMaccRd d tile row quarter s
  | .maccZero n => Sys2Proof.Machine.execMaccZero n s
  | .mqnt o fam sat => Sys2Proof.Machine.execMqnt o fam sat s
  | .xsendLo tag a => Sys2Proof.Machine.execXsendLo tag a s
  | .xsendHi tag a => Sys2Proof.Machine.execXsendHi tag a s
  | .xrecvLo d tag => Sys2Proof.Machine.execXrecvLo d tag s
  | .xrecvHi d tag => Sys2Proof.Machine.execXrecvHi d tag s
  | .xland a dt => Sys2Proof.Machine.execXland a dt s
  | .xtag a n => Sys2Proof.Machine.execXtag a n s
  | .xpoll d tag => Sys2Proof.Machine.execXpoll d tag s
  | .tkalign => Sys2Proof.Machine.execTkalign s
  | .tkhold dt => Sys2Proof.Machine.execTkhold dt s
  | .stgSet c r a => Sys2Proof.Machine.execStgSet c r a s
  | .readToBank n => Sys2Proof.Machine.execReadToBank n s
  | .readToLandingBuffer n => Sys2Proof.Machine.execReadToLandingBuffer n s
  | .write n => Sys2Proof.Machine.execWrite n s
  | .trackedWrite n => Sys2Proof.Machine.execTrackedWrite n s
  | .stgRd d c r => Sys2Proof.Machine.execStgRd d c r s
  | .tlWait c a => Sys2Proof.Machine.execTlWait c a s
  | .tlRd d c => Sys2Proof.Machine.execTlRd d c s
  | .nop => Sys2Proof.Machine.execNop s
  | .br ofs => Sys2Proof.Machine.execBr ofs s
  | .brz a ofs => Sys2Proof.Machine.execBrz a ofs s
  | .brnz a ofs => Sys2Proof.Machine.execBrnz a ofs s
  | .brk a ofs => Sys2Proof.Machine.execBrk a ofs s
  | .call d ofs => Sys2Proof.Machine.execCall d ofs s
  | .ret a g => Sys2Proof.Machine.execRet a g s
  | .loop a ofs => Sys2Proof.Machine.execLoop a ofs s
  | .halt g => Sys2Proof.Machine.execHalt g s
  | .tkawait a dt => Sys2Proof.Machine.execTkawait a dt s
  | .gate n => Sys2Proof.Machine.execGate n s
  | .wsplit a b g => Sys2Proof.Machine.execWsplit a b g s
  | .wret a g => Sys2Proof.Machine.execWret a g s
  | .jcbAdd a g => Sys2Proof.Machine.execJcbAdd a g s
  | .jcbPost g => Sys2Proof.Machine.execJcbPost g s
  | .npreOn g => Sys2Proof.Machine.execNpreOn g s
  | .npreOff g => Sys2Proof.Machine.execNpreOff g s
  | .trap code => Sys2Proof.Machine.execTrap code s
  | .svc code => Sys2Proof.Machine.execSvc code s
  | .brkpt code => Sys2Proof.Machine.execBrkpt code s
  | .iret => Sys2Proof.Machine.execIret s
  | .crget d f r => Sys2Proof.Machine.execCrget d f r s
  | .crset a f r => Sys2Proof.Machine.execCrset a f r s
  | .fenceAcq sc g => Sys2Proof.Machine.execFenceAcq sc g s
  | .fenceRel sc g => Sys2Proof.Machine.execFenceRel sc g s
  | .fenceAr sc g => Sys2Proof.Machine.execFenceAr sc g s
  | .fenceSc sc g => Sys2Proof.Machine.execFenceSc sc g s
  | .waitaEq o sc => Sys2Proof.Machine.execWaitaEq o sc s
  | .waitaNe o sc => Sys2Proof.Machine.execWaitaNe o sc s
  | .waitaGen o sc => Sys2Proof.Machine.execWaitaGen o sc s
  | .barArr n => Sys2Proof.Machine.execBarArr n s
  | .barWait n => Sys2Proof.Machine.execBarWait n s
  | .barSync n => Sys2Proof.Machine.execBarSync n s
  | .openSpanEntry st => Sys2Proof.Machine.execOpenSpanEntry st s
  | .waitFormIssue st => Sys2Proof.Machine.execWaitFormIssue st s
  | .tkawaitIssue st => Sys2Proof.Machine.execTkawaitIssue st s
  | .resultLanding st l => Sys2Proof.Machine.execResultLanding st l s
  | .runEnd st => Sys2Proof.Machine.execRunEnd st s
  | .bankCommit t core bank d => Sys2Proof.Machine.execBankCommit t core bank d s
  | .mapChangeEffect t ch => Sys2Proof.Machine.execMapChangeEffect t ch s
  | .formatChangeEffect t bank f => Sys2Proof.Machine.execFormatChangeEffect t bank f s
  | .reductionApply t => Sys2Proof.Machine.execReductionApply t s
  | .stageRowTransfer t p => Sys2Proof.Machine.execStageRowTransfer t p s
  | .mmaStart t op => Sys2Proof.Machine.execMmaStart t op s
  | .mmaGroupAdd t op b g => Sys2Proof.Machine.execMmaGroupAdd t op b g s
  | .mmaBlockWrite t op b => Sys2Proof.Machine.execMmaBlockWrite t op b s
  | .mmaCompletion t op => Sys2Proof.Machine.execMmaCompletion t op s
  | .arraySend t send => Sys2Proof.Machine.execArraySend t send s
  | .operandRowDeposit t slot row fmt => Sys2Proof.Machine.execOperandRowDeposit t slot row fmt s
  | .flitArrival t side f => Sys2Proof.Machine.execFlitArrival t side f s
  | .flitRelease t side => Sys2Proof.Machine.execFlitRelease t side s
  | .landedFlitDue t tag due => Sys2Proof.Machine.execLandedFlitDue t tag due s
  | .landingLost t tag due => Sys2Proof.Machine.execLandingLost t tag due s
  | .holdDelivery t q mark => Sys2Proof.Machine.execHoldDelivery t q mark s
  | .holdEnd t => Sys2Proof.Machine.execHoldEnd t s
  | .voltageDroop t part => Sys2Proof.Machine.execVoltageDroop t part s
  | .localTrimUpdate t => Sys2Proof.Machine.execLocalTrimUpdate t s
  | .waferTrimUpdate links => Sys2Proof.Machine.execWaferTrimUpdate links s
  | .deadbandSlewSet db sl => Sys2Proof.Machine.execDeadbandSlewSet db sl s
  | .throttle cut => Sys2Proof.Machine.execThrottle cut s
  | .railChange field place high => Sys2Proof.Machine.execRailChange field place high s
  | .countUpset t d => Sys2Proof.Machine.execCountUpset t d s
  | .bitUpset p mask => Sys2Proof.Machine.execBitUpset p mask s
  | .alignment t => Sys2Proof.Machine.execAlignment t s
  | .peerLinkLoss port => Sys2Proof.Machine.execPeerLinkLoss port s
  | .gateRelease cl n => Sys2Proof.Machine.execGateRelease cl n s
  | .gateTimeout cl n => Sys2Proof.Machine.execGateTimeout cl n s
  | .barrierPhaseCompletion cl n => Sys2Proof.Machine.execBarrierPhaseCompletion cl n s
  | .barrierTimeout st n => Sys2Proof.Machine.execBarrierTimeout st n s
  | .nonPreEmptibleCap st => Sys2Proof.Machine.execNonPreEmptibleCap st s
  | .weightArrival cl rcv share => Sys2Proof.Machine.execWeightArrival cl rcv share s
  | .jcbTotalArrival st n => Sys2Proof.Machine.execJcbTotalArrival st n s
  | .jcbPostArrival cl => Sys2Proof.Machine.execJcbPostArrival cl s
  | .strandRetirement st => Sys2Proof.Machine.execStrandRetirement st s
  | .claimEvaluation cl => Sys2Proof.Machine.execClaimEvaluation cl s
  | .commandActivation c => Sys2Proof.Machine.execCommandActivation c s
  | .readLineRequest c m j => Sys2Proof.Machine.execReadLineRequest c m j s
  | .stagingFlitRelease c m n => Sys2Proof.Machine.execStagingFlitRelease c m n s
  | .stagingDeposit c m k => Sys2Proof.Machine.execStagingDeposit c m k s
  | .stagingSourceRead c m k => Sys2Proof.Machine.execStagingSourceRead c m k s
  | .stagingWriteFlit c m n => Sys2Proof.Machine.execStagingWriteFlit c m n s
  | .stagingWriteCommit c m => Sys2Proof.Machine.execStagingWriteCommit c m s
  | .trackerFire c => Sys2Proof.Machine.execTrackerFire c s
  | .timelineAdvance c => Sys2Proof.Machine.execTimelineAdvance c s
  | .flagWrite c m => Sys2Proof.Machine.execFlagWrite c m s
  | .fatalStop cl => Sys2Proof.Machine.execFatalStop cl s
  | .uncorrectableHalt cl => Sys2Proof.Machine.execUncorrectableHalt cl s
  | .preemptionStop cl => Sys2Proof.Machine.execPreemptionStop cl s
  | .selfTestMove field row col => Sys2Proof.Machine.execSelfTestMove field row col s
  | .selfTestMoveBack field row => Sys2Proof.Machine.execSelfTestMoveBack field row s
  | .abortStop cl => Sys2Proof.Machine.execAbortStop cl s
  | .claimRelease cl => Sys2Proof.Machine.execClaimRelease cl s
  | .powerOn b => Sys2Proof.Machine.execPowerOn b s
  | .hostFarWrite addr w => Sys2Proof.Machine.execHostFarWrite addr w s
  | .hostFarRead addr len => Sys2Proof.Machine.execHostFarRead addr len s
  | .qnotifyWrite q w => Sys2Proof.Machine.execQnotifyWrite q w s
  | .hostRegisterWrite off v => Sys2Proof.Machine.execHostRegisterWrite off v s
  | .packetRead q => Sys2Proof.Machine.execPacketRead q s
  | .fleetLaunch packet args => Sys2Proof.Machine.execFleetLaunch packet args s
  | .managementSidebandMessage msg => Sys2Proof.Machine.execManagementSidebandMessage msg s
  | .load a => Sys2Proof.Machine.execLoad a s
  | .evict a => Sys2Proof.Machine.execEvict a s
  | .lease a => Sys2Proof.Machine.execLease a s
  | .unlease a => Sys2Proof.Machine.execUnlease a s
  | .unleaseEffect slot => Sys2Proof.Machine.execUnleaseEffect slot s
  | .queueEnable a => Sys2Proof.Machine.execQueueEnable a s
  | .queueDisable a => Sys2Proof.Machine.execQueueDisable a s
  | .queueDisableDrain q => Sys2Proof.Machine.execQueueDisableDrain q s
  | .invtlb a => Sys2Proof.Machine.execInvtlb a s
  | .preempt a => Sys2Proof.Machine.execPreempt a s
  | .resume a => Sys2Proof.Machine.execResume a s
  | .abort a => Sys2Proof.Machine.execAbort a s
  | .fwload a => Sys2Proof.Machine.execFwload a s
  | .record a => Sys2Proof.Machine.execRecord a s
  | .restart a => Sys2Proof.Machine.execRestart a s
  | .opNotAssigned op => Sys2Proof.Machine.execOpNotAssigned op s
  | .switchRequest c addr => Sys2Proof.Machine.execSwitchRequest c addr s
  | .firmwareSwitch c => Sys2Proof.Machine.execFirmwareSwitch c s
  | .alive sig => Sys2Proof.Machine.execAlive sig s
  | .accept sig => Sys2Proof.Machine.execAccept sig s
  | .rollback c => Sys2Proof.Machine.execRollback c s
  | .getVersion => Sys2Proof.Machine.execGetVersion s
  | .getCapabilities flags => Sys2Proof.Machine.execGetCapabilities flags s
  | .negotiateAlgorithms asym hash => Sys2Proof.Machine.execNegotiateAlgorithms asym hash s
  | .getDigests => Sys2Proof.Machine.execGetDigests s
  | .getCertificate slot offset len => Sys2Proof.Machine.execGetCertificate slot offset len s
  | .challenge slot nonce => Sys2Proof.Machine.execChallenge slot nonce s
  | .getMeasurements index sign => Sys2Proof.Machine.execGetMeasurements index sign s
  | .accessionRecordWrite slot rec bart => Sys2Proof.Machine.execAccessionRecordWrite slot rec bart s
  | .retainedImageFault c => Sys2Proof.Machine.execRetainedImageFault c s
  | .tileFailsSelfTest field row => Sys2Proof.Machine.execTileFailsSelfTest field row s

end Sys2Proof.Machine
end

