-- ==== Sys2Proof/Machine/Events.lean ====
section
/-!
DEFINITION. What an event does: the meaning of the event row it names (spec/95_what_each_step_holds.md). An event of the
agenda and the same row of the instruction set share one meaning.
-/

namespace Sys2Proof.Machine

/-- An event happens. -/
def runEvent (e : Event) (s : State) : Host.Outcome State Fault Refusal :=
  match e with
  | .openSpanEntry st => execOpenSpanEntry st s
  | .waitFormIssue st => execWaitFormIssue st s
  | .tkawaitIssue st => execTkawaitIssue st s
  | .resultLanding st l => execResultLanding st l s
  | .runEnd st => execRunEnd st s
  | .bankCommit t core bank d => execBankCommit t core bank d s
  | .mapChangeEffect t ch => execMapChangeEffect t ch s
  | .formatChangeEffect t bank f => execFormatChangeEffect t bank f s
  | .reductionApply t => execReductionApply t s
  | .stageRowTransfer t p => execStageRowTransfer t p s
  | .mmaStart t op => execMmaStart t op s
  | .mmaGroupAdd t op b g => execMmaGroupAdd t op b g s
  | .mmaBlockWrite t op b => execMmaBlockWrite t op b s
  | .mmaCompletion t op => execMmaCompletion t op s
  | .arraySend t send => execArraySend t send s
  | .operandRowDeposit t slot row fmt => execOperandRowDeposit t slot row fmt s
  | .flitArrival t side f => execFlitArrival t side f s
  | .flitRelease t side => execFlitRelease t side s
  | .landedFlitDue t tag due => execLandedFlitDue t tag due s
  | .landingLost t tag due => execLandingLost t tag due s
  | .holdDelivery t q mark => execHoldDelivery t q mark s
  | .holdEnd t => execHoldEnd t s
  | .voltageDroop t part => execVoltageDroop t part s
  | .localTrimUpdate t => execLocalTrimUpdate t s
  | .waferTrimUpdate links => execWaferTrimUpdate links s
  | .deadbandSlewSet db sl => execDeadbandSlewSet db sl s
  | .throttle cut => execThrottle cut s
  | .railChange field place high => execRailChange field place high s
  | .countUpset t d => execCountUpset t d s
  | .bitUpset p mask => execBitUpset p mask s
  | .alignment t => execAlignment t s
  | .peerLinkLoss port => execPeerLinkLoss port s
  | .gateRelease cl n => execGateRelease cl n s
  | .gateTimeout cl n => execGateTimeout cl n s
  | .barrierPhaseCompletion cl n => execBarrierPhaseCompletion cl n s
  | .barrierTimeout st n => execBarrierTimeout st n s
  | .nonPreEmptibleCap st => execNonPreEmptibleCap st s
  | .weightArrival cl rcv share => execWeightArrival cl rcv share s
  | .jcbTotalArrival st n => execJcbTotalArrival st n s
  | .jcbPostArrival cl => execJcbPostArrival cl s
  | .strandRetirement st => execStrandRetirement st s
  | .claimEvaluation cl => execClaimEvaluation cl s
  | .commandActivation c => execCommandActivation c s
  | .readLineRequest c m j => execReadLineRequest c m j s
  | .stagingFlitRelease c m i => execStagingFlitRelease c m i s
  | .stagingDeposit c m k => execStagingDeposit c m k s
  | .stagingSourceRead c m k => execStagingSourceRead c m k s
  | .stagingWriteFlit c m i => execStagingWriteFlit c m i s
  | .stagingWriteCommit c m => execStagingWriteCommit c m s
  | .trackerFire c => execTrackerFire c s
  | .timelineAdvance c => execTimelineAdvance c s
  | .flagWrite c m => execFlagWrite c m s
  | .fatalStop cl => execFatalStop cl s
  | .uncorrectableHalt cl => execUncorrectableHalt cl s
  | .preemptionStop cl => execPreemptionStop cl s
  | .selfTestMove field row col => execSelfTestMove field row col s
  | .selfTestMoveBack field row => execSelfTestMoveBack field row s
  | .abortStop cl => execAbortStop cl s
  | .claimRelease cl => execClaimRelease cl s
  | .powerOn b => execPowerOn b s
  | .hostFarWrite addr w => execHostFarWrite addr w s
  | .hostFarRead addr len => execHostFarRead addr len s
  | .qnotifyWrite q w => execQnotifyWrite q w s
  | .hostRegisterWrite off v => execHostRegisterWrite off v s
  | .packetRead q => execPacketRead q s
  | .fleetLaunch packet args => execFleetLaunch packet args s
  | .managementSidebandMessage msg => execManagementSidebandMessage msg s
  | .load a => execLoad a s
  | .evict a => execEvict a s
  | .lease a => execLease a s
  | .unlease a => execUnlease a s
  | .unleaseEffect slot => execUnleaseEffect slot s
  | .queueEnable a => execQueueEnable a s
  | .queueDisable a => execQueueDisable a s
  | .queueDisableDrain q => execQueueDisableDrain q s
  | .invtlb a => execInvtlb a s
  | .preempt a => execPreempt a s
  | .resume a => execResume a s
  | .abort a => execAbort a s
  | .fwload a => execFwload a s
  | .record a => execRecord a s
  | .restart a => execRestart a s
  | .opNotAssigned op => execOpNotAssigned op s
  | .switchRequest c addr => execSwitchRequest c addr s
  | .firmwareSwitch c => execFirmwareSwitch c s
  | .alive sig => execAlive sig s
  | .accept sig => execAccept sig s
  | .rollback c => execRollback c s
  | .getVersion => execGetVersion s
  | .getCapabilities flags => execGetCapabilities flags s
  | .negotiateAlgorithms asym hash => execNegotiateAlgorithms asym hash s
  | .getDigests => execGetDigests s
  | .getCertificate slot offset len => execGetCertificate slot offset len s
  | .challenge slot nonce => execChallenge slot nonce s
  | .getMeasurements index sign => execGetMeasurements index sign s
  | .accessionRecordWrite slot rec bart => execAccessionRecordWrite slot rec bart s
  | .retainedImageFault c => execRetainedImageFault c s
  | .tileFailsSelfTest field row => execTileFailsSelfTest field row s

end Sys2Proof.Machine
end

