-- ==== Sys2Proof/Machine/Issue.lean ====
section
/-!
DEFINITION. Issue: a presented bundle, its checks and the one fault it may take (spec/02 R43, R56, R57; spec/04 R96, R101,
R110, R113; spec/13 R339), the effects of its slots, and the bundle that follows (R98, R99, R107). The functions take the
meaning of an instruction as `ex`; Step.lean gives them `exec`.
-/

namespace Sys2Proof.Machine

/-- The meaning of an instruction. -/
abbrev Meaning := Instr → State → Host.Outcome State Fault Refusal

/-! ## What is presented -/

/-- A slot of a bundle: its class and its instruction, none where the syllable is an illegal instruction. -/
abbrev Slot := SlotClass × Option Instr

/-- Whether a slot passes its encoding checks on a core (R56, R74). -/
def slotLegal (core : BitVec 2) (p : Slot) : Bool :=
  match p.2 with
  | some i => i.legalOn core
  | none => false

/-- The slots of the bundle that a strand presents; none where the bundle is illegal (R43). -/
def slotsAt (s : State) (st : StrandId) : Option (List Slot) :=
  match fetch (s.tileOf st.tile) st.core.toNat (s.coreOf st).pc with
  | .illegal _ => none
  | .bundle _ bytes => some (decodeBundle bytes)

/-- Bit 0 of a guard (R55). -/
def State.guardOn (s : State) (g : Guard) : Bool := (s.guard g).val.getLsbD 0

/-- Whether a transfer form would be taken, judged from its own syllable: its latch is valid and its condition and guard
redirect fetch (R98, R101). -/
def takenTransfer (s : State) : Instr → Bool
  | .br _ => true
  | .brz a _ => s.me.ok a && (s.me.srcG a).val == 0
  | .brnz a _ => s.me.ok a && (s.me.srcG a).val != 0
  | .brk a _ => s.me.ok a && (s.me.srcG a).val != 0
  | .call _ _ => true
  | .ret a g => s.guardOn g && s.me.ok a
  | .loop a ofs => s.me.ok a && (s.me.srcG a).val == 0 && s.nextPc != labelOf s ofs
  | .halt g => s.guardOn g
  | .gate _ => true
  | .trap _ => true
  | .svc _ => true
  | .brkpt _ => s.me.dbg
  | .iret => true
  | _ => false

/-- Whether a taken transfer would be illegal in this bundle: a delay bundle, or one of the last three of the body of the
innermost loop (R101). -/
def transferBarred (s : State) : Bool :=
  s.me.xfer.isSome || inLoopTail s.myTile s.focus.core.toNat s.headerPc s.me.loops

/-- Whether the bundle holds a transfer form that makes it an illegal bundle (R101). DEDUCED: notes/assumptions/42.md. -/
def transferMisplaced (s : State) (l : List Slot) : Bool :=
  transferBarred s && l.any fun p =>
    match p.2 with
    | some i => i.legalOn s.focus.core && takenTransfer s i
    | none => false

/-! ## Waiting (R110, R113) -/

/-- What an enabled wait form finds; none for any other syllable. -/
def waitOf (s : State) : Instr → Option WaitResult
  | .spop _ m g => if s.guardOn g then some (spopCond s m) else none
  | .tlWait c a => some (if s.me.ok a then tlWaitCond s c a else .fault 0x03 0)
  | .waitaEq o _ => if s.guardOn o.g then some (waitaCond s o .eq) else none
  | .waitaNe o _ => if s.guardOn o.g then some (waitaCond s o .ne) else none
  | .waitaGen o _ => if s.guardOn o.g then some (waitaCond s o .gen) else none
  | .barWait n => some (barWaitCond s n.toNat)
  | .barSync n => some (barSyncCond s n.toNat)
  | _ => none

/-- Whether a slot's own wait checks fault. -/
def waitFaults (s : State) (i : Instr) : Option Byte :=
  match waitOf s i with
  | some (.fault c _) => some c
  | _ => none

/-- Whether some wait form of the bundle finds its condition unmet. -/
def someUnmet (s : State) (is : List Instr) : Bool := is.any fun i => waitOf s i == some .unmet

/-- Whether a poisoned guard, base, comparand or count decides that a wait form of the presented bundle waits (R343). The
awaited word of a `waita` is none of them: a poisoned one meets no condition (R327). DEDUCED: notes/assumptions/36.md. -/
def waitMark (s : State) : Instr → Bool
  | .spop _ _ g => anyPsn (s.guard g).psn
  | .tlWait _ a => anyPsn (s.me.srcA a).psn
  | .waitaEq o _ => waitaMark s o
  | .waitaNe o _ => waitaMark s o
  | .waitaGen o _ => waitaMark s o
  | _ => false

/-- What the presentation of an unmet wait form does: the watch path reads its word, a `bar.sync` arrives (R327, R331). -/
def presentWait (s : State) : Instr → State
  | .waitaEq o _ => if s.guardOn o.g then watch s o else s
  | .waitaNe o _ => if s.guardOn o.g then watch s o else s
  | .waitaGen o _ => if s.guardOn o.g then watch s o else s
  | .barSync n => syncArrive s n.toNat
  | _ => s

/-- A bundle that is held keeps the target of its `tkawait` (R110), a poisoned one taints the strand from this tick (R343). -/
def keepTarget (s : State) : List Instr → State
  | [] => s
  | .tkawait a dt :: _ =>
    (s.taintIf (anyPsn (tkTarget s a dt).psn)).modCore s.focus fun c => { c with tkAt := some (tkTarget s a dt) }
  | _ :: l => keepTarget s l

/-- The bundle waits. -/
def holdBundle (s : State) : State :=
  match s.me.status with
  | .tkawait _ => s
  | .absent | .running | .waiting | .gate _ | .halted | .retired | .stopped =>
    s.modCore s.focus fun c => { c with status := .waiting }

/-- What the first presentation of a `tkawait` finds: nothing to wait for, a latch that is not valid, or the target. -/
inductive TkHold where
  | go
  | invalid
  | till (n : Nat)
  deriving DecidableEq, Repr

/-- The `tkawait` of a bundle, if it holds one (R110). -/
def tkHold (s : State) : List Instr → TkHold
  | [] => .go
  | .tkawait a dt :: _ =>
    if s.me.ok a = false then .invalid
    else if tkReached s a dt then .go
    else .till (tkTarget s a dt).val.toNat
  | _ :: l => tkHold s l

/-! ## The choice of the fault (R57) -/

/-- The fault that a syllable's meaning raises, alone, from the state of the presentation. -/
def noteOf (ex : Meaning) (s : State) (i : Instr) : Option Note :=
  match ex i s with
  | .next s' => s'.note
  | .fault _ => none
  | .refused _ => none

/-- Among faulting slots in increasing class order: the lowest with an invalid latch, else the lowest (R57). -/
def pickFault {α : Type} (cause : α → Byte) (l : List α) : Option α :=
  match l.find? fun x => cause x == 0x03 with
  | some x => some x
  | none => l.head?

/-- The faulting slots of a bundle, with their causes. -/
def faultsOf (ex : Meaning) (s : State) (is : List Instr) : List (Byte × Instr) :=
  is.filterMap fun i => (noteOf ex s i).map fun n => (n.cause, i)

/-- The accesses and the map changes that a syllable alone asks for. -/
def bookingsOf (ex : Meaning) (s : State) (i : Instr) : List (BitVec 2 × Intent) :=
  match ex i s with
  | .next s' => if s'.note.isSome then [] else
      (s'.myTile.intents.drop s.myTile.intents.length).filter fun p =>
        match p.2 with
        | .book _ | .change _ _ => true
        | .rotate _ _ | .send _ | .withdraw _ _ | .retire => false
  | .fault _ => []
  | .refused _ => []

/-- The state in which the slots of a bundle are checked: each slot of several sees the accesses and the map changes that the
others ask for (R333, R216). -/
def sharing (ex : Meaning) (is : List Instr) (s : State) : State :=
  match is with
  | [] => s
  | [_] => s
  | _ :: _ :: _ => s.modTile s.focus.tile fun t => { t with intents := t.intents ++ (is.map (bookingsOf ex s)).flatten }

/-- The fault of one slot of a bundle is taken; nothing that the bundle asked for stays. -/
def faultIn (ex : Meaning) (is : List Instr) (s : State) (i : Instr) : Host.Outcome State Fault Refusal :=
  match is with
  | [] => ex i s
  | [_] => ex i s
  | _ :: _ :: _ =>
    match ex i (sharing ex is s) with
    | .next s' => .next (s'.modTile s.focus.tile fun t => { t with intents := s.myTile.intents })
    | .fault f => .fault f
    | .refused r => .refused r

/-- Takes a cause that an earlier operation raised against the bundle presented now (R339): it stands with class 0.
DEDUCED: notes/assumptions/41.md. -/
def takePending (s : State) (cause : BitVec 8) : State :=
  (s.modCore s.focus fun c => { c with pendingFault := none }).fault .s0 cause

/-! ## Effects -/

/-- The slots take effect in increasing class order. -/
def runSlots (ex : Meaning) : List Instr → State → Host.Outcome State Fault Refusal
  | [], s => .next s
  | i :: l, s =>
    match ex i s with
    | .next s' => runSlots ex l s'
    | .fault f => .fault f
    | .refused r => .refused r

/-- Whether a syllable taints the strand. -/
def taints (ex : Meaning) (s : State) (i : Instr) : Bool :=
  match ex i s with
  | .next s' => s'.me.taint
  | .fault _ => false
  | .refused _ => false

/-- With several slots, the taint of any of them is on every result of the bundle (R343). -/
def preTaint (ex : Meaning) (s : State) (is : List Instr) : State :=
  match is with
  | [] => s
  | [_] => s
  | _ :: _ :: _ => s.taintIf (is.any (taints ex s))

/-! ## The bundle that follows (R98, R99, R107) -/

/-- The next bundle in sequential order after the bundle at `at_`, with the loop stack, which every bundle examines but the
second delay bundle (R107). DESIGN CHOICE: notes/assumptions/53.md. -/
def goSequential (s : State) (at_ q : BitVec 64) (x : Option (BitVec 64 × Nat)) : State :=
  let r := closeLoops at_ q s.me.loops
  s.modCore s.focus fun c => { c with loops := r.1, pc := r.2, xfer := x }

/-- After a bundle has issued: the second delay bundle is followed by the target, where the run ends (R98, R99); every
other bundle by the next one in sequential order; a form that redirected fetch has set the address itself (R106, R352).
`x` is the transfer under way when the bundle was presented, `at_` its address and `q` its sequential successor. -/
def afterIssue (x : Option (BitVec 64 × Nat)) (at_ q : BitVec 64) (s : State) : State :=
  if s.me.idle ≠ 0 then s
  else
    match x with
    | some (tg, 2) => goSequential s at_ q (some (tg, 1))
    | some (tg, _) =>
      (s.modCore s.focus fun c => { c with pc := tg, xfer := none }).planEv s.focus.tile.claim (s.t + 1) phRun
        (.runEnd s.focus)
    | none => goSequential s at_ q s.me.xfer

/-- A bundle that no fault holds back issues. -/
def issueSlots (ex : Meaning) (is : List Instr) (s : State) : Host.Outcome State Fault Refusal :=
  match runSlots ex is (preTaint ex s is) with
  | .next s' => .next (afterIssue s.me.xfer s.headerPc s.nextPc s')
  | .fault f => .fault f
  | .refused r => .refused r

/-- The strand leaves its waiting state. -/
def wake (s : State) : State :=
  match s.me.status with
  | .waiting => s.modCore s.focus fun c => { c with status := .running }
  | .absent | .running | .tkawait _ | .gate _ | .halted | .retired | .stopped => s

/-- All checks of a bundle whose wait conditions hold, or that stands in a closed span: one fault is taken, else the bundle
issues (R57, R113, R339). -/
def checkAndIssue (ex : Meaning) (is : List Instr) (s : State) : Host.Outcome State Fault Refusal :=
  let fs := faultsOf ex (sharing ex is s) is
  match s.me.pendingFault, pickFault (fun x => x.1) fs with
  | none, none => issueSlots ex is s
  | none, some x => faultIn ex is s x.2
  | some p, none => .next (takePending s p)
  | some p, some x => if x.1 = 0x03 then faultIn ex is s x.2 else .next (takePending s p)

/-- A bundle that passed its encoding checks (R110, R113). -/
def presentLegal (ex : Meaning) (is : List Instr) (s : State) : Host.Outcome State Fault Refusal :=
  match tkHold s is with
  | .invalid => .next (s.fault .c 0x03)
  | .till n =>
    match s.me.pendingFault with
    | some p => .next (takePending s p)
    | none => .next ((keepTarget s is).modCore s.focus fun c => { c with status := .tkawait n })
  | .go =>
    if s.me.span && someUnmet s is then
      let fs := is.filterMap fun i => (waitFaults s i).map fun c => (c, i)
      match s.me.pendingFault, pickFault (fun x => x.1) fs with
      | none, none => .next (holdBundle (keepTarget ((is.foldl presentWait s).taintIf (is.any (waitMark s))) is))
      | none, some x => ex x.2 (wake s)
      | some p, none => .next (takePending s p)
      | some p, some x => if x.1 = 0x03 then ex x.2 (wake s) else .next (takePending s p)
    else checkAndIssue ex is (wake s)

/-- Whether a wait form of the bundle, past its encoding checks, makes it wait in this tick (R113). -/
def bundleWaits (s : State) (l : List Slot) : Bool :=
  s.me.span && someUnmet s ((l.filter (slotLegal s.focus.core)).filterMap fun p => p.2)

/-- The slots of a presented bundle: illegal bundle by R101 where it would issue now, then illegal instruction, then the
rest (R57). -/
def presentSlots (ex : Meaning) (l : List Slot) (s : State) : Host.Outcome State Fault Refusal :=
  if transferMisplaced s l && !bundleWaits s l then .next (s.fault .c 0x01)
  else
    match l.find? fun p => !slotLegal s.focus.core p with
    | some p => .next (s.fault p.1 0x02)
    | none => presentLegal ex (l.filterMap fun p => p.2) s

/-- The focus strand presents its bundle, whose words are read with their codes (R344). -/
def presentBundle (ex : Meaning) (s : State) : Host.Outcome State Fault Refusal :=
  let s := checkFetch s s.focus
  match slotsAt s s.focus with
  | none => .next (s.fault .s0 0x01)
  | some l => presentSlots ex l s

/-- Whether a strand's issue unit presents a bundle in this tick (R96). -/
def presents (s : State) (st : StrandId) : Bool :=
  match (s.coreOf st).status with
  | .running => (s.coreOf st).idle == 0
  | .waiting => true
  | .tkawait till => decide (till ≤ (s.countOf st.tile).toNat) || (s.coreOf st).pendingFault.isSome
  | .absent | .gate _ | .halted | .retired | .stopped => false

/-- A strand's tick: an empty one passes, else the strand presents its bundle. -/
def issueStrand (ex : Meaning) (st : StrandId) (s : State) : Host.Outcome State Fault Refusal :=
  let s := { s with focus := st, note := none }
  if presents s st then presentBundle ex s
  else if s.me.idle ≠ 0 then .next (s.modCore st fun c => { c with idle := c.idle - 1 })
  else .next s

/-! ## What a tile's bundles ask of it in a tick (R216, R220, R284, R333) -/

/-- The rotation that a presented bundle asks for. -/
def rotationOf (s : State) (st : StrandId) : Option Intent :=
  match slotsAt s st with
  | none => none
  | some l => (l.filterMap fun p =>
      match p.2 with
      | some (.brot o) => some (.rotate o.s false)
      | some (.brotRev o) => some (.rotate o.s true)
      | _ => none).head?

/-- What a bundle that was tried asks for: its requests, and its strand's retirement where it halts and retires now. -/
def requestsOf (s : State) (st : StrandId) : List (BitVec 2 × Intent) :=
  ((s.tileOf st.tile).intents.filter fun p => p.1 == st.core) ++
    if s.todo.contains (.ev (.strandRetirement st)) then retireIntents s st else []

/-- The requests of a core's bundle where it passes its checks beside `l` alone. -/
def asks (ex : Meaning) (s : State) (st : StrandId) (l : List (BitVec 2 × Intent)) : Option (List (BitVec 2 × Intent)) :=
  match issueStrand ex st (s.modTile st.tile fun t => { t with intents := l }) with
  | .next s' => if s'.note.isSome then none else some (requestsOf s' st)
  | .fault _ => none
  | .refused _ => none

/-- Whether a rotation form. -/
def isRotation : Instr → Bool
  | .brot _ => true
  | .brotRev _ => true
  | _ => false

/-- Whether the bundle that the focus strand presents faults by its rotation alone: such a bundle presents its `brot` all the
same, so that it counts for the quorum of the others (R220). -/
def turnsAlone (ex : Meaning) (s : State) : Bool :=
  match slotsAt s s.focus with
  | none => false
  | some l =>
    let is := l.filterMap fun p => p.2
    l.all (slotLegal s.focus.core) && !transferMisplaced s l && s.me.pendingFault.isNone &&
      (faultsOf ex (sharing ex is s) is).all fun x => isRotation x.2

/-- What a core's bundle asks for: only a bundle that passes its own checks asks for anything, and one that its rotation alone
makes fault presents that rotation. A rotation is judged as if the other live cores presented it too. -/
def askOf (ex : Meaning) (s : State) (st : StrandId) : List (BitVec 2 × Intent) :=
  if presents s st then
    match rotationOf s st with
    | none => (asks ex s st (s.tileOf st.tile).intents).getD []
    | some r =>
      let base := (s.tileOf st.tile).intents ++
        (allCores.filter fun c => c != st.core && liveCore s st.tile c).map fun c => (c, r)
      let u := { s.modTile st.tile fun t => { t with intents := base } with focus := st, note := none }
      (asks ex s st base).getD (if turnsAlone ex u then [(st.core, r)] else [])
  else []

/-- Causes of a bundle that conflicts with another one of its tick: map conflict, route slot collision, RMW window, rotate
quorum (R216, R220, R284, R333). -/
def conflictCause (c : Byte) : Bool := c == 0x16 || c == 0x30 || c == 0x14 || c == 0x50

/-- Whether a core asks for a rotation. -/
def Intent.isRotation : Intent → Bool
  | .rotate _ _ => true
  | .change _ _ | .send _ | .book _ | .withdraw _ _ | .retire => false

/-- What stays of a core's requests whose bundle takes faults of these causes: nothing where one of them is no conflict, else
enough of each kind in conflict that the other bundle faults too. `turns`: its rotation alone makes it fault, so the rotation
stays presented (R220). -/
def contested (own : List (BitVec 2 × Intent)) (turns : Bool) (causes : List Byte) : List (BitVec 2 × Intent) :=
  let rot := own.any fun p => p.2.isRotation
  let stays := fun (c : Byte) => causes.all conflictCause && causes.contains c
  own.filterMap fun p =>
    match p.2 with
    | .change names _ => if stays 0x16 && (turns || !rot) then some (p.1, .change names []) else none
    | .rotate _ _ => if turns then some p else none
    | .send _ => if stays 0x30 then some p else none
    | .book _ => if stays 0x14 then some p else none
    | .withdraw _ _ => none
    | .retire => none

/-- The causes of the faulting slots of the bundle that the focus strand presents. -/
def causesOf (ex : Meaning) (s : State) : List Byte :=
  match slotsAt s s.focus with
  | none => [0x01]
  | some l =>
    let is := l.filterMap fun p => p.2
    if l.all (slotLegal s.focus.core) then (faultsOf ex (sharing ex is s) is).map fun x => x.1 else [0x02]

/-- Takes the steps that an issue has pushed. -/
def runPushed : Nat → State → State
  | 0, s => s
  | n + 1, s =>
    match s.todo with
    | .ev e :: rest =>
      match runEvent e { s with todo := rest } with
      | .next u => runPushed n u
      | .fault _ => s
      | .refused _ => s
    | _ => s

/-- A strand's issue with the steps that it pushes; nothing else of the tick is left to do. -/
def tryIssue (ex : Meaning) (st : StrandId) (s : State) : Option State :=
  match issueStrand ex st { s with todo := [] } with
  | .next u => some (runPushed 64 u)
  | .fault _ => none
  | .refused _ => none

/-- What each of a tile's bundles asks for when they issue one after another in the order of R208: what a bundle that issues
has asked for, and of one that faults what it still contests. `own` holds what each asks for alone. -/
def judge (ex : Meaning) (t : TileId) (own : List (BitVec 2 × List (BitVec 2 × Intent))) :
    List (BitVec 2) → State → List (BitVec 2 × Intent)
  | [], _ => []
  | c :: cs, s =>
    let st : StrandId := ⟨t, c⟩
    if presents s st then
      match tryIssue ex st s with
      | none => judge ex t own cs s
      | some u =>
        (match u.note with
          | none => ((u.tileOf t).intents.drop (s.tileOf t).intents.length).filter fun p => p.1 == c
          | some n => contested ((find own c).getD []) (turnsAlone ex { s with focus := st, note := none })
            (n.cause :: causesOf ex { s with focus := st, note := none })) ++
          judge ex t own cs u
    else judge ex t own cs s

/-- The requests of a tile's cores, judged beside one another until nothing changes.
DEDUCED: notes/assumptions/59.md. -/
def settleAsks (ex : Meaning) (t : TileId) (s : State) (own : List (BitVec 2 × List (BitVec 2 × Intent))) :
    Nat → List (BitVec 2 × Intent) → List (BitVec 2 × Intent)
  | 0, all => all
  | n + 1, all =>
    let next := judge ex t own (coreOrder (s.now t.claim)) (s.modTile t fun x => { x with intents := x.intents ++ all })
    if next = all then all else settleAsks ex t s own n next

/-- A tile's bundles of this tick are presented together: only those that issue, or conflict with one another, ask for
something. -/
def presentTile (ex : Meaning) (t : TileId) (s : State) : State :=
  let own := (coreOrder (s.now t.claim)).map fun c => (c, askOf ex s ⟨t, c⟩)
  let all := (own.map fun p => p.2).flatten
  if all.isEmpty then s
  else s.modTile t fun x => { x with intents := x.intents ++ settleAsks ex t s own 8 all }

end Sys2Proof.Machine
end

