-- ==== Sys2Proof/Machine/Tick.lean ====
section
/-!
DEFINITION. Time: one step of wall time and the tick of each claim that it brings (spec/01 R24, R27), the parts of a tick
in their order (spec/08 R207, R208), what closes a tick (R209, R260, R308, R336, R120), and a task of the present tick.
-/

namespace Sys2Proof.Machine

/-- Whether a claim's count moves: it runs, no late landing holds it (R281), and it waits for no other wafer at a boundary
(R363). -/
def isLive (s : State) (cl : Nat) : Bool :=
  isRunning s cl && (s.claimOf cl).frozen.isNone && (s.claimOf cl).parley.isNone

/-! ## The agenda entries of a tick -/

/-- The claim's first entry due now among those the predicate on places admits. -/
def dueEntry (s : State) (cl : Nat) (p : Nat → Bool) : Option Sched :=
  leastSched (s.agenda.filter fun e => e.claim == cl && decide (e.tick ≤ s.now cl) && p e.phase)

/-- The task that performs an agenda entry. -/
def Action.task : Action → Task
  | .ev i => .ev i
  | .read r => .read r

/-- Takes the next due entry, then this part of the tick again. -/
def takeDue (s : State) (cl : Nat) (p : Nat → Bool) (again : Task) : State :=
  match dueEntry s cl p with
  | none => s
  | some e => { s with agenda := s.agenda.erase e, todo := e.act.task :: again :: s.todo }

/-! ## The issues of a tick (R96, R208) -/

/-- The task by which a strand issues in this tick. -/
def issueTask (s : State) (st : StrandId) : List Task :=
  match (s.coreOf st).status with
  | .running => [.issue st]
  | .waiting => [.ev (.waitFormIssue st)]
  | .tkawait _ => if presents s st then [.ev (.tkawaitIssue st)] else []
  | .absent | .gate _ | .halted | .retired | .stopped => []

/-- The tasks of a tile: its bundles are presented, then issue core by core. -/
def tileIssues (s : State) (t : TileId) : List Task :=
  match ((coreOrder (s.now t.claim)).map fun c => issueTask s ⟨t, c⟩).flatten with
  | [] => []
  | l => .present t :: l

/-- The tiles of a claim. -/
def tilesOf (s : State) (cl : Nat) : List TileId := (s.tiles.filter fun p => p.1.claim = cl).map fun p => p.1

/-- Every tile whose reorder buffer holds an entry applies one in this tick (R335). -/
def planReductions (s : State) (cl : Nat) : State :=
  (tilesOf s cl).foldl (fun s t =>
    if (s.tileOf t).redBuf.isEmpty then s else s.planEv cl (s.now cl) phRead (.reductionApply t)) s

/-- The issues of a claim's tick. -/
def startIssues (s : State) (cl : Nat) : State :=
  let s := planReductions s cl
  { s with todo := ((tilesOf s cl).map (tileIssues s)).flatten ++ s.todo }

/-! ## What closes a tick -/

/-- The accesses that meet a bank in tick n; an array's steps of one tick are one access (R208, R209). -/
def meetings (t : Tile) (n : Nat) (bank : BitVec 6) : Nat :=
  (t.bookings.filter fun b => b.bank == bank && !b.window && decide (b.first ≤ n ∧ n ≤ b.last)).length +
    (t.touched.filter fun p => p.1 == bank).length

/-- The freeze cycles of a tile's tick (R209). DEDUCED: notes/assumptions/17.md. -/
def freezeOf (t : Tile) (n : Nat) : Nat :=
  if t.bookings.isEmpty ∧ t.touched.length ≤ 1 then 0
  else (allSlots.map fun b => meetings t n b - 1).foldl max 0

/-- The differences of a count that the labels of later flits still show (R267). -/
def keepOff (lh n : Nat) (l : List (Nat × BitVec 64)) : List (Nat × BitVec 64) :=
  let l := (l.filter fun p => decide (n ≤ p.1 + lh)) ++ (l.find? fun p => decide (p.1 + lh < n)).toList
  if l.all fun p => p.2 == 0 then [] else l

/-- One tile's tick closes: collisions freeze it, what was asked of it in the tick is forgotten. -/
def endTile (s : State) (t : TileId) : State :=
  let x := s.tileOf t
  let n := s.now t.claim
  let f := freezeOf x n
  let s := (applyWithdrawals s t).modTile t fun x => { x with
    collide := x.collide + BitVec.ofNat 64 f
    bookings := x.bookings.filter fun b => decide (n < b.last)
    touched := []
    taken := []
    locals := []
    outs := []
    intents := []
    offHist := keepOff s.lh n x.offHist }
  if f = 0 then s else addLag (modDocent s t fun d => { d with freezes := d.freezes + f }) t f

/-- Whether nothing of the tick is left on a tile to close. -/
def Tile.quiet (t : Tile) : Bool :=
  t.bookings.isEmpty && t.touched.isEmpty && t.taken.isEmpty && t.locals.isEmpty && t.outs.isEmpty && t.intents.isEmpty &&
    t.offHist.isEmpty

/-- The local trims that are due: one for every 1,024 cycles that a tile's own clock has run (R260). -/
def trimsDue (s : State) (cl : Nat) : List Task :=
  ((tilesOf s cl).map fun t => List.replicate (ownCycles s t / 1024 - (s.tileOf t).trimCycles) (.ev (.localTrimUpdate t))).flatten

/-- The contexts of a claim. -/
def ctxsOf (s : State) (cl : Nat) : List (CtxId × Ctx) :=
  s.ctxs.filter fun p => (p.2.owner.map fun o => o.tile.claim) = some cl

/-- Every tracker whose count has reached TCOUNT fires at the next tick (R308). -/
def fireTrackers (s : State) (cl : Nat) : State :=
  ((ctxsOf s cl).filter fun p => p.2.fires).foldl (fun s p => s.planEv cl (s.now cl + 1) phWire (.trackerFire p.1)) s

/-- The latest retirement tick of a claim's strands. -/
def lastRetirement (s : State) (cl : Nat) : Nat :=
  ((strandsOf s cl).map fun st => ((s.coreOf st).retiredAt).getD 0).foldl max 0

/-- Whether a tile's reorder buffer holds entries but not the one for N. -/
def redStuck (t : Tile) : Bool := !t.redBuf.isEmpty && !(t.redBuf.any fun e => e.idx == t.redN)

/-- Reduction gap (0x53): the entries that the buffer waits for can no longer be issued (R336). -/
def reductionGap (s : State) (cl : Nat) : State :=
  if allRetired s cl && decide (lastRetirement s cl < s.now cl) && !((s.claimOf cl).faults.any fun f => f.cause == 0x53) then
    match (tilesOf s cl).find? fun t => redStuck (s.tileOf t) with
    | some t => claimFault s t 0x53 0
    | none => s
  else s

/-- Whether nothing of a claim is still to complete: every strand has retired, no staging command is pending or of unknown
completion, no reduction waits (R120). -/
def allDone (s : State) (cl : Nat) : Bool :=
  allRetired s cl &&
  ((ctxsOf s cl).all fun p => p.2.pending.isNone && p.2.cmds.all fun c => c.finished.isSome) &&
  ((tilesOf s cl).all fun t => (s.tileOf t).redBuf.isEmpty) &&
  !(s.agenda.any fun e => e.claim == cl && match e.act with
    | .ev (.resultLanding _ (.redEntry _)) => true
    | _ => false)

/-- Z of R120. -/
def latestEnd (s : State) (cl : Nat) : Nat :=
  let c := s.claimOf cl
  let z := max (max c.start c.lastDone) (lastRetirement s cl)
  (s.agenda.filterMap fun e => if e.claim = cl then some e.done else none).foldl max z

/-- The command processor's evaluation is set for C once nothing is left to complete (R120).
DEDUCED: notes/assumptions/46.md. -/
def planEvaluation (s : State) (cl : Nat) : State :=
  let c := s.claimOf cl
  if c.evaluated || c.fatal.isSome || !allDone s cl then s
  else
    (s.modClaim cl fun c => { c with evaluated := true }).planEv cl (ceilTo s.wheel (latestEnd s cl + 320)) phWire
      (.claimEvaluation cl)

/-- A claim's tick closes. -/
def closeTick (s : State) (cl : Nat) : State :=
  let s := lagTick (((tilesOf s cl).filter fun t => !(s.tileOf t).quiet).foldl endTile s) cl
  let s := planEvaluation (reductionGap (fireTrackers s cl) cl) cl
  { s with todo := trimsDue s cl ++ s.todo }

/-! ## Tasks -/

/-- Runs one task of the present tick; a part of the tick of a claim whose count stands is passed over. -/
def runTask (ex : Meaning) (k : Task) (s : State) : Host.Outcome State Fault Refusal :=
  match k with
  | .ev e => runEvent e s
  | .read r => .next (lateRead s r)
  | .early cl => .next (if isLive s cl then takeDue s cl (fun p => decide (p < phRead)) (.early cl) else s)
  | .drift cl => .next (if isLive s cl then lostTick (nullErrors (driftTick s cl) cl) cl else s)
  | .issues cl => .next (if isLive s cl then startIssues s cl else s)
  | .present t => .next (if isLive s t.claim then presentTile ex t s else s)
  | .issue st => if isLive s st.tile.claim then issueStrand ex st s else .next s
  | .late cl => .next (if isLive s cl then takeDue s cl (fun p => decide (phRead ≤ p)) (.late cl) else s)
  | .endTick cl => .next (if isLive s cl then closeTick s cl else s)

/-! ## Wall time -/

/-- The requests that wait for a replay boundary of a claim, as the step of wall time that reaches it finds them (R122, R348).
DESIGN CHOICE: notes/assumptions/47.md. -/
def boundaryTasks (s : State) (cl : Nat) : List Task :=
  let c := s.claimOf cl
  if s.now cl % s.replay ≠ 0 then []
  else
    (if c.preempt then [.ev (.preemptionStop cl)] else []) ++
      c.moves.map fun m => .ev m.event

/-- The tasks of a claim's next tick, its count one higher; a claim held by a late landing spends a cycle of its freeze, up to its
limit (R281). -/
def claimTick (s : State) (cl : Nat) : State :=
  if !isRunning s cl || (s.claimOf cl).parley.isSome then s
  else
    match (s.claimOf cl).frozen with
    | some z =>
      if z.limit ≤ s.wall then { s with todo := s.todo ++ .ev (.landingLost z.tile z.tag (s.now cl)) :: tickTasks cl }
      else freezeCycle s z
    | none =>
      let s := turnWheels (s.modClaim cl fun c => { c with tick := c.tick + 1 }) cl 1
      { s with todo := s.todo ++ (boundaryTasks s cl ++ tickTasks cl) }

/-- The queues in rotation from the one whose turn it is, as numbers (R360). -/
def queueOrder (s : State) : List Nat := (List.range 64).map fun i => (s.turn + i) % 64

/-- The command processor reads at most one packet in a step of wall time, queue by queue in rotation (R360). -/
def servePackets (s : State) : State :=
  if s.power ≠ .running then s
  else
    match (queueOrder s).find? fun q => queueReady s (BitVec.ofNat 6 q) with
    | none => s
    | some q => { s with turn := (q + 1) % 64, todo := s.todo ++ [.ev (.packetRead (BitVec.ofNat 6 q))] }

/-- One cycle of the nominal rate passes for the wafer's rate keeper, in millionths of a cycle of fb, which throttles and cuts
lower (R260, R262): a wafer of a fleet takes its update after every 1,024 of these, with what its peer links showed last. -/
def keepRate (s : State) : State :=
  if s.fleet.isNone || s.power != .running then s
  else
    let acc := s.fbAcc + fbRate s
    if acc < trimInterval then { s with fbAcc := acc }
    else { s with fbAcc := acc, todo := s.todo ++ [.ev (.waferTrimUpdate s.peerLambda)] }

/-- One step of wall time: late switches roll back (R376), switches that waited are made (R374), what comes from outside
arrives, the wafer's rate is kept, the curator's core takes an instruction, the command processor takes a packet, every running
claim's count moves on by one. The boundary of a claim's tick is looked at here, before what comes from outside: a request that
arrives in this step counts for the next boundary (R122). DESIGN CHOICE: notes/assumptions/47.md. -/
def advance (s : State) : State :=
  let w := s.wall + 1
  let s := keepRate { s with
    wall := w
    todo := ((lateControllers s).map fun c => .ev (.rollback c)) ++
      ((readyControllers s).map fun c => .ev (.firmwareSwitch c)) ++
      ((s.inputs.filter fun p => p.1 ≤ w).map fun p => .ev p.2)
    inputs := s.inputs.filter fun p => decide (w < p.1) }
  let s := servePackets (stepCurator s)
  (s.claims.map fun p => p.1).foldl claimTick s

/-- One step of the machine: the next task of the present tick, or the next step of wall time. -/
def stepWith (ex : Meaning) (s : State) : Host.Outcome State Fault Refusal :=
  match s.todo with
  | [] => .next (advance s)
  | k :: rest => runTask ex k { s with todo := rest }

/-! ## A bundle placed from outside (notes/assumptions/12.md) -/

/-- The strand of core 0 of tile (0, 0) of claim 0. -/
def probeStrand : StrandId := ⟨⟨0, 0, 0⟩, 0⟩

/-- A partition word with one instruction bank for core 0 and 63 scratchpad banks (R196). -/
def probePart : Quad := 0x00000003F0000001

/-- A running claim of one field whose strand on core 0 of tile (0, 0) issues the given bundle next.
DESIGN CHOICE: notes/assumptions/12.md. -/
def placeBundle (s : State) (bytes : List Byte) : State :=
  { s with
    claims := put s.claims 0 { Claim.absent with fw := 1, fh := 1, run := .running }
    tiles := put s.tiles probeStrand.tile { Tile.fresh 0 0 with part := probePart, sram := Memory.writeList [] 0 bytes }
    cores := put s.cores probeStrand { Core.fresh with status := .running }
    todo := [.issue probeStrand] }

end Sys2Proof.Machine
end

