-- ==== Sys2Proof/Machine/Step.lean ====
section
/-!
DEFINITION. The step of the machine, and the placement of one instruction where the next step issues it.
-/

namespace Sys2Proof.Machine

/-- One step: the next task of the present tick, with the meanings of Dispatch.lean, or the next step of wall time. -/
def step (s : State) : Host.Outcome State Fault Refusal := stepWith exec s

namespace State

/-- The module with a program of one bundle loaded from outside (notes/assumptions/12.md): claim 0 of one field runs, core
0 of its tile (0, 0) holds one instruction bank with the bundle at address 0, and the strand's issue is the next task. -/
def withFetchWord (s : State) (nbits w : Nat) : State := placeBundle s (leBytes 41 (w % 2 ^ nbits))

end State

end Sys2Proof.Machine
end

