-- ==== Sys2Proof/Safety.lean ====
section
/-!
DEFINITION. What the statements speak of: the invariants of a run, what an instruction leaves unchanged, and the value that
the spec gives each form of a family, written from the spec's words in plain arithmetic.
-/

namespace Sys2Proof.Machine

/-! ## Invariants -/

/-- The fabric parameters have legal values (spec/01 R25, R40; spec/10 R266, R277): the latency of a fleet's peer links is a multiple
of its wheel. -/
def FabricLegal (s : State) : Prop :=
  (s.lh = 6 ∨ s.lh = 8) ∧ (s.wheel = 32 ∨ s.wheel = 48 ∨ s.wheel = 64) ∧ (10 ≤ s.replayLog2 ∧ s.replayLog2 ≤ 16) ∧
    512 ≤ s.lp ∧ s.lp ≤ 16384 ∧ (s.fleet ≠ none → s.lp % s.wheel = 0)

/-- Far memory, every tile's SRAM and every controller's memory are in their one canonical form. -/
def MemoryCanonical (s : State) : Prop :=
  s.far.wf = true ∧ (∀ p ∈ s.tiles, p.2.sram.wf = true) ∧ ∀ p ∈ s.ctls, p.2.mem.wf = true

/-! ## What is left unchanged -/

/-- Every byte that a read can deliver, of every bank of every tile and of far memory, is unchanged. -/
def BytesKept (s u : State) : Prop :=
  (∀ t bank off, (u.tileOf t).byteView bank off = (s.tileOf t).byteView bank off) ∧ ∀ a, u.far.read a = s.far.read a

/-- The focus strand's syllable took a bundle fault: the fault changed nothing but what `State.fault` changes. -/
def TookFault (s u : State) : Prop := ∃ cls cause data, u = s.fault cls cause data

/-- A landing of the focus strand that writes at most the registers of `w` and the latches of `ls`. -/
def LandsOnly (s : State) (w : List RegWrite → Prop) (ls : List Latch) (e : Sched) : Prop :=
  e.claim = s.focus.tile.claim ∧ s.t < e.tick ∧ ∃ regs latch, w regs ∧ (∀ x, latch = some x → x.1 ∈ ls) ∧
    e.act = .ev (.resultLanding s.focus (.result regs latch))

/-- The frame of a form that only writes a result: either it took a fault, or the whole state is as it was but for the
focus strand's taint (spec/13 R343) and at most one landing to come, which names the destination and the unit's latch. -/
def ResultFrame (s u : State) (w : List RegWrite → Prop) (ls : List Latch) : Prop :=
  TookFault s u ∨ ∃ p l, u = { s.taintIf p with agenda := s.agenda ++ l } ∧ l.length ≤ 1 ∧ ∀ e ∈ l, LandsOnly s w ls e

/-- A register write that names a g destination, or none where the destination is suppressed. -/
def WritesG (d : Dst 6) (l : List RegWrite) : Prop := ∀ r ∈ l, ∃ i v, d = .reg i ∧ r = .g i v
def WritesA (d : Dst 4) (l : List RegWrite) : Prop := ∀ r ∈ l, ∃ i v, d = .reg i ∧ r = .a i v
def WritesV (d : Dst 6) (l : List RegWrite) : Prop := ∀ r ∈ l, ∃ i v en, d = .reg i ∧ r = .v i v en
def WritesK (d : Dst 4) (l : List RegWrite) : Prop := ∀ r ∈ l, ∃ i v en, d = .reg i ∧ r = .k i v en
/-- A register write into the pair D, D+1 (spec/02 R53). -/
def WritesPair (d : Dst 5) (l : List RegWrite) : Prop :=
  ∀ r ∈ l, ∃ i v en, d = .reg i ∧ (r = .v (i ++ 0#1) v en ∨ r = .v (i ++ 1#1) v en)

/-- The state in which a strand presents its bundle: its task is taken from the list, it is the focus, no fault is noted. -/
def presenting (s : State) (st : StrandId) (rest : List Task) : State := { s with todo := rest, focus := st, note := none }

/-! ## The bundle that follows (spec/04 R107) -/

/-- The loop of R107 over the stack, for the bundle at `at_` with the sequential successor q: the next address and the stack. -/
def flowAfter (at_ q : BitVec 64) : List LoopEntry → BitVec 64 × List LoopEntry
  | [] => (q, [])
  | top :: rest =>
    if q.toNat = top.stop.toNat then
      (if top.count ≤ 1 then flowAfter at_ q rest else (top.start, { top with count := top.count - 1 } :: rest))
    else if at_.toNat < top.stop.toNat ∧ top.stop.toNat < q.toNat then flowAfter at_ q rest
    else (q, top :: rest)

/-! ## Values of the scalar forms (spec/05 R126 to R131, R133) -/

/-- An integer modulo 2^32. -/
def wordOf (v : Int) : Word := BitVec.ofInt 32 v

/-- The arithmetic and logic forms of two g sources: the form, its exposed latency (spec/04 R97), its value. -/
def scalarArithmetic : List ((SG3 6 6 6 → Instr) × Nat × (Word → Word → Word)) :=
  [(.add, 1, fun a b => wordOf (a.toInt + b.toInt)),
   (.sub, 1, fun a b => wordOf (a.toInt - b.toInt)),
   (.and, 1, fun a b => BitVec.ofNat 32 (a.toNat &&& b.toNat)),
   (.or, 1, fun a b => BitVec.ofNat 32 (a.toNat ||| b.toNat)),
   (.xor, 1, fun a b => BitVec.ofNat 32 (a.toNat ^^^ b.toNat)),
   (.andn, 1, fun a b => BitVec.ofNat 32 (a.toNat &&& (2 ^ 32 - 1 - b.toNat))),
   (.mul, 3, fun a b => wordOf (a.toInt * b.toInt)),
   (.mulh, 3, fun a b => wordOf (a.toInt * b.toInt / 2 ^ 32)),
   (.mulhn, 3, fun a b => BitVec.ofNat 32 (a.toNat * b.toNat / 2 ^ 32)),
   (.div, 12, fun a b => if b = 0 then wordOf (-1) else wordOf (a.toInt.tdiv b.toInt)),
   (.divn, 12, fun a b => if b = 0 then wordOf (-1) else BitVec.ofNat 32 (a.toNat / b.toNat)),
   (.rem, 12, fun a b => if b = 0 then a else wordOf (a.toInt.tmod b.toInt)),
   (.remn, 12, fun a b => if b = 0 then a else BitVec.ofNat 32 (a.toNat % b.toNat))]

/-- The shifts, minimum and maximum forms and compares of two g sources. -/
def scalarShiftCompare : List ((SG3 6 6 6 → Instr) × Nat × (Word → Word → Word)) :=
  [(.shl, 1, fun a b => if b.toNat < 32 then BitVec.ofNat 32 (a.toNat * 2 ^ b.toNat) else 0),
   (.shr, 1, fun a b => if b.toNat < 32 then BitVec.ofNat 32 (a.toNat / 2 ^ b.toNat) else 0),
   (.sra, 1, fun a b => if b.toNat < 32 then wordOf (a.toInt / 2 ^ b.toNat) else wordOf (if a.toInt < 0 then -1 else 0)),
   (.rol, 1, fun a b => BitVec.ofNat 32 (a.toNat * 2 ^ (b.toNat % 32) + a.toNat / 2 ^ (32 - b.toNat % 32))),
   (.min, 1, fun a b => wordOf (min a.toInt b.toInt)),
   (.max, 1, fun a b => wordOf (max a.toInt b.toInt)),
   (.minn, 1, fun a b => BitVec.ofNat 32 (min a.toNat b.toNat)),
   (.maxn, 1, fun a b => BitVec.ofNat 32 (max a.toNat b.toNat)),
   (.ceq, 1, fun a b => if a.toNat = b.toNat then 1 else 0),
   (.cne, 1, fun a b => if a.toNat = b.toNat then 0 else 1),
   (.clt, 1, fun a b => if a.toInt < b.toInt then 1 else 0),
   (.cltn, 1, fun a b => if a.toNat < b.toNat then 1 else 0),
   (.cle, 1, fun a b => if b.toInt < a.toInt then 0 else 1),
   (.clen, 1, fun a b => if b.toNat < a.toNat then 0 else 1)]

/-- The guarded S forms of two g sources. -/
def scalarBinary : List ((SG3 6 6 6 → Instr) × Nat × (Word → Word → Word)) := List.append scalarArithmetic scalarShiftCompare

/-- The guarded S forms of one g source. -/
def scalarUnary : List ((SG2 6 6 → Instr) × (Word → Word)) :=
  [(.clz, fun a => BitVec.ofNat 32 ((List.range 32).takeWhile fun i => a.getLsbD (31 - i) = false).length),
   (.ctz, fun a => BitVec.ofNat 32 ((List.range 32).takeWhile fun i => a.getLsbD i = false).length),
   (.popc, fun a => BitVec.ofNat 32 ((List.range 32).countP fun i => a.getLsbD i))]

/-- The immediate forms of one g source: the immediate of `andi`, `ori` and `xori` is zero-extended, that of the others
sign-extended (spec/02 R58). -/
def scalarImmediate : List ((SI 6 → Instr) × (Word → BitVec 18 → Word)) :=
  [(.addi, fun a i => wordOf (a.toInt + i.toInt)),
   (.andi, fun a i => BitVec.ofNat 32 (a.toNat &&& i.toNat)),
   (.ori, fun a i => BitVec.ofNat 32 (a.toNat ||| i.toNat)),
   (.xori, fun a i => BitVec.ofNat 32 (a.toNat ^^^ i.toNat)),
   (.ceqi, fun a i => if a.toInt = i.toInt then 1 else 0),
   (.clti, fun a i => if a.toInt < i.toInt then 1 else 0)]

/-- The immediate shifts. -/
def scalarShiftImmediate : List ((SSh → Instr) × (Word → Nat → Word)) :=
  [(.shli, fun a n => BitVec.ofNat 32 (a.toNat * 2 ^ n)),
   (.shri, fun a n => BitVec.ofNat 32 (a.toNat / 2 ^ n)),
   (.srai, fun a n => wordOf (a.toInt / 2 ^ n))]

/-- A field of n bits as a signed number. -/
def signedField (n f : Nat) : Int := if f < 2 ^ (n - 1) then f else (f : Int) - 2 ^ n

/-- The bit-field reads, of `n` bits from bit `pos` on (spec/05 R134). -/
def scalarBitField : List ((SBf → Instr) × (Word → Nat → Nat → Word)) :=
  [(.bfx, fun a pos n => BitVec.ofNat 32 (a.toNat / 2 ^ pos % 2 ^ n)),
   (.bfxs, fun a pos n => wordOf (signedField n (a.toNat / 2 ^ pos % 2 ^ n)))]

/-! ## Values of the vector forms (spec/07) -/

/-- The two-source floating forms: exposed latency, and the element as a function of the two elements (R171, R172). -/
def floatBinary : List ((VG3 6 6 6 FTy → Instr) × Nat × (FTy → Nat → Nat → Nat)) :=
  [(.fadd, 3, fun t a b => roundNum t ((decodeNum (.flt t) a).add (decodeNum (.flt t) b))),
   (.fsub, 3, fun t a b => roundNum t ((decodeNum (.flt t) a).add (decodeNum (.flt t) b).neg)),
   (.fmul, 4, fun t a b => roundNum t ((decodeNum (.flt t) a).mul (decodeNum (.flt t) b))),
   (.fmin, 3, fun t a b => fminCode (.flt t) a b),
   (.fmax, 3, fun t a b => fmaxCode (.flt t) a b)]

/-- The codes of +∞, of the canonical NaN and of 1 in a type (R60, R139). -/
def specialCodes : FTy → Nat × Nat × Nat
  | .fp32 => (0x7F800000, 0x7FC00000, 0x3F800000)
  | .bf16 => (0x7F80, 0x7FC0, 0x3F80)
  | .fp16 => (0x7C00, 0x7E00, 0x3C00)

/-- The one-source floating forms (R172, R174): `fabs` clears the sign bit and `fneg` changes it. -/
def floatUnary : List ((VG2 6 6 FTy → Instr) × Nat × (FTy → Nat → Nat)) :=
  [(.fabs, 3, fun t a => if a < 2 ^ ((Fmt.flt t).width - 1) then a else a - 2 ^ ((Fmt.flt t).width - 1)),
   (.fneg, 3, fun t a => if a < 2 ^ ((Fmt.flt t).width - 1) then a + 2 ^ ((Fmt.flt t).width - 1)
      else a - 2 ^ ((Fmt.flt t).width - 1)),
   (.frcp, 6, frcpCode), (.frsq, 6, frsqCode), (.fexp2, 6, fexp2Code), (.flog2, 6, flog2Code)]

/-- The fused forms: one rounding of the exact a x b + c, a x b - c, -(a x b) + c (R173). -/
def floatFused : List ((VG4 6 6 FTy → Instr) × (Num → Num → Num → Num)) :=
  [(.fma, fun a b c => (a.mul b).add c), (.fms, fun a b c => (a.mul b).add c.neg), (.fnma, fun a b c => (a.mul b).neg.add c)]

/-- The floating compares: the relation of two values that are not NaN, and the answer when one is NaN (R176). -/
def floatCompare : List ((VG3 4 6 6 FTy → Instr) × Bool × (Ordering → Bool)) :=
  [(.fcmpEq, false, fun r => r == .eq), (.fcmpNe, true, fun r => r != .eq), (.fcmpLt, false, fun r => r == .lt),
   (.fcmpLe, false, fun r => r != .gt), (.fcmpUn, true, fun _ => false)]

/-- The integer an element stands for (spec/06 R141). -/
def intElem (t : ITy) (c : Nat) : Int :=
  if t.signed && decide (2 ^ (8 * t.size.bytes - 1) ≤ c) then (c : Int) - 2 ^ (8 * t.size.bytes) else c

/-- The two-source integer forms: latency, and the exact integer that the element keeps modulo 2^w (R177, R178). -/
def intBinary : List ((VG3 6 6 6 ITy → Instr) × Nat × (ITy → Int → Int → Int)) :=
  [(fun o => .iadd o false, 3, fun _ a b => a + b), (fun o => .isub o false, 3, fun _ a b => a - b),
   (fun o => .imul o false, 4, fun _ a b => a * b), (.imulh, 4, fun t a b => a * b / 2 ^ (8 * t.size.bytes)),
   (.imin, 3, fun _ a b => if a ≤ b then a else b), (.imax, 3, fun _ a b => if a ≤ b then b else a)]

/-- The forms with SAT = 1: the exact integer is clamped to the format's range (R177). -/
def intSaturating : List ((VG3 6 6 6 ITy → Instr) × Nat × (Int → Int → Int)) :=
  [(fun o => .iadd o true, 3, fun a b => a + b), (fun o => .isub o true, 3, fun a b => a - b),
   (fun o => .imul o true, 4, fun a b => a * b)]

/-- The bitwise forms: bit i of the result (R177). -/
def intBitwise : List ((VG3 6 6 6 ITy → Instr) × (Bool → Bool → Bool)) :=
  [(.iand, fun a b => a && b), (.ior, fun a b => a || b), (.ixor, fun a b => a != b)]

/-- The shifts: the element as a function of the element's code and the count (R178). -/
def intShift : List ((VG3 6 6 6 ITy → Instr) × (Nat → Nat → Nat → Nat)) :=
  [(.ishl, fun w a n => if n < w then a * 2 ^ n % 2 ^ w else 0), (.ishr, fun w a n => if n < w then a / 2 ^ n else 0),
   (.isra, fun w a n =>
      if 2 ^ (w - 1) ≤ a then (if n < w then 2 ^ w - 1 - (2 ^ w - 1 - a) / 2 ^ n else 2 ^ w - 1)
      else if n < w then a / 2 ^ n else 0)]

/-- The integer compares (R176). -/
def intCompare : List ((VG3 4 6 6 ITy → Instr) × (Int → Int → Bool)) :=
  [(.icmpEq, fun a b => decide (a = b)), (.icmpNe, fun a b => decide (a ≠ b)), (.icmpLt, fun a b => decide (a < b)),
   (.icmpLe, fun a b => decide (¬ b < a))]

/-- The mask forms of two sources, bit by bit (R185). -/
def maskBinary : List ((VG3 4 4 4 Unit → Instr) × (Bool → Bool → Bool)) :=
  [(.kand, fun a b => a && b), (.kor, fun a b => a || b), (.kxor, fun a b => a != b)]

/-- The pairwise tree of R184: `pairwise f x k i` joins the 2^k elements from element i x 2^k on, two by two. -/
def pairwise (f : Nat → Nat → Nat) (x : Nat → Nat) : Nat → Nat → Nat
  | 0, i => x i
  | k + 1, i => f (pairwise f x k (2 * i)) (pairwise f x k (2 * i + 1))

/-- The number of levels of the tree over a register's elements. -/
def treeLevels (t : Fmt) : Nat := match t.width with | 32 => 4 | 16 => 5 | _ => 6

/-- A 32-bit value that a reduction widens an element to (R184): an integer extended by its sign, any other code as fp32. -/
def widened (t : Fmt) (c : Nat) : Nat :=
  match t with
  | .int i => (intElem i c % 2 ^ 32).toNat
  | f => convert f (.flt .fp32) .rne false c 0

/-- The order of two 32-bit integers that a reduction of the type compares by. -/
def reducedLe (i : ITy) (x y : Nat) : Bool := decide (intElem ⟨i.signed, .w⟩ x ≤ intElem ⟨i.signed, .w⟩ y)

/-- The element i of a `qblk` source: a bf16 register, or a pair of fp32 registers (R161). -/
def blockSource (s : State) (o : XF 6 6 Fam BTy) (i : Nat) : Num :=
  match o.ff with
  | .bf16 => decodeNum (.flt .bf16) (elem 16 (s.me.srcV o.a).val i)
  | .fp32 => match o.a with
    | .reg n => decodeNum (.flt .fp32)
        (if i < 16 then elem 32 (s.me.readV n).val i else elem 32 (s.me.readV (n + 1)).val (i - 16))
    | .latch _ => .nan

/-- The exact value of a finite number. -/
def Num.rational : Num → Option ℚ
  | .fin n m e => some ((if n then -1 else 1) * (m : ℚ) * (2 : ℚ) ^ e)
  | .nan => none
  | .inf _ => none

/-! ## The forms whose only effect is a result -/

/-- For every S form, every V form, `scnt` and `bmap`: the registers that it may write (spec/02 R51 to R53) and its latch
(R48). -/
def resultForm : Instr → Option ((List RegWrite → Prop) × List Latch)
  | .movi sl d _ => some (WritesG d, [sLatch sl])
  | .movhi sl w d _ => some (WritesG (if w then Dst.none else .reg d), [sLatch sl])
  | .add o => some (WritesG o.d, [sLatch o.sl])
  | .addi o => some (WritesG o.d, [sLatch o.sl])
  | .sub o => some (WritesG o.d, [sLatch o.sl])
  | .and o => some (WritesG o.d, [sLatch o.sl])
  | .andi o => some (WritesG o.d, [sLatch o.sl])
  | .or o => some (WritesG o.d, [sLatch o.sl])
  | .ori o => some (WritesG o.d, [sLatch o.sl])
  | .xor o => some (WritesG o.d, [sLatch o.sl])
  | .xori o => some (WritesG o.d, [sLatch o.sl])
  | .andn o => some (WritesG o.d, [sLatch o.sl])
  | .mul o => some (WritesG o.d, [sLatch o.sl])
  | .mulh o => some (WritesG o.d, [sLatch o.sl])
  | .mulhn o => some (WritesG o.d, [sLatch o.sl])
  | .div o => some (WritesG o.d, [sLatch o.sl])
  | .divn o => some (WritesG o.d, [sLatch o.sl])
  | .rem o => some (WritesG o.d, [sLatch o.sl])
  | .remn o => some (WritesG o.d, [sLatch o.sl])
  | .shl o => some (WritesG o.d, [sLatch o.sl])
  | .shli o => some (WritesG o.d, [sLatch o.sl])
  | .shr o => some (WritesG o.d, [sLatch o.sl])
  | .shri o => some (WritesG o.d, [sLatch o.sl])
  | .sra o => some (WritesG o.d, [sLatch o.sl])
  | .srai o => some (WritesG o.d, [sLatch o.sl])
  | .rol o => some (WritesG o.d, [sLatch o.sl])
  | .min o => some (WritesG o.d, [sLatch o.sl])
  | .max o => some (WritesG o.d, [sLatch o.sl])
  | .minn o => some (WritesG o.d, [sLatch o.sl])
  | .maxn o => some (WritesG o.d, [sLatch o.sl])
  | .ceq o => some (WritesG o.d, [sLatch o.sl])
  | .cne o => some (WritesG o.d, [sLatch o.sl])
  | .clt o => some (WritesG o.d, [sLatch o.sl])
  | .cltn o => some (WritesG o.d, [sLatch o.sl])
  | .cle o => some (WritesG o.d, [sLatch o.sl])
  | .clen o => some (WritesG o.d, [sLatch o.sl])
  | .ceqi o => some (WritesG o.d, [sLatch o.sl])
  | .clti o => some (WritesG o.d, [sLatch o.sl])
  | .sel o => some (WritesG o.d, [sLatch o.sl])
  | .clz o => some (WritesG o.d, [sLatch o.sl])
  | .ctz o => some (WritesG o.d, [sLatch o.sl])
  | .popc o => some (WritesG o.d, [sLatch o.sl])
  | .bfx o => some (WritesG o.d, [sLatch o.sl])
  | .bfxs o => some (WritesG o.d, [sLatch o.sl])
  | .bfi sl w d _ _ _ => some (WritesG (if w then Dst.none else .reg d), [sLatch sl])
  | .aadd o => some (WritesA o.d, [sLatch o.sl])
  | .aaddi o => some (WritesA o.d, [sLatch o.sl])
  | .asub o => some (WritesA o.d, [sLatch o.sl])
  | .amk o => some (WritesA o.d, [sLatch o.sl])
  | .ahi o => some (WritesG o.d, [sLatch o.sl])
  | .alo o => some (WritesG o.d, [sLatch o.sl])
  | .kset o => some (WritesK o.d, [sLatch o.sl])
  | .kget o => some (WritesG o.d, [sLatch o.sl])
  | .fadd o => some (WritesV o.d, [vLatch o.sl])
  | .fsub o => some (WritesV o.d, [vLatch o.sl])
  | .fmul o => some (WritesV o.d, [vLatch o.sl])
  | .fmin o => some (WritesV o.d, [vLatch o.sl])
  | .fmax o => some (WritesV o.d, [vLatch o.sl])
  | .fabs o => some (WritesV o.d, [vLatch o.sl])
  | .fneg o => some (WritesV o.d, [vLatch o.sl])
  | .fma o => some (WritesV (if o.w then Dst.none else .reg o.d), [vLatch o.sl])
  | .fms o => some (WritesV (if o.w then Dst.none else .reg o.d), [vLatch o.sl])
  | .fnma o => some (WritesV (if o.w then Dst.none else .reg o.d), [vLatch o.sl])
  | .frcp o => some (WritesV o.d, [vLatch o.sl])
  | .frsq o => some (WritesV o.d, [vLatch o.sl])
  | .fexp2 o => some (WritesV o.d, [vLatch o.sl])
  | .flog2 o => some (WritesV o.d, [vLatch o.sl])
  | .dot2 o => some (WritesV o.d, [vLatch o.sl])
  | .fcmpEq o => some (WritesK o.d, [vLatch o.sl])
  | .fcmpNe o => some (WritesK o.d, [vLatch o.sl])
  | .fcmpLt o => some (WritesK o.d, [vLatch o.sl])
  | .fcmpLe o => some (WritesK o.d, [vLatch o.sl])
  | .fcmpUn o => some (WritesK o.d, [vLatch o.sl])
  | .iadd o _ => some (WritesV o.d, [vLatch o.sl])
  | .isub o _ => some (WritesV o.d, [vLatch o.sl])
  | .imul o _ => some (WritesV o.d, [vLatch o.sl])
  | .imulh o => some (WritesV o.d, [vLatch o.sl])
  | .imad o _ => some (WritesV (if o.w then Dst.none else .reg o.d), [vLatch o.sl])
  | .iand o => some (WritesV o.d, [vLatch o.sl])
  | .ior o => some (WritesV o.d, [vLatch o.sl])
  | .ixor o => some (WritesV o.d, [vLatch o.sl])
  | .imin o => some (WritesV o.d, [vLatch o.sl])
  | .imax o => some (WritesV o.d, [vLatch o.sl])
  | .ishl o => some (WritesV o.d, [vLatch o.sl])
  | .ishr o => some (WritesV o.d, [vLatch o.sl])
  | .isra o => some (WritesV o.d, [vLatch o.sl])
  | .icmpEq o => some (WritesK o.d, [vLatch o.sl])
  | .icmpNe o => some (WritesK o.d, [vLatch o.sl])
  | .icmpLt o => some (WritesK o.d, [vLatch o.sl])
  | .icmpLe o => some (WritesK o.d, [vLatch o.sl])
  | .vsel o => some (WritesV o.d, [vLatch o.sl])
  | .vbc o => some (WritesV o.d, [vLatch o.sl])
  | .vmov o => some (WritesV o.d, [vLatch o.sl])
  | .vmovi sl d _ _ _ => some (WritesV d, [vLatch sl])
  | .vext o => some (WritesG o.d, [vLatch o.sl])
  | .vins o => some (WritesV (if o.w then Dst.none else .reg o.d), [vLatch o.sl])
  | .vperm o => some (WritesV o.d, [vLatch o.sl])
  | .vrot o => some (WritesV o.d, [vLatch o.sl])
  | .vzip o => some (WritesPair o.d, [vLatch o.sl])
  | .vunzip o => some (WritesPair o.d, [vLatch o.sl])
  | .vsum o => some (WritesG o.d, [vLatch o.sl])
  | .vmaxr o => some (WritesG o.d, [vLatch o.sl])
  | .kand o => some (WritesK o.d, [vLatch o.sl])
  | .kor o => some (WritesK o.d, [vLatch o.sl])
  | .kxor o => some (WritesK o.d, [vLatch o.sl])
  | .knot o => some (WritesK o.d, [vLatch o.sl])
  | .kcnt o => some (WritesG o.d, [vLatch o.sl])
  | .scnt d _ _ => some (WritesG d, [.cv])
  | .bmap d _ _ => some (WritesG d, [.cv])
  | _ => none

/-! ## The guarded forms that are no lane forms (spec/02 R55) -/

/-- The guard of a guarded form that is not a lane form. -/
def nonLaneGuard : Instr → Option Guard
  | .add o => some o.g
  | .sub o => some o.g
  | .and o => some o.g
  | .or o => some o.g
  | .xor o => some o.g
  | .andn o => some o.g
  | .mul o => some o.g
  | .mulh o => some o.g
  | .mulhn o => some o.g
  | .div o => some o.g
  | .divn o => some o.g
  | .rem o => some o.g
  | .remn o => some o.g
  | .shl o => some o.g
  | .shr o => some o.g
  | .sra o => some o.g
  | .rol o => some o.g
  | .min o => some o.g
  | .max o => some o.g
  | .minn o => some o.g
  | .maxn o => some o.g
  | .ceq o => some o.g
  | .cne o => some o.g
  | .clt o => some o.g
  | .cltn o => some o.g
  | .cle o => some o.g
  | .clen o => some o.g
  | .clz o => some o.g
  | .ctz o => some o.g
  | .popc o => some o.g
  | .aadd o => some o.g
  | .asub o => some o.g
  | .amk o => some o.g
  | .ahi o => some o.g
  | .alo o => some o.g
  | .kset o => some o.g
  | .kget o => some o.g
  | .vext o => some o.g
  | .vsum o => some o.g
  | .vmaxr o => some o.g
  | .kand o => some o.g
  | .kor o => some o.g
  | .kxor o => some o.g
  | .knot o => some o.g
  | .kcnt o => some o.g
  | .ldB o => some o.g
  | .ldBn o => some o.g
  | .ldH o => some o.g
  | .ldHn o => some o.g
  | .ldW o => some o.g
  | .stB o => some o.g
  | .stH o => some o.g
  | .stW o => some o.g
  | .amoAdd o => some o.g
  | .amoAnd o => some o.g
  | .amoOr o => some o.g
  | .amoXor o => some o.g
  | .amoMin o => some o.g
  | .amoMax o => some o.g
  | .amoXchg o => some o.g
  | .amoCas _ o => some o.g
  | .rngSeed _ _ g => some g
  | .rngPop _ g => some g
  | .spop _ _ g => some g
  | .scnt _ _ g => some g
  | .sreset _ g => some g
  | .bgive o _ _ => some o.g
  | .blend o _ _ => some o.g
  | .bback o => some o.g
  | .brot o => some o.g
  | .brotRev o => some o.g
  | .bmap _ _ g => some g
  | .bfmt o _ => some o.g
  | .bzero o => some o.g
  | .bcopy o _ _ _ => some o.g
  | .mshape _ _ _ g => some g
  | .mma _ _ _ _ g => some g
  | .mqnt o _ _ => some o.g
  | .ret _ g => some g
  | .halt g => some g
  | .wsplit _ _ g => some g
  | .wret _ g => some g
  | .jcbAdd _ g => some g
  | .jcbPost g => some g
  | .npreOn g => some g
  | .npreOff g => some g
  | .fenceAcq _ g => some g
  | .fenceRel _ g => some g
  | .fenceAr _ g => some g
  | .fenceSc _ g => some g
  | .waitaEq o _ => some o.g
  | .waitaNe o _ => some o.g
  | .waitaGen o _ => some o.g
  | _ => none

/-! ## The latches that a form reads (spec/02 R50) -/

/-- The latch that a source names. -/
def latchOfSrc {n : Nat} : Src n → List Latch
  | .reg _ => []
  | .latch l => [l]

/-- The latches that a form's sources name; the source of `vpk` is a register pair (R162). -/
def latchesRead : Instr → List Latch
  | .add o => latchOfSrc o.a ++ latchOfSrc o.b
  | .addi o => latchOfSrc o.a
  | .sub o => latchOfSrc o.a ++ latchOfSrc o.b
  | .and o => latchOfSrc o.a ++ latchOfSrc o.b
  | .andi o => latchOfSrc o.a
  | .or o => latchOfSrc o.a ++ latchOfSrc o.b
  | .ori o => latchOfSrc o.a
  | .xor o => latchOfSrc o.a ++ latchOfSrc o.b
  | .xori o => latchOfSrc o.a
  | .andn o => latchOfSrc o.a ++ latchOfSrc o.b
  | .mul o => latchOfSrc o.a ++ latchOfSrc o.b
  | .mulh o => latchOfSrc o.a ++ latchOfSrc o.b
  | .mulhn o => latchOfSrc o.a ++ latchOfSrc o.b
  | .div o => latchOfSrc o.a ++ latchOfSrc o.b
  | .divn o => latchOfSrc o.a ++ latchOfSrc o.b
  | .rem o => latchOfSrc o.a ++ latchOfSrc o.b
  | .remn o => latchOfSrc o.a ++ latchOfSrc o.b
  | .shl o => latchOfSrc o.a ++ latchOfSrc o.b
  | .shli o => latchOfSrc o.a
  | .shr o => latchOfSrc o.a ++ latchOfSrc o.b
  | .shri o => latchOfSrc o.a
  | .sra o => latchOfSrc o.a ++ latchOfSrc o.b
  | .srai o => latchOfSrc o.a
  | .rol o => latchOfSrc o.a ++ latchOfSrc o.b
  | .min o => latchOfSrc o.a ++ latchOfSrc o.b
  | .max o => latchOfSrc o.a ++ latchOfSrc o.b
  | .minn o => latchOfSrc o.a ++ latchOfSrc o.b
  | .maxn o => latchOfSrc o.a ++ latchOfSrc o.b
  | .ceq o => latchOfSrc o.a ++ latchOfSrc o.b
  | .cne o => latchOfSrc o.a ++ latchOfSrc o.b
  | .clt o => latchOfSrc o.a ++ latchOfSrc o.b
  | .cltn o => latchOfSrc o.a ++ latchOfSrc o.b
  | .cle o => latchOfSrc o.a ++ latchOfSrc o.b
  | .clen o => latchOfSrc o.a ++ latchOfSrc o.b
  | .ceqi o => latchOfSrc o.a
  | .clti o => latchOfSrc o.a
  | .sel o => latchOfSrc o.a ++ latchOfSrc o.b
  | .clz o => latchOfSrc o.a
  | .ctz o => latchOfSrc o.a
  | .popc o => latchOfSrc o.a
  | .bfx o => latchOfSrc o.a
  | .bfxs o => latchOfSrc o.a
  | .bfi _ _ _ a _ _ => latchOfSrc a
  | .aadd o => latchOfSrc o.a ++ latchOfSrc o.b
  | .aaddi o => latchOfSrc o.a
  | .asub o => latchOfSrc o.a ++ latchOfSrc o.b
  | .amk o => latchOfSrc o.a ++ latchOfSrc o.b
  | .ahi o => latchOfSrc o.a
  | .alo o => latchOfSrc o.a
  | .kset o => latchOfSrc o.a
  | .kget o => latchOfSrc o.a
  | .fadd o => latchOfSrc o.a ++ latchOfSrc o.b
  | .fsub o => latchOfSrc o.a ++ latchOfSrc o.b
  | .fmul o => latchOfSrc o.a ++ latchOfSrc o.b
  | .fmin o => latchOfSrc o.a ++ latchOfSrc o.b
  | .fmax o => latchOfSrc o.a ++ latchOfSrc o.b
  | .fabs o => latchOfSrc o.a
  | .fneg o => latchOfSrc o.a
  | .fma o => latchOfSrc o.a ++ latchOfSrc o.b
  | .fms o => latchOfSrc o.a ++ latchOfSrc o.b
  | .fnma o => latchOfSrc o.a ++ latchOfSrc o.b
  | .frcp o => latchOfSrc o.a
  | .frsq o => latchOfSrc o.a
  | .fexp2 o => latchOfSrc o.a
  | .flog2 o => latchOfSrc o.a
  | .dot2 o => latchOfSrc o.a ++ latchOfSrc o.b
  | .fcmpEq o => latchOfSrc o.a ++ latchOfSrc o.b
  | .fcmpNe o => latchOfSrc o.a ++ latchOfSrc o.b
  | .fcmpLt o => latchOfSrc o.a ++ latchOfSrc o.b
  | .fcmpLe o => latchOfSrc o.a ++ latchOfSrc o.b
  | .fcmpUn o => latchOfSrc o.a ++ latchOfSrc o.b
  | .iadd o _ => latchOfSrc o.a ++ latchOfSrc o.b
  | .isub o _ => latchOfSrc o.a ++ latchOfSrc o.b
  | .imul o _ => latchOfSrc o.a ++ latchOfSrc o.b
  | .imulh o => latchOfSrc o.a ++ latchOfSrc o.b
  | .imad o _ => latchOfSrc o.a ++ latchOfSrc o.b
  | .iand o => latchOfSrc o.a ++ latchOfSrc o.b
  | .ior o => latchOfSrc o.a ++ latchOfSrc o.b
  | .ixor o => latchOfSrc o.a ++ latchOfSrc o.b
  | .imin o => latchOfSrc o.a ++ latchOfSrc o.b
  | .imax o => latchOfSrc o.a ++ latchOfSrc o.b
  | .ishl o => latchOfSrc o.a ++ latchOfSrc o.b
  | .ishr o => latchOfSrc o.a ++ latchOfSrc o.b
  | .isra o => latchOfSrc o.a ++ latchOfSrc o.b
  | .icmpEq o => latchOfSrc o.a ++ latchOfSrc o.b
  | .icmpNe o => latchOfSrc o.a ++ latchOfSrc o.b
  | .icmpLt o => latchOfSrc o.a ++ latchOfSrc o.b
  | .icmpLe o => latchOfSrc o.a ++ latchOfSrc o.b
  | .vsel o => latchOfSrc o.a ++ latchOfSrc o.b
  | .vbc o => latchOfSrc o.a
  | .vmov o => latchOfSrc o.a
  | .vext o => latchOfSrc o.a ++ latchOfSrc o.b
  | .vins o => latchOfSrc o.a ++ latchOfSrc o.b
  | .vperm o => latchOfSrc o.a ++ latchOfSrc o.b
  | .vrot o => latchOfSrc o.a ++ latchOfSrc o.b
  | .vzip o => latchOfSrc o.a ++ latchOfSrc o.b
  | .vunzip o => latchOfSrc o.a ++ latchOfSrc o.b
  | .vsum o => latchOfSrc o.a
  | .vmaxr o => latchOfSrc o.a
  | .kand o => latchOfSrc o.a ++ latchOfSrc o.b
  | .kor o => latchOfSrc o.a ++ latchOfSrc o.b
  | .kxor o => latchOfSrc o.a ++ latchOfSrc o.b
  | .knot o => latchOfSrc o.a
  | .kcnt o => latchOfSrc o.a
  | .vgt o _ => latchOfSrc o.sx
  | .vgt2 o _ => latchOfSrc o.sx
  | .vsc o _ => latchOfSrc o.sx
  | .amoAdd o => latchOfSrc o.sx
  | .amoAnd o => latchOfSrc o.sx
  | .amoOr o => latchOfSrc o.sx
  | .amoXor o => latchOfSrc o.sx
  | .amoMin o => latchOfSrc o.sx
  | .amoMax o => latchOfSrc o.sx
  | .amoXchg o => latchOfSrc o.sx
  | .amoCas _ o => latchOfSrc o.sx
  | .redF32 o => latchOfSrc o.sx
  | .redS32 o => latchOfSrc o.sx
  | .cvt o => latchOfSrc o.a
  | .qblk o => latchOfSrc o.a
  | .dqblk o => latchOfSrc o.a
  | .vupk _ a _ _ => latchOfSrc a
  | .rngSeed a b _ => latchOfSrc a ++ latchOfSrc b
  | .spush _ a _ => latchOfSrc a
  | .xsendLo _ a => latchOfSrc a
  | .xsendHi _ a => latchOfSrc a
  | .xland a _ => latchOfSrc a
  | .xtag a _ => latchOfSrc a
  | .stgSet _ _ a => latchOfSrc a
  | .tlWait _ a => latchOfSrc a
  | .brz a _ => latchOfSrc a
  | .brnz a _ => latchOfSrc a
  | .brk a _ => latchOfSrc a
  | .ret a _ => latchOfSrc a
  | .loop a _ => latchOfSrc a
  | .tkawait a _ => latchOfSrc a
  | .wsplit a b _ => latchOfSrc a ++ latchOfSrc b
  | .wret a _ => latchOfSrc a
  | .jcbAdd a _ => latchOfSrc a
  | .crset a _ _ => latchOfSrc a
  | _ => []

/-! ## Accesses (spec/08 R203 to R215, spec/12 R332 to R335) -/

/-- ea (R203): the address register and a byte offset, modulo 2^56. -/
def placeOf (s : State) (base : BitVec 4) (ofs : Int) : BitVec 56 := BitVec.ofInt 56 (((s.me.readA base).val.toNat : Int) + ofs)

/-- The scale of a layout-A form's offset (R70). -/
def orientScale : Orient → Int
  | .row => 64
  | .col e => e.bytes

/-- What an M form asks of the bank that its address names. -/
structure Access where
  guard : Guard
  lane : Bool
  valid : Bool
  write : Bool
  ea : BitVec 56
  aligned : Bool
  leaves : Bool
  books : List Booking

/-- The bank of an address. -/
def Access.bank (x : Access) (s : State) : BitVec 6 := (s.entry (x.ea.extractLsb' 16 6)).bank

/-- The bank offset of an address. -/
def Access.off (x : Access) : Nat := (x.ea.extractLsb' 0 16).toNat

/-- Alignment of a row or column access (R204). -/
def orientAligned (o : Nat) : Orient → Bool
  | .row => decide (o % 64 = 0)
  | .col e => decide (o % e.bytes = 0 ∧ o / 64 % 64 % (64 / e.bytes) = 0)

/-- Whether the second register of a pair lies outside the plate (R213). -/
def orientPairLeaves (o : Nat) : Orient → Bool
  | .row => decide (o / 64 % 64 = 63)
  | .col e => decide (64 < o % 64 + 2 * e.bytes)

/-- Whether an enabled element's index is 64 or more (R215). -/
def indexLeaves (k : Nat) (en : Mask) (idx : Vec) : Bool :=
  (List.range (64 / k)).any fun j => en.getLsbD (k * j / 4) && decide (64 ≤ elem (8 * k) idx j)

/-- The bank ticks of an access (R206, R333): a read at t, a write at t + 2, a pair two ticks running, an `amo` with its
window. -/
def booksOf (s : State) (x : Access) (ticks : List (Nat × Nat × Bool)) : List Booking :=
  ticks.map fun p => ⟨x.bank s, s.t + p.1, s.t + p.2.1, p.2.2, s.focus.core, SlotClass.m.index, s.t⟩

/-- The access of an M form (R211 to R215, R332, R334). -/
def accessOf (s : State) (i : Instr) : Option Access :=
  let fin := fun (x : Access) (ticks : List (Nat × Nat × Bool)) => some { x with books := booksOf s x ticks }
  let off := fun (ea : BitVec 56) => (ea.extractLsb' 0 16).toNat
  let scalarL := fun (o : MA 6) (k : Nat) =>
    let ea := placeOf s o.base (o.ofs.toInt * k)
    fin ⟨o.g, false, true, false, ea, decide (off ea % k = 0), false, []⟩ [(0, 0, false)]
  let scalarS := fun (o : MS 6) (k : Nat) =>
    let ea := placeOf s o.base (o.ofs.toInt * k)
    fin ⟨o.g, false, true, true, ea, decide (off ea % k = 0), false, []⟩ [(2, 2, false)]
  let laneL := fun (o : MA 6) (r : Orient) =>
    let ea := placeOf s o.base (o.ofs.toInt * orientScale r)
    fin ⟨o.g, true, true, false, ea, orientAligned (off ea) r, false, []⟩ [(0, 0, false)]
  let laneS := fun (o : MS 6) (r : Orient) =>
    let ea := placeOf s o.base (o.ofs.toInt * orientScale r)
    fin ⟨o.g, true, true, true, ea, orientAligned (off ea) r, false, []⟩ [(2, 2, false)]
  let amo := fun (base : BitVec 4) (sx : Src 6) (g : Guard) =>
    let ea := placeOf s base 0
    fin ⟨g, false, s.me.ok sx, true, ea, decide (off ea % 4 = 0), false, []⟩ [(1, 1, false), (2, 3, true)]
  let red := fun (o : MXS) =>
    let ea := placeOf s o.base 0
    fin ⟨o.g, true, s.me.ok o.sx, true, ea, decide (off ea % 64 = 0), false, []⟩ []
  match i with
  | .ldB o => scalarL o 1
  | .ldBn o => scalarL o 1
  | .ldH o => scalarL o 2
  | .ldHn o => scalarL o 2
  | .ldW o => scalarL o 4
  | .stB o => scalarS o 1
  | .stH o => scalarS o 2
  | .stW o => scalarS o 4
  | .vldRow o => laneL o .row
  | .vldCol o e => laneL o (.col e)
  | .vstRow o => laneS o .row
  | .vstCol o e => laneS o (.col e)
  | .vlddRow o =>
    let ea := placeOf s o.base (o.ofs.toInt * 64)
    let x : Access := ⟨o.g, true, true, false, ea, false, false, []⟩
    let ok := decide (off ea % (16 * ((s.myTile.fmts.at (x.bank s)).width / 8)) = 0)
    fin { x with aligned := ok } [(0, 0, false)]
  | .vlddCol o =>
    let ea := placeOf s o.base o.ofs.toInt
    let x : Access := ⟨o.g, true, true, false, ea, false, false, []⟩
    let ok := decide (off ea % 64 % ((s.myTile.fmts.at (x.bank s)).width / 8) = 0 ∧ off ea / 64 % 64 ∈ [0, 16, 32, 48])
    fin { x with aligned := ok } [(0, 0, false)]
  | .vld2 o r =>
    let ea := placeOf s o.base (o.ofs.toInt * orientScale r)
    fin ⟨o.g, true, true, false, ea, orientAligned (off ea) r, orientPairLeaves (off ea) r, []⟩ [(0, 1, false)]
  | .vst2 o r =>
    let ea := placeOf s o.base (o.ofs.toInt * orientScale r)
    fin ⟨o.g, true, true, true, ea, orientAligned (off ea) r, orientPairLeaves (off ea) r, []⟩ [(1, 2, false)]
  | .vgt o e =>
    let ea := placeOf s o.base 0
    fin ⟨o.g, true, s.me.ok o.sx, false, ea, decide (off ea % 4096 = 0),
      indexLeaves e.bytes (s.guard o.g).val (s.me.srcV o.sx).val, []⟩ [(0, 0, false)]
  | .vgt2 o e =>
    let ea := placeOf s o.base 0
    fin ⟨o.g, true, s.me.ok o.sx, false, ea, decide (off ea % 4096 = 0),
      decide (off ea / 4096 = 15) || indexLeaves e.bytes (s.guard o.g).val (s.me.srcV o.sx).val, []⟩ [(0, 1, false)]
  | .vsc o e =>
    let ea := placeOf s o.base 0
    fin ⟨o.g, true, s.me.ok o.sx, true, ea, decide (off ea % 4096 = 0),
      indexLeaves e.bytes (s.guard o.g).val (s.me.srcV o.sx).val, []⟩ [(2, 2, false)]
  | .amoAdd o => amo o.base o.sx o.g
  | .amoAnd o => amo o.base o.sx o.g
  | .amoOr o => amo o.base o.sx o.g
  | .amoXor o => amo o.base o.sx o.g
  | .amoMin o => amo o.base o.sx o.g
  | .amoMax o => amo o.base o.sx o.g
  | .amoXchg o => amo o.base o.sx o.g
  | .amoCas _ o => amo o.base o.sx o.g
  | .redF32 o => red o
  | .redS32 o => red o
  | _ => none

/-- The guard enables some of the form: its bit 0, or some lane (R55, R56). -/
def Access.enabled (x : Access) (s : State) : Bool :=
  if x.lane then (s.guard x.guard).val != 0 else (s.guard x.guard).val.getLsbD 0

/-- The address reaches a bank (R203, R199). -/
def Access.attached (x : Access) (s : State) : Bool :=
  decide (x.ea.toNat < 2 ^ 22) && (s.entry (x.ea.extractLsb' 16 6)).st.usable

/-- The address reaches a bank that the form may use so: its entry admits a write where the form writes (R210). -/
def Access.reaches (x : Access) (s : State) : Bool :=
  x.attached s && !(x.write && (s.entry (x.ea.extractLsb' 16 6)).st == .read)

/-- Every check of R210 and R333 passes. -/
def Access.clear (x : Access) (s : State) : Bool :=
  x.reaches s && x.aligned && !x.leaves && !s.windowHit x.books

/-- The marks that taint the strand of an access that is made: the guard's, the address register's and those of the indices
used (spec/13 R343). -/
def Access.tainted (x : Access) (s : State) (base : BitVec 4) (more : Bool := false) : State :=
  (s.taintIf ((s.guard x.guard).psn != 0)).taintIf ((s.me.readA base).psn != 0 || more)

/-- A number of bytes, lowest first (R5). -/
def littleEndian (k : Nat) (f : Nat → Byte) : Nat := ((List.range k).map fun i => (f i).toNat * 256 ^ i).sum

/-- The scalar loads: size in bytes, and whether the value is extended by its sign (R211). -/
def scalarLoads : List ((MA 6 → Instr) × Nat × Bool) :=
  [(.ldB, 1, true), (.ldBn, 1, false), (.ldH, 2, true), (.ldHn, 2, false), (.ldW, 4, false)]

/-- The scalar stores and their sizes (R211). -/
def scalarStores : List ((MS 6 → Instr) × Nat) := [(.stB, 1), (.stH, 2), (.stW, 4)]

/-- The offset of byte k of a register moved by row or by column from offset o (R204). -/
def orientByte (o k : Nat) : Orient → Nat
  | .row => o + k
  | .col e => o + 64 * (k / e.bytes) + k % e.bytes

/-- The offset of byte k of the second register of a pair (R213). -/
def orientByte2 (o k : Nat) : Orient → Nat
  | .row => o + 64 + k
  | .col e => o + e.bytes + 64 * (k / e.bytes) + k % e.bytes

/-- The offset of byte k of a gathered or scattered register: its own position in the row that its element's index names (R215). -/
def indexByte (b : Nat) (idx : Vec) (o k : Nat) : Nat := o + 64 * elem (8 * b) idx (k / b) + k

/-- The one-register lane loads: destination, base register, index marks and the offset of byte k. -/
def laneLoadOf (s : State) : Instr → Option (Dst 6 × BitVec 4 × (Nat → Nat → Nat))
  | .vldRow o => some (o.d, o.base, fun off k => orientByte off k .row)
  | .vldCol o e => some (o.d, o.base, fun off k => orientByte off k (.col e))
  | .vgt o e => some (o.d, o.base, indexByte e.bytes (s.me.srcV o.sx).val)
  | _ => none

/-- The one-register lane stores: data register, base register and the offset of byte k. -/
def laneStoreOf (s : State) : Instr → Option (BitVec 6 × BitVec 4 × (Nat → Nat → Nat))
  | .vstRow o => some (o.d, o.base, fun off k => orientByte off k .row)
  | .vstCol o e => some (o.d, o.base, fun off k => orientByte off k (.col e))
  | .vsc o e => some (o.d, o.base, indexByte e.bytes (s.me.srcV o.sx).val)
  | _ => none

/-- The marks of the index lanes that a gather or scatter uses taint the strand too. -/
def indexTaint (s : State) : Instr → Bool
  | .vgt o _ => ((s.me.srcV o.sx).psn &&& granules (s.guard o.g).val) != 0
  | .vgt2 o _ => ((s.me.srcV o.sx).psn &&& granules (s.guard o.g).val) != 0
  | .vsc o _ => ((s.me.srcV o.sx).psn &&& granules (s.guard o.g).val) != 0
  | _ => false

/-- The atomic operations: the form, its name, and the new word of the old word, the data and the comparand (R332). -/
def atomicForms : List ((MX 6 → Instr) × AmoOp × (Word → Word → Word)) :=
  [(.amoAdd, .add, fun a x => wordOf (a.toInt + x.toInt)), (.amoAnd, .and, fun a x => a &&& x), (.amoOr, .or, fun a x => a ||| x),
   (.amoXor, .xor, fun a x => a ^^^ x), (.amoMin, .min, fun a x => wordOf (min a.toInt x.toInt)),
   (.amoMax, .max, fun a x => wordOf (max a.toInt x.toInt)), (.amoXchg, .xchg, fun _ x => x)]

/-! ## The matrix unit (spec/09) -/

/-- Element k of an operand row (R233): byte (FIRST + k x STRIDE) x w / 8 of operand row i, in panels of 64 bytes. -/
def operandValue (t : Tile) (slot : BitVec 8) (f : Fmt) (row first stride k : Nat) : Num :=
  decodeNum f (littleEndian (f.width / 8) fun j =>
    let b := (first + k * stride) * f.width / 8 + j
    (t.byteView (t.slotBank slot) (16384 * (slot.toNat % 4) + 64 * (64 * (b / 64) + row) + b % 64)).1)

/-- Element k of an operand row holds a poisoned byte (R243). -/
def OperandMarked (t : Tile) (slot : BitVec 8) (f : Fmt) (row first stride k : Nat) : Prop :=
  ∃ j < f.width / 8,
    let b := (first + k * stride) * f.width / 8 + j
    (t.byteView (t.slotBank slot) (16384 * (slot.toNat % 4) + 64 * (64 * (b / 64) + row) + b % 64)).2 = true

/-- A number is infinite. -/
def Num.Infinite (x : Num) : Prop := x = .inf true ∨ x = .inf false

/-- The sign of a number. -/
def Num.sign : Num → Bool
  | .fin n _ _ => n
  | .inf n => n
  | .nan => false

/-- A pair of operands has an infinite product of sign n, or the invalid one of an infinity and a zero. -/
def InfiniteProduct (p : Num × Num) (n : Bool) : Prop := (p.1.Infinite ∨ p.2.Infinite) ∧ (p.1.sign != p.2.sign) = n

/-- The groups whose value is NaN (R242). -/
def NanGroup (x : List (Num × Num)) : Prop :=
  (∃ p ∈ x, p.1 = .nan ∨ p.2 = .nan) ∨
    (∃ p ∈ x, (p.1.Infinite ∧ p.2.rational = some 0) ∨ (p.1.rational = some 0 ∧ p.2.Infinite)) ∨
    ∃ p ∈ x, ∃ q ∈ x, InfiniteProduct p true ∧ InfiniteProduct q false

/-- An accumulator tile of a bank row is busy at a tick (R240). -/
def RowBusy (t : Tile) (bank : BitVec 6) (row n : Nat) : Prop :=
  t.isAcc bank.toNat = true ∧
    (let a := t.accs.at (BitVec.ofNat 8 (4 * (bank.toNat - t.accBase) + row / 256))
     a.since < n ∧ n < a.y)

/-- The unbiased exponent of a finite operand on its format's grid (R241). -/
def gridExponent (f : Fmt) : Num → Int
  | .fin _ _ e => e + (specOf f).t
  | .nan => 0
  | .inf _ => 0

/-- The operands of group g of element (i, j), with the sign options (R241). -/
def groupOperands (t : Tile) (o : MmaOp) (i j g : Nat) : List (Num × Num) :=
  let lg := if o.fa.width = 8 then 16 else 4
  ((List.range lg).filter fun x => g * lg + x < o.k).map fun x =>
    let a := operandValue t o.aslot o.fa i o.afirst o.astride (g * lg + x)
    let b := operandValue t o.bslot o.fb j o.bfirst o.bstride (g * lg + x)
    (if o.na then a.neg else a, if o.nb then b.neg else b)

/-- The group value of finite products (R241): each non-zero product truncated toward minus infinity at Fw bits below the largest
exponent E of the group, and summed. -/
def groupRational (fw : Nat) (e : Int) (ps : List (ℚ × ℚ)) : ℚ :=
  ((ps.map fun p => Int.floor (p.1 * p.2 * (2 : ℚ) ^ ((fw : Int) - e))).sum : ℚ) * (2 : ℚ) ^ (e - (fw : Int))

/-- A shape record as R235 lays it out: the field of `n` bits at bit `i` of byte `b`. -/
def shapeField (r : Vec) (b i n : Nat) : Nat := r.toNat / 2 ^ (8 * b + i) % 2 ^ n

/-- Whether a record is valid for an `mma` that issues now (R237), for tags of width w of two formats that go together. -/
def recordValid (t : Tile) (r : Vec) : Prop :=
  let a := t.opSlots.at (BitVec.ofNat 8 (shapeField r 3 0 8))
  let b := t.opSlots.at (BitVec.ofNat 8 (shapeField r 4 0 8))
  let spanOf := fun first stride w => (first + (shapeField r 2 0 8 - 1) * stride + 1) * w / 8
  let need := fun span rows => 64 * ((span + 63) / 64 - 1) + rows
  ∃ fa fb : Fmt, a.fmt = some fa ∧ b.fmt = some fb ∧
    ((∃ x y, fa = .fam x ∧ fb = .fam y) ∨
      (fa ∈ ([.flt .bf16, .flt .fp16] : List Fmt) ∧ fb ∈ ([.flt .bf16, .flt .fp16] : List Fmt))) ∧
    shapeField r 10 5 3 = 0 ∧ shapeField r 11 0 8 = 0 ∧ shapeField r 12 12 4 = 0 ∧ shapeField r 14 12 4 = 0 ∧
    (∀ i < 48, shapeField r (16 + i) 0 8 = 0) ∧ shapeField r 0 0 8 ≤ 63 ∧ shapeField r 1 0 8 ≤ 63 ∧
    1 ≤ shapeField r 2 0 8 ∧ shapeField r 2 0 8 ≤ 192 * 8 / fa.width ∧ 1 ≤ shapeField r 7 0 8 ∧ 1 ≤ shapeField r 9 0 8 ∧
    spanOf (shapeField r 6 0 8) (shapeField r 7 0 8) fa.width ≤ 192 ∧
    spanOf (shapeField r 8 0 8) (shapeField r 9 0 8) fa.width ≤ 192 ∧
    need (spanOf (shapeField r 6 0 8) (shapeField r 7 0 8) fa.width) (shapeField r 0 0 8 + 1) ≤ a.p ∧
    need (spanOf (shapeField r 8 0 8) (shapeField r 9 0 8) fa.width) (shapeField r 1 0 8 + 1) ≤ b.p ∧
    (shapeField r 10 0 1 = 0 → shapeField r 10 1 2 = 0 ∧ shapeField r 10 3 2 = 0 ∧ shapeField r 12 0 12 = 0 ∧
      shapeField r 14 0 12 = 0)

/-- Only the agenda grows: by one entry of the focus strand. -/
def PlansOne (s u : State) (tick : Nat) (act : Action) : Prop :=
  ∃ e, u = { s with agenda := s.agenda ++ [e] } ∧ e.claim = s.focus.tile.claim ∧ e.tick = tick ∧ e.act = act

/-- What a landing in a strand or its tile leaves alone: every byte, every other strand, every other tile, the agenda. -/
def LandingFrame (s u : State) (st : StrandId) : Prop :=
  BytesKept s u ∧ (∀ o ≠ st, u.coreOf o = s.coreOf o) ∧ (∀ t ≠ st.tile, u.tileOf t = s.tileOf t) ∧ u.agenda = s.agenda

/-! ## Bank maps (spec/08 R199 to R225) -/

/-- A map change of the focus strand's tile: the entries of `marks` take the states given there and no other entry changes, no
other field of any strand but the focus strand's taint, no byte of any bank; the change `ch` takes effect at t + 4. -/
def ChangesMap (s u : State) (p : Bool) (marks : List ((BitVec 2 × BitVec 6) × MapEntry)) (ch : Option MapChange) : Prop :=
  (∀ c w, entryIn u s.focus.tile c w = (find marks (c, w)).getD (entryIn s s.focus.tile c w)) ∧
  (∀ st, u.coreOf st = { (s.taintIf p).coreOf st with map := (u.coreOf st).map }) ∧
  (∀ st, st.tile ≠ s.focus.tile → u.coreOf st = s.coreOf st) ∧ BytesKept s u ∧
  (∀ t, (u.tileOf t).homes = (s.tileOf t).homes ∧ (u.tileOf t).fmts = (s.tileOf t).fmts ∧
    (u.tileOf t).streams = (s.tileOf t).streams) ∧
  match ch with
  | none => u.agenda = s.agenda
  | some x => ∃ e, u.agenda = s.agenda ++ [e] ∧ e.tick = s.t + 4 ∧ e.phase = phLand ∧
      e.act = .ev (.mapChangeEffect s.focus.tile x)

/-- The effect of a map change on a tile: the entries of `marks` take the states given there, no other entry and no other field
of any strand changes, and no byte, format or stream state of any bank does (R221). -/
def EntriesBecome (s u : State) (t : TileId) (marks : List ((BitVec 2 × BitVec 6) × MapEntry)) : Prop :=
  (∀ c w, entryIn u t c w = (find marks (c, w)).getD (entryIn s t c w)) ∧
  (∀ st, u.coreOf st = { s.coreOf st with map := (u.coreOf st).map }) ∧
  (∀ st, st.tile ≠ t → u.coreOf st = s.coreOf st) ∧ BytesKept s u ∧ u.agenda = s.agenda ∧
  ∀ t', (u.tileOf t').fmts = (s.tileOf t').fmts ∧ (u.tileOf t').streams = (s.tileOf t').streams

/-- The entries of slot w in the cores of a mask. -/
def maskEntries (mask : BitVec 4) (w : BitVec 6) (e : MapEntry) : List ((BitVec 2 × BitVec 6) × MapEntry) :=
  ([0, 1, 2, 3].filter fun c : BitVec 2 => mask.getLsbD c.toNat).map fun c => ((c, w), e)

/-- How many lanes below lane i a mask enables. -/
def lanesBelow (en : Mask) (i : Nat) : Nat := (List.range i).countP fun j => en.getLsbD j

/-! ## The fabric (spec/10) -/

/-- The claim takes a fatal fault against a tile, and nothing of any strand or bank changes (R338, R341, R342). -/
def ClaimFaulted (s u : State) (t : TileId) (cause : Byte) : Prop :=
  (u.claimOf t.claim).faultCount = (s.claimOf t.claim).faultCount + 1 ∧
  ((s.claimOf t.claim).faults.length < 64 → ∃ r ∈ (u.claimOf t.claim).faults, r.cause = cause ∧ r.tick = s.now t.claim ∧
    r.x = t.x ∧ r.y = t.y ∧ r.core = 15) ∧
  (u.claimOf t.claim).fatal.isSome = true ∧ (∀ st, u.coreOf st = s.coreOf st) ∧ BytesKept s u

/-- No flit of the present tick has taken an output port of an entry, and the entry names each port once (R272). -/
def PortsFree (s : State) (t : TileId) (r : Route) : Prop :=
  r.outs.Nodup ∧ (∀ d ∈ r.outs, some d ∉ (s.tileOf t).outs) ∧ (r.loc = true → none ∉ (s.tileOf t).outs)

/-- A flit leaves the router of a tile through an entry (R272, R257): over every side of it that leads to a tile it arrives there
after the link's latency, to leave it at the logical latency, with the count of its releasing router as LABEL; an engine has it after
the logical latency (R25); over a peer link it leaves the wafer; delivered to `l` as strand data it enters the landing buffer, ready
at once (R280). -/
def Forwards (s u : State) (t : TileId) (r : Route) (f : Flit) : Prop :=
  (∀ d ∈ r.outs, ∀ o, across s t d = some (.tile o) → ∃ e ∈ u.agenda, e.claim = t.claim ∧
    e.tick = s.now t.claim + linkLatency s t d ∧ e.phase = phWire ∧
    e.act = .ev (.flitArrival o (oppositeSide d) ⟨s.now t.claim + s.lh, { f with label := (s.countOf t).setWidth 16 }, false⟩)) ∧
  (∀ d ∈ r.outs, ∀ k, across s t d = some (.engine k) → ∃ e ∈ u.agenda, e.claim = t.claim ∧ e.tick = s.now t.claim + s.lh ∧
    e.phase = phWire ∧
    e.act = .ev (.flitArrival t d ⟨s.now t.claim + s.lh, { f with label := (s.countOf t).setWidth 16 }, true⟩)) ∧
  (∀ d ∈ r.outs, ∀ p, across s t d = some (.peer p) →
    (s.now t.claim, p, { f with label := (s.countOf t).setWidth 16 }) ∈ u.peerOut) ∧
  (r.loc = true → f.kind = 0 → f.land = false → f.lost = false → (s.tileOf t).landing.length < 32 →
    (u.tileOf t).landing = (s.tileOf t).landing ++ [⟨f.tag, f.data, f.psn, s.now t.claim, 0, true, none⟩]) ∧
  (∀ st, u.coreOf st = s.coreOf st) ∧ BytesKept s u ∧ ∀ e ∈ s.agenda, e ∈ u.agenda

/-- A lost flit of a tag (R256, R345). -/
def IsLost (f : Flit) (tag : BitVec 12) : Prop := f.tag = tag ∧ f.lost = true ∧ f.nul = false ∧ f.data = 0 ∧ f.psn = 0xF

/-- The flit of an `xsend` of one half of a register (R284). -/
def sentFlit (v : MVec) (hi : Bool) (tag : BitVec 12) : Flit where
  data := if hi then BitVec.ofNat 256 (v.val.toNat / 2 ^ 256) else BitVec.ofNat 256 v.val.toNat
  lt := 0
  land := false
  half := false
  fmt := 0
  psn := if hi then BitVec.ofNat 4 (v.psn.toNat / 16) else BitVec.ofNat 4 v.psn.toNat
  lost := false
  nul := false
  kind := 0
  tag := tag
  label := 0
  slot := 0
  origin := none
  pair := none

/-- The tag that a form's tag field names: an alias by its binding (R284, R288). -/
def namedTag (s : State) (tag : BitVec 12) : Option (BitVec 12) :=
  if 0xFF0 ≤ tag.toNat then s.me.aliases.at (BitVec.ofNat 4 (tag.toNat - 0xFF0)) else some tag

/-! ## Staging (spec/11) -/

/-- The registers of the a file (R299): FAR, TICK and FLAG. -/
def isWideReg : CtxReg → Bool
  | .far => true
  | .tick => true
  | .flag => true
  | _ => false

/-- The 64-bit value of a source whose file F selects (R314): g and F = 0 latches give 32 bits. -/
def fileValue (c : Core) (wide : Bool) (a : Src 6) : MQuad :=
  match a with
  | .reg i => if wide then c.readA (BitVec.ofNat 4 i.toNat) else ⟨BitVec.ofNat 64 (c.readG i).val.toNat, (c.readG i).psn⟩
  | .latch l => ⟨BitVec.ofNat 64 ((c.latchOf l).val.val.toNat % (if wide then 2 ^ 64 else 2 ^ 32)),
      BitVec.ofNat 1 (c.latchOf l).val.psn.toNat⟩

/-- Bits lo to hi of a register. -/
def bitsOf (q : Quad) (hi lo : Nat) : Nat := q.toNat / 2 ^ lo % 2 ^ (hi + 1 - lo)

/-- The shadow set is invalid to `stg.go` (R314, R300). -/
def shadowInvalid (r : CtxRegs) : Prop :=
  bitsOf r.loc 63 32 ≠ 0 ∨ bitsOf r.tag 15 12 ≠ 0 ∨ bitsOf r.tag 63 28 ≠ 0 ∨ bitsOf r.pitch 63 16 ≠ 0 ∨ bitsOf r.flag 23 22 ≠ 0 ∨
    bitsOf r.flag 63 38 ≠ 0 ∨ bitsOf r.far 5 0 ≠ 0 ∨ r.len = 0 ∨ r.len.toNat % 64 ≠ 0 ∨
    (bitsOf r.cmd 3 2 ≠ 0 ∧ bitsOf r.cmd 1 0 ≠ 0) ∨ ((bitsOf r.cmd 4 4 = 1 ∨ bitsOf r.cmd 10 5 ≠ 0) ∧ bitsOf r.cmd 1 0 = 1) ∨
    (bitsOf r.cmd 10 5 ≠ 0 ∧ bitsOf r.cmd 4 4 = 0) ∨ 5 ≤ bitsOf r.cmd 13 11 ∨
    (bitsOf r.cmd 4 4 = 1 ∧ Fmt.dec (BitVec.ofNat 6 (bitsOf r.cmd 10 5)) = none) ∨ bitsOf r.cmd 63 16 ≠ 0 ∨
    (bitsOf r.cmd 1 0 = 3 ∧ r.tcount = 0)

/-- The levels of a claim's page table, the root first: the lowest bit and the number of the index bits, and the bytes of the next
level's table, 0 where there is none (R294). -/
def tableLevels : List (Nat × Nat × Nat) := [(34, 14, 256), (29, 5, 2048), (21, 8, 256), (16, 5, 0)]

/-- The leaf that a page walk finds for an address from a table on, with the number of its page's address bits; none where an entry
on the way is malformed (R294). `entry` gives the 8-byte number at a physical address. -/
def pageLeaf (entry : Nat → Nat) (v : Nat) : List (Nat × Nat × Nat) → Nat → Option (Nat × Nat)
  | [], _ => none
  | (low, bits, next) :: rest, table =>
    let e := entry (table + 8 * (v / 2 ^ low % 2 ^ bits))
    let addr := e / 2 ^ 8 % 2 ^ 34 * 2 ^ 8
    if e % 2 = 0 ∨ e / 2 ^ 42 ≠ 0 ∨ e / 2 ^ 5 % 2 ^ 3 ≠ 0 then none
    else if e / 2 % 2 = 1 then (if addr % 2 ^ low = 0 ∧ addr + 2 ^ low ≤ 3 * 2 ^ 40 then some (low, e) else none)
    else if next = 0 ∨ addr % next ≠ 0 ∨ 3 * 2 ^ 40 < addr + next then none
    else pageLeaf entry v rest addr

/-- No register of any strand, no byte of any bank changes. -/
def CoresAndBytesKept (s u : State) : Prop := (∀ st, u.coreOf st = s.coreOf st) ∧ BytesKept s u

/-! ## Sequencing, synchronisation and the control registers (spec/04, spec/12, spec/13) -/

/-- The taken transfer to an address (R98). -/
def Core.goingTo (c : Core) (target : Quad) : Core := { c with xfer := some (target, 2) }

/-- The address an offset field names (R102): signed bytes from the bundle's header. -/
def offsetTarget (s : State) (ofs : BitVec 18) : Quad := s.headerPc + BitVec.ofInt 64 ofs.toInt

/-- An update goes to a tile of the claim, arrives there after its transport and holds the claim's completion until then
(R116, R120). The sender's other registers, every other strand and every byte stay. -/
def Sends (s u : State) (dest : TileId) (i : Event) (me : Core) : Prop :=
  let at_ := s.t + s.lh * (((s.focus.tile.x : Int) - dest.x).natAbs + ((s.focus.tile.y : Int) - dest.y).natAbs + 1)
  (∃ e, u.agenda = s.agenda ++ [e] ∧ e.claim = s.focus.tile.claim ∧ e.tick = at_ ∧ e.act = .ev i) ∧
  u.claimOf s.focus.tile.claim = { s.claimOf s.focus.tile.claim with
    lastDone := max (s.claimOf s.focus.tile.claim).lastDone at_ } ∧
  u.me = me ∧ (∀ o ≠ s.focus, u.coreOf o = s.coreOf o) ∧ BytesKept s u

/-- A control register's value as R349 lays it out. -/
def cregNumber (s : State) : CReg → Nat
  | .tick => (s.t + s.myTile.off.toNat) % 2 ^ 64
  | .rebase => s.me.rebase.toNat
  | .coord =>
    let c := s.claimOf s.focus.tile.claim
    let gx := 12 * c.fx0 + s.focus.tile.x
    let gy := 12 * c.fy0 + s.focus.tile.y
    c.wafer * 2 ^ 48 + s.focus.tile.y * 2 ^ 40 + s.focus.tile.x * 2 ^ 32 + s.focus.core.toNat * 2 ^ 24 +
      (gx / 12 + 12 * (gy / 12)) * 2 ^ 16 + gy * 2 ^ 8 + gx
  | .stage => s.me.stage.toNat
  | .part => s.myTile.part.toNat
  | .hop => s.lh
  | .wheel => s.wheel
  | .rq => (if s.me.npre = none then 0 else 1) + (if s.me.taint then 2 else 0) + s.replayLog2 * 2 ^ 16
  | .heapBase => s.me.heapBase.toNat
  | .heapLimit => s.me.heapLimit.toNat
  | .heapOff => s.me.heapOff.toNat
  | .weight => s.me.weight.toNat
  | .span => if s.me.span then 1 else 0
  | .fault => s.me.fCause.toNat + s.me.fClass.toNat * 2 ^ 8 + s.me.fDly.toNat * 2 ^ 12 + (if s.me.fNest then 2 ^ 14 else 0) +
      (if s.me.fAct then 2 ^ 15 else 0) + s.me.fCode.toNat * 2 ^ 16
  | .fdata => s.me.fdata.toNat
  | .epc => s.me.epc.toNat
  | .etgt => s.me.etgt.toNat
  | .tvec => s.me.tvec.toNat + if s.me.tvecEn then 2 ^ 63 else 0
  | .escr => s.me.escr.toNat
  | .dbg => if s.me.dbg then 1 else 0
  | .lag => lagOf s s.focus.tile % 2 ^ 16 + s.myTile.peak.toNat * 2 ^ 16 + s.myTile.holds.toNat * 2 ^ 32
  | .collide => s.myTile.collide.toNat
  | .drift => s.myTile.dir.toNat + s.myTile.delta.toNat * 2 ^ 4 +
      match s.myTile.pend with | some n => if n ≤ s.t then 2 ^ 20 else 0 | none => 0
  | .wclk => (Config.wallNanoseconds s.wall).toNat
  | .cyc => ((cycleOf s s.focus.tile : Int) + s.myTile.gained).toNat % 2 ^ 64

/-- What a `crset` changes in a strand when it lands (R349, R350): the read-only fields keep their values. -/
def cregWritten (c : Core) (r : CReg) (v : Quad) : Core :=
  match r with
  | .fault => { c with
      fCause := BitVec.ofNat 8 (bitsOf v 7 0), fClass := BitVec.ofNat 3 (bitsOf v 10 8), fDly := BitVec.ofNat 2 (bitsOf v 13 12)
      fNest := decide (bitsOf v 14 14 = 1), fCode := BitVec.ofNat 16 (bitsOf v 31 16) }
  | .fdata => { c with fdata := v }
  | .epc => { c with epc := BitVec.ofNat 22 (bitsOf v 21 0) }
  | .etgt => { c with etgt := BitVec.ofNat 22 (bitsOf v 21 0) }
  | .tvec => { c with tvec := BitVec.ofNat 22 (bitsOf v 21 0), tvecEn := decide (bitsOf v 63 63 = 1) }
  | .escr => { c with escr := v }
  | .dbg => { c with dbg := decide (bitsOf v 0 0 = 1) }
  | _ => c

/-- Every strand but one, and every byte, is as it was. -/
def OthersKept (s u : State) (st : StrandId) : Prop := (∀ o ≠ st, u.coreOf o = s.coreOf o) ∧ BytesKept s u

/-! ## Completion records (spec/14 R369) -/

/-- The record of eight words stands at `crec`, the signal word is one less modulo 2^64, and no other far byte changes. -/
def Completed (s u : State) (crec sig : Nat) (ws : List Nat) : Prop :=
  crec % 64 = 0 → sig % 8 = 0 → sig / 64 ≠ crec / 64 → s.far.wf = true →
    (∀ k < 8, leNat (farRead u (crec + 8 * k) 8) = ws.getD k 0 % 2 ^ 64) ∧
    leNat (farRead u sig 8) = (leNat (farRead s sig 8) + (2 ^ 64 - 1)) % 2 ^ 64 ∧
    ∀ a, ¬ (crec ≤ a ∧ a < crec + 64) → ¬ (sig ≤ a ∧ a < sig + 8) → farByte u a = farByte s a

/-- FAULT, FTICK and FDATA of a record: the primary fault, zero without one. -/
def primaryFault (c : Claim) : List Nat :=
  match c.faults with
  | [] => [0, 0, 0]
  | f :: _ => [f.cause.toNat + f.core * 2 ^ 8 + f.x * 2 ^ 16 + f.y * 2 ^ 24 + min c.faultCount 0xFFFF * 2 ^ 32, f.tick, f.data.toNat]

/-- TLMIN of a record: the lowest timeline counter of the claim's bound contexts, 0 without one. -/
def LowestTimeline (s : State) (c : Claim) (n : Nat) : Prop :=
  (c.binds = [] → n = 0) ∧ (∀ b ∈ c.binds, n ≤ (s.ctxOf b.ctx).timeline) ∧
    (c.binds ≠ [] → ∃ b ∈ c.binds, n = (s.ctxOf b.ctx).timeline)

/-- A launch that is no part of a fleet's ends with a record of a kind (R369): its fields are free, its operations are gone, its
record and signal are written; every strand and tile keeps its state. -/
def LaunchEnds (s u : State) (cl kind endTick haltb : Nat) (fault : List Nat) : Prop :=
  let c := s.claimOf cl
  (∃ sat, (u.claimOf cl).run = .ended endTick sat) ∧ (∀ k ≠ cl, u.claimOf k = s.claimOf k) ∧
  (∀ e ∈ u.agenda, e.claim ≠ cl ∧ e ∈ s.agenda) ∧ u.cores = s.cores ∧ u.tiles = s.tiles ∧
  ∃ tl, LowestTimeline s c tl ∧
    Completed s u c.crec c.sig ([kind + c.user.toNat * 2 ^ 32, c.start, endTick] ++ fault ++ [haltb, tl])

/-! ## Barriers (spec/12 R328) -/

/-- Whether a strand is a member of barrier n of its claim (R328). -/
def MemberOf (s : State) (cl n : Nat) (st : StrandId) : Prop :=
  let d := ((s.claimOf cl).bart[n]?).getD 0
  bitsOf d 63 63 = 1 ∧ bitsOf d 7 0 ≤ st.tile.x ∧ st.tile.x ≤ bitsOf d 23 16 ∧ bitsOf d 15 8 ≤ st.tile.y ∧
    st.tile.y ≤ bitsOf d 31 24 ∧ d.getLsbD (32 + st.core.toNat) = true ∧
    (bitsOf d 36 36 = 1 → bitsOf d 47 40 = (s.coreOf st).stage.toNat)

/-- Whether a strand's outstanding arrival on n names a phase that has not completed (R329). -/
def OpenArrival (s : State) (st : StrandId) (n : Nat) : Prop :=
  ∃ p, find (s.coreOf st).arrivals n = some p ∧ (barrierOf s st.tile.claim n).phase ≤ p

/-- No write of a member of n is still to be seen after tick v, and no reduction of one is still to be applied. -/
def MembersSeen (s : State) (cl n v : Nat) : Prop :=
  ∀ st ∈ strandsOf s cl, MemberOf s cl n st → redsOf s st = [] ∧
    ∀ e ∈ s.agenda, e.owner = some st → ∀ x, e.vis = some x → x ≤ v

/-- A strand took a bundle fault of a cause before the issues of the present tick t: trapped where it may be, so that its handler's first
bundle issues at t + 3 (R96, R340), fatal otherwise; its registers are as they were. -/
def TookCause (c u : Core) (cause : Byte) : Prop :=
  u.fCause = (if c.fAct then 0x75 else cause) ∧
  u.status = (if c.fAct = false ∧ c.span = true ∧ c.tvecEn = true then .running else .stopped) ∧
  (c.fAct = false → c.span = true → c.tvecEn = true → u.idle = 3) ∧
  u.g = c.g ∧ u.a = c.a ∧ u.v = c.v ∧ u.k = c.k

/-! ## Stops of a claim (spec/13, spec/14) -/

/-- A claim's count runs: the claim is under way and the module is not in its safe state (R373). -/
def Runs (s : State) (cl : Nat) : Prop := (s.claimOf cl).run = .running ∧ s.power ≠ .safe

/-- A claim's count stands at its present tick: its operations have left the agenda, and every strand, far memory and every other
claim's operation is as it was. -/
def StandsStill (s u : State) (cl : Nat) (run : ClaimRun) : Prop :=
  (u.claimOf cl).run = run ∧ (u.claimOf cl).tick = (s.claimOf cl).tick ∧ u.cores = s.cores ∧ u.far = s.far ∧
    (∀ e ∈ u.agenda, e.claim ≠ cl) ∧ ∀ e ∈ s.agenda, e.claim ≠ cl → e ∈ u.agenda

/-- The mean of some deviations in whole sixteenths of a flit, rounded down; 0 of none (R260). -/
def MeanOf (l : List Int) (e : Int) : Prop :=
  (l = [] → e = 0) ∧ (l ≠ [] → l.length * e ≤ l.sum ∧ l.sum < l.length * (e + 1))

/-- A deviation in sixteenths of a flit less a deadband in quarter flits (R260). -/
def lessDeadband (db4 : Nat) (e : Int) : Int := if e.natAbs ≤ 4 * db4 then 0 else e - e.sign * (4 * db4)

/-- The parts of a fleet's claim that go on although the leader's own has stopped by itself (R363). -/
def PartsGoOn (s : State) (cl : Nat) (f : FleetLaunch) : Prop :=
  let c := s.claimOf cl
  c.fleet = true ∧ c.wafer = 0 ∧ ((∃ n, c.run = .faulted n) ∨ (∃ n, c.run = .haltedAt n) ∨ ∃ n sat, c.run = .ended n sat) ∧
    s.fleetLaunch = some f ∧ f.started = true

/-- No operation of a claim's arrays is under way. -/
def ArraysIdle (s : State) (cl : Nat) : Prop := ∀ e ∈ s.agenda, e.claim = cl → e.arrayStep s = false

/-- What R122 asks of a replay boundary before a claim may stop there. -/
def StopsHere (s : State) (cl : Nat) : Prop :=
  Runs s cl ∧ s.now cl % 2 ^ s.replayLog2 = 0 ∧ (∀ st ∈ strandsOf s cl, (s.coreOf st).npre = none) ∧
    (s.claimOf cl).fatal = none ∧ ∀ e ∈ s.agenda, e.claim = cl → e.tick = s.now cl → e.phase ≠ phStop

/-- A move of a row is among the requested moves of a claim, with what it has come to with the gates (R122). -/
def Asked (c : Claim) (field row : Nat) (col : Option Nat) (g : GateWait) : Prop :=
  ⟨field, row, col, g⟩ ∈ c.moves ∧ ∀ m ∈ c.moves, m.field = field → m.row = row → m.col = col → m = ⟨field, row, col, g⟩

/-- The map of a row shifts so that a column goes under test, where the row admits a shift; the tile under test is on the low rail
and no tile of a claim is (R348, R275, R38). -/
def TestBegins (s u : State) (field row col : Nat) (fixed : Prop) : Prop :=
  u.tests = ⟨field, row, col⟩ :: s.tests ∧ (fixed → u.shifts = s.shifts) ∧ (¬ fixed → u.shifts = (field, row, col) :: s.shifts) ∧
  ∀ x, x ∈ u.lowRail ↔ (x = (field, row, col) ∨ x ∈ s.lowRail) ∧ tileClaimed u x.1 x.2.1 x.2.2 = false

/-- The map of a row shifts back (R348, R38). -/
def TestEnds (s u : State) (field row : Nat) : Prop :=
  (∀ x, x ∈ u.tests ↔ x ∈ s.tests ∧ ¬ (x.field = field ∧ x.row = row)) ∧
  (∀ x, x ∈ u.shifts ↔ x ∈ s.shifts ∧ ¬ (x.1 = field ∧ x.2.1 = row)) ∧
  ∀ x, x ∈ u.lowRail ↔ x ∈ s.lowRail ∧ tileClaimed u x.1 x.2.1 x.2.2 = false

/-- Every tile of a claim keeps the claim's count, with no DIR bit set (R270). -/
def NoDrift (s : State) (cl : Nat) : Prop := ∀ p ∈ s.tiles, p.1.claim = cl → p.2.dir = 0 ∧ p.2.off = 0

/-! ## The host's side (spec/14) -/

/-- A command of the mailbox completes with a RESULT and its first result word (R366); through a curator switch the mailbox holds
them back (R378). -/
def answered (s : State) (result : Byte) (r0 : Nat) : State :=
  if (s.ctlOf .curator).switching = true then { s with mbox := { s.mbox with held := some (result, BitVec.ofNat 64 r0) } }
  else { s with mbox := { s.mbox with
      busy := false, done := true, result := result, echo := s.mbox.hand, held := none, res0 := BitVec.ofNat 64 r0
      res1 := 0, res2 := 0, res3 := 0 } }

/-- A register of a queue's block (R357). -/
def queueRegister (q : Queue) (j : Nat) : Nat :=
  [q.target.toNat, q.qread.toNat, q.base.toNat, q.wbase.toNat, q.wlim.toNat,
    q.log2 * 256 + (if q.en then 1 else 0),
    (if q.waitV then 1 else 0) + (if q.badIdx then 2 else 0) + (if q.badPkt then 4 else 0), 0].getD j 0

/-- A register of the diagnostic mailbox (R366). -/
def mailboxRegister (m : Mailbox) (j : Nat) : Nat :=
  [m.op.toNat + m.htag.toNat * 2 ^ 16, m.args.a0.toNat, m.args.a1.toNat, m.args.a2.toNat, m.args.a3.toNat, m.args.a4.toNat,
    m.args.a5.toNat, (if m.ring then 1 else 0),
    (if m.busy then 1 else 0) + (if m.done then 2 else 0) + m.result.toNat * 2 ^ 8 + m.echo.toNat * 2 ^ 32, m.res0.toNat,
    m.res1.toNat, m.res2.toNat, m.res3.toNat].getD j 0

/-- A number as eight bytes, lowest first. -/
def eightBytes (n : Nat) : List Byte := (List.range 8).map fun i => BitVec.ofNat 8 (n / 256 ^ i)

/-- The events that the twelve assigned mailbox codes stand for (R367). -/
def mailboxCodes (a : MbArgs) : List (Nat × Event) :=
  [(1, .load a), (2, .evict a), (3, .lease a), (4, .unlease a), (5, if a.a5 = 0 then .queueDisable a else .queueEnable a),
   (6, .invtlb a), (7, .preempt a), (8, .resume a), (9, .abort a), (10, .fwload a), (11, .record a), (12, .restart a)]

/-- Every strand, tile and claim, and far memory, are as they were. -/
def ClaimsKept (s u : State) : Prop := u.cores = s.cores ∧ u.tiles = s.tiles ∧ u.claims = s.claims ∧ u.far = s.far ∧ u.agenda = s.agenda

/-- The head packet of a queue (R358). -/
def headPacket (s : State) (q : BitVec 6) : List Byte :=
  farRead s ((s.queues.at q).base.toNat + 64 * ((s.queues.at q).qread.toNat % 2 ^ (s.queues.at q).log2)) 64

/-- A field of bytes of a packet. -/
def packetField (p : List Byte) (first n : Nat) : Nat := leNat ((p.drop first).take n)

/-- n bytes from a lie in the queue's window and below 3 x 2^40 (R355, R360). -/
def InWindow (q : Queue) (a n : Nat) : Prop := q.wbase.toNat ≤ a ∧ a + n ≤ q.wbase.toNat + q.wlim.toNat ∧ a + n ≤ 3 * 2 ^ 40

/-- What makes the command processor drop a packet (R360). -/
def PacketDropped (q : Queue) (p : List Byte) : Prop :=
  packetField p 8 8 % 8 ≠ 0 ∨ ¬ InWindow q (packetField p 8 8) 8 ∨ packetField p 16 8 % 64 ≠ 0 ∨
    ¬ InWindow q (packetField p 16 8) 64

/-- A packet is consumed: QREAD is one more, the first byte of the entry loses V, no other far byte but those of its piece is
written (R360). -/
def Consumed (s u : State) (q : BitVec 6) (x : Queue) : Prop :=
  u.queues.at q = { x with qread := x.qread + 1 } ∧ (∀ k ≠ q, u.queues.at k = s.queues.at k) ∧ u.cores = s.cores ∧
    u.tiles = s.tiles ∧ u.claims = s.claims ∧ u.agenda = s.agenda ∧
    (x.base.toNat % 64 = 0 → s.far.wf = true → ∀ a,
      ¬ (x.base.toNat + 64 * (x.qread.toNat % 2 ^ x.log2) ≤ a ∧ a < x.base.toNat + 64 * (x.qread.toNat % 2 ^ x.log2) + 8) →
        farByte u a = farByte s a)

/-- A refused launch (R362): record of kind 2 with its reason, one decrement of the signal, no core started. -/
def Refused (c u : State) (p : List Byte) (reason : Nat) : Prop :=
  Completed c u (packetField p 16 8) (packetField p 8 8)
    [2 + reason * 2 ^ 8 + packetField p 4 4 * 2 ^ 32, 0, 0, 0, 0, 0, 0, 0] ∧
  u.cores = c.cores ∧ u.tiles = c.tiles ∧ u.claims = c.claims ∧ u.agenda = c.agenda

/-! ## Events (spec/95) -/

/-- One step runs an event of the present tick: the meaning of the event row it names. -/
def RunsEvent (s : State) (rest : List Task) : Event → Prop
  | .openSpanEntry st => step s = exec (.openSpanEntry st) { s with todo := rest }
  | .waitFormIssue st => step s = exec (.waitFormIssue st) { s with todo := rest }
  | .tkawaitIssue st => step s = exec (.tkawaitIssue st) { s with todo := rest }
  | .resultLanding st l => step s = exec (.resultLanding st l) { s with todo := rest }
  | .runEnd st => step s = exec (.runEnd st) { s with todo := rest }
  | .bankCommit t core bank d => step s = exec (.bankCommit t core bank d) { s with todo := rest }
  | .mapChangeEffect t ch => step s = exec (.mapChangeEffect t ch) { s with todo := rest }
  | .formatChangeEffect t bank f => step s = exec (.formatChangeEffect t bank f) { s with todo := rest }
  | .reductionApply t => step s = exec (.reductionApply t) { s with todo := rest }
  | .stageRowTransfer t p => step s = exec (.stageRowTransfer t p) { s with todo := rest }
  | .mmaStart t op => step s = exec (.mmaStart t op) { s with todo := rest }
  | .mmaGroupAdd t op b g => step s = exec (.mmaGroupAdd t op b g) { s with todo := rest }
  | .mmaBlockWrite t op b => step s = exec (.mmaBlockWrite t op b) { s with todo := rest }
  | .mmaCompletion t op => step s = exec (.mmaCompletion t op) { s with todo := rest }
  | .arraySend t send => step s = exec (.arraySend t send) { s with todo := rest }
  | .operandRowDeposit t slot row fmt => step s = exec (.operandRowDeposit t slot row fmt) { s with todo := rest }
  | .flitArrival t side f => step s = exec (.flitArrival t side f) { s with todo := rest }
  | .flitRelease t side => step s = exec (.flitRelease t side) { s with todo := rest }
  | .landedFlitDue t tag due => step s = exec (.landedFlitDue t tag due) { s with todo := rest }
  | .landingLost t tag due => step s = exec (.landingLost t tag due) { s with todo := rest }
  | .holdDelivery t q mark => step s = exec (.holdDelivery t q mark) { s with todo := rest }
  | .holdEnd t => step s = exec (.holdEnd t) { s with todo := rest }
  | .voltageDroop t part => step s = exec (.voltageDroop t part) { s with todo := rest }
  | .localTrimUpdate t => step s = exec (.localTrimUpdate t) { s with todo := rest }
  | .waferTrimUpdate links => step s = exec (.waferTrimUpdate links) { s with todo := rest }
  | .deadbandSlewSet db sl => step s = exec (.deadbandSlewSet db sl) { s with todo := rest }
  | .throttle cut => step s = exec (.throttle cut) { s with todo := rest }
  | .railChange field place high => step s = exec (.railChange field place high) { s with todo := rest }
  | .countUpset t d => step s = exec (.countUpset t d) { s with todo := rest }
  | .bitUpset p mask => step s = exec (.bitUpset p mask) { s with todo := rest }
  | .alignment t => step s = exec (.alignment t) { s with todo := rest }
  | .peerLinkLoss port => step s = exec (.peerLinkLoss port) { s with todo := rest }
  | .gateRelease cl n => step s = exec (.gateRelease cl n) { s with todo := rest }
  | .gateTimeout cl n => step s = exec (.gateTimeout cl n) { s with todo := rest }
  | .barrierPhaseCompletion cl n => step s = exec (.barrierPhaseCompletion cl n) { s with todo := rest }
  | .barrierTimeout st n => step s = exec (.barrierTimeout st n) { s with todo := rest }
  | .nonPreEmptibleCap st => step s = exec (.nonPreEmptibleCap st) { s with todo := rest }
  | .weightArrival cl rcv share => step s = exec (.weightArrival cl rcv share) { s with todo := rest }
  | .jcbTotalArrival st n => step s = exec (.jcbTotalArrival st n) { s with todo := rest }
  | .jcbPostArrival cl => step s = exec (.jcbPostArrival cl) { s with todo := rest }
  | .strandRetirement st => step s = exec (.strandRetirement st) { s with todo := rest }
  | .claimEvaluation cl => step s = exec (.claimEvaluation cl) { s with todo := rest }
  | .commandActivation c => step s = exec (.commandActivation c) { s with todo := rest }
  | .readLineRequest c m j => step s = exec (.readLineRequest c m j) { s with todo := rest }
  | .stagingFlitRelease c m i => step s = exec (.stagingFlitRelease c m i) { s with todo := rest }
  | .stagingDeposit c m k => step s = exec (.stagingDeposit c m k) { s with todo := rest }
  | .stagingSourceRead c m k => step s = exec (.stagingSourceRead c m k) { s with todo := rest }
  | .stagingWriteFlit c m i => step s = exec (.stagingWriteFlit c m i) { s with todo := rest }
  | .stagingWriteCommit c m => step s = exec (.stagingWriteCommit c m) { s with todo := rest }
  | .trackerFire c => step s = exec (.trackerFire c) { s with todo := rest }
  | .timelineAdvance c => step s = exec (.timelineAdvance c) { s with todo := rest }
  | .flagWrite c m => step s = exec (.flagWrite c m) { s with todo := rest }
  | .fatalStop cl => step s = exec (.fatalStop cl) { s with todo := rest }
  | .uncorrectableHalt cl => step s = exec (.uncorrectableHalt cl) { s with todo := rest }
  | .preemptionStop cl => step s = exec (.preemptionStop cl) { s with todo := rest }
  | .selfTestMove field row col => step s = exec (.selfTestMove field row col) { s with todo := rest }
  | .selfTestMoveBack field row => step s = exec (.selfTestMoveBack field row) { s with todo := rest }
  | .abortStop cl => step s = exec (.abortStop cl) { s with todo := rest }
  | .claimRelease cl => step s = exec (.claimRelease cl) { s with todo := rest }
  | .powerOn b => step s = exec (.powerOn b) { s with todo := rest }
  | .hostFarWrite addr w => step s = exec (.hostFarWrite addr w) { s with todo := rest }
  | .hostFarRead addr len => step s = exec (.hostFarRead addr len) { s with todo := rest }
  | .qnotifyWrite q w => step s = exec (.qnotifyWrite q w) { s with todo := rest }
  | .hostRegisterWrite off v => step s = exec (.hostRegisterWrite off v) { s with todo := rest }
  | .packetRead q => step s = exec (.packetRead q) { s with todo := rest }
  | .fleetLaunch packet args => step s = exec (.fleetLaunch packet args) { s with todo := rest }
  | .managementSidebandMessage msg => step s = exec (.managementSidebandMessage msg) { s with todo := rest }
  | .load a => step s = exec (.load a) { s with todo := rest }
  | .evict a => step s = exec (.evict a) { s with todo := rest }
  | .lease a => step s = exec (.lease a) { s with todo := rest }
  | .unlease a => step s = exec (.unlease a) { s with todo := rest }
  | .unleaseEffect slot => step s = exec (.unleaseEffect slot) { s with todo := rest }
  | .queueEnable a => step s = exec (.queueEnable a) { s with todo := rest }
  | .queueDisable a => step s = exec (.queueDisable a) { s with todo := rest }
  | .queueDisableDrain q => step s = exec (.queueDisableDrain q) { s with todo := rest }
  | .invtlb a => step s = exec (.invtlb a) { s with todo := rest }
  | .preempt a => step s = exec (.preempt a) { s with todo := rest }
  | .resume a => step s = exec (.resume a) { s with todo := rest }
  | .abort a => step s = exec (.abort a) { s with todo := rest }
  | .fwload a => step s = exec (.fwload a) { s with todo := rest }
  | .record a => step s = exec (.record a) { s with todo := rest }
  | .restart a => step s = exec (.restart a) { s with todo := rest }
  | .opNotAssigned op => step s = exec (.opNotAssigned op) { s with todo := rest }
  | .switchRequest c addr => step s = exec (.switchRequest c addr) { s with todo := rest }
  | .firmwareSwitch c => step s = exec (.firmwareSwitch c) { s with todo := rest }
  | .alive sig => step s = exec (.alive sig) { s with todo := rest }
  | .accept sig => step s = exec (.accept sig) { s with todo := rest }
  | .rollback c => step s = exec (.rollback c) { s with todo := rest }
  | .getVersion => step s = exec (.getVersion) { s with todo := rest }
  | .getCapabilities flags => step s = exec (.getCapabilities flags) { s with todo := rest }
  | .negotiateAlgorithms asym hash => step s = exec (.negotiateAlgorithms asym hash) { s with todo := rest }
  | .getDigests => step s = exec (.getDigests) { s with todo := rest }
  | .getCertificate slot offset len => step s = exec (.getCertificate slot offset len) { s with todo := rest }
  | .challenge slot nonce => step s = exec (.challenge slot nonce) { s with todo := rest }
  | .getMeasurements index sign => step s = exec (.getMeasurements index sign) { s with todo := rest }
  | .accessionRecordWrite slot rec bart => step s = exec (.accessionRecordWrite slot rec bart) { s with todo := rest }
  | .retainedImageFault c => step s = exec (.retainedImageFault c) { s with todo := rest }
  | .tileFailsSelfTest field row => step s = exec (.tileFailsSelfTest field row) { s with todo := rest }

end Sys2Proof.Machine
end

