-- ==== Sys2Proof/Certificates/Slice0/Obligations.lean ====
section
/-!
DEFINITION. The statements for the provers. Each docstring names the rules of spec/ that the statement formalises; a clause that
rests on a choice of the model says so with its log entry.
-/

open Sys2Proof Sys2Proof.Machine

/-! ## Encodings (spec/02) -/

/-- R42, R47 to R73: the decoder gives every well-formed instruction back from its syllable, with every operand at every value
that the encoding admits. The four staging commands share one syllable (R72), which `canon` says. -/
def Obligations.CodecRoundTrip : Prop :=
  ∀ (i : Instr) (c : SlotClass) (w : BitVec 40), i.wellFormed = true → i.encode = some (c, w) →
    decodeSyllable c w = some i.canon

/-- R42, R46: a bundle of one well-formed instruction decodes to that instruction alone, in its class. -/
def Obligations.BundleRoundTrip : Prop :=
  ∀ (i : Instr) (c : SlotClass) (w : BitVec 40) (bytes : List Byte), i.wellFormed = true → i.encode = some (c, w) →
    i.bundleBytes = some bytes → bytes.length = 6 ∧ decodeBundle bytes = [(c, some i.canon)]

/-- R74: opcode 0xFF is unassigned in every class and 0x00 in every class other than C, and a syllable that decodes at all has
no reserved bit set, since its instruction's own encoding is the syllable. -/
def Obligations.UnassignedEncodings : Prop :=
  (∀ (c : SlotClass) (w : BitVec 40), w.extractLsb' 32 8 = 0xFF → decodeSyllable c w = none) ∧
  (∀ (c : SlotClass) (w : BitVec 40), c ≠ .c → w.extractLsb' 32 8 = 0 → decodeSyllable c w = none) ∧
  ∀ (c : SlotClass) (w : BitVec 40) (i : Instr), decodeSyllable c w = some i → i.wellFormed = true ∧ i.encode = some (c, w)

/-- Words that spec/ works out from its encodings, and their instructions: the syllables of spec/04 R110, of the tables of encodings
of spec/06 (`cvt`, `vpk`) and of spec/07 (`iadd`, `vunzip`), and of spec/13 R351 and R353. -/
def Obligations.DecodingWords : Prop :=
  decodeSyllable .c 0x10_0008_03E8 = some (.tkawait (.reg 2) 1000) ∧
  decodeSyllable .c 0x20_0000_1234 = some (.trap 0x1234) ∧
  decodeSyllable .c 0x24_0600_0A80 = some (.crget 3 true .heapOff) ∧
  decodeSyllable .c 0x25_0014_0C00 = some (.crset (.reg 5) false .span) ∧
  decodeSyllable .x 0x01_0A12_4028 = some (.cvt ⟨.reg 5, .reg 4, .fam ⟨false, false, .p4⟩, .flt .fp32, .sto8, false⟩) ∧
  decodeSyllable .x 0x04_1408_1000 = some (.vpk ⟨.reg 10, .reg 1, .flt .bf16, .flt .fp32, .rne, false⟩) ∧
  decodeSyllable .v0 0x20_0C18_39C6 = some (.iadd ⟨.v0, .reg 6, .reg 6, .reg 7, 3, ⟨true, .b⟩⟩ true) ∧
  decodeSyllable .v1 0x47_1008_1802 = some (.vunzip ⟨.v1, .reg 4, .reg 2, .reg 3, 0, .flt .fp16⟩)

/-! ## Reset, start and invariants -/

/-- What the module holds after reset, where spec/ gives the value: the queue registers (spec/14 R357), the mailbox (R366), the
measurement registers (R372), no claim, no strand, no operation in flight, every byte of memory in its canonical form.
The empty catalogue without leases is the model's choice (log entry 2), and the empty lists of work are fields of its own
(log entry 3). -/
def Obligations.ResetState : Prop :=
  (∀ q : BitVec 6, (State.reset.queues.at q).en = false ∧ (State.reset.queues.at q).target = 0 ∧
    (State.reset.queues.at q).qread = 0 ∧ (State.reset.queues.at q).waitV = false) ∧
  (State.reset.mbox.ring = false ∧ State.reset.mbox.busy = false ∧ State.reset.mbox.done = false ∧
    State.reset.mbox.result = 0) ∧
  (∀ i : BitVec 3, State.reset.meas.at i = 0) ∧
  (∀ i : BitVec 8, (State.reset.cats.at i).st = .empty ∧ (State.reset.cats.at i).leased = false) ∧
  State.reset.claims = [] ∧ State.reset.cores = [] ∧ State.reset.agenda = [] ∧ State.reset.todo = [] ∧
  FabricLegal State.reset ∧ MemoryCanonical State.reset

/-- R123: what the registers and latches hold at the start tick of a strand, and that pre-emption and resumption change no strand's
state. Also spec/04 R105, R111, R116, spec/06 R154, spec/13 R349: the rest of a strand at its start tick. -/
def Obligations.StrandStart : Prop :=
  (∀ (i : Image) (args : List Byte) (start : Nat) (st : StrandId) (root : Bool),
    let c := buildCore i args start st root
    (∀ r : BitVec 6, c.readG r = .clean 0 ∧ c.readV r = .clean 0) ∧ (∀ r : BitVec 4, c.readA r = .clean 0) ∧
    (∀ r : BitVec 4, c.readK r = if r = 0 then .clean 0xFFFF else .clean 0) ∧
    (∀ l : Latch, (c.latchOf l).valid = false) ∧ c.loops = [] ∧ c.span = false ∧ c.pc = 0 ∧ c.status = .running ∧
    c.faultWord = 0 ∧ c.fdata = 0 ∧ c.epc = 0 ∧ c.etgt = 0 ∧ c.tvecEn = false ∧ c.tvec = 0 ∧ c.escr = 0 ∧ c.dbg = false ∧
    c.taint = false ∧ c.npre = none ∧ c.posted = false ∧ c.rebase = BitVec.ofNat 64 start ∧
    c.weight.toNat = (if root then 2 ^ 32 else 0) ∧
    c.rngN = 0 ∧ c.rngK = BitVec.ofNat 64 (st.core.toNat + 4 * st.tile.x + 1024 * st.tile.y)) ∧
  ∀ (cl : Nat) (a : MbArgs) (s u : State), (exec (.preemptionStop cl) s = .next u ∨ exec (.resume a) s = .next u) →
    u.cores = s.cores

/-- Every step keeps the fabric parameters legal (spec/01 R25, R40, spec/10 R266, R277): no instruction and no event but a boot
or the forming of a fleet sets them, and those set legal values. -/
def Obligations.StepKeepsFabric : Prop :=
  ∀ s u : State, FabricLegal s → step s = .next u → FabricLegal u

/-- Every step keeps far memory, every bank and the memory of every embedded controller in the canonical form. -/
def Obligations.StepKeepsMemoryForm : Prop :=
  ∀ s u : State, MemoryCanonical s → step s = .next u → MemoryCanonical u

/-! ## Bundles, faults and traps (spec/02, spec/04, spec/13) -/

/-- R43, R56, R57: when the bytes at a running strand's program counter are a bundle of one syllable that decodes to a legal
instruction i, and neither R101, a wait form (R113) nor `tkawait` (R110) holds it back, the step is exec of i, after which the
program counter moves as `afterIssue` says, unless i has taken a fault. A wait form whose condition is unmet in an open span makes
the strand wait at its bundle, and a poisoned guard, base, comparand or count of it taints the strand from that tick (R343). The
bundle's words are read with their codes (R344). What a poisoned wait taints is DEDUCED (log entry 36).
That a step issues one strand's bundle is the model's own form of a tick (log entry 3). -/
def Obligations.StepRunsDecoded : Prop :=
  ∀ (s : State) (st : StrandId) (rest : List Task) (c : SlotClass) (i : Instr) (at_ : BitVec 64) (bytes : List Byte),
    s.todo = .issue st :: rest → isLive s st.tile.claim = true → presents s st = true →
    let p := checkFetch (presenting s st rest) st
    fetch (p.tileOf st.tile) st.core.toNat (p.coreOf st).pc = .bundle at_ bytes →
    decodeBundle bytes = [(c, some i)] → i.legalOn st.core = true → (p.coreOf st).pendingFault = none →
    (takenTransfer p i = false ∨ transferBarred p = false) → tkHold p [i] = .go →
    ((p.me.span = false ∨ waitOf p i ≠ some .unmet) →
      let w := wake p
      step s = match exec i w with
        | .next u => if u.note = none then .next (afterIssue w.me.xfer w.headerPc w.nextPc u) else .next u
        | .fault f => .fault f
        | .refused r => .refused r) ∧
    (p.me.span = true → waitOf p i = some .unmet → (p.me.status = .running ∨ p.me.status = .waiting) →
      let poisoned : Bool := match i with
        | .spop _ _ g => (p.guard g).psn != 0
        | .tlWait _ a => (p.me.srcA a).psn != 0
        | .waitaEq o _ => (p.guard o.g).psn != 0 || (p.me.readA o.base).psn != 0 || (p.me.readG o.d).psn != 0
        | .waitaNe o _ => (p.guard o.g).psn != 0 || (p.me.readA o.base).psn != 0 || (p.me.readG o.d).psn != 0
        | .waitaGen o _ => (p.guard o.g).psn != 0 || (p.me.readA o.base).psn != 0 || (p.me.readG o.d).psn != 0
        | _ => false
      ∃ u, step s = .next u ∧ (u.coreOf st).status = .waiting ∧ (u.coreOf st).pc = (p.coreOf st).pc ∧
        (u.coreOf st).taint = ((p.coreOf st).taint || poisoned))

/-- R57, R101, R339: which fault a bundle takes. A place outside the strand's banks or a bundle that crosses its line is an
illegal bundle; so is a taken transfer where R101 bars it; then an illegal syllable of the lowest class; then, among the slots
whose meaning faults, the lowest one with an invalid latch, else the lowest. Where none faults, all slots take effect.
The class of a barred transfer's fault and the tick that judges it are DEDUCED (log entry 42), and so is that a strand's
pending fault comes in the place of a bundle (log entry 41). The bundle's words are read with their codes (R344). -/
def Obligations.BundleFaultChoice : Prop :=
  ∀ (s : State) (st : StrandId) (rest : List Task), s.todo = .issue st :: rest → isLive s st.tile.claim = true →
    presents s st = true →
    let p := checkFetch (presenting s st rest) st
    (p.coreOf st).pendingFault = none →
    (slotsAt p st = none → step s = .next (p.fault .s0 0x01)) ∧
    ∀ l : List Slot, slotsAt p st = some l →
      (transferMisplaced p l = true → bundleWaits p l = false → step s = .next (p.fault .c 0x01)) ∧
      (transferMisplaced p l = false →
        (∀ (pre post : List Slot) (x : Slot), l = pre ++ x :: post → (∀ y ∈ pre, slotLegal st.core y = true) →
          slotLegal st.core x = false → step s = .next (p.fault x.1 0x02)) ∧
        ∀ is : List Instr, l = l.filter (slotLegal st.core) → is = l.filterMap (fun y => y.2) → tkHold p is = .go →
          (p.me.span = false ∨ someUnmet p is = false) →
          let w := wake p
          let v := sharing exec is w
          (∀ (pre post : List Instr) (i : Instr) (c : SlotClass), is = pre ++ i :: post →
            noteOf exec v i = some ⟨0x03, c⟩ → (∀ j ∈ pre, ∀ n, noteOf exec v j = some n → n.cause ≠ 0x03) →
            step s = faultIn exec is w i) ∧
          ((∀ j ∈ is, ∀ n, noteOf exec v j = some n → n.cause ≠ 0x03) →
            (∀ (pre post : List Instr) (i : Instr), is = pre ++ i :: post → (noteOf exec v i).isSome = true →
              (∀ j ∈ pre, noteOf exec v j = none) → step s = faultIn exec is w i) ∧
            ((∀ j ∈ is, noteOf exec v j = none) → step s = issueSlots exec is w)))

/-- Of R98, R99 and R107, for any address q in the place of the sequential successor: after a bundle that issues by sequential
fetch (also the first delay bundle) the loop stack decides between q and a body's start; a taken transfer leaves the stack alone.
After the first delay bundle the transfer has one to go; after the second the target issues next, where the run ends, and the
loop stack is left alone, which is the model's reading (log entry 53). -/
def Obligations.SequentialFlow : Prop :=
  ∀ (s : State) (at_ q tg : BitVec 64), s.me.idle = 0 →
    let f := flowAfter at_ q s.me.loops
    ((afterIssue none at_ q s).me = { s.me with pc := f.1, loops := f.2 } ∧
      (afterIssue (some (tg, 2)) at_ q s).me = { s.me with pc := f.1, loops := f.2, xfer := some (tg, 1) }) ∧
    (afterIssue (some (tg, 1)) at_ q s).me = { s.me with pc := tg, xfer := none } ∧
    (afterIssue none at_ q s).agenda = s.agenda ∧
    ∃ e, (afterIssue (some (tg, 1)) at_ q s).agenda = s.agenda ++ [e] ∧ e.tick = s.t + 1 ∧ e.act = .ev (.runEnd s.focus)

/-- R340: a bundle fault in an open span with TEN = 1 and ACT = 0 enters the handler: the cause, the class, DLY, the datum, the
resume address and the interrupted target are saved, the loop stack is set aside, nothing issues for two ticks, the run ends at
t + 3. No other strand and no byte changes. -/
def Obligations.TrapEntry : Prop :=
  ∀ (s : State) (cls : SlotClass) (cause : Byte) (data : Quad),
    s.me.span = true → s.me.tvecEn = true → s.me.fAct = false →
    let u := s.fault cls cause data
    u.me = { s.me with
      fCause := cause, fClass := BitVec.ofNat 3 cls.index, fCode := 0, fAct := true, fdata := data
      fDly := (match s.me.xfer with | none => 0 | some (_, n) => if n = 2 then 1 else 2)
      epc := s.headerPc.setWidth 22, etgt := (match s.me.xfer with | none => 0 | some (tg, _) => tg.setWidth 22)
      aside := s.me.loops, loops := [], xfer := none, pc := s.me.tvec.setWidth 64, idle := 2, status := .running
      synced := none, pendingFault := none, tkAt := none } ∧
    (∀ i ≠ s.focus, u.coreOf i = s.coreOf i) ∧ BytesKept s u ∧
    (∃ e, u.agenda = s.agenda ++ [e] ∧ e.tick = s.t + 3 ∧ e.act = .ev (.runEnd s.focus)) ∧
    (u.claimOf s.focus.tile.claim).faultCount = (s.claimOf s.focus.tile.claim).faultCount + 1

/-- R340, R341: a bundle fault that is not trapped is fatal: the strand issues nothing more and the claim's count stands H ticks
on, where H is 260 for a claim of one wafer; a fault while ACT = 1 is recorded as 0x75 with NEST = 1 and its own cause in
`cr.fdata`. That `cr.fault` and `cr.fdata` take an ordinary fatal fault too is DEDUCED (notes/assumptions/31.md). -/
def Obligations.FatalFault : Prop :=
  ∀ (s : State) (cls : SlotClass) (cause : Byte) (data : Quad),
    (s.me.fAct = true ∨ s.me.span = false ∨ s.me.tvecEn = false) →
    let u := s.fault cls cause data
    u.me = { s.me with
      fCause := if s.me.fAct then 0x75 else cause, fClass := BitVec.ofNat 3 cls.index, fCode := 0
      fNest := s.me.fNest || s.me.fAct, fdata := if s.me.fAct then cause.setWidth 64 else data
      fDly := (match s.me.xfer with | none => 0 | some (_, n) => if n = 2 then 1 else 2)
      status := .stopped, synced := none, pendingFault := none, tkAt := none } ∧
    presents u s.focus = false ∧
    (∀ i ≠ s.focus, u.coreOf i = s.coreOf i) ∧ BytesKept s u ∧
    ((s.claimOf s.focus.tile.claim).fatal = none → (u.claimOf s.focus.tile.claim).fatal = some s.t ∧
      ((s.claimOf s.focus.tile.claim).fleet = false → ∃ e, u.agenda = s.agenda ++ [e] ∧ e.tick = s.t + 260 ∧
        e.phase = phStop ∧ e.act = .ev (.fatalStop s.focus.tile.claim))) ∧
    (∀ d, (s.claimOf s.focus.tile.claim).fatal = some d → (u.claimOf s.focus.tile.claim).fatal = some d ∧ u.agenda = s.agenda)

/-- R342: the fault record counts every fault and stays in order of tick, tile, core and class; it holds the first 64 of them: an
entry left out comes before none that is kept. -/
def Obligations.FaultRecordOrder : Prop :=
  ∀ (s : State) (cl : Nat) (r : FaultRec), (s.claimOf cl).faults.length = min (s.claimOf cl).faultCount 64 →
    (s.claimOf cl).faults.Pairwise (fun a b => b.before a = false) →
    let c := (recordFault s cl r).claimOf cl
    c.faultCount = (s.claimOf cl).faultCount + 1 ∧ c.faults.length = min c.faultCount 64 ∧
      c.faults.Pairwise (fun a b => b.before a = false) ∧ ((s.claimOf cl).faultCount < 64 → r ∈ c.faults) ∧
      ∀ x ∈ r :: (s.claimOf cl).faults, x ∉ c.faults → ∀ y ∈ c.faults, x.before y = false

/-- R351, R340: `trap`, `svc` and `brkpt` are bundle faults with their own causes and their code; the handler resumes at the
next sequential bundle. `brkpt` with BE = 0 does nothing; `trap` and `svc` do not look at BE.
R352: `iret` in a handler fetches at `cr.epc` at t + 3, where the run ends, goes on with the interrupted transfer as DLY
says, and at t + 3 leaves the handler and takes the loop stack back; outside a handler it takes 0x75. -/
def Obligations.TrapsAndReturns : Prop :=
  (∀ (code : BitVec 16) (s : State),
     (s.me.dbg = false → exec (.brkpt code) s = .next s) ∧
     (s.me.span = true → s.me.tvecEn = true → s.me.fAct = false →
       ∀ p ∈ ([(.trap, 0x7F), (.svc, 0x7D), (.brkpt, 0x7E)] : List ((BitVec 16 → Instr) × Byte)),
         (p.2 = 0x7E → s.me.dbg = true) → ∃ u, exec (p.1 code) s = .next u ∧ u.me.fCause = p.2 ∧ u.me.fClass = 7 ∧ u.me.fCode = code ∧ u.me.fAct = true ∧
           u.me.epc = s.nextPc.setWidth 22 ∧ u.me.pc = s.me.tvec.setWidth 64 ∧ u.me.idle = 2 ∧ u.me.aside = s.me.loops ∧
           u.me.g = s.me.g ∧ u.me.a = s.me.a ∧ u.me.v = s.me.v ∧ u.me.k = s.me.k ∧ BytesKept s u) ∧
     (s.me.fAct = false → (s.me.span = false ∨ s.me.tvecEn = false) →
       ∀ p ∈ ([(.trap, 0x7F), (.svc, 0x7D), (.brkpt, 0x7E)] : List ((BitVec 16 → Instr) × Byte)),
         (p.2 = 0x7E → s.me.dbg = true) → ∃ u, exec (p.1 code) s = .next u ∧ u.me.fCause = p.2 ∧ u.me.fCode = code ∧ u.me.status = .stopped) ∧
     (s.me.fAct = true →
       ∀ p ∈ ([(.trap, 0x7F), (.svc, 0x7D), (.brkpt, 0x7E)] : List ((BitVec 16 → Instr) × Byte)),
         (p.2 = 0x7E → s.me.dbg = true) → ∃ u, exec (p.1 code) s = .next u ∧ u.me.fCause = 0x75 ∧ u.me.fNest = true ∧ u.me.fdata = p.2.setWidth 64 ∧
           u.me.status = .stopped)) ∧
  ((∀ s : State, s.me.fAct = false → exec .iret s = .next (s.fault .c 0x75)) ∧
   (∀ s : State, s.me.fAct = true → ∃ u e f, exec .iret s = .next u ∧
     u.me = { s.me with
       pc := s.me.epc.setWidth 64, idle := 2
       xfer := if s.me.fDly = 1 then some (s.me.etgt.setWidth 64, 2)
         else if s.me.fDly = 2 then some (s.me.etgt.setWidth 64, 1) else none } ∧
     (∀ i ≠ s.focus, u.coreOf i = s.coreOf i) ∧ u.agenda = s.agenda ++ [e, f] ∧ e.tick = s.t + 3 ∧
     e.act = .ev (.runEnd s.focus) ∧ f.tick = s.t + 3 ∧ f.act = .ev (.resultLanding s.focus .leave) ∧ BytesKept s u) ∧
   ∀ (st : StrandId) (s : State), ∃ u, exec (.resultLanding st .leave) s = .next u ∧
     u.coreOf st = { s.coreOf st with fAct := false, loops := (s.coreOf st).aside, aside := [] } ∧
     ∀ i ≠ st, u.coreOf i = s.coreOf i)

/-- R55, R343: a guarded form that is no lane form and whose guard bit 0 is 0 does nothing, but that a poisoned guard taints the
strand.
R50, R56: a syllable of any form that names an invalid latch in a source faults with 0x03 in its slot's class: a guarded form
where it is enabled, a lane form whatever its guard enables, an unguarded one always. -/
def Obligations.GuardsAndLatches : Prop :=
  (∀ (i : Instr) (g : Guard) (s : State), nonLaneGuard i = some g → s.guardOn g = false →
     exec i s = .next (s.taintIf ((s.guard g).psn != 0))) ∧
  ∀ (i : Instr) (c : SlotClass) (w : BitVec 40) (s : State), i.encode = some (c, w) →
    (∃ l ∈ latchesRead i, (s.me.latchOf l).valid = false) → (∀ g, nonLaneGuard i = some g → s.guardOn g = true) →
    exec i s = .next (s.fault c 0x03)

/-- R50, R51, R54, R55, R16: a landing writes its registers and its unit's latch, which becomes valid; a write to g0 or k0 is
discarded; a lane write keeps the disabled lanes and a k write the disabled bits. R50, R99: where a run ends all eight latches
become invalid. Nothing else of any strand changes, the loop stack among it, and no byte of any bank or of far memory. -/
def Obligations.ResultLanding : Prop :=
  ∀ (st : StrandId) (s : State) (l : Latch) (x : MVec),
    (∀ (i : BitVec 6) (v : MWord), ∃ u, exec (.resultLanding st (.result [.g i v] (some (l, x)))) s = .next u ∧
      (u.coreOf st).readG i = (if i = 0 then .clean 0 else v) ∧ (∀ j ≠ i, (u.coreOf st).readG j = (s.coreOf st).readG j) ∧
      (u.coreOf st).latchOf l = ⟨x, true⟩ ∧ (∀ m ≠ l, (u.coreOf st).latchOf m = (s.coreOf st).latchOf m) ∧
      u.coreOf st = { s.coreOf st with g := (u.coreOf st).g, latch := (u.coreOf st).latch } ∧
      (∀ o ≠ st, u.coreOf o = s.coreOf o) ∧ BytesKept s u) ∧
    (∀ (i : BitVec 4) (v : MQuad), ∃ u, exec (.resultLanding st (.result [.a i v] none)) s = .next u ∧
      (u.coreOf st).readA i = v ∧ (∀ j ≠ i, (u.coreOf st).readA j = (s.coreOf st).readA j) ∧
      u.coreOf st = { s.coreOf st with a := (u.coreOf st).a } ∧ (∀ o ≠ st, u.coreOf o = s.coreOf o) ∧ BytesKept s u) ∧
    (∀ (i : BitVec 6) (v : MVec) (en : Mask), ∃ u, exec (.resultLanding st (.result [.v i v en] (some (l, x)))) s = .next u ∧
      (∀ k < 16, elem 32 ((u.coreOf st).readV i).val k =
        if en.getLsbD k then elem 32 v.val k else elem 32 ((s.coreOf st).readV i).val k) ∧
      (∀ j ≠ i, (u.coreOf st).readV j = (s.coreOf st).readV j) ∧ (u.coreOf st).latchOf l = ⟨x, true⟩ ∧
      (∀ m ≠ l, (u.coreOf st).latchOf m = (s.coreOf st).latchOf m) ∧
      u.coreOf st = { s.coreOf st with v := (u.coreOf st).v, latch := (u.coreOf st).latch } ∧
      (∀ o ≠ st, u.coreOf o = s.coreOf o) ∧ BytesKept s u) ∧
    (∀ (i : BitVec 4) (v : MMask) (en : Mask), ∃ u, exec (.resultLanding st (.result [.k i v en] none)) s = .next u ∧
      (u.coreOf st).readK 0 = .clean 0xFFFF ∧
      (i ≠ 0 → ∀ b < 16, ((u.coreOf st).readK i).val.getLsbD b =
        if en.getLsbD b then v.val.getLsbD b else ((s.coreOf st).readK i).val.getLsbD b) ∧
      (∀ j ≠ i, (u.coreOf st).readK j = (s.coreOf st).readK j) ∧
      u.coreOf st = { s.coreOf st with k := (u.coreOf st).k } ∧ (∀ o ≠ st, u.coreOf o = s.coreOf o) ∧ BytesKept s u) ∧
    ∃ u, exec (.runEnd st) s = .next u ∧ (∀ m, ((u.coreOf st).latchOf m).valid = false) ∧
      u.coreOf st = { s.coreOf st with latch := (u.coreOf st).latch } ∧ (∀ o ≠ st, u.coreOf o = s.coreOf o) ∧ BytesKept s u

/-! ## Scalar and address forms (spec/05) -/

/-- R124, R126 to R131, R97: an enabled S form of two g sources puts the value that its rule gives into D and into its slot's
latch after its exposed latency, and does nothing else; the value is poisoned when a source is (spec/13 R343).
R126, R129, R131, R133, R134: the S forms of one g source and of an immediate. -/
def Obligations.ScalarResults : Prop :=
  (∀ p ∈ scalarBinary, ∀ (o : SG3 6 6 6) (s : State),
     s.guardOn o.g = true → s.me.ok o.a = true → s.me.ok o.b = true →
     exec (p.1 o) s = .next ((s.taintIf (anyPsn (s.guard o.g).psn)).landG o.sl.cls p.2.1 o.d (some (sLatch o.sl))
       ⟨p.2.2 (s.me.srcG o.a).val (s.me.srcG o.b).val, (s.me.srcG o.a).psn ||| (s.me.srcG o.b).psn⟩)) ∧
  ((∀ p ∈ scalarUnary, ∀ (o : SG2 6 6) (s : State), s.guardOn o.g = true → s.me.ok o.a = true →
     exec (p.1 o) s = .next ((s.taintIf (anyPsn (s.guard o.g).psn)).landG o.sl.cls 1 o.d (some (sLatch o.sl))
       ⟨p.2 (s.me.srcG o.a).val, (s.me.srcG o.a).psn⟩)) ∧
   (∀ p ∈ scalarImmediate, ∀ (o : SI 6) (s : State), s.me.ok o.a = true →
     exec (p.1 o) s = .next (s.landG o.sl.cls 1 o.d (some (sLatch o.sl))
       ⟨p.2 (s.me.srcG o.a).val o.imm, (s.me.srcG o.a).psn⟩)) ∧
   (∀ p ∈ scalarShiftImmediate, ∀ (o : SSh) (s : State), s.me.ok o.a = true →
     exec (p.1 o) s = .next (s.landG o.sl.cls 1 o.d (some (sLatch o.sl))
       ⟨p.2 (s.me.srcG o.a).val o.n.toNat, (s.me.srcG o.a).psn⟩)) ∧
   (∀ p ∈ scalarBitField, ∀ (o : SBf) (s : State), s.me.ok o.a = true →
     exec (p.1 o) s = .next (s.landG o.sl.cls 1 o.d (some (sLatch o.sl))
       ⟨p.2 (s.me.srcG o.a).val o.pos.toNat (o.wid.toNat + 1), (s.me.srcG o.a).psn⟩)))

/-- R125, R132, R134: the moves, the selection and `bfi`. `movhi` keeps bits [13:0] of the register that D names and `bfi` the
bits outside its field; with write-back suppressed both results enter the latch only (R52).
R135, R138: address arithmetic keeps bits [63:56] of the base and works modulo 2^56; the transfers between the files. -/
def Obligations.MovesAndAddresses : Prop :=
  ((∀ (sl : SSlot) (d : Dst 6) (imm : BitVec 18) (s : State),
     exec (.movi sl d imm) s = .next (s.landG sl.cls 1 d (some (sLatch sl)) (.clean (wordOf imm.toInt)))) ∧
   (∀ (sl : SSlot) (w : Bool) (d : BitVec 6) (imm : BitVec 18) (s : State),
     exec (.movhi sl w d imm) s = .next (s.landG sl.cls 1 (if w then .none else .reg d) (some (sLatch sl))
       ⟨BitVec.ofNat 32 (imm.toNat * 2 ^ 14 + (s.me.readG d).val.toNat % 2 ^ 14), (s.me.readG d).psn⟩)) ∧
   (∀ (o : SG3 6 6 6) (s : State), s.me.ok o.a = true → s.me.ok o.b = true →
     exec (.sel o) s = .next ((s.taintIf (anyPsn (s.guard o.g).psn)).landG o.sl.cls 1 o.d (some (sLatch o.sl))
       ⟨if s.guardOn o.g then (s.me.srcG o.a).val else (s.me.srcG o.b).val,
         (s.me.srcG o.a).psn ||| (s.me.srcG o.b).psn⟩)) ∧
   (∀ (sl : SSlot) (w : Bool) (d : BitVec 6) (a : Src 6) (pos wid : BitVec 5) (s : State),
     s.me.ok a = true → pos.toNat + wid.toNat + 1 ≤ 32 →
     ∃ r : Word, exec (.bfi sl w d a pos wid) s = .next (s.landG sl.cls 1 (if w then .none else .reg d) (some (sLatch sl))
         ⟨r, (s.me.readG d).psn ||| (s.me.srcG a).psn⟩) ∧
       ∀ i < 32, r.getLsbD i = if pos.toNat ≤ i ∧ i ≤ pos.toNat + wid.toNat then (s.me.srcG a).val.getLsbD (i - pos.toNat)
         else (s.me.readG d).val.getLsbD i)) ∧
  ((∀ (o : SG3 4 4 6) (s : State), s.guardOn o.g = true → s.me.ok o.a = true → s.me.ok o.b = true →
     exec (.aadd o) s = .next ((s.taintIf (anyPsn (s.guard o.g).psn)).landA o.sl.cls 1 o.d (some (sLatch o.sl))
       ⟨BitVec.ofInt 64 (((s.me.srcA o.a).val.toNat / 2 ^ 56 * 2 ^ 56 : Nat) +
           ((s.me.srcA o.a).val.toNat + (s.me.srcG o.b).val.toInt) % 2 ^ 56),
         (s.me.srcA o.a).psn ||| (s.me.srcG o.b).psn⟩)) ∧
   (∀ (o : SI 4) (s : State), s.me.ok o.a = true →
     exec (.aaddi o) s = .next (s.landA o.sl.cls 1 o.d (some (sLatch o.sl))
       ⟨BitVec.ofInt 64 (((s.me.srcA o.a).val.toNat / 2 ^ 56 * 2 ^ 56 : Nat) +
           ((s.me.srcA o.a).val.toNat + o.imm.toInt) % 2 ^ 56), (s.me.srcA o.a).psn⟩)) ∧
   (∀ (o : SG3 4 4 4) (s : State), s.guardOn o.g = true → s.me.ok o.a = true → s.me.ok o.b = true →
     exec (.asub o) s = .next ((s.taintIf (anyPsn (s.guard o.g).psn)).landA o.sl.cls 1 o.d (some (sLatch o.sl))
       ⟨BitVec.ofInt 64 (Int.bmod ((s.me.srcA o.a).val.toNat - (s.me.srcA o.b).val.toNat) (2 ^ 56)),
         (s.me.srcA o.a).psn ||| (s.me.srcA o.b).psn⟩)) ∧
   (∀ (o : SG3 4 6 6) (s : State), s.guardOn o.g = true → s.me.ok o.a = true → s.me.ok o.b = true →
     exec (.amk o) s = .next ((s.taintIf (anyPsn (s.guard o.g).psn)).landA o.sl.cls 1 o.d (some (sLatch o.sl))
       ⟨BitVec.ofNat 64 ((s.me.srcG o.a).val.toNat * 2 ^ 32 + (s.me.srcG o.b).val.toNat),
         (s.me.srcG o.a).psn ||| (s.me.srcG o.b).psn⟩)) ∧
   (∀ (o : SG2 6 4) (s : State), s.guardOn o.g = true → s.me.ok o.a = true →
     exec (.ahi o) s = .next ((s.taintIf (anyPsn (s.guard o.g).psn)).landG o.sl.cls 1 o.d (some (sLatch o.sl))
         ⟨BitVec.ofNat 32 ((s.me.srcA o.a).val.toNat / 2 ^ 32), (s.me.srcA o.a).psn⟩) ∧
       exec (.alo o) s = .next ((s.taintIf (anyPsn (s.guard o.g).psn)).landG o.sl.cls 1 o.d (some (sLatch o.sl))
         ⟨BitVec.ofNat 32 ((s.me.srcA o.a).val.toNat % 2 ^ 32), (s.me.srcA o.a).psn⟩)) ∧
   (∀ (o : SG2 4 6) (s : State), s.guardOn o.g = true → s.me.ok o.a = true →
     exec (.kset o) s = .next ((s.taintIf (anyPsn (s.guard o.g).psn)).landK o.sl.cls 1 o.d (some (sLatch o.sl)) 0xFFFF
       ⟨BitVec.ofNat 16 (s.me.srcG o.a).val.toNat, (s.me.srcG o.a).psn⟩)) ∧
   (∀ (o : SG2 6 4) (s : State), s.guardOn o.g = true → s.me.ok o.a = true →
     exec (.kget o) s = .next ((s.taintIf (anyPsn (s.guard o.g).psn)).landG o.sl.cls 1 o.d (some (sLatch o.sl))
       ⟨BitVec.ofNat 32 (s.me.srcK o.a).val.toNat, (s.me.srcK o.a).psn⟩)))

/-! ## Vector forms (spec/07) -/

/-- R171 to R174, R97: a floating form puts into each element of D the value of its rule, rounded once; lanes whose guard bit is
0 are left to `landV` (R55). It completes whatever the guard enables, once its sources are valid (R56). The lesser and the greater
of two values are one of them, NaN with a NaN, and -0 is less than +0; the special operands of R174 give the results of its table.
That the values of frcp, frsq, fexp2 and flog2 between these are the exact ones rounded once is the model's computation of them
(log entry 13, DEDUCED). -/
def Obligations.FloatResults : Prop :=
  (∀ p ∈ floatBinary, ∀ (o : VG3 6 6 6 FTy) (s : State), s.me.ok o.a = true → s.me.ok o.b = true →
    ∃ r : Vec, exec (p.1 o) s = .next ((s.taintIf (anyPsn (s.guard o.g).psn)).landV o.sl.cls p.2.1 o.d (some (vLatch o.sl))
        (s.guard o.g).val ⟨r, (s.me.srcV o.a).psn ||| (s.me.srcV o.b).psn⟩) ∧
      ∀ j < 512 / (Fmt.flt o.ty).width, elem (Fmt.flt o.ty).width r j =
        p.2.2 o.ty (elem (Fmt.flt o.ty).width (s.me.srcV o.a).val j) (elem (Fmt.flt o.ty).width (s.me.srcV o.b).val j)
          % 2 ^ (Fmt.flt o.ty).width) ∧
  (∀ p ∈ floatUnary, ∀ (o : VG2 6 6 FTy) (s : State), s.me.ok o.a = true →
    ∃ r : Vec, exec (p.1 o) s = .next ((s.taintIf (anyPsn (s.guard o.g).psn)).landV o.sl.cls p.2.1 o.d (some (vLatch o.sl))
        (s.guard o.g).val ⟨r, (s.me.srcV o.a).psn⟩) ∧
      ∀ j < 512 / (Fmt.flt o.ty).width, elem (Fmt.flt o.ty).width r j =
        p.2.2 o.ty (elem (Fmt.flt o.ty).width (s.me.srcV o.a).val j) % 2 ^ (Fmt.flt o.ty).width) ∧
  (∀ p ∈ floatFused, ∀ (o : VG4 6 6 FTy) (s : State), s.me.ok o.a = true → s.me.ok o.b = true →
    ∃ r : Vec, exec (p.1 o) s = .next ((s.taintIf (anyPsn (s.guard o.g).psn)).landV o.sl.cls 4
        (if o.w then .none else .reg o.d) (some (vLatch o.sl)) (s.guard o.g).val
        ⟨r, (s.me.srcV o.a).psn ||| (s.me.srcV o.b).psn ||| (s.me.readV o.d).psn⟩) ∧
      ∀ j < 512 / (Fmt.flt o.ty).width, elem (Fmt.flt o.ty).width r j =
        roundNum o.ty (p.2 (decodeNum (.flt o.ty) (elem (Fmt.flt o.ty).width (s.me.srcV o.a).val j))
          (decodeNum (.flt o.ty) (elem (Fmt.flt o.ty).width (s.me.srcV o.b).val j))
          (decodeNum (.flt o.ty) (elem (Fmt.flt o.ty).width (s.me.readV o.d).val j))) % 2 ^ (Fmt.flt o.ty).width) ∧
  (∀ (o : VG3 6 6 6 HTy) (s : State), s.me.ok o.a = true → s.me.ok o.b = true →
    ∃ r : Vec, exec (.dot2 o) s = .next ((s.taintIf (anyPsn (s.guard o.g).psn)).landV o.sl.cls 4 o.d (some (vLatch o.sl))
        (s.guard o.g).val ⟨r, (s.me.srcV o.a).psn ||| (s.me.srcV o.b).psn⟩) ∧
      ∀ i < 16, elem 32 r i = roundNum .fp32
        (((decodeNum (.flt o.ty.fty) (elem 16 (s.me.srcV o.a).val (2 * i))).mul
            (decodeNum (.flt o.ty.fty) (elem 16 (s.me.srcV o.b).val (2 * i)))).add
          ((decodeNum (.flt o.ty.fty) (elem 16 (s.me.srcV o.a).val (2 * i + 1))).mul
            (decodeNum (.flt o.ty.fty) (elem 16 (s.me.srcV o.b).val (2 * i + 1))))) % 2 ^ 32) ∧
  ∀ t : FTy,
    let m := 2 ^ ((Fmt.flt t).width - 1)
    let inf := (specialCodes t).1
    let nan := (specialCodes t).2.1
    let one := (specialCodes t).2.2
    (∀ a < 2 * m, ∀ b < 2 * m, (fminCode (.flt t) a b, fmaxCode (.flt t) a b) =
      match (decodeNum (.flt t) a).cmp (decodeNum (.flt t) b) with
      | none => (nan, nan)
      | some .lt => (a, b)
      | some .gt => (b, a)
      | some .eq => if a = b then (a, a) else (m, 0)) ∧
    ([0, m, inf, m + inf].map (frcpCode t) = [inf, m + inf, 0, m] ∧ [0, m, inf, m + inf].map (frsqCode t) = [inf, m + inf, 0, nan] ∧
      [0, m, inf, m + inf].map (fexp2Code t) = [one, one, inf, 0] ∧
      [0, m, inf, m + inf, one].map (flog2Code t) = [m + inf, m + inf, inf, nan, 0]) ∧
    (∀ a, 0 < a → a < inf → frcpCode t (m + a) = m + frcpCode t a ∧ frsqCode t (m + a) = nan ∧ flog2Code t (m + a) = nan) ∧
    ∀ a < 2 * m, inf < a % m → frcpCode t a = nan ∧ frsqCode t a = nan ∧ fexp2Code t a = nan ∧ flog2Code t a = nan

/-- R176: a compare sets bit i exactly when the relation holds for every element of lane i.
R185: the mask forms, bit by bit, and the count of a mask's bits. -/
def Obligations.MaskResults : Prop :=
  ((∀ p ∈ floatCompare, ∀ (o : VG3 4 6 6 FTy) (s : State), s.me.ok o.a = true → s.me.ok o.b = true →
     ∃ m : Mask, exec (p.1 o) s = .next ((s.taintIf (anyPsn (s.guard o.g).psn)).landK o.sl.cls 3 o.d (some (vLatch o.sl))
         (s.guard o.g).val
         ⟨m, if ((s.me.srcV o.a).psn ||| (s.me.srcV o.b).psn) &&& granules (s.guard o.g).val = 0 then 0 else 1⟩) ∧
       ∀ i < 16, m.getLsbD i = true ↔ ∀ e < 32 / (Fmt.flt o.ty).width,
         (match (decodeNum (.flt o.ty) (elem (Fmt.flt o.ty).width (s.me.srcV o.a).val (32 / (Fmt.flt o.ty).width * i + e))).cmp
             (decodeNum (.flt o.ty) (elem (Fmt.flt o.ty).width (s.me.srcV o.b).val (32 / (Fmt.flt o.ty).width * i + e))) with
           | none => p.2.1 | some r => p.2.2 r) = true) ∧
   (∀ p ∈ intCompare, ∀ (o : VG3 4 6 6 ITy) (s : State), s.me.ok o.a = true → s.me.ok o.b = true →
     ∃ m : Mask, exec (p.1 o) s = .next ((s.taintIf (anyPsn (s.guard o.g).psn)).landK o.sl.cls 3 o.d (some (vLatch o.sl))
         (s.guard o.g).val
         ⟨m, if ((s.me.srcV o.a).psn ||| (s.me.srcV o.b).psn) &&& granules (s.guard o.g).val = 0 then 0 else 1⟩) ∧
       ∀ i < 16, m.getLsbD i = true ↔ ∀ e < 32 / (Fmt.int o.ty).width,
         p.2 (intElem o.ty (elem (Fmt.int o.ty).width (s.me.srcV o.a).val (32 / (Fmt.int o.ty).width * i + e)))
           (intElem o.ty (elem (Fmt.int o.ty).width (s.me.srcV o.b).val (32 / (Fmt.int o.ty).width * i + e))) = true)) ∧
  ((∀ p ∈ maskBinary, ∀ (o : VG3 4 4 4 Unit) (s : State), s.guardOn o.g = true → s.me.ok o.a = true → s.me.ok o.b = true →
     ∃ m : Mask, exec (p.1 o) s = .next ((s.taintIf (anyPsn (s.guard o.g).psn)).landK o.sl.cls 1 o.d (some (vLatch o.sl)) 0xFFFF
         ⟨m, (s.me.srcK o.a).psn ||| (s.me.srcK o.b).psn⟩) ∧
       ∀ i < 16, m.getLsbD i = p.2 ((s.me.srcK o.a).val.getLsbD i) ((s.me.srcK o.b).val.getLsbD i)) ∧
   (∀ (o : VG2 4 4 Unit) (s : State), s.guardOn o.g = true → s.me.ok o.a = true →
     ∃ m : Mask, exec (.knot o) s = .next ((s.taintIf (anyPsn (s.guard o.g).psn)).landK o.sl.cls 1 o.d (some (vLatch o.sl)) 0xFFFF
         ⟨m, (s.me.srcK o.a).psn⟩) ∧
       ∀ i < 16, m.getLsbD i = !((s.me.srcK o.a).val.getLsbD i)) ∧
   (∀ (o : VG2 6 4 Unit) (s : State), s.guardOn o.g = true → s.me.ok o.a = true →
     exec (.kcnt o) s = .next ((s.taintIf (anyPsn (s.guard o.g).psn)).landG o.sl.cls 1 o.d (some (vLatch o.sl))
       ⟨BitVec.ofNat 32 ((List.range 16).countP fun i => (s.me.srcK o.a).val.getLsbD i), (s.me.srcK o.a).psn⟩)))

/-- R177, R178: an integer form's element is its exact result modulo 2^w, or clamped to the type's range with SAT = 1. -/
def Obligations.IntegerResults : Prop :=
  (∀ p ∈ intBinary, ∀ (o : VG3 6 6 6 ITy) (s : State), s.me.ok o.a = true → s.me.ok o.b = true →
    ∃ r : Vec, exec (p.1 o) s = .next ((s.taintIf (anyPsn (s.guard o.g).psn)).landV o.sl.cls p.2.1 o.d (some (vLatch o.sl))
        (s.guard o.g).val ⟨r, (s.me.srcV o.a).psn ||| (s.me.srcV o.b).psn⟩) ∧
      ∀ j < 512 / (Fmt.int o.ty).width, (elem (Fmt.int o.ty).width r j : Int) =
        p.2.2 o.ty (intElem o.ty (elem (Fmt.int o.ty).width (s.me.srcV o.a).val j))
          (intElem o.ty (elem (Fmt.int o.ty).width (s.me.srcV o.b).val j)) % 2 ^ (Fmt.int o.ty).width) ∧
  (∀ p ∈ intSaturating, ∀ (o : VG3 6 6 6 ITy) (s : State), s.me.ok o.a = true → s.me.ok o.b = true →
    ∃ r : Vec, exec (p.1 o) s = .next ((s.taintIf (anyPsn (s.guard o.g).psn)).landV o.sl.cls p.2.1 o.d (some (vLatch o.sl))
        (s.guard o.g).val ⟨r, (s.me.srcV o.a).psn ||| (s.me.srcV o.b).psn⟩) ∧
      ∀ j < 512 / (Fmt.int o.ty).width, intElem o.ty (elem (Fmt.int o.ty).width r j) =
        max (intRange o.ty.signed (Fmt.int o.ty).width).1 (min (intRange o.ty.signed (Fmt.int o.ty).width).2
          (p.2.2 (intElem o.ty (elem (Fmt.int o.ty).width (s.me.srcV o.a).val j))
            (intElem o.ty (elem (Fmt.int o.ty).width (s.me.srcV o.b).val j))))) ∧
  (∀ (o : VG4 6 6 ITy) (sat : Bool) (s : State), s.me.ok o.a = true → s.me.ok o.b = true →
    ∃ r : Vec, exec (.imad o sat) s = .next ((s.taintIf (anyPsn (s.guard o.g).psn)).landV o.sl.cls 4
        (if o.w then .none else .reg o.d) (some (vLatch o.sl)) (s.guard o.g).val
        ⟨r, (s.me.srcV o.a).psn ||| (s.me.srcV o.b).psn ||| (s.me.readV o.d).psn⟩) ∧
      ∀ j < 512 / (Fmt.int o.ty).width,
        let x := intElem o.ty (elem (Fmt.int o.ty).width (s.me.srcV o.a).val j) *
            intElem o.ty (elem (Fmt.int o.ty).width (s.me.srcV o.b).val j) +
          intElem o.ty (elem (Fmt.int o.ty).width (s.me.readV o.d).val j)
        if sat then intElem o.ty (elem (Fmt.int o.ty).width r j) =
            max (intRange o.ty.signed (Fmt.int o.ty).width).1 (min (intRange o.ty.signed (Fmt.int o.ty).width).2 x)
        else (elem (Fmt.int o.ty).width r j : Int) = x % 2 ^ (Fmt.int o.ty).width) ∧
  (∀ p ∈ intShift, ∀ (o : VG3 6 6 6 ITy) (s : State), s.me.ok o.a = true → s.me.ok o.b = true →
    ∃ r : Vec, exec (p.1 o) s = .next ((s.taintIf (anyPsn (s.guard o.g).psn)).landV o.sl.cls 3 o.d (some (vLatch o.sl))
        (s.guard o.g).val ⟨r, (s.me.srcV o.a).psn ||| (s.me.srcV o.b).psn⟩) ∧
      ∀ j < 512 / (Fmt.int o.ty).width, elem (Fmt.int o.ty).width r j =
        p.2 (Fmt.int o.ty).width (elem (Fmt.int o.ty).width (s.me.srcV o.a).val j)
          (elem (Fmt.int o.ty).width (s.me.srcV o.b).val j)) ∧
  (∀ p ∈ intBitwise, ∀ (o : VG3 6 6 6 ITy) (s : State), s.me.ok o.a = true → s.me.ok o.b = true →
    ∃ r : Vec, exec (p.1 o) s = .next ((s.taintIf (anyPsn (s.guard o.g).psn)).landV o.sl.cls 3 o.d (some (vLatch o.sl))
        (s.guard o.g).val ⟨r, (s.me.srcV o.a).psn ||| (s.me.srcV o.b).psn⟩) ∧
      ∀ i < 512, r.getLsbD i = p.2 ((s.me.srcV o.a).val.getLsbD i) ((s.me.srcV o.b).val.getLsbD i))

/-- R180, R182: the moves and rearrangements, element by element; a poisoned source poisons a whole rearrangement
(spec/13 R343).
R181, R183: one element taken out or put in, and the forms that write the pair D, D+1. That `vins` puts its element at landing into
the lanes that are enabled is DEDUCED (log entry 54). The poison marks of the results of `vsel` and `vins` are left open here. -/
def Obligations.LaneMovement : Prop :=
  ((∀ (o : VG3 6 6 6 Fmt) (s : State), s.me.ok o.a = true → s.me.ok o.b = true →
     ∃ r : MVec, exec (.vsel o) s = .next ((s.taintIf (anyPsn (s.guard o.g).psn)).landV o.sl.cls 2 o.d (some (vLatch o.sl))
         0xFFFF r) ∧
       ∀ i < 16, elem 32 r.val i =
         if (s.guard o.g).val.getLsbD i then elem 32 (s.me.srcV o.a).val i else elem 32 (s.me.srcV o.b).val i) ∧
   (∀ (o : VG2 6 6 Fmt) (s : State), s.me.ok o.a = true →
     ∃ r : Vec, exec (.vbc o) s = .next ((s.taintIf (anyPsn (s.guard o.g).psn)).landV o.sl.cls 2 o.d (some (vLatch o.sl))
         (s.guard o.g).val ⟨r, if (s.me.srcG o.a).psn = 0 then 0 else 0xFF⟩) ∧
       ∀ j < 512 / o.ty.width, elem o.ty.width r j = (s.me.srcG o.a).val.toNat % 2 ^ o.ty.width) ∧
   (∀ (o : VG2 6 6 Fmt) (s : State), s.me.ok o.a = true →
     exec (.vmov o) s = .next ((s.taintIf (anyPsn (s.guard o.g).psn)).landV o.sl.cls 2 o.d (some (vLatch o.sl))
       (s.guard o.g).val (s.me.srcV o.a))) ∧
   (∀ (sl : VSlot) (d : Dst 6) (ty : Fmt) (sat : Bool) (imm : BitVec 16) (s : State),
     ∃ r : Vec, exec (.vmovi sl d ty sat imm) s = .next (s.landV sl.cls 2 d (some (vLatch sl)) 0xFFFF (.clean r)) ∧
       ∀ j < 512 / ty.width, elem ty.width r j = (match ty with
         | .int _ => (imm.toInt % 2 ^ ty.width).toNat
         | f => convert (.flt .bf16) f .rne sat imm.toNat 0) % 2 ^ ty.width) ∧
   (∀ (o : VG3 6 6 6 Fmt) (s : State), s.me.ok o.a = true → s.me.ok o.b = true →
     (∃ r : Vec, exec (.vperm o) s = .next ((s.taintIf (anyPsn (s.guard o.g).psn)).landV o.sl.cls 3 o.d (some (vLatch o.sl))
         (s.guard o.g).val ⟨r, if (s.me.srcV o.a).psn = 0 ∧ (s.me.srcV o.b).psn = 0 then 0 else 0xFF⟩) ∧
       ∀ j < 512 / o.ty.width, elem o.ty.width r j =
         elem o.ty.width (s.me.srcV o.a).val (elem o.ty.width (s.me.srcV o.b).val j % (512 / o.ty.width))) ∧
     ∃ r : Vec, exec (.vrot o) s = .next ((s.taintIf (anyPsn (s.guard o.g).psn)).landV o.sl.cls 3 o.d (some (vLatch o.sl))
         (s.guard o.g).val ⟨r, if (s.me.srcV o.a).psn = 0 ∧ (s.me.srcG o.b).psn = 0 then 0 else 0xFF⟩) ∧
       ∀ j < 512 / o.ty.width, elem o.ty.width r j =
         elem o.ty.width (s.me.srcV o.a).val ((j + (s.me.srcG o.b).val.toNat) % (512 / o.ty.width)))) ∧
  ((∀ (o : VG3 6 6 6 Fmt) (s : State), s.guardOn o.g = true → s.me.ok o.a = true → s.me.ok o.b = true →
     exec (.vext o) s = .next ((s.taintIf (anyPsn (s.guard o.g).psn)).landG o.sl.cls 3 o.d (some (vLatch o.sl))
       ⟨(match o.ty with
           | .int t => wordOf (intElem t (elem o.ty.width (s.me.srcV o.a).val ((s.me.srcG o.b).val.toNat % (512 / o.ty.width))))
           | f => BitVec.ofNat 32 (elem f.width (s.me.srcV o.a).val ((s.me.srcG o.b).val.toNat % (512 / f.width)))),
         if (s.me.srcV o.a).psn = 0 ∧ (s.me.srcG o.b).psn = 0 then 0 else 1⟩)) ∧
   (∀ (o : VG4 6 6 Fmt) (s : State), s.me.ok o.a = true → s.me.ok o.b = true →
     ∃ r : MVec, exec (.vins o) s = .next ((s.taintIf (anyPsn (s.guard o.g).psn)).landV o.sl.cls 3
         (if o.w then .none else .reg o.d) (some (vLatch o.sl)) (s.guard o.g).val r) ∧
       ∀ j < 512 / o.ty.width, elem o.ty.width r.val j =
         if j = (s.me.srcG o.b).val.toNat % (512 / o.ty.width) ∧ (s.guard o.g).val.getLsbD (o.ty.width * j / 32) = true
         then (s.me.srcG o.a).val.toNat % 2 ^ o.ty.width else elem o.ty.width (s.me.readV o.d).val j) ∧
   (∀ (o : VG3 5 6 6 Fmt) (s : State), s.me.ok o.a = true → s.me.ok o.b = true →
     let m : BitVec 8 := if (s.me.srcV o.a).psn = 0 ∧ (s.me.srcV o.b).psn = 0 then 0 else 0xFF
     let n := 512 / o.ty.width
     let x := fun j => elem o.ty.width (s.me.srcV o.a).val j
     let y := fun j => elem o.ty.width (s.me.srcV o.b).val j
     (∃ lo hi : Vec, exec (.vzip o) s = .next ((s.taintIf (anyPsn (s.guard o.g).psn)).landPair o.sl.cls 3 o.d
           (some (vLatch o.sl)) (s.guard o.g).val ⟨lo, m⟩ ⟨hi, m⟩) ∧
         ∀ j < n, elem o.ty.width lo j = (if j % 2 = 0 then x (j / 2) else y (j / 2)) ∧
           elem o.ty.width hi j = (if j % 2 = 0 then x (n / 2 + j / 2) else y (n / 2 + j / 2))) ∧
       ∃ lo hi : Vec, exec (.vunzip o) s = .next ((s.taintIf (anyPsn (s.guard o.g).psn)).landPair o.sl.cls 3 o.d
           (some (vLatch o.sl)) (s.guard o.g).val ⟨lo, m⟩ ⟨hi, m⟩) ∧
         ∀ j < n, elem o.ty.width lo j = (if j < n / 2 then x (2 * j) else y (2 * j - n)) ∧
           elem o.ty.width hi j = (if j < n / 2 then x (2 * j + 1) else y (2 * j + 1 - n))))

/-- R184: the reductions join the widened elements pairwise, two neighbours at a time, and land at t + 6; disabled they do nothing
but that a poisoned guard taints the strand (spec/13 R343). -/
def Obligations.Reductions : Prop :=
  (∀ (o : VG2 6 6 Fmt) (s : State), s.guardOn o.g = true → s.me.ok o.a = true →
    let x := fun j => widened o.ty (elem o.ty.width (s.me.srcV o.a).val j)
    let m : BitVec 1 := if (s.me.srcV o.a).psn = 0 then 0 else 1
    exec (.vsum o) s = .next ((s.taintIf (anyPsn (s.guard o.g).psn)).landG o.sl.cls 6 o.d (some (vLatch o.sl))
      ⟨BitVec.ofNat 32 (match o.ty with
        | .int _ => ((List.range (512 / o.ty.width)).map x).sum
        | _ => pairwise (fun a b => roundNum .fp32 ((decodeNum (.flt .fp32) a).add (decodeNum (.flt .fp32) b))) x
            (treeLevels o.ty) 0), m⟩) ∧
    exec (.vmaxr o) s = .next ((s.taintIf (anyPsn (s.guard o.g).psn)).landG o.sl.cls 6 o.d (some (vLatch o.sl))
      ⟨BitVec.ofNat 32 (match o.ty with
        | .int t => pairwise (fun a b => if reducedLe t a b then b else a) x (treeLevels o.ty) 0
        | _ => pairwise (fmaxCode (.flt .fp32)) x (treeLevels o.ty) 0), m⟩)) ∧
  (∀ (o : VG2 6 6 Fmt) (s : State), s.guardOn o.g = false →
    exec (.vsum o) s = .next (s.taintIf ((s.guard o.g).psn != 0)) ∧ exec (.vmaxr o) s = .next (s.taintIf ((s.guard o.g).psn != 0))) ∧
  ∀ (o : VG2 6 6 Fmt) (c : SlotClass) (w : BitVec 40),
    ((Instr.vsum o).encode = some (c, w) → w.extractLsb' 32 8 = 0x48) ∧
    ((Instr.vmaxr o).encode = some (c, w) → w.extractLsb' 32 8 = 0x49)

/-- R55, R57, R51 to R53 (frame): an S form, a V form, `scnt` or `bmap` that answers a next state either took a bundle fault
or changed nothing but the focus strand's taint and one landing to come that names its destination and its unit's latch; no byte
of any bank or of far memory changes. -/
def Obligations.ResultFormsFrame : Prop :=
  ∀ (i : Instr) (w : List RegWrite → Prop) (ls : List Latch) (s u : State), resultForm i = some (w, ls) →
    exec i s = .next u → ResultFrame s u w ls ∧ BytesKept s u

/-! ## Conversions and random bits (spec/06) -/

/-- R156, R161 to R164: `cvt`, `vpk` and `vupk` convert element by element, with one random word taken at t where the mode is
stochastic; the bits of D above the last element are 0. -/
def Obligations.ConversionResults : Prop :=
  (∀ (o : XF 6 6 Fmt Fmt) (s : State), s.me.ok o.a = true →
    ∃ r : MVec, exec (.cvt o) s = .next ((if stochastic o.rnd then s.modCore s.focus fun c => { c with rngN := c.rngN + 1 }
        else s).landV .x 2 o.d (some .cv) 0xFFFF r) ∧
      ∀ j < 512 / o.tf.width, elem o.tf.width r.val j =
        if j < 512 / max o.ff.width o.tf.width then convert o.ff o.tf o.rnd o.sat (elem o.ff.width (s.me.srcV o.a).val j)
          (randomBits o.rnd (rngWord s.me.rngK s.me.rngN) j) % 2 ^ o.tf.width else 0) ∧
  (∀ (o : XF 6 5 Fmt Fmt) (i : BitVec 5) (s : State), o.a = .reg i → o.tf.width < o.ff.width →
    ∃ r : MVec, exec (.vpk o) s = .next ((if stochastic o.rnd then s.modCore s.focus fun c => { c with rngN := c.rngN + 1 }
        else s).landV .x 2 o.d (some .cv) 0xFFFF r) ∧
      ∀ j < 512 / o.tf.width, elem o.tf.width r.val j =
        if j < 1024 / o.ff.width then convert o.ff o.tf o.rnd o.sat
          (if j < 512 / o.ff.width then elem o.ff.width (s.me.readV (i ++ 0#1)).val j
            else elem o.ff.width (s.me.readV (i ++ 1#1)).val (j - 512 / o.ff.width))
          (randomBits o.rnd (rngWord s.me.rngK s.me.rngN) j) % 2 ^ o.tf.width else 0) ∧
  (∀ (d : Dst 5) (a : Src 6) (tf ff : Fmt) (s : State), s.me.ok a = true → ff.width < tf.width →
    ∃ lo hi : MVec, exec (.vupk d a tf ff) s = .next (s.landPair .x 2 d (some .cv) 0xFFFF lo hi) ∧
      ∀ j < 512 / tf.width,
        elem tf.width lo.val j = convert ff tf .rne false (elem ff.width (s.me.srcV a).val j) 0 % 2 ^ tf.width ∧
        elem tf.width hi.val j =
          convert ff tf .rne false (elem ff.width (s.me.srcV a).val (512 / tf.width + j)) 0 % 2 ^ tf.width)

/-- R165: `qblk` writes 32 elements, the scale in byte 32 and zero in bytes 33 to 63. A block with a NaN has scale 0xFF and its
own values; a block of zeros is zero; else the scale is taken from the largest magnitude, and each element is divided by it and
rounded once.
R166, R53: `dqblk` expands a block: the table of R166 for each element, in D for bf16 and in the pair D, D+1 for fp32. -/
def Obligations.BlockForms : Prop :=
  (∀ (o : XF 6 6 Fam BTy) (s : State), s.me.ok o.a = true → (o.ff = .bf16 ∨ o.a.isEvenReg = true) →
     ∃ r : MVec, exec (.qblk o) s = .next ((if stochastic o.rnd then s.modCore s.focus fun c => { c with rngN := c.rngN + 1 }
         else s).landV .x 3 o.d (some .cv) 0xFFFF r) ∧
       (∀ j, 33 ≤ j → j < 64 → elem 8 r.val j = 0) ∧
       let x := blockSource s o
       let rb := randomBits o.rnd (rngWord s.me.rngK s.me.rngN)
       ((∃ i < 32, (x i).isNaN = true) →
         elem 8 r.val 32 = 0xFF ∧ ∀ i < 32, elem 8 r.val i = encodeNum (.fam o.tf) o.rnd o.sat (x i) (rb i) % 256) ∧
       ((∀ i < 32, (x i).isZero = true) → ∀ i ≤ 32, elem 8 r.val i = 0) ∧
       ((∀ i < 32, (x i).isNaN = false) → (∃ i < 32, (x i).isInf = true) →
         elem 8 r.val 32 = 254 ∧
           ∀ i < 32, elem 8 r.val i = encodeNum (.fam o.tf) o.rnd o.sat ((x i).scale (-126)) (rb i) % 256) ∧
       (∀ top : Int, (∀ i < 32, ∃ n m e, x i = .fin n m e ∧ (m ≠ 0 → e + (Nat.log2 m : Int) ≤ top)) →
         (∃ i < 32, ∃ n m e, x i = .fin n m e ∧ m ≠ 0 ∧ e + (Nat.log2 m : Int) = top) →
         let c := max 1 (min 254 (top - famEmax o.tf + 128))
         (elem 8 r.val 32 : Int) = c ∧
           ∀ i < 32, elem 8 r.val i = encodeNum (.fam o.tf) o.rnd o.sat ((x i).scale (128 - c)) (rb i) % 256)) ∧
  (∀ (o : XF 6 6 BTy Fam) (s : State), s.me.ok o.a = true →
     let s1 := if stochastic o.rnd then s.modCore s.focus fun c => { c with rngN := c.rngN + 1 } else s
     let q := fun i => decodeNum (.fam o.ff) (elem 8 (s.me.srcV o.a).val i)
     let k := elem 8 (s.me.srcV o.a).val 32
     let e := fun i => if k = 0xFF ∨ (k = 0 ∧ ((q i).isNaN = true ∨ (q i).isInf = true)) then canonNaN (.flt o.tf.fty)
       else if k = 0 then 0
       else encodeNum (.flt o.tf.fty) o.rnd o.sat ((q i).scale ((k : Int) - 128))
         (randomBits o.rnd (rngWord s.me.rngK s.me.rngN) i)
     (o.tf = .bf16 → ∃ r : MVec, exec (.dqblk o) s = .next (s1.landV .x 3 o.d (some .cv) 0xFFFF r) ∧
       ∀ i < 32, elem 16 r.val i = e i % 2 ^ 16) ∧
     (o.tf = .fp32 → ∀ n : BitVec 5, o.d = .reg (n ++ 0#1) →
       ∃ lo hi : MVec, exec (.dqblk o) s = .next (s1.landPair .x 3 (.reg n) (some .cv) 0xFFFF lo hi) ∧
         ∀ i < 16, elem 32 lo.val i = e i % 2 ^ 32 ∧ elem 32 hi.val i = e (16 + i) % 2 ^ 32))

/-- R152: an integer source into an integer destination is its value modulo 2^w, or clamped with SAT = 1, in every rounding mode; into
a floating destination it is the exact integer rounded as every exact value is (R147 to R150). Also, of R162: a conversion of a
format into itself gives every code that is no NaN back, and the canonical NaN (R60) for every NaN. -/
def Obligations.ConvertIdentity : Prop :=
  (∀ (i j : ITy) (rnd : Rnd) (sat : Bool) (c rb : Nat), c < 2 ^ (Fmt.int i).width →
    let r := intRange j.signed (Fmt.int j).width
    convert (.int i) (.int j) rnd sat c rb < 2 ^ (Fmt.int j).width ∧
    (sat = false → (convert (.int i) (.int j) rnd sat c rb : Int) = intElem i c % 2 ^ (Fmt.int j).width) ∧
    (sat = true → intElem j (convert (.int i) (.int j) rnd sat c rb) = max r.1 (min r.2 (intElem i c)))) ∧
  (∀ (i : ITy) (f : Fmt) (rnd : Rnd) (sat : Bool) (c rb : Nat), f.isInt = false → c < 2 ^ (Fmt.int i).width →
    convert (.int i) f rnd sat c rb = encodeNum f rnd sat (.fin (decide (intElem i c < 0)) (intElem i c).natAbs 0) rb) ∧
  ∀ (f : Fmt) (rnd : Rnd) (sat : Bool) (c rb : Nat), c < 2 ^ f.width →
    ((decodeNum f c).isNaN = false → convert f f rnd sat c rb = c) ∧
    ((decodeNum f c).isNaN = true → convert f f rnd sat c rb = canonNaN f)

/-- R147, R171: under `.rne` a finite result is a value of the format nearest to the exact one, and of two nearest ones the one
whose code is even. `f` is any floating format of R140 and R142. -/
def Obligations.RoundToNearestEven : Prop :=
  ∀ (f : Fmt) (n : Bool) (m : Nat) (e : Int) (v w : ℚ) (c : Nat), f.isInt = false → m ≠ 0 →
    Sys2Proof.Machine.Num.rational (decodeNum f (encodeNum f .rne false (.fin n m e) 0)) = some v →
    c < 2 ^ f.width → Sys2Proof.Machine.Num.rational (decodeNum f c) = some w →
    let x : ℚ := (if n then -1 else 1) * (m : ℚ) * (2 : ℚ) ^ e
    |v - x| ≤ |w - x| ∧ (|v - x| = |w - x| → w ≠ v → encodeNum f .rne false (.fin n m e) 0 % 2 = 0)

/-- R168: `rng.pop` gives the head word at t + 2 and takes it at t; disabled it takes no word; its SA, SB and FN are reserved. Also
R154 to R156 and R167: `rng.seed` sets the key at t + 1 and the count to 0. -/
def Obligations.RandomBits : Prop :=
  (∀ (a b : Src 6) (g : Guard) (s : State), s.guardOn g = true → s.me.ok a = true → s.me.ok b = true →
    exec (.rngSeed a b g) s = .next ((s.taintIf (anyPsn (s.guard g).psn)).land .x 1
      (.seed (BitVec.ofNat 64 ((s.me.srcG b).val.toNat * 2 ^ 32 + (s.me.srcG a).val.toNat))))) ∧
  (∀ (st : StrandId) (key : BitVec 64) (s : State), ∃ u, exec (.resultLanding st (.seed key)) s = .next u ∧
    u.coreOf st = { s.coreOf st with rngK := key, rngN := 0 } ∧ ∀ i ≠ st, u.coreOf i = s.coreOf i) ∧
  (∀ (d : Dst 6) (g : Guard) (s : State),
    (s.guardOn g = true → exec (.rngPop d g) s = .next (((s.taintIf (anyPsn (s.guard g).psn)).modCore s.focus fun c =>
      { c with rngN := c.rngN + 1 }).landG .x 2 d (some .cv)
        (.clean (BitVec.ofNat 32 ((mix s.me.rngK s.me.rngN).toNat / 2 ^ 32))))) ∧
    (s.guardOn g = false → exec (.rngPop d g) s = .next (s.taintIf ((s.guard g).psn != 0)))) ∧
  ∀ (d : Dst 6) (g : Guard) (c : SlotClass) (w : BitVec 40),
    ((Instr.rngPop d g).encode = some (c, w) ∨ decodeSyllable c w = some (.rngPop d g)) →
      c = .x ∧ w.extractLsb' 32 8 = 0x09 ∧ w &&& 0xFF_01FF_F87F = 0x09_0000_0000

/-! ## Accesses to banks (spec/08, spec/12) -/

/-- R203, R210, R333: the checks of an enabled M form in their order: detached address, read-only mapping, alignment, plate
crossing, RMW window. Each faults with ea as its datum. -/
def Obligations.AccessFaults : Prop :=
  ∀ (i : Instr) (s : State) (x : Access), accessOf s i = some x → x.valid = true → x.enabled s = true →
    let f := fun (c : Byte) => exec i s = .next (s.fault .m c (x.ea.setWidth 64))
    (x.attached s = false → f 0x10) ∧ (x.attached s = true → x.reaches s = false → f 0x11) ∧
    (x.reaches s = true → x.aligned = false → f 0x12) ∧
    (x.reaches s = true → x.aligned = true → x.leaves = true → f 0x13) ∧
    (x.reaches s = true → x.aligned = true → x.leaves = false → s.windowHit x.books = true → f 0x14)

/-- R57, R206, R56 (frame): an M form that answers a next state either took a fault, or changed no register of any strand but
the focus strand's taint, no byte of any bank or of far memory, and took nothing off the agenda: what it stores commits later. With
nothing enabled it makes no access. -/
def Obligations.AccessFrame : Prop :=
  ∀ (i : Instr) (s u : State) (x : Access), accessOf s i = some x → exec i s = .next u →
    TookFault s u ∨ ((∃ p, ∀ st, u.coreOf st = (s.taintIf p).coreOf st) ∧ BytesKept s u ∧ u.farTags = s.farTags ∧
      u.ctxs = s.ctxs ∧ u.queues = s.queues ∧ (∃ l, u.agenda = s.agenda ++ l) ∧
      (∀ t, (u.tileOf t).streams = (s.tileOf t).streams ∧ (u.tileOf t).fmts = (s.tileOf t).fmts ∧
        (u.tileOf t).opSlots = (s.tileOf t).opSlots ∧ (u.tileOf t).accs = (s.tileOf t).accs ∧
        (u.tileOf t).landing = (s.tileOf t).landing ∧ (u.tileOf t).routes = (s.tileOf t).routes) ∧
      (x.enabled s = false → ∀ t, (u.tileOf t).bookings = (s.tileOf t).bookings))

/-- R211: a scalar load lands the bytes at ea, lowest first, extended by the sign or by zeros, in D and `%ld` at t + 3; a scalar
store commits the low bytes of D at the end of t + 2, to those addresses and no others. -/
def Obligations.ScalarAccesses : Prop :=
  (∀ p ∈ scalarLoads, ∀ (o : MA 6) (s : State) (x : Access), accessOf s (p.1 o) = some x → x.enabled s = true →
    x.clear s = true → ∃ v : MWord,
      exec (p.1 o) s = .next ((((x.tainted s o.base).readNow (x.bank s)
        ((List.range p.2.1).map fun k => some (x.off + k))).addBookings x.books).landG .m 3 o.d (some .ld) v) ∧
      (let n := littleEndian p.2.1 fun k => (s.myTile.byteView (x.bank s) (x.off + k)).1
       v.val = if p.2.2 then wordOf (signedField (8 * p.2.1) n) else BitVec.ofNat 32 n) ∧
      (v.psn = 1 ↔ ∃ k < p.2.1, (s.myTile.byteView (x.bank s) (x.off + k)).2 = true)) ∧
  (∀ p ∈ scalarStores, ∀ (o : MS 6) (s : State) (x : Access), accessOf s (p.1 o) = some x → x.enabled s = true →
    x.clear s = true →
      exec (p.1 o) s = .next (((x.tainted s o.base).addBookings x.books).planWrite .m 0 2 (x.bank s)
        ((List.range p.2).map fun k =>
          ⟨x.off + k, BitVec.ofNat 8 ((s.me.readG o.d).val.toNat / 256 ^ k), (s.me.readG o.d).psn != 0⟩)))

/-- R212, R215: a one-register lane load lands, in every enabled lane, the bytes of its cells; a lane store commits the enabled
lanes' bytes at the end of t + 2 to their cells and no others. With no lane enabled a load lands nothing but a zero latch, and a
store does nothing.
R214: `vldd` lands in each enabled lane the bank's element in the bank's format, exact in fp32 or extended to 32 bits. -/
def Obligations.LaneAccesses : Prop :=
  ((∀ (i : Instr) (s : State) (x : Access) (d : Dst 6) (base : BitVec 4) (at_ : Nat → Nat → Nat),
     accessOf s i = some x → laneLoadOf s i = some (d, base, at_) → x.valid = true →
     ((s.guard x.guard).val = 0 →
       exec i s = .next ((s.taintIf ((s.guard x.guard).psn != 0)).landV .m 3 d (some .ld) 0 (.clean 0))) ∧
     ((s.guard x.guard).val ≠ 0 → x.clear s = true → ∃ (r : MVec) (cells : List (Option Nat)),
       exec i s = .next ((((x.tainted s base (indexTaint s i)).addBookings x.books).readNow (x.bank s) cells).landV .m 3 d
         (some .ld) (s.guard x.guard).val r) ∧
       (∀ c, some c ∈ cells ↔ ∃ k < 64, (s.guard x.guard).val.getLsbD (k / 4) = true ∧ c = at_ x.off k) ∧
       (∀ k < 64, (s.guard x.guard).val.getLsbD (k / 4) = true →
         byteOf r.val k = (s.myTile.byteView (x.bank s) (at_ x.off k)).1) ∧
       ∀ q < 8, r.psn.getLsbD q = true ↔ ∃ k < 64, k / 8 = q ∧ (s.guard x.guard).val.getLsbD (k / 4) = true ∧
         (s.myTile.byteView (x.bank s) (at_ x.off k)).2 = true)) ∧
   (∀ (i : Instr) (s : State) (x : Access) (d : BitVec 6) (base : BitVec 4) (at_ : Nat → Nat → Nat),
     accessOf s i = some x → laneStoreOf s i = some (d, base, at_) → x.valid = true →
     ((s.guard x.guard).val = 0 → exec i s = .next (s.taintIf ((s.guard x.guard).psn != 0))) ∧
     ((s.guard x.guard).val ≠ 0 → x.clear s = true →
       exec i s = .next (((x.tainted s base (indexTaint s i)).addBookings x.books).planWrite .m 0 2 (x.bank s)
         (((List.range 64).filter fun k => (s.guard x.guard).val.getLsbD (k / 4)).map fun k =>
           ⟨at_ x.off k, byteOf (s.me.readV d).val k, (s.me.readV d).psn.getLsbD (k / 8)⟩))))) ∧
  (∀ (col : Bool) (o : MA 6) (s : State) (x : Access), accessOf s (if col then .vlddCol o else .vlddRow o) = some x →
     ((s.guard o.g).val = 0 → exec (if col then .vlddCol o else .vlddRow o) s =
       .next ((s.taintIf ((s.guard o.g).psn != 0)).landV .m 3 o.d (some .ld) 0 (.clean 0))) ∧
     ((s.guard o.g).val ≠ 0 → x.clear s = true → ∃ (r : MVec) (cells : List (Option Nat)),
       let f := s.myTile.fmts.at (x.bank s)
       let k := f.width / 8
       let at_ := fun i b => x.off + (if col then 64 else k) * i + b
       exec (if col then .vlddCol o else .vlddRow o) s = .next ((((x.tainted s o.base).addBookings x.books).readNow (x.bank s)
         cells).landV .m 3 o.d (some .ld) (s.guard o.g).val r) ∧
       (∀ c, some c ∈ cells ↔ ∃ i < 16, ∃ b < k, (s.guard o.g).val.getLsbD i = true ∧ c = at_ i b) ∧
       ∀ i < 16, (s.guard o.g).val.getLsbD i = true →
         elem 32 r.val i = widened f (littleEndian k fun b => (s.myTile.byteView (x.bank s) (at_ i b)).1) % 2 ^ 32))

/-- R213, R215, R206: a pair load reads its first register at t and its second at t + 1, and both land at t + 3; a pair store
commits both registers together at the end of t + 2. -/
def Obligations.PairAccesses : Prop :=
  (∀ (i : Instr) (s : State) (x : Access) (d : Dst 5) (base : BitVec 4) (a1 a2 : Nat → Nat → Nat),
    ((∃ (o : MA 5) (r : Orient), i = .vld2 o r ∧ d = o.d ∧ base = o.base ∧ a1 = (fun n k => orientByte n k r) ∧
        a2 = fun n k => orientByte2 n k r) ∨
      ∃ (o : MX 5) (e : Size), i = .vgt2 o e ∧ d = o.d ∧ base = o.base ∧
        a1 = indexByte e.bytes (s.me.srcV o.sx).val ∧ a2 = fun n k => indexByte e.bytes (s.me.srcV o.sx).val (n + 4096) k) →
    accessOf s i = some x → x.valid = true →
    let en := (s.guard x.guard).val
    (en = 0 → exec i s = .next ((s.taintIf ((s.guard x.guard).psn != 0)).landPair .m 3 d (some .ld) 0 (.clean 0) (.clean 0))) ∧
    (en ≠ 0 → x.clear s = true → ∃ (r : MVec) (c1 c2 : List (Option Nat)),
      let w := x.tainted s base (indexTaint s i)
      exec i s = .next (((w.addBookings x.books).readNow (x.bank s) c1).planRead .m 0 1 3 none
        (.pair s.focus w.me.taint r d (x.bank s) c2 en)) ∧
      (∀ k < 64, en.getLsbD (k / 4) = true → byteOf r.val k = (s.myTile.byteView (x.bank s) (a1 x.off k)).1) ∧
      c2 = (List.range 64).map fun k => if en.getLsbD (k / 4) then some (a2 x.off k) else none)) ∧
  (∀ (o : MS 5) (r : Orient) (s : State) (x : Access), accessOf s (.vst2 o r) = some x →
    let en := (s.guard o.g).val
    (en = 0 → exec (.vst2 o r) s = .next (s.taintIf ((s.guard o.g).psn != 0))) ∧
    (en ≠ 0 → x.clear s = true →
      exec (.vst2 o r) s = .next (((x.tainted s o.base).addBookings x.books).planWrite .m 0 2 (x.bank s)
        ((((List.range 64).filter fun k => en.getLsbD (k / 4)).map fun k =>
            ⟨orientByte x.off k r, byteOf (s.me.readV (o.d ++ 0#1)).val k, (s.me.readV (o.d ++ 0#1)).psn.getLsbD (k / 8)⟩) ++
          ((List.range 64).filter fun k => en.getLsbD (k / 4)).map fun k =>
            ⟨orientByte2 x.off k r, byteOf (s.me.readV (o.d ++ 1#1)).val k,
              (s.me.readV (o.d ++ 1#1)).psn.getLsbD (k / 8)⟩)))) ∧
  (∀ (s : State) (rest : List Task) (st : StrandId) (p : Bool) (first : MVec) (i : BitVec 5) (bank : BitVec 6)
    (cells : List (Option Nat)) (en : Mask), s.todo = .read (.pair st p first (.reg i) bank cells en) :: rest →
    cells.length = 64 → (s.tileOf st.tile).flips = [] →
    ∃ u e lo hi l, step s = .next u ∧ u.agenda = s.agenda ++ [e] ∧ e.tick = s.now st.tile.claim + 2 ∧
      e.act = .ev (.resultLanding st (.result [.v (i ++ 0#1) lo en, .v (i ++ 1#1) hi en] (some (.ld, l)))) ∧
      lo.val = first.val ∧ (∀ k < 64, ∀ c, cells[k]? = some (some c) →
        byteOf hi.val k = ((s.tileOf st.tile).byteView bank c).1) ∧ BytesKept s u)

/-- R332: an `amo` reads its word at t + 1; the old value lands in D and `%ld` at t + 4, and the new word commits at the end of
t + 3, for `.cas` too when the comparison fails.
R334, R335: a `red` whose index lies in the window and is not held enters the buffer at t + 1, also with no lane enabled;
else it faults with 0x52. The application of the entry for N adds lane by lane, counts N up and writes the enabled lanes.
What a read-modify-write window turns away is read as log entry 33 says. -/
def Obligations.AtomicsAndReductions : Prop :=
  ((∀ p ∈ atomicForms, ∀ (o : MX 6) (s : State) (x : Access), accessOf s (p.1 o) = some x → x.valid = true →
     x.enabled s = true → x.clear s = true →
     let w := x.tainted s o.base
     exec (p.1 o) s = .next ((w.addBookings x.books).planRead .m 0 1 4 (some (s.t + 4))
       (.amo s.focus w.me.taint p.2.1 (x.bank s) x.off (s.me.srcG o.sx) (.clean 0) o.d)) ∧
     ∀ a b c, p.2.1.apply a b c = p.2.2 a b) ∧
   (∀ (wd : Bool) (o : MXS) (s : State) (x : Access), accessOf s (.amoCas wd o) = some x → x.valid = true →
     x.enabled s = true → x.clear s = true →
     let w := x.tainted s o.base
     exec (.amoCas wd o) s = .next ((w.addBookings x.books).planRead .m 0 1 4 (some (s.t + 4))
       (.amo s.focus w.me.taint .cas (x.bank s) x.off (s.me.srcG o.sx) (s.me.readG o.d) (if wd then .none else .reg o.d)))) ∧
   (∀ a b c : Word, AmoOp.cas.apply a b c = if a.toNat = c.toNat then b else a) ∧
   (∀ (s : State) (rest : List Task) (st : StrandId) (op : AmoOp) (bank : BitVec 6) (off : Nat) (data cmp : MWord) (i : BitVec 6),
     s.todo = .read (.amo st false op bank off data cmp (.reg i)) :: rest → (s.tileOf st.tile).flips = [] →
     ∃ u e f v l bs, step s = .next u ∧ u.agenda = s.agenda ++ [e, f] ∧
       e.tick = s.now st.tile.claim + 3 ∧ e.act = .ev (.resultLanding st (.result [.g i v] (some (.ld, l)))) ∧
       v.val.toNat = littleEndian 4 (fun k => ((s.tileOf st.tile).byteView bank (off + k)).1) ∧
       f.tick = s.now st.tile.claim + 2 ∧ f.phase = phCommit ∧ f.act = .ev (.bankCommit st.tile st.core.toNat bank (.bytes bs)) ∧
       bs = ((List.range 4).map fun k => (⟨off + k, byteOf (op.apply v.val data.val cmp.val) k,
         v.psn != 0 || data.psn != 0 || cmp.psn != 0⟩ : BankByte)) ∧ BytesKept s u)) ∧
  ((∀ (f : Bool) (o : MXS) (s : State) (x : Access), accessOf s (if f then .redF32 o else .redS32 o) = some x →
     x.valid = true → (x.enabled s = false ∨ (x.reaches s = true ∧ x.aligned = true)) →
     let i := (s.me.srcG o.sx).val
     let held := (s.myTile.redBuf.any fun r => r.idx == i) || (enteringRed s).any fun r => r.idx == i
     let w := (s.taintIf ((s.guard o.g).psn != 0)).taintIf (x.enabled s && (s.me.readA o.base).psn != 0)
     (((i.toNat + 2 ^ 32 - s.myTile.redN.toNat) % 2 ^ 32 < 32 → held = false →
       ∃ u e r, exec (if f then .redF32 o else .redS32 o) s = .next u ∧ u = { w with agenda := s.agenda ++ [e] } ∧
         e.tick = s.t + 1 ∧ e.phase = phLand ∧ e.act = .ev (.resultLanding s.focus (.redEntry r)) ∧ r.idx = i ∧
         r.bank = x.bank s ∧ r.row = x.off / 64 ∧ r.data.val = (s.me.readV o.d).val ∧ r.en = (s.guard o.g).val ∧
         r.kind = (if f then .f32 else .s32)) ∧
       ((32 ≤ (i.toNat + 2 ^ 32 - s.myTile.redN.toNat) % 2 ^ 32 ∨ held = true) →
         exec (if f then .redF32 o else .redS32 o) s = .next (s.fault .m 0x52)))) ∧
   (∀ (t : TileId) (s : State), (∀ e ∈ (s.tileOf t).redBuf, e.idx ≠ (s.tileOf t).redN) → exec (.reductionApply t) s = .next s) ∧
   (∀ (t : TileId) (s : State) (e : RedEntry), (s.tileOf t).redBuf.find? (fun r => r.idx == (s.tileOf t).redN) = some e →
     ∃ u, exec (.reductionApply t) s = .next u ∧ (u.tileOf t).redN = (s.tileOf t).redN + 1 ∧
       (u.tileOf t).redBuf = (s.tileOf t).redBuf.erase e ∧ (∀ st, u.coreOf st = s.coreOf st) ∧ BytesKept s u ∧
       (e.en = 0 → u.agenda = s.agenda) ∧
       (e.en ≠ 0 → (s.tileOf t).windowAt e.bank (s.now t.claim) = false → (s.tileOf t).flips = [] →
         ∃ c l, u.agenda = s.agenda ++ [c] ∧ c.tick = s.now t.claim ∧ c.phase = phCommit ∧
           c.act = .ev (.bankCommit t e.core.toNat e.bank (.bytes l)) ∧
           (∀ b ∈ l, ∃ k < 64, b.off = 64 * e.row + k ∧ e.en.getLsbD (k / 4) = true) ∧
           ∀ i < 16, e.en.getLsbD i = true → ∃ n : Word, (∀ k < 4, ∃ b ∈ l, b.off = 64 * e.row + 4 * i + k ∧ b.val = byteOf n k) ∧
             let old := littleEndian 4 fun k => ((s.tileOf t).byteView e.bank (64 * e.row + 4 * i + k)).1
             n.toNat = (match e.kind with
               | .s32 => old + elem 32 e.data.val i
               | .f32 => roundNum .fp32 ((decodeNum (.flt .fp32) old).add (decodeNum (.flt .fp32) (elem 32 e.data.val i))))
                 % 2 ^ 32)))

/-- R206, R223, R229, R343, R403: a write access commits: in a bank of no accumulator every byte that it names takes its value and no
other byte of any tile or of far memory changes; a word wholly written with clean data is clean, one that takes a poisoned byte is
marked. A written row of an accumulator bank leaves its zero bit, and its other bytes become 0 if the bit was set. -/
def Obligations.BankCommits : Prop :=
  (∀ (t : TileId) (core : Nat) (bank : BitVec 6) (l : List BankByte) (s : State), (∀ b ∈ l, b.off < 65536) →
    (l.map fun b => b.off).Nodup → (s.tileOf t).sram.wf = true → (s.tileOf t).isAcc bank.toNat = false →
    ∃ u, exec (.bankCommit t core bank (.bytes l)) s = .next u ∧
      (∀ b ∈ l, ((u.tileOf t).byteView bank b.off).1 = b.val) ∧
      (∀ bank' off, off < 65536 → (bank' = bank → ∀ b ∈ l, b.off ≠ off) →
        ((u.tileOf t).byteView bank' off).1 = ((s.tileOf t).byteView bank' off).1) ∧
      (∀ b ∈ l, b.psn = true → ((u.tileOf t).byteView bank b.off).2 = true) ∧
      (∀ w < 8192, (∀ k < 8, ∃ b ∈ l, b.off = 8 * w + k ∧ b.psn = false) →
        ∀ k < 8, ((u.tileOf t).byteView bank (8 * w + k)).2 = false) ∧
      (∀ t' ≠ t, u.tileOf t' = s.tileOf t') ∧ (∀ st, u.coreOf st = s.coreOf st) ∧ u.far = s.far) ∧
  (∀ (t : TileId) (core : Nat) (bank : BitVec 6) (row : Nat) (s : State), row < 1024 →
    (s.tileOf t).sram.wf = true → ∃ u, exec (.bankCommit t core bank (.zeroRow row)) s = .next u ∧
      (∀ off, 64 * row ≤ off → off < 64 * row + 64 → (u.tileOf t).byteView bank off = (0, false)) ∧
      ∀ bank' off, off < 65536 → (bank' = bank → off / 64 ≠ row) →
        (u.tileOf t).byteView bank' off = (s.tileOf t).byteView bank' off) ∧
  (∀ (t : TileId) (core : Nat) (bank : BitVec 6) (row : Nat) (l : List BankByte) (s : State), row < 1024 → l ≠ [] →
    (∀ b ∈ l, b.off / 64 = row) → (l.map fun b => b.off).Nodup → (s.tileOf t).sram.wf = true →
    (s.tileOf t).isAcc bank.toNat = true →
    ∃ u, exec (.bankCommit t core bank (.bytes l)) s = .next u ∧ (u.tileOf t).rowZero bank.toNat row = false ∧
      (∀ b ∈ l, ((u.tileOf t).byteView bank b.off).1 = b.val) ∧
      ∀ off, off / 64 = row → (∀ b ∈ l, b.off ≠ off) → ((u.tileOf t).byteView bank off).1 =
        if (s.tileOf t).rowZero bank.toNat row then 0 else ((s.tileOf t).byteView bank off).1)

/-! ## Streams and bank switching (spec/07, spec/08) -/

/-- R189 to R193: `spush` appends the enabled lanes as records from H + C on, committed at the end of t + 2, with C raised at t + 1;
`spop` with 16 records lowers C and moves H at t + 1 and lands the records, read at t + 2, at t + 3; `scnt` lands H x 2^16 + C;
`sreset` clears both at t + 1. The checks come in the order detached, read-only, overflow; `spop` with fewer records waits in an
open span, where a poisoned guard taints it from that tick (R343), and faults with span in a closed one.
The datum 0 of the faults is DEDUCED (log entry 35); that 0x15 of `spush`, and the wait or 0x74 of `spop`, come before the window's
0x14 is the model's choice (log entry 54). `spop` with W = 1 and the read of a tainted strand's pop are left out here. -/
def Obligations.StreamForms : Prop :=
  (∀ (m : BitVec 6) (a : Src 6) (g : Guard) (s : State), s.me.ok a = true →
    let en := (s.guard g).val
    let e := s.entry m
    let x := s.myTile.streams.at e.bank
    (en = 0 → exec (.spush m a g) s = .next (s.taintIf ((s.guard g).psn != 0))) ∧
    (en ≠ 0 → e.st.usable = false → exec (.spush m a g) s = .next (s.fault .x 0x10)) ∧
    (en ≠ 0 → e.st = .read → exec (.spush m a g) s = .next (s.fault .x 0x11)) ∧
    (en ≠ 0 → e.st.writable = true → 16384 < x.c + lanesBelow en 16 → exec (.spush m a g) s = .next (s.fault .x 0x15)) ∧
    (en ≠ 0 → e.st.writable = true → x.c + lanesBelow en 16 ≤ 16384 →
      s.windowHit [⟨e.bank, s.t + 2, s.t + 2, false, s.focus.core, SlotClass.x.index, s.t⟩] = false →
      ∃ u w c l, exec (.spush m a g) s = .next u ∧ u.agenda = s.agenda ++ [w, c] ∧
        w.tick = s.t + 2 ∧ w.phase = phCommit ∧ w.act = .ev (.bankCommit s.focus.tile s.focus.core.toNat e.bank (.bytes l)) ∧
        l.length = 4 * lanesBelow en 16 ∧
        (∀ i < 16, en.getLsbD i = true → ∀ b < 4,
          (⟨4 * ((x.h.toNat + x.c + lanesBelow en i) % 16384) + b, byteOf (s.me.srcV a).val (4 * i + b),
            (s.me.srcV a).psn.getLsbD (i / 2) || (s.taintIf ((s.guard g).psn != 0)).me.taint⟩ : BankByte) ∈ l) ∧
        c.tick = s.t + 1 ∧ c.act = .ev (.resultLanding s.focus (.stream e.bank (.push (lanesBelow en 16)))) ∧
        (∀ st, u.coreOf st = (s.taintIf ((s.guard g).psn != 0)).coreOf st) ∧ BytesKept s u)) ∧
  (∀ (d : Dst 6) (m : BitVec 6) (g : Guard) (s : State), s.guardOn g = true →
    let e := s.entry m
    let x := s.myTile.streams.at e.bank
    (e.st.writable = true → 16 ≤ x.c →
      s.windowHit [⟨e.bank, s.t + 2, s.t + 2, false, s.focus.core, SlotClass.x.index, s.t⟩] = false →
      ∃ u c r, exec (.spop d m g) s = .next u ∧ u.agenda = s.agenda ++ [c, r] ∧ c.tick = s.t + 1 ∧
        c.act = .ev (.resultLanding s.focus (.stream e.bank .pop)) ∧ r.tick = s.t + 2 ∧ r.phase = phRead ∧
        r.act = .read (.pop s.focus (s.taintIf ((s.guard g).psn != 0)).me.taint e.bank x.h d) ∧
        (∀ st, u.coreOf st = (s.taintIf ((s.guard g).psn != 0)).coreOf st) ∧ BytesKept s u) ∧
    (e.st = .read → exec (.spop d m g) s = .next (s.fault .x 0x11)) ∧
    (e.st.writable = true → x.c < 16 → s.me.span = false → exec (.spop d m g) s = .next (s.fault .x 0x74)) ∧
    (e.st.usable = false → s.me.span = false → exec (.spop d m g) s = .next (s.fault .x 0x10)) ∧
    (s.me.span = true → (e.st.usable = false ∨ (e.st.writable = true ∧ x.c < 16)) →
      exec (.spop d m g) s = .next ((s.taintIf ((s.guard g).psn != 0)).modCore s.focus fun c => { c with status := .waiting }))) ∧
  (∀ (s : State) (rest : List Task) (st : StrandId) (bank : BitVec 6) (h : BitVec 14) (i : BitVec 6),
    s.todo = .read (.pop st false bank h (.reg i)) :: rest → (s.tileOf st.tile).flips = [] →
    ∃ u e v, step s = .next u ∧ u.agenda = s.agenda ++ [e] ∧ e.tick = s.now st.tile.claim + 1 ∧
      e.act = .ev (.resultLanding st (.result [.v i v 0xFFFF] (some (.cv, v)))) ∧
      ∀ r < 16, ∀ b < 4, byteOf v.val (4 * r + b) =
        ((s.tileOf st.tile).byteView bank (4 * ((h.toNat + r) % 16384) + b)).1) ∧
  (∀ (d : Dst 6) (m : BitVec 6) (g : Guard) (s : State), s.guardOn g = true →
    let x := s.myTile.streams.at (s.entry m).bank
    ((s.entry m).st.usable = true → exec (.scnt d m g) s = .next ((s.taintIf ((s.guard g).psn != 0)).landG .x 1 d (some .cv)
      (.clean (BitVec.ofNat 32 (x.h.toNat * 2 ^ 16 + x.c))))) ∧
    ((s.entry m).st.usable = false → exec (.scnt d m g) s = .next (s.fault .x 0x10) ∧
      exec (.sreset m g) s = .next (s.fault .x 0x10)) ∧
    ((s.entry m).st = .read → exec (.sreset m g) s = .next (s.fault .x 0x11)) ∧
    ((s.entry m).st.writable = true → ∃ e, exec (.sreset m g) s =
        .next { s.taintIf ((s.guard g).psn != 0) with agenda := s.agenda ++ [e] } ∧ e.tick = s.t + 1 ∧
      e.act = .ev (.resultLanding s.focus (.stream (s.entry m).bank .reset)))) ∧
  ∀ (st : StrandId) (bank : BitVec 6) (c : StreamChange) (s : State), ∃ u, exec (.resultLanding st (.stream bank c)) s = .next u ∧
    (let x := (s.tileOf st.tile).streams.at bank
     (u.tileOf st.tile).streams.at bank = match c with
        | .push n => ⟨x.h, x.c + n⟩ | .pop => ⟨x.h + 16, x.c - 16⟩ | .reset => ⟨0, 0⟩) ∧
    (∀ b ≠ bank, (u.tileOf st.tile).streams.at b = (s.tileOf st.tile).streams.at b) ∧ BytesKept s u ∧
    (∀ i, u.coreOf i = s.coreOf i)

/-- R216 to R220: the maps that a give, a lend, a return and a rotation leave at t, with their change at t + 4, and the faults
that they take first: 0x10 for an entry that reaches no bank, 0x11 for a read mapping, 0x16 for an entry in use; for a `brot`, 0x50
where the quorum is missing, then the faults of its own entry, then 0x50 for the entry of any other core. That a rotation is made
once, by the last live core, and that what each other live core's `brot` plans at t + 4 changes no entry, is the model's choice
(log entry 54).
R217 to R221: what a map change does to the maps at its effect tick; a bank keeps its bytes, its format and its stream.
That a fault of these forms has the datum 0, and that two changes which name one entry in one tick fault both, are the
model's readings (log entries 35 and 43). -/
def Obligations.BankMaps : Prop :=
  ((∀ (o : XB) (core : BitVec 2) (w : BitVec 6) (s : State), s.guardOn o.g = true →
     let t := s.focus.tile
     let me := s.focus.core
     let e := entryIn s t me o.s
     let p := (s.guard o.g).psn != 0
     (e.st.usable = false → exec (.bgive o core w) s = .next (s.fault .x 0x10)) ∧
     (e.st = .read → exec (.bgive o core w) s = .next (s.fault .x 0x11)) ∧
     (e.st = .lent ∨ (e.st = .owned ∧ (entryIn s t core w).st ≠ .detached) → exec (.bgive o core w) s = .next (s.fault .x 0x16)) ∧
     (e.st = .owned → (entryIn s t core w).st = .detached → namesConflict s [(me, o.s), (core, w)] = false →
       ∃ u, exec (.bgive o core w) s = .next u ∧ ChangesMap s u p
         [((core, w), ⟨.arriving, e.bank⟩), ((me, o.s), ⟨.leaving, e.bank⟩)] (some (.give me o.s core w e.bank))) ∧
     (e.st = .owned → (entryIn s t core w).st = .detached → namesConflict s [(me, o.s), (core, w)] = true →
       exec (.bgive o core w) s = .next (s.fault .x 0x16))) ∧
   (∀ (o : XB) (w : BitVec 6) (mask : BitVec 4) (s : State), s.guardOn o.g = true →
     let t := s.focus.tile
     let me := s.focus.core
     let e := entryIn s t me o.s
     (e.st.usable = false → exec (.blend o w mask) s = .next (s.fault .x 0x10)) ∧
     (e.st = .read → exec (.blend o w mask) s = .next (s.fault .x 0x11)) ∧
     (e.st = .lent ∨ (e.st = .owned ∧ ∃ c : BitVec 2, mask.getLsbD c.toNat = true ∧ (entryIn s t c w).st ≠ .detached) →
       exec (.blend o w mask) s = .next (s.fault .x 0x16)) ∧
     (e.st = .owned → (∀ c : BitVec 2, mask.getLsbD c.toNat = true → (entryIn s t c w).st = .detached) →
       namesConflict s ((me, o.s) :: (maskEntries mask w e).map fun q => q.1) = false →
       ∃ u, exec (.blend o w mask) s = .next u ∧ ChangesMap s u ((s.guard o.g).psn != 0)
         (maskEntries mask w ⟨.arriving, e.bank⟩) (some (.lend me o.s mask w e.bank))) ∧
     (e.st = .owned → (∀ c : BitVec 2, mask.getLsbD c.toNat = true → (entryIn s t c w).st = .detached) →
       namesConflict s ((me, o.s) :: (maskEntries mask w e).map fun q => q.1) = true →
       exec (.blend o w mask) s = .next (s.fault .x 0x16))) ∧
   (∀ (o : XB) (s : State), s.guardOn o.g = true →
     let t := s.focus.tile
     let own := (s.focus.core, o.s)
     let e := entryIn s t s.focus.core o.s
     let p := (s.guard o.g).psn != 0
     (e.st.usable = false → exec (.bback o) s = .next (s.fault .x 0x10)) ∧
     (e.st = .read → namesConflict s [own] = false → ∃ u, exec (.bback o) s = .next u ∧
       ChangesMap s u p [(own, ⟨.leaving, e.bank⟩)] (some (.withdraw [own] e.bank))) ∧
     (e.st = .read → namesConflict s [own] = true → exec (.bback o) s = .next (s.fault .x 0x16)) ∧
     (e.st = .lent →
       let rs := holders s t e.bank (fun x => x == .read)
       namesConflict s (own :: rs) = false → ∃ u, exec (.bback o) s = .next u ∧
       ChangesMap s u p (rs.map fun r => (r, ⟨.leaving, e.bank⟩)) (some (.withdraw rs e.bank)) ∧
       ∀ c w, (c, w) ∈ rs ↔ entryIn s t c w = ⟨.read, e.bank⟩) ∧
     (e.st = .lent → namesConflict s (own :: holders s t e.bank (fun x => x == .read)) = true →
       exec (.bback o) s = .next (s.fault .x 0x16)) ∧
     (e.st = .owned → (s.myTile.homes.at e.bank = none ∨ s.myTile.homes.at e.bank = some own) →
       exec (.bback o) s = .next (s.taintIf p)) ∧
     (∀ h, e.st = .owned → s.myTile.homes.at e.bank = some h → h ≠ own →
       ((entryIn s t h.1 h.2).st ≠ .detached → exec (.bback o) s = .next (s.fault .x 0x16)) ∧
       ((entryIn s t h.1 h.2).st = .detached → namesConflict s [own, h] = false → ∃ u, exec (.bback o) s = .next u ∧
         ChangesMap s u p [(h, ⟨.arriving, e.bank⟩), (own, ⟨.leaving, e.bank⟩)]
           (some (.back own.1 own.2 h.1 h.2 e.bank))) ∧
       ((entryIn s t h.1 h.2).st = .detached → namesConflict s [own, h] = true → exec (.bback o) s = .next (s.fault .x 0x16)))) ∧
   ∀ (rev : Bool) (o : XB) (s : State), s.guardOn o.g = true →
     let t := s.focus.tile
     let i : Instr := if rev then .brotRev o else .brot o
     let e := entryIn s t s.focus.core o.s
     let fixed := fun x : MapEntry => x.st = .detached ∨ x.st = .owned
     let quorum := ∀ c, liveCore s t c = true → presentsBrot s c o.s rev = true
     let others := ∀ c, c ≠ s.focus.core → fixed (entryIn s t c o.s)
     (¬ quorum → exec i s = .next (s.fault .x 0x50)) ∧
     (quorum → e.st = .leaving ∨ e.st = .arriving → exec i s = .next (s.fault .x 0x10)) ∧
     (quorum → e.st = .lent ∨ e.st = .read → exec i s = .next (s.fault .x 0x16)) ∧
     (quorum → fixed e → ¬ others → exec i s = .next (s.fault .x 0x50)) ∧
     (quorum → fixed e → others → rotationConflict s o.s rev = true → exec i s = .next (s.fault .x 0x16)) ∧
     (quorum → fixed e → others → rotationConflict s o.s rev = false → ∃ u, exec i s = .next u ∧
       (if lastLive s = some s.focus.core then
         ChangesMap s u ((s.guard o.g).psn != 0) ([0, 1, 2, 3].map fun c => ((c, o.s), ⟨.leaving, (entryIn s t c o.s).bank⟩))
           (some (.rotate o.s rev ([0, 1, 2, 3].map fun c =>
             if (entryIn s t c o.s).st = .owned then some (entryIn s t c o.s).bank else none)))
       else ChangesMap s u ((s.guard o.g).psn != 0) [] (some (.rotate o.s rev []))))) ∧
  (∀ (t : TileId) (s : State),
     (∀ (fc tc : BitVec 2) (fs ts bank : BitVec 6), (∃ u, exec (.mapChangeEffect t (.give fc fs tc ts bank)) s = .next u ∧
         EntriesBecome s u t [((tc, ts), ⟨.owned, bank⟩), ((fc, fs), ⟨.detached, 0⟩)] ∧ (u.tileOf t).homes = (s.tileOf t).homes) ∧
       ∃ u, exec (.mapChangeEffect t (.back fc fs tc ts bank)) s = .next u ∧
         EntriesBecome s u t [((tc, ts), ⟨.owned, bank⟩), ((fc, fs), ⟨.detached, 0⟩)] ∧ (u.tileOf t).homes = (s.tileOf t).homes) ∧
     (∀ (core : BitVec 2) (slot w bank : BitVec 6) (mask : BitVec 4), ∃ u,
       exec (.mapChangeEffect t (.lend core slot mask w bank)) s = .next u ∧
         EntriesBecome s u t (((core, slot), ⟨.lent, bank⟩) :: maskEntries mask w ⟨.read, bank⟩)) ∧
     (∀ (gone : List (BitVec 2 × BitVec 6)) (bank : BitVec 6), ∃ u, exec (.mapChangeEffect t (.withdraw gone bank)) s = .next u ∧
       (∀ c w, (c, w) ∈ gone → entryIn u t c w = ⟨.detached, 0⟩) ∧
       (∀ c w, (c, w) ∉ gone → entryIn u t c w =
         if entryIn s t c w = ⟨.lent, bank⟩ ∧ (∀ c' w', (c', w') ∉ gone →
             entryIn s t c' w' ≠ ⟨.read, bank⟩ ∧ entryIn s t c' w' ≠ ⟨.leaving, bank⟩) then ⟨.owned, bank⟩
         else entryIn s t c w) ∧ BytesKept s u) ∧
     ∀ (slot : BitVec 6) (rev : Bool) (b0 b1 b2 b3 : Option (BitVec 6)), ([b0, b1, b2, b3].filterMap id).Nodup →
       ∃ u, exec (.mapChangeEffect t (.rotate slot rev [b0, b1, b2, b3])) s = .next u ∧
         (exec (.mapChangeEffect t (.rotate slot rev [])) s = .next s) ∧
         (∀ c w, w ≠ slot → entryIn u t c w = entryIn s t c w) ∧
         (∀ (c : BitVec 2), entryIn u t (if rev then c - 1 else c + 1) slot =
           match ([b0, b1, b2, b3] : List (Option (BitVec 6)))[c.toNat]? with | some (some b) => ⟨.owned, b⟩ | _ => ⟨.detached, 0⟩) ∧
         (∀ (c : BitVec 2) b, ([b0, b1, b2, b3] : List (Option (BitVec 6)))[c.toNat]? = some (some b) →
           (u.tileOf t).homes.at b = some (if rev then c - 1 else c + 1, slot)) ∧ BytesKept s u)

/-- R202, R222 to R224: `bmap` lands the word of an entry; `bfmt` sets a bank's format at t + 4; `bzero` clears row j at the end of
t + 2 + j; `bcopy` reads row j of its plates at t + 3 + j and commits it one tick later, converted where the formats differ.
The cores of a lent entry and the datum 0 of the faults are DEDUCED (log entries 34 and 35); the order of `bcopy`'s faults, with the
window's last, is the model's choice (log entry 54). `bzero` of a tainted strand or under a poisoned guard is left out here. -/
def Obligations.BankMaintenance : Prop :=
  (∀ (d : Dst 6) (m : BitVec 6) (g : Guard) (s : State), s.guardOn g = true → ∃ v : Word,
    exec (.bmap d m g) s = .next ((s.taintIf ((s.guard g).psn != 0)).landG .x 2 d (some .cv) (.clean v)) ∧
    ((s.entry m).st = .detached → v = 0) ∧
    ((s.entry m).st ≠ .detached → v.extractLsb' 0 6 = (s.entry m).bank ∧ v.extractLsb' 21 11 = 0 ∧
      v.extractLsb' 6 3 = (match (s.entry m).st with
        | .detached => 0 | .owned => 1 | .lent => 2 | .read => 3 | .leaving => 4 | .arriving => 5) ∧
      (∀ h, s.myTile.homes.at (s.entry m).bank = some h → v.extractLsb' 13 2 = h.1 ∧ v.extractLsb' 15 6 = h.2) ∧
      ∀ c : BitVec 2, v.getLsbD (9 + c.toNat) = true ↔
        ((s.entry m).st = .lent ∧ ∃ w, s.entryOf c w = ⟨.read, (s.entry m).bank⟩) ∨
        ((s.entry m).st = .read ∧ ∃ w, (s.entryOf c w).bank = (s.entry m).bank ∧ (s.entryOf c w).st.writable = true))) ∧
  (∀ (o : XB) (f : Fmt) (s : State), s.guardOn o.g = true →
    ((s.entry o.s).st.usable = false → exec (.bfmt o f) s = .next (s.fault .x 0x10) ∧
      exec (.bzero o) s = .next (s.fault .x 0x10)) ∧
    ((s.entry o.s).st = .read → exec (.bfmt o f) s = .next (s.fault .x 0x11) ∧ exec (.bzero o) s = .next (s.fault .x 0x11)) ∧
    ((s.entry o.s).st.writable = true → ∃ e, exec (.bfmt o f) s =
        .next { s.taintIf ((s.guard o.g).psn != 0) with agenda := s.agenda ++ [e] } ∧ e.tick = s.t + 4 ∧
      e.act = .ev (.formatChangeEffect s.focus.tile (s.entry o.s).bank f)) ∧
    ((s.entry o.s).st.writable = true → s.me.taint = false → (s.guard o.g).psn = 0 →
      s.windowHit [⟨(s.entry o.s).bank, s.t + 2, s.t + 1025, false, s.focus.core, SlotClass.x.index, s.t⟩] = false →
      ∃ u l, exec (.bzero o) s = .next u ∧ u.agenda = s.agenda ++ l ∧ l.length = 1024 ∧ (∀ st, u.coreOf st = s.coreOf st) ∧
        BytesKept s u ∧ ∀ j e, l[j]? = some e → e.tick = s.t + 2 + j ∧ e.phase = phCommit ∧
          e.act = .ev (.bankCommit s.focus.tile s.focus.core.toNat (s.entry o.s).bank (.zeroRow j)))) ∧
  (∀ (t : TileId) (bank : BitVec 6) (f : Fmt) (s : State), ∃ u, exec (.formatChangeEffect t bank f) s = .next u ∧
    (u.tileOf t).fmts.at bank = f ∧ (∀ b ≠ bank, (u.tileOf t).fmts.at b = (s.tileOf t).fmts.at b) ∧ BytesKept s u ∧
    (∀ st, u.coreOf st = s.coreOf st) ∧ (u.tileOf t).streams = (s.tileOf t).streams) ∧
  (∀ (o : XB) (src : BitVec 6) (plate cnt : BitVec 4) (s : State), s.guardOn o.g = true →
    let d := s.entry o.s
    let e := s.entry src
    let ff := s.myTile.fmts.at e.bank
    let tf := s.myTile.fmts.at d.bank
    let n := 64 * (cnt.toNat + 1)
    (d.st.usable = false ∨ e.st.usable = false → exec (.bcopy o src plate cnt) s = .next (s.fault .x 0x10)) ∧
    (d.st = .read → e.st.usable = true → exec (.bcopy o src plate cnt) s = .next (s.fault .x 0x11)) ∧
    (d.st.writable = true → e.st.usable = true → d.bank = e.bank → exec (.bcopy o src plate cnt) s = .next (s.fault .x 0x16)) ∧
    (d.st.writable = true → e.st.usable = true → d.bank ≠ e.bank → ff.width ≠ tf.width →
      exec (.bcopy o src plate cnt) s = .next (s.fault .x 0x17)) ∧
    (d.st.writable = true → e.st.usable = true → d.bank ≠ e.bank → ff.width = tf.width →
      s.windowHit [⟨e.bank, s.t + 3, s.t + (n + 2), false, s.focus.core, SlotClass.x.index, s.t⟩,
        ⟨d.bank, s.t + 4, s.t + (n + 3), false, s.focus.core, SlotClass.x.index, s.t⟩] = false →
      ∃ u l, exec (.bcopy o src plate cnt) s = .next u ∧ u.agenda = s.agenda ++ l ∧ l.length = n ∧ BytesKept s u ∧
        (∀ st, u.coreOf st = (s.taintIf ((s.guard o.g).psn != 0)).coreOf st) ∧
        ∀ j x, l[j]? = some x → x.tick = s.t + 3 + j ∧ x.act = .read (.copy s.focus
          (s.taintIf ((s.guard o.g).psn != 0)).me.taint s.t e.bank ff d.bank tf (64 * plate.toNat + j)))) ∧
  ∀ (s : State) (rest : List Task) (st : StrandId) (iss row : Nat) (src dst : BitVec 6) (ff tf : Fmt),
    s.todo = .read (.copy st false iss src ff dst tf row) :: rest → ff.width = tf.width → (s.tileOf st.tile).flips = [] →
    ∃ u e l, step s = .next u ∧ u.agenda = s.agenda ++ [e] ∧ e.tick = s.now st.tile.claim + 1 ∧ e.phase = phCommit ∧
      e.act = .ev (.bankCommit st.tile st.core.toNat dst (.bytes l)) ∧
      l.map (fun b => b.off) = (List.range 64).map (fun k => 64 * row + k) ∧
      (ff = tf → ∀ k < 64, (l.map fun b => b.val)[k]? = some ((s.tileOf st.tile).byteView src (64 * row + k)).1) ∧
      (ff ≠ tf → ∀ j < 512 / ff.width, ∃ n, (∀ b < ff.width / 8, (l.map fun x => x.val)[ff.width / 8 * j + b]? =
          some (BitVec.ofNat 8 (n / 256 ^ b))) ∧
        n = convert ff tf .rne false (littleEndian (ff.width / 8) fun b =>
          ((s.tileOf st.tile).byteView src (64 * row + ff.width / 8 * j + b)).1) 0 % 2 ^ ff.width)

/-! ## The matrix unit (spec/09) -/

/-- R232, R234 to R236: claiming and releasing an operand slot takes effect at t + 1, after the checks 0x23, 0x25 and 0x23, 0x21,
0x25; `mstage` moves row j of its region at t + 3 + j and t + 4 + j into slot row P + j and counts P up at t; `mshape` lands its row in
a shape register at t + 3.
That the second of two cores which claim one slot in one tick faults is DEDUCED (log entry 43). -/
def Obligations.OperandSlots : Prop :=
  (∀ (n : BitVec 8) (s : State),
    let o := s.myTile.opSlots.at n
    (4 * s.myTile.opd ≤ n.toNat → exec (.mclaim n) s = .next (s.fault .e 0x23) ∧ exec (.mrel n) s = .next (s.fault .e 0x23)) ∧
    (n.toNat < 4 * s.myTile.opd →
      ((∃ c, o.owner = some c ∧ c ≠ s.focus.core) → exec (.mclaim n) s = .next (s.fault .e 0x25) ∧
        exec (.mrel n) s = .next (s.fault .e 0x21)) ∧
      (o.owner = some s.focus.core → s.t < o.u → exec (.mclaim n) s = .next (s.fault .e 0x25) ∧
        exec (.mrel n) s = .next (s.fault .e 0x25)) ∧
      (o.owner = none → exec (.mrel n) s = .next (s.fault .e 0x21)) ∧
      (o.owner = some s.focus.core → o.u ≤ s.t → ∃ u, exec (.mrel n) s = .next u ∧
        PlansOne s u (s.t + 1) (.ev (.resultLanding s.focus (.freeSlot n.toNat)))) ∧
      ((o.owner = none ∨ (o.owner = some s.focus.core ∧ o.u ≤ s.t)) →
        (claimedNow s n = true → exec (.mclaim n) s = .next (s.fault .e 0x25)) ∧
        (claimedNow s n = false → ∃ u, exec (.mclaim n) s = .next u ∧
          PlansOne s u (s.t + 1) (.ev (.resultLanding s.focus (.claimSlot n.toNat))))))) ∧
  (∀ (st : StrandId) (n : BitVec 8) (s : State),
    (∃ u, exec (.resultLanding st (.claimSlot n.toNat)) s = .next u ∧ LandingFrame s u st ∧
      (u.tileOf st.tile).opSlots.at n =
        ⟨some st.core, 0, none, ((s.tileOf st.tile).opSlots.at n).f, ((s.tileOf st.tile).opSlots.at n).u⟩ ∧
      ∀ m ≠ n, (u.tileOf st.tile).opSlots.at m = (s.tileOf st.tile).opSlots.at m) ∧
    ∃ u, exec (.resultLanding st (.freeSlot n.toNat)) s = .next u ∧ LandingFrame s u st ∧
      ((u.tileOf st.tile).opSlots.at n).owner = none ∧
      ∀ m ≠ n, (u.tileOf st.tile).opSlots.at m = (s.tileOf st.tile).opSlots.at m) ∧
  (∀ (o : ES) (r : Orient) (i : Instr) (s : State), (i = .mstageRow o ∧ r = .row) ∨ (∃ e, i = .mstageCol o e ∧ r = .col e) →
    let ea := placeOf s o.base (o.ofs.toInt * 64)
    let off := (ea.extractLsb' 0 16).toNat
    let e := s.entry (ea.extractLsb' 16 6)
    let x := s.myTile.opSlots.at o.slot
    let n := o.nr.toNat + 1
    let f := s.myTile.fmts.at e.bank
    let leaves := match r with
      | .row => decide (64 < off / 64 % 64 + n) | .col c => decide (64 < off % 64 + n * c.bytes)
    let good := (match f with | .fam _ => true | .flt .bf16 => true | .flt .fp16 => true | _ => false) ∧
      (∀ c, r = .col c → 8 * c.bytes = f.width) ∧ (∀ g, x.fmt = some g → g = f)
    let f_ := fun (c : Byte) (d : Quad) => exec i s = .next (s.fault .e c d)
    (4 * s.myTile.opd ≤ o.slot.toNat → f_ 0x23 0) ∧
    (o.slot.toNat < 4 * s.myTile.opd →
      (x.owner ≠ some s.focus.core → f_ 0x21 0) ∧
      (x.owner = some s.focus.core → s.t < x.u → f_ 0x25 0) ∧
      (x.owner = some s.focus.core → x.u ≤ s.t →
        (2 ^ 22 ≤ ea.toNat ∨ e.st.usable = false → f_ 0x10 (ea.setWidth 64)) ∧
        (ea.toNat < 2 ^ 22 → e.st.usable = true →
          (orientAligned off r = false → f_ 0x12 (ea.setWidth 64)) ∧
          (orientAligned off r = true → leaves = true → f_ 0x13 (ea.setWidth 64)) ∧
          (orientAligned off r = true → leaves = false → ¬ good → f_ 0x17 0) ∧
          (orientAligned off r = true → leaves = false → good → 192 < x.p + n → f_ 0x24 0) ∧
          (orientAligned off r = true → leaves = false → good → x.p + n ≤ 192 →
            s.windowHit [⟨e.bank, s.t + 3, s.t + (n + 2), false, s.focus.core, SlotClass.e.index, s.t⟩,
              ⟨s.myTile.slotBank o.slot, s.t + 4, s.t + (n + 3), false, s.focus.core, SlotClass.e.index, s.t⟩] = false →
            ∃ u l, exec i s = .next u ∧ u.agenda = s.agenda ++ l ∧ l.length = n ∧ BytesKept s u ∧
              (u.tileOf s.focus.tile).opSlots.at o.slot = ⟨x.owner, x.p + n, some f, s.t + 4 + n, x.u⟩ ∧
              (∀ m ≠ o.slot, (u.tileOf s.focus.tile).opSlots.at m = s.myTile.opSlots.at m) ∧
              (∀ st, u.coreOf st = (s.taintIf ((s.me.readA o.base).psn != 0)).coreOf st) ∧
              ∀ j y, l[j]? = some y → y.tick = s.t + 3 + j ∧ ∃ cells : List Nat, y.act = .ev (.stageRowTransfer s.focus.tile
                  (.read s.focus e.bank cells (s.myTile.slotBank o.slot) (16384 * (o.slot.toNat % 4) + 64 * (x.p + j)))) ∧
                cells = (List.range 64).map fun k => match r with
                  | .row => off + 64 * j + k
                  | .col c => off + c.bytes * j + 64 * (k / c.bytes) + k % c.bytes))))) ∧
  (∀ (t : TileId) (st : StrandId) (bank dst : BitVec 6) (cells : List Nat) (off : Nat) (s : State), cells.length = 64 →
    (s.tileOf t).flips = [] → ∃ u e v, exec (.stageRowTransfer t (.read st bank cells dst off)) s = .next u ∧
      u = { s with agenda := s.agenda ++ [e] } ∧ e.tick = s.now t.claim + 1 ∧ e.phase = phCommit ∧
      e.act = .ev (.stageRowTransfer t (.write dst off v)) ∧
      ∀ k < 64, ∀ c, cells[k]? = some c → byteOf v.val k = ((s.tileOf t).byteView bank c).1) ∧
  (∀ (t : TileId) (dst : BitVec 6) (row : Nat) (v : MVec) (s : State), row < 1024 → (s.tileOf t).sram.wf = true →
    ∃ u, exec (.stageRowTransfer t (.write dst (64 * row) v)) s = .next u ∧
      (∀ k < 64, ((u.tileOf t).byteView dst (64 * row + k)).1 = byteOf v.val k) ∧
      ∀ bank off, off < 65536 → (bank = dst → off / 64 ≠ row) → ((u.tileOf t).byteView bank off).1 =
        ((s.tileOf t).byteView bank off).1) ∧
  (∀ (sh : BitVec 2) (base : BitVec 4) (ofs : BitVec 10) (g : Guard) (s : State), s.guardOn g = true →
    let ea := placeOf s base (ofs.toInt * 64)
    let off := (ea.extractLsb' 0 16).toNat
    let e := s.entry (ea.extractLsb' 16 6)
    (2 ^ 22 ≤ ea.toNat ∨ e.st.usable = false → exec (.mshape sh base ofs g) s = .next (s.fault .e 0x10 (ea.setWidth 64))) ∧
    (ea.toNat < 2 ^ 22 → e.st.usable = true → off % 64 ≠ 0 →
      exec (.mshape sh base ofs g) s = .next (s.fault .e 0x12 (ea.setWidth 64))) ∧
    (ea.toNat < 2 ^ 22 → e.st.usable = true → off % 64 = 0 → s.myTile.flips = [] →
      s.windowHit [⟨e.bank, s.t, s.t, false, s.focus.core, SlotClass.e.index, s.t⟩] = false →
      ∃ u l v, exec (.mshape sh base ofs g) s = .next u ∧ u.agenda = s.agenda ++ [l] ∧ l.tick = s.t + 3 ∧ BytesKept s u ∧
        l.act = .ev (.resultLanding s.focus (.shape sh v)) ∧
        ∀ k < 64, byteOf v.val k = (s.myTile.byteView e.bank (off + k)).1)) ∧
  ∀ (st : StrandId) (i : BitVec 2) (v : MVec) (s : State), ∃ u, exec (.resultLanding st (.shape i v)) s = .next u ∧
    (u.coreOf st).shapes.at i = v ∧ (∀ j ≠ i, (u.coreOf st).shapes.at j = (s.coreOf st).shapes.at j) ∧ LandingFrame s u st

/-- R230, R237 to R239: an enabled `mma` outside its lease, which the entries of the slot table give for the count modulo their
length, faults with 0x20, then come the checks 0x23, 0x21, 0x24 and 0x26; an
accepted one starts at the latest of t + 2, X and the fill ticks of its slots, occupies the array for one tick a group and block, and
moves X, Y and both U accordingly; no other slot and no other tile changes. Its steps are on the agenda. R244: the U of a slot that
a co-operative operation sends also reaches the tick after its last flit leaves: two flits for each row of each panel in which it reads
an element; a slot that is both A and B reaches the later of the two ends. -/
def Obligations.MatrixIssue : Prop :=
  ∀ (sh : BitVec 2) (set na nb : Bool) (g : Guard) (s : State), s.guardOn g = true →
    let t := s.myTile
    let r := (s.me.shapes.at sh).val
    let a := BitVec.ofNat 8 (shapeField r 3 0 8)
    let b := BitVec.ofNat 8 (shapeField r 4 0 8)
    let c := BitVec.ofNat 8 (shapeField r 5 0 8)
    let inRange := a.toNat < 4 * t.opd ∧ b.toNat < 4 * t.opd ∧ c.toNat < 4 * t.acc
    let mine := (t.opSlots.at a).owner = some s.focus.core ∧ (t.opSlots.at b).owner = some s.focus.core
    let lens := t.slotTable.map fun e => match e.1 with
      | none => 0
      | some _ => 64 * e.2
    let w := (s.countOf s.focus.tile).toNat % lens.sum
    let lease := lens.sum ≠ 0 ∧ ∃ e len, t.slotTable[e]? = some (some s.focus.core, len) ∧ (lens.take e).sum ≤ w ∧
      w < (lens.take e).sum + 64 * len
    let f := fun (x : Byte) => exec (.mma sh set na nb g) s = .next (s.fault .e x)
    (¬ lease → f 0x20) ∧ (lease → ¬ inRange → f 0x23) ∧ (lease → inRange → ¬ mine → f 0x21) ∧
    (lease → inRange → mine → ¬ recordValid t r → f 0x24) ∧
    (lease → inRange → mine → recordValid t r → 8 ≤ t.arrQueue.length → f 0x26) ∧
    (lease → inRange → mine → recordValid t r → t.arrQueue.length < 8 →
      ∃ u o l, exec (.mma sh set na nb g) s = .next u ∧ u.agenda = s.agenda ++ l ∧ BytesKept s u ∧
        (u.tileOf s.focus.tile).arrQueue = t.arrQueue ++ [o] ∧ o.core = s.focus.core ∧ o.aslot = a ∧ o.bslot = b ∧ o.acc = c ∧
        o.m = shapeField r 0 0 8 + 1 ∧ o.n = shapeField r 1 0 8 + 1 ∧ o.k = shapeField r 2 0 8 ∧
        o.afirst = shapeField r 6 0 8 ∧ o.astride = shapeField r 7 0 8 ∧ o.bfirst = shapeField r 8 0 8 ∧
        o.bstride = shapeField r 9 0 8 ∧ (o.coop = true ↔ shapeField r 10 0 1 = 1) ∧ o.gr = shapeField r 10 1 2 ∧
        o.gc = shapeField r 10 3 2 ∧ o.ta.toNat = shapeField r 12 0 12 ∧ o.tb.toNat = shapeField r 14 0 12 ∧ o.set = set ∧ o.na = na ∧ o.nb = nb ∧
        some o.fa = (t.opSlots.at a).fmt ∧ some o.fb = (t.opSlots.at b).fmt ∧
        o.start = max (max (s.t + 2) t.arrX) (max (t.opSlots.at a).f (t.opSlots.at b).f) ∧
        (let ng := (o.k + (if o.fa.width = 8 then 15 else 3)) / (if o.fa.width = 8 then 16 else 4)
         let nblk := (o.m + 15) / 16 * ((o.n + 15) / 16)
         o.done = o.start + nblk * ng + 1 ∧ (u.tileOf s.focus.tile).arrX = o.start + nblk * ng ∧
         ((u.tileOf s.focus.tile).accs.at c).y = o.done ∧
         (∀ d ≠ c, (u.tileOf s.focus.tile).accs.at d = t.accs.at d) ∧
         (∀ d, d ≠ a → d ≠ b → (u.tileOf s.focus.tile).opSlots.at d = t.opSlots.at d) ∧
         (o.coop = false → ((u.tileOf s.focus.tile).opSlots.at a).u = max (t.opSlots.at a).u o.done ∧
           ((u.tileOf s.focus.tile).opSlots.at b).u = max (t.opSlots.at b).u o.done) ∧
         (o.coop = true →
           let read := fun (first stride p : Nat) => ∃ i < o.k, (first + i * stride) * o.fa.width / 512 = p
           let end_ := fun (tag : BitVec 12) (np rows : Nat) => sendEnd s.wheel (wheelShift s s.focus.tile)
             (t.localSlots tag) (2 * (rows * np)) o.start
           ∀ la lb : List Nat, la.Nodup → lb.Nodup → (∀ p, p ∈ la ↔ read o.afirst o.astride p) →
             (∀ p, p ∈ lb ↔ read o.bfirst o.bstride p) →
             let ua := if o.gc = 0 then max o.done (end_ o.ta la.length o.m) else o.done
             let ub := if o.gr = 0 then max o.done (end_ o.tb lb.length o.n) else o.done
             (a ≠ b → ((u.tileOf s.focus.tile).opSlots.at a).u = max (t.opSlots.at a).u ua ∧
               ((u.tileOf s.focus.tile).opSlots.at b).u = max (t.opSlots.at b).u ub) ∧
             (a = b → ((u.tileOf s.focus.tile).opSlots.at a).u = max (t.opSlots.at a).u (max ua ub))) ∧
         (∃ e ∈ l, e.tick = o.start ∧ e.act = .ev (.mmaStart s.focus.tile o.id)) ∧
         (∀ bk < nblk, ∀ x < ng, ∃ e ∈ l, e.tick = o.start + bk * ng + x ∧ e.phase = phArray ∧
           e.act = .ev (.mmaGroupAdd s.focus.tile o.id bk x)) ∧
         (∀ bk < nblk, ∃ e ∈ l, e.tick = o.start + (bk + 1) * ng ∧ e.phase = phCommit ∧
           e.act = .ev (.mmaBlockWrite s.focus.tile o.id bk)) ∧
         ∃ e ∈ l, e.tick = o.done ∧ e.act = .ev (.mmaCompletion s.focus.tile o.id)))

/-- R229, R239, R241, R233: the array's steps. Group g of an element of a block is added with one rounding to fp32: the exact running
value plus the group's products, each truncated toward minus infinity at Fw bits below the group's largest product exponent. The
first group of a block reads it from the accumulator tile, or takes the values that are being written where the same block is
written in the same tick (R240); the last group finishes the block. A group with a NaN, an infinity times zero or infinities of both
signs is NaN, one with infinities of one sign is that infinity, and a poisoned operand byte marks the element (R242, R243). A block
write commits the elements below M and N of the block that was finished first and leaves every other element as it was; the operation
leaves the queue at its completion. -/
def Obligations.MatrixArray : Prop :=
  (∀ (t : TileId) (op b g : Nat) (s : State) (o : MmaOp), MmaOp.find? (s.tileOf t).arrQueue op = some o →
    (s.tileOf t).flips = [] → ∃ u, exec (.mmaGroupAdd t op b g) s = .next u ∧ BytesKept s u ∧ u.agenda = s.agenda ∧
      (∀ st, u.coreOf st = s.coreOf st) ∧
      (let row0 := 16 * (b / ((o.n + 15) / 16))
       let col0 := 16 * (b % ((o.n + 15) / 16))
       let ng := (o.k + (if o.fa.width = 8 then 15 else 3)) / (if o.fa.width = 8 then 16 else 4)
       (u.tileOf t).arrOut = if g + 1 = ng then (s.tileOf t).arrOut ++ [⟨o.acc, row0, col0, o.m, o.n, (u.tileOf t).arrAcc⟩]
         else (s.tileOf t).arrOut) ∧
      ∀ r < 16, ∀ c < 16,
        let i := 16 * (b / ((o.n + 15) / 16)) + r
        let j := 16 * (b % ((o.n + 15) / 16)) + c
        let x := groupOperands (s.tileOf t) o i j g
        let fw := if o.fa.width = 8 then 18 else 35
        let row := (s.tileOf t).readRow ((s.tileOf t).accBank o.acc) (256 * (o.acc.toNat % 4) + 4 * i + j / 16)
        let stored : AccElem := ⟨row.val.extractLsb' (32 * c) 32, row.psn.extractLsb' (c / 2) 1⟩
        let old : AccElem := if g = 0 then (if o.set then .clean 0
            else match (s.tileOf t).arrOut with
              | [] => stored
              | w :: _ => if w.acc = o.acc ∧ w.row0 = 16 * (b / ((o.n + 15) / 16)) ∧ w.col0 = 16 * (b % ((o.n + 15) / 16)) ∧
                  i < w.m ∧ j < w.n ∧ 16 * r + c < w.elems.length then w.elems.getD (16 * r + c) (.clean 0) else stored)
          else (s.tileOf t).arrAcc.getD (16 * r + c) (.clean 0)
        let was := decodeNum (.flt .fp32) old.val.toNat
        let new := (u.tileOf t).arrAcc.getD (16 * r + c) (.clean 0)
        let infinity : Bool → Word := fun n => if n then 0xFF800000 else 0x7F800000
        let lg := if o.fa.width = 8 then 16 else 4
        i < o.m → j < o.n → (g ≠ 0 → (s.tileOf t).arrAcc.length = 256) →
        (new.psn ≠ 0 ↔ old.psn ≠ 0 ∨ ∃ k < lg, g * lg + k < o.k ∧
          (OperandMarked (s.tileOf t) o.aslot o.fa i o.afirst o.astride (g * lg + k) ∨
            OperandMarked (s.tileOf t) o.bslot o.fb j o.bfirst o.bstride (g * lg + k))) ∧
        (NanGroup x ∨ was = .nan → new.val = 0x7FC00000) ∧
        (∀ n, ¬ NanGroup x → (∃ p ∈ x, InfiniteProduct p n) → (was = .inf (!n) → new.val = 0x7FC00000) ∧
          (was ≠ .nan → was ≠ .inf (!n) → new.val = infinity n)) ∧
        (∀ n, (∀ p ∈ x, p.1.rational ≠ none ∧ p.2.rational ≠ none) → was = .inf n → new.val = infinity n) ∧
        ∀ (qs : List (ℚ × ℚ)) (v : ℚ), x.mapM (fun p => p.1.rational.bind fun a => p.2.rational.map fun b => (a, b)) = some qs →
          was.rational = some v →
          let live := x.filter fun p => p.1.rational != some 0 && p.2.rational != some 0
          ∀ e : Int, (live ≠ [] → (∀ p ∈ live, gridExponent o.fa p.1 + gridExponent o.fb p.2 ≤ e) ∧
              ∃ p ∈ live, gridExponent o.fa p.1 + gridExponent o.fb p.2 = e) →
            ∃ n : Machine.Num, n.rational = some (v + groupRational fw e qs) ∧
              new.val = BitVec.ofNat 32 (roundNum .fp32 n)) ∧
  (∀ (t : TileId) (op b : Nat) (s : State) (o : MmaOp), MmaOp.find? (s.tileOf t).arrQueue op = some o →
    (s.tileOf t).isAcc ((s.tileOf t).accBank o.acc).toNat = true → o.m ≤ 64 → o.n ≤ 64 → (s.tileOf t).sram.wf = true →
    ∀ w rest, (s.tileOf t).arrOut = w :: rest → w.elems.length = 256 →
    let row0 := 16 * (b / ((o.n + 15) / 16))
    let col0 := 16 * (b % ((o.n + 15) / 16))
    let bank := (s.tileOf t).accBank o.acc
    let rowAt := fun r => 256 * (o.acc.toNat % 4) + 4 * (row0 + r) + col0 / 16
    w.acc = o.acc → w.row0 = row0 → w.col0 = col0 → w.m = o.m → w.n = o.n →
    ∃ u, exec (.mmaBlockWrite t op b) s = .next u ∧ (∀ st, u.coreOf st = s.coreOf st) ∧ (u.tileOf t).arrOut = rest ∧
      (∀ r < 16, ∀ c < 16, row0 + r < w.m → col0 + c < w.n →
        let x := w.elems.getD (16 * r + c) (.clean 0)
        elem 32 ((u.tileOf t).readRow bank (rowAt r)).val c = x.val.toNat ∧
          (x.psn ≠ 0 → ((u.tileOf t).readRow bank (rowAt r)).psn.getLsbD (c / 2) = true)) ∧
      ((s.tileOf t).flips = [] → ∀ (k : BitVec 6) (row : Nat), row < 1024 → ∀ c < 16,
        ¬ (k = bank ∧ col0 + c < w.n ∧ ∃ r < 16, row0 + r < w.m ∧ row = rowAt r) →
          elem 32 ((u.tileOf t).readRow k row).val c = elem 32 ((s.tileOf t).readRow k row).val c)) ∧
  (∀ (t : TileId) (op : Nat) (s : State), ∃ u, exec (.mmaCompletion t op) s = .next u ∧
    (∀ o, o ∈ (u.tileOf t).arrQueue ↔ o ∈ (s.tileOf t).arrQueue ∧ o.id ≠ op) ∧ BytesKept s u ∧ u.agenda = s.agenda ∧
    ∀ st, u.coreOf st = s.coreOf st) ∧
  ∀ (t : TileId) (op : Nat) (s : State) (o : MmaOp), MmaOp.find? (s.tileOf t).arrQueue op = some o →
    (o.coop = false → exec (.mmaStart t op) s = .next s) ∧
    (o.coop = true → ∃ u, exec (.mmaStart t op) s = .next u ∧ BytesKept s u ∧ (∀ st, u.coreOf st = s.coreOf st) ∧
      (u.tileOf t).sends.length = (s.tileOf t).sends.length + (if o.gc = 0 then 1 else 0) + (if o.gr = 0 then 1 else 0))

/-- R246 to R248, R197: `macc.rd` lands a quarter of a tile row at t + 3, zero where the row's zero bit is set; `macc.zero` sets every
zero bit at t + 2; `mqnt` commits two quantised rows at the end of t + 3. Each checks range, then busy.
That an access in the tick of an acceptance sees the tile as it was is DEDUCED (log entry 32). -/
def Obligations.Accumulators : Prop :=
  (∀ (d : Dst 6) (n : BitVec 8) (row : BitVec 6) (q : BitVec 2) (s : State),
    let a := s.myTile.accs.at n
    let bank : BitVec 6 := BitVec.ofNat 6 (s.myTile.accBase + n.toNat / 4)
    let br := 256 * (n.toNat % 4) + 4 * row.toNat + q.toNat
    let busy := decide (a.since < s.t ∧ s.t < a.y)
    (4 * s.myTile.acc ≤ n.toNat → exec (.maccRd d n row q) s = .next (s.fault .e 0x23) ∧
      exec (.maccZero n) s = .next (s.fault .e 0x23)) ∧
    (n.toNat < 4 * s.myTile.acc → busy = true → exec (.maccRd d n row q) s = .next (s.fault .e 0x22) ∧
      exec (.maccZero n) s = .next (s.fault .e 0x22)) ∧
    (n.toNat < 4 * s.myTile.acc → busy = false →
      (s.myTile.flips = [] → ∃ v : MVec, exec (.maccRd d n row q) s =
          .next ((s.addBookings [⟨bank, s.t, s.t, false, s.focus.core, SlotClass.e.index, s.t⟩]).landV .e 3 d (some .mx) 0xFFFF v) ∧
        ((s.myTile.isAcc bank.toNat = true ∧ (s.myTile.accs.at n).zero.getLsbD (4 * row.toNat + q.toNat) = true → v.val = 0)) ∧
        (s.myTile.rowZero bank.toNat br = false → ∀ k < 64, byteOf v.val k = (s.myTile.byteView bank (64 * br + k)).1)) ∧
      ∃ u, exec (.maccZero n) s = .next u ∧ PlansOne s u (s.t + 2) (.ev (.resultLanding s.focus (.zeroTile n.toNat))))) ∧
  (∀ (st : StrandId) (n : BitVec 8) (s : State), ∃ u, exec (.resultLanding st (.zeroTile n.toNat)) s = .next u ∧
    LandingFrame s u st ∧ ((u.tileOf st.tile).accs.at n).zero = BitVec.allOnes 256 ∧
    ((u.tileOf st.tile).accs.at n).y = ((s.tileOf st.tile).accs.at n).y ∧
    ∀ m ≠ n, (u.tileOf st.tile).accs.at m = (s.tileOf st.tile).accs.at m) ∧
  ∀ (o : MS 6) (fam : Fam) (sat : Bool) (s : State), s.guardOn o.g = true →
    let d := (s.me.readG o.d).val
    let n : BitVec 8 := d.extractLsb' 0 8
    let row := (d.extractLsb' 8 6).toNat
    let ea := placeOf s o.base (o.ofs.toInt * 64)
    let off := (ea.extractLsb' 0 16).toNat
    let e := s.entry (ea.extractLsb' 16 6)
    let a := s.myTile.accs.at n
    let f := fun (c : Byte) (x : Quad) => exec (.mqnt o fam sat) s = .next (s.fault .e c x)
    (4 * s.myTile.acc ≤ n.toNat → f 0x23 0) ∧
    (n.toNat < 4 * s.myTile.acc → a.since < s.t ∧ s.t < a.y → f 0x22 0) ∧
    (n.toNat < 4 * s.myTile.acc → ¬ (a.since < s.t ∧ s.t < a.y) →
      (2 ^ 22 ≤ ea.toNat ∨ e.st.usable = false → f 0x10 (ea.setWidth 64)) ∧
      (ea.toNat < 2 ^ 22 → e.st = .read → f 0x11 (ea.setWidth 64)) ∧
      (ea.toNat < 2 ^ 22 → e.st.writable = true →
        (off % 64 ≠ 0 → f 0x12 (ea.setWidth 64)) ∧
        (off % 64 = 0 → off / 64 % 64 = 63 → f 0x13 (ea.setWidth 64)) ∧
        (off % 64 = 0 → off / 64 % 64 ≠ 63 → s.myTile.flips = [] →
          s.windowHit [⟨s.myTile.accBank n, s.t, s.t, false, s.focus.core, SlotClass.e.index, s.t⟩,
            ⟨e.bank, s.t + 2, s.t + 3, false, s.focus.core, SlotClass.e.index, s.t⟩] = false →
          ∃ u w l, exec (.mqnt o fam sat) s = .next u ∧ u.agenda = s.agenda ++ [w] ∧ w.tick = s.t + 3 ∧ w.phase = phCommit ∧
            w.act = .ev (.bankCommit s.focus.tile s.focus.core.toNat e.bank (.bytes l)) ∧ BytesKept s u ∧
            l.map (fun b => b.off) = (List.range 128).map (fun k => off + k) ∧
            ∀ h < 2, ∀ k < 64, (l.map fun b => b.val)[64 * h + k]? = some (byteOf (blockRow (quantBlock fam (.flt .fp32) .rne sat 0
              ((List.range 32).map fun i => elem 32 (s.myTile.readRow (s.myTile.accBank n)
                (256 * (n.toNat % 4) + 4 * row + 2 * h + i / 16)).val (i % 16)))) k))))

/-! ## The fabric (spec/10) -/

/-- R284 to R288: `xsend` sends half of a register on the tag or on its alias's binding; `xrecv` takes the oldest ready entry and
lands it at t + 1; `xland` posts a slot and `xtag` binds the lowest tag that leads to a tile, both at t + 1; `xpoll` lands the status of
the tag. The faults are 0x33 without a route, 0x30 for two senders, 0x34 with nothing ready and 0x35 for a slot too many.
That the second of two posts of one slot in one tick faults, and what taints, are DEDUCED (log entries 43 and 36). -/
def Obligations.FabricForms : Prop :=
  (∀ (hi : Bool) (tag : BitVec 12) (a : Src 6) (s : State), s.me.ok a = true →
    let i : Instr := if hi then .xsendHi tag a else .xsendLo tag a
    (namedTag s tag = none → exec i s = .next (s.fault .e 0x33)) ∧
    ∀ g, namedTag s tag = some g →
      (routeAt s s.focus.tile none g = none → exec i s = .next (s.fault .e 0x33)) ∧
      (∀ r, routeAt s s.focus.tile none g = some r →
        ((∃ c ≠ s.focus.core, (c, Intent.send g) ∈ s.myTile.intents) → exec i s = .next (s.fault .e 0x30)) ∧
        ((∀ c ≠ s.focus.core, (c, Intent.send g) ∉ s.myTile.intents) → g ∉ s.myTile.locals → PortsFree s s.focus.tile r →
          ∃ u, exec i s = .next u ∧ Forwards s u s.focus.tile r (sentFlit (s.me.mark (s.me.srcV a)) hi g)))) ∧
  (∀ (hi : Bool) (d : Dst 6) (tag : BitVec 12) (s : State),
    let i : Instr := if hi then .xrecvHi d tag else .xrecvLo d tag
    let l := s.myTile.landing
    let fit := fun e : LandEntry => e.tag = tag ∧ e.kind = 0 ∧ e.armed = true ∧ e.ready ≤ s.t
    ((∀ e ∈ l, ¬ fit e) → exec i s = .next (s.fault .e 0x34)) ∧
    ∀ (pre post : List LandEntry) (e : LandEntry), l = pre ++ e :: post → fit e → e ∉ pre → (∀ x ∈ pre, fit x → e.ready < x.ready) →
      (∀ x ∈ post, fit x → e.ready ≤ x.ready) → ∃ u x regs v, exec i s = .next u ∧
        (u.tileOf s.focus.tile).landing = pre ++ post ∧ u.agenda = s.agenda ++ [x] ∧ x.tick = s.t + 1 ∧
        x.act = .ev (.resultLanding s.focus (.result regs (some (.xf, v)))) ∧ v.val = e.data.setWidth 512 ∧
        (∀ n, d = .reg n → ∃ w, regs = [.v n w 0xFFFF] ∧
          w.val.toNat = if hi then e.data.toNat * 2 ^ 256 else e.data.toNat) ∧ (d = .none → regs = []) ∧
        (∀ st, u.coreOf st = s.coreOf st) ∧ BytesKept s u) ∧
  (∀ (a : Src 6) (dt : BitVec 18) (s : State), s.me.ok a = true →
    let tag : BitVec 12 := (s.me.srcG a).val.extractLsb' 0 12
    let full := 16 ≤ (s.myTile.posts.filter fun p => p.core = s.focus.core).length ∨
      (∃ p ∈ s.myTile.posts, p.tag = tag ∧ p.due = s.t + dt.toNat) ∨ (tag, s.t + dt.toNat) ∈ postingNow s
    (full → exec (.xland a dt) s = .next (s.fault .e 0x35)) ∧
    (¬ full → ∃ u, exec (.xland a dt) s = .next u ∧
      PlansOne (s.taintIf ((s.me.srcG a).psn != 0)) u (s.t + 1) (.ev (.resultLanding s.focus (.post tag (s.t + dt.toNat)))))) ∧
  (∀ (st : StrandId) (tag : BitVec 12) (due : Nat) (s : State), s.now st.tile.claim < due →
    ∃ u e, exec (.resultLanding st (.post tag due)) s = .next u ∧
      (u.tileOf st.tile).posts = (s.tileOf st.tile).posts ++ [⟨tag, due, st.core⟩] ∧ u.agenda = s.agenda ++ [e] ∧ e.tick = due ∧
      e.act = .ev (.landedFlitDue st.tile tag due) ∧ BytesKept s u ∧ ∀ o, u.coreOf o = s.coreOf o) ∧
  (∀ (a : Src 6) (i : BitVec 4) (s : State), s.me.ok a = true →
    let x := (s.me.srcG a).val.toNat % 256
    let y := (s.me.srcG a).val.toNat / 256 % 256
    let c := s.claimOf s.focus.tile.claim
    let leads := fun tag : BitVec 12 => (tag, x, y) ∈ c.tags ∧ ∃ r ∈ s.myTile.routes, r.tag = tag ∧ r.inp = none
    let bad := 2 ^ 16 ≤ (s.me.srcG a).val.toNat ∨ 12 * c.fw ≤ x ∨ 12 * c.fh ≤ y ∨ ∀ tag, ¬ leads tag
    (bad → exec (.xtag a i) s = .next (s.fault .e 0x33)) ∧
    (∀ tag, ¬ bad → leads tag → (∀ g, leads g → tag.toNat ≤ g.toNat) → ∃ u, exec (.xtag a i) s = .next u ∧
      PlansOne (s.taintIf ((s.me.srcG a).psn != 0)) u (s.t + 1) (.ev (.resultLanding s.focus (.aliasTag i tag))))) ∧
  (∀ (st : StrandId) (i : BitVec 4) (tag : BitVec 12) (s : State), ∃ u, exec (.resultLanding st (.aliasTag i tag)) s = .next u ∧
    (u.coreOf st).aliases.at i = some tag ∧ (∀ j ≠ i, (u.coreOf st).aliases.at j = (s.coreOf st).aliases.at j) ∧
    LandingFrame s u st) ∧
  ∀ (d : BitVec 6) (tag : BitVec 12) (s : State), ∃ v : Word,
    exec (.xpoll d tag) s = .next (s.landG .e 1 (.reg d) none (.clean v)) ∧
    (let here := s.myTile.landing ++ s.myTile.taken
     ∀ g, namedTag s tag = some g → here.length ≤ 32 →
      (v.extractLsb' 0 6).toNat = (here.filter fun e => e.tag = g ∧ e.kind = 0 ∧ e.ready ≤ s.t).length ∧
      (v.extractLsb' 6 6).toNat = (here.filter fun e => e.tag = g ∧ e.kind = 0 ∧ s.t < e.ready).length ∧
      (v.getLsbD 12 = true ↔ ∃ p ∈ s.myTile.posts, p.tag = g) ∧ (v.getLsbD 13 = true ↔ g ∈ s.myTile.tagLost) ∧
      (v.getLsbD 14 = true ↔ g ∈ s.myTile.tagPsn) ∧ (v.getLsbD 15 = true ↔ 0xFF0 ≤ tag.toNat) ∧ v.toNat < 2 ^ 16) ∧
    (namedTag s tag = none → v = 0)

/-- R25, R256, R257, R272, R276, R277, R280 to R282, R245, R345: a flit enters the elastic buffer of its input and leaves the router
when the logical latency is over, by the entry of its input, tag and wheel position; without one, or where another flit of the tick
has taken the output port, the claim takes 0x30. A flit from a peer port that lost its partner does not leave, and one whose label
differs from the tile's count less Lp sets DIR, beyond the slack with 0x32; on the other links of a claim every tick of two tiles whose
counts differ does (R267). An error that the link code corrects changes nothing;
another one marks the quarters it touches, or makes the flit a lost flit of the entry's tag, or none where no entry owns the input. In
the slots of a lost port the edge router releases lost flits. A landed flit becomes ready with its slot; without a slot the claim
takes 0x31; a slot without its flit freezes the tile, which the flit ends when it comes; after the limit the claim takes 0x36. An
array row is deposited at slot row P. The slot number of an array row, a flit turned away by a full buffer, the late landing, the
pending error of a side and the slots of a port on a link that an engine shares are the model's readings (log entries 7, 27, 28, 30,
58). -/
def Obligations.FabricEvents : Prop :=
  (∀ (t : TileId) (d : Side) (due : Nat) (f : Flit) (s : State),
    ((s.claimOf t.claim).frozen = none → ∃ u e, exec (.flitArrival t d ⟨due, f, false⟩) s = .next u ∧
      (u.tileOf t).elastic = (s.tileOf t).elastic ++ [(d, due, f)] ∧ u.agenda = s.agenda ++ [e] ∧
      e.act = .ev (.flitRelease t d) ∧ e.phase = phRun ∧ e.tick = max (s.now t.claim) due ∧
      (∀ st, u.coreOf st = s.coreOf st) ∧ BytesKept s u) ∧
    (∀ z, (s.claimOf t.claim).frozen = some z → z.tile = t → z.tag = f.tag → f.land = true → f.kind = 0 →
      due ≤ s.now t.claim → (s.tileOf t).landing.length < 32 → ∃ u l, exec (.flitArrival t d ⟨due, f, false⟩) s = .next u ∧
        (u.claimOf t.claim).frozen = none ∧ (u.tileOf t).elastic = (s.tileOf t).elastic ∧
        (u.tileOf t).landing = (s.tileOf t).landing ++ [⟨f.tag, f.data, f.psn,
          s.now t.claim + (f.lt - BitVec.ofNat 16 (s.now t.claim)).toNat, 0, false, none⟩] ∧
        u.todo = l ++ [.ev z.retry, .early t.claim, .drift t.claim, .issues t.claim, .late t.claim, .endTick t.claim] ∧
        (∀ st, u.coreOf st = s.coreOf st) ∧ BytesKept s u) ∧
    ∀ k m i, (across s t d = some (.engine k.engine) ∨ across s t d = some (.both k.engine)) → f.kind = 2 →
      f.origin = some (k, m, i) → ∃ u, exec (.flitArrival t d ⟨due, f, true⟩) s = .next u ∧
        (u.ctxOf k).cmds = (s.ctxOf k).cmds.map (fun c => if c.num = m then c.takes i f else c) ∧
        (∀ o ≠ k, u.ctxOf o = s.ctxOf o) ∧ u.agenda = s.agenda ∧ (∀ st, u.coreOf st = s.coreOf st) ∧ BytesKept s u) ∧
  (∀ (t : TileId) (d : Side) (s : State) (pre post : List (Side × Nat × Flit)) (a : Nat) (f : Flit),
    (s.tileOf t).elastic = pre ++ (d, a, f) :: post → (∀ x ∈ pre, x.1 ≠ d) → a ≤ s.now t.claim →
    let err := find (s.tileOf t).linkErr d
    let whole := err = none ∨ err = some 0
    let off := (s.countOf t).setWidth 16 - (f.label + BitVec.ofNat 16 s.lp)
    let from_ := fun p : Nat => f.origin = none ∧ portAt s t d = some p
    let level := ∀ p, from_ p → p ∉ (s.claimOf t.claim).lostPorts ∧ off = 0
    (f.nul = true → whole → level → ∃ u, exec (.flitRelease t d) s = .next u ∧ (u.tileOf t).elastic = pre ++ post ∧
      u.agenda = s.agenda ∧ (∀ st, u.coreOf st = s.coreOf st) ∧ BytesKept s u) ∧
    (f.nul = false → whole → level → routeAt s t (some d) f.tag = none →
      ∃ u, exec (.flitRelease t d) s = .next u ∧ ClaimFaulted s u t 0x30) ∧
    (∀ r, f.nul = false → whole → level → routeAt s t (some d) f.tag = some r →
      (PortsFree s t r → ∃ u, exec (.flitRelease t d) s = .next u ∧ Forwards s u t r f) ∧
      (∀ x, r.outs = [x] → r.loc = false → some x ∈ (s.tileOf t).outs →
        ∃ u, exec (.flitRelease t d) s = .next u ∧ ClaimFaulted s u t 0x30)) ∧
    (∀ m, err = some m → m ≠ 0 → level →
      (∃ u, exec (.flitRelease t d) s = .next u ∧ (u.tileOf t).linkErr = drop (s.tileOf t).linkErr d ∧
        ((s.claimOf t.claim).firstErr = none → ∃ e, (u.claimOf t.claim).firstErr = some e ∧ e.tick = s.now t.claim ∧
          e.x = t.x ∧ e.y = t.y ∧ e.core = 15)) ∧
      (m.getLsbD 4 = false → f.nul = false → ∀ r, routeAt s t (some d) f.tag = some r → PortsFree s t r →
        ∃ u, exec (.flitRelease t d) s = .next u ∧ Forwards s u t r { f with psn := f.psn ||| m.extractLsb' 0 4 }) ∧
      (m.getLsbD 4 = true → ∀ tag r, routeTag s t d = some tag → routeAt s t (some d) tag = some r → PortsFree s t r →
        ∃ u g, exec (.flitRelease t d) s = .next u ∧ Forwards s u t r g ∧ IsLost g tag) ∧
      (m.getLsbD 4 = true → routeTag s t d = none → ∃ u, exec (.flitRelease t d) s = .next u ∧
        (u.tileOf t).elastic = pre ++ post ∧ (∀ e ∈ u.agenda, e ∈ s.agenda ∨ e.act = .ev (.uncorrectableHalt t.claim)) ∧
        (∀ st, u.coreOf st = s.coreOf st) ∧ BytesKept s u)) ∧
    ∀ p, from_ p →
      (p ∈ (s.claimOf t.claim).lostPorts → ∃ u, exec (.flitRelease t d) s = .next u ∧ (u.tileOf t).elastic = pre ++ post ∧
        u.agenda = s.agenda ∧ (∀ st, u.coreOf st = s.coreOf st) ∧ BytesKept s u) ∧
      (p ∉ (s.claimOf t.claim).lostPorts → off ≠ 0 → f.nul = true → ∃ u, exec (.flitRelease t d) s = .next u ∧
        (u.tileOf t).dir = (s.tileOf t).dir ||| 1 <<< (match d with | .north => 0 | .east => 1 | .south => 2 | .west => 3) ∧
        (u.tileOf t).delta = off ∧ (s.lp - Config.peerLatency p ≤ off.toInt.natAbs → ClaimFaulted s u t 0x32))) ∧
  (∀ (s : State) (t o : TileId) (side : Side) (rest : List Task), s.todo = .drift t.claim :: rest → isLive s t.claim = true →
    let c := s.claimOf t.claim
    let n := s.now t.claim
    let delta : TileId → Side → BitVec 16 := fun t d => match across s t d with
      | none => 0
      | some (.tile o) => ((s.tileOf t).off - (s.tileOf o).offAt (n - s.lh)).setWidth 16
      | some _ => (s.tileOf t).off.setWidth 16
    let slack := if s.lh = 6 then 3 else s.lh - 5
    c.lostPorts = [] → (∀ x ∈ s.tiles, x.1.claim = t.claim → x.2.linkErr = []) → t.x < 12 * c.fw → t.y < 12 * c.fh →
    across s t side = some (.tile o) → ((s.tileOf t).offHist ≠ [] ∨ (s.tileOf o).offHist ≠ []) →
    ∃ u, step s = .next u ∧ (∀ st, u.coreOf st = s.coreOf st) ∧ BytesKept s u ∧
      (∀ d, (u.tileOf t).dir.getLsbD (match d with | .north => 0 | .east => 1 | .south => 2 | .west => 3) = true ↔
        (s.tileOf t).dir.getLsbD (match d with | .north => 0 | .east => 1 | .south => 2 | .west => 3) = true ∨ delta t d ≠ 0) ∧
      (∀ x, (∃ d, delta t d ≠ 0) → (∀ d, delta t d ≠ 0 → delta t d = x) → (u.tileOf t).delta = x) ∧
      (slack ≤ (delta t side).toInt.natAbs → delta t side ≠ 0 → (u.claimOf t.claim).fatal ≠ none ∧
        c.faultCount < (u.claimOf t.claim).faultCount ∧
        (c.faults.length + ((u.claimOf t.claim).faultCount - c.faultCount) ≤ 64 →
          ∃ r ∈ (u.claimOf t.claim).faults, r.cause = 0x32 ∧ r.tick = n ∧ r.x = t.x ∧ r.y = t.y ∧ r.core = 15)) ∧
      (c.fleet = false → (∀ t' d, (delta t' d).toInt.natAbs < slack) → u.claimOf t.claim = c)) ∧
  (∀ (s : State) (cl p i : Nat) (rest : List Task) (tag : BitVec 12) (r : Route), s.todo = .drift cl :: rest → isLive s cl = true →
    (∀ x ∈ s.tiles, x.1.claim = cl → x.2.offHist = [] ∧ x.2.linkErr = []) → (s.claimOf cl).lostPorts = [p] → i < 19 →
    let side := fun j => (edgeTile (19 * p + j)).2
    let tile := fun j => (⟨cl, (edgeTile (19 * p + j)).1.1 - 12 * (s.claimOf cl).fx0,
      (edgeTile (19 * p + j)).1.2 - 12 * (s.claimOf cl).fy0⟩ : TileId)
    (∀ j < 19, j ≠ i → routeTag s (tile j) (side j) = none) → routeTag s (tile i) (side i) = some tag →
    routeAt s (tile i) (some (side i)) tag = some r → portEntry s (tile i) (side i) (19 * p + i) tag = true →
    PortsFree s (tile i) r → ∃ u g, step s = .next u ∧ Forwards s u (tile i) r g ∧ IsLost g tag) ∧
  (∀ (t : TileId) (tag : BitVec 12) (due : Nat) (s : State),
    let wait := fun e : LandEntry => e.tag = tag ∧ e.ready = due ∧ e.kind = 0 ∧ e.armed = false
    let slot := ∃ p ∈ (s.tileOf t).posts, p.tag = tag ∧ p.due = due
    (∀ (pre post : List LandEntry) (e : LandEntry), (s.tileOf t).landing = pre ++ e :: post → wait e → (∀ x ∈ pre, ¬ wait x) →
      (slot → ∃ u, exec (.landedFlitDue t tag due) s = .next u ∧ (u.tileOf t).landing = pre ++ { e with armed := true } :: post ∧
        (∀ p, p ∈ (u.tileOf t).posts ↔ p ∈ (s.tileOf t).posts ∧ ¬ (p.tag = tag ∧ p.due = due)) ∧ u.agenda = s.agenda ∧
        (∀ st, u.coreOf st = s.coreOf st) ∧ BytesKept s u) ∧
      (¬ slot → ∃ u, exec (.landedFlitDue t tag due) s = .next u ∧ ClaimFaulted s u t 0x31 ∧
        (u.tileOf t).landing = pre ++ post)) ∧
    ((∀ e ∈ (s.tileOf t).landing, ¬ wait e) →
      (slot → landingSpilt s t = false → ∃ u, exec (.landedFlitDue t tag due) s = .next u ∧
        (∃ z, (u.claimOf t.claim).frozen = some z ∧ z.tile = t ∧ z.tag = tag ∧ z.limit = s.wall + 2 ^ 24 ∧
          z.retry = .landedFlitDue t tag due) ∧ (u.claimOf t.claim).tick = (s.claimOf t.claim).tick ∧
        (∀ st, u.coreOf st = s.coreOf st) ∧ BytesKept s u) ∧
      (¬ slot → exec (.landedFlitDue t tag due) s = .next s))) ∧
  (∀ (t : TileId) (tag : BitVec 12) (due : Nat) (s : State), ∃ u, exec (.landingLost t tag due) s = .next u ∧
    ClaimFaulted s u t 0x36 ∧ (u.claimOf t.claim).frozen = none ∧
    ∀ p, p ∈ (u.tileOf t).posts ↔ p ∈ (s.tileOf t).posts ∧ ¬ (p.tag = tag ∧ p.due = due)) ∧
  (∀ (t : TileId) (slot : Nat) (row : MVec) (fmt : BitVec 6) (s : State), slot < 256 →
    let o := (s.tileOf t).opSlots.at (BitVec.ofNat 8 slot)
    let i : Instr := .operandRowDeposit t slot row fmt
    (o.owner = none ∨ 4 * (s.tileOf t).opd ≤ slot → ∃ u, exec i s = .next u ∧ ClaimFaulted s u t 0x21) ∧
    (o.owner ≠ none → slot < 4 * (s.tileOf t).opd →
      (s.now t.claim < o.u → ∃ u, exec i s = .next u ∧ ClaimFaulted s u t 0x25) ∧
      (o.u ≤ s.now t.claim → 192 ≤ o.p → ∃ u, exec i s = .next u ∧ ClaimFaulted s u t 0x24) ∧
      (o.u ≤ s.now t.claim → o.p < 192 → o.fmt ≠ none → o.fmt ≠ Fmt.dec fmt → ∃ u, exec i s = .next u ∧ ClaimFaulted s u t 0x17) ∧
      (o.u ≤ s.now t.claim → o.p < 192 → (o.fmt = none ∨ o.fmt = Fmt.dec fmt) → ∃ u e l, exec i s = .next u ∧
        (u.tileOf t).opSlots.at (BitVec.ofNat 8 slot) = ⟨o.owner, o.p + 1, Fmt.dec fmt, o.f, o.u⟩ ∧ u.agenda = s.agenda ++ [e] ∧
        e.tick = s.now t.claim ∧ e.phase = phCommit ∧
        e.act = .ev (.bankCommit t 15 ((s.tileOf t).slotBank (BitVec.ofNat 8 slot)) (.bytes l)) ∧
        l = ((List.range 64).map fun k => (⟨16384 * (slot % 4) + 64 * o.p + k, byteOf row.val k, row.psn.getLsbD (k / 8)⟩ : BankByte)) ∧
        (∀ st, u.coreOf st = s.coreOf st) ∧ BytesKept s u))) ∧
  (∀ (t : TileId) (id : Nat) (s : State), (∀ a ∈ (s.tileOf t).sends, a.id ≠ id) → exec (.arraySend t id) s = .next s) ∧
  (∀ (t : TileId) (s : State) (a : ArraySend) (row : Nat) (rest : List Nat) (r : Route),
    (s.tileOf t).sends.find? (fun x => x.id == a.id) = some a → a.rows = row :: rest → (s.tileOf t).flips = [] →
    routeAt s t none a.tag = some r → a.tag ∉ (s.tileOf t).locals → PortsFree s t r →
    ∃ u f, exec (.arraySend t a.id) s = .next u ∧ Forwards s u t r f ∧ f.kind = 1 ∧ f.tag = a.tag ∧ f.half = a.half ∧
      f.fmt = a.fmt ∧ f.slot = a.slot ∧ (∀ k < 32, byteOf f.data k = ((s.tileOf t).byteView ((s.tileOf t).slotBank a.slot)
        (16384 * (a.slot.toNat % 4) + 64 * row + (if a.half then 32 else 0) + k)).1) ∧
      (a.half = true → rest = [] → ∀ x ∈ (u.tileOf t).sends, x.id ≠ a.id)) ∧
  (∀ (t : TileId) (s : State) (a : ArraySend), (s.tileOf t).sends.find? (fun x => x.id == a.id) = some a → a.rows ≠ [] →
    routeAt s t none a.tag = none → ∃ u l, exec (.arraySend t a.id) s = .next u ∧ u = { s with agenda := s.agenda ++ l } ∧
      ∀ n, nextSend s.wheel (wheelShift s t) ((s.tileOf t).localSlots a.tag) (s.now t.claim + 1) = some n →
        ∃ e, l = [e] ∧ e.claim = t.claim ∧ e.tick = n ∧ e.act = .ev (.arraySend t a.id)) ∧
  ∀ (port : Nat) (s : State), ∃ u, exec (.peerLinkLoss port) s = .next u ∧
    (∀ p ∈ s.claims, ∃ q ∈ u.claims, q.1 = p.1 ∧ (p.2.fleet = true → port ∈ q.2.lostPorts) ∧
      ∀ x ∈ q.2.lostPorts, x ∈ p.2.lostPorts ∨ x = port) ∧
    u.cores = s.cores ∧ u.tiles = s.tiles ∧ u.agenda = s.agenda ∧ u.far = s.far

/-- R38, R260 to R264, R268, R289, R290: counts, holds and trims. `tkalign` plans one alignment at the tile's next wheel boundary,
which takes the count that more than half of the neighbours hold, or faults the bundle presented there; `tkhold` raises its hold at t
+ 1, where HOLDS counts up, and the hold reaches every other tile of the claim after its distance; the cycles in which a hold stops a
tile enter its PEAK, and one of them raises a hold where the lag then reaches a link's slack less one; a droop spends whole cycles;
the local trim goes, by no more than the slew, towards the target that the mean deviation of the links gives, and repays what it makes
of whole cycles; so does the wafer's trim by its peer links, with the integral term and, throttled, no higher than 0; a rejected gain
keeps its value; an upset moves a tile's count. Trims are in thousandths of a ppm, deviations in sixteenths of a flit. How means and
trims round, the bookkeeping of cycles, the strand that a failed alignment faults and what its registers show, and the unit of a droop
are the model's (log entries 16, 44, 31, 49); so is what a docent does while its controller is switched (log entry 4), and that a throttle above 15,000
ppm in a fleet becomes a proposed cut and a message `cutProposed` (log entry 58). -/
def Obligations.CountsAndHolds : Prop :=
  (∀ (s : State),
    (s.me.span = true → exec .tkalign s = .next (s.fault .e 0x74)) ∧
    (s.me.span = false → s.myTile.pend ≠ none → exec .tkalign s = .next s) ∧
    (s.me.span = false → s.myTile.pend = none → s.wheelPos s.focus.tile < s.wheel → ∃ u e, exec .tkalign s = .next u ∧
      (u.tileOf s.focus.tile).pend = some (s.t + 1) ∧ u.agenda = s.agenda ++ [e] ∧ e.act = .ev (.alignment s.focus.tile) ∧
      s.t < e.tick ∧ e.tick ≤ s.t + s.wheel ∧ (s.wheelPos s.focus.tile + (e.tick - s.t)) % s.wheel = 0 ∧ (∀ st, u.coreOf st = s.coreOf st) ∧ BytesKept s u)) ∧
  (∀ (t : TileId) (s : State),
    let vs := (allSides.filterMap fun d => across s t d).map fun a =>
      (BitVec.ofNat 64 (s.now t.claim) + labelOff s a (s.now t.claim)).setWidth 16
    ((∀ m, 2 * vs.count m ≤ vs.length) → ∃ u, exec (.alignment t) s = .next u ∧ (u.tileOf t).pend = none ∧
      (firstPresenting s t = none → ClaimFaulted s u t 0x32) ∧
      ∀ st, firstPresenting s t = some st → (u.coreOf st).status = .stopped ∧ (u.coreOf st).fCause = 0x32 ∧
        presents u st = false ∧ (u.claimOf t.claim).faultCount = (s.claimOf t.claim).faultCount + 1 ∧
        (u.claimOf t.claim).fatal.isSome = true ∧ (∀ o ≠ st, u.coreOf o = s.coreOf o) ∧ BytesKept s u) ∧
    ∀ m, vs.length < 2 * vs.count m → ∃ u, exec (.alignment t) s = .next u ∧ (u.countOf t).setWidth 16 = m ∧
      ((u.countOf t) - (s.countOf t)).toInt.natAbs ≤ 2 ^ 15 ∧ (u.tileOf t).dir = 0 ∧ (u.tileOf t).delta = 0 ∧
      (u.tileOf t).pend = none ∧ u.now t.claim = s.now t.claim ∧ (∀ st, u.coreOf st = s.coreOf st) ∧ BytesKept s u) ∧
  (∀ (dt : BitVec 18) (s : State),
    (s.me.span = true → exec (.tkhold dt) s = .next (s.fault .e 0x74)) ∧
    (s.me.span = false → ∃ u, exec (.tkhold dt) s = .next u ∧
      PlansOne s u (s.t + 1) (.ev (.resultLanding s.focus (.hold dt.toNat))))) ∧
  (∀ (st : StrandId) (q : Nat) (s : State),
    let c := s.claimOf st.tile.claim
    ∃ u, exec (.resultLanding st (.hold q)) s = .next u ∧ BytesKept s u ∧ (∀ o, u.coreOf o = s.coreOf o) ∧
      (u.tileOf st.tile).holds.toNat = min 0xFFFF ((s.tileOf st.tile).holds.toNat + 1) ∧
      (∀ e ∈ s.agenda, e ∈ u.agenda ∨ ∃ o p x n, e.act = .ev (.holdDelivery o p ⟨x, none⟩) ∧ { e with tick := n } ∈ u.agenda) ∧
      ∀ x < 12 * c.fw, ∀ y < 12 * c.fh,
        let o : TileId := ⟨st.tile.claim, x, y⟩
        let d := holdDistance c st.tile o
        o ≠ st.tile → ∃ e ∈ u.agenda, s.now o.claim < e.tick ∧ e.phase = phWire ∧
          e.act = .ev (.holdDelivery o q ⟨cycleOf s st.tile + d, none⟩) ∧
          ((∀ p ∈ s.tiles, p.1.claim = o.claim → p.2.delay = 0 ∧ p.2.stopUntil ≤ p.2.stopFrom) → holdsTo s o = [] →
            c.start ≤ c.tick → e.tick = c.tick + d)) ∧
  (∀ (t : TileId) (q cycle : Nat) (port : Option Nat) (s : State), ∃ u, exec (.holdDelivery t q ⟨cycle, port⟩) s = .next u ∧
    (u.tileOf t).held = true ∧ (u.tileOf t).stopUntil = max (s.tileOf t).stopUntil (cycle + q) ∧
    (u.tileOf t).delay = (s.tileOf t).delay + ((cycle + q - max cycle (s.tileOf t).stopUntil : Nat) : Int) ∧
    u.todo = .ev (.holdEnd t) :: s.todo ∧ (∀ st, u.coreOf st = s.coreOf st) ∧ BytesKept s u ∧
    (let w := max cycle (s.tileOf t).stopUntil
     let v := s.modTile t fun x => { x.stand w (cycle + q - w) with held := true }
     port = none → holdsTo s t = [] →
      ((s.tileOf t).lagHigh = true ∨ (∀ k, w ≤ k → k < cycle + q → highAt v t k 0 = false) →
        u.agenda = s.agenda ∧ u.peerHolds = s.peerHolds ∧ (u.tileOf t).holds = (s.tileOf t).holds) ∧
      ((s.tileOf t).lagHigh = false → (∃ k, w ≤ k ∧ k < cycle + q ∧ highAt v t k 0 = true) →
        (u.tileOf t).lagHigh = true ∧ (u.tileOf t).holds.toNat = min 0xFFFF ((s.tileOf t).holds.toNat + 1)) ∧
      ∀ k, w ≤ k → k < cycle + q → min (lagAt v t k) 0xFFFF ≤ (u.tileOf t).peak.toNat) ∧
    ∀ p, port = some p →
      (∀ x < 12 * (s.claimOf t.claim).fw, ∀ y < 12 * (s.claimOf t.claim).fh,
        let o : TileId := ⟨t.claim, x, y⟩
        o ≠ t → ∃ e ∈ u.agenda, e.act = .ev (.holdDelivery o q ⟨cycle + holdDistance (s.claimOf t.claim) t o, none⟩)) ∧
      ((s.claimOf t.claim).fleet = true →
        (∀ k < 24, k ≠ p → ∃ x, u.peerHolds.count (k, q, x) ≠ s.peerHolds.count (k, q, x)) ∧
        ((s.tileOf t).lagHigh = true → ∀ x, u.peerHolds.count (p, q, x) = s.peerHolds.count (p, q, x)))) ∧
  (∀ (t : TileId) (s : State), ∃ u, exec (.holdEnd t) s = .next u ∧ (u.tileOf t).held = false ∧
    (u.tileOf t).delay = (s.tileOf t).delay ∧ (∀ st, u.coreOf st = s.coreOf st) ∧ BytesKept s u ∧ u.agenda = s.agenda) ∧
  (∀ (t : TileId) (part : Nat) (s : State), ∃ u, exec (.voltageDroop t part) s = .next u ∧
    1000 * (u.tileOf t).delay + (u.tileOf t).droop = 1000 * (s.tileOf t).delay + (s.tileOf t).droop + part ∧
    (u.tileOf t).droop < 1000 ∧ (∀ st, u.coreOf st = s.coreOf st) ∧ BytesKept s u) ∧
  (∀ (t : TileId) (s : State),
    let x := s.tileOf t
    let w := ((1024 * (x.trimCycles + 1) : Nat) - x.gained : Int).toNat
    let fb := 1000000 - s.throttle - s.baseCut
    let step : Int := s.slew * ((w - x.trimAt : Nat) : Int) * 10 ^ 18 / (1700 * fb * (10 ^ 9 + s.waferTrim))
    ∃ u, exec (.localTrimUpdate t) s = .next u ∧ (∀ st, u.coreOf st = s.coreOf st) ∧ BytesKept s u ∧
      (u.tileOf t).trimAt = w ∧ (u.tileOf t).trimCycles = x.trimCycles + 1 ∧
      (∀ e, MeanOf (lambdas s t w) e → (u.tileOf t).trim = x.trim + max (-step) (min step
        (max (-5000000) (min 5000000 (1250 * lessDeadband s.db4 e)) - x.trim))) ∧
      (-(10 ^ 9) < s.waferTrim → x.trim.natAbs ≤ 5000000 → (u.tileOf t).trim.natAbs ≤ 5000000) ∧
      10 ^ 9 * ((u.tileOf t).gained - x.gained) + (u.tileOf t).trimAcc = x.trimAcc + 1024 * x.trim ∧
      0 ≤ (u.tileOf t).trimAcc ∧ (u.tileOf t).trimAcc < 10 ^ 9 ∧
      (u.tileOf t).delay + (u.tileOf t).gained = x.delay + x.gained) ∧
  (∀ (links : List (Nat × Int)) (s : State),
    let fb := 1000000 - s.throttle - s.baseCut
    let step : Int := s.slew * 1024 * 10 ^ 9 / (1700 * fb)
    let clamped := fun x : Int => max (-15000000) (min 15000000 x)
    let capped := fun x : Int => if s.throttle = 0 then x else min x 0
    (s.fleet = none → exec (.waferTrimUpdate links) s = .next s) ∧
    (s.fleet ≠ none → ∀ e, MeanOf (links.map fun l => l.2) e →
      let d := lessDeadband s.db4 e
      let iw := clamped (s.waferInt + 20 * d * 1024 * 1000000 / (1700 * 16 * fb))
      exec (.waferTrimUpdate links) s = .next { s with
        peerLambda := links, fbAcc := s.fbAcc - 1024 * 1000000, waferInt := capped iw
        waferTrim := s.waferTrim + max (-step) (min step (capped (clamped (1250 * d + iw)) - s.waferTrim)) })) ∧
  (∀ (db sl : Nat) (s : State), exec (.deadbandSlewSet db sl) s =
    .next { s with
      db4 := if 1 ≤ db ∧ db ≤ 4 * (s.lh - 5) then db else s.db4
      slew := if 10 ≤ sl ∧ sl ≤ 200 then sl else s.slew }) ∧
  (∀ (field ppm : Nat) (s : State),
    ((s.ctlOf (.docent field)).switching = false →
      (s.fleet = none → exec (.throttle ⟨field, ppm⟩) s = .next { s with throttle := ppm }) ∧
      (s.fleet ≠ none → ppm ≤ 15000 → exec (.throttle ⟨field, ppm⟩) s = .next { s with throttle := ppm }) ∧
      (s.fleet ≠ none → 15000 < ppm → exec (.throttle ⟨field, ppm⟩) s = .next { s with
        throttle := 15000, cut := some (ppm - 15000, [])
        fleetMsgs := s.fleetMsgs ++ [.cutProposed (ppm - 15000)] })) ∧
    ((s.ctlOf (.docent field)).switching = true → exec (.throttle ⟨field, ppm⟩) s =
      .next { s with inputs := s.inputs ++ [(s.wall + 1, .throttle ⟨field, ppm⟩)] })) ∧
  (∀ (field row col : Nat) (high : Bool) (s : State),
    ((s.ctlOf (.docent field)).switching = false → ∃ u, exec (.railChange field ⟨row, col⟩ high) s = .next u ∧
      u = { s with lowRail := u.lowRail } ∧ (∀ p, p ≠ (field, row, col) → (p ∈ u.lowRail ↔ p ∈ s.lowRail)) ∧
      (high = true → (field, row, col) ∉ u.lowRail) ∧
      (high = false → tileClaimed s field row col = false → (field, row, col) ∈ u.lowRail) ∧
      (high = false → tileClaimed s field row col = true → u = s)) ∧
    ((s.ctlOf (.docent field)).switching = true → exec (.railChange field ⟨row, col⟩ high) s =
      .next { s with inputs := s.inputs ++ [(s.wall + 1, .railChange field ⟨row, col⟩ high)] })) ∧
  ∀ (t : TileId) (d : BitVec 64) (s : State), ∃ u, exec (.countUpset t d) s = .next u ∧ u.countOf t = s.countOf t + d ∧
    (∀ i ≠ t, i.claim = t.claim → u.countOf i = s.countOf i) ∧ u.now t.claim = s.now t.claim ∧
    (∀ st, u.coreOf st = s.coreOf st) ∧ BytesKept s u

/-! ## Staging (spec/11) -/

/-- R299, R301, R309, R314: `stg.set` writes a shadow register at t + 1; the four kinds of `stg.go` commit the shadow set at t + 1 as
the command ISSUED + 1; `stg.rd` and `tl.rd` land at t + 2 what they read at t; `tl.wait` goes on once the counter has reached its
number. The faults are 0x74, 0x43 and 0x44 in their order.
That a poisoned value of `stg.set` taints, and that the four commands share one meaning, are DEDUCED (log entries 36 and
39). -/
def Obligations.StagingForms : Prop :=
  (∀ (c : BitVec 8) (r : CtxReg) (a : Src 6) (s : State), s.me.ok a = true →
    (bindingOf s s.focus c = none → exec (.stgSet c r a) s = .next (s.fault .e 0x43)) ∧
    (bindingOf s s.focus c ≠ none → ∃ u, exec (.stgSet c r a) s = .next u ∧
      PlansOne (s.taintIf ((fileValue s.me (isWideReg r) a).psn != 0)) u (s.t + 1)
        (.ev (.resultLanding s.focus (.ctxReg c r (fileValue s.me (isWideReg r) a).val))))) ∧
  (∀ (st : StrandId) (c : BitVec 8) (r : CtxReg) (v : Quad) (s : State) (k : CtxId), bindingOf s st c = some k →
    ∃ u, exec (.resultLanding st (.ctxReg c r v)) s = .next u ∧ (u.ctxOf k).shadow.get r = v ∧
      (∀ q ≠ r, (u.ctxOf k).shadow.get q = (s.ctxOf k).shadow.get q) ∧ (∀ j ≠ k, u.ctxOf j = s.ctxOf j) ∧
      u.cores = s.cores ∧ u.tiles = s.tiles ∧ u.agenda = s.agenda ∧ u.far = s.far) ∧
  (∀ (i : Instr) (c : BitVec 8) (s : State),
    i ∈ ([.readToBank c, .readToLandingBuffer c, .write c, .trackedWrite c] : List Instr) →
    let bad := bindingOf s s.focus c = none ∨ (s.ctxFor c).pending ≠ none
    (s.me.span = true → exec i s = .next (s.fault .e 0x74)) ∧
    (s.me.span = false → bad → exec i s = .next (s.fault .e 0x43)) ∧
    (s.me.span = false → ¬ bad → shadowInvalid (s.ctxFor c).shadow → exec i s = .next (s.fault .e 0x44)) ∧
    (s.me.span = false → ¬ bad → ¬ shadowInvalid (s.ctxFor c).shadow → ∃ u, exec i s = .next u ∧
      PlansOne s u (s.t + 1) (.ev (.resultLanding s.focus (.ctxGo c))))) ∧
  (∀ (st o : StrandId) (c : BitVec 8) (s : State) (k : CtxId), bindingOf s st c = some k → (s.ctxOf k).owner = some o →
    ∃ u, exec (.resultLanding st (.ctxGo c)) s = .next u ∧
      (u.ctxOf k).pending = some ((s.ctxOf k).issued + 1, (s.ctxOf k).shadow) ∧ (u.ctxOf k).issued = (s.ctxOf k).issued + 1 ∧
      (u.ctxOf k).shadow = (s.ctxOf k).shadow ∧ (∀ j ≠ k, u.ctxOf j = s.ctxOf j) ∧
      ((s.ctxOf k).activeTill = none → (s.ctxOf k).armed = false → u.todo = .ev (.commandActivation k) :: s.todo) ∧
      (∀ e, (s.ctxOf k).activeTill = some e → s.now o.tile.claim < e → ∃ x, u.agenda = s.agenda ++ [x] ∧ x.tick = e ∧
        x.act = .ev (.commandActivation k)) ∧ CoresAndBytesKept s u) ∧
  (∀ (d : BitVec 6) (c : BitVec 8) (s : State),
    (∀ r : CtxReg, exec (.stgRd d c (.reg r)) s = .next (if isWideReg r
      then s.landA .e 2 (.reg (BitVec.ofNat 4 d.toNat)) none (.clean ((s.ctxFor c).shadow.get r))
      else s.landG .e 2 (.reg d) none (.clean (BitVec.ofNat 32 ((s.ctxFor c).shadow.get r).toNat)))) ∧
    exec (.stgRd d c (.stat .issued)) s =
      .next (s.landA .e 2 (.reg (BitVec.ofNat 4 d.toNat)) none (.clean (BitVec.ofNat 64 (s.ctxFor c).issued))) ∧
    exec (.stgRd d c (.stat .active)) s =
      .next (s.landA .e 2 (.reg (BitVec.ofNat 4 d.toNat)) none (.clean (BitVec.ofNat 64 (s.ctxFor c).activeNum))) ∧
    (∃ v : Word, exec (.stgRd d c (.stat .state)) s = .next (s.landG .e 2 (.reg d) none (.clean v)) ∧ v.toNat < 8 ∧
      (v.getLsbD 0 = true ↔ (s.ctxFor c).pending ≠ none) ∧ (v.getLsbD 1 = true ↔ (s.ctxFor c).isActive s.t = true) ∧
      (v.getLsbD 2 = true ↔ ∃ x ∈ (s.ctxFor c).cmds, x.armed = true)) ∧
    (∃ v : Word, exec (.stgRd d c (.stat .bind)) s = .next (s.landG .e 2 (.reg d) none (.clean v)) ∧
      (bindingOf s s.focus c = none → v = 0) ∧ ∀ k, bindingOf s s.focus c = some k → k.engine < 32 → k.ctx < 256 →
        v.getLsbD 31 = true ∧ (v.extractLsb' 0 5).toNat = k.engine ∧ (v.extractLsb' 5 8).toNat = k.ctx ∧ v.extractLsb' 13 18 = 0)) ∧
  (∀ (d : BitVec 4) (c : BitVec 8) (s : State),
    exec (.tlRd d c) s = .next (s.landA .e 2 (.reg d) none (.clean (BitVec.ofNat 64 (s.ctxFor c).timeline)))) ∧
  ∀ (c : BitVec 8) (a : Src 4) (s : State),
    let n := (s.me.srcA a).val.toNat
    let bad := bindingOf s s.focus c = none ∨ (s.ctxFor c).issued < n
    (s.me.ok a = false → exec (.tlWait c a) s = .next (s.fault .e 0x03)) ∧
    (s.me.ok a = true → bad → exec (.tlWait c a) s = .next (s.fault .e 0x43)) ∧
    (s.me.ok a = true → ¬ bad → n ≤ (s.ctxFor c).timeline →
      exec (.tlWait c a) s = .next (s.taintIf ((s.me.srcA a).psn != 0))) ∧
    (s.me.ok a = true → ¬ bad → (s.ctxFor c).timeline < n →
      (s.me.span = false → exec (.tlWait c a) s = .next (s.fault .e 0x74)) ∧
      (s.me.span = true → exec (.tlWait c a) s =
        .next ((s.taintIf ((s.me.srcA a).psn != 0)).modCore s.focus fun c => { c with status := .waiting })))

/-- R302 to R310, R312: the engine's steps. An activation empties the pending set and checks the command: its destination, the whole
number of its units and its route (0x44), then its lead and its releases (0x45); it plans the requests, flits and deposits of a read,
or the source reads, flits and the commit of a write. The flits of a read's row leave at the latest route ticks that serve its tick,
those of a write at the earliest ticks with an entry, and a write commits 2,048 ticks after its last flit has reached the engine; the
flag of a command with FL = 1 leaves so that it lands 256 ticks after C, with FVAL. A read's flits carry its far bytes, converted with
CONV = 1; with RED a deposit adds, or takes the larger or smaller, with the row as it stood; an access of a busy accumulator tile
takes 0x22. A read line is translated, checked and taken from far memory; a flit leaves one tick before it reaches the edge tile; a deposit and a
flag commit in their tick, a missing flit freezes the tile; a source row is read; a committed write puts the bytes of all its units,
converted with CONV = 1, into far memory and nothing else; the timeline counter is the largest number up to which every command has
reached C + 1. The link of a path, the checks of an engine's accesses and a line's lateness are the model's readings (log entries 38,
39, 50); so are the freeze of the claim with its limit wall + 2^24 and the landing that spilt (log entries 28 and 27), and the origin
by which a landed flit is known to be its command's (log entry 7). -/
def Obligations.StagingEngine : Prop :=
  (∀ (k : CtxId) (s : State), (s.ctxOf k).pending = none → exec (.commandActivation k) s = .next s) ∧
  (∀ (k : CtxId) (s : State) (n : Nat) (r : CtxRegs) (st : StrandId), (s.ctxOf k).pending = some (n, r) →
    (s.ctxOf k).owner = some st → ∃ u, exec (.commandActivation k) s = .next u ∧ CoresAndBytesKept s u ∧
      (u.ctxOf k).pending = none ∧ (u.ctxOf k).activeNum = n ∧
      (destOf s st.tile.claim r = none → ClaimFaulted s u st.tile 0x44) ∧
      (∀ t, destOf s st.tile.claim r = some t → r.fl = false → r.opc = 1 →
        let now := s.now st.tile.claim
        let q := r.len.toNat / 32
        (pathIn s st.tile.claim k.engine r.dataTag t = none → ClaimFaulted s u st.tile 0x44) ∧
        (pathIn s st.tile.claim k.engine r.dataTag t ≠ none → r.tick.toNat < now + 16384 → ClaimFaulted s u st.tile 0x45) ∧
        ∀ p, pathIn s st.tile.claim k.engine r.dataTag t = some p → now + 16384 ≤ r.tick.toNat →
          let bf : Fmt := if (s.tileOf t).isAcc r.locBank.toNat then .flt .fp32 else (s.tileOf t).fmts.at r.locBank
          let c : Cmd := ⟨n, r, now, r.tick.toNat, q, bf, [], [], [], [], [], [], 0, 0, none, none, false, 0⟩
          (schedule s st.tile.claim k c p none now = none → ClaimFaulted s u st.tile 0x45) ∧
          ∀ y, schedule s st.tile.claim k c p none now = some y →
            let at_ := fun (tick : Nat) (ev : Event) => ∃ e ∈ u.agenda, e.claim = st.tile.claim ∧ e.tick = tick ∧ e.act = .ev ev
            (u.ctxOf k).cmds = (s.ctxOf k).cmds ++ [y] ∧ (u.claimOf st.tile.claim).faults = (s.claimOf st.tile.claim).faults ∧
            (u.ctxOf k).activeTill = some (now + q) ∧ y.release.length = q ∧
            y.commit = some (r.tick.toNat + (q - 1) * r.pitch.toNat) ∧
            at_ (r.tick.toNat + (q - 1) * r.pitch.toNat + 1) (.timelineAdvance k) ∧
            (∀ j < r.len.toNat / 64, at_ (now + j) (.readLineRequest k n j)) ∧
            ∀ j m, y.release[j]? = some m → at_ m (.stagingFlitRelease k n j) ∧ now ≤ m ∧
              (let route := fun x => (x + s.lh) % s.wheel ∈ p.slots ∧ x + (p.hops + 1) * s.lh ≤ r.tick.toNat + j * r.pitch.toNat
               route m ∧ ∀ x, route x → x ≤ m)) ∧
      (∀ t, destOf s st.tile.claim r = some t → r.fl = true →
        let x := s.tileOf t
        let now := s.now st.tile.claim
        let ft : TileId := ⟨st.tile.claim, r.flagX, r.flagY⟩
        let flagged := r.flagX < 12 * (s.claimOf st.tile.claim).fw ∧ r.flagY < 12 * (s.claimOf st.tile.claim).fh ∧
          (s.tileOf ft).isScratch r.flagBank.toNat = true
        let bf : Fmt := if x.isAcc r.locBank.toNat then .flt .fp32 else x.fmts.at r.locBank
        let w := 64 * (if r.conv then (r.ffmt.getD bf).width else bf.width)
        let q := if r.opc = 1 then r.len.toNat / 32 else r.len.toNat * bf.width / w
        let fits := r.opc = 1 ∨ ((x.isScratch r.locBank.toNat = true ∨ x.isAcc r.locBank.toNat = true) ∧
          r.len.toNat * bf.width % w = 0 ∧ r.row0 + q ≤ 1024 ∧ (r.red = 0 ∨ bf = .flt .fp32 ∨ bf = .flt .bf16))
        (¬ flagged → ClaimFaulted s u st.tile 0x44) ∧
        (r.opc ≠ 3 → pathIn s st.tile.claim k.engine r.flagTag ft = none → ClaimFaulted s u st.tile 0x44) ∧
        ∀ p g y, flagged → fits → r.opc ≠ 3 → now + (if r.opc = 2 then 512 else 16384) ≤ r.tick.toNat →
          (if r.opc = 2 then pathOut s k.engine r.dataTag t else pathIn s st.tile.claim k.engine r.dataTag t) = some p →
          pathIn s st.tile.claim k.engine r.flagTag ft = some g →
          schedule s st.tile.claim k ⟨n, r, now, r.tick.toNat, q, bf, [], [], [], [], [], [], 0, 0, none, none, false, 0⟩
            p (some g) now = some y →
          let at_ := fun (tick : Nat) (ev : Event) => ∃ e ∈ u.agenda, e.claim = st.tile.claim ∧ e.tick = tick ∧ e.act = .ev ev
          (u.ctxOf k).cmds = (s.ctxOf k).cmds ++ [y] ∧ ∃ c m, y.commit = some c ∧ y.flagAt = some (g.link, m) ∧ now ≤ m ∧
            (let route := fun x => (x + s.lh) % s.wheel ∈ g.slots ∧ x + (g.hops + 1) * s.lh ≤ c + 256
             route m ∧ ∀ x, route x → x ≤ m) ∧
            at_ m (.stagingFlitRelease k n y.release.length) ∧ at_ (c + 256) (.flagWrite k n)) ∧
      (∀ t, destOf s st.tile.claim r = some t → r.fl = false → (r.opc = 0 ∨ r.opc = 2) →
        let x := s.tileOf t
        let now := s.now st.tile.claim
        let bf : Fmt := if x.isAcc r.locBank.toNat then .flt .fp32 else x.fmts.at r.locBank
        let w := 64 * (if r.conv then (r.ffmt.getD bf).width else bf.width)
        let q := r.len.toNat * bf.width / w
        let fits := (x.isScratch r.locBank.toNat = true ∨ x.isAcc r.locBank.toNat = true) ∧ r.len.toNat * bf.width % w = 0 ∧
          r.row0 + q ≤ 1024 ∧ (r.red = 0 ∨ bf = .flt .fp32 ∨ bf = .flt .bf16)
        let path := if r.opc = 0 then pathIn s st.tile.claim k.engine r.dataTag t else pathOut s k.engine r.dataTag t
        let early := r.tick.toNat < now + (if r.opc = 0 then 16384 else 512)
        (¬ fits ∨ path = none → ClaimFaulted s u st.tile 0x44) ∧ (fits → path ≠ none → early → ClaimFaulted s u st.tile 0x45) ∧
        ∀ p, fits → path = some p → ¬ early →
          let c : Cmd := ⟨n, r, now, r.tick.toNat, q, bf, [], [], [], [], [], [], 0, 0, none, none, false, 0⟩
          (schedule s st.tile.claim k c p none now = none → ClaimFaulted s u st.tile 0x45) ∧
          ∀ y, schedule s st.tile.claim k c p none now = some y →
            let at_ := fun (tick : Nat) (ev : Event) => ∃ e ∈ u.agenda, e.claim = st.tile.claim ∧ e.tick = tick ∧ e.act = .ev ev
            (u.ctxOf k).cmds = (s.ctxOf k).cmds ++ [y] ∧ (u.claimOf st.tile.claim).faults = (s.claimOf st.tile.claim).faults ∧
            y.release.length = 2 * q ∧
            (r.opc = 0 → y.commit = some (r.tick.toNat + (q - 1) * r.pitch.toNat) ∧
              ∀ j < q, ∃ m m', y.release[2 * j]? = some m ∧ y.release[2 * j + 1]? = some m' ∧ m < m' ∧ now ≤ m ∧
                (let route := fun x => (x + s.lh) % s.wheel ∈ p.slots ∧ x + (p.hops + 1) * s.lh ≤ r.tick.toNat + j * r.pitch.toNat
                 route m ∧ route m' ∧ ∀ x, route x → x ≤ m ∨ x = m')) ∧
            (r.opc = 2 → (∀ m, y.release[2 * q - 1]? = some m → y.commit = some (m + (p.hops + 1) * s.lh + 2048)) ∧
              ∀ i m, y.release[i]? = some m →
                (let free := fun x => x % s.wheel ∈ p.slots ∧ r.tick.toNat + i / 2 * r.pitch.toNat + 1 ≤ x ∧
                  ∀ h z, i = h + 1 → y.release[h]? = some z → z < x
                 free m ∧ ∀ x, free x → m ≤ x)) ∧
            (r.opc = 0 → (u.ctxOf k).activeTill = some (now + q) ∧
              (∀ j < r.len.toNat / 64, at_ (now + j) (.readLineRequest k n j)) ∧
              (∀ i m, y.release[i]? = some m → at_ m (.stagingFlitRelease k n i)) ∧
              ∀ j < q, at_ (r.tick.toNat + j * r.pitch.toNat) (.stagingDeposit k n j)) ∧
            (r.opc = 2 → (u.ctxOf k).activeTill = some (r.tick.toNat + (q - 1) * r.pitch.toNat + 1) ∧
              (∀ j < q, at_ (r.tick.toNat + j * r.pitch.toNat) (.stagingSourceRead k n j)) ∧
              (∀ i m, y.release[i]? = some m → at_ m (.stagingWriteFlit k n i)) ∧
              ∀ x, y.commit = some x → at_ x (.stagingWriteCommit k n) ∧ at_ (x + 1) (.timelineAdvance k))) ∧
      (∀ t, destOf s st.tile.claim r = some t → r.fl = false → r.opc = 3 → r.red = 0 →
        (s.tileOf t).isScratch r.locBank.toNat = true → (s.tileOf t).isAcc r.locBank.toNat = false →
        pathOut s k.engine r.dataTag t ≠ none →
        (∃ q, r.len.toNat * ((s.tileOf t).fmts.at r.locBank).width = q *
            ((if r.conv then (r.ffmt.getD ((s.tileOf t).fmts.at r.locBank)).width else ((s.tileOf t).fmts.at r.locBank).width) * 64) ∧
          r.row0 + q ≤ 1024) →
        ∃ c, (u.ctxOf k).cmds = (s.ctxOf k).cmds ++ [c] ∧ c.num = n ∧ c.armed = true ∧ c.count = 0 ∧ c.regs = r)) ∧
  (∀ (k : CtxId) (m j : Nat) (s : State) (c : Cmd) (st : StrandId), (s.ctxOf k).cmd? m = some c → (s.ctxOf k).owner = some st →
    let x := translate s st k.engine false (c.regs.far + BitVec.ofNat 64 (64 * j)) 64
    (∀ cause, x.2 = .error cause → ∃ u, exec (.readLineRequest k m j) s = .next u ∧ ClaimFaulted s u st.tile cause ∧
      u.ctxOf k = s.ctxOf k) ∧
    (∀ ps, x.2 = .ok ps → ∃ u v, exec (.readLineRequest k m j) s = .next u ∧ CoresAndBytesKept s u ∧
      (∃ d, (u.ctxOf k).cmd? m = some d ∧ find d.lines j = some v ∧ ∀ i ≠ j, find d.lines i = find c.lines i) ∧
      ∀ i p, ps[i]? = some p → byteOf v.val i = (farByte s p).1)) ∧
  (∀ (k : CtxId) (i : Nat) (c : Cmd) (label : BitVec 16) (v : Nat → MVec),
    let ff := if c.regs.conv then c.regs.ffmt.getD c.fmt else c.fmt
    let w := c.fmt.width
    let row := 64 * ff.width / w
    let far := fun (first b : Nat) => byteOf (v ((first + b) / 64)).val ((first + b) % 64)
    let held := fun (first n : Nat) => ∀ b < n, find c.lines ((first + b) / 64) = some (v ((first + b) / 64))
    let carries := fun (f : Flit) (kind : BitVec 2) (tag : BitVec 12) (due : Nat) =>
      f.kind = kind ∧ f.tag = tag ∧ f.lt = BitVec.ofNat 16 due ∧ f.land = true ∧ f.label = label
    (i ≠ c.release.length → c.regs.opc = 0 → held (i / 2 * row) row → ∃ f, c.flit k i label = some f ∧
      carries f 2 c.regs.dataTag (c.t0 + i / 2 * c.regs.pitch.toNat) ∧ ∀ e < 256 / w,
        let x := littleEndian (ff.width / 8) fun b => far (i / 2 * row) ((256 / w * (i % 2) + e) * (ff.width / 8) + b)
        elem w f.data e = if c.regs.conv then convert ff c.fmt c.regs.rnd c.regs.sat x 0 % 2 ^ w else x) ∧
    (i ≠ c.release.length → c.regs.opc = 1 → held (32 * i) 32 → ∃ f, c.flit k i label = some f ∧
      carries f 0 c.regs.dataTag (c.t0 + i * c.regs.pitch.toNat) ∧ ∀ b < 32, byteOf f.data b = far (32 * i) b) ∧
    ∃ f, c.flit k c.release.length label = some f ∧ carries f 2 c.regs.flagTag (c.commit.getD 0 + 256) ∧
      f.data = c.regs.fval.setWidth 256 ∧ f.psn = 0) ∧
  (∀ (k : CtxId) (m i l : Nat) (s : State) (c : Cmd) (st : StrandId) (f : Flit) (t : TileId) (d : Side),
    (s.ctxOf k).cmd? m = some c → (s.ctxOf k).owner = some st →
    c.flit k i (BitVec.ofNat 16 (s.now st.tile.claim)) = some f → (i ≠ c.release.length → l = c.edge) →
    (i = c.release.length → ∃ x, c.flagAt = some (l, x)) → edgeOf (s.claimOf st.tile.claim) st.tile.claim l = some (t, d) →
    ∃ u, exec (.stagingFlitRelease k m i) s = .next u ∧ CoresAndBytesKept s u ∧
      ∃ e ∈ u.agenda, e.tick = s.now st.tile.claim + 1 ∧
        e.act = .ev (.flitArrival t d ⟨s.now st.tile.claim + s.lh, f, false⟩)) ∧
  (∀ (k : CtxId) (m n : Nat) (s : State) (c : Cmd) (st : StrandId) (t : TileId), (s.ctxOf k).cmd? m = some c →
    (s.ctxOf k).owner = some st → destOf s st.tile.claim c.regs = some t → c.regs.opc = 0 → c.unitBad n = none →
    t.claim = st.tile.claim → (s.tileOf t).flips = [] → (s.tileOf t).windowAt c.regs.locBank (s.now t.claim) = false →
    let row := c.regs.row0 + n
    let busy := RowBusy (s.tileOf t) c.regs.locBank row (s.now t.claim)
    (takeLanded (s.tileOf t).landing k m (c.due n) (2 * n) 2 = none → landingSpilt s t = false →
      ∃ u z, exec (.stagingDeposit k m n) s = .next u ∧ (u.claimOf t.claim).frozen = some z ∧ z.tile = t ∧
        z.tag = c.regs.dataTag ∧ z.limit = s.wall + 2 ^ 24 ∧ z.retry = .stagingDeposit k m n ∧ CoresAndBytesKept s u) ∧
    (∀ lo hi rest, takeLanded (s.tileOf t).landing k m (c.due n) (2 * n) 2 = some ([lo, hi], rest) → busy →
      ∃ u, exec (.stagingDeposit k m n) s = .next u ∧ ClaimFaulted s u st.tile 0x22) ∧
    (∀ lo hi rest, takeLanded (s.tileOf t).landing k m (c.due n) (2 * n) 2 = some ([lo, hi], rest) → ¬ busy →
      ∃ u e l, exec (.stagingDeposit k m n) s = .next u ∧ (u.tileOf t).landing = rest ∧ u.agenda = s.agenda ++ [e] ∧
        e.tick = s.now t.claim ∧ e.phase = phCommit ∧ e.act = .ev (.bankCommit t 15 c.regs.locBank (.bytes l)) ∧
        l.map (fun b => b.off) = (List.range 64).map (fun i => 64 * (c.regs.row0 + n) + i) ∧
        (c.regs.red = 0 → ∀ i < 32, (l.map fun b => b.val)[i]? = some (byteOf lo.data i) ∧
          (l.map fun b => b.val)[32 + i]? = some (byteOf hi.data i)) ∧
        (∀ ty, c.fmt = .flt ty → c.regs.red ≠ 0 → ∀ e < 512 / c.fmt.width,
          let old := elem c.fmt.width ((s.tileOf t).readRow c.regs.locBank row).val e
          let x := elem c.fmt.width (hi.data ++ lo.data) e
          littleEndian (c.fmt.width / 8) (fun j => (l.map fun b => b.val).getD (c.fmt.width / 8 * e + j) 0) =
            (if c.regs.red = 1 then roundNum ty ((decodeNum c.fmt old).add (decodeNum c.fmt x))
              else if c.regs.red = 2 then fmaxCode c.fmt old x else fminCode c.fmt old x) % 2 ^ c.fmt.width) ∧
        CoresAndBytesKept s u)) ∧
  (∀ (k : CtxId) (m n : Nat) (s : State) (c : Cmd) (st : StrandId) (t : TileId), (s.ctxOf k).cmd? m = some c →
    (s.ctxOf k).owner = some st → destOf s st.tile.claim c.regs = some t → t.claim = st.tile.claim →
    (s.tileOf t).flips = [] → (s.tileOf t).windowAt c.regs.locBank (s.now t.claim) = false →
    let row := c.regs.row0 + n
    let busy := RowBusy (s.tileOf t) c.regs.locBank row (s.now t.claim)
    (busy → ∃ u, exec (.stagingSourceRead k m n) s = .next u ∧ ClaimFaulted s u st.tile 0x22) ∧
    (¬ busy → ∃ u d v, exec (.stagingSourceRead k m n) s = .next u ∧ CoresAndBytesKept s u ∧ (u.ctxOf k).cmd? m = some d ∧
      find d.src n = some v ∧ ((s.tileOf t).rowZero c.regs.locBank.toNat row = true → v.val = 0) ∧
      ((s.tileOf t).rowZero c.regs.locBank.toNat row = false →
        ∀ i < 64, byteOf v.val i = ((s.tileOf t).byteView c.regs.locBank (64 * row + i)).1))) ∧
  (∀ (k : CtxId) (m i : Nat) (s : State) (c : Cmd) (st : StrandId) (t : TileId) (v : MVec) (r : Route),
    (s.ctxOf k).cmd? m = some c → (s.ctxOf k).owner = some st → destOf s st.tile.claim c.regs = some t →
    find c.src (i / 2) = some v → routeAt s t none c.regs.dataTag = some r → c.regs.dataTag ∉ (s.tileOf t).locals →
    PortsFree s t r → ∃ u f, exec (.stagingWriteFlit k m i) s = .next u ∧ Forwards s u t r f ∧ f.kind = 2 ∧ f.land = false ∧
      f.tag = c.regs.dataTag ∧ ∀ b < 32, byteOf f.data b = byteOf v.val (32 * (i % 2) + b)) ∧
  (∀ (k : CtxId) (m : Nat) (s : State) (c : Cmd) (st : StrandId) (v : Nat → MVec) (ps : Nat → List Nat),
    (s.ctxOf k).cmd? m = some c → (s.ctxOf k).owner = some st → s.far.wf = true →
    let tf := if c.regs.conv then c.regs.ffmt.getD c.fmt else c.fmt
    (∀ n < c.units, find c.rows n = some (v n) ∧ find c.phys n = some (ps n) ∧ (ps n).length = 64 * tf.width / c.fmt.width) →
    ((List.range c.units).map ps).flatten.Nodup →
    ∃ u, exec (.stagingWriteCommit k m) s = .next u ∧
      (∀ n < c.units, ∀ e < 512 / c.fmt.width, ∀ j < tf.width / 8, ∀ p, (ps n)[e * (tf.width / 8) + j]? = some p →
        let x := elem c.fmt.width (v n).val e
        u.far.read p = BitVec.ofNat 8 ((if c.regs.conv then convert c.fmt tf c.regs.rnd c.regs.sat x 0 else x) / 256 ^ j)) ∧
      (∀ a, (∀ n < c.units, a ∉ ps n) → u.far.read a = s.far.read a) ∧ u.farTags = s.farTags ∧ u.cores = s.cores ∧
      u.tiles = s.tiles ∧ u.ctxs = s.ctxs ∧
      ∀ e ∈ s.agenda, e ∈ u.agenda ∨ ∃ o q x i, e.act = .ev (.holdDelivery o q ⟨x, none⟩) ∧ { e with tick := i } ∈ u.agenda) ∧
  (∀ (k : CtxId) (s : State), (s.ctxOf k).armed = false → exec (.trackerFire k) s = .next s) ∧
  (∀ (k : CtxId) (s : State) (c : Cmd) (st : StrandId) (t : TileId) (p : Path) (g : Option Path),
    (s.ctxOf k).cmds.find? (fun x => x.armed) = some c → (s.ctxOf k).owner = some st →
    destOf s st.tile.claim c.regs = some t → pathOut s k.engine c.regs.dataTag t = some p →
    let ft : TileId := ⟨st.tile.claim, c.regs.flagX, c.regs.flagY⟩
    let leads := c.regs.flagX < 12 * (s.claimOf st.tile.claim).fw ∧ c.regs.flagY < 12 * (s.claimOf st.tile.claim).fh ∧
      (s.tileOf ft).isScratch c.regs.flagBank.toNat = true ∧ pathIn s st.tile.claim k.engine c.regs.flagTag ft = g
    (c.regs.fl = true → leads → g = none → ∃ u, exec (.trackerFire k) s = .next u ∧ ClaimFaulted s u st.tile 0x44) ∧
    ((c.regs.fl = false ∧ g = none) ∨ (c.regs.fl = true ∧ leads ∧ g ≠ none) →
      ∃ u, exec (.trackerFire k) s = .next u ∧ CoresAndBytesKept s u ∧
        ∀ y, schedule s st.tile.claim k { c with armed := false, t0 := s.now st.tile.claim } p g (s.now st.tile.claim) = some y →
          (u.ctxOf k).cmd? c.num = (((s.ctxOf k).setCmd y).cmd? c.num) ∧
          (u.ctxOf k).activeTill = some (s.now st.tile.claim + (y.units - 1) * c.regs.pitch.toNat + 1))) ∧
  (∀ (k : CtxId) (s : State) (st : StrandId), (s.ctxOf k).owner = some st →
    let past := fun i => ∃ c x, (s.ctxOf k).cmds.find? (fun c => c.num == i) = some c ∧ c.commit = some x ∧
      x + 1 ≤ s.now st.tile.claim
    ∃ u, exec (.timelineAdvance k) s = .next u ∧ u = s.setCtx k { s.ctxOf k with timeline := (u.ctxOf k).timeline } ∧
      (s.ctxOf k).timeline ≤ (u.ctxOf k).timeline ∧
      (∀ i, (s.ctxOf k).timeline < i → i ≤ (u.ctxOf k).timeline → past i) ∧ ¬ past ((u.ctxOf k).timeline + 1)) ∧
  ∀ (k : CtxId) (m : Nat) (s : State) (c : Cmd) (st : StrandId), (s.ctxOf k).cmd? m = some c → (s.ctxOf k).owner = some st →
    let t : TileId := ⟨st.tile.claim, c.regs.flagX, c.regs.flagY⟩
    (takeLanded (s.tileOf t).landing k m (c.commit.getD 0 + 256) c.release.length 1 = none → landingSpilt s t = false →
      ∃ u z, exec (.flagWrite k m) s = .next u ∧ (u.claimOf t.claim).frozen = some z ∧ z.tile = t ∧ z.tag = c.regs.flagTag ∧
        z.limit = s.wall + 2 ^ 24 ∧ z.retry = .flagWrite k m ∧ CoresAndBytesKept s u) ∧
    (∀ e rest, takeLanded (s.tileOf t).landing k m (c.commit.getD 0 + 256) c.release.length 1 = some ([e], rest) →
      (s.tileOf t).isAcc c.regs.flagBank.toNat = false → (s.tileOf t).windowAt c.regs.flagBank (s.now t.claim) = false →
      ∃ u x l, exec (.flagWrite k m) s = .next u ∧ u.agenda = s.agenda ++ [x] ∧ x.tick = s.now t.claim ∧ x.phase = phCommit ∧
        x.act = .ev (.bankCommit t 15 c.regs.flagBank (.bytes l)) ∧
        l.map (fun b => (b.off, b.val)) = (List.range 4).map (fun i => (4 * c.regs.flagWord + i, byteOf e.data i)) ∧
        CoresAndBytesKept s u)

/-! ## Sequencing (spec/04) -/

/-- R98, R102 to R106, R108: `nop` does nothing; a taken transfer goes to its target after two delay bundles; `brk` leaves the innermost
loop, `call` also lands the header after its delay bundles at t + 3, `ret` takes its target from an a source; `loop` enters a body,
skips it at once on a count of 0, does nothing on an empty body and faults with 0x04 on a fifth entry. That a delay bundle whose header
lies outside the strand's instruction banks counts as six bytes is the model's choice (log entry 53). -/
def Obligations.Transfers : Prop :=
  ∀ s : State,
    let jump := fun (u : State) (target : Quad) => u.modCore s.focus fun c => c.goingTo target
    exec .nop s = .next s ∧
    ∀ ofs : BitVec 18,
      exec (.br ofs) s = .next (jump s (offsetTarget s ofs)) ∧
      (∀ a : Src 6, s.me.ok a = true →
        let x := s.taintIf ((s.me.srcG a).psn != 0)
        ((s.me.srcG a).val = 0 → exec (.brz a ofs) s = .next (jump x (offsetTarget s ofs)) ∧ exec (.brnz a ofs) s = .next x ∧
          exec (.brk a ofs) s = .next x) ∧
        ((s.me.srcG a).val ≠ 0 → exec (.brz a ofs) s = .next x ∧ exec (.brnz a ofs) s = .next (jump x (offsetTarget s ofs)) ∧
          exec (.brk a ofs) s =
            .next (x.modCore s.focus fun c => { c with loops := c.loops.tail, xfer := some (offsetTarget s ofs, 2) })) ∧
        (s.nextPc = offsetTarget s ofs → exec (.loop a ofs) s = .next x) ∧
        (s.nextPc ≠ offsetTarget s ofs → (s.me.srcG a).val = 0 → ∃ u e, exec (.loop a ofs) s = .next u ∧
          u.me = { x.me with pc := offsetTarget s ofs, idle := 2 } ∧ OthersKept s u s.focus ∧ u.agenda = s.agenda ++ [e] ∧
          e.tick = s.t + 3 ∧ e.act = .ev (.runEnd s.focus)) ∧
        (s.nextPc ≠ offsetTarget s ofs → (s.me.srcG a).val ≠ 0 → 4 ≤ s.me.loops.length →
          exec (.loop a ofs) s = .next (s.fault .c 0x04)) ∧
        (s.nextPc ≠ offsetTarget s ofs → (s.me.srcG a).val ≠ 0 → s.me.loops.length < 4 →
          exec (.loop a ofs) s = .next (x.modCore s.focus fun c => { c with
            loops := ⟨s.nextPc, offsetTarget s ofs, (s.me.srcG a).val.toNat⟩ :: c.loops }))) ∧
      (∀ d : BitVec 4,
        let next := nextHeader s.myTile s.focus.core.toNat
        exec (.call d ofs) s =
          .next ((jump s (offsetTarget s ofs)).landA .c 3 (.reg d) none (.clean (next (next (next s.headerPc)))))) ∧
      ∀ (a : Src 4) (g : Guard), s.guardOn g = true →
        (s.me.ok a = false → exec (.ret a g) s = .next (s.fault .c 0x03)) ∧
        (s.me.ok a = true → exec (.ret a g) s =
          .next (jump ((s.taintIf ((s.guard g).psn != 0)).taintIf ((s.me.srcA a).psn != 0)) (s.me.srcA a).val))

/-- R109, R110, R113, R116 to R121, R225, R251, R308: `tkawait` goes on at its target, which it reads once and keeps while it waits; a
halted strand returns its weight and retires at the latest landing or visibility tick of what it issued; weight is split, returned and
arrives; the job count's total and posts arrive; a section that stands for 2^20 ticks more than one raises 0x70. The faults of the
forms are 0x73 and 0x72. Against which bundle a fault between bundles stands, and that a poisoned receiver word of `wsplit` taints the
strand where a poisoned share does not, are DEDUCED (log entries 41 and 36); the edge of a section's cap and a share in its receiver's
retirement tick are the model's readings (log entry 53). -/
def Obligations.StrandEnds : Prop :=
  (∀ (a : Src 4) (dt : BitVec 18) (s : State), s.me.ok a = true →
    let goal := ((s.me.srcA a).val.toNat + dt.toNat) % 2 ^ 64
    let x := s.taintIf ((s.me.srcA a).psn != 0)
    let count := (s.countOf s.focus.tile).toNat
    (s.me.tkAt = none →
      (goal ≤ count → exec (.tkawait a dt) s = .next (x.modCore s.focus fun c => { c with status := .running, tkAt := none })) ∧
      (count < goal → exec (.tkawait a dt) s =
        .next (x.modCore s.focus fun c => { c with
          status := .tkawait goal, tkAt := some ⟨BitVec.ofNat 64 goal, (s.me.srcA a).psn⟩ }))) ∧
    ∀ n, s.me.tkAt = some n →
      (n.val.toNat ≤ count → exec (.tkawait a dt) s =
        .next ((s.taintIf (n.psn != 0)).modCore s.focus fun c => { c with status := .running, tkAt := none })) ∧
      (count < n.val.toNat → exec (.tkawait a dt) s =
        .next ((s.taintIf (n.psn != 0)).modCore s.focus fun c => { c with status := .tkawait n.val.toNat, tkAt := some n }))) ∧
  (∀ (st : StrandId) (s : State), exec (.waitFormIssue st) s = .next { s with todo := .issue st :: s.todo } ∧
    exec (.tkawaitIssue st) s = .next { s with todo := .issue st :: s.todo }) ∧
  (∀ (g : Guard) (s : State), s.guardOn g = true →
    let x := s.taintIf ((s.guard g).psn != 0)
    let returns := s.mech = .weight ∧ s.me.weight ≠ 0
    ∃ u, exec (.halt g) s = .next u ∧ OthersKept s u s.focus ∧
      u.me = { x.me with npre := none, status := .halted, weight := if s.mech = .weight then 0 else s.me.weight } ∧
      (returns → ∃ e ∈ u.agenda, e.act = .ev (.weightArrival s.focus.tile.claim none s.me.weight.toNat) ∧
        e.tick = s.t + s.lh * (s.focus.tile.x + s.focus.tile.y + 1)) ∧
      ∀ r, s.t ≤ r → (∀ e ∈ s.agenda, e.owner = some s.focus → e.retire ≤ r) →
        (r = s.t ∨ ∃ e ∈ s.agenda, e.owner = some s.focus ∧ e.retire = r) →
        (r = s.t → u.todo = .ev (.strandRetirement s.focus) :: s.todo) ∧
        (r ≠ s.t → ∃ e ∈ u.agenda, e.tick = r ∧ e.act = .ev (.strandRetirement s.focus))) ∧
  (∀ (st : StrandId) (s : State), ∃ u, exec (.strandRetirement st) s = .next u ∧ OthersKept s u st ∧
    u.coreOf st = { s.coreOf st with
      status := .retired, retiredAt := some (s.now st.tile.claim), shapes := Tab.all 2 (.clean 0) } ∧
    (∀ i : BitVec 8, i.toNat < 4 * (s.tileOf st.tile).opd → ((s.tileOf st.tile).opSlots.at i).owner = some st.core →
      let o := (s.tileOf st.tile).opSlots.at i
      (o.u ≤ s.now st.tile.claim → (u.tileOf st.tile).opSlots.at i = { o with owner := none }) ∧
      (s.now st.tile.claim < o.u → ∃ e ∈ u.agenda, e.tick = o.u ∧ e.act = .ev (.resultLanding st (.freeSlot i.toNat)))) ∧
    (∀ w : BitVec 6, (entryIn s st.tile st.core w).st = .read → ∃ e ∈ u.agenda, e.tick = s.now st.tile.claim + 4 ∧
      e.act = .ev (.mapChangeEffect st.tile (.withdraw [(st.core, w)] (entryIn s st.tile st.core w).bank))) ∧
    ((∀ o ∈ strandsOf s st.tile.claim, o = st ∨ (s.coreOf o).status = .retired) →
      let short := s.ctxs.filter fun p => (p.2.owner.map fun o => o.tile.claim) == some st.tile.claim &&
        (p.2.armed || (p.2.pending.map fun q => q.2.opc) == some 3)
      (u.claimOf st.tile.claim).faultCount = (s.claimOf st.tile.claim).faultCount + short.length ∧
      ((s.claimOf st.tile.claim).faults.length + short.length ≤ 64 → ∀ p ∈ short, ∀ o, p.2.owner = some o →
        ∃ r ∈ (u.claimOf st.tile.claim).faults, r.cause = 0x46 ∧ r.x = o.tile.x ∧ r.y = o.tile.y))) ∧
  (∀ (a b : Src 6) (g : Guard) (s : State), s.guardOn g = true → s.me.ok a = true → s.me.ok b = true →
    let share := (s.me.srcG a).val.toNat
    let r := (s.me.srcG b).val.toNat
    let rcv : StrandId := ⟨⟨s.focus.tile.claim, r % 256, r / 256 % 256⟩, BitVec.ofNat 2 (r / 65536)⟩
    let c := s.claimOf s.focus.tile.claim
    let x := (s.taintIf ((s.guard g).psn != 0)).taintIf ((s.me.srcG b).psn != 0)
    let bad := s.mech ≠ .weight ∨ share = 0 ∨ s.me.weight.toNat ≤ share ∨ 2 ^ 18 ≤ r ∨ 12 * c.fw ≤ rcv.tile.x ∨
      12 * c.fh ≤ rcv.tile.y ∨ rcv = s.focus ∨ (s.coreOf rcv).status = .absent
    (bad → exec (.wsplit a b g) s = .next (s.fault .c 0x73)) ∧
    (¬ bad → ∃ u, exec (.wsplit a b g) s = .next u ∧ Sends s u rcv.tile (.weightArrival s.focus.tile.claim (some rcv) share)
      { x.me with weight := BitVec.ofNat 33 (s.me.weight.toNat - share) })) ∧
  (∀ (a : Src 6) (g : Guard) (s : State), s.guardOn g = true → s.me.ok a = true →
    let n := (s.me.srcG a).val.toNat
    let root : TileId := ⟨s.focus.tile.claim, 0, 0⟩
    let x := s.taintIf ((s.guard g).psn != 0)
    (s.mech ≠ .weight ∨ n = 0 ∨ s.me.weight.toNat < n → exec (.wret a g) s = .next (s.fault .c 0x73)) ∧
    (s.mech = .weight → n ≠ 0 → n ≤ s.me.weight.toNat → ∃ u, exec (.wret a g) s = .next u ∧
      Sends s u root (.weightArrival s.focus.tile.claim none n) { x.me with weight := BitVec.ofNat 33 (s.me.weight.toNat - n) }) ∧
    (s.mech ≠ .jcb → exec (.jcbAdd a g) s = .next (s.fault .c 0x73) ∧ exec (.jcbPost g) s = .next (s.fault .c 0x73)) ∧
    (s.mech = .jcb → (s.me.posted = true → exec (.jcbAdd a g) s = .next (s.fault .c 0x72)) ∧
      (s.me.posted = false → ∃ u, exec (.jcbAdd a g) s = .next u ∧ Sends s u root (.jcbTotalArrival s.focus n) x.me) ∧
      ∃ u, exec (.jcbPost g) s = .next u ∧ Sends s u root (.jcbPostArrival s.focus.tile.claim) { x.me with posted := true })) ∧
  (∀ (cl share : Nat) (rcv : Option StrandId) (s : State),
    (∀ r, rcv = some r → (s.coreOf r).status ≠ .retired → exec (.weightArrival cl rcv share) s =
      .next (s.modCore r fun c => { c with weight := c.weight + BitVec.ofNat 33 share })) ∧
    ((rcv = none ∨ ∃ r, rcv = some r ∧ (s.coreOf r).status = .retired) → exec (.weightArrival cl rcv share) s =
      .next (s.modClaim cl fun c => { c with returned := c.returned + share })) ∧
    exec (.jcbPostArrival cl) s = .next (s.modClaim cl fun c => { c with jcount := c.jcount + 1 })) ∧
  (∀ (st : StrandId) (n : Nat) (s : State),
    let c := s.claimOf st.tile.claim
    let ended := [CoreStatus.retired, .halted, .absent, .stopped]
    (c.jtotal + n < 2 ^ 64 → exec (.jcbTotalArrival st n) s = .next (s.setClaim st.tile.claim { c with jtotal := c.jtotal + n })) ∧
    (2 ^ 64 ≤ c.jtotal + n → (s.coreOf st).status ∈ ended →
      exec (.jcbTotalArrival st n) s = .next (s.setClaim st.tile.claim { c with jbad := true })) ∧
    (2 ^ 64 ≤ c.jtotal + n → (s.coreOf st).status ∉ ended →
      exec (.jcbTotalArrival st n) s = .next (s.modCore st fun x => { x with pendingFault := some 0x72 }))) ∧
  (∀ (g : Guard) (s : State), s.guardOn g = true →
    let x := s.taintIf ((s.guard g).psn != 0)
    exec (.npreOff g) s = .next (x.modCore s.focus fun c => { c with npre := none }) ∧
    (s.me.npre ≠ none → exec (.npreOn g) s = .next x) ∧
    (s.me.npre = none → ∃ u e, exec (.npreOn g) s = .next u ∧ u.me = { x.me with npre := some s.t } ∧ OthersKept s u s.focus ∧
      u.agenda = s.agenda ++ [e] ∧ e.tick = s.t + 2 ^ 20 + 1 ∧ e.act = .ev (.nonPreEmptibleCap s.focus))) ∧
  ∀ (st : StrandId) (s : State),
    ((∀ n, (s.coreOf st).npre = some n → s.now st.tile.claim ≠ n + 2 ^ 20 + 1) → exec (.nonPreEmptibleCap st) s = .next s) ∧
    ∀ n, (s.coreOf st).npre = some n → s.now st.tile.claim = n + 2 ^ 20 + 1 →
      exec (.nonPreEmptibleCap st) s = .next (s.modCore st fun c => { c with pendingFault := some 0x70 })

/-! ## Control registers (spec/13) -/

/-- R349, R350, R353, R111, R154: `crget` lands at t + 2 the register as R349 lays it out; `crset` lands at t + 1 and changes only the
writable fields; the span bit opens a span, a 1 in DIR clears it there, before the flits of that tick leave the routers (`phRun`), so that a
detection in the tick stands (R267); a new seed restarts the counter.
What `cr.lag` and `cr.cyc` count is the model's bookkeeping of cycles (log entry 16), and what `cr.wclk` reads is the wall time of
log entries 5 and 19; which registers take a poisoned value as an address is DEDUCED (log entry 36). -/
def Obligations.ControlRegisters : Prop :=
  (∀ (d : BitVec 6) (r : CReg) (s : State),
    exec (.crget d true r) s =
      .next (s.landA .c 2 (.reg (BitVec.ofNat 4 d.toNat)) none (.clean (BitVec.ofNat 64 (cregNumber s r)))) ∧
    exec (.crget d false r) s = .next (s.landG .c 2 (.reg d) none (.clean (BitVec.ofNat 32 (cregNumber s r))))) ∧
  (∀ (a : Src 6) (f : Bool) (r : CReg) (s : State), s.me.ok a = true →
    let v := fileValue s.me f a
    let x := s.taintIf (decide (r = .epc ∨ r = .etgt ∨ r = .tvec) && v.psn != 0)
    ∃ e, exec (.crset a f r) s = .next { x with agenda := s.agenda ++ [e] } ∧ e.claim = s.focus.tile.claim ∧ e.tick = s.t + 1 ∧
      e.act = .ev (.resultLanding s.focus (.creg r v.val)) ∧ (r = .drift → e.phase < phRun) ∧ (r ≠ .drift → e.phase = phLand)) ∧
  (∀ (st : StrandId) (r : CReg) (v : Quad) (s : State), r ≠ .span → r ≠ .drift → ∃ u,
    exec (.resultLanding st (.creg r v)) s = .next u ∧ u.coreOf st = cregWritten (s.coreOf st) r v ∧ LandingFrame s u st) ∧
  (∀ (st : StrandId) (v : Quad) (s : State),
    (v.toNat % 2 = 0 → exec (.resultLanding st (.creg .span v)) s = .next s) ∧
    (v.toNat % 2 = 1 → exec (.resultLanding st (.creg .span v)) s = .next { s with todo := .ev (.openSpanEntry st) :: s.todo }) ∧
    exec (.openSpanEntry st) s = .next (s.modCore st fun c => { c with span := true }) ∧
    ∃ u, exec (.resultLanding st (.creg .drift v)) s = .next u ∧
      (∀ i < 4, (u.tileOf st.tile).dir.getLsbD i = ((s.tileOf st.tile).dir.getLsbD i && !v.getLsbD i)) ∧
      u.tileOf st.tile = { s.tileOf st.tile with dir := (u.tileOf st.tile).dir } ∧ (∀ o, u.coreOf o = s.coreOf o) ∧
      (∀ t ≠ st.tile, u.tileOf t = s.tileOf t)) ∧
  ∀ (st : StrandId) (key : Quad) (s : State), ∃ u, exec (.resultLanding st (.seed key)) s = .next u ∧
    u.coreOf st = { s.coreOf st with rngK := key, rngN := 0 } ∧ LandingFrame s u st

/-! ## Ordering and synchronisation (spec/12, spec/04) -/

/-- R320, R324, R326 to R331, R113 to R115: a fence changes nothing and faults with 0x18 where an earlier write of the strand is not
seen by t + 3; `waita` reads its word on the watch path and goes on when the condition holds; arrivals, phases, waits and timeouts of a
named barrier; arrival, release and timeout of a gate.
Whose count a gate and a barrier follow, what a poisoned wait taints, how a timeout waits for its strand, and that a strand whose
timeout is fatal shows the cause too are DEDUCED (log entries 40, 36, 41, 31). -/
def Obligations.Synchronisation : Prop :=
  (∀ (sc : Scope) (g : Guard) (s : State), s.guardOn g = true →
    let x := s.taintIf ((s.guard g).psn != 0)
    let inTime := fun r : RedEntry => (r.idx - s.myTile.redN).toNat ≤ 2 ∧
      ∀ j ≤ (r.idx - s.myTile.redN).toNat, ∃ y ∈ s.myTile.redBuf, y.idx = s.myTile.redN + BitVec.ofNat 32 j
    exec (.fenceAcq sc g) s = .next x ∧
    ∀ f ∈ ([.fenceRel, .fenceAr, .fenceSc] : List (Scope → Guard → Instr)),
      exec (f .core g) s = .next x ∧
      (sc ≠ .core → (∃ e ∈ s.agenda, e.owner = some s.focus ∧ e.iss < s.t ∧ ∃ v, e.vis = some v ∧ s.t + 3 < v) →
        exec (f sc g) s = .next (s.fault .c 0x18)) ∧
      (sc ≠ .core → (∃ r ∈ redsOf s s.focus, r.iss < s.t ∧ ¬ inTime r) → exec (f sc g) s = .next (s.fault .c 0x18)) ∧
      (sc = .store ∨ sc = .host → (∃ p ∈ s.ctxs, p.2.owner = some s.focus ∧
          (p.2.pending ≠ none ∨ ∃ c ∈ p.2.cmds, ∀ n, c.finished = some n → s.t + 3 < n)) →
        exec (f sc g) s = .next (s.fault .c 0x18)) ∧
      ((∀ e ∈ s.agenda, e.owner = some s.focus → ∀ v, e.vis = some v → e.iss < s.t → v ≤ s.t + 3) →
        (∀ r ∈ redsOf s s.focus, r.iss < s.t → inTime r) →
        (sc = .store ∨ sc = .host → ∀ p ∈ s.ctxs, p.2.owner = some s.focus → p.2.pending = none ∧
          ∀ c ∈ p.2.cmds, ∃ n ≤ s.t + 3, c.finished = some n) →
        exec (f sc g) s = .next x)) ∧
  (∀ (o : MS 6) (sc : Scope) (s : State), s.guardOn o.g = true →
    ∀ p ∈ ([(.waitaEq, fun x d => x == d), (.waitaNe, fun x d => x != d), (.waitaGen, fun x d => decide (d.toNat ≤ x.toNat))] :
      List ((MS 6 → Scope → Instr) × (Word → Word → Bool))),
    let ea := placeOf s o.base (o.ofs.toInt * 4)
    let e := s.entry (ea.extractLsb' 16 6)
    let at_ := fun k => s.myTile.byteView e.bank ((ea.extractLsb' 0 16).toNat + k)
    let met := p.2 (BitVec.ofNat 32 (littleEndian 4 fun k => (at_ k).1)) (s.me.readG o.d).val = true ∧ ∀ k < 4, (at_ k).2 = false
    (2 ^ 22 ≤ ea.toNat ∨ e.st.usable = false → exec (p.1 o sc) s = .next (s.fault .c 0x10 (ea.setWidth 64))) ∧
    (ea.toNat < 2 ^ 22 → e.st.usable = true → ea.toNat % 4 ≠ 0 → exec (p.1 o sc) s = .next (s.fault .c 0x12 (ea.setWidth 64))) ∧
    (ea.toNat < 2 ^ 22 → e.st.usable = true → ea.toNat % 4 = 0 → s.myTile.flips = [] →
      let x := s.taintIf ((s.guard o.g).psn != 0 || (s.me.readA o.base).psn != 0 || (s.me.readG o.d).psn != 0)
      (met → exec (p.1 o sc) s = .next x) ∧
      (¬ met → s.me.span = true → exec (p.1 o sc) s = .next (x.modCore s.focus fun c => { c with status := .waiting })) ∧
      (¬ met → s.me.span = false → exec (p.1 o sc) s = .next (s.fault .c 0x74)))) ∧
  (∀ (n : BitVec 9) (s : State),
    let k := n.toNat
    let cl := s.focus.tile.claim
    let b := barrierOf s cl k
    let all := fun i : Instr => (¬ MemberOf s cl k s.focus → exec i s = .next (s.fault .c 0x51)) ∧
      (MemberOf s cl k s.focus → b.gated ≠ [] → exec i s = .next (s.fault .c 0x74))
    let arrives := fun (u : State) (me : Core) => find me.arrivals k = some b.phase ∧
      (∀ j ≠ k, find me.arrivals j = find s.me.arrivals j) ∧ OthersKept s u s.focus ∧
      (barrierOf u cl k).phase = b.phase ∧ find (barrierOf u cl k).arrived s.focus = some s.t ∧
      (∀ st ≠ s.focus, find (barrierOf u cl k).arrived st = find b.arrived st) ∧
      (∃ e ∈ u.agenda, e.tick = s.t + 2 ^ 24 ∧ e.act = .ev (.barrierTimeout s.focus k)) ∧
      (0 < s.lh → MembersSeen s cl k s.t → (∀ st ∈ strandsOf s cl, MemberOf s cl k st → st = s.focus ∨
          ∃ a ≤ s.t, find b.arrived st = some a ∨
            (find b.arrived st = none ∧ (s.coreOf st).status = .retired ∧ (s.coreOf st).retiredAt = some a)) →
        s.focus ∈ strandsOf s cl →
        let d := ((s.claimOf cl).bart[k]?).getD 0
        let size := (bitsOf d 23 16 - bitsOf d 7 0) + (bitsOf d 31 24 - bitsOf d 15 8)
        ∃ e ∈ u.agenda, e.tick = s.t + (if size = 0 then 3 else s.lh * (size + 2)) ∧ e.act = .ev (.barrierPhaseCompletion cl k))
    let sees := fun (i : Instr) => (OpenArrival s s.focus k → s.me.span = true →
        exec i s = .next (s.setCore s.focus { s.me with status := .waiting })) ∧
      (OpenArrival s s.focus k → s.me.span = false → exec i s = .next (s.fault .c 0x74)) ∧
      (¬ OpenArrival s s.focus k →
        exec i s = .next (s.modCore s.focus fun c => { c with arrivals := drop c.arrivals k, synced := none }))
    all (.barArr n) ∧ all (.barWait n) ∧ all (.barSync n) ∧
    (MemberOf s cl k s.focus → b.gated = [] →
      (s.me.synced = some k → find s.me.arrivals k ≠ none → sees (.barSync n)) ∧
      (OpenArrival s s.focus k → exec (.barArr n) s = .next (s.fault .c 0x51) ∧
        (s.me.synced = none → exec (.barSync n) s = .next (s.fault .c 0x51))) ∧
      (¬ OpenArrival s s.focus k → (∃ u, exec (.barArr n) s = .next u ∧ u.me = { s.me with arrivals := u.me.arrivals } ∧
          arrives u u.me) ∧
        (s.me.synced = none → s.me.span = false → exec (.barSync n) s = .next (s.fault .c 0x74)) ∧
        (s.me.synced = none → s.me.span = true → ∃ u, exec (.barSync n) s = .next u ∧
          u.me = { s.me with arrivals := u.me.arrivals, synced := some k, status := .waiting } ∧ arrives u u.me)) ∧
      (find s.me.arrivals k = none → exec (.barWait n) s = .next (s.fault .c 0x51)) ∧
      (find s.me.arrivals k ≠ none → sees (.barWait n)))) ∧
  (∀ (n : BitVec 9) (s : State),
    let k := n.toNat
    let cl := s.focus.tile.claim
    let b := barrierOf s cl k
    let now := (s.countOf s.focus.tile).toNat
    let open_ := ∃ st ∈ strandsOf s cl, MemberOf s cl k st ∧ OpenArrival s st k
    (¬ MemberOf s cl k s.focus → exec (.gate n) s = .next (s.fault .c (if s.me.span then 0x74 else 0x51))) ∧
    (MemberOf s cl k s.focus → open_ → exec (.gate n) s = .next (s.fault .c 0x51)) ∧
    (MemberOf s cl k s.focus → ¬ open_ → ∃ u, exec (.gate n) s = .next u ∧ u.me = { s.me with status := .gate k } ∧
      OthersKept s u s.focus ∧ find (barrierOf u cl k).gated s.focus = some now ∧
      (∀ st ≠ s.focus, find (barrierOf u cl k).gated st = find b.gated st) ∧
      (barrierOf u cl k).since = (if b.gated = [] then s.t else b.since) ∧
      (b.gated = [] → ∃ e ∈ u.agenda, e.tick = s.t + 2 ^ 24 ∧ e.act = .ev (.gateTimeout cl k)) ∧
      (0 < s.wheel → MembersSeen s cl k now → s.focus ∈ strandsOf s cl →
        (∀ st ∈ strandsOf s cl, MemberOf s cl k st → st = s.focus ∨ ∃ a ≤ now, find b.gated st = some a ∨
          (find b.gated st = none ∧ (s.coreOf st).status = .retired ∧ (s.coreOf st).retiredAt = some a)) →
        ∃ r, (barrierOf u cl k).release = some r ∧ r % s.wheel = 0 ∧ now + 320 ≤ r ∧ r < now + 320 + s.wheel ∧
          ∃ e ∈ u.agenda, e.tick ≤ r ∧ e.act = .ev (.gateRelease cl k)))) ∧
  (∀ (cl n : Nat) (s : State),
    let b := barrierOf s cl n
    (b.release = none → exec (.gateRelease cl n) s = .next s) ∧
    ∀ r, b.release = some r → MembersSeen s cl n r → ∃ u, exec (.gateRelease cl n) s = .next u ∧ BytesKept s u ∧
      (∀ p ∈ b.gated, r ≤ (s.countOf p.1.tile).toNat → (s.coreOf p.1).status = .gate n → u.coreOf p.1 = { s.coreOf p.1 with
        status := .running, span := false, rebase := BitVec.ofNat 64 r } ∧ .ev (.runEnd p.1) ∈ u.todo) ∧
      (∀ st, ((∀ a, (st, a) ∉ b.gated) ∨ (s.coreOf st).status ≠ .gate n) → u.coreOf st = s.coreOf st) ∧
      ((∀ p ∈ b.gated, r ≤ (s.countOf p.1.tile).toNat) →
        (barrierOf u cl n).gated = [] ∧ (barrierOf u cl n).release = none)) ∧
  (∀ (cl n : Nat) (s : State) (st : StrandId) (a : Nat) (l : List (StrandId × Nat)),
    (barrierOf s cl n).gated = (st, a) :: l → (barrierOf s cl n).release = none →
    (s.now cl ≠ (barrierOf s cl n).since + 2 ^ 24 → exec (.gateTimeout cl n) s = .next s) ∧
    (s.now cl = (barrierOf s cl n).since + 2 ^ 24 → ∃ u, exec (.gateTimeout cl n) s = .next u ∧ BytesKept s u ∧
      (barrierOf u cl n).gated = [] ∧
      ∀ o, (((∃ x, (o, x) ∈ (barrierOf s cl n).gated) ∧ (s.coreOf o).status = .gate n) → TookCause (s.coreOf o) (u.coreOf o) 0x71) ∧
        ((s.coreOf o).status ≠ .gate n → u.coreOf o = s.coreOf o))) ∧
  (∀ (cl n : Nat) (s : State), MembersSeen s cl n (s.now cl) → ∃ u, exec (.barrierPhaseCompletion cl n) s = .next u ∧
    barrierOf u cl n = { barrierOf s cl n with phase := (barrierOf s cl n).phase + 1, arrived := [] } ∧ BytesKept s u ∧
    (∀ st, u.coreOf st = s.coreOf st) ∧ u.agenda = s.agenda) ∧
  ∀ (st : StrandId) (n : Nat) (s : State),
    let due := ∃ a, find (barrierOf s st.tile.claim n).arrived st = some a ∧ a + 2 ^ 24 = s.now st.tile.claim ∧
      OpenArrival s st n ∧ waitsOn s st n = true
    (¬ due → exec (.barrierTimeout st n) s = .next s) ∧
    (due → ∃ u, exec (.barrierTimeout st n) s = .next u ∧ TookCause (s.coreOf st) (u.coreOf st) 0x71 ∧ OthersKept s u st)

/-! ## How a claim stops and ends (spec/04, spec/13, spec/14) -/

/-- R120, R341, R344, R346, R368, R369, R270, R403: the evaluation ends a claim satisfied or not; a fatal stop, a halt and an abort
stand the count and ask for the release, which writes the record of its kind; a pre-emption stands the count at a boundary that admits
it and keeps what is in flight by its offset; a fleet's claim stands at the boundary until every wafer has said whether it stops there
(R363); a claim that has drifted takes 0x32 instead. An upset flips stored bits; the array sends and the alignment of a tile follow
its upset wheel position. Of R348, R275, R38, R250 and R272: the moves of roving self-test, a tile that fails it, and upsets of a
wheel position. The release one step after a stop, the tick of a move's request, the flit that a link upset hits, the order of stops
and the arrays' last steps are the model's readings (log entries 22, 23, 30, 47, 48); so is that an upset wheel position is taken
modulo W (log entry 15), and the wafers' agreement on a boundary (log entry 58). -/
def Obligations.ClaimStops : Prop :=
  (∀ (cl : Nat) (s : State),
    let c := s.claimOf cl
    let sat := (c.mech = .weight ∧ c.returned = 2 ^ 32) ∨ (c.mech = .jcb ∧ c.jcount = c.jtotal ∧ c.jbad = false)
    (¬ Runs s cl → exec (.claimEvaluation cl) s = .next s) ∧
    (Runs s cl → c.fleet = false → ∃ u, exec (.claimEvaluation cl) s = .next u ∧
      (sat → (u.claimOf cl).run = .ended c.tick true ∧ LaunchEnds s u cl 0 c.tick 0 (primaryFault c)) ∧
      (¬ sat → (u.claimOf cl).run = .ended c.tick false ∧ LaunchEnds s u cl 1 c.tick 0 (primaryFault c)))) ∧
  (∀ (cl : Nat) (s : State),
    let c := s.claimOf cl
    let release : Nat × Event := (s.wall + 1, .claimRelease cl)
    let n := s.now cl
    (¬ Runs s cl → exec (.fatalStop cl) s = .next s ∧ exec (.uncorrectableHalt cl) s = .next s ∧
      exec (.abortStop cl) s = .next s) ∧
    (Runs s cl →
      (∃ u, exec (.fatalStop cl) s = .next u ∧ StandsStill s u cl (.faulted n) ∧ u.tiles = s.tiles ∧
        u.inputs = s.inputs ++ [release]) ∧
      (c.fatal ≠ none → exec (.uncorrectableHalt cl) s = .next s ∧ exec (.abortStop cl) s = .next s) ∧
      (c.fatal = none → NoDrift s cl → ∃ u, exec (.uncorrectableHalt cl) s = .next u ∧ StandsStill s u cl (.haltedAt n) ∧
        u.inputs = s.inputs ++ [release]) ∧
      (c.fatal = none → ¬ NoDrift s cl → ∃ u t, t.claim = cl ∧ exec (.uncorrectableHalt cl) s = .next u ∧
        ClaimFaulted s u t 0x32) ∧
      (c.fatal = none → c.firstErr ≠ none → exec (.abortStop cl) s = .next s) ∧
      (c.fatal = none → c.firstErr = none → ∃ u, exec (.abortStop cl) s = .next u ∧ StandsStill s u cl (.aborted n) ∧
        u.inputs = s.inputs ++ [release] ∧ (u.claimOf cl).faultCount = c.faultCount + 1 ∧
        (c.faults.length < 64 → ∃ r ∈ (u.claimOf cl).faults, r.cause = 0x61 ∧ r.core = 15 ∧ r.tick = n)))) ∧
  (∀ (cl : Nat) (s : State), ((s.claimOf cl).fleet = false ∨ s.fleet = none) → (s.ctlOf .curator).switching = false →
    (s.claimOf cl).preempt = true → StopsHere s cl →
    (NoDrift s cl → ∃ u, exec (.preemptionStop cl) s = .next u ∧ StandsStill s u cl (.preempted (s.now cl)) ∧
      (u.claimOf cl).preempt = false ∧ (ArraysIdle s cl → (s.tiles.map fun p => p.1).Nodup →
        (∀ p ∈ s.tiles, p.2.wheel.toNat < s.wheel) → u.tiles = s.tiles ∧ (u.claimOf cl).vitrine =
        (s.agenda.filter fun e => e.claim == cl).map fun e => { e with tick := e.tick - s.now cl })) ∧
    (¬ NoDrift s cl → ∃ u t, t.claim = cl ∧ exec (.preemptionStop cl) s = .next u ∧ ClaimFaulted s u t 0x32)) ∧
  (∀ (cl : Nat) (s : State), (s.claimOf cl).preempt = false → exec (.preemptionStop cl) s = .next s) ∧
  (∀ (cl : Nat) (s : State), ((s.claimOf cl).fleet = false ∨ s.fleet = none) →
    ((s.ctlOf .curator).switching = true ∨ ¬ StopsHere s cl) → exec (.preemptionStop cl) s = .next s) ∧
  (∀ (cl w n lp : Nat) (s : State), (s.claimOf cl).fleet = true → s.fleet = some (w, n, lp) → (s.claimOf cl).preempt = true →
    Runs s cl → s.now cl % 2 ^ s.replayLog2 = 0 → (s.claimOf cl).parley = none →
    let b := s.now cl
    let said := fun (v : Nat) (ok : Bool) => (v, b, ok) ∈ (s.claimOf cl).answers
    ∃ u ok, exec (.preemptionStop cl) s = .next u ∧ u.fleetMsgs = s.fleetMsgs ++ [.boundary w b ok] ∧
      (ok = true ↔ StopsHere s cl ∧ (s.ctlOf .curator).switching = false) ∧ u.cores = s.cores ∧ u.far = s.far ∧
      ((∃ v < n, v ≠ w ∧ ∀ x, ¬ said v x) → (u.claimOf cl).parley = some b ∧ isLive u cl = false ∧
        (u.claimOf cl).tick = (s.claimOf cl).tick ∧ u.agenda = s.agenda ∧ u.tiles = s.tiles) ∧
      ((∀ v < n, v ≠ w → ∃ x, said v x) → ((∃ v, said v false) ∨ ok = false) → Runs u cl ∧ (u.claimOf cl).parley = none ∧
        u.agenda = s.agenda ∧ u.tiles = s.tiles ∧ Task.issues cl ∈ u.todo) ∧
      ((∀ v < n, v ≠ w → ∃ x, said v x) → (∀ v, ¬ said v false) → ok = true → NoDrift s cl →
        StandsStill s u cl (.preempted b) ∧ (u.claimOf cl).parley = none ∧ (u.claimOf cl).preempt = false)) ∧
  (∀ (cl : Nat) (s : State),
    let c := s.claimOf cl
    ((s.ctlOf .curator).switching = true →
      exec (.claimRelease cl) s = .next { s with inputs := s.inputs ++ [(s.wall + 1, .claimRelease cl)] }) ∧
    ((s.ctlOf .curator).switching = false → c.fleet = false → ∀ n,
      (c.run = .faulted n → ∃ u, exec (.claimRelease cl) s = .next u ∧ LaunchEnds s u cl 3 n 0 (primaryFault c)) ∧
      (c.run = .haltedAt n → ∃ u, exec (.claimRelease cl) s = .next u ∧ LaunchEnds s u cl 4 n n (match c.firstErr with
        | none => primaryFault c
        | some e => [0x60 + e.core * 2 ^ 8 + e.x * 2 ^ 16 + e.y * 2 ^ 24 + min c.faultCount 0xFFFF * 2 ^ 32, e.tick,
            e.place.toNat])) ∧
      (c.run = .aborted n → ∃ u, exec (.claimRelease cl) s = .next u ∧ LaunchEnds s u cl 5 n n (primaryFault c)))) ∧
  (∀ (field row col : Nat) (s : State),
    let tested := ∃ x ∈ s.tests, x.field = field ∧ x.row = row
    let busy := (∃ x ∈ s.tests, x.field = field) ∨
      ∃ p ∈ s.claims, ∃ o ∈ p.2.moves, o.field = field ∧ o.col ≠ none ∧ (o.row, o.col) ≠ (row, some col)
    let fixed := (∃ r ∈ s.retiredTiles, r.1 = field ∧ r.2.1 = row) ∨ (field, row) ∈ s.failedBypass
    let switched := (s.ctlOf (.docent field)).switching = true ∨ (s.ctlOf .curator).switching = true
    let wait := fun e : Event => Host.Outcome.next { s with inputs := s.inputs ++ [(s.wall + 1, e)] }
    (busy → exec (.selfTestMove field row col) s = .next s) ∧
    (¬ busy → holderOf s field = none → (switched → exec (.selfTestMove field row col) s = wait (.selfTestMove field row col)) ∧
      (¬ switched → ∃ u, exec (.selfTestMove field row col) s = .next u ∧ TestBegins s u field row col fixed ∧
        u = { s with tests := u.tests, shifts := u.shifts, lowRail := u.lowRail })) ∧
    (¬ tested → exec (.selfTestMoveBack field row) s = .next s ∧ exec (.tileFailsSelfTest field row) s = .next s) ∧
    (tested → holderOf s field = none → (switched → exec (.selfTestMoveBack field row) s = wait (.selfTestMoveBack field row)) ∧
      (¬ switched → ∃ u, exec (.selfTestMoveBack field row) s = .next u ∧ TestEnds s u field row ∧
        u = { s with tests := u.tests, shifts := u.shifts, lowRail := u.lowRail })) ∧
    (∀ cl, holderOf s field = some cl →
      let c := s.claimOf cl
      (fixed → exec (.selfTestMove field row col) s = .next s) ∧
      (c.run = .running →
        (¬ busy → ¬ fixed → (∀ m ∈ c.moves, ¬ (m.field = field ∧ m.row = row ∧ m.col = some col)) →
          exec (.selfTestMove field row col) s =
            .next (s.setClaim cl { c with moves := c.moves ++ [⟨field, row, some col, .notDue⟩] })) ∧
        (tested → (∀ m ∈ c.moves, ¬ (m.field = field ∧ m.row = row ∧ m.col = none)) →
          exec (.selfTestMoveBack field row) s = .next (s.setClaim cl { c with moves := c.moves ++ [⟨field, row, none, .notDue⟩] })) ∧
        ∀ g, Asked c field row (some col) g → ¬ busy → ¬ fixed →
          (s.now cl % 2 ^ s.replayLog2 ≠ 0 → exec (.selfTestMove field row col) s = .next s) ∧
          (s.now cl % 2 ^ s.replayLog2 = 0 →
            let open_ := ∃ st ∈ strandsOf s cl, (s.coreOf st).span = true ∧ (s.coreOf st).status ≠ .retired
            ((g = .waits ∨ (g = .notDue ∧ open_)) → gateOpens s cl = false →
              ∃ u, exec (.selfTestMove field row col) s = .next u ∧ u = s.setClaim cl (u.claimOf cl) ∧
                u.claimOf cl = { c with moves := (u.claimOf cl).moves } ∧ Asked (u.claimOf cl) field row (some col) .waits) ∧
            ((g = .passed ∨ (g = .notDue ∧ ¬ open_) ∨ gateOpens s cl = true) → StopsHere s cl → ¬ switched → NoDrift s cl →
              ∃ u, exec (.selfTestMove field row col) s = .next u ∧ TestBegins s u field row col False ∧
                (∀ m, m ∈ (u.claimOf cl).moves ↔ m ∈ c.moves ∧ m ≠ ⟨field, row, some col, g⟩) ∧
                u = { s with claims := u.claims, tests := u.tests, shifts := u.shifts, lowRail := u.lowRail } ∧
                u.claimOf cl = { c with moves := (u.claimOf cl).moves } ∧ ∀ k ≠ cl, u.claimOf k = s.claimOf k)))) ∧
    (tested → ∃ u col, exec (.tileFailsSelfTest field row) s = .next u ∧ ⟨field, row, col⟩ ∈ s.tests ∧
      (∀ x, x ∈ u.tests ↔ x ∈ s.tests ∧ ¬ (x.field = field ∧ x.row = row)) ∧
      u.findings = { s.findings with retired := (field, row, col) :: s.findings.retired } ∧
      (fixed → field ∈ u.badFields ∧ u.retiredTiles = s.retiredTiles ∧ u.shifts = s.shifts) ∧
      (¬ fixed → u.badFields = s.badFields ∧ u.retiredTiles = (field, row, col) :: s.retiredTiles ∧
        ∀ x, x ∈ u.shifts ↔ x ∈ s.shifts ∧ ¬ (x.1 = field ∧ x.2.1 = row)) ∧
      u.cores = s.cores ∧ u.tiles = s.tiles ∧ u.claims = s.claims ∧ u.far = s.far)) ∧
  (∀ (t : TileId) (bank : BitVec 6) (word : Nat) (d : Side) (mask : BitVec 72) (s : State),
    let w := (65536 * bank.toNat + 8 * word) / 8
    (∃ u, exec (.bitUpset (.bank t bank word) mask) s = .next u ∧
      (find (u.tileOf t).flips w).getD 0 = (find (s.tileOf t).flips w).getD 0 ^^^ mask ∧
      (∀ x ≠ w, find (u.tileOf t).flips x = find (s.tileOf t).flips x) ∧
      u.tileOf t = { s.tileOf t with flips := (u.tileOf t).flips } ∧ (∀ o ≠ t, u.tileOf o = s.tileOf o) ∧ u.cores = s.cores) ∧
    ∃ u, exec (.bitUpset (.link t d) mask) s = .next u ∧ find (u.tileOf t).linkErr d = some (BitVec.ofNat 5 mask.toNat) ∧
      u.tileOf t = { s.tileOf t with linkErr := (u.tileOf t).linkErr } ∧ (∀ o ≠ t, u.tileOf o = s.tileOf o) ∧ u.cores = s.cores) ∧
  (∀ (t : TileId) (mask : BitVec 72) (s : State), ∃ u, exec (.bitUpset (.wheel t) mask) s = .next u ∧
    (u.tileOf t).wheel.toNat = ((s.tileOf t).wheel.toNat ^^^ mask.toNat % 128) % s.wheel % 128 ∧
    u.tileOf t = { s.tileOf t with wheel := (u.tileOf t).wheel, opSlots := (u.tileOf t).opSlots } ∧
    (∀ k, (u.tileOf t).opSlots.at k = { (s.tileOf t).opSlots.at k with u := ((u.tileOf t).opSlots.at k).u }) ∧
    (∀ o ≠ t, u.tileOf o = s.tileOf o) ∧ u.cores = s.cores ∧
    ∀ e ∈ s.agenda,
      ((∀ i, e.act ≠ .ev (.arraySend t i)) → e.act ≠ .ev (.alignment t) → e ∈ u.agenda) ∧
      (e.act = .ev (.alignment t) →
        { e with tick := s.now t.claim + (s.wheel - (u.tileOf t).wheel.toNat) % s.wheel } ∈ u.agenda) ∧
      ∀ i a n, e.act = .ev (.arraySend t i) → (s.tileOf t).sends.find? (fun x => x.id == i) = some a →
        nextSend s.wheel (wheelShift u t) ((s.tileOf t).localSlots a.tag)
          (s.now t.claim + if a.tag ∈ (s.tileOf t).locals then 1 else 0) = some n → { e with tick := n } ∈ u.agenda) ∧
  ∀ (piece : Nat) (mask : BitVec 72) (s : State),
    (3 * 2 ^ 40 ≤ 8 * piece → exec (.bitUpset (.far piece) mask) s = .fault .noSuchAddress) ∧
    (8 * piece < 3 * 2 ^ 40 → ∃ u, exec (.bitUpset (.far piece) mask) s = .next u ∧
      (find u.farFlips piece).getD 0 = (find s.farFlips piece).getD 0 ^^^ mask ∧
      (∀ x ≠ piece, find u.farFlips x = find s.farFlips x) ∧ u = { s with farFlips := u.farFlips })

/-! ## The host's side (spec/14) -/

/-- R325, R355 to R362, R366, R369: the host reads and writes far memory and the register page; a notify sets the target or BADIDX;
the mailbox takes one command at a time; a head packet with V = 0 stops its queue, one behind a fleet packet in preparation waits, a
bad one is dropped, a refused one gets its record and decrement, and every other starts its strands at TSTART. Nothing answers while
the module is off. Also R296: the host sets granule tags beside the data it writes. The bindings of claims that still hold their
contexts count against a launch, and the tables of a record are read at the launch (log entries 26, 10); a notify to a queue that is
being disabled may drain it at once, and the launch takes over the ranges that the lease pins (log entry 25). -/
def Obligations.HostSide : Prop :=
  (∀ (addr len off : Nat) (data : List Byte) (tags : List (Nat × BitVec 4)) (v : Quad) (s : State), s.power = .off →
    exec (.hostFarRead addr len) s = .next s ∧ exec (.hostFarWrite addr ⟨data, tags⟩) s = .next s ∧
    exec (.hostRegisterWrite off v) s = .next s) ∧
  (∀ (addr len : Nat) (s : State), s.power ≠ .off →
    let page := 3 * 2 ^ 40
    (addr + len ≤ page → exec (.hostFarRead addr len) s =
      .next { s with reply := (List.range len).map fun i => (farByte s (addr + i)).1 }) ∧
    (page + 0x2000 ≤ addr → exec (.hostFarRead addr len) s = .next { s with reply := List.replicate len 0 }) ∧
    (∀ (q : BitVec 6), ∀ j < 8, exec (.hostFarRead (page + 64 * q.toNat + 8 * j) 8) s =
      .next { s with reply := eightBytes (queueRegister (s.queues.at q) j) }) ∧
    (∀ j < 13, exec (.hostFarRead (page + 0x1000 + 8 * j) 8) s = .next { s with reply := eightBytes (mailboxRegister s.mbox j) }) ∧
    (∀ j, 12 < j → j < 0x200 → exec (.hostFarRead (page + 0x1000 + 8 * j) 8) s = .next { s with reply := eightBytes 0 }) ∧
    (page ≤ addr → (addr % 8 ≠ 0 ∨ len ≠ 8) → exec (.hostFarRead addr len) s = .next { s with reply := List.replicate len 0 })) ∧
  (∀ (addr : Nat) (data : List Byte) (s : State), s.power ≠ .off →
    (addr + data.length ≤ 3 * 2 ^ 40 → s.far.wf = true → ∃ u, exec (.hostFarWrite addr ⟨data, []⟩) s = .next u ∧ u.farTags = s.farTags ∧
      (∀ i b, data[i]? = some b → u.far.read (addr + i) = b) ∧
      (∀ a, (a < addr ∨ addr + data.length ≤ a) → u.far.read a = s.far.read a) ∧ u.cores = s.cores ∧ u.tiles = s.tiles ∧
      u.claims = s.claims ∧ u.agenda = s.agenda ∧ u.queues = s.queues ∧ u.mbox = s.mbox ∧ u.todo = s.todo) ∧
    (∀ off < 0x2000, addr = 3 * 2 ^ 40 + off →
      (off % 8 = 0 → data.length = 8 → ∃ v : Quad, v.toNat = littleEndian 8 (fun i => data.getD i 0) ∧
        exec (.hostFarWrite addr ⟨data, []⟩) s = .next { s with todo := .ev (.hostRegisterWrite off v) :: s.todo }) ∧
      ((off % 8 ≠ 0 ∨ data.length ≠ 8) → exec (.hostFarWrite addr ⟨data, []⟩) s = .next s)) ∧
    ∀ (granule : Nat) (tag : BitVec 4), ∃ u w, exec (.hostFarWrite addr ⟨data, []⟩) s = .next u ∧
      exec (.hostFarWrite addr ⟨data, [(granule, tag)]⟩) s = .next w ∧ w = { u with farTags := w.farTags } ∧
      (∀ k, (find w.farTags k).getD 0 = if k = granule ∧ 32 * k < 3 * 2 ^ 40 then tag else (find u.farTags k).getD 0)) ∧
  (∀ (q : BitVec 6) (v : Quad) (s : State), s.power ≠ .off →
    exec (.hostRegisterWrite (64 * q.toNat) v) s = .next { s with todo := .ev (.qnotifyWrite q v) :: s.todo } ∧
    (∃ u, exec (.hostRegisterWrite (64 * q.toNat + 0x30) v) s = .next u ∧ u = { s with queues := u.queues } ∧
      u.queues.at q = { s.queues.at q with
        badPkt := (s.queues.at q).badPkt && !v.getLsbD 2, badIdx := (s.queues.at q).badIdx && !v.getLsbD 1 } ∧
      ∀ k ≠ q, u.queues.at k = s.queues.at k) ∧
    (∀ j ∈ [1, 2, 3, 4, 5, 7], exec (.hostRegisterWrite (64 * q.toNat + 8 * j) v) s = .next s) ∧
    exec (.hostRegisterWrite 0x1000 v) s = .next { s with mbox := { s.mbox with
      op := BitVec.ofNat 8 v.toNat, htag := BitVec.ofNat 16 (v.toNat / 2 ^ 16) } } ∧
    exec (.hostRegisterWrite 0x1008 v) s = .next { s with mbox := { s.mbox with args := { s.mbox.args with a0 := v } } } ∧
    exec (.hostRegisterWrite 0x1010 v) s = .next { s with mbox := { s.mbox with args := { s.mbox.args with a1 := v } } } ∧
    exec (.hostRegisterWrite 0x1018 v) s = .next { s with mbox := { s.mbox with args := { s.mbox.args with a2 := v } } } ∧
    exec (.hostRegisterWrite 0x1020 v) s = .next { s with mbox := { s.mbox with args := { s.mbox.args with a3 := v } } } ∧
    exec (.hostRegisterWrite 0x1028 v) s = .next { s with mbox := { s.mbox with args := { s.mbox.args with a4 := v } } } ∧
    exec (.hostRegisterWrite 0x1030 v) s = .next { s with mbox := { s.mbox with args := { s.mbox.args with a5 := v } } } ∧
    exec (.hostRegisterWrite 0x1040 v) s = .next { s with mbox := { s.mbox with done := s.mbox.done && !v.getLsbD 1 } } ∧
    ((v.getLsbD 0 = false ∨ s.mbox.busy = true ∨ s.mbox.done = true) → exec (.hostRegisterWrite 0x1038 v) s = .next s) ∧
    (v.getLsbD 0 = true → s.mbox.busy = false → s.mbox.done = false →
      ((s.ctlOf .curator).switching = true → exec (.hostRegisterWrite 0x1038 v) s =
        .next { s with mbox := { s.mbox with ring := true } }) ∧
      ((s.ctlOf .curator).switching = false → ∃ i, exec (.hostRegisterWrite 0x1038 v) s = .next { s with
          todo := .ev i :: s.todo
          mbox := { s.mbox with ring := false, busy := true, hand := s.mbox.htag, hop := s.mbox.op, hargs := s.mbox.args } } ∧
        (∀ p ∈ mailboxCodes s.mbox.args, s.mbox.op.toNat = p.1 → i = p.2) ∧
        ((∀ p ∈ mailboxCodes s.mbox.args, s.mbox.op.toNat ≠ p.1) → i = .opNotAssigned s.mbox.op)))) ∧
  (∀ (q : BitVec 6) (w : Quad) (s : State),
    let x := s.queues.at q
    let taken := x.en = true ∧ x.qread.toNat ≤ w.toNat ∧ w.toNat ≤ x.qread.toNat + 2 ^ x.log2
    ∃ u, exec (.qnotifyWrite q w) s = .next u ∧ u = { s with queues := u.queues, todo := u.todo } ∧
      (∀ k ≠ q, u.queues.at k = s.queues.at k) ∧
      (taken → u.queues.at q = { x with target := w, waitV := false } ∧
        u.todo = if x.disabling = true ∧ x.qread = w then .ev (.queueDisableDrain q) :: s.todo else s.todo) ∧
      (¬ taken → u.queues.at q = { x with badIdx := true } ∧ u.todo = s.todo)) ∧
  ∀ (q : BitVec 6) (s : State),
    let x := s.queues.at q
    let p := headPacket s q
    let slot : Byte := BitVec.ofNat 8 (packetField p 2 1)
    let preparing := ∃ f, s.fleetLaunch = some f ∧ f.started = false ∧ f.queue = some q.toNat
    (x.en = false ∨ x.waitV = true ∨ x.target.toNat ≤ x.qread.toNat ∨ preparing → exec (.packetRead q) s = .next s) ∧
    (x.en = true → x.waitV = false → x.qread.toNat < x.target.toNat → ¬ preparing →
      (packetField p 0 1 % 2 = 0 → ∃ u, exec (.packetRead q) s = .next u ∧ u = { s with queues := u.queues } ∧
        u.queues.at q = { x with waitV := true } ∧ ∀ k ≠ q, u.queues.at k = s.queues.at k) ∧
      (packetField p 0 1 % 2 = 1 → (s.ctlOf .curator).switching = true → exec (.packetRead q) s = .next s) ∧
      (packetField p 0 1 % 2 = 1 → (s.ctlOf .curator).switching = false →
        (PacketDropped x p → ∃ u, exec (.packetRead q) s = .next u ∧ Consumed s u q { x with badPkt := true }) ∧
        (¬ PacketDropped x p → ∃ c u, exec (.packetRead q) s = .next u ∧ Consumed s c q x ∧
          (s.far.wf = true → c.far.wf = true ∧
            (farByte c (x.base.toNat + 64 * (x.qread.toNat % 2 ^ x.log2))).1 = p.getD 0 0 &&& 0xFE) ∧
          (packetField p 1 1 ≠ 1 ∨ 16 < packetField p 3 1 → Refused c u p 1) ∧
          (packetBad x p (farRead s (packetField p 24 8) (16 * packetField p 3 1)) = false → s.fleet = none →
            packetField p 3 1 ≤ 16 →
            let args := farRead s (packetField p 24 8) (16 * packetField p 3 1)
            let a := parseAcc (s.accessions.at slot)
            let i := parseImage (s.cats.at slot).image
            let leased := (s.cats.at slot).leased = true ∧ ∀ r ∈ i.ranges, r ∈ (s.cats.at slot).pinned
            ((s.cats.at slot).st ≠ .resident → Refused c u p 2) ∧
            ((s.cats.at slot).st = .resident → ¬ leased → Refused c u p 3) ∧
            ((s.cats.at slot).st = .resident → leased → (i.hop ≠ s.lh ∨ i.wheel ≠ s.wheel) → Refused c u p 4) ∧
            ((s.cats.at slot).st = .resident → leased → i.hop = s.lh → i.wheel = s.wheel →
              (a.v = false ∨ a.qmask.testBit q.toNat = false) → Refused c u p 5) ∧
            (launchReason c (some q.toNat) (takeSlot c slot).read p args = 0 →
              let n := a.fx0 + 12 * a.fy0
              (u.claimOf n).run = .running ∧ (u.claimOf n).tick = a.tstart ∧ (u.claimOf n).start = a.tstart ∧
              (u.claimOf n).jtotal = packetField p 32 8 ∧ (u.claimOf n).faults = [] ∧
              (u.claimOf n).ranges = (s.cats.at slot).pinned ∧
              (∀ k < 512, ∃ d : Quad, (u.claimOf n).bart[k]? = some d ∧ d.toNat = leNat (farRead c (a.bartAt + 8 * k) 8)) ∧
              (∀ x ∈ u.lowRail, tileClaimed u x.1 x.2.1 x.2.2 = false) ∧
              (∀ st core, (st, core) ∈ u.cores → st.tile.claim = n → core.status = .running ∧ core.pc = 0 ∧
                core.span = false ∧ core.rebase = BitVec.ofNat 64 a.tstart ∧ core.g = Tab.all 6 (.clean 0) ∧
                core.v = Tab.all 6 (.clean 0) ∧ i.hasStrand st.tile.x st.tile.y st.core.toNat = true) ∧
              (∀ x < 12 * a.fw, ∀ y < 12 * a.fh, ∀ k < 4, i.hasStrand x y k = true →
                ∃ core, (⟨⟨n, x, y⟩, BitVec.ofNat 2 k⟩, core) ∈ u.cores ∧ core.status = .running ∧ core.pc = 0 ∧
                  core.rebase = BitVec.ofNat 64 a.tstart) ∧
              (∀ st core, st.tile.claim ≠ n → ((st, core) ∈ u.cores ↔ (st, core) ∈ s.cores)) ∧
              (∀ e ∈ u.agenda, e.claim ≠ n) ∧ u.todo = c.todo ++ [.early n, .drift n, .issues n, .late n, .endTick n])))))

/-- R346, R347, R365 to R368, R372, R373: the mailbox's commands outside the safe state. An argument out of its limits answers 0x04, a
state that does not admit the command 0x01, and then the command has its effect: LOAD verifies, checks, fills and measures a slot;
EVICT, LEASE and UNLEASE change it; QUEUE enables or drains a queue; INVTLB drops translations; PREEMPT, RESUME and ABORT act on a
claim, and on the parts of a fleet's that go on after the leader's own; FWLOAD fills the retained half; RECORD reads the start record; RESTART is a boot with what the last one found.
What verifies a signature is a free value, and which check of R94 MBRES0 names is the model's (log entries 6, 8, 9). When UNLEASE
and QUEUE complete, what PREEMPT answers otherwise, that an ABORT acts in the tick in which the command is taken, that an aborted
pre-empted claim is released at wall + 1, that the arrays may finish first, what a restart keeps, that a FWLOAD in the safe state
completes at once, that the curator puts pages where it likes and maps only what is not mapped, and the tick that a fleet's
request names are the model's readings (log entries 25, 11, 47, 22, 48, 1, 24, 55, 60, 58). -/
def Obligations.CuratorCommands : Prop :=
  (∀ (a : MbArgs) (s : State), s.power = .safe →
    exec (.load a) s = .next (answered s 5 0) ∧ exec (.evict a) s = .next (answered s 5 0) ∧
    exec (.lease a) s = .next (answered s 5 0) ∧ exec (.unlease a) s = .next (answered s 5 0) ∧
    exec (.queueEnable a) s = .next (answered s 5 0) ∧ exec (.queueDisable a) s = .next (answered s 5 0) ∧
    exec (.invtlb a) s = .next (answered s 5 0) ∧ exec (.preempt a) s = .next (answered s 5 0) ∧
    exec (.resume a) s = .next (answered s 5 0) ∧ exec (.abort a) s = .next (answered s 5 0)) ∧
  (∀ (op : Byte) (s : State), exec (.opNotAssigned op) s = .next (answered s 6 0)) ∧
  (∀ (a : MbArgs) (s : State), s.power ≠ .safe →
    let n := a.a0.toNat
    let slot : Byte := BitVec.ofNat 8 n
    let c := s.cats.at slot
    let addr := a.a1.toNat
    let len := a.a2.toNat
    let fits := n < 256 ∧ addr % 64 = 0 ∧ addr + len + 384 ≤ 3 * 2 ^ 40 ∧ a.a3 = 0 ∧ a.a4 = 0 ∧ a.a5 = 0
    let b := farRead s addr len
    let signed := Config.chainsTo (Config.keyCertificate .model) Config.rootKeyDigest &&
      Config.signatureValid .model (sha256 b) (farRead s (addr + len) 384)
    (¬ fits → exec (.load a) s = .next (answered s 4 0)) ∧
    (fits → c.st ≠ .empty → exec (.load a) s = .next (answered s 1 0)) ∧
    (fits → c.st = .empty →
      (signed = false → exec (.load a) s = .next (answered s 2 0)) ∧
      (∀ k, signed = true → imageBad b len = some k → exec (.load a) s = .next (answered s 3 k)) ∧
      (signed = true → imageBad b len = none → exec (.load a) s = .next (answered { s with
        cats := s.cats.put slot ⟨.resident, b, false, [], false⟩
        meas := s.meas.put 5 (sha256 (digestBytes (s.meas.at 5) ++ digestBytes (sha256 b))) } 0 0)))) ∧
  (∀ (a : MbArgs) (s : State), s.power ≠ .safe →
    let n := a.a0.toNat
    let slot : Byte := BitVec.ofNat 8 n
    let c := s.cats.at slot
    let fits := n < 256 ∧ a.a1 = 0 ∧ a.a2 = 0 ∧ a.a3 = 0 ∧ a.a4 = 0 ∧ a.a5 = 0
    let busy := (∃ p ∈ s.claims, p.2.slot = slot ∧ ∀ e b, p.2.run ≠ .ended e b) ∨
      ∃ f, s.fleetLaunch = some f ∧ f.packet.getD 2 0 = slot
    (¬ fits → exec (.evict a) s = .next (answered s 4 0) ∧ exec (.lease a) s = .next (answered s 4 0) ∧
      exec (.unlease a) s = .next (answered s 4 0)) ∧
    (fits → busy → exec (.evict a) s = .next (answered s 1 0)) ∧
    (fits → c.st ≠ .resident → exec (.lease a) s = .next (answered s 1 0)) ∧
    (fits → c.leased = false → exec (.unlease a) s = .next (answered s 1 0)) ∧
    (fits → ¬ busy → ∃ u, exec (.evict a) s = .next u ∧ u.mbox = (answered s 0 0).mbox ∧
      (u.cats.at slot).st = .empty ∧ (∀ k ≠ slot, u.cats.at k = s.cats.at k ∧ u.accessions.at k = s.accessions.at k) ∧
      ((u.accessions.at slot).getD 0 0).getLsbD 0 = false ∧ ClaimsKept s u) ∧
    (fits → c.st = .resident →
      let r := parseAcc (s.accessions.at slot)
      let word := fun (m : Memory) (p : Nat) => littleEndian 8 fun i => m.read (p + i)
      let down := fun (table v low bits : Nat) => word s.far (table + 8 * (v / 2 ^ low % 2 ^ bits))
      let next := fun e : Nat => e / 2 ^ 8 % 2 ^ 34 * 2 ^ 8
      ∃ u, exec (.lease a) s = .next u ∧ u.mbox = (answered s 0 0).mbox ∧
        u.cats = s.cats.put slot { c with leased := true, pinned := (parseImage c.image).ranges, unlease := false } ∧
        u = { s with cats := u.cats, mbox := u.mbox, far := u.far, farMarks := u.farMarks, farFlips := u.farFlips, free := u.free } ∧
        (r.v = false → u.far = s.far) ∧
        ∀ (g : FarRange) (v : Nat), (parseImage c.image).ranges = [g] → 0 < g.len → g.addr / 2 ^ 16 = v →
          (g.addr + g.len - 1) / 2 ^ 16 = v → v < 2 ^ 32 → r.v = true → r.ptroot % 2 ^ 17 = 0 → r.ptroot + 2 ^ 17 ≤ 3 * 2 ^ 40 →
          s.farFlips = [] → s.far.wf = true →
          let e1 := down r.ptroot (2 ^ 16 * v) 34 14
          let e2 := down (next e1) (2 ^ 16 * v) 29 5
          let e3 := down (next e2) (2 ^ 16 * v) 21 8
          let leaf := next e3 + 8 * (v % 2 ^ 5)
          e1 % 4 = 1 → e2 % 4 = 1 → e3 % 4 = 1 →
            (word s.far leaf % 2 = 1 → u.far = s.far) ∧
            (word s.far leaf % 2 = 0 → ∃ e, word u.far leaf = e ∧ e % 4 = 3 ∧ e / 4 % 2 = (if g.rd then 1 else 0) ∧
              e / 8 % 2 = (if g.wr then 1 else 0) ∧ e / 2 ^ 5 % 2 ^ 3 = 0 ∧ e / 2 ^ 42 = 0 ∧ next e % 2 ^ 16 = 0 ∧
              next e + 2 ^ 16 ≤ 3 * 2 ^ 40 ∧ ∀ x, (x < leaf ∨ leaf + 8 ≤ x) → u.far.read x = s.far.read x)) ∧
    (fits → c.leased = true → (busy → exec (.unlease a) s = .next { s with cats := s.cats.put slot { c with unlease := true } }) ∧
      (¬ busy → exec (.unlease a) s = .next { s with
        cats := s.cats.put slot { c with unlease := true }, todo := .ev (.unleaseEffect slot) :: s.todo })) ∧
    (c.unlease = true → ¬ busy →
      let done := s.mbox.busy = true ∧ s.mbox.held = none ∧ s.mbox.hop = 4 ∧ s.mbox.hargs.a0.toNat = slot.toNat
      let u := { s with cats := s.cats.put slot { c with leased := false, pinned := [], unlease := false } }
      (done → exec (.unleaseEffect slot) s = .next (answered u 0 0)) ∧ (¬ done → exec (.unleaseEffect slot) s = .next u)) ∧
    ((c.unlease = false ∨ busy) → exec (.unleaseEffect slot) s = .next s)) ∧
  (∀ (a : MbArgs) (s : State), s.power ≠ .safe →
    let q : BitVec 6 := BitVec.ofNat 6 a.a0.toNat
    let x := s.queues.at q
    let k := a.a2.toNat
    let fits := a.a0.toNat < 64 ∧ a.a1.toNat % 64 = 0 ∧ 4 ≤ k ∧ k ≤ 16 ∧ a.a1.toNat + 64 * 2 ^ k ≤ 3 * 2 ^ 40 ∧ a.a5 = 1
    let bare := a.a0.toNat < 64 ∧ a.a1 = 0 ∧ a.a2 = 0 ∧ a.a3 = 0 ∧ a.a4 = 0 ∧ a.a5 = 0
    (¬ fits → exec (.queueEnable a) s = .next (answered s 4 0)) ∧
    (fits → x.en = true → exec (.queueEnable a) s = .next (answered s 1 0)) ∧
    (fits → x.en = false → exec (.queueEnable a) s = .next (answered { s with queues := s.queues.put q { x with
      base := a.a1, log2 := k, wbase := a.a3, wlim := a.a4, qread := 0, target := 0, waitV := false, en := true } } 0 0)) ∧
    (¬ bare → exec (.queueDisable a) s = .next (answered s 4 0)) ∧
    (bare → x.en = false → exec (.queueDisable a) s = .next (answered s 0 0)) ∧
    (bare → x.en = true → x.qread ≠ x.target →
      exec (.queueDisable a) s = .next { s with queues := s.queues.put q { x with disabling := true } }) ∧
    (bare → x.en = true → x.qread = x.target → exec (.queueDisable a) s = .next { s with
      queues := s.queues.put q { x with disabling := true }, todo := .ev (.queueDisableDrain q) :: s.todo })) ∧
  (∀ (q : BitVec 6) (s : State),
    let x := s.queues.at q
    (x.disabling = true → x.qread = x.target → exec (.queueDisableDrain q) s =
      .next (answered { s with queues := s.queues.put q { x with en := false, disabling := false } } 0 0)) ∧
    ((x.disabling = false ∨ x.qread ≠ x.target) → exec (.queueDisableDrain q) s = .next s)) ∧
  (∀ (a : MbArgs) (s : State), s.power ≠ .safe →
    let n := a.a0.toNat
    let fits := n < 84 ∧ a.a3 = 0 ∧ a.a4 = 0 ∧ a.a5 = 0
    (¬ fits → exec (.invtlb a) s = .next (answered s 4 0)) ∧
    (fits → ∃ u, exec (.invtlb a) s = .next u ∧ u = { answered s 0 0 with tlb := u.tlb } ∧
      ∀ e, e ∈ u.tlb ↔ e ∈ s.tlb ∧ ¬ (e.claim = n ∧ e.page * 2 ^ e.size < a.a1.toNat + a.a2.toNat ∧
        a.a1.toNat < (e.page + 1) * 2 ^ e.size))) ∧
  (∀ (a : MbArgs) (s : State), s.power ≠ .safe →
    let cl := a.a0.toNat
    let c := s.claimOf cl
    let fits := cl < 84 ∧ a.a1 = 0 ∧ a.a2 = 0 ∧ a.a3 = 0 ∧ a.a4 = 0 ∧ a.a5 = 0
    (¬ fits → exec (.preempt a) s = .next (answered s 4 0) ∧ exec (.resume a) s = .next (answered s 4 0) ∧
      exec (.abort a) s = .next (answered s 4 0)) ∧
    (fits → c.run ≠ .running → (∀ f, PartsGoOn s cl f → f.stands ≠ none) → exec (.preempt a) s = .next (answered s 1 0)) ∧
    (fits → (∀ b, c.run ≠ .preempted b) → (∀ f, PartsGoOn s cl f → f.stands = none) →
      exec (.resume a) s = .next (answered s 1 0)) ∧
    (fits → c.run ≠ .running → (∀ b, c.run ≠ .preempted b) → (∀ f, ¬ PartsGoOn s cl f) →
      exec (.abort a) s = .next (answered s 1 0)) ∧
    (fits → ∀ f, PartsGoOn s cl f →
      let ask := fun (op tick : Nat) => { s with fleetMsgs := s.fleetMsgs ++ [.request op tick] }
      let r := 2 ^ s.replayLog2
      let b := ((s.now cl + (s.wall - f.gone.getD s.wall)) / r + 2) * r - 1
      (f.stands = none → exec (.preempt a) s = .next (ask 7 b) ∧ exec (.abort a) s = .next (ask 9 b)) ∧
      ∀ at_, f.stands = some at_ → exec (.abort a) s = .next (ask 9 at_) ∧ exec (.resume a) s = .next (answered { ask 8 at_ with
        fleetLaunch := some { f with stands := none, gone := some (s.wall - (at_ - s.now cl)) } } 0 0)) ∧
    (fits → c.fleet = false →
      (c.run = .running → exec (.preempt a) s = .next (s.setClaim cl { c with preempt := true })) ∧
      (∀ b, c.run = .preempted b → ∃ u, exec (.resume a) s = .next u ∧ u.mbox = (answered s 0 0).mbox ∧
        u.claimOf cl = { c with run := .running, vitrine := [] } ∧
        u.agenda = s.agenda ++ c.vitrine.map (fun e => { e with tick := e.tick + c.tick }) ∧
        u.todo = s.todo ++ [.early cl, .drift cl, .issues cl, .late cl, .endTick cl] ∧ u.cores = s.cores ∧ u.tiles = s.tiles ∧
        u.far = s.far) ∧
      (c.run = .running → c.abort = none → ∃ u e, exec (.abort a) s = .next u ∧
        u.claimOf cl = { c with abort := some c.tick } ∧ u.agenda = s.agenda ++ [e] ∧ e.act = .ev (.abortStop cl) ∧
        e.phase = phStop ∧ c.tick < e.tick ∧ e.tick ≤ c.tick + 2 ^ s.replayLog2 ∧ e.tick % 2 ^ s.replayLog2 = 0 ∧
        u.cores = s.cores ∧ u.tiles = s.tiles) ∧
      (∀ b, c.run = .preempted b → ∃ u, exec (.abort a) s = .next u ∧ (u.claimOf cl).run = .aborted b ∧
        (u.claimOf cl).faultCount = c.faultCount + 1 ∧ u.inputs = s.inputs ++ [(s.wall + 1, .claimRelease cl)] ∧
        u.agenda = s.agenda ∧ u.cores = s.cores ∧ u.tiles = s.tiles)) ∧
    (fits → c.fleet = true → c.run = .running →
      let r := 2 ^ s.replayLog2
      let b := (s.now cl / r + 2) * r - 1
      ∀ p ∈ [(7, exec (.preempt a) s), (9, exec (.abort a) s)], ∃ u e, p.2 = .next u ∧
        u = { s with fleetMsgs := s.fleetMsgs ++ [.request p.1 b], agenda := s.agenda ++ [e] } ∧ e.claim = cl ∧ e.tick = b ∧
        e.act = .ev (.managementSidebandMessage (.request p.1 b)))) ∧
  ∀ (a : MbArgs) (s : State),
    let n := a.a0.toNat
    let addr := a.a1.toNat
    let len := a.a2.toNat
    let named := fun c : Controller => (n = 0 ∧ c = .curator) ∨ (∃ e < 24, n = 0x100 + e ∧ c = .engine e) ∨
      ∃ f < 84, n = 0x200 + f ∧ c = .docent f
    let fits := fun c : Controller => addr % 64 = 0 ∧ 384 ≤ len ∧ addr + len ≤ 3 * 2 ^ 40 ∧ len ≤ halfSize c ∧ a.a3 = 0 ∧
      a.a4 = 0 ∧ a.a5 = 0
    let image := farRead s addr len
    let signed := Config.chainsTo (Config.keyCertificate .firmware) Config.rootKeyDigest &&
      Config.signatureValid .firmware (sha256 (image.take (len - 384))) (farRead s (addr + (len - 384)) 384)
    halfSize .curator = 2 ^ 18 ∧
    ((∀ c, named c → ¬ fits c) → exec (.fwload a) s = .next (answered s 4 0)) ∧
    (∀ c, fits c → named c →
      let x := s.ctlOf c
      (x.switching = true → exec (.fwload a) s = .next (answered s 1 0)) ∧
      (x.switching = false → signed = false → exec (.fwload a) s = .next (answered s 2 0)) ∧
      (x.switching = false → signed = true → ∃ u, exec (.fwload a) s = .next u ∧ ClaimsKept s u ∧
        u.ctlOf c = { x with retained := sha256 image, mem := (u.ctlOf c).mem } ∧ (∀ d ≠ c, u.ctlOf d = s.ctlOf d) ∧
        (x.mem.wf = true → (∀ i < image.length, (u.ctlOf c).mem.read ((if x.half then 0 else halfSize c) + i) = image.getD i 0) ∧
          ∀ i, ¬ ((if x.half then 0 else halfSize c) ≤ i ∧ i < (if x.half then 0 else halfSize c) + image.length) →
            (u.ctlOf c).mem.read i = x.mem.read i) ∧
        c ∉ u.findings.badRetained ∧ (s.power ≠ .safe → u.mbox = s.mbox) ∧
        (s.power = .safe → u.mbox = (answered s 0 0).mbox))) ∧
    (let rest := a.a1 = 0 ∧ a.a2 = 0 ∧ a.a3 = 0 ∧ a.a4 = 0 ∧ a.a5 = 0
     (¬ (1 ≤ n ∧ n ≤ 8 ∧ rest) → exec (.record a) s = .next (answered s 4 0)) ∧
     (∀ k : BitVec 3, n = k.toNat + 1 → rest → exec (.record a) s =
       .next (answered s 0 ((match (s.startRec.at k).1 with | .pass => 0 | .fail => 1 | .skipped => 2 | .alternative => 3) +
         256 * min (s.startRec.at k).2 255))) ∧
     (¬ (n = 0 ∧ rest) → exec (.restart a) s = .next (answered s 4 0)) ∧
     (n = 0 → rest → exec (.restart a) s = exec (.powerOn s.findings) s ∧
       ∃ u, exec (.restart a) s = .next u ∧ u.claims = [] ∧ u.cores = [] ∧ u.tiles = [] ∧ u.agenda = [] ∧ u.far = s.far ∧
         u.queues = State.reset.queues ∧ u.mbox = State.reset.mbox ∧ u.wall = s.wall ∧ u.inputs = s.inputs))

/-- R370 to R372: a boot whose steps pass leaves a running module with its fabric parameters, no claim and fresh measurements; the first
failure of a step stops the boot there, and what was made before it is measured; a second failure of step 1 or 5 is the safe state,
and the other steps take their alternative, the retained half of the controller that failed for steps 2 to 4. Of R275: a row that
lost two tiles, or one with its bypass, makes its field unavailable. Of R13, R14 and R40: a link whose direct wires failed is placed
on a detour, and Lh is then 8, only where no shift of a row whose reserve tile and bypass are free leaves fewer such links. The SPDM responder answers measurements from the registers,
and every request leaves the machine as it was.
That far memory is as it was before the boot (`u.far = s.far`) is the model's choice, which the log marks unsafe (log entry 1). How
failed boots follow each other is DEDUCED (log entry 21). The contents of the other answers are free values (log entry 5); the
version byte of GET_VERSION and the algorithm bits are the model's choice (log entry 12), and so is the order of the binder's choices
among shifts of several rows (log entry 61). -/
def Obligations.BootAndMeasurements : Prop :=
  (∀ (b : BootFindings) (s : State),
    let e := fun (k : Nat) => s.startRec.at (BitVec.ofNat 3 (k - 1))
    let steps := [1, 2, 3, 4, 5, 6, 7, 8]
    let known := ∀ f ∈ b.badFields, f ∈ s.badFields
    let ofStep := fun (k : Nat) (c : Controller) => (k = 2 ∧ c = .curator) ∨ (k = 3 ∧ ∃ i < 24, c = .engine i) ∨
      (k = 4 ∧ ∃ i < 84, c = .docent i)
    ∃ u, exec (.powerOn b) s = .next u ∧ u.claims = [] ∧ u.cores = [] ∧ u.tiles = [] ∧ u.agenda = [] ∧ u.far = s.far ∧
      u.queues = State.reset.queues ∧ u.mbox = State.reset.mbox ∧ u.wall = s.wall ∧ u.meas.at 7 = 0 ∧ u.meas.at 5 = 0 ∧
      u.meas.at 6 = 0 ∧
      (let at_ := fun k : Nat => u.startRec.at (BitVec.ofNat 3 (k - 1))
       let rom := ∃ d, u.meas.at 0 = sha256 (digestBytes 0 ++ digestBytes d)
       let curator := u.meas.at 1 = sha256 (digestBytes 0 ++ digestBytes (u.ctlOf .curator).active)
       ((∀ k ∈ steps, (e k).1 ≠ .fail) → b.failed = [] → b.badActive = [] → known →
         u.power = .running ∧ (∀ k ∈ steps, at_ k = (.pass, 0)) ∧
         u.lh = (if u.detours = [] then 6 else 8) ∧ u.wheel = (if b.wheel = 48 ∨ b.wheel = 64 then b.wheel else 32) ∧
         u.replayLog2 = (if 10 ≤ b.replayLog2 ∧ b.replayLog2 ≤ 16 then b.replayLog2 else 12) ∧
         (∀ l, l ∈ u.detours ↔ ∃ w ∈ b.failedWires, linkOn u.retiredTiles w = some l) ∧
         (∀ f row c, (f, row, c) ∈ u.retiredTiles → (f, row, c) ∈ b.retired ∨
           ((f, row) ∉ b.failedBypass ∧ (∀ d, (f, row, d) ∉ b.retired) ∧ c < 12 ∧ b.failedWires ≠ [])) ∧
         (∀ f row, (f, row) ∉ b.failedBypass → (∀ d, (f, row, d) ∉ b.retired) → ∀ c, (c = none ∨ ∃ k < 12, c = some k) →
           u.detours.length ≤ (detoursOf b.failedWires (withShift u.retiredTiles (f, row) c)).length) ∧
         (∀ f row c, f < 84 → row < 12 → c < 11 → b.failedWires = [(13 * (f % 12) + c, 12 * (f / 12) + row, .east)] →
           (∀ d, (f, row, d) ∉ b.retired) →
             ((f, row) ∉ b.failedBypass → u.detours = []) ∧
             ((f, row) ∈ b.failedBypass → u.detours = [(12 * (f % 12) + c, 12 * (f / 12) + row, .east)])) ∧
         (∀ f ∈ b.badFields, f ∈ u.badFields) ∧ (∀ f row c d, c ≠ d → (f, row, c) ∈ b.retired → (f, row, d) ∈ b.retired →
           f ∈ u.badFields) ∧ (∀ f row c, (f, row, c) ∈ b.retired → (f, row) ∈ b.failedBypass → f ∈ u.badFields) ∧
         (∀ f row c, (f, row, c) ∈ b.retired → (f, row) ∉ b.failedBypass → (∀ d, (f, row, d) ∈ b.retired → d = c) →
           (f, row, c) ∈ u.retiredTiles) ∧ rom ∧ curator) ∧
       (∀ k ∈ [1, 5, 7, 8], (∀ j ∈ steps, (e j).1 ≠ .fail) → b.failed = [k] → b.badActive = [] → known → u.power = .off ∧
         (∀ j ∈ steps, j < k → at_ j = (.pass, 0)) ∧ at_ k = (.fail, (e k).2 + 1) ∧
         (∀ j ∈ steps, k < j → at_ j = (.skipped, (e j).2)) ∧ (1 < k → rom ∧ curator)) ∧
       (∀ k ∈ [1, 5], (∀ j ∈ steps, j ≠ k → (e j).1 ≠ .fail) → (e k).1 = .fail → b.failed = [k] → b.badActive = [] →
         u.power = .safe ∧ at_ k = (.alternative, (e k).2)) ∧
       (∀ k ∈ [6, 7], (∀ j ∈ steps, j ≠ k → (e j).1 ≠ .fail) → (e k).1 = .fail → b.failed = [k] → b.badActive = [] →
         (k = 7 → known) → k ∉ b.alternativeFails → u.power = .running ∧ at_ k = (.alternative, 0)) ∧
       ∀ k c, ofStep k c → b.failed = [] → b.badActive = [c] → known → (∀ j ∈ steps, j ≠ k → (e j).1 ≠ .fail) →
         ((e k).1 ≠ .fail → u.power = .off ∧ at_ k = (.fail, (e k).2 + 1) ∧ rom ∧
           ∀ x, find s.ctls c = some x → (u.ctlOf c).active = x.active) ∧
         ((e k).1 = .fail → b.badRetained = [] → u.power = .running ∧ at_ k = (.alternative, 0) ∧
           (∀ x, find s.ctls c = some x → (u.ctlOf c).active = x.retained ∧ (u.ctlOf c).retained = x.active ∧
             (u.ctlOf c).half = !x.half) ∧
           (∀ d x, d ≠ c → (∃ j, ofStep j d) → find s.ctls d = some x → (u.ctlOf d).active = x.active) ∧ curator) ∧
         ((e k).1 = .fail → b.badRetained = [c] → at_ k = (.fail, (e k).2 + 1) ∧
           u.power = if 3 ≤ (e k).2 + 1 then .safe else .off))) ∧
  ∀ (slot offset len asym hash flags index : Nat) (nonce : List Byte) (s : State),
    let keeps := fun i : Instr => ∃ u, exec i s = .next u ∧ u = { s with spdm := u.spdm, free := s.free + 1 }
    (∃ u, exec .getVersion s = .next u ∧ u = { s with spdm := u.spdm, free := s.free + 1 } ∧ u.spdm.head? = some 0x12) ∧
    keeps (.getCapabilities flags) ∧ keeps .getDigests ∧ keeps (.getCertificate slot offset len) ∧
    keeps (.challenge slot nonce) ∧
    (∃ u, exec (.negotiateAlgorithms asym hash) s = .next u ∧ u = { s with spdm := u.spdm, free := s.free + 1 } ∧
      leNat (u.spdm.take 4) = asym / 8 % 2 * 8 ∧ leNat ((u.spdm.drop 4).take 4) = hash % 2) ∧
    (∀ k : BitVec 3, exec (.getMeasurements (k.toNat + 1) false) s = .next { s with spdm := digestBytes (s.meas.at k) }) ∧
    ∃ u, exec (.getMeasurements index true) s = .next u ∧ u = { s with spdm := u.spdm, free := s.free + 1 } ∧
      ∀ k : BitVec 3, index = k.toNat + 1 → u.spdm.take 32 = digestBytes (s.meas.at k)

/-- R361, R363, R374 to R378, R273, R277, R262: the running image writes the hand-over record and asks for the switch, which waits while
a stop or a move that its controller has asked for is outstanding. The switch exchanges the halves, is measured in register 6 and
ends at ACCEPT or at the rollback, which restarts the retained image and is measured too; a record that the new image does not take
is rolled back; a retained image that faults leaves its controller failed; what the mailbox held back is shown. SWCMD keeps the ARG
of every write, and SWST reads its bits. An accession record is written as one piece, with its barrier table at the address that it
gives, and waits through a curator switch. A fleet forms when every wafer agrees to its Lp. Its wafers exchange the packet, the
entries on peer links, verdicts, what they say of a boundary, and the ends of their parts, and start together, with what step 4
read, when all passed; a refusal on any refuses the launch. A wafer whose own part has ended holds its fields until the leader has
written the record and says so.
Which requests are outstanding, that a switch follows at once without one, that records and releases wait through it, the places of
the record's fields, the messages of the other wafers, that a module that does not run takes none, the completion record of a fleet
and the barrier table in far memory are the model's readings (log entries 24, 22, 55, 56, 58, 20, 10). -/
def Obligations.FirmwareAndFleet : Prop :=
  (∀ (c : Controller) (addr arg : BitVec 32) (s : State),
    let x := s.ctlOf c
    let measured := s.meas.put 6 (sha256 (digestBytes (s.meas.at 6) ++ digestBytes x.retained))
    let fwload := s.mbox.busy = true ∧ s.mbox.held = none ∧ s.mbox.hop = 0x0A ∧ controllerOf s.mbox.hargs.a0.toNat = some c
    let ended := s.setCtl c { x with switching := false }
    let shown := match s.mbox.held with
      | some (r, r0) => if (ended.ctlOf .curator).switching = true then s.mbox else (answered ended r r0.toNat).mbox
      | none => s.mbox
    let swapped := { x with active := x.retained, retained := x.active, half := !x.half, alive := false, accept := false, asked := false }
    let r := handRecord s c
    leNat (r.take 4) = 0x4F564448 ∧ leNat ((r.drop 16).take 8) = r.length % 2 ^ 64 ∧
    (r.drop 24).take 32 = digestBytes (sha256 (r.drop 64)) ∧
    (r.length < 2 ^ 32 → sectionTypes r.length (r.drop 64) = some (match c with
      | .curator => [1, 2, 3, 7]
      | .engine _ => [6, 7]
      | .docent _ => [4, 5, 7])) ∧
    x.swcmdWord.toNat = x.arg.toNat * 2 ^ 32 ∧
    x.swstWord.toNat = (if x.alive then 1 else 0) + (if x.accept then 2 else 0) + (if x.half then 4 else 0) +
      (if x.rbk then 8 else 0) + x.recver.toNat * 2 ^ 8 ∧
    (x.switching = true → exec (.switchRequest c addr) s = .next (s.setCtl c { x with arg := addr }) ∧
      exec (.firmwareSwitch c) s = .next (s.setCtl c { x with asked := false })) ∧
    (x.switching = false → ∃ u, exec (.switchRequest c addr) s = .next u ∧
      u.ctlOf c = { x with arg := addr, recordAt := addr, mem := (u.ctlOf c).mem } ∧
      (x.mem.wf = true → ∀ i < r.length, addr.toNat + i < 2 * halfSize c → (u.ctlOf c).mem.read (addr.toNat + i) = r.getD i 0) ∧
      (∀ d ≠ c, u.ctlOf d = s.ctlOf d) ∧ u.todo = .ev (.firmwareSwitch c) :: s.todo ∧ ClaimsKept s u) ∧
    (c ∈ s.findings.badRetained → exec (.firmwareSwitch c) s = .next (s.setCtl c { x with asked := false })) ∧
    (x.switching = false → c ∉ s.findings.badRetained → requestsOut s c = true → exec (.firmwareSwitch c) s =
      .next (s.setCtl c { x with asked := true })) ∧
    ((requestsOut s .curator = true ↔
        (s.power ≠ .safe ∧ ∃ p ∈ s.claims, (s.claimOf p.1).run = .running ∧ (p.2.preempt = true ∨ p.2.abort ≠ none)) ∨
        (∃ e ∈ s.agenda, ∃ op tick, (op = 7 ∨ op = 9) ∧ e.act = .ev (.managementSidebandMessage (.request op tick))) ∨
        ((∃ f, PartsGoOn s 0 f) ∧ s.mbox.busy = true ∧ s.mbox.held = none ∧ (s.mbox.hop = 7 ∨ s.mbox.hop = 9) ∧ s.mbox.hargs.a0 = 0) ∨
        ∃ q : BitVec 6, (s.queues.at q).disabling = true) ∧
      (∀ e, requestsOut s (.engine e) = false) ∧
      ∀ f, requestsOut s (.docent f) = true ↔ ∃ p ∈ s.claims, ∃ m ∈ p.2.moves, m.field = f) ∧
    (x.switching = false → c ∉ s.findings.badRetained → requestsOut s c = false → ∃ u, exec (.firmwareSwitch c) s = .next u ∧
      u.ctlOf c = { swapped with rbk := false, switching := true, since := s.wall } ∧ u.meas = measured ∧
      (∀ d ≠ c, u.ctlOf d = s.ctlOf d) ∧ ClaimsKept s u ∧
      (recordTaken c x x.retained x.recordAt.toNat = true → u.todo = s.todo) ∧
      (recordTaken c x x.retained x.recordAt.toNat = false → u.todo = .ev (.rollback c) :: s.todo) ∧
      (c = .curator → u.curator.pc.toNat = (if x.half then 0 else 2 ^ 18) ∧ u.curator.x.at 10 = x.recordAt)) ∧
    exec (.alive ⟨c, 1, arg⟩) s = .next (s.setCtl c { x with arg := arg, alive := true }) ∧
    (∀ code : Byte, code ≠ 1 → code ≠ 2 → code ≠ 3 →
      exec (.alive ⟨c, code, arg⟩) s = .next (s.setCtl c { x with arg := arg })) ∧
    exec (.alive ⟨c, 3, arg⟩) s = exec (.switchRequest c arg) s ∧
    (∀ code : Byte, exec (.accept ⟨c, code, arg⟩) s = exec (.alive ⟨c, code, arg⟩) s) ∧
    (s.mbox.ring = false → ∃ u, exec (.accept ⟨c, 2, arg⟩) s = .next u ∧ u.ctlOf c = { x with
        arg := arg, alive := true, accept := true, switching := false
        recver := if x.switching = true ∨ x.rbk = true then (x.bytesAt c x.recordAt.toNat 64).getD 4 0 else x.recver } ∧
      (∀ d ≠ c, u.ctlOf d = s.ctlOf d) ∧
      (x.switching = true → fwload → u.mbox = (answered ended 0 0).mbox) ∧
      (x.switching = false ∨ ¬ fwload → u.mbox = shown) ∧
      ClaimsKept s u) ∧
    (x.switching = false → exec (.rollback c) s = .next s) ∧
    (x.switching = true → s.mbox.ring = false → ∃ u, exec (.rollback c) s = .next u ∧
      u.ctlOf c = { swapped with rbk := true, switching := false } ∧ u.meas = measured ∧ (∀ d ≠ c, u.ctlOf d = s.ctlOf d) ∧
      (fwload → u.mbox = (answered ended 0 1).mbox) ∧ (¬ fwload → u.mbox = shown) ∧ ClaimsKept s u ∧
      (c = .curator → u.curator.x.at 10 = x.recordAt ∧ u.curator.x.at 11 = 1)) ∧
    ((x.rbk = false ∨ x.accept = true) → exec (.retainedImageFault c) s = .next s) ∧
    (x.rbk = true → x.accept = false → ∃ u, exec (.retainedImageFault c) s = .next u ∧ u.ctlOf c = { x with failed := true } ∧
      (c = .curator → u.power = .safe ∧ ∀ q, (u.queues.at q).en = false) ∧
      (c ≠ .curator → u.power = s.power ∧ u.queues = s.queues) ∧ ClaimsKept s u)) ∧
  (∀ (slot : Byte) (rec bart : List Byte) (s : State),
    let at_ := littleEndian 8 (fun i => rec.getD (16 + i) 0)
    ((s.ctlOf .curator).switching = true → exec (.accessionRecordWrite slot rec bart) s =
      .next { s with inputs := s.inputs ++ [(s.wall + 1, .accessionRecordWrite slot rec bart)] }) ∧
    let unmapped := (s.cats.at slot).leased = false ∨ (rec.getD 0 0).getLsbD 0 = false
    ((s.ctlOf .curator).switching = false → unmapped → exec (.accessionRecordWrite slot rec []) s =
      .next { s with accessions := s.accessions.put slot rec }) ∧
    ((s.ctlOf .curator).switching = false → ∃ u, exec (.accessionRecordWrite slot rec bart) s = .next u ∧
      u.accessions = s.accessions.put slot rec ∧ u = { s with
        accessions := u.accessions, far := u.far, farMarks := u.farMarks, farFlips := u.farFlips, free := u.free }) ∧
    ((s.ctlOf .curator).switching = false → unmapped → s.far.wf = true → at_ + bart.length ≤ 3 * 2 ^ 40 →
      ∃ u, exec (.accessionRecordWrite slot rec bart) s = .next u ∧ u.accessions = s.accessions.put slot rec ∧
        (∀ i b, bart[i]? = some b → u.far.read (at_ + i) = b) ∧
        (∀ a, (a < at_ ∨ at_ + bart.length ≤ a) → u.far.read a = s.far.read a) ∧
        u = { s with accessions := u.accessions, far := u.far, farMarks := u.farMarks, farFlips := u.farFlips })) ∧
  (∀ (packet args : List Byte) (s : State),
    (s.fleet = none ∨ s.fleetLaunch ≠ none → exec (.fleetLaunch packet args) s = .next s ∧
      exec (.managementSidebandMessage (.launch packet args)) s = .next s) ∧
    (s.power ≠ .running → exec (.fleetLaunch packet args) s = .next s ∧
      ∀ m, exec (.managementSidebandMessage m) s = .next s) ∧
    ∀ w n hf, s.power = .running → s.fleet = some (w, n, hf) → s.fleetLaunch = none → 2 ≤ n →
      let took := takeSlot s (packet.getD 2 0)
      let r := launchReason s none took.read packet args
      ∃ l, (r ≠ 0 → r ≠ 7 → l = []) ∧ exec (.fleetLaunch packet args) s = .next { s with
          fleetLaunch := some ⟨packet, args, took, none, r, 0, [], [], [], false, none, none⟩, fleetMsgs := s.fleetMsgs ++ [.peerRoutes l] } ∧
        exec (.managementSidebandMessage (.launch packet args)) s = exec (.fleetLaunch packet args) s) ∧
  ∀ s : State, s.power = .running →
    let message := fun m : FleetMessage => exec (.managementSidebandMessage m) s
    let docent := ∃ f < 84, (s.ctlOf (.docent f)).switching = true
    let wait := fun m : FleetMessage =>
      (.next { s with inputs := s.inputs ++ [(s.wall + 1, .managementSidebandMessage m)] } : Host.Outcome State Fault Refusal)
    (∀ w n lp hf,
      let good := 2 ≤ n ∧ n ≤ 64 ∧ w < n ∧ 512 ≤ lp ∧ lp ≤ 16384 ∧ lp % s.wheel = 0 ∧ ∀ p < 24, Config.peerLatency p + 256 ≤ lp
      (good → message (.form w n lp hf) = .next { s with
        forming := some ⟨w, n, lp, hf, []⟩, fleetMsgs := s.fleetMsgs ++ [.formAgreed w lp] }) ∧
      (¬ good → message (.form w n lp hf) = .next s) ∧
      ∀ l v, s.forming = some ⟨w, n, lp, hf, l⟩ →
        let heard := v ≠ w ∧ v < n ∧ v ∉ l
        (good → heard → l.length + 2 < n → message (.formAgreed v lp) = .next { s with forming := some ⟨w, n, lp, hf, v :: l⟩ }) ∧
        (good → heard → n ≤ l.length + 2 → message (.formAgreed v lp) = .next { s with
          forming := none, fleet := some (w, n, hf), lp := lp, throttle := min s.throttle 15000, fbAcc := 0 }) ∧
        (¬ good ∨ ¬ heard → message (.formAgreed v lp) = .next s) ∧
        ∀ other, other ≠ lp → message (.formAgreed v other) = .next s) ∧
    (∀ v lp, s.forming = none → (s.fleet = none → message (.formAgreed v lp) = wait (.formAgreed v lp)) ∧
      (s.fleet ≠ none → message (.formAgreed v lp) = .next s)) ∧
    (∀ v b ok, ((s.claimOf 0).fleet = false → message (.boundary v b ok) = .next s) ∧
      ((s.claimOf 0).fleet = true → (s.claimOf 0).parley = none → Runs s 0 → message (.boundary v b ok) =
        .next (s.setClaim 0 { s.claimOf 0 with answers := (s.claimOf 0).answers ++ [(v, b, ok)] })) ∧
      ∀ me n hf, (s.claimOf 0).fleet = true → (s.claimOf 0).parley = none → ¬ Runs s 0 → s.fleet = some (me, n, hf) → v ≠ me →
        (∀ a ∈ (s.claimOf 0).answers, ¬ (a.1 = me ∧ a.2.1 = b)) →
        let l := (s.claimOf 0).answers ++ [(v, b, ok), (me, b, true)]
        ∃ u, message (.boundary v b ok) = .next u ∧ u.fleetMsgs = s.fleetMsgs ++ [.boundary me b true] ∧ u.cores = s.cores ∧
          ((∀ f, ¬ PartsGoOn s 0 f) → (u.claimOf 0).answers = l ∧ u.mbox = s.mbox) ∧
          ∀ f, PartsGoOn s 0 f →
            ((∃ w < n, ∀ x, (w, b, x) ∉ l) → (u.claimOf 0).answers = l ∧ u.fleetLaunch = some f ∧ u.mbox = s.mbox) ∧
            ((∀ w < n, ∃ x, (w, b, x) ∈ l) → (∃ w, (w, b, false) ∈ l) → u.fleetLaunch = some f ∧ u.mbox = s.mbox) ∧
            ((∀ w < n, ∃ x, (w, b, x) ∈ l) → (∀ w, (w, b, false) ∉ l) → u.fleetLaunch = some { f with stands := some b } ∧
              (s.mbox.busy = true → s.mbox.held = none → s.mbox.hop = 7 → s.mbox.hargs.a0 = 0 →
                u.mbox = (answered s 0 b).mbox))) ∧
    (∀ ppm, (s.fleet = none → message (.cutProposed ppm) = .next s) ∧
      (∀ me n hf, s.fleet = some (me, n, hf) → message (.cutProposed ppm) =
        .next { s with fleetMsgs := s.fleetMsgs ++ [.cutAgreed me ppm] }) ∧
      (docent → message (.cutMade ppm) = wait (.cutMade ppm) ∧ ∀ w, message (.cutAgreed w ppm) = wait (.cutAgreed w ppm)) ∧
      (¬ docent → message (.cutMade ppm) = .next { s with baseCut := s.baseCut + ppm } ∧
        ∀ w me n hf l, s.fleet = some (me, n, hf) → s.cut = some (ppm, l) → w ∉ l →
          (l.length + 2 < n → message (.cutAgreed w ppm) = .next { s with cut := some (ppm, w :: l) }) ∧
          (n ≤ l.length + 2 → message (.cutAgreed w ppm) = .next { s with
            cut := none, baseCut := s.baseCut + ppm, fleetMsgs := s.fleetMsgs ++ [.cutMade ppm] }))) ∧
    (∀ l f me n hf, s.fleet = some (me, n, hf) →
      (s.fleetLaunch = none → message (.peerRoutes l) = wait (.peerRoutes l)) ∧
      (s.fleetLaunch = some f → (∀ v ∈ f.verdicts, v.1 ≠ me) →
        let f' := { f with told := f.told + 1, incoming := f.incoming ++ l }
        let parts := f.took.read
        let matched := ∀ r ∈ f'.incoming, peerMatched (installClaim s parts f.packet f.args) parts.acc.claim r = true
        (f.told + 2 < n → message (.peerRoutes l) = .next { s with fleetLaunch := some f' }) ∧
        (n ≤ f.told + 2 → f.verdicts.length + 1 < n → ∃ r, message (.peerRoutes l) = .next { s with
            fleetLaunch := some { f' with verdicts := f.verdicts ++ [(me, r)] }, fleetMsgs := s.fleetMsgs ++ [.verdict me r] } ∧
          (((f.own = 0 ∨ f.own = 7) ∧ ¬ matched) → r = 10) ∧ (((f.own ≠ 0 ∧ f.own ≠ 7) ∨ matched) → r = f.own)))) ∧
    (∀ w r f me n hf, s.fleetLaunch = some f → s.fleet = some (me, n, hf) → f.started = false → (∀ v ∈ f.verdicts, v.1 ≠ w) →
      let f' := { f with verdicts := f.verdicts ++ [(w, r)] }
      (f.verdicts.length + 1 < n → message (.verdict w r) = .next { s with fleetLaunch := some f' }) ∧
      (n ≤ f.verdicts.length + 1 → (∀ v ∈ f'.verdicts, v.2 = 0) → ∃ u, message (.verdict w r) = .next u ∧
        u.fleetLaunch = some { f' with started := true } ∧
        let a := parseAcc f.took.record
        let c := u.claimOf (a.fx0 + 12 * a.fy0)
        c.run = .running ∧ c.tick = a.tstart ∧ c.peerIn = f.incoming ∧ c.bart = f.took.barriers) ∧
      (n ≤ f.verdicts.length + 1 → (∃ v ∈ f'.verdicts, v.2 ≠ 0) → ∃ u, message (.verdict w r) = .next u ∧
        u.fleetLaunch = none ∧ u.cores = s.cores ∧ u.claims = s.claims ∧
        ∀ v ∈ f'.verdicts, v.2 ≠ 0 → (∀ o ∈ f'.verdicts, o.2 ≠ 0 → o ≠ v → v.1 < o.1) → me = 0 →
          Completed s u (packetField f.packet 16 8) (packetField f.packet 8 8)
            [2 + v.2 * 2 ^ 8 + packetField f.packet 4 4 * 2 ^ 32, 0, 0, 0, 0, 0, 0, 0])) ∧
    (∀ w kind fault ftick fdata fin tlmin f me n hf, s.fleetLaunch = some f → s.fleet = some (me, n, hf) →
      let l := f.parts ++ [⟨w, kind, fault, ftick, fdata, fin, tlmin⟩]
      let m := FleetMessage.partEnded w kind fault ftick fdata fin tlmin
      (f.parts.length + 1 < n → message m = .next { s with fleetLaunch := some { f with parts := l } }) ∧
      (me = 0 → f.started = true → f.parts.length + 1 = n → ∃ u last tl, message m = .next u ∧ u.fleetLaunch = none ∧
        u.fleetMsgs = s.fleetMsgs ++ [.launchEnded] ∧ (s.mbox.busy = true → s.mbox.held = none → s.mbox.hargs.a0 = 0 →
          (s.mbox.hop = 9 → u.mbox = (answered s 0 last).mbox) ∧ (s.mbox.hop = 7 → u.mbox = (answered s 1 0).mbox)) ∧
        (∀ p ∈ l, p.endTick ≤ last) ∧ (∃ p ∈ l, p.endTick = last) ∧ ((∀ p ∈ l, p.tlmin = none) → tl = 0) ∧
        (∀ p ∈ l, ∀ k, p.tlmin = some k → tl ≤ k) ∧ ((∃ p ∈ l, p.tlmin ≠ none) → ∃ p ∈ l, p.tlmin = some tl) ∧
        ∀ p ∈ l, (∀ q ∈ l, q ≠ p → kindRank p.kind < kindRank q.kind ∨ (kindRank p.kind = kindRank q.kind ∧ p.wafer < q.wafer)) →
          Completed s u (packetField f.packet 16 8) (packetField f.packet 8 8)
            [p.kind + packetField f.packet 4 4 * 2 ^ 32, (s.claimOf 0).start, last, p.fault.toNat, p.ftick.toNat, p.fdata.toNat,
              if p.kind = 4 ∨ p.kind = 5 then p.endTick else 0, tl])) ∧
    (∀ f, s.fleetLaunch = some f →
      let c := s.claimOf 0
      (f.started = true → c.wafer ≠ 0 → (∃ n sat, c.run = .ended n sat) → ∃ u, message .launchEnded = .next u ∧
        u.fleetLaunch = none ∧ u.cores = s.cores ∧ u.claims = s.claims ∧ u.far = s.far) ∧
      ((f.started = false ∨ c.wafer = 0 ∨ ∀ n sat, c.run ≠ .ended n sat) → message .launchEnded = .next s) ∧
      (f.started = true → c.fleet = true → Runs s 0 → (c.wafer ≠ 0 ∨ ∃ n hf, s.fleet = some (0, n, hf) ∧ f.parts.length + 1 < n) →
        ∃ u kind tl, ∃ a b d : BitVec 64, exec (.claimEvaluation 0) s = .next u ∧ (kind = 0 ∨ kind = 1) ∧
          (u.claimOf 0).run = .ended c.tick (kind == 0) ∧
          [a.toNat, b.toNat, d.toNat] = (primaryFault c).map (· % 2 ^ 64) ∧ (tl = none ↔ c.binds = []) ∧
          (∀ k, tl = some k → LowestTimeline s c k) ∧ u.far = s.far ∧
          (c.wafer ≠ 0 → u.fleetLaunch = some { f with gone := some s.wall } ∧
            u.fleetMsgs = s.fleetMsgs ++ [.partEnded c.wafer kind a b d c.tick tl]) ∧
          (c.wafer = 0 → u.fleetLaunch = some { f with parts := f.parts ++ [⟨0, kind, a, b, d, c.tick, tl⟩], gone := some s.wall } ∧
            u.fleetMsgs = s.fleetMsgs) ∧
          ∀ x y, 12 * c.fx0 ≤ x → x < 12 * (c.fx0 + c.fw) → 12 * c.fy0 ≤ y → y < 12 * (c.fy0 + c.fh) →
            (claimAt u x y).isSome = true)) ∧
    ∀ tick, ((s.claimOf 0).fleet = false → ∀ op, message (.request op tick) = .next s) ∧
      ((s.claimOf 0).fleet = true → Runs s 0 →
        (s.now 0 < tick → ∀ op, ∃ e, message (.request op tick) = .next { s with agenda := s.agenda ++ [e] } ∧ e.claim = 0 ∧
          e.tick = tick ∧ e.act = .ev (.managementSidebandMessage (.request op tick))) ∧
        (tick ≤ s.now 0 → message (.request 7 tick) = .next (s.setClaim 0 { s.claimOf 0 with preempt := true })))

/-- R24, R281 and spec/95: a task of the present tick that is an event runs the event row's meaning; with nothing left of the tick,
wall time moves on by one step: the count of every running claim that no late landing holds and that waits for no other wafer at a
boundary is one higher, and with it the wheel position of its tiles' routers (R266); every other claim's count is as it was, and no
strand, no far byte and no byte of a bank changes. A late landing that has reached its limit is lost. The step of wall time, the late
landing that holds a count and the count that stands for the other wafers are the model's own form (log entries 3, 19, 28, 58). -/
def Obligations.EventSteps : Prop :=
  (∀ (s : State) (rest : List Task) (e : Event), s.todo = .ev e :: rest → RunsEvent s rest e) ∧
  ∀ s : State, s.todo = [] →
    let live := fun k => Runs s k ∧ (s.claimOf k).frozen = none ∧ (s.claimOf k).parley = none
    (∃ u, step s = .next u ∧ u.wall = s.wall + 1 ∧ u.cores = s.cores ∧ u.far = s.far ∧ (∀ t, (u.tileOf t).sram = (s.tileOf t).sram) ∧
      (∀ k, ¬ live k → (u.claimOf k).tick = (s.claimOf k).tick ∧ (u.claimOf k).run = (s.claimOf k).run) ∧
      ((s.claims.map fun p => p.1).Nodup →
        (∀ k c, (k, c) ∈ s.claims → live k → (u.claimOf k).tick = c.tick + 1 ∧ Task.issues k ∈ u.todo) ∧
        ((∀ p ∈ s.claims, ∀ z, p.2.frozen = some z → z.tile.claim = p.1) →
          ∀ k c z, (k, c) ∈ s.claims → Runs s k → c.parley = none → c.frozen = some z → z.limit ≤ s.wall + 1 →
            Task.ev (.landingLost z.tile z.tag (s.now k)) ∈ u.todo) ∧
        ((∀ p ∈ s.claims, p.2.frozen = none) → u.agenda = s.agenda ∧
          ∀ t x, (t, x) ∈ s.tiles →
            ((∃ c, (t.claim, c) ∈ s.claims) → live t.claim →
              u.tileOf t = { s.tileOf t with wheel := BitVec.ofNat 7 (((s.tileOf t).wheel.toNat + 1) % s.wheel) }) ∧
            (¬ live t.claim → u.tileOf t = s.tileOf t))))

/-! ## The translation of far addresses (spec/11) -/

/-- R292 to R297, R312: the translation of n far bytes for a strand, all of one 64 KiB page as a line is. A byte in the heap window lies
at `cr.heap.base` plus its offset, and its granule's tag is checked; any other byte lies in the page that the claim's table maps it
to, which must be declared, permit the access and, with TE = 1, carry the tag. The first failure in the order lease (0x40),
permission (0x42), tag (0x41) is the outcome. R295: a page that the engine's TLB holds for the claim is used as it is held, but that a
write whose entry has W = 0 walks the table once more; a miss walks and fills. Where several declared ranges hold a byte, one of them
must permit the access, which is the model's reading (log entry 37); whether an engine still holds an entry is a free value, and that a
page is looked up once for a line is the model's reading (log entries 5 and 18). -/
def Obligations.FarTranslation : Prop :=
  ∀ (s : State) (st : StrandId) (e n : Nat) (write : Bool) (far : Quad), s.farFlips = [] →
    let cl := s.claimOf st.tile.claim
    let core := s.coreOf st
    let v := fun i : Nat => (far.toNat + i) % 2 ^ 56
    (∀ i < n, v i / 2 ^ 16 = v 0 / 2 ^ 16) → cl.ptroot % 2 ^ 17 = 0 →
    let window := fun i => core.heapOff.toNat ≤ v i ∧ v i < core.heapOff.toNat + core.heapLimit.toNat
    let walked := fun i => if cl.ptroot + 2 ^ 17 ≤ 3 * 2 ^ 40
      then pageLeaf (fun a => littleEndian 8 fun k => s.far.read (a + k)) (v i) tableLevels cl.ptroot else none
    let held := s.tlb.find? fun x => x.engine == e && x.claim == st.tile.claim && x.page == v 0 / 2 ^ 16 * 2 ^ 16 / 2 ^ x.size
    let used := held.filter fun x => !Config.tlbDrops s.free && !(write && x.leaf.toNat / 8 % 2 == 0)
    let leaf := fun i => if 2 ^ 48 ≤ v i then none
      else match used with | some x => some (x.size, x.leaf.toNat) | none => walked i
    let phys := fun i => if window i then core.heapBase.toNat + (v i - core.heapOff.toNat)
      else match leaf i with | some (low, x) => x / 2 ^ 8 % 2 ^ 34 * 2 ^ 8 + v i % 2 ^ low | none => 0
    let holds := fun i (r : FarRange) => r ∈ cl.ranges ∧ r.addr ≤ v i ∧ v i < r.addr + r.len
    let outside := fun i => if window i then 3 * 2 ^ 40 ≤ phys i else leaf i = none ∨ ∀ r, ¬ holds i r
    let denied := fun i => ¬ window i ∧ ((∀ low x, leaf i = some (low, x) → x / (if write then 8 else 4) % 2 = 0) ∨
      ∀ r, holds i r → (if write then r.wr else r.rd) = false)
    let mismatch := fun i => (window i ∨ ∃ low x, leaf i = some (low, x) ∧ x / 16 % 2 = 1) ∧
      (find s.farTags (phys i / 32)).getD 0 ≠ far.extractLsb' 56 4
    let r := (translate s st e write far n).2
    ((∃ i < n, outside i) → r = .error 0x40) ∧
    ((∀ i < n, ¬ outside i) → (∃ i < n, denied i) → r = .error 0x42) ∧
    ((∀ i < n, ¬ outside i ∧ ¬ denied i) → (∃ i < n, mismatch i) → r = .error 0x41) ∧
    ((∀ i < n, ¬ outside i ∧ ¬ denied i ∧ ¬ mismatch i) → r = .ok ((List.range n).map phys)) ∧
    (∀ i low x, i < n → ¬ window i → v i < 2 ^ 48 → used = none → walked i = some (low, x) →
      (translate s st e write far n).1.tlb.head? = some ⟨e, st.tile.claim, v 0 / 2 ^ 16 * 2 ^ 16 / 2 ^ low, low, BitVec.ofNat 64 x⟩)
end

