-- ==== Sys2Proof/Laws/State.lean ====
section
/-!
SUPPORT. One lemma per field per update of State, true by rfl, and read-after-write for its tables and registers.
-/

namespace Sys2Proof.Machine

/-! ## Fields under the updates -/

@[simp] theorem State.setCore_tiles (s : State) (i : StrandId) (x : Core) : (s.setCore i x).tiles = s.tiles := rfl
@[simp] theorem State.setCore_claims (s : State) (i : StrandId) (x : Core) : (s.setCore i x).claims = s.claims := rfl
@[simp] theorem State.setCore_agenda (s : State) (i : StrandId) (x : Core) : (s.setCore i x).agenda = s.agenda := rfl
@[simp] theorem State.setCore_ctxs (s : State) (i : StrandId) (x : Core) : (s.setCore i x).ctxs = s.ctxs := rfl
@[simp] theorem State.setCore_tlb (s : State) (i : StrandId) (x : Core) : (s.setCore i x).tlb = s.tlb := rfl
@[simp] theorem State.setCore_far (s : State) (i : StrandId) (x : Core) : (s.setCore i x).far = s.far := rfl
@[simp] theorem State.setCore_farMarks (s : State) (i : StrandId) (x : Core) : (s.setCore i x).farMarks = s.farMarks := rfl
@[simp] theorem State.setCore_farFlips (s : State) (i : StrandId) (x : Core) : (s.setCore i x).farFlips = s.farFlips := rfl
@[simp] theorem State.setCore_farTags (s : State) (i : StrandId) (x : Core) : (s.setCore i x).farTags = s.farTags := rfl
@[simp] theorem State.setCore_queues (s : State) (i : StrandId) (x : Core) : (s.setCore i x).queues = s.queues := rfl
@[simp] theorem State.setCore_turn (s : State) (i : StrandId) (x : Core) : (s.setCore i x).turn = s.turn := rfl
@[simp] theorem State.setCore_mbox (s : State) (i : StrandId) (x : Core) : (s.setCore i x).mbox = s.mbox := rfl
@[simp] theorem State.setCore_cats (s : State) (i : StrandId) (x : Core) : (s.setCore i x).cats = s.cats := rfl
@[simp] theorem State.setCore_accessions (s : State) (i : StrandId) (x : Core) : (s.setCore i x).accessions = s.accessions := rfl
@[simp] theorem State.setCore_reply (s : State) (i : StrandId) (x : Core) : (s.setCore i x).reply = s.reply := rfl
@[simp] theorem State.setCore_meas (s : State) (i : StrandId) (x : Core) : (s.setCore i x).meas = s.meas := rfl
@[simp] theorem State.setCore_startRec (s : State) (i : StrandId) (x : Core) : (s.setCore i x).startRec = s.startRec := rfl
@[simp] theorem State.setCore_power (s : State) (i : StrandId) (x : Core) : (s.setCore i x).power = s.power := rfl
@[simp] theorem State.setCore_ctls (s : State) (i : StrandId) (x : Core) : (s.setCore i x).ctls = s.ctls := rfl
@[simp] theorem State.setCore_curator (s : State) (i : StrandId) (x : Core) : (s.setCore i x).curator = s.curator := rfl
@[simp] theorem State.setCore_docents (s : State) (i : StrandId) (x : Core) : (s.setCore i x).docents = s.docents := rfl
@[simp] theorem State.setCore_findings (s : State) (i : StrandId) (x : Core) : (s.setCore i x).findings = s.findings := rfl
@[simp] theorem State.setCore_shifts (s : State) (i : StrandId) (x : Core) : (s.setCore i x).shifts = s.shifts := rfl
@[simp] theorem State.setCore_retiredTiles (s : State) (i : StrandId) (x : Core) : (s.setCore i x).retiredTiles = s.retiredTiles := rfl
@[simp] theorem State.setCore_detours (s : State) (i : StrandId) (x : Core) : (s.setCore i x).detours = s.detours := rfl
@[simp] theorem State.setCore_failedBypass (s : State) (i : StrandId) (x : Core) : (s.setCore i x).failedBypass = s.failedBypass := rfl
@[simp] theorem State.setCore_badFields (s : State) (i : StrandId) (x : Core) : (s.setCore i x).badFields = s.badFields := rfl
@[simp] theorem State.setCore_lowRail (s : State) (i : StrandId) (x : Core) : (s.setCore i x).lowRail = s.lowRail := rfl
@[simp] theorem State.setCore_lh (s : State) (i : StrandId) (x : Core) : (s.setCore i x).lh = s.lh := rfl
@[simp] theorem State.setCore_wheel (s : State) (i : StrandId) (x : Core) : (s.setCore i x).wheel = s.wheel := rfl
@[simp] theorem State.setCore_replayLog2 (s : State) (i : StrandId) (x : Core) : (s.setCore i x).replayLog2 = s.replayLog2 := rfl
@[simp] theorem State.setCore_lp (s : State) (i : StrandId) (x : Core) : (s.setCore i x).lp = s.lp := rfl
@[simp] theorem State.setCore_db4 (s : State) (i : StrandId) (x : Core) : (s.setCore i x).db4 = s.db4 := rfl
@[simp] theorem State.setCore_slew (s : State) (i : StrandId) (x : Core) : (s.setCore i x).slew = s.slew := rfl
@[simp] theorem State.setCore_waferTrim (s : State) (i : StrandId) (x : Core) : (s.setCore i x).waferTrim = s.waferTrim := rfl
@[simp] theorem State.setCore_waferInt (s : State) (i : StrandId) (x : Core) : (s.setCore i x).waferInt = s.waferInt := rfl
@[simp] theorem State.setCore_fbAcc (s : State) (i : StrandId) (x : Core) : (s.setCore i x).fbAcc = s.fbAcc := rfl
@[simp] theorem State.setCore_throttle (s : State) (i : StrandId) (x : Core) : (s.setCore i x).throttle = s.throttle := rfl
@[simp] theorem State.setCore_baseCut (s : State) (i : StrandId) (x : Core) : (s.setCore i x).baseCut = s.baseCut := rfl
@[simp] theorem State.setCore_cut (s : State) (i : StrandId) (x : Core) : (s.setCore i x).cut = s.cut := rfl
@[simp] theorem State.setCore_tests (s : State) (i : StrandId) (x : Core) : (s.setCore i x).tests = s.tests := rfl
@[simp] theorem State.setCore_fleet (s : State) (i : StrandId) (x : Core) : (s.setCore i x).fleet = s.fleet := rfl
@[simp] theorem State.setCore_forming (s : State) (i : StrandId) (x : Core) : (s.setCore i x).forming = s.forming := rfl
@[simp] theorem State.setCore_fleetLaunch (s : State) (i : StrandId) (x : Core) : (s.setCore i x).fleetLaunch = s.fleetLaunch := rfl
@[simp] theorem State.setCore_fleetMsgs (s : State) (i : StrandId) (x : Core) : (s.setCore i x).fleetMsgs = s.fleetMsgs := rfl
@[simp] theorem State.setCore_peerOut (s : State) (i : StrandId) (x : Core) : (s.setCore i x).peerOut = s.peerOut := rfl
@[simp] theorem State.setCore_peerHolds (s : State) (i : StrandId) (x : Core) : (s.setCore i x).peerHolds = s.peerHolds := rfl
@[simp] theorem State.setCore_peerLambda (s : State) (i : StrandId) (x : Core) : (s.setCore i x).peerLambda = s.peerLambda := rfl
@[simp] theorem State.setCore_spdm (s : State) (i : StrandId) (x : Core) : (s.setCore i x).spdm = s.spdm := rfl
@[simp] theorem State.setCore_wall (s : State) (i : StrandId) (x : Core) : (s.setCore i x).wall = s.wall := rfl
@[simp] theorem State.setCore_todo (s : State) (i : StrandId) (x : Core) : (s.setCore i x).todo = s.todo := rfl
@[simp] theorem State.setCore_inputs (s : State) (i : StrandId) (x : Core) : (s.setCore i x).inputs = s.inputs := rfl
@[simp] theorem State.setCore_focus (s : State) (i : StrandId) (x : Core) : (s.setCore i x).focus = s.focus := rfl
@[simp] theorem State.setCore_note (s : State) (i : StrandId) (x : Core) : (s.setCore i x).note = s.note := rfl
@[simp] theorem State.setCore_free (s : State) (i : StrandId) (x : Core) : (s.setCore i x).free = s.free := rfl

@[simp] theorem State.setTile_cores (s : State) (i : TileId) (x : Tile) : (s.setTile i x).cores = s.cores := rfl
@[simp] theorem State.setTile_claims (s : State) (i : TileId) (x : Tile) : (s.setTile i x).claims = s.claims := rfl
@[simp] theorem State.setTile_agenda (s : State) (i : TileId) (x : Tile) : (s.setTile i x).agenda = s.agenda := rfl
@[simp] theorem State.setTile_ctxs (s : State) (i : TileId) (x : Tile) : (s.setTile i x).ctxs = s.ctxs := rfl
@[simp] theorem State.setTile_tlb (s : State) (i : TileId) (x : Tile) : (s.setTile i x).tlb = s.tlb := rfl
@[simp] theorem State.setTile_far (s : State) (i : TileId) (x : Tile) : (s.setTile i x).far = s.far := rfl
@[simp] theorem State.setTile_farMarks (s : State) (i : TileId) (x : Tile) : (s.setTile i x).farMarks = s.farMarks := rfl
@[simp] theorem State.setTile_farFlips (s : State) (i : TileId) (x : Tile) : (s.setTile i x).farFlips = s.farFlips := rfl
@[simp] theorem State.setTile_farTags (s : State) (i : TileId) (x : Tile) : (s.setTile i x).farTags = s.farTags := rfl
@[simp] theorem State.setTile_queues (s : State) (i : TileId) (x : Tile) : (s.setTile i x).queues = s.queues := rfl
@[simp] theorem State.setTile_turn (s : State) (i : TileId) (x : Tile) : (s.setTile i x).turn = s.turn := rfl
@[simp] theorem State.setTile_mbox (s : State) (i : TileId) (x : Tile) : (s.setTile i x).mbox = s.mbox := rfl
@[simp] theorem State.setTile_cats (s : State) (i : TileId) (x : Tile) : (s.setTile i x).cats = s.cats := rfl
@[simp] theorem State.setTile_accessions (s : State) (i : TileId) (x : Tile) : (s.setTile i x).accessions = s.accessions := rfl
@[simp] theorem State.setTile_reply (s : State) (i : TileId) (x : Tile) : (s.setTile i x).reply = s.reply := rfl
@[simp] theorem State.setTile_meas (s : State) (i : TileId) (x : Tile) : (s.setTile i x).meas = s.meas := rfl
@[simp] theorem State.setTile_startRec (s : State) (i : TileId) (x : Tile) : (s.setTile i x).startRec = s.startRec := rfl
@[simp] theorem State.setTile_power (s : State) (i : TileId) (x : Tile) : (s.setTile i x).power = s.power := rfl
@[simp] theorem State.setTile_ctls (s : State) (i : TileId) (x : Tile) : (s.setTile i x).ctls = s.ctls := rfl
@[simp] theorem State.setTile_curator (s : State) (i : TileId) (x : Tile) : (s.setTile i x).curator = s.curator := rfl
@[simp] theorem State.setTile_docents (s : State) (i : TileId) (x : Tile) : (s.setTile i x).docents = s.docents := rfl
@[simp] theorem State.setTile_findings (s : State) (i : TileId) (x : Tile) : (s.setTile i x).findings = s.findings := rfl
@[simp] theorem State.setTile_shifts (s : State) (i : TileId) (x : Tile) : (s.setTile i x).shifts = s.shifts := rfl
@[simp] theorem State.setTile_retiredTiles (s : State) (i : TileId) (x : Tile) : (s.setTile i x).retiredTiles = s.retiredTiles := rfl
@[simp] theorem State.setTile_detours (s : State) (i : TileId) (x : Tile) : (s.setTile i x).detours = s.detours := rfl
@[simp] theorem State.setTile_failedBypass (s : State) (i : TileId) (x : Tile) : (s.setTile i x).failedBypass = s.failedBypass := rfl
@[simp] theorem State.setTile_badFields (s : State) (i : TileId) (x : Tile) : (s.setTile i x).badFields = s.badFields := rfl
@[simp] theorem State.setTile_lowRail (s : State) (i : TileId) (x : Tile) : (s.setTile i x).lowRail = s.lowRail := rfl
@[simp] theorem State.setTile_lh (s : State) (i : TileId) (x : Tile) : (s.setTile i x).lh = s.lh := rfl
@[simp] theorem State.setTile_wheel (s : State) (i : TileId) (x : Tile) : (s.setTile i x).wheel = s.wheel := rfl
@[simp] theorem State.setTile_replayLog2 (s : State) (i : TileId) (x : Tile) : (s.setTile i x).replayLog2 = s.replayLog2 := rfl
@[simp] theorem State.setTile_lp (s : State) (i : TileId) (x : Tile) : (s.setTile i x).lp = s.lp := rfl
@[simp] theorem State.setTile_db4 (s : State) (i : TileId) (x : Tile) : (s.setTile i x).db4 = s.db4 := rfl
@[simp] theorem State.setTile_slew (s : State) (i : TileId) (x : Tile) : (s.setTile i x).slew = s.slew := rfl
@[simp] theorem State.setTile_waferTrim (s : State) (i : TileId) (x : Tile) : (s.setTile i x).waferTrim = s.waferTrim := rfl
@[simp] theorem State.setTile_waferInt (s : State) (i : TileId) (x : Tile) : (s.setTile i x).waferInt = s.waferInt := rfl
@[simp] theorem State.setTile_fbAcc (s : State) (i : TileId) (x : Tile) : (s.setTile i x).fbAcc = s.fbAcc := rfl
@[simp] theorem State.setTile_throttle (s : State) (i : TileId) (x : Tile) : (s.setTile i x).throttle = s.throttle := rfl
@[simp] theorem State.setTile_baseCut (s : State) (i : TileId) (x : Tile) : (s.setTile i x).baseCut = s.baseCut := rfl
@[simp] theorem State.setTile_cut (s : State) (i : TileId) (x : Tile) : (s.setTile i x).cut = s.cut := rfl
@[simp] theorem State.setTile_tests (s : State) (i : TileId) (x : Tile) : (s.setTile i x).tests = s.tests := rfl
@[simp] theorem State.setTile_fleet (s : State) (i : TileId) (x : Tile) : (s.setTile i x).fleet = s.fleet := rfl
@[simp] theorem State.setTile_forming (s : State) (i : TileId) (x : Tile) : (s.setTile i x).forming = s.forming := rfl
@[simp] theorem State.setTile_fleetLaunch (s : State) (i : TileId) (x : Tile) : (s.setTile i x).fleetLaunch = s.fleetLaunch := rfl
@[simp] theorem State.setTile_fleetMsgs (s : State) (i : TileId) (x : Tile) : (s.setTile i x).fleetMsgs = s.fleetMsgs := rfl
@[simp] theorem State.setTile_peerOut (s : State) (i : TileId) (x : Tile) : (s.setTile i x).peerOut = s.peerOut := rfl
@[simp] theorem State.setTile_peerHolds (s : State) (i : TileId) (x : Tile) : (s.setTile i x).peerHolds = s.peerHolds := rfl
@[simp] theorem State.setTile_peerLambda (s : State) (i : TileId) (x : Tile) : (s.setTile i x).peerLambda = s.peerLambda := rfl
@[simp] theorem State.setTile_spdm (s : State) (i : TileId) (x : Tile) : (s.setTile i x).spdm = s.spdm := rfl
@[simp] theorem State.setTile_wall (s : State) (i : TileId) (x : Tile) : (s.setTile i x).wall = s.wall := rfl
@[simp] theorem State.setTile_todo (s : State) (i : TileId) (x : Tile) : (s.setTile i x).todo = s.todo := rfl
@[simp] theorem State.setTile_inputs (s : State) (i : TileId) (x : Tile) : (s.setTile i x).inputs = s.inputs := rfl
@[simp] theorem State.setTile_focus (s : State) (i : TileId) (x : Tile) : (s.setTile i x).focus = s.focus := rfl
@[simp] theorem State.setTile_note (s : State) (i : TileId) (x : Tile) : (s.setTile i x).note = s.note := rfl
@[simp] theorem State.setTile_free (s : State) (i : TileId) (x : Tile) : (s.setTile i x).free = s.free := rfl

@[simp] theorem State.setClaim_cores (s : State) (i : Nat) (x : Claim) : (s.setClaim i x).cores = s.cores := rfl
@[simp] theorem State.setClaim_tiles (s : State) (i : Nat) (x : Claim) : (s.setClaim i x).tiles = s.tiles := rfl
@[simp] theorem State.setClaim_agenda (s : State) (i : Nat) (x : Claim) : (s.setClaim i x).agenda = s.agenda := rfl
@[simp] theorem State.setClaim_ctxs (s : State) (i : Nat) (x : Claim) : (s.setClaim i x).ctxs = s.ctxs := rfl
@[simp] theorem State.setClaim_tlb (s : State) (i : Nat) (x : Claim) : (s.setClaim i x).tlb = s.tlb := rfl
@[simp] theorem State.setClaim_far (s : State) (i : Nat) (x : Claim) : (s.setClaim i x).far = s.far := rfl
@[simp] theorem State.setClaim_farMarks (s : State) (i : Nat) (x : Claim) : (s.setClaim i x).farMarks = s.farMarks := rfl
@[simp] theorem State.setClaim_farFlips (s : State) (i : Nat) (x : Claim) : (s.setClaim i x).farFlips = s.farFlips := rfl
@[simp] theorem State.setClaim_farTags (s : State) (i : Nat) (x : Claim) : (s.setClaim i x).farTags = s.farTags := rfl
@[simp] theorem State.setClaim_queues (s : State) (i : Nat) (x : Claim) : (s.setClaim i x).queues = s.queues := rfl
@[simp] theorem State.setClaim_turn (s : State) (i : Nat) (x : Claim) : (s.setClaim i x).turn = s.turn := rfl
@[simp] theorem State.setClaim_mbox (s : State) (i : Nat) (x : Claim) : (s.setClaim i x).mbox = s.mbox := rfl
@[simp] theorem State.setClaim_cats (s : State) (i : Nat) (x : Claim) : (s.setClaim i x).cats = s.cats := rfl
@[simp] theorem State.setClaim_accessions (s : State) (i : Nat) (x : Claim) : (s.setClaim i x).accessions = s.accessions := rfl
@[simp] theorem State.setClaim_reply (s : State) (i : Nat) (x : Claim) : (s.setClaim i x).reply = s.reply := rfl
@[simp] theorem State.setClaim_meas (s : State) (i : Nat) (x : Claim) : (s.setClaim i x).meas = s.meas := rfl
@[simp] theorem State.setClaim_startRec (s : State) (i : Nat) (x : Claim) : (s.setClaim i x).startRec = s.startRec := rfl
@[simp] theorem State.setClaim_power (s : State) (i : Nat) (x : Claim) : (s.setClaim i x).power = s.power := rfl
@[simp] theorem State.setClaim_ctls (s : State) (i : Nat) (x : Claim) : (s.setClaim i x).ctls = s.ctls := rfl
@[simp] theorem State.setClaim_curator (s : State) (i : Nat) (x : Claim) : (s.setClaim i x).curator = s.curator := rfl
@[simp] theorem State.setClaim_docents (s : State) (i : Nat) (x : Claim) : (s.setClaim i x).docents = s.docents := rfl
@[simp] theorem State.setClaim_findings (s : State) (i : Nat) (x : Claim) : (s.setClaim i x).findings = s.findings := rfl
@[simp] theorem State.setClaim_shifts (s : State) (i : Nat) (x : Claim) : (s.setClaim i x).shifts = s.shifts := rfl
@[simp] theorem State.setClaim_retiredTiles (s : State) (i : Nat) (x : Claim) : (s.setClaim i x).retiredTiles = s.retiredTiles := rfl
@[simp] theorem State.setClaim_detours (s : State) (i : Nat) (x : Claim) : (s.setClaim i x).detours = s.detours := rfl
@[simp] theorem State.setClaim_failedBypass (s : State) (i : Nat) (x : Claim) : (s.setClaim i x).failedBypass = s.failedBypass := rfl
@[simp] theorem State.setClaim_badFields (s : State) (i : Nat) (x : Claim) : (s.setClaim i x).badFields = s.badFields := rfl
@[simp] theorem State.setClaim_lowRail (s : State) (i : Nat) (x : Claim) : (s.setClaim i x).lowRail = s.lowRail := rfl
@[simp] theorem State.setClaim_lh (s : State) (i : Nat) (x : Claim) : (s.setClaim i x).lh = s.lh := rfl
@[simp] theorem State.setClaim_wheel (s : State) (i : Nat) (x : Claim) : (s.setClaim i x).wheel = s.wheel := rfl
@[simp] theorem State.setClaim_replayLog2 (s : State) (i : Nat) (x : Claim) : (s.setClaim i x).replayLog2 = s.replayLog2 := rfl
@[simp] theorem State.setClaim_lp (s : State) (i : Nat) (x : Claim) : (s.setClaim i x).lp = s.lp := rfl
@[simp] theorem State.setClaim_db4 (s : State) (i : Nat) (x : Claim) : (s.setClaim i x).db4 = s.db4 := rfl
@[simp] theorem State.setClaim_slew (s : State) (i : Nat) (x : Claim) : (s.setClaim i x).slew = s.slew := rfl
@[simp] theorem State.setClaim_waferTrim (s : State) (i : Nat) (x : Claim) : (s.setClaim i x).waferTrim = s.waferTrim := rfl
@[simp] theorem State.setClaim_waferInt (s : State) (i : Nat) (x : Claim) : (s.setClaim i x).waferInt = s.waferInt := rfl
@[simp] theorem State.setClaim_fbAcc (s : State) (i : Nat) (x : Claim) : (s.setClaim i x).fbAcc = s.fbAcc := rfl
@[simp] theorem State.setClaim_throttle (s : State) (i : Nat) (x : Claim) : (s.setClaim i x).throttle = s.throttle := rfl
@[simp] theorem State.setClaim_baseCut (s : State) (i : Nat) (x : Claim) : (s.setClaim i x).baseCut = s.baseCut := rfl
@[simp] theorem State.setClaim_cut (s : State) (i : Nat) (x : Claim) : (s.setClaim i x).cut = s.cut := rfl
@[simp] theorem State.setClaim_tests (s : State) (i : Nat) (x : Claim) : (s.setClaim i x).tests = s.tests := rfl
@[simp] theorem State.setClaim_fleet (s : State) (i : Nat) (x : Claim) : (s.setClaim i x).fleet = s.fleet := rfl
@[simp] theorem State.setClaim_forming (s : State) (i : Nat) (x : Claim) : (s.setClaim i x).forming = s.forming := rfl
@[simp] theorem State.setClaim_fleetLaunch (s : State) (i : Nat) (x : Claim) : (s.setClaim i x).fleetLaunch = s.fleetLaunch := rfl
@[simp] theorem State.setClaim_fleetMsgs (s : State) (i : Nat) (x : Claim) : (s.setClaim i x).fleetMsgs = s.fleetMsgs := rfl
@[simp] theorem State.setClaim_peerOut (s : State) (i : Nat) (x : Claim) : (s.setClaim i x).peerOut = s.peerOut := rfl
@[simp] theorem State.setClaim_peerHolds (s : State) (i : Nat) (x : Claim) : (s.setClaim i x).peerHolds = s.peerHolds := rfl
@[simp] theorem State.setClaim_peerLambda (s : State) (i : Nat) (x : Claim) : (s.setClaim i x).peerLambda = s.peerLambda := rfl
@[simp] theorem State.setClaim_spdm (s : State) (i : Nat) (x : Claim) : (s.setClaim i x).spdm = s.spdm := rfl
@[simp] theorem State.setClaim_wall (s : State) (i : Nat) (x : Claim) : (s.setClaim i x).wall = s.wall := rfl
@[simp] theorem State.setClaim_todo (s : State) (i : Nat) (x : Claim) : (s.setClaim i x).todo = s.todo := rfl
@[simp] theorem State.setClaim_inputs (s : State) (i : Nat) (x : Claim) : (s.setClaim i x).inputs = s.inputs := rfl
@[simp] theorem State.setClaim_focus (s : State) (i : Nat) (x : Claim) : (s.setClaim i x).focus = s.focus := rfl
@[simp] theorem State.setClaim_note (s : State) (i : Nat) (x : Claim) : (s.setClaim i x).note = s.note := rfl
@[simp] theorem State.setClaim_free (s : State) (i : Nat) (x : Claim) : (s.setClaim i x).free = s.free := rfl

@[simp] theorem State.setCtx_cores (s : State) (i : CtxId) (x : Ctx) : (s.setCtx i x).cores = s.cores := rfl
@[simp] theorem State.setCtx_tiles (s : State) (i : CtxId) (x : Ctx) : (s.setCtx i x).tiles = s.tiles := rfl
@[simp] theorem State.setCtx_claims (s : State) (i : CtxId) (x : Ctx) : (s.setCtx i x).claims = s.claims := rfl
@[simp] theorem State.setCtx_agenda (s : State) (i : CtxId) (x : Ctx) : (s.setCtx i x).agenda = s.agenda := rfl
@[simp] theorem State.setCtx_tlb (s : State) (i : CtxId) (x : Ctx) : (s.setCtx i x).tlb = s.tlb := rfl
@[simp] theorem State.setCtx_far (s : State) (i : CtxId) (x : Ctx) : (s.setCtx i x).far = s.far := rfl
@[simp] theorem State.setCtx_farMarks (s : State) (i : CtxId) (x : Ctx) : (s.setCtx i x).farMarks = s.farMarks := rfl
@[simp] theorem State.setCtx_farFlips (s : State) (i : CtxId) (x : Ctx) : (s.setCtx i x).farFlips = s.farFlips := rfl
@[simp] theorem State.setCtx_farTags (s : State) (i : CtxId) (x : Ctx) : (s.setCtx i x).farTags = s.farTags := rfl
@[simp] theorem State.setCtx_queues (s : State) (i : CtxId) (x : Ctx) : (s.setCtx i x).queues = s.queues := rfl
@[simp] theorem State.setCtx_turn (s : State) (i : CtxId) (x : Ctx) : (s.setCtx i x).turn = s.turn := rfl
@[simp] theorem State.setCtx_mbox (s : State) (i : CtxId) (x : Ctx) : (s.setCtx i x).mbox = s.mbox := rfl
@[simp] theorem State.setCtx_cats (s : State) (i : CtxId) (x : Ctx) : (s.setCtx i x).cats = s.cats := rfl
@[simp] theorem State.setCtx_accessions (s : State) (i : CtxId) (x : Ctx) : (s.setCtx i x).accessions = s.accessions := rfl
@[simp] theorem State.setCtx_reply (s : State) (i : CtxId) (x : Ctx) : (s.setCtx i x).reply = s.reply := rfl
@[simp] theorem State.setCtx_meas (s : State) (i : CtxId) (x : Ctx) : (s.setCtx i x).meas = s.meas := rfl
@[simp] theorem State.setCtx_startRec (s : State) (i : CtxId) (x : Ctx) : (s.setCtx i x).startRec = s.startRec := rfl
@[simp] theorem State.setCtx_power (s : State) (i : CtxId) (x : Ctx) : (s.setCtx i x).power = s.power := rfl
@[simp] theorem State.setCtx_ctls (s : State) (i : CtxId) (x : Ctx) : (s.setCtx i x).ctls = s.ctls := rfl
@[simp] theorem State.setCtx_curator (s : State) (i : CtxId) (x : Ctx) : (s.setCtx i x).curator = s.curator := rfl
@[simp] theorem State.setCtx_docents (s : State) (i : CtxId) (x : Ctx) : (s.setCtx i x).docents = s.docents := rfl
@[simp] theorem State.setCtx_findings (s : State) (i : CtxId) (x : Ctx) : (s.setCtx i x).findings = s.findings := rfl
@[simp] theorem State.setCtx_shifts (s : State) (i : CtxId) (x : Ctx) : (s.setCtx i x).shifts = s.shifts := rfl
@[simp] theorem State.setCtx_retiredTiles (s : State) (i : CtxId) (x : Ctx) : (s.setCtx i x).retiredTiles = s.retiredTiles := rfl
@[simp] theorem State.setCtx_detours (s : State) (i : CtxId) (x : Ctx) : (s.setCtx i x).detours = s.detours := rfl
@[simp] theorem State.setCtx_failedBypass (s : State) (i : CtxId) (x : Ctx) : (s.setCtx i x).failedBypass = s.failedBypass := rfl
@[simp] theorem State.setCtx_badFields (s : State) (i : CtxId) (x : Ctx) : (s.setCtx i x).badFields = s.badFields := rfl
@[simp] theorem State.setCtx_lowRail (s : State) (i : CtxId) (x : Ctx) : (s.setCtx i x).lowRail = s.lowRail := rfl
@[simp] theorem State.setCtx_lh (s : State) (i : CtxId) (x : Ctx) : (s.setCtx i x).lh = s.lh := rfl
@[simp] theorem State.setCtx_wheel (s : State) (i : CtxId) (x : Ctx) : (s.setCtx i x).wheel = s.wheel := rfl
@[simp] theorem State.setCtx_replayLog2 (s : State) (i : CtxId) (x : Ctx) : (s.setCtx i x).replayLog2 = s.replayLog2 := rfl
@[simp] theorem State.setCtx_lp (s : State) (i : CtxId) (x : Ctx) : (s.setCtx i x).lp = s.lp := rfl
@[simp] theorem State.setCtx_db4 (s : State) (i : CtxId) (x : Ctx) : (s.setCtx i x).db4 = s.db4 := rfl
@[simp] theorem State.setCtx_slew (s : State) (i : CtxId) (x : Ctx) : (s.setCtx i x).slew = s.slew := rfl
@[simp] theorem State.setCtx_waferTrim (s : State) (i : CtxId) (x : Ctx) : (s.setCtx i x).waferTrim = s.waferTrim := rfl
@[simp] theorem State.setCtx_waferInt (s : State) (i : CtxId) (x : Ctx) : (s.setCtx i x).waferInt = s.waferInt := rfl
@[simp] theorem State.setCtx_fbAcc (s : State) (i : CtxId) (x : Ctx) : (s.setCtx i x).fbAcc = s.fbAcc := rfl
@[simp] theorem State.setCtx_throttle (s : State) (i : CtxId) (x : Ctx) : (s.setCtx i x).throttle = s.throttle := rfl
@[simp] theorem State.setCtx_baseCut (s : State) (i : CtxId) (x : Ctx) : (s.setCtx i x).baseCut = s.baseCut := rfl
@[simp] theorem State.setCtx_cut (s : State) (i : CtxId) (x : Ctx) : (s.setCtx i x).cut = s.cut := rfl
@[simp] theorem State.setCtx_tests (s : State) (i : CtxId) (x : Ctx) : (s.setCtx i x).tests = s.tests := rfl
@[simp] theorem State.setCtx_fleet (s : State) (i : CtxId) (x : Ctx) : (s.setCtx i x).fleet = s.fleet := rfl
@[simp] theorem State.setCtx_forming (s : State) (i : CtxId) (x : Ctx) : (s.setCtx i x).forming = s.forming := rfl
@[simp] theorem State.setCtx_fleetLaunch (s : State) (i : CtxId) (x : Ctx) : (s.setCtx i x).fleetLaunch = s.fleetLaunch := rfl
@[simp] theorem State.setCtx_fleetMsgs (s : State) (i : CtxId) (x : Ctx) : (s.setCtx i x).fleetMsgs = s.fleetMsgs := rfl
@[simp] theorem State.setCtx_peerOut (s : State) (i : CtxId) (x : Ctx) : (s.setCtx i x).peerOut = s.peerOut := rfl
@[simp] theorem State.setCtx_peerHolds (s : State) (i : CtxId) (x : Ctx) : (s.setCtx i x).peerHolds = s.peerHolds := rfl
@[simp] theorem State.setCtx_peerLambda (s : State) (i : CtxId) (x : Ctx) : (s.setCtx i x).peerLambda = s.peerLambda := rfl
@[simp] theorem State.setCtx_spdm (s : State) (i : CtxId) (x : Ctx) : (s.setCtx i x).spdm = s.spdm := rfl
@[simp] theorem State.setCtx_wall (s : State) (i : CtxId) (x : Ctx) : (s.setCtx i x).wall = s.wall := rfl
@[simp] theorem State.setCtx_todo (s : State) (i : CtxId) (x : Ctx) : (s.setCtx i x).todo = s.todo := rfl
@[simp] theorem State.setCtx_inputs (s : State) (i : CtxId) (x : Ctx) : (s.setCtx i x).inputs = s.inputs := rfl
@[simp] theorem State.setCtx_focus (s : State) (i : CtxId) (x : Ctx) : (s.setCtx i x).focus = s.focus := rfl
@[simp] theorem State.setCtx_note (s : State) (i : CtxId) (x : Ctx) : (s.setCtx i x).note = s.note := rfl
@[simp] theorem State.setCtx_free (s : State) (i : CtxId) (x : Ctx) : (s.setCtx i x).free = s.free := rfl

@[simp] theorem State.setCtl_cores (s : State) (i : Controller) (x : Ctl) : (s.setCtl i x).cores = s.cores := rfl
@[simp] theorem State.setCtl_tiles (s : State) (i : Controller) (x : Ctl) : (s.setCtl i x).tiles = s.tiles := rfl
@[simp] theorem State.setCtl_claims (s : State) (i : Controller) (x : Ctl) : (s.setCtl i x).claims = s.claims := rfl
@[simp] theorem State.setCtl_agenda (s : State) (i : Controller) (x : Ctl) : (s.setCtl i x).agenda = s.agenda := rfl
@[simp] theorem State.setCtl_ctxs (s : State) (i : Controller) (x : Ctl) : (s.setCtl i x).ctxs = s.ctxs := rfl
@[simp] theorem State.setCtl_tlb (s : State) (i : Controller) (x : Ctl) : (s.setCtl i x).tlb = s.tlb := rfl
@[simp] theorem State.setCtl_far (s : State) (i : Controller) (x : Ctl) : (s.setCtl i x).far = s.far := rfl
@[simp] theorem State.setCtl_farMarks (s : State) (i : Controller) (x : Ctl) : (s.setCtl i x).farMarks = s.farMarks := rfl
@[simp] theorem State.setCtl_farFlips (s : State) (i : Controller) (x : Ctl) : (s.setCtl i x).farFlips = s.farFlips := rfl
@[simp] theorem State.setCtl_farTags (s : State) (i : Controller) (x : Ctl) : (s.setCtl i x).farTags = s.farTags := rfl
@[simp] theorem State.setCtl_queues (s : State) (i : Controller) (x : Ctl) : (s.setCtl i x).queues = s.queues := rfl
@[simp] theorem State.setCtl_turn (s : State) (i : Controller) (x : Ctl) : (s.setCtl i x).turn = s.turn := rfl
@[simp] theorem State.setCtl_mbox (s : State) (i : Controller) (x : Ctl) : (s.setCtl i x).mbox = s.mbox := rfl
@[simp] theorem State.setCtl_cats (s : State) (i : Controller) (x : Ctl) : (s.setCtl i x).cats = s.cats := rfl
@[simp] theorem State.setCtl_accessions (s : State) (i : Controller) (x : Ctl) : (s.setCtl i x).accessions = s.accessions := rfl
@[simp] theorem State.setCtl_reply (s : State) (i : Controller) (x : Ctl) : (s.setCtl i x).reply = s.reply := rfl
@[simp] theorem State.setCtl_meas (s : State) (i : Controller) (x : Ctl) : (s.setCtl i x).meas = s.meas := rfl
@[simp] theorem State.setCtl_startRec (s : State) (i : Controller) (x : Ctl) : (s.setCtl i x).startRec = s.startRec := rfl
@[simp] theorem State.setCtl_power (s : State) (i : Controller) (x : Ctl) : (s.setCtl i x).power = s.power := rfl
@[simp] theorem State.setCtl_curator (s : State) (i : Controller) (x : Ctl) : (s.setCtl i x).curator = s.curator := rfl
@[simp] theorem State.setCtl_docents (s : State) (i : Controller) (x : Ctl) : (s.setCtl i x).docents = s.docents := rfl
@[simp] theorem State.setCtl_findings (s : State) (i : Controller) (x : Ctl) : (s.setCtl i x).findings = s.findings := rfl
@[simp] theorem State.setCtl_shifts (s : State) (i : Controller) (x : Ctl) : (s.setCtl i x).shifts = s.shifts := rfl
@[simp] theorem State.setCtl_retiredTiles (s : State) (i : Controller) (x : Ctl) : (s.setCtl i x).retiredTiles = s.retiredTiles := rfl
@[simp] theorem State.setCtl_detours (s : State) (i : Controller) (x : Ctl) : (s.setCtl i x).detours = s.detours := rfl
@[simp] theorem State.setCtl_failedBypass (s : State) (i : Controller) (x : Ctl) : (s.setCtl i x).failedBypass = s.failedBypass := rfl
@[simp] theorem State.setCtl_badFields (s : State) (i : Controller) (x : Ctl) : (s.setCtl i x).badFields = s.badFields := rfl
@[simp] theorem State.setCtl_lowRail (s : State) (i : Controller) (x : Ctl) : (s.setCtl i x).lowRail = s.lowRail := rfl
@[simp] theorem State.setCtl_lh (s : State) (i : Controller) (x : Ctl) : (s.setCtl i x).lh = s.lh := rfl
@[simp] theorem State.setCtl_wheel (s : State) (i : Controller) (x : Ctl) : (s.setCtl i x).wheel = s.wheel := rfl
@[simp] theorem State.setCtl_replayLog2 (s : State) (i : Controller) (x : Ctl) : (s.setCtl i x).replayLog2 = s.replayLog2 := rfl
@[simp] theorem State.setCtl_lp (s : State) (i : Controller) (x : Ctl) : (s.setCtl i x).lp = s.lp := rfl
@[simp] theorem State.setCtl_db4 (s : State) (i : Controller) (x : Ctl) : (s.setCtl i x).db4 = s.db4 := rfl
@[simp] theorem State.setCtl_slew (s : State) (i : Controller) (x : Ctl) : (s.setCtl i x).slew = s.slew := rfl
@[simp] theorem State.setCtl_waferTrim (s : State) (i : Controller) (x : Ctl) : (s.setCtl i x).waferTrim = s.waferTrim := rfl
@[simp] theorem State.setCtl_waferInt (s : State) (i : Controller) (x : Ctl) : (s.setCtl i x).waferInt = s.waferInt := rfl
@[simp] theorem State.setCtl_fbAcc (s : State) (i : Controller) (x : Ctl) : (s.setCtl i x).fbAcc = s.fbAcc := rfl
@[simp] theorem State.setCtl_throttle (s : State) (i : Controller) (x : Ctl) : (s.setCtl i x).throttle = s.throttle := rfl
@[simp] theorem State.setCtl_baseCut (s : State) (i : Controller) (x : Ctl) : (s.setCtl i x).baseCut = s.baseCut := rfl
@[simp] theorem State.setCtl_cut (s : State) (i : Controller) (x : Ctl) : (s.setCtl i x).cut = s.cut := rfl
@[simp] theorem State.setCtl_tests (s : State) (i : Controller) (x : Ctl) : (s.setCtl i x).tests = s.tests := rfl
@[simp] theorem State.setCtl_fleet (s : State) (i : Controller) (x : Ctl) : (s.setCtl i x).fleet = s.fleet := rfl
@[simp] theorem State.setCtl_forming (s : State) (i : Controller) (x : Ctl) : (s.setCtl i x).forming = s.forming := rfl
@[simp] theorem State.setCtl_fleetLaunch (s : State) (i : Controller) (x : Ctl) : (s.setCtl i x).fleetLaunch = s.fleetLaunch := rfl
@[simp] theorem State.setCtl_fleetMsgs (s : State) (i : Controller) (x : Ctl) : (s.setCtl i x).fleetMsgs = s.fleetMsgs := rfl
@[simp] theorem State.setCtl_peerOut (s : State) (i : Controller) (x : Ctl) : (s.setCtl i x).peerOut = s.peerOut := rfl
@[simp] theorem State.setCtl_peerHolds (s : State) (i : Controller) (x : Ctl) : (s.setCtl i x).peerHolds = s.peerHolds := rfl
@[simp] theorem State.setCtl_peerLambda (s : State) (i : Controller) (x : Ctl) : (s.setCtl i x).peerLambda = s.peerLambda := rfl
@[simp] theorem State.setCtl_spdm (s : State) (i : Controller) (x : Ctl) : (s.setCtl i x).spdm = s.spdm := rfl
@[simp] theorem State.setCtl_wall (s : State) (i : Controller) (x : Ctl) : (s.setCtl i x).wall = s.wall := rfl
@[simp] theorem State.setCtl_todo (s : State) (i : Controller) (x : Ctl) : (s.setCtl i x).todo = s.todo := rfl
@[simp] theorem State.setCtl_inputs (s : State) (i : Controller) (x : Ctl) : (s.setCtl i x).inputs = s.inputs := rfl
@[simp] theorem State.setCtl_focus (s : State) (i : Controller) (x : Ctl) : (s.setCtl i x).focus = s.focus := rfl
@[simp] theorem State.setCtl_note (s : State) (i : Controller) (x : Ctl) : (s.setCtl i x).note = s.note := rfl
@[simp] theorem State.setCtl_free (s : State) (i : Controller) (x : Ctl) : (s.setCtl i x).free = s.free := rfl

@[simp] theorem State.plan_cores (s : State) (e : Sched) : (s.plan e).cores = s.cores := rfl
@[simp] theorem State.plan_tiles (s : State) (e : Sched) : (s.plan e).tiles = s.tiles := rfl
@[simp] theorem State.plan_claims (s : State) (e : Sched) : (s.plan e).claims = s.claims := rfl
@[simp] theorem State.plan_ctxs (s : State) (e : Sched) : (s.plan e).ctxs = s.ctxs := rfl
@[simp] theorem State.plan_tlb (s : State) (e : Sched) : (s.plan e).tlb = s.tlb := rfl
@[simp] theorem State.plan_far (s : State) (e : Sched) : (s.plan e).far = s.far := rfl
@[simp] theorem State.plan_farMarks (s : State) (e : Sched) : (s.plan e).farMarks = s.farMarks := rfl
@[simp] theorem State.plan_farFlips (s : State) (e : Sched) : (s.plan e).farFlips = s.farFlips := rfl
@[simp] theorem State.plan_farTags (s : State) (e : Sched) : (s.plan e).farTags = s.farTags := rfl
@[simp] theorem State.plan_queues (s : State) (e : Sched) : (s.plan e).queues = s.queues := rfl
@[simp] theorem State.plan_turn (s : State) (e : Sched) : (s.plan e).turn = s.turn := rfl
@[simp] theorem State.plan_mbox (s : State) (e : Sched) : (s.plan e).mbox = s.mbox := rfl
@[simp] theorem State.plan_cats (s : State) (e : Sched) : (s.plan e).cats = s.cats := rfl
@[simp] theorem State.plan_accessions (s : State) (e : Sched) : (s.plan e).accessions = s.accessions := rfl
@[simp] theorem State.plan_reply (s : State) (e : Sched) : (s.plan e).reply = s.reply := rfl
@[simp] theorem State.plan_meas (s : State) (e : Sched) : (s.plan e).meas = s.meas := rfl
@[simp] theorem State.plan_startRec (s : State) (e : Sched) : (s.plan e).startRec = s.startRec := rfl
@[simp] theorem State.plan_power (s : State) (e : Sched) : (s.plan e).power = s.power := rfl
@[simp] theorem State.plan_ctls (s : State) (e : Sched) : (s.plan e).ctls = s.ctls := rfl
@[simp] theorem State.plan_curator (s : State) (e : Sched) : (s.plan e).curator = s.curator := rfl
@[simp] theorem State.plan_docents (s : State) (e : Sched) : (s.plan e).docents = s.docents := rfl
@[simp] theorem State.plan_findings (s : State) (e : Sched) : (s.plan e).findings = s.findings := rfl
@[simp] theorem State.plan_shifts (s : State) (e : Sched) : (s.plan e).shifts = s.shifts := rfl
@[simp] theorem State.plan_retiredTiles (s : State) (e : Sched) : (s.plan e).retiredTiles = s.retiredTiles := rfl
@[simp] theorem State.plan_detours (s : State) (e : Sched) : (s.plan e).detours = s.detours := rfl
@[simp] theorem State.plan_failedBypass (s : State) (e : Sched) : (s.plan e).failedBypass = s.failedBypass := rfl
@[simp] theorem State.plan_badFields (s : State) (e : Sched) : (s.plan e).badFields = s.badFields := rfl
@[simp] theorem State.plan_lowRail (s : State) (e : Sched) : (s.plan e).lowRail = s.lowRail := rfl
@[simp] theorem State.plan_lh (s : State) (e : Sched) : (s.plan e).lh = s.lh := rfl
@[simp] theorem State.plan_wheel (s : State) (e : Sched) : (s.plan e).wheel = s.wheel := rfl
@[simp] theorem State.plan_replayLog2 (s : State) (e : Sched) : (s.plan e).replayLog2 = s.replayLog2 := rfl
@[simp] theorem State.plan_lp (s : State) (e : Sched) : (s.plan e).lp = s.lp := rfl
@[simp] theorem State.plan_db4 (s : State) (e : Sched) : (s.plan e).db4 = s.db4 := rfl
@[simp] theorem State.plan_slew (s : State) (e : Sched) : (s.plan e).slew = s.slew := rfl
@[simp] theorem State.plan_waferTrim (s : State) (e : Sched) : (s.plan e).waferTrim = s.waferTrim := rfl
@[simp] theorem State.plan_waferInt (s : State) (e : Sched) : (s.plan e).waferInt = s.waferInt := rfl
@[simp] theorem State.plan_fbAcc (s : State) (e : Sched) : (s.plan e).fbAcc = s.fbAcc := rfl
@[simp] theorem State.plan_throttle (s : State) (e : Sched) : (s.plan e).throttle = s.throttle := rfl
@[simp] theorem State.plan_baseCut (s : State) (e : Sched) : (s.plan e).baseCut = s.baseCut := rfl
@[simp] theorem State.plan_cut (s : State) (e : Sched) : (s.plan e).cut = s.cut := rfl
@[simp] theorem State.plan_tests (s : State) (e : Sched) : (s.plan e).tests = s.tests := rfl
@[simp] theorem State.plan_fleet (s : State) (e : Sched) : (s.plan e).fleet = s.fleet := rfl
@[simp] theorem State.plan_forming (s : State) (e : Sched) : (s.plan e).forming = s.forming := rfl
@[simp] theorem State.plan_fleetLaunch (s : State) (e : Sched) : (s.plan e).fleetLaunch = s.fleetLaunch := rfl
@[simp] theorem State.plan_fleetMsgs (s : State) (e : Sched) : (s.plan e).fleetMsgs = s.fleetMsgs := rfl
@[simp] theorem State.plan_peerOut (s : State) (e : Sched) : (s.plan e).peerOut = s.peerOut := rfl
@[simp] theorem State.plan_peerHolds (s : State) (e : Sched) : (s.plan e).peerHolds = s.peerHolds := rfl
@[simp] theorem State.plan_peerLambda (s : State) (e : Sched) : (s.plan e).peerLambda = s.peerLambda := rfl
@[simp] theorem State.plan_spdm (s : State) (e : Sched) : (s.plan e).spdm = s.spdm := rfl
@[simp] theorem State.plan_wall (s : State) (e : Sched) : (s.plan e).wall = s.wall := rfl
@[simp] theorem State.plan_todo (s : State) (e : Sched) : (s.plan e).todo = s.todo := rfl
@[simp] theorem State.plan_inputs (s : State) (e : Sched) : (s.plan e).inputs = s.inputs := rfl
@[simp] theorem State.plan_focus (s : State) (e : Sched) : (s.plan e).focus = s.focus := rfl
@[simp] theorem State.plan_note (s : State) (e : Sched) : (s.plan e).note = s.note := rfl
@[simp] theorem State.plan_free (s : State) (e : Sched) : (s.plan e).free = s.free := rfl

@[simp] theorem State.push_cores (s : State) (i : Event) : (s.push i).cores = s.cores := rfl
@[simp] theorem State.push_tiles (s : State) (i : Event) : (s.push i).tiles = s.tiles := rfl
@[simp] theorem State.push_claims (s : State) (i : Event) : (s.push i).claims = s.claims := rfl
@[simp] theorem State.push_agenda (s : State) (i : Event) : (s.push i).agenda = s.agenda := rfl
@[simp] theorem State.push_ctxs (s : State) (i : Event) : (s.push i).ctxs = s.ctxs := rfl
@[simp] theorem State.push_tlb (s : State) (i : Event) : (s.push i).tlb = s.tlb := rfl
@[simp] theorem State.push_far (s : State) (i : Event) : (s.push i).far = s.far := rfl
@[simp] theorem State.push_farMarks (s : State) (i : Event) : (s.push i).farMarks = s.farMarks := rfl
@[simp] theorem State.push_farFlips (s : State) (i : Event) : (s.push i).farFlips = s.farFlips := rfl
@[simp] theorem State.push_farTags (s : State) (i : Event) : (s.push i).farTags = s.farTags := rfl
@[simp] theorem State.push_queues (s : State) (i : Event) : (s.push i).queues = s.queues := rfl
@[simp] theorem State.push_turn (s : State) (i : Event) : (s.push i).turn = s.turn := rfl
@[simp] theorem State.push_mbox (s : State) (i : Event) : (s.push i).mbox = s.mbox := rfl
@[simp] theorem State.push_cats (s : State) (i : Event) : (s.push i).cats = s.cats := rfl
@[simp] theorem State.push_accessions (s : State) (i : Event) : (s.push i).accessions = s.accessions := rfl
@[simp] theorem State.push_reply (s : State) (i : Event) : (s.push i).reply = s.reply := rfl
@[simp] theorem State.push_meas (s : State) (i : Event) : (s.push i).meas = s.meas := rfl
@[simp] theorem State.push_startRec (s : State) (i : Event) : (s.push i).startRec = s.startRec := rfl
@[simp] theorem State.push_power (s : State) (i : Event) : (s.push i).power = s.power := rfl
@[simp] theorem State.push_ctls (s : State) (i : Event) : (s.push i).ctls = s.ctls := rfl
@[simp] theorem State.push_curator (s : State) (i : Event) : (s.push i).curator = s.curator := rfl
@[simp] theorem State.push_docents (s : State) (i : Event) : (s.push i).docents = s.docents := rfl
@[simp] theorem State.push_findings (s : State) (i : Event) : (s.push i).findings = s.findings := rfl
@[simp] theorem State.push_shifts (s : State) (i : Event) : (s.push i).shifts = s.shifts := rfl
@[simp] theorem State.push_retiredTiles (s : State) (i : Event) : (s.push i).retiredTiles = s.retiredTiles := rfl
@[simp] theorem State.push_detours (s : State) (i : Event) : (s.push i).detours = s.detours := rfl
@[simp] theorem State.push_failedBypass (s : State) (i : Event) : (s.push i).failedBypass = s.failedBypass := rfl
@[simp] theorem State.push_badFields (s : State) (i : Event) : (s.push i).badFields = s.badFields := rfl
@[simp] theorem State.push_lowRail (s : State) (i : Event) : (s.push i).lowRail = s.lowRail := rfl
@[simp] theorem State.push_lh (s : State) (i : Event) : (s.push i).lh = s.lh := rfl
@[simp] theorem State.push_wheel (s : State) (i : Event) : (s.push i).wheel = s.wheel := rfl
@[simp] theorem State.push_replayLog2 (s : State) (i : Event) : (s.push i).replayLog2 = s.replayLog2 := rfl
@[simp] theorem State.push_lp (s : State) (i : Event) : (s.push i).lp = s.lp := rfl
@[simp] theorem State.push_db4 (s : State) (i : Event) : (s.push i).db4 = s.db4 := rfl
@[simp] theorem State.push_slew (s : State) (i : Event) : (s.push i).slew = s.slew := rfl
@[simp] theorem State.push_waferTrim (s : State) (i : Event) : (s.push i).waferTrim = s.waferTrim := rfl
@[simp] theorem State.push_waferInt (s : State) (i : Event) : (s.push i).waferInt = s.waferInt := rfl
@[simp] theorem State.push_fbAcc (s : State) (i : Event) : (s.push i).fbAcc = s.fbAcc := rfl
@[simp] theorem State.push_throttle (s : State) (i : Event) : (s.push i).throttle = s.throttle := rfl
@[simp] theorem State.push_baseCut (s : State) (i : Event) : (s.push i).baseCut = s.baseCut := rfl
@[simp] theorem State.push_cut (s : State) (i : Event) : (s.push i).cut = s.cut := rfl
@[simp] theorem State.push_tests (s : State) (i : Event) : (s.push i).tests = s.tests := rfl
@[simp] theorem State.push_fleet (s : State) (i : Event) : (s.push i).fleet = s.fleet := rfl
@[simp] theorem State.push_forming (s : State) (i : Event) : (s.push i).forming = s.forming := rfl
@[simp] theorem State.push_fleetLaunch (s : State) (i : Event) : (s.push i).fleetLaunch = s.fleetLaunch := rfl
@[simp] theorem State.push_fleetMsgs (s : State) (i : Event) : (s.push i).fleetMsgs = s.fleetMsgs := rfl
@[simp] theorem State.push_peerOut (s : State) (i : Event) : (s.push i).peerOut = s.peerOut := rfl
@[simp] theorem State.push_peerHolds (s : State) (i : Event) : (s.push i).peerHolds = s.peerHolds := rfl
@[simp] theorem State.push_peerLambda (s : State) (i : Event) : (s.push i).peerLambda = s.peerLambda := rfl
@[simp] theorem State.push_spdm (s : State) (i : Event) : (s.push i).spdm = s.spdm := rfl
@[simp] theorem State.push_wall (s : State) (i : Event) : (s.push i).wall = s.wall := rfl
@[simp] theorem State.push_inputs (s : State) (i : Event) : (s.push i).inputs = s.inputs := rfl
@[simp] theorem State.push_focus (s : State) (i : Event) : (s.push i).focus = s.focus := rfl
@[simp] theorem State.push_note (s : State) (i : Event) : (s.push i).note = s.note := rfl
@[simp] theorem State.push_free (s : State) (i : Event) : (s.push i).free = s.free := rfl

@[simp] theorem State.modCore_tiles (s : State) (i : StrandId) (f : Core → Core) : (s.modCore i f).tiles = s.tiles := rfl
@[simp] theorem State.modCore_claims (s : State) (i : StrandId) (f : Core → Core) : (s.modCore i f).claims = s.claims := rfl
@[simp] theorem State.modCore_agenda (s : State) (i : StrandId) (f : Core → Core) : (s.modCore i f).agenda = s.agenda := rfl
@[simp] theorem State.modCore_ctxs (s : State) (i : StrandId) (f : Core → Core) : (s.modCore i f).ctxs = s.ctxs := rfl
@[simp] theorem State.modCore_tlb (s : State) (i : StrandId) (f : Core → Core) : (s.modCore i f).tlb = s.tlb := rfl
@[simp] theorem State.modCore_far (s : State) (i : StrandId) (f : Core → Core) : (s.modCore i f).far = s.far := rfl
@[simp] theorem State.modCore_farMarks (s : State) (i : StrandId) (f : Core → Core) : (s.modCore i f).farMarks = s.farMarks := rfl
@[simp] theorem State.modCore_farFlips (s : State) (i : StrandId) (f : Core → Core) : (s.modCore i f).farFlips = s.farFlips := rfl
@[simp] theorem State.modCore_farTags (s : State) (i : StrandId) (f : Core → Core) : (s.modCore i f).farTags = s.farTags := rfl
@[simp] theorem State.modCore_queues (s : State) (i : StrandId) (f : Core → Core) : (s.modCore i f).queues = s.queues := rfl
@[simp] theorem State.modCore_turn (s : State) (i : StrandId) (f : Core → Core) : (s.modCore i f).turn = s.turn := rfl
@[simp] theorem State.modCore_mbox (s : State) (i : StrandId) (f : Core → Core) : (s.modCore i f).mbox = s.mbox := rfl
@[simp] theorem State.modCore_cats (s : State) (i : StrandId) (f : Core → Core) : (s.modCore i f).cats = s.cats := rfl
@[simp] theorem State.modCore_accessions (s : State) (i : StrandId) (f : Core → Core) : (s.modCore i f).accessions = s.accessions := rfl
@[simp] theorem State.modCore_reply (s : State) (i : StrandId) (f : Core → Core) : (s.modCore i f).reply = s.reply := rfl
@[simp] theorem State.modCore_meas (s : State) (i : StrandId) (f : Core → Core) : (s.modCore i f).meas = s.meas := rfl
@[simp] theorem State.modCore_startRec (s : State) (i : StrandId) (f : Core → Core) : (s.modCore i f).startRec = s.startRec := rfl
@[simp] theorem State.modCore_power (s : State) (i : StrandId) (f : Core → Core) : (s.modCore i f).power = s.power := rfl
@[simp] theorem State.modCore_ctls (s : State) (i : StrandId) (f : Core → Core) : (s.modCore i f).ctls = s.ctls := rfl
@[simp] theorem State.modCore_curator (s : State) (i : StrandId) (f : Core → Core) : (s.modCore i f).curator = s.curator := rfl
@[simp] theorem State.modCore_docents (s : State) (i : StrandId) (f : Core → Core) : (s.modCore i f).docents = s.docents := rfl
@[simp] theorem State.modCore_findings (s : State) (i : StrandId) (f : Core → Core) : (s.modCore i f).findings = s.findings := rfl
@[simp] theorem State.modCore_shifts (s : State) (i : StrandId) (f : Core → Core) : (s.modCore i f).shifts = s.shifts := rfl
@[simp] theorem State.modCore_retiredTiles (s : State) (i : StrandId) (f : Core → Core) : (s.modCore i f).retiredTiles = s.retiredTiles := rfl
@[simp] theorem State.modCore_detours (s : State) (i : StrandId) (f : Core → Core) : (s.modCore i f).detours = s.detours := rfl
@[simp] theorem State.modCore_failedBypass (s : State) (i : StrandId) (f : Core → Core) : (s.modCore i f).failedBypass = s.failedBypass := rfl
@[simp] theorem State.modCore_badFields (s : State) (i : StrandId) (f : Core → Core) : (s.modCore i f).badFields = s.badFields := rfl
@[simp] theorem State.modCore_lowRail (s : State) (i : StrandId) (f : Core → Core) : (s.modCore i f).lowRail = s.lowRail := rfl
@[simp] theorem State.modCore_lh (s : State) (i : StrandId) (f : Core → Core) : (s.modCore i f).lh = s.lh := rfl
@[simp] theorem State.modCore_wheel (s : State) (i : StrandId) (f : Core → Core) : (s.modCore i f).wheel = s.wheel := rfl
@[simp] theorem State.modCore_replayLog2 (s : State) (i : StrandId) (f : Core → Core) : (s.modCore i f).replayLog2 = s.replayLog2 := rfl
@[simp] theorem State.modCore_lp (s : State) (i : StrandId) (f : Core → Core) : (s.modCore i f).lp = s.lp := rfl
@[simp] theorem State.modCore_db4 (s : State) (i : StrandId) (f : Core → Core) : (s.modCore i f).db4 = s.db4 := rfl
@[simp] theorem State.modCore_slew (s : State) (i : StrandId) (f : Core → Core) : (s.modCore i f).slew = s.slew := rfl
@[simp] theorem State.modCore_waferTrim (s : State) (i : StrandId) (f : Core → Core) : (s.modCore i f).waferTrim = s.waferTrim := rfl
@[simp] theorem State.modCore_waferInt (s : State) (i : StrandId) (f : Core → Core) : (s.modCore i f).waferInt = s.waferInt := rfl
@[simp] theorem State.modCore_fbAcc (s : State) (i : StrandId) (f : Core → Core) : (s.modCore i f).fbAcc = s.fbAcc := rfl
@[simp] theorem State.modCore_throttle (s : State) (i : StrandId) (f : Core → Core) : (s.modCore i f).throttle = s.throttle := rfl
@[simp] theorem State.modCore_baseCut (s : State) (i : StrandId) (f : Core → Core) : (s.modCore i f).baseCut = s.baseCut := rfl
@[simp] theorem State.modCore_cut (s : State) (i : StrandId) (f : Core → Core) : (s.modCore i f).cut = s.cut := rfl
@[simp] theorem State.modCore_tests (s : State) (i : StrandId) (f : Core → Core) : (s.modCore i f).tests = s.tests := rfl
@[simp] theorem State.modCore_fleet (s : State) (i : StrandId) (f : Core → Core) : (s.modCore i f).fleet = s.fleet := rfl
@[simp] theorem State.modCore_forming (s : State) (i : StrandId) (f : Core → Core) : (s.modCore i f).forming = s.forming := rfl
@[simp] theorem State.modCore_fleetLaunch (s : State) (i : StrandId) (f : Core → Core) : (s.modCore i f).fleetLaunch = s.fleetLaunch := rfl
@[simp] theorem State.modCore_fleetMsgs (s : State) (i : StrandId) (f : Core → Core) : (s.modCore i f).fleetMsgs = s.fleetMsgs := rfl
@[simp] theorem State.modCore_peerOut (s : State) (i : StrandId) (f : Core → Core) : (s.modCore i f).peerOut = s.peerOut := rfl
@[simp] theorem State.modCore_peerHolds (s : State) (i : StrandId) (f : Core → Core) : (s.modCore i f).peerHolds = s.peerHolds := rfl
@[simp] theorem State.modCore_peerLambda (s : State) (i : StrandId) (f : Core → Core) : (s.modCore i f).peerLambda = s.peerLambda := rfl
@[simp] theorem State.modCore_spdm (s : State) (i : StrandId) (f : Core → Core) : (s.modCore i f).spdm = s.spdm := rfl
@[simp] theorem State.modCore_wall (s : State) (i : StrandId) (f : Core → Core) : (s.modCore i f).wall = s.wall := rfl
@[simp] theorem State.modCore_todo (s : State) (i : StrandId) (f : Core → Core) : (s.modCore i f).todo = s.todo := rfl
@[simp] theorem State.modCore_inputs (s : State) (i : StrandId) (f : Core → Core) : (s.modCore i f).inputs = s.inputs := rfl
@[simp] theorem State.modCore_focus (s : State) (i : StrandId) (f : Core → Core) : (s.modCore i f).focus = s.focus := rfl
@[simp] theorem State.modCore_note (s : State) (i : StrandId) (f : Core → Core) : (s.modCore i f).note = s.note := rfl
@[simp] theorem State.modCore_free (s : State) (i : StrandId) (f : Core → Core) : (s.modCore i f).free = s.free := rfl

@[simp] theorem State.modTile_cores (s : State) (i : TileId) (f : Tile → Tile) : (s.modTile i f).cores = s.cores := rfl
@[simp] theorem State.modTile_claims (s : State) (i : TileId) (f : Tile → Tile) : (s.modTile i f).claims = s.claims := rfl
@[simp] theorem State.modTile_agenda (s : State) (i : TileId) (f : Tile → Tile) : (s.modTile i f).agenda = s.agenda := rfl
@[simp] theorem State.modTile_ctxs (s : State) (i : TileId) (f : Tile → Tile) : (s.modTile i f).ctxs = s.ctxs := rfl
@[simp] theorem State.modTile_tlb (s : State) (i : TileId) (f : Tile → Tile) : (s.modTile i f).tlb = s.tlb := rfl
@[simp] theorem State.modTile_far (s : State) (i : TileId) (f : Tile → Tile) : (s.modTile i f).far = s.far := rfl
@[simp] theorem State.modTile_farMarks (s : State) (i : TileId) (f : Tile → Tile) : (s.modTile i f).farMarks = s.farMarks := rfl
@[simp] theorem State.modTile_farFlips (s : State) (i : TileId) (f : Tile → Tile) : (s.modTile i f).farFlips = s.farFlips := rfl
@[simp] theorem State.modTile_farTags (s : State) (i : TileId) (f : Tile → Tile) : (s.modTile i f).farTags = s.farTags := rfl
@[simp] theorem State.modTile_queues (s : State) (i : TileId) (f : Tile → Tile) : (s.modTile i f).queues = s.queues := rfl
@[simp] theorem State.modTile_turn (s : State) (i : TileId) (f : Tile → Tile) : (s.modTile i f).turn = s.turn := rfl
@[simp] theorem State.modTile_mbox (s : State) (i : TileId) (f : Tile → Tile) : (s.modTile i f).mbox = s.mbox := rfl
@[simp] theorem State.modTile_cats (s : State) (i : TileId) (f : Tile → Tile) : (s.modTile i f).cats = s.cats := rfl
@[simp] theorem State.modTile_accessions (s : State) (i : TileId) (f : Tile → Tile) : (s.modTile i f).accessions = s.accessions := rfl
@[simp] theorem State.modTile_reply (s : State) (i : TileId) (f : Tile → Tile) : (s.modTile i f).reply = s.reply := rfl
@[simp] theorem State.modTile_meas (s : State) (i : TileId) (f : Tile → Tile) : (s.modTile i f).meas = s.meas := rfl
@[simp] theorem State.modTile_startRec (s : State) (i : TileId) (f : Tile → Tile) : (s.modTile i f).startRec = s.startRec := rfl
@[simp] theorem State.modTile_power (s : State) (i : TileId) (f : Tile → Tile) : (s.modTile i f).power = s.power := rfl
@[simp] theorem State.modTile_ctls (s : State) (i : TileId) (f : Tile → Tile) : (s.modTile i f).ctls = s.ctls := rfl
@[simp] theorem State.modTile_curator (s : State) (i : TileId) (f : Tile → Tile) : (s.modTile i f).curator = s.curator := rfl
@[simp] theorem State.modTile_docents (s : State) (i : TileId) (f : Tile → Tile) : (s.modTile i f).docents = s.docents := rfl
@[simp] theorem State.modTile_findings (s : State) (i : TileId) (f : Tile → Tile) : (s.modTile i f).findings = s.findings := rfl
@[simp] theorem State.modTile_shifts (s : State) (i : TileId) (f : Tile → Tile) : (s.modTile i f).shifts = s.shifts := rfl
@[simp] theorem State.modTile_retiredTiles (s : State) (i : TileId) (f : Tile → Tile) : (s.modTile i f).retiredTiles = s.retiredTiles := rfl
@[simp] theorem State.modTile_detours (s : State) (i : TileId) (f : Tile → Tile) : (s.modTile i f).detours = s.detours := rfl
@[simp] theorem State.modTile_failedBypass (s : State) (i : TileId) (f : Tile → Tile) : (s.modTile i f).failedBypass = s.failedBypass := rfl
@[simp] theorem State.modTile_badFields (s : State) (i : TileId) (f : Tile → Tile) : (s.modTile i f).badFields = s.badFields := rfl
@[simp] theorem State.modTile_lowRail (s : State) (i : TileId) (f : Tile → Tile) : (s.modTile i f).lowRail = s.lowRail := rfl
@[simp] theorem State.modTile_lh (s : State) (i : TileId) (f : Tile → Tile) : (s.modTile i f).lh = s.lh := rfl
@[simp] theorem State.modTile_wheel (s : State) (i : TileId) (f : Tile → Tile) : (s.modTile i f).wheel = s.wheel := rfl
@[simp] theorem State.modTile_replayLog2 (s : State) (i : TileId) (f : Tile → Tile) : (s.modTile i f).replayLog2 = s.replayLog2 := rfl
@[simp] theorem State.modTile_lp (s : State) (i : TileId) (f : Tile → Tile) : (s.modTile i f).lp = s.lp := rfl
@[simp] theorem State.modTile_db4 (s : State) (i : TileId) (f : Tile → Tile) : (s.modTile i f).db4 = s.db4 := rfl
@[simp] theorem State.modTile_slew (s : State) (i : TileId) (f : Tile → Tile) : (s.modTile i f).slew = s.slew := rfl
@[simp] theorem State.modTile_waferTrim (s : State) (i : TileId) (f : Tile → Tile) : (s.modTile i f).waferTrim = s.waferTrim := rfl
@[simp] theorem State.modTile_waferInt (s : State) (i : TileId) (f : Tile → Tile) : (s.modTile i f).waferInt = s.waferInt := rfl
@[simp] theorem State.modTile_fbAcc (s : State) (i : TileId) (f : Tile → Tile) : (s.modTile i f).fbAcc = s.fbAcc := rfl
@[simp] theorem State.modTile_throttle (s : State) (i : TileId) (f : Tile → Tile) : (s.modTile i f).throttle = s.throttle := rfl
@[simp] theorem State.modTile_baseCut (s : State) (i : TileId) (f : Tile → Tile) : (s.modTile i f).baseCut = s.baseCut := rfl
@[simp] theorem State.modTile_cut (s : State) (i : TileId) (f : Tile → Tile) : (s.modTile i f).cut = s.cut := rfl
@[simp] theorem State.modTile_tests (s : State) (i : TileId) (f : Tile → Tile) : (s.modTile i f).tests = s.tests := rfl
@[simp] theorem State.modTile_fleet (s : State) (i : TileId) (f : Tile → Tile) : (s.modTile i f).fleet = s.fleet := rfl
@[simp] theorem State.modTile_forming (s : State) (i : TileId) (f : Tile → Tile) : (s.modTile i f).forming = s.forming := rfl
@[simp] theorem State.modTile_fleetLaunch (s : State) (i : TileId) (f : Tile → Tile) : (s.modTile i f).fleetLaunch = s.fleetLaunch := rfl
@[simp] theorem State.modTile_fleetMsgs (s : State) (i : TileId) (f : Tile → Tile) : (s.modTile i f).fleetMsgs = s.fleetMsgs := rfl
@[simp] theorem State.modTile_peerOut (s : State) (i : TileId) (f : Tile → Tile) : (s.modTile i f).peerOut = s.peerOut := rfl
@[simp] theorem State.modTile_peerHolds (s : State) (i : TileId) (f : Tile → Tile) : (s.modTile i f).peerHolds = s.peerHolds := rfl
@[simp] theorem State.modTile_peerLambda (s : State) (i : TileId) (f : Tile → Tile) : (s.modTile i f).peerLambda = s.peerLambda := rfl
@[simp] theorem State.modTile_spdm (s : State) (i : TileId) (f : Tile → Tile) : (s.modTile i f).spdm = s.spdm := rfl
@[simp] theorem State.modTile_wall (s : State) (i : TileId) (f : Tile → Tile) : (s.modTile i f).wall = s.wall := rfl
@[simp] theorem State.modTile_todo (s : State) (i : TileId) (f : Tile → Tile) : (s.modTile i f).todo = s.todo := rfl
@[simp] theorem State.modTile_inputs (s : State) (i : TileId) (f : Tile → Tile) : (s.modTile i f).inputs = s.inputs := rfl
@[simp] theorem State.modTile_focus (s : State) (i : TileId) (f : Tile → Tile) : (s.modTile i f).focus = s.focus := rfl
@[simp] theorem State.modTile_note (s : State) (i : TileId) (f : Tile → Tile) : (s.modTile i f).note = s.note := rfl
@[simp] theorem State.modTile_free (s : State) (i : TileId) (f : Tile → Tile) : (s.modTile i f).free = s.free := rfl

@[simp] theorem State.modClaim_cores (s : State) (i : Nat) (f : Claim → Claim) : (s.modClaim i f).cores = s.cores := rfl
@[simp] theorem State.modClaim_tiles (s : State) (i : Nat) (f : Claim → Claim) : (s.modClaim i f).tiles = s.tiles := rfl
@[simp] theorem State.modClaim_agenda (s : State) (i : Nat) (f : Claim → Claim) : (s.modClaim i f).agenda = s.agenda := rfl
@[simp] theorem State.modClaim_ctxs (s : State) (i : Nat) (f : Claim → Claim) : (s.modClaim i f).ctxs = s.ctxs := rfl
@[simp] theorem State.modClaim_tlb (s : State) (i : Nat) (f : Claim → Claim) : (s.modClaim i f).tlb = s.tlb := rfl
@[simp] theorem State.modClaim_far (s : State) (i : Nat) (f : Claim → Claim) : (s.modClaim i f).far = s.far := rfl
@[simp] theorem State.modClaim_farMarks (s : State) (i : Nat) (f : Claim → Claim) : (s.modClaim i f).farMarks = s.farMarks := rfl
@[simp] theorem State.modClaim_farFlips (s : State) (i : Nat) (f : Claim → Claim) : (s.modClaim i f).farFlips = s.farFlips := rfl
@[simp] theorem State.modClaim_farTags (s : State) (i : Nat) (f : Claim → Claim) : (s.modClaim i f).farTags = s.farTags := rfl
@[simp] theorem State.modClaim_queues (s : State) (i : Nat) (f : Claim → Claim) : (s.modClaim i f).queues = s.queues := rfl
@[simp] theorem State.modClaim_turn (s : State) (i : Nat) (f : Claim → Claim) : (s.modClaim i f).turn = s.turn := rfl
@[simp] theorem State.modClaim_mbox (s : State) (i : Nat) (f : Claim → Claim) : (s.modClaim i f).mbox = s.mbox := rfl
@[simp] theorem State.modClaim_cats (s : State) (i : Nat) (f : Claim → Claim) : (s.modClaim i f).cats = s.cats := rfl
@[simp] theorem State.modClaim_accessions (s : State) (i : Nat) (f : Claim → Claim) : (s.modClaim i f).accessions = s.accessions := rfl
@[simp] theorem State.modClaim_reply (s : State) (i : Nat) (f : Claim → Claim) : (s.modClaim i f).reply = s.reply := rfl
@[simp] theorem State.modClaim_meas (s : State) (i : Nat) (f : Claim → Claim) : (s.modClaim i f).meas = s.meas := rfl
@[simp] theorem State.modClaim_startRec (s : State) (i : Nat) (f : Claim → Claim) : (s.modClaim i f).startRec = s.startRec := rfl
@[simp] theorem State.modClaim_power (s : State) (i : Nat) (f : Claim → Claim) : (s.modClaim i f).power = s.power := rfl
@[simp] theorem State.modClaim_ctls (s : State) (i : Nat) (f : Claim → Claim) : (s.modClaim i f).ctls = s.ctls := rfl
@[simp] theorem State.modClaim_curator (s : State) (i : Nat) (f : Claim → Claim) : (s.modClaim i f).curator = s.curator := rfl
@[simp] theorem State.modClaim_docents (s : State) (i : Nat) (f : Claim → Claim) : (s.modClaim i f).docents = s.docents := rfl
@[simp] theorem State.modClaim_findings (s : State) (i : Nat) (f : Claim → Claim) : (s.modClaim i f).findings = s.findings := rfl
@[simp] theorem State.modClaim_shifts (s : State) (i : Nat) (f : Claim → Claim) : (s.modClaim i f).shifts = s.shifts := rfl
@[simp] theorem State.modClaim_retiredTiles (s : State) (i : Nat) (f : Claim → Claim) : (s.modClaim i f).retiredTiles = s.retiredTiles := rfl
@[simp] theorem State.modClaim_detours (s : State) (i : Nat) (f : Claim → Claim) : (s.modClaim i f).detours = s.detours := rfl
@[simp] theorem State.modClaim_failedBypass (s : State) (i : Nat) (f : Claim → Claim) : (s.modClaim i f).failedBypass = s.failedBypass := rfl
@[simp] theorem State.modClaim_badFields (s : State) (i : Nat) (f : Claim → Claim) : (s.modClaim i f).badFields = s.badFields := rfl
@[simp] theorem State.modClaim_lowRail (s : State) (i : Nat) (f : Claim → Claim) : (s.modClaim i f).lowRail = s.lowRail := rfl
@[simp] theorem State.modClaim_lh (s : State) (i : Nat) (f : Claim → Claim) : (s.modClaim i f).lh = s.lh := rfl
@[simp] theorem State.modClaim_wheel (s : State) (i : Nat) (f : Claim → Claim) : (s.modClaim i f).wheel = s.wheel := rfl
@[simp] theorem State.modClaim_replayLog2 (s : State) (i : Nat) (f : Claim → Claim) : (s.modClaim i f).replayLog2 = s.replayLog2 := rfl
@[simp] theorem State.modClaim_lp (s : State) (i : Nat) (f : Claim → Claim) : (s.modClaim i f).lp = s.lp := rfl
@[simp] theorem State.modClaim_db4 (s : State) (i : Nat) (f : Claim → Claim) : (s.modClaim i f).db4 = s.db4 := rfl
@[simp] theorem State.modClaim_slew (s : State) (i : Nat) (f : Claim → Claim) : (s.modClaim i f).slew = s.slew := rfl
@[simp] theorem State.modClaim_waferTrim (s : State) (i : Nat) (f : Claim → Claim) : (s.modClaim i f).waferTrim = s.waferTrim := rfl
@[simp] theorem State.modClaim_waferInt (s : State) (i : Nat) (f : Claim → Claim) : (s.modClaim i f).waferInt = s.waferInt := rfl
@[simp] theorem State.modClaim_fbAcc (s : State) (i : Nat) (f : Claim → Claim) : (s.modClaim i f).fbAcc = s.fbAcc := rfl
@[simp] theorem State.modClaim_throttle (s : State) (i : Nat) (f : Claim → Claim) : (s.modClaim i f).throttle = s.throttle := rfl
@[simp] theorem State.modClaim_baseCut (s : State) (i : Nat) (f : Claim → Claim) : (s.modClaim i f).baseCut = s.baseCut := rfl
@[simp] theorem State.modClaim_cut (s : State) (i : Nat) (f : Claim → Claim) : (s.modClaim i f).cut = s.cut := rfl
@[simp] theorem State.modClaim_tests (s : State) (i : Nat) (f : Claim → Claim) : (s.modClaim i f).tests = s.tests := rfl
@[simp] theorem State.modClaim_fleet (s : State) (i : Nat) (f : Claim → Claim) : (s.modClaim i f).fleet = s.fleet := rfl
@[simp] theorem State.modClaim_forming (s : State) (i : Nat) (f : Claim → Claim) : (s.modClaim i f).forming = s.forming := rfl
@[simp] theorem State.modClaim_fleetLaunch (s : State) (i : Nat) (f : Claim → Claim) : (s.modClaim i f).fleetLaunch = s.fleetLaunch := rfl
@[simp] theorem State.modClaim_fleetMsgs (s : State) (i : Nat) (f : Claim → Claim) : (s.modClaim i f).fleetMsgs = s.fleetMsgs := rfl
@[simp] theorem State.modClaim_peerOut (s : State) (i : Nat) (f : Claim → Claim) : (s.modClaim i f).peerOut = s.peerOut := rfl
@[simp] theorem State.modClaim_peerHolds (s : State) (i : Nat) (f : Claim → Claim) : (s.modClaim i f).peerHolds = s.peerHolds := rfl
@[simp] theorem State.modClaim_peerLambda (s : State) (i : Nat) (f : Claim → Claim) : (s.modClaim i f).peerLambda = s.peerLambda := rfl
@[simp] theorem State.modClaim_spdm (s : State) (i : Nat) (f : Claim → Claim) : (s.modClaim i f).spdm = s.spdm := rfl
@[simp] theorem State.modClaim_wall (s : State) (i : Nat) (f : Claim → Claim) : (s.modClaim i f).wall = s.wall := rfl
@[simp] theorem State.modClaim_todo (s : State) (i : Nat) (f : Claim → Claim) : (s.modClaim i f).todo = s.todo := rfl
@[simp] theorem State.modClaim_inputs (s : State) (i : Nat) (f : Claim → Claim) : (s.modClaim i f).inputs = s.inputs := rfl
@[simp] theorem State.modClaim_focus (s : State) (i : Nat) (f : Claim → Claim) : (s.modClaim i f).focus = s.focus := rfl
@[simp] theorem State.modClaim_note (s : State) (i : Nat) (f : Claim → Claim) : (s.modClaim i f).note = s.note := rfl
@[simp] theorem State.modClaim_free (s : State) (i : Nat) (f : Claim → Claim) : (s.modClaim i f).free = s.free := rfl

@[simp] theorem State.modCtx_cores (s : State) (i : CtxId) (f : Ctx → Ctx) : (s.modCtx i f).cores = s.cores := rfl
@[simp] theorem State.modCtx_tiles (s : State) (i : CtxId) (f : Ctx → Ctx) : (s.modCtx i f).tiles = s.tiles := rfl
@[simp] theorem State.modCtx_claims (s : State) (i : CtxId) (f : Ctx → Ctx) : (s.modCtx i f).claims = s.claims := rfl
@[simp] theorem State.modCtx_agenda (s : State) (i : CtxId) (f : Ctx → Ctx) : (s.modCtx i f).agenda = s.agenda := rfl
@[simp] theorem State.modCtx_tlb (s : State) (i : CtxId) (f : Ctx → Ctx) : (s.modCtx i f).tlb = s.tlb := rfl
@[simp] theorem State.modCtx_far (s : State) (i : CtxId) (f : Ctx → Ctx) : (s.modCtx i f).far = s.far := rfl
@[simp] theorem State.modCtx_farMarks (s : State) (i : CtxId) (f : Ctx → Ctx) : (s.modCtx i f).farMarks = s.farMarks := rfl
@[simp] theorem State.modCtx_farFlips (s : State) (i : CtxId) (f : Ctx → Ctx) : (s.modCtx i f).farFlips = s.farFlips := rfl
@[simp] theorem State.modCtx_farTags (s : State) (i : CtxId) (f : Ctx → Ctx) : (s.modCtx i f).farTags = s.farTags := rfl
@[simp] theorem State.modCtx_queues (s : State) (i : CtxId) (f : Ctx → Ctx) : (s.modCtx i f).queues = s.queues := rfl
@[simp] theorem State.modCtx_turn (s : State) (i : CtxId) (f : Ctx → Ctx) : (s.modCtx i f).turn = s.turn := rfl
@[simp] theorem State.modCtx_mbox (s : State) (i : CtxId) (f : Ctx → Ctx) : (s.modCtx i f).mbox = s.mbox := rfl
@[simp] theorem State.modCtx_cats (s : State) (i : CtxId) (f : Ctx → Ctx) : (s.modCtx i f).cats = s.cats := rfl
@[simp] theorem State.modCtx_accessions (s : State) (i : CtxId) (f : Ctx → Ctx) : (s.modCtx i f).accessions = s.accessions := rfl
@[simp] theorem State.modCtx_reply (s : State) (i : CtxId) (f : Ctx → Ctx) : (s.modCtx i f).reply = s.reply := rfl
@[simp] theorem State.modCtx_meas (s : State) (i : CtxId) (f : Ctx → Ctx) : (s.modCtx i f).meas = s.meas := rfl
@[simp] theorem State.modCtx_startRec (s : State) (i : CtxId) (f : Ctx → Ctx) : (s.modCtx i f).startRec = s.startRec := rfl
@[simp] theorem State.modCtx_power (s : State) (i : CtxId) (f : Ctx → Ctx) : (s.modCtx i f).power = s.power := rfl
@[simp] theorem State.modCtx_ctls (s : State) (i : CtxId) (f : Ctx → Ctx) : (s.modCtx i f).ctls = s.ctls := rfl
@[simp] theorem State.modCtx_curator (s : State) (i : CtxId) (f : Ctx → Ctx) : (s.modCtx i f).curator = s.curator := rfl
@[simp] theorem State.modCtx_docents (s : State) (i : CtxId) (f : Ctx → Ctx) : (s.modCtx i f).docents = s.docents := rfl
@[simp] theorem State.modCtx_findings (s : State) (i : CtxId) (f : Ctx → Ctx) : (s.modCtx i f).findings = s.findings := rfl
@[simp] theorem State.modCtx_shifts (s : State) (i : CtxId) (f : Ctx → Ctx) : (s.modCtx i f).shifts = s.shifts := rfl
@[simp] theorem State.modCtx_retiredTiles (s : State) (i : CtxId) (f : Ctx → Ctx) : (s.modCtx i f).retiredTiles = s.retiredTiles := rfl
@[simp] theorem State.modCtx_detours (s : State) (i : CtxId) (f : Ctx → Ctx) : (s.modCtx i f).detours = s.detours := rfl
@[simp] theorem State.modCtx_failedBypass (s : State) (i : CtxId) (f : Ctx → Ctx) : (s.modCtx i f).failedBypass = s.failedBypass := rfl
@[simp] theorem State.modCtx_badFields (s : State) (i : CtxId) (f : Ctx → Ctx) : (s.modCtx i f).badFields = s.badFields := rfl
@[simp] theorem State.modCtx_lowRail (s : State) (i : CtxId) (f : Ctx → Ctx) : (s.modCtx i f).lowRail = s.lowRail := rfl
@[simp] theorem State.modCtx_lh (s : State) (i : CtxId) (f : Ctx → Ctx) : (s.modCtx i f).lh = s.lh := rfl
@[simp] theorem State.modCtx_wheel (s : State) (i : CtxId) (f : Ctx → Ctx) : (s.modCtx i f).wheel = s.wheel := rfl
@[simp] theorem State.modCtx_replayLog2 (s : State) (i : CtxId) (f : Ctx → Ctx) : (s.modCtx i f).replayLog2 = s.replayLog2 := rfl
@[simp] theorem State.modCtx_lp (s : State) (i : CtxId) (f : Ctx → Ctx) : (s.modCtx i f).lp = s.lp := rfl
@[simp] theorem State.modCtx_db4 (s : State) (i : CtxId) (f : Ctx → Ctx) : (s.modCtx i f).db4 = s.db4 := rfl
@[simp] theorem State.modCtx_slew (s : State) (i : CtxId) (f : Ctx → Ctx) : (s.modCtx i f).slew = s.slew := rfl
@[simp] theorem State.modCtx_waferTrim (s : State) (i : CtxId) (f : Ctx → Ctx) : (s.modCtx i f).waferTrim = s.waferTrim := rfl
@[simp] theorem State.modCtx_waferInt (s : State) (i : CtxId) (f : Ctx → Ctx) : (s.modCtx i f).waferInt = s.waferInt := rfl
@[simp] theorem State.modCtx_fbAcc (s : State) (i : CtxId) (f : Ctx → Ctx) : (s.modCtx i f).fbAcc = s.fbAcc := rfl
@[simp] theorem State.modCtx_throttle (s : State) (i : CtxId) (f : Ctx → Ctx) : (s.modCtx i f).throttle = s.throttle := rfl
@[simp] theorem State.modCtx_baseCut (s : State) (i : CtxId) (f : Ctx → Ctx) : (s.modCtx i f).baseCut = s.baseCut := rfl
@[simp] theorem State.modCtx_cut (s : State) (i : CtxId) (f : Ctx → Ctx) : (s.modCtx i f).cut = s.cut := rfl
@[simp] theorem State.modCtx_tests (s : State) (i : CtxId) (f : Ctx → Ctx) : (s.modCtx i f).tests = s.tests := rfl
@[simp] theorem State.modCtx_fleet (s : State) (i : CtxId) (f : Ctx → Ctx) : (s.modCtx i f).fleet = s.fleet := rfl
@[simp] theorem State.modCtx_forming (s : State) (i : CtxId) (f : Ctx → Ctx) : (s.modCtx i f).forming = s.forming := rfl
@[simp] theorem State.modCtx_fleetLaunch (s : State) (i : CtxId) (f : Ctx → Ctx) : (s.modCtx i f).fleetLaunch = s.fleetLaunch := rfl
@[simp] theorem State.modCtx_fleetMsgs (s : State) (i : CtxId) (f : Ctx → Ctx) : (s.modCtx i f).fleetMsgs = s.fleetMsgs := rfl
@[simp] theorem State.modCtx_peerOut (s : State) (i : CtxId) (f : Ctx → Ctx) : (s.modCtx i f).peerOut = s.peerOut := rfl
@[simp] theorem State.modCtx_peerHolds (s : State) (i : CtxId) (f : Ctx → Ctx) : (s.modCtx i f).peerHolds = s.peerHolds := rfl
@[simp] theorem State.modCtx_peerLambda (s : State) (i : CtxId) (f : Ctx → Ctx) : (s.modCtx i f).peerLambda = s.peerLambda := rfl
@[simp] theorem State.modCtx_spdm (s : State) (i : CtxId) (f : Ctx → Ctx) : (s.modCtx i f).spdm = s.spdm := rfl
@[simp] theorem State.modCtx_wall (s : State) (i : CtxId) (f : Ctx → Ctx) : (s.modCtx i f).wall = s.wall := rfl
@[simp] theorem State.modCtx_todo (s : State) (i : CtxId) (f : Ctx → Ctx) : (s.modCtx i f).todo = s.todo := rfl
@[simp] theorem State.modCtx_inputs (s : State) (i : CtxId) (f : Ctx → Ctx) : (s.modCtx i f).inputs = s.inputs := rfl
@[simp] theorem State.modCtx_focus (s : State) (i : CtxId) (f : Ctx → Ctx) : (s.modCtx i f).focus = s.focus := rfl
@[simp] theorem State.modCtx_note (s : State) (i : CtxId) (f : Ctx → Ctx) : (s.modCtx i f).note = s.note := rfl
@[simp] theorem State.modCtx_free (s : State) (i : CtxId) (f : Ctx → Ctx) : (s.modCtx i f).free = s.free := rfl

@[simp] theorem State.planEv_cores (s : State) (c n p : Nat) (i : Event) : (s.planEv c n p i).cores = s.cores := rfl
@[simp] theorem State.planEv_tiles (s : State) (c n p : Nat) (i : Event) : (s.planEv c n p i).tiles = s.tiles := rfl
@[simp] theorem State.planEv_claims (s : State) (c n p : Nat) (i : Event) : (s.planEv c n p i).claims = s.claims := rfl
@[simp] theorem State.planEv_ctxs (s : State) (c n p : Nat) (i : Event) : (s.planEv c n p i).ctxs = s.ctxs := rfl
@[simp] theorem State.planEv_tlb (s : State) (c n p : Nat) (i : Event) : (s.planEv c n p i).tlb = s.tlb := rfl
@[simp] theorem State.planEv_far (s : State) (c n p : Nat) (i : Event) : (s.planEv c n p i).far = s.far := rfl
@[simp] theorem State.planEv_farMarks (s : State) (c n p : Nat) (i : Event) : (s.planEv c n p i).farMarks = s.farMarks := rfl
@[simp] theorem State.planEv_farFlips (s : State) (c n p : Nat) (i : Event) : (s.planEv c n p i).farFlips = s.farFlips := rfl
@[simp] theorem State.planEv_farTags (s : State) (c n p : Nat) (i : Event) : (s.planEv c n p i).farTags = s.farTags := rfl
@[simp] theorem State.planEv_queues (s : State) (c n p : Nat) (i : Event) : (s.planEv c n p i).queues = s.queues := rfl
@[simp] theorem State.planEv_turn (s : State) (c n p : Nat) (i : Event) : (s.planEv c n p i).turn = s.turn := rfl
@[simp] theorem State.planEv_mbox (s : State) (c n p : Nat) (i : Event) : (s.planEv c n p i).mbox = s.mbox := rfl
@[simp] theorem State.planEv_cats (s : State) (c n p : Nat) (i : Event) : (s.planEv c n p i).cats = s.cats := rfl
@[simp] theorem State.planEv_accessions (s : State) (c n p : Nat) (i : Event) : (s.planEv c n p i).accessions = s.accessions := rfl
@[simp] theorem State.planEv_reply (s : State) (c n p : Nat) (i : Event) : (s.planEv c n p i).reply = s.reply := rfl
@[simp] theorem State.planEv_meas (s : State) (c n p : Nat) (i : Event) : (s.planEv c n p i).meas = s.meas := rfl
@[simp] theorem State.planEv_startRec (s : State) (c n p : Nat) (i : Event) : (s.planEv c n p i).startRec = s.startRec := rfl
@[simp] theorem State.planEv_power (s : State) (c n p : Nat) (i : Event) : (s.planEv c n p i).power = s.power := rfl
@[simp] theorem State.planEv_ctls (s : State) (c n p : Nat) (i : Event) : (s.planEv c n p i).ctls = s.ctls := rfl
@[simp] theorem State.planEv_curator (s : State) (c n p : Nat) (i : Event) : (s.planEv c n p i).curator = s.curator := rfl
@[simp] theorem State.planEv_docents (s : State) (c n p : Nat) (i : Event) : (s.planEv c n p i).docents = s.docents := rfl
@[simp] theorem State.planEv_findings (s : State) (c n p : Nat) (i : Event) : (s.planEv c n p i).findings = s.findings := rfl
@[simp] theorem State.planEv_shifts (s : State) (c n p : Nat) (i : Event) : (s.planEv c n p i).shifts = s.shifts := rfl
@[simp] theorem State.planEv_retiredTiles (s : State) (c n p : Nat) (i : Event) : (s.planEv c n p i).retiredTiles = s.retiredTiles := rfl
@[simp] theorem State.planEv_detours (s : State) (c n p : Nat) (i : Event) : (s.planEv c n p i).detours = s.detours := rfl
@[simp] theorem State.planEv_failedBypass (s : State) (c n p : Nat) (i : Event) : (s.planEv c n p i).failedBypass = s.failedBypass := rfl
@[simp] theorem State.planEv_badFields (s : State) (c n p : Nat) (i : Event) : (s.planEv c n p i).badFields = s.badFields := rfl
@[simp] theorem State.planEv_lowRail (s : State) (c n p : Nat) (i : Event) : (s.planEv c n p i).lowRail = s.lowRail := rfl
@[simp] theorem State.planEv_lh (s : State) (c n p : Nat) (i : Event) : (s.planEv c n p i).lh = s.lh := rfl
@[simp] theorem State.planEv_wheel (s : State) (c n p : Nat) (i : Event) : (s.planEv c n p i).wheel = s.wheel := rfl
@[simp] theorem State.planEv_replayLog2 (s : State) (c n p : Nat) (i : Event) : (s.planEv c n p i).replayLog2 = s.replayLog2 := rfl
@[simp] theorem State.planEv_lp (s : State) (c n p : Nat) (i : Event) : (s.planEv c n p i).lp = s.lp := rfl
@[simp] theorem State.planEv_db4 (s : State) (c n p : Nat) (i : Event) : (s.planEv c n p i).db4 = s.db4 := rfl
@[simp] theorem State.planEv_slew (s : State) (c n p : Nat) (i : Event) : (s.planEv c n p i).slew = s.slew := rfl
@[simp] theorem State.planEv_waferTrim (s : State) (c n p : Nat) (i : Event) : (s.planEv c n p i).waferTrim = s.waferTrim := rfl
@[simp] theorem State.planEv_waferInt (s : State) (c n p : Nat) (i : Event) : (s.planEv c n p i).waferInt = s.waferInt := rfl
@[simp] theorem State.planEv_fbAcc (s : State) (c n p : Nat) (i : Event) : (s.planEv c n p i).fbAcc = s.fbAcc := rfl
@[simp] theorem State.planEv_throttle (s : State) (c n p : Nat) (i : Event) : (s.planEv c n p i).throttle = s.throttle := rfl
@[simp] theorem State.planEv_baseCut (s : State) (c n p : Nat) (i : Event) : (s.planEv c n p i).baseCut = s.baseCut := rfl
@[simp] theorem State.planEv_cut (s : State) (c n p : Nat) (i : Event) : (s.planEv c n p i).cut = s.cut := rfl
@[simp] theorem State.planEv_tests (s : State) (c n p : Nat) (i : Event) : (s.planEv c n p i).tests = s.tests := rfl
@[simp] theorem State.planEv_fleet (s : State) (c n p : Nat) (i : Event) : (s.planEv c n p i).fleet = s.fleet := rfl
@[simp] theorem State.planEv_forming (s : State) (c n p : Nat) (i : Event) : (s.planEv c n p i).forming = s.forming := rfl
@[simp] theorem State.planEv_fleetLaunch (s : State) (c n p : Nat) (i : Event) : (s.planEv c n p i).fleetLaunch = s.fleetLaunch := rfl
@[simp] theorem State.planEv_fleetMsgs (s : State) (c n p : Nat) (i : Event) : (s.planEv c n p i).fleetMsgs = s.fleetMsgs := rfl
@[simp] theorem State.planEv_peerOut (s : State) (c n p : Nat) (i : Event) : (s.planEv c n p i).peerOut = s.peerOut := rfl
@[simp] theorem State.planEv_peerHolds (s : State) (c n p : Nat) (i : Event) : (s.planEv c n p i).peerHolds = s.peerHolds := rfl
@[simp] theorem State.planEv_peerLambda (s : State) (c n p : Nat) (i : Event) : (s.planEv c n p i).peerLambda = s.peerLambda := rfl
@[simp] theorem State.planEv_spdm (s : State) (c n p : Nat) (i : Event) : (s.planEv c n p i).spdm = s.spdm := rfl
@[simp] theorem State.planEv_wall (s : State) (c n p : Nat) (i : Event) : (s.planEv c n p i).wall = s.wall := rfl
@[simp] theorem State.planEv_todo (s : State) (c n p : Nat) (i : Event) : (s.planEv c n p i).todo = s.todo := rfl
@[simp] theorem State.planEv_inputs (s : State) (c n p : Nat) (i : Event) : (s.planEv c n p i).inputs = s.inputs := rfl
@[simp] theorem State.planEv_focus (s : State) (c n p : Nat) (i : Event) : (s.planEv c n p i).focus = s.focus := rfl
@[simp] theorem State.planEv_note (s : State) (c n p : Nat) (i : Event) : (s.planEv c n p i).note = s.note := rfl
@[simp] theorem State.planEv_free (s : State) (c n p : Nat) (i : Event) : (s.planEv c n p i).free = s.free := rfl

@[simp] theorem State.plan_agenda (s : State) (e : Sched) : (s.plan e).agenda = s.agenda ++ [e] := rfl
@[simp] theorem State.push_todo (s : State) (i : Event) : (s.push i).todo = .ev i :: s.todo := rfl
@[simp] theorem State.setCore_cores (s : State) (i : StrandId) (x : Core) : (s.setCore i x).cores = put s.cores i x := rfl
@[simp] theorem State.setTile_tiles (s : State) (i : TileId) (x : Tile) : (s.setTile i x).tiles = put s.tiles i x := rfl
@[simp] theorem State.setClaim_claims (s : State) (i : Nat) (x : Claim) : (s.setClaim i x).claims = put s.claims i x := rfl
@[simp] theorem State.setCtx_ctxs (s : State) (i : CtxId) (x : Ctx) : (s.setCtx i x).ctxs = put s.ctxs i x := rfl

/-! ## Tables -/

theorem find_put_self {κ α : Type} [DecidableEq κ] (l : List (κ × α)) (x : κ) (y : α) : find (put l x y) x = some y := by
  induction l with
  | nil => simp [put, find]
  | cons p l ih =>
    obtain ⟨k, v⟩ := p
    by_cases h : k = x <;> simp [put, find, h, ih]

theorem find_put_ne {κ α : Type} [DecidableEq κ] (l : List (κ × α)) (x z : κ) (y : α) (hz : z ≠ x) :
    find (put l x y) z = find l z := by
  induction l with
  | nil => simp [put, find, Ne.symm hz]
  | cons p l ih =>
    obtain ⟨k, v⟩ := p
    by_cases h : k = x
    · subst h; simp [put, find, Ne.symm hz]
    · by_cases h2 : k = z
      · subst h2; simp [put, find, h]
      · simp [put, find, h, h2, ih]

/-- What a table holds after `put` was there before or is the new value. -/
theorem mem_put {κ α : Type} [DecidableEq κ] {l : List (κ × α)} {x : κ} {y : α} {p : κ × α} (h : p ∈ put l x y) :
    p ∈ l ∨ p = (x, y) := by
  induction l with
  | nil => simpa [put] using h
  | cons q l ih =>
    obtain ⟨k, v⟩ := q
    by_cases hk : k = x <;> simp only [put, hk, if_true, if_false, List.mem_cons] at h ⊢ <;> tauto

/-- A found value stands in the table. -/
theorem mem_of_find {κ α : Type} [DecidableEq κ] {l : List (κ × α)} {x : κ} {y : α} (h : find l x = some y) : (x, y) ∈ l := by
  induction l with
  | nil => simp [find] at h
  | cons q l ih =>
    obtain ⟨k, v⟩ := q
    by_cases hk : k = x
    · subst hk; simp [find] at h; simp [h]
    · simp [find, hk] at h; exact List.mem_cons_of_mem _ (ih h)

/-! ## Reads of the tables after an update -/

namespace State

@[simp] theorem coreOf_setCore (s : State) (i : StrandId) (x : Core) : (s.setCore i x).coreOf i = x := by
  simp [coreOf, find_put_self]
theorem coreOf_setCore_ne (s : State) (i j : StrandId) (x : Core) (h : j ≠ i) : (s.setCore i x).coreOf j = s.coreOf j := by
  simp [coreOf, find_put_ne _ _ _ _ h]
@[simp] theorem claimOf_setClaim (s : State) (c : Nat) (x : Claim) : (s.setClaim c x).claimOf c = x := by
  simp [claimOf, find_put_self]
theorem claimOf_setClaim_ne (s : State) (c d : Nat) (x : Claim) (h : d ≠ c) : (s.setClaim c x).claimOf d = s.claimOf d := by
  simp [claimOf, find_put_ne _ _ _ _ h]
@[simp] theorem tileOf_setTile (s : State) (i : TileId) (x : Tile) : (s.setTile i x).tileOf i = x := by
  simp [tileOf, find_put_self]
theorem tileOf_setTile_ne (s : State) (i j : TileId) (x : Tile) (h : j ≠ i) : (s.setTile i x).tileOf j = s.tileOf j := by
  simp [tileOf, find_put_ne _ _ _ _ h, claimOf]
@[simp] theorem ctxOf_setCtx (s : State) (c : CtxId) (x : Ctx) : (s.setCtx c x).ctxOf c = x := by
  simp [ctxOf, find_put_self]
theorem ctxOf_setCtx_ne (s : State) (c d : CtxId) (x : Ctx) (h : d ≠ c) : (s.setCtx c x).ctxOf d = s.ctxOf d := by
  simp [ctxOf, find_put_ne _ _ _ _ h]
@[simp] theorem ctlOf_setCtl (s : State) (c : Controller) (x : Ctl) : (s.setCtl c x).ctlOf c = x := by
  simp [ctlOf, setCtl, find_put_self]

@[simp] theorem coreOf_modCore (s : State) (i : StrandId) (f : Core → Core) : (s.modCore i f).coreOf i = f (s.coreOf i) := by
  simp [modCore]
theorem coreOf_modCore_ne (s : State) (i j : StrandId) (f : Core → Core) (h : j ≠ i) : (s.modCore i f).coreOf j = s.coreOf j := by
  simp [modCore, coreOf_setCore_ne _ _ _ _ h]
@[simp] theorem claimOf_modClaim (s : State) (c : Nat) (f : Claim → Claim) : (s.modClaim c f).claimOf c = f (s.claimOf c) := by
  simp [modClaim]
theorem claimOf_modClaim_ne (s : State) (c d : Nat) (f : Claim → Claim) (h : d ≠ c) :
    (s.modClaim c f).claimOf d = s.claimOf d := by
  simp [modClaim, claimOf_setClaim_ne _ _ _ _ h]
@[simp] theorem tileOf_modTile (s : State) (i : TileId) (f : Tile → Tile) : (s.modTile i f).tileOf i = f (s.tileOf i) := by
  simp [modTile]
theorem tileOf_modTile_ne (s : State) (i j : TileId) (f : Tile → Tile) (h : j ≠ i) : (s.modTile i f).tileOf j = s.tileOf j := by
  simp [modTile, tileOf_setTile_ne _ _ _ _ h]
@[simp] theorem ctxOf_modCtx (s : State) (c : CtxId) (f : Ctx → Ctx) : (s.modCtx c f).ctxOf c = f (s.ctxOf c) := by
  simp [modCtx]

@[simp] theorem coreOf_setTile (s : State) (i : TileId) (x : Tile) (j : StrandId) : (s.setTile i x).coreOf j = s.coreOf j := rfl
@[simp] theorem coreOf_setClaim (s : State) (i : Nat) (x : Claim) (j : StrandId) : (s.setClaim i x).coreOf j = s.coreOf j := rfl
@[simp] theorem coreOf_setCtx (s : State) (i : CtxId) (x : Ctx) (j : StrandId) : (s.setCtx i x).coreOf j = s.coreOf j := rfl
@[simp] theorem coreOf_setCtl (s : State) (i : Controller) (x : Ctl) (j : StrandId) : (s.setCtl i x).coreOf j = s.coreOf j := rfl
@[simp] theorem coreOf_plan (s : State) (e : Sched) (j : StrandId) : (s.plan e).coreOf j = s.coreOf j := rfl
@[simp] theorem coreOf_push (s : State) (i : Event) (j : StrandId) : (s.push i).coreOf j = s.coreOf j := rfl
@[simp] theorem coreOf_modTile (s : State) (i : TileId) (f : Tile → Tile) (j : StrandId) : (s.modTile i f).coreOf j = s.coreOf j := rfl
@[simp] theorem coreOf_modClaim (s : State) (i : Nat) (f : Claim → Claim) (j : StrandId) : (s.modClaim i f).coreOf j = s.coreOf j := rfl
@[simp] theorem coreOf_modCtx (s : State) (i : CtxId) (f : Ctx → Ctx) (j : StrandId) : (s.modCtx i f).coreOf j = s.coreOf j := rfl
@[simp] theorem coreOf_planEv (s : State) (c n p : Nat) (i : Event) (j : StrandId) : (s.planEv c n p i).coreOf j = s.coreOf j := rfl
@[simp] theorem claimOf_setCore (s : State) (i : StrandId) (x : Core) (j : Nat) : (s.setCore i x).claimOf j = s.claimOf j := rfl
@[simp] theorem claimOf_setTile (s : State) (i : TileId) (x : Tile) (j : Nat) : (s.setTile i x).claimOf j = s.claimOf j := rfl
@[simp] theorem claimOf_setCtx (s : State) (i : CtxId) (x : Ctx) (j : Nat) : (s.setCtx i x).claimOf j = s.claimOf j := rfl
@[simp] theorem claimOf_setCtl (s : State) (i : Controller) (x : Ctl) (j : Nat) : (s.setCtl i x).claimOf j = s.claimOf j := rfl
@[simp] theorem claimOf_plan (s : State) (e : Sched) (j : Nat) : (s.plan e).claimOf j = s.claimOf j := rfl
@[simp] theorem claimOf_push (s : State) (i : Event) (j : Nat) : (s.push i).claimOf j = s.claimOf j := rfl
@[simp] theorem claimOf_modCore (s : State) (i : StrandId) (f : Core → Core) (j : Nat) : (s.modCore i f).claimOf j = s.claimOf j := rfl
@[simp] theorem claimOf_modTile (s : State) (i : TileId) (f : Tile → Tile) (j : Nat) : (s.modTile i f).claimOf j = s.claimOf j := rfl
@[simp] theorem claimOf_modCtx (s : State) (i : CtxId) (f : Ctx → Ctx) (j : Nat) : (s.modCtx i f).claimOf j = s.claimOf j := rfl
@[simp] theorem claimOf_planEv (s : State) (c n p : Nat) (i : Event) (j : Nat) : (s.planEv c n p i).claimOf j = s.claimOf j := rfl
@[simp] theorem tileOf_setCore (s : State) (i : StrandId) (x : Core) (j : TileId) : (s.setCore i x).tileOf j = s.tileOf j := rfl
@[simp] theorem tileOf_setCtx (s : State) (i : CtxId) (x : Ctx) (j : TileId) : (s.setCtx i x).tileOf j = s.tileOf j := rfl
@[simp] theorem tileOf_setCtl (s : State) (i : Controller) (x : Ctl) (j : TileId) : (s.setCtl i x).tileOf j = s.tileOf j := rfl
@[simp] theorem tileOf_plan (s : State) (e : Sched) (j : TileId) : (s.plan e).tileOf j = s.tileOf j := rfl
@[simp] theorem tileOf_push (s : State) (i : Event) (j : TileId) : (s.push i).tileOf j = s.tileOf j := rfl
@[simp] theorem tileOf_modCore (s : State) (i : StrandId) (f : Core → Core) (j : TileId) : (s.modCore i f).tileOf j = s.tileOf j := rfl
@[simp] theorem tileOf_modCtx (s : State) (i : CtxId) (f : Ctx → Ctx) (j : TileId) : (s.modCtx i f).tileOf j = s.tileOf j := rfl
@[simp] theorem tileOf_planEv (s : State) (c n p : Nat) (i : Event) (j : TileId) : (s.planEv c n p i).tileOf j = s.tileOf j := rfl
@[simp] theorem ctxOf_setCore (s : State) (i : StrandId) (x : Core) (j : CtxId) : (s.setCore i x).ctxOf j = s.ctxOf j := rfl
@[simp] theorem ctxOf_setTile (s : State) (i : TileId) (x : Tile) (j : CtxId) : (s.setTile i x).ctxOf j = s.ctxOf j := rfl
@[simp] theorem ctxOf_setClaim (s : State) (i : Nat) (x : Claim) (j : CtxId) : (s.setClaim i x).ctxOf j = s.ctxOf j := rfl
@[simp] theorem ctxOf_setCtl (s : State) (i : Controller) (x : Ctl) (j : CtxId) : (s.setCtl i x).ctxOf j = s.ctxOf j := rfl
@[simp] theorem ctxOf_plan (s : State) (e : Sched) (j : CtxId) : (s.plan e).ctxOf j = s.ctxOf j := rfl
@[simp] theorem ctxOf_push (s : State) (i : Event) (j : CtxId) : (s.push i).ctxOf j = s.ctxOf j := rfl
@[simp] theorem ctxOf_modCore (s : State) (i : StrandId) (f : Core → Core) (j : CtxId) : (s.modCore i f).ctxOf j = s.ctxOf j := rfl
@[simp] theorem ctxOf_modTile (s : State) (i : TileId) (f : Tile → Tile) (j : CtxId) : (s.modTile i f).ctxOf j = s.ctxOf j := rfl
@[simp] theorem ctxOf_modClaim (s : State) (i : Nat) (f : Claim → Claim) (j : CtxId) : (s.modClaim i f).ctxOf j = s.ctxOf j := rfl
@[simp] theorem ctxOf_planEv (s : State) (c n p : Nat) (i : Event) (j : CtxId) : (s.planEv c n p i).ctxOf j = s.ctxOf j := rfl
@[simp] theorem ctlOf_setCore (s : State) (i : StrandId) (x : Core) (j : Controller) : (s.setCore i x).ctlOf j = s.ctlOf j := rfl
@[simp] theorem ctlOf_setTile (s : State) (i : TileId) (x : Tile) (j : Controller) : (s.setTile i x).ctlOf j = s.ctlOf j := rfl
@[simp] theorem ctlOf_setClaim (s : State) (i : Nat) (x : Claim) (j : Controller) : (s.setClaim i x).ctlOf j = s.ctlOf j := rfl
@[simp] theorem ctlOf_setCtx (s : State) (i : CtxId) (x : Ctx) (j : Controller) : (s.setCtx i x).ctlOf j = s.ctlOf j := rfl
@[simp] theorem ctlOf_plan (s : State) (e : Sched) (j : Controller) : (s.plan e).ctlOf j = s.ctlOf j := rfl
@[simp] theorem ctlOf_push (s : State) (i : Event) (j : Controller) : (s.push i).ctlOf j = s.ctlOf j := rfl
@[simp] theorem ctlOf_modCore (s : State) (i : StrandId) (f : Core → Core) (j : Controller) : (s.modCore i f).ctlOf j = s.ctlOf j := rfl
@[simp] theorem ctlOf_modTile (s : State) (i : TileId) (f : Tile → Tile) (j : Controller) : (s.modTile i f).ctlOf j = s.ctlOf j := rfl
@[simp] theorem ctlOf_modClaim (s : State) (i : Nat) (f : Claim → Claim) (j : Controller) : (s.modClaim i f).ctlOf j = s.ctlOf j := rfl
@[simp] theorem ctlOf_modCtx (s : State) (i : CtxId) (f : Ctx → Ctx) (j : Controller) : (s.modCtx i f).ctlOf j = s.ctlOf j := rfl
@[simp] theorem ctlOf_planEv (s : State) (c n p : Nat) (i : Event) (j : Controller) : (s.planEv c n p i).ctlOf j = s.ctlOf j := rfl
@[simp] theorem now_setCore (s : State) (i : StrandId) (x : Core) (j : Nat) : (s.setCore i x).now j = s.now j := rfl
@[simp] theorem t_setCore (s : State) (i : StrandId) (x : Core) : (s.setCore i x).t = s.t := rfl
@[simp] theorem myTile_setCore (s : State) (i : StrandId) (x : Core) : (s.setCore i x).myTile = s.myTile := rfl
@[simp] theorem countOf_setCore (s : State) (i : StrandId) (x : Core) (j : TileId) : (s.setCore i x).countOf j = s.countOf j := rfl
@[simp] theorem now_setTile (s : State) (i : TileId) (x : Tile) (j : Nat) : (s.setTile i x).now j = s.now j := rfl
@[simp] theorem t_setTile (s : State) (i : TileId) (x : Tile) : (s.setTile i x).t = s.t := rfl
@[simp] theorem me_setTile (s : State) (i : TileId) (x : Tile) : (s.setTile i x).me = s.me := rfl
@[simp] theorem me_setClaim (s : State) (i : Nat) (x : Claim) : (s.setClaim i x).me = s.me := rfl
@[simp] theorem now_setCtx (s : State) (i : CtxId) (x : Ctx) (j : Nat) : (s.setCtx i x).now j = s.now j := rfl
@[simp] theorem t_setCtx (s : State) (i : CtxId) (x : Ctx) : (s.setCtx i x).t = s.t := rfl
@[simp] theorem me_setCtx (s : State) (i : CtxId) (x : Ctx) : (s.setCtx i x).me = s.me := rfl
@[simp] theorem myTile_setCtx (s : State) (i : CtxId) (x : Ctx) : (s.setCtx i x).myTile = s.myTile := rfl
@[simp] theorem countOf_setCtx (s : State) (i : CtxId) (x : Ctx) (j : TileId) : (s.setCtx i x).countOf j = s.countOf j := rfl
@[simp] theorem now_setCtl (s : State) (i : Controller) (x : Ctl) (j : Nat) : (s.setCtl i x).now j = s.now j := rfl
@[simp] theorem t_setCtl (s : State) (i : Controller) (x : Ctl) : (s.setCtl i x).t = s.t := rfl
@[simp] theorem me_setCtl (s : State) (i : Controller) (x : Ctl) : (s.setCtl i x).me = s.me := rfl
@[simp] theorem myTile_setCtl (s : State) (i : Controller) (x : Ctl) : (s.setCtl i x).myTile = s.myTile := rfl
@[simp] theorem countOf_setCtl (s : State) (i : Controller) (x : Ctl) (j : TileId) : (s.setCtl i x).countOf j = s.countOf j := rfl
@[simp] theorem now_plan (s : State) (e : Sched) (j : Nat) : (s.plan e).now j = s.now j := rfl
@[simp] theorem t_plan (s : State) (e : Sched) : (s.plan e).t = s.t := rfl
@[simp] theorem me_plan (s : State) (e : Sched) : (s.plan e).me = s.me := rfl
@[simp] theorem myTile_plan (s : State) (e : Sched) : (s.plan e).myTile = s.myTile := rfl
@[simp] theorem countOf_plan (s : State) (e : Sched) (j : TileId) : (s.plan e).countOf j = s.countOf j := rfl
@[simp] theorem now_push (s : State) (i : Event) (j : Nat) : (s.push i).now j = s.now j := rfl
@[simp] theorem t_push (s : State) (i : Event) : (s.push i).t = s.t := rfl
@[simp] theorem me_push (s : State) (i : Event) : (s.push i).me = s.me := rfl
@[simp] theorem myTile_push (s : State) (i : Event) : (s.push i).myTile = s.myTile := rfl
@[simp] theorem countOf_push (s : State) (i : Event) (j : TileId) : (s.push i).countOf j = s.countOf j := rfl
@[simp] theorem now_modCore (s : State) (i : StrandId) (f : Core → Core) (j : Nat) : (s.modCore i f).now j = s.now j := rfl
@[simp] theorem t_modCore (s : State) (i : StrandId) (f : Core → Core) : (s.modCore i f).t = s.t := rfl
@[simp] theorem myTile_modCore (s : State) (i : StrandId) (f : Core → Core) : (s.modCore i f).myTile = s.myTile := rfl
@[simp] theorem countOf_modCore (s : State) (i : StrandId) (f : Core → Core) (j : TileId) : (s.modCore i f).countOf j = s.countOf j := rfl
@[simp] theorem now_modTile (s : State) (i : TileId) (f : Tile → Tile) (j : Nat) : (s.modTile i f).now j = s.now j := rfl
@[simp] theorem t_modTile (s : State) (i : TileId) (f : Tile → Tile) : (s.modTile i f).t = s.t := rfl
@[simp] theorem me_modTile (s : State) (i : TileId) (f : Tile → Tile) : (s.modTile i f).me = s.me := rfl
@[simp] theorem me_modClaim (s : State) (i : Nat) (f : Claim → Claim) : (s.modClaim i f).me = s.me := rfl
@[simp] theorem now_modCtx (s : State) (i : CtxId) (f : Ctx → Ctx) (j : Nat) : (s.modCtx i f).now j = s.now j := rfl
@[simp] theorem t_modCtx (s : State) (i : CtxId) (f : Ctx → Ctx) : (s.modCtx i f).t = s.t := rfl
@[simp] theorem me_modCtx (s : State) (i : CtxId) (f : Ctx → Ctx) : (s.modCtx i f).me = s.me := rfl
@[simp] theorem myTile_modCtx (s : State) (i : CtxId) (f : Ctx → Ctx) : (s.modCtx i f).myTile = s.myTile := rfl
@[simp] theorem countOf_modCtx (s : State) (i : CtxId) (f : Ctx → Ctx) (j : TileId) : (s.modCtx i f).countOf j = s.countOf j := rfl
@[simp] theorem now_planEv (s : State) (c n p : Nat) (i : Event) (j : Nat) : (s.planEv c n p i).now j = s.now j := rfl
@[simp] theorem t_planEv (s : State) (c n p : Nat) (i : Event) : (s.planEv c n p i).t = s.t := rfl
@[simp] theorem me_planEv (s : State) (c n p : Nat) (i : Event) : (s.planEv c n p i).me = s.me := rfl
@[simp] theorem myTile_planEv (s : State) (c n p : Nat) (i : Event) : (s.planEv c n p i).myTile = s.myTile := rfl
@[simp] theorem countOf_planEv (s : State) (c n p : Nat) (i : Event) (j : TileId) : (s.planEv c n p i).countOf j = s.countOf j := rfl

end State

end Sys2Proof.Machine
end

