-- ==== Sys2Proof/Laws/Ops.lean ====
section
/-!
SUPPORT. One lemma per shared operation: what it can answer and what it leaves unchanged.
-/

namespace Sys2Proof.Machine

/-! ## Taint (spec/13 R343) -/

@[simp] theorem State.taintIf_tiles (s : State) (p : Bool) : (s.taintIf p).tiles = s.tiles := by cases p <;> rfl
@[simp] theorem State.taintIf_claims (s : State) (p : Bool) : (s.taintIf p).claims = s.claims := by cases p <;> rfl
@[simp] theorem State.taintIf_agenda (s : State) (p : Bool) : (s.taintIf p).agenda = s.agenda := by cases p <;> rfl
@[simp] theorem State.taintIf_ctxs (s : State) (p : Bool) : (s.taintIf p).ctxs = s.ctxs := by cases p <;> rfl
@[simp] theorem State.taintIf_tlb (s : State) (p : Bool) : (s.taintIf p).tlb = s.tlb := by cases p <;> rfl
@[simp] theorem State.taintIf_far (s : State) (p : Bool) : (s.taintIf p).far = s.far := by cases p <;> rfl
@[simp] theorem State.taintIf_farMarks (s : State) (p : Bool) : (s.taintIf p).farMarks = s.farMarks := by cases p <;> rfl
@[simp] theorem State.taintIf_farFlips (s : State) (p : Bool) : (s.taintIf p).farFlips = s.farFlips := by cases p <;> rfl
@[simp] theorem State.taintIf_farTags (s : State) (p : Bool) : (s.taintIf p).farTags = s.farTags := by cases p <;> rfl
@[simp] theorem State.taintIf_queues (s : State) (p : Bool) : (s.taintIf p).queues = s.queues := by cases p <;> rfl
@[simp] theorem State.taintIf_turn (s : State) (p : Bool) : (s.taintIf p).turn = s.turn := by cases p <;> rfl
@[simp] theorem State.taintIf_mbox (s : State) (p : Bool) : (s.taintIf p).mbox = s.mbox := by cases p <;> rfl
@[simp] theorem State.taintIf_cats (s : State) (p : Bool) : (s.taintIf p).cats = s.cats := by cases p <;> rfl
@[simp] theorem State.taintIf_accessions (s : State) (p : Bool) : (s.taintIf p).accessions = s.accessions := by cases p <;> rfl
@[simp] theorem State.taintIf_reply (s : State) (p : Bool) : (s.taintIf p).reply = s.reply := by cases p <;> rfl
@[simp] theorem State.taintIf_meas (s : State) (p : Bool) : (s.taintIf p).meas = s.meas := by cases p <;> rfl
@[simp] theorem State.taintIf_startRec (s : State) (p : Bool) : (s.taintIf p).startRec = s.startRec := by cases p <;> rfl
@[simp] theorem State.taintIf_power (s : State) (p : Bool) : (s.taintIf p).power = s.power := by cases p <;> rfl
@[simp] theorem State.taintIf_ctls (s : State) (p : Bool) : (s.taintIf p).ctls = s.ctls := by cases p <;> rfl
@[simp] theorem State.taintIf_curator (s : State) (p : Bool) : (s.taintIf p).curator = s.curator := by cases p <;> rfl
@[simp] theorem State.taintIf_docents (s : State) (p : Bool) : (s.taintIf p).docents = s.docents := by cases p <;> rfl
@[simp] theorem State.taintIf_findings (s : State) (p : Bool) : (s.taintIf p).findings = s.findings := by cases p <;> rfl
@[simp] theorem State.taintIf_shifts (s : State) (p : Bool) : (s.taintIf p).shifts = s.shifts := by cases p <;> rfl
@[simp] theorem State.taintIf_retiredTiles (s : State) (p : Bool) : (s.taintIf p).retiredTiles = s.retiredTiles := by cases p <;> rfl
@[simp] theorem State.taintIf_detours (s : State) (p : Bool) : (s.taintIf p).detours = s.detours := by cases p <;> rfl
@[simp] theorem State.taintIf_failedBypass (s : State) (p : Bool) : (s.taintIf p).failedBypass = s.failedBypass := by cases p <;> rfl
@[simp] theorem State.taintIf_badFields (s : State) (p : Bool) : (s.taintIf p).badFields = s.badFields := by cases p <;> rfl
@[simp] theorem State.taintIf_lowRail (s : State) (p : Bool) : (s.taintIf p).lowRail = s.lowRail := by cases p <;> rfl
@[simp] theorem State.taintIf_lh (s : State) (p : Bool) : (s.taintIf p).lh = s.lh := by cases p <;> rfl
@[simp] theorem State.taintIf_wheel (s : State) (p : Bool) : (s.taintIf p).wheel = s.wheel := by cases p <;> rfl
@[simp] theorem State.taintIf_replayLog2 (s : State) (p : Bool) : (s.taintIf p).replayLog2 = s.replayLog2 := by cases p <;> rfl
@[simp] theorem State.taintIf_lp (s : State) (p : Bool) : (s.taintIf p).lp = s.lp := by cases p <;> rfl
@[simp] theorem State.taintIf_db4 (s : State) (p : Bool) : (s.taintIf p).db4 = s.db4 := by cases p <;> rfl
@[simp] theorem State.taintIf_slew (s : State) (p : Bool) : (s.taintIf p).slew = s.slew := by cases p <;> rfl
@[simp] theorem State.taintIf_waferTrim (s : State) (p : Bool) : (s.taintIf p).waferTrim = s.waferTrim := by cases p <;> rfl
@[simp] theorem State.taintIf_waferInt (s : State) (p : Bool) : (s.taintIf p).waferInt = s.waferInt := by cases p <;> rfl
@[simp] theorem State.taintIf_fbAcc (s : State) (p : Bool) : (s.taintIf p).fbAcc = s.fbAcc := by cases p <;> rfl
@[simp] theorem State.taintIf_throttle (s : State) (p : Bool) : (s.taintIf p).throttle = s.throttle := by cases p <;> rfl
@[simp] theorem State.taintIf_baseCut (s : State) (p : Bool) : (s.taintIf p).baseCut = s.baseCut := by cases p <;> rfl
@[simp] theorem State.taintIf_cut (s : State) (p : Bool) : (s.taintIf p).cut = s.cut := by cases p <;> rfl
@[simp] theorem State.taintIf_tests (s : State) (p : Bool) : (s.taintIf p).tests = s.tests := by cases p <;> rfl
@[simp] theorem State.taintIf_fleet (s : State) (p : Bool) : (s.taintIf p).fleet = s.fleet := by cases p <;> rfl
@[simp] theorem State.taintIf_forming (s : State) (p : Bool) : (s.taintIf p).forming = s.forming := by cases p <;> rfl
@[simp] theorem State.taintIf_fleetLaunch (s : State) (p : Bool) : (s.taintIf p).fleetLaunch = s.fleetLaunch := by cases p <;> rfl
@[simp] theorem State.taintIf_fleetMsgs (s : State) (p : Bool) : (s.taintIf p).fleetMsgs = s.fleetMsgs := by cases p <;> rfl
@[simp] theorem State.taintIf_peerOut (s : State) (p : Bool) : (s.taintIf p).peerOut = s.peerOut := by cases p <;> rfl
@[simp] theorem State.taintIf_peerHolds (s : State) (p : Bool) : (s.taintIf p).peerHolds = s.peerHolds := by cases p <;> rfl
@[simp] theorem State.taintIf_peerLambda (s : State) (p : Bool) : (s.taintIf p).peerLambda = s.peerLambda := by cases p <;> rfl
@[simp] theorem State.taintIf_spdm (s : State) (p : Bool) : (s.taintIf p).spdm = s.spdm := by cases p <;> rfl
@[simp] theorem State.taintIf_wall (s : State) (p : Bool) : (s.taintIf p).wall = s.wall := by cases p <;> rfl
@[simp] theorem State.taintIf_todo (s : State) (p : Bool) : (s.taintIf p).todo = s.todo := by cases p <;> rfl
@[simp] theorem State.taintIf_inputs (s : State) (p : Bool) : (s.taintIf p).inputs = s.inputs := by cases p <;> rfl
@[simp] theorem State.taintIf_focus (s : State) (p : Bool) : (s.taintIf p).focus = s.focus := by cases p <;> rfl
@[simp] theorem State.taintIf_note (s : State) (p : Bool) : (s.taintIf p).note = s.note := by cases p <;> rfl
@[simp] theorem State.taintIf_free (s : State) (p : Bool) : (s.taintIf p).free = s.free := by cases p <;> rfl

namespace State

@[simp] theorem taintIf_false (s : State) : s.taintIf false = s := rfl

@[simp] theorem me_taintIf (s : State) (p : Bool) : (s.taintIf p).me = { s.me with taint := s.me.taint || p } := by
  cases p
  · simp [taintIf]
  · simp [taintIf, me]

@[simp] theorem tileOf_taintIf (s : State) (p : Bool) (t : TileId) : (s.taintIf p).tileOf t = s.tileOf t := by cases p <;> rfl
@[simp] theorem claimOf_taintIf (s : State) (p : Bool) (c : Nat) : (s.taintIf p).claimOf c = s.claimOf c := by cases p <;> rfl
@[simp] theorem ctxOf_taintIf (s : State) (p : Bool) (c : CtxId) : (s.taintIf p).ctxOf c = s.ctxOf c := by cases p <;> rfl
@[simp] theorem now_taintIf (s : State) (p : Bool) (c : Nat) : (s.taintIf p).now c = s.now c := by cases p <;> rfl
@[simp] theorem t_taintIf (s : State) (p : Bool) : (s.taintIf p).t = s.t := by cases p <;> rfl
@[simp] theorem myTile_taintIf (s : State) (p : Bool) : (s.taintIf p).myTile = s.myTile := by cases p <;> rfl
@[simp] theorem countOf_taintIf (s : State) (p : Bool) (t : TileId) : (s.taintIf p).countOf t = s.countOf t := by cases p <;> rfl
theorem coreOf_taintIf_ne (s : State) (p : Bool) (i : StrandId) (h : i ≠ s.focus) : (s.taintIf p).coreOf i = s.coreOf i := by
  cases p
  · rfl
  · simp [taintIf, coreOf_modCore_ne _ _ _ _ h]

end State

/-! ## Reads of a core that only its taint distinguishes -/

namespace Core

@[simp] theorem readG_taint (c : Core) (b : Bool) (i : BitVec 6) : Core.readG { c with taint := b } i = c.readG i := rfl
@[simp] theorem readA_taint (c : Core) (b : Bool) (i : BitVec 4) : Core.readA { c with taint := b } i = c.readA i := rfl
@[simp] theorem readV_taint (c : Core) (b : Bool) (i : BitVec 6) : Core.readV { c with taint := b } i = c.readV i := rfl
@[simp] theorem readK_taint (c : Core) (b : Bool) (i : BitVec 4) : Core.readK { c with taint := b } i = c.readK i := rfl
@[simp] theorem srcG_taint (c : Core) (b : Bool) (i : Src 6) : Core.srcG { c with taint := b } i = c.srcG i := by cases i <;> rfl
@[simp] theorem srcA_taint (c : Core) (b : Bool) (i : Src 4) : Core.srcA { c with taint := b } i = c.srcA i := by cases i <;> rfl
@[simp] theorem srcK_taint (c : Core) (b : Bool) (i : Src 4) : Core.srcK { c with taint := b } i = c.srcK i := by cases i <;> rfl
@[simp] theorem srcV_taint (c : Core) (b : Bool) (i : Src 6) : Core.srcV { c with taint := b } i = c.srcV i := by cases i <;> rfl
@[simp] theorem srcF_taint (c : Core) (b f : Bool) (i : Src 6) : Core.srcF { c with taint := b } f i = c.srcF f i := by
  cases i <;> rfl
@[simp] theorem ok_taint {n : Nat} (c : Core) (b : Bool) (i : Src n) : Core.ok { c with taint := b } i = c.ok i := by
  cases i <;> rfl

/-- g0 reads zero and k0 all ones (spec/01 R16). -/
@[simp] theorem readG_zero (c : Core) : c.readG 0 = .clean 0 := rfl
@[simp] theorem readK_zero (c : Core) : c.readK 0 = .clean 0xFFFF := rfl

theorem readG_writeG (c : Core) (i : BitVec 6) (v : MWord) (h : i ≠ 0) : (c.writeG i v).readG i = v := by
  have h' : i ≠ 0#6 := h
  simp [readG, writeG, h', Tab.at, Tab.put]
theorem readG_writeG_ne (c : Core) (i j : BitVec 6) (v : MWord) (h : j ≠ i) : (c.writeG i v).readG j = c.readG j := by
  unfold readG writeG
  have h' : i.toNat ≠ j.toNat := fun e => h (BitVec.eq_of_toNat_eq e.symm)
  split
  · rfl
  · split
    · rfl
    · simp [Tab.at, Tab.put, h']
theorem readA_writeA (c : Core) (i : BitVec 4) (v : MQuad) : (c.writeA i v).readA i = v := by
  simp [readA, writeA, Tab.at, Tab.put]
theorem readA_writeA_ne (c : Core) (i j : BitVec 4) (v : MQuad) (h : j ≠ i) : (c.writeA i v).readA j = c.readA j := by
  have h' : i.toNat ≠ j.toNat := fun e => h (BitVec.eq_of_toNat_eq e.symm)
  simp [readA, writeA, Tab.at, Tab.put, h']
theorem readV_writeV (c : Core) (i : BitVec 6) (v : MVec) : (c.writeV i v).readV i = v := by
  simp [readV, writeV, Tab.at, Tab.put]
theorem readV_writeV_ne (c : Core) (i j : BitVec 6) (v : MVec) (h : j ≠ i) : (c.writeV i v).readV j = c.readV j := by
  have h' : i.toNat ≠ j.toNat := fun e => h (BitVec.eq_of_toNat_eq e.symm)
  simp [readV, writeV, Tab.at, Tab.put, h']
theorem readK_writeK (c : Core) (i : BitVec 4) (v : MMask) (h : i ≠ 0) : (c.writeK i v).readK i = v := by
  have h' : i ≠ 0#4 := h
  simp [readK, writeK, h', Tab.at, Tab.put]
theorem readK_writeK_ne (c : Core) (i j : BitVec 4) (v : MMask) (h : j ≠ i) : (c.writeK i v).readK j = c.readK j := by
  unfold readK writeK
  have h' : i.toNat ≠ j.toNat := fun e => h (BitVec.eq_of_toNat_eq e.symm)
  split
  · rfl
  · split
    · rfl
    · simp [Tab.at, Tab.put, h']

end Core

/-! ## Faults (spec/13 R339 to R342): a bundle fault changes cores, claims, the agenda and the note alone -/

@[simp] theorem recordFault_tiles (s : State) (cl : Nat) (r : FaultRec) : (recordFault s cl r).tiles = s.tiles := rfl
@[simp] theorem recordFault_ctxs (s : State) (cl : Nat) (r : FaultRec) : (recordFault s cl r).ctxs = s.ctxs := rfl
@[simp] theorem recordFault_tlb (s : State) (cl : Nat) (r : FaultRec) : (recordFault s cl r).tlb = s.tlb := rfl
@[simp] theorem recordFault_far (s : State) (cl : Nat) (r : FaultRec) : (recordFault s cl r).far = s.far := rfl
@[simp] theorem recordFault_farMarks (s : State) (cl : Nat) (r : FaultRec) : (recordFault s cl r).farMarks = s.farMarks := rfl
@[simp] theorem recordFault_farFlips (s : State) (cl : Nat) (r : FaultRec) : (recordFault s cl r).farFlips = s.farFlips := rfl
@[simp] theorem recordFault_farTags (s : State) (cl : Nat) (r : FaultRec) : (recordFault s cl r).farTags = s.farTags := rfl
@[simp] theorem recordFault_queues (s : State) (cl : Nat) (r : FaultRec) : (recordFault s cl r).queues = s.queues := rfl
@[simp] theorem recordFault_turn (s : State) (cl : Nat) (r : FaultRec) : (recordFault s cl r).turn = s.turn := rfl
@[simp] theorem recordFault_mbox (s : State) (cl : Nat) (r : FaultRec) : (recordFault s cl r).mbox = s.mbox := rfl
@[simp] theorem recordFault_cats (s : State) (cl : Nat) (r : FaultRec) : (recordFault s cl r).cats = s.cats := rfl
@[simp] theorem recordFault_accessions (s : State) (cl : Nat) (r : FaultRec) : (recordFault s cl r).accessions = s.accessions := rfl
@[simp] theorem recordFault_reply (s : State) (cl : Nat) (r : FaultRec) : (recordFault s cl r).reply = s.reply := rfl
@[simp] theorem recordFault_meas (s : State) (cl : Nat) (r : FaultRec) : (recordFault s cl r).meas = s.meas := rfl
@[simp] theorem recordFault_startRec (s : State) (cl : Nat) (r : FaultRec) : (recordFault s cl r).startRec = s.startRec := rfl
@[simp] theorem recordFault_power (s : State) (cl : Nat) (r : FaultRec) : (recordFault s cl r).power = s.power := rfl
@[simp] theorem recordFault_ctls (s : State) (cl : Nat) (r : FaultRec) : (recordFault s cl r).ctls = s.ctls := rfl
@[simp] theorem recordFault_curator (s : State) (cl : Nat) (r : FaultRec) : (recordFault s cl r).curator = s.curator := rfl
@[simp] theorem recordFault_docents (s : State) (cl : Nat) (r : FaultRec) : (recordFault s cl r).docents = s.docents := rfl
@[simp] theorem recordFault_findings (s : State) (cl : Nat) (r : FaultRec) : (recordFault s cl r).findings = s.findings := rfl
@[simp] theorem recordFault_shifts (s : State) (cl : Nat) (r : FaultRec) : (recordFault s cl r).shifts = s.shifts := rfl
@[simp] theorem recordFault_retiredTiles (s : State) (cl : Nat) (r : FaultRec) : (recordFault s cl r).retiredTiles = s.retiredTiles := rfl
@[simp] theorem recordFault_detours (s : State) (cl : Nat) (r : FaultRec) : (recordFault s cl r).detours = s.detours := rfl
@[simp] theorem recordFault_failedBypass (s : State) (cl : Nat) (r : FaultRec) : (recordFault s cl r).failedBypass = s.failedBypass := rfl
@[simp] theorem recordFault_badFields (s : State) (cl : Nat) (r : FaultRec) : (recordFault s cl r).badFields = s.badFields := rfl
@[simp] theorem recordFault_lowRail (s : State) (cl : Nat) (r : FaultRec) : (recordFault s cl r).lowRail = s.lowRail := rfl
@[simp] theorem recordFault_lh (s : State) (cl : Nat) (r : FaultRec) : (recordFault s cl r).lh = s.lh := rfl
@[simp] theorem recordFault_wheel (s : State) (cl : Nat) (r : FaultRec) : (recordFault s cl r).wheel = s.wheel := rfl
@[simp] theorem recordFault_replayLog2 (s : State) (cl : Nat) (r : FaultRec) : (recordFault s cl r).replayLog2 = s.replayLog2 := rfl
@[simp] theorem recordFault_lp (s : State) (cl : Nat) (r : FaultRec) : (recordFault s cl r).lp = s.lp := rfl
@[simp] theorem recordFault_db4 (s : State) (cl : Nat) (r : FaultRec) : (recordFault s cl r).db4 = s.db4 := rfl
@[simp] theorem recordFault_slew (s : State) (cl : Nat) (r : FaultRec) : (recordFault s cl r).slew = s.slew := rfl
@[simp] theorem recordFault_waferTrim (s : State) (cl : Nat) (r : FaultRec) : (recordFault s cl r).waferTrim = s.waferTrim := rfl
@[simp] theorem recordFault_waferInt (s : State) (cl : Nat) (r : FaultRec) : (recordFault s cl r).waferInt = s.waferInt := rfl
@[simp] theorem recordFault_fbAcc (s : State) (cl : Nat) (r : FaultRec) : (recordFault s cl r).fbAcc = s.fbAcc := rfl
@[simp] theorem recordFault_throttle (s : State) (cl : Nat) (r : FaultRec) : (recordFault s cl r).throttle = s.throttle := rfl
@[simp] theorem recordFault_baseCut (s : State) (cl : Nat) (r : FaultRec) : (recordFault s cl r).baseCut = s.baseCut := rfl
@[simp] theorem recordFault_cut (s : State) (cl : Nat) (r : FaultRec) : (recordFault s cl r).cut = s.cut := rfl
@[simp] theorem recordFault_tests (s : State) (cl : Nat) (r : FaultRec) : (recordFault s cl r).tests = s.tests := rfl
@[simp] theorem recordFault_fleet (s : State) (cl : Nat) (r : FaultRec) : (recordFault s cl r).fleet = s.fleet := rfl
@[simp] theorem recordFault_forming (s : State) (cl : Nat) (r : FaultRec) : (recordFault s cl r).forming = s.forming := rfl
@[simp] theorem recordFault_fleetLaunch (s : State) (cl : Nat) (r : FaultRec) : (recordFault s cl r).fleetLaunch = s.fleetLaunch := rfl
@[simp] theorem recordFault_fleetMsgs (s : State) (cl : Nat) (r : FaultRec) : (recordFault s cl r).fleetMsgs = s.fleetMsgs := rfl
@[simp] theorem recordFault_peerOut (s : State) (cl : Nat) (r : FaultRec) : (recordFault s cl r).peerOut = s.peerOut := rfl
@[simp] theorem recordFault_peerHolds (s : State) (cl : Nat) (r : FaultRec) : (recordFault s cl r).peerHolds = s.peerHolds := rfl
@[simp] theorem recordFault_peerLambda (s : State) (cl : Nat) (r : FaultRec) : (recordFault s cl r).peerLambda = s.peerLambda := rfl
@[simp] theorem recordFault_spdm (s : State) (cl : Nat) (r : FaultRec) : (recordFault s cl r).spdm = s.spdm := rfl
@[simp] theorem recordFault_wall (s : State) (cl : Nat) (r : FaultRec) : (recordFault s cl r).wall = s.wall := rfl
@[simp] theorem recordFault_todo (s : State) (cl : Nat) (r : FaultRec) : (recordFault s cl r).todo = s.todo := rfl
@[simp] theorem recordFault_inputs (s : State) (cl : Nat) (r : FaultRec) : (recordFault s cl r).inputs = s.inputs := rfl
@[simp] theorem recordFault_focus (s : State) (cl : Nat) (r : FaultRec) : (recordFault s cl r).focus = s.focus := rfl
@[simp] theorem recordFault_note (s : State) (cl : Nat) (r : FaultRec) : (recordFault s cl r).note = s.note := rfl
@[simp] theorem recordFault_free (s : State) (cl : Nat) (r : FaultRec) : (recordFault s cl r).free = s.free := rfl

@[simp] theorem fatalAt_tiles (s : State) (cl : Nat) : (fatalAt s cl).tiles = s.tiles := by
  unfold fatalAt; split <;> rfl
@[simp] theorem fatalAt_ctxs (s : State) (cl : Nat) : (fatalAt s cl).ctxs = s.ctxs := by
  unfold fatalAt; split <;> rfl
@[simp] theorem fatalAt_tlb (s : State) (cl : Nat) : (fatalAt s cl).tlb = s.tlb := by
  unfold fatalAt; split <;> rfl
@[simp] theorem fatalAt_far (s : State) (cl : Nat) : (fatalAt s cl).far = s.far := by
  unfold fatalAt; split <;> rfl
@[simp] theorem fatalAt_farMarks (s : State) (cl : Nat) : (fatalAt s cl).farMarks = s.farMarks := by
  unfold fatalAt; split <;> rfl
@[simp] theorem fatalAt_farFlips (s : State) (cl : Nat) : (fatalAt s cl).farFlips = s.farFlips := by
  unfold fatalAt; split <;> rfl
@[simp] theorem fatalAt_farTags (s : State) (cl : Nat) : (fatalAt s cl).farTags = s.farTags := by
  unfold fatalAt; split <;> rfl
@[simp] theorem fatalAt_queues (s : State) (cl : Nat) : (fatalAt s cl).queues = s.queues := by
  unfold fatalAt; split <;> rfl
@[simp] theorem fatalAt_turn (s : State) (cl : Nat) : (fatalAt s cl).turn = s.turn := by
  unfold fatalAt; split <;> rfl
@[simp] theorem fatalAt_mbox (s : State) (cl : Nat) : (fatalAt s cl).mbox = s.mbox := by
  unfold fatalAt; split <;> rfl
@[simp] theorem fatalAt_cats (s : State) (cl : Nat) : (fatalAt s cl).cats = s.cats := by
  unfold fatalAt; split <;> rfl
@[simp] theorem fatalAt_accessions (s : State) (cl : Nat) : (fatalAt s cl).accessions = s.accessions := by
  unfold fatalAt; split <;> rfl
@[simp] theorem fatalAt_reply (s : State) (cl : Nat) : (fatalAt s cl).reply = s.reply := by
  unfold fatalAt; split <;> rfl
@[simp] theorem fatalAt_meas (s : State) (cl : Nat) : (fatalAt s cl).meas = s.meas := by
  unfold fatalAt; split <;> rfl
@[simp] theorem fatalAt_startRec (s : State) (cl : Nat) : (fatalAt s cl).startRec = s.startRec := by
  unfold fatalAt; split <;> rfl
@[simp] theorem fatalAt_power (s : State) (cl : Nat) : (fatalAt s cl).power = s.power := by
  unfold fatalAt; split <;> rfl
@[simp] theorem fatalAt_ctls (s : State) (cl : Nat) : (fatalAt s cl).ctls = s.ctls := by
  unfold fatalAt; split <;> rfl
@[simp] theorem fatalAt_curator (s : State) (cl : Nat) : (fatalAt s cl).curator = s.curator := by
  unfold fatalAt; split <;> rfl
@[simp] theorem fatalAt_docents (s : State) (cl : Nat) : (fatalAt s cl).docents = s.docents := by
  unfold fatalAt; split <;> rfl
@[simp] theorem fatalAt_findings (s : State) (cl : Nat) : (fatalAt s cl).findings = s.findings := by
  unfold fatalAt; split <;> rfl
@[simp] theorem fatalAt_shifts (s : State) (cl : Nat) : (fatalAt s cl).shifts = s.shifts := by
  unfold fatalAt; split <;> rfl
@[simp] theorem fatalAt_retiredTiles (s : State) (cl : Nat) : (fatalAt s cl).retiredTiles = s.retiredTiles := by
  unfold fatalAt; split <;> rfl
@[simp] theorem fatalAt_detours (s : State) (cl : Nat) : (fatalAt s cl).detours = s.detours := by
  unfold fatalAt; split <;> rfl
@[simp] theorem fatalAt_failedBypass (s : State) (cl : Nat) : (fatalAt s cl).failedBypass = s.failedBypass := by
  unfold fatalAt; split <;> rfl
@[simp] theorem fatalAt_badFields (s : State) (cl : Nat) : (fatalAt s cl).badFields = s.badFields := by
  unfold fatalAt; split <;> rfl
@[simp] theorem fatalAt_lowRail (s : State) (cl : Nat) : (fatalAt s cl).lowRail = s.lowRail := by
  unfold fatalAt; split <;> rfl
@[simp] theorem fatalAt_lh (s : State) (cl : Nat) : (fatalAt s cl).lh = s.lh := by
  unfold fatalAt; split <;> rfl
@[simp] theorem fatalAt_wheel (s : State) (cl : Nat) : (fatalAt s cl).wheel = s.wheel := by
  unfold fatalAt; split <;> rfl
@[simp] theorem fatalAt_replayLog2 (s : State) (cl : Nat) : (fatalAt s cl).replayLog2 = s.replayLog2 := by
  unfold fatalAt; split <;> rfl
@[simp] theorem fatalAt_lp (s : State) (cl : Nat) : (fatalAt s cl).lp = s.lp := by
  unfold fatalAt; split <;> rfl
@[simp] theorem fatalAt_db4 (s : State) (cl : Nat) : (fatalAt s cl).db4 = s.db4 := by
  unfold fatalAt; split <;> rfl
@[simp] theorem fatalAt_slew (s : State) (cl : Nat) : (fatalAt s cl).slew = s.slew := by
  unfold fatalAt; split <;> rfl
@[simp] theorem fatalAt_waferTrim (s : State) (cl : Nat) : (fatalAt s cl).waferTrim = s.waferTrim := by
  unfold fatalAt; split <;> rfl
@[simp] theorem fatalAt_waferInt (s : State) (cl : Nat) : (fatalAt s cl).waferInt = s.waferInt := by
  unfold fatalAt; split <;> rfl
@[simp] theorem fatalAt_fbAcc (s : State) (cl : Nat) : (fatalAt s cl).fbAcc = s.fbAcc := by
  unfold fatalAt; split <;> rfl
@[simp] theorem fatalAt_throttle (s : State) (cl : Nat) : (fatalAt s cl).throttle = s.throttle := by
  unfold fatalAt; split <;> rfl
@[simp] theorem fatalAt_baseCut (s : State) (cl : Nat) : (fatalAt s cl).baseCut = s.baseCut := by
  unfold fatalAt; split <;> rfl
@[simp] theorem fatalAt_cut (s : State) (cl : Nat) : (fatalAt s cl).cut = s.cut := by
  unfold fatalAt; split <;> rfl
@[simp] theorem fatalAt_tests (s : State) (cl : Nat) : (fatalAt s cl).tests = s.tests := by
  unfold fatalAt; split <;> rfl
@[simp] theorem fatalAt_fleet (s : State) (cl : Nat) : (fatalAt s cl).fleet = s.fleet := by
  unfold fatalAt; split <;> rfl
@[simp] theorem fatalAt_forming (s : State) (cl : Nat) : (fatalAt s cl).forming = s.forming := by
  unfold fatalAt; split <;> rfl
@[simp] theorem fatalAt_fleetLaunch (s : State) (cl : Nat) : (fatalAt s cl).fleetLaunch = s.fleetLaunch := by
  unfold fatalAt; split <;> rfl
@[simp] theorem fatalAt_fleetMsgs (s : State) (cl : Nat) : (fatalAt s cl).fleetMsgs = s.fleetMsgs := by
  unfold fatalAt; split <;> rfl
@[simp] theorem fatalAt_peerOut (s : State) (cl : Nat) : (fatalAt s cl).peerOut = s.peerOut := by
  unfold fatalAt; split <;> rfl
@[simp] theorem fatalAt_peerHolds (s : State) (cl : Nat) : (fatalAt s cl).peerHolds = s.peerHolds := by
  unfold fatalAt; split <;> rfl
@[simp] theorem fatalAt_peerLambda (s : State) (cl : Nat) : (fatalAt s cl).peerLambda = s.peerLambda := by
  unfold fatalAt; split <;> rfl
@[simp] theorem fatalAt_spdm (s : State) (cl : Nat) : (fatalAt s cl).spdm = s.spdm := by
  unfold fatalAt; split <;> rfl
@[simp] theorem fatalAt_wall (s : State) (cl : Nat) : (fatalAt s cl).wall = s.wall := by
  unfold fatalAt; split <;> rfl
@[simp] theorem fatalAt_todo (s : State) (cl : Nat) : (fatalAt s cl).todo = s.todo := by
  unfold fatalAt; split <;> rfl
@[simp] theorem fatalAt_inputs (s : State) (cl : Nat) : (fatalAt s cl).inputs = s.inputs := by
  unfold fatalAt; split <;> rfl
@[simp] theorem fatalAt_focus (s : State) (cl : Nat) : (fatalAt s cl).focus = s.focus := by
  unfold fatalAt; split <;> rfl
@[simp] theorem fatalAt_note (s : State) (cl : Nat) : (fatalAt s cl).note = s.note := by
  unfold fatalAt; split <;> rfl
@[simp] theorem fatalAt_free (s : State) (cl : Nat) : (fatalAt s cl).free = s.free := by
  unfold fatalAt; split <;> rfl

@[simp] theorem claimFault_tiles (s : State) (i : TileId) (c : Byte) (d : Quad) : (claimFault s i c d).tiles = s.tiles := by
  simp [claimFault]
@[simp] theorem claimFault_ctxs (s : State) (i : TileId) (c : Byte) (d : Quad) : (claimFault s i c d).ctxs = s.ctxs := by
  simp [claimFault]
@[simp] theorem claimFault_tlb (s : State) (i : TileId) (c : Byte) (d : Quad) : (claimFault s i c d).tlb = s.tlb := by
  simp [claimFault]
@[simp] theorem claimFault_far (s : State) (i : TileId) (c : Byte) (d : Quad) : (claimFault s i c d).far = s.far := by
  simp [claimFault]
@[simp] theorem claimFault_farMarks (s : State) (i : TileId) (c : Byte) (d : Quad) : (claimFault s i c d).farMarks = s.farMarks := by
  simp [claimFault]
@[simp] theorem claimFault_farFlips (s : State) (i : TileId) (c : Byte) (d : Quad) : (claimFault s i c d).farFlips = s.farFlips := by
  simp [claimFault]
@[simp] theorem claimFault_farTags (s : State) (i : TileId) (c : Byte) (d : Quad) : (claimFault s i c d).farTags = s.farTags := by
  simp [claimFault]
@[simp] theorem claimFault_queues (s : State) (i : TileId) (c : Byte) (d : Quad) : (claimFault s i c d).queues = s.queues := by
  simp [claimFault]
@[simp] theorem claimFault_turn (s : State) (i : TileId) (c : Byte) (d : Quad) : (claimFault s i c d).turn = s.turn := by
  simp [claimFault]
@[simp] theorem claimFault_mbox (s : State) (i : TileId) (c : Byte) (d : Quad) : (claimFault s i c d).mbox = s.mbox := by
  simp [claimFault]
@[simp] theorem claimFault_cats (s : State) (i : TileId) (c : Byte) (d : Quad) : (claimFault s i c d).cats = s.cats := by
  simp [claimFault]
@[simp] theorem claimFault_accessions (s : State) (i : TileId) (c : Byte) (d : Quad) : (claimFault s i c d).accessions = s.accessions := by
  simp [claimFault]
@[simp] theorem claimFault_reply (s : State) (i : TileId) (c : Byte) (d : Quad) : (claimFault s i c d).reply = s.reply := by
  simp [claimFault]
@[simp] theorem claimFault_meas (s : State) (i : TileId) (c : Byte) (d : Quad) : (claimFault s i c d).meas = s.meas := by
  simp [claimFault]
@[simp] theorem claimFault_startRec (s : State) (i : TileId) (c : Byte) (d : Quad) : (claimFault s i c d).startRec = s.startRec := by
  simp [claimFault]
@[simp] theorem claimFault_power (s : State) (i : TileId) (c : Byte) (d : Quad) : (claimFault s i c d).power = s.power := by
  simp [claimFault]
@[simp] theorem claimFault_ctls (s : State) (i : TileId) (c : Byte) (d : Quad) : (claimFault s i c d).ctls = s.ctls := by
  simp [claimFault]
@[simp] theorem claimFault_curator (s : State) (i : TileId) (c : Byte) (d : Quad) : (claimFault s i c d).curator = s.curator := by
  simp [claimFault]
@[simp] theorem claimFault_docents (s : State) (i : TileId) (c : Byte) (d : Quad) : (claimFault s i c d).docents = s.docents := by
  simp [claimFault]
@[simp] theorem claimFault_findings (s : State) (i : TileId) (c : Byte) (d : Quad) : (claimFault s i c d).findings = s.findings := by
  simp [claimFault]
@[simp] theorem claimFault_shifts (s : State) (i : TileId) (c : Byte) (d : Quad) : (claimFault s i c d).shifts = s.shifts := by
  simp [claimFault]
@[simp] theorem claimFault_retiredTiles (s : State) (i : TileId) (c : Byte) (d : Quad) : (claimFault s i c d).retiredTiles = s.retiredTiles := by
  simp [claimFault]
@[simp] theorem claimFault_detours (s : State) (i : TileId) (c : Byte) (d : Quad) : (claimFault s i c d).detours = s.detours := by
  simp [claimFault]
@[simp] theorem claimFault_failedBypass (s : State) (i : TileId) (c : Byte) (d : Quad) : (claimFault s i c d).failedBypass = s.failedBypass := by
  simp [claimFault]
@[simp] theorem claimFault_badFields (s : State) (i : TileId) (c : Byte) (d : Quad) : (claimFault s i c d).badFields = s.badFields := by
  simp [claimFault]
@[simp] theorem claimFault_lowRail (s : State) (i : TileId) (c : Byte) (d : Quad) : (claimFault s i c d).lowRail = s.lowRail := by
  simp [claimFault]
@[simp] theorem claimFault_lh (s : State) (i : TileId) (c : Byte) (d : Quad) : (claimFault s i c d).lh = s.lh := by
  simp [claimFault]
@[simp] theorem claimFault_wheel (s : State) (i : TileId) (c : Byte) (d : Quad) : (claimFault s i c d).wheel = s.wheel := by
  simp [claimFault]
@[simp] theorem claimFault_replayLog2 (s : State) (i : TileId) (c : Byte) (d : Quad) : (claimFault s i c d).replayLog2 = s.replayLog2 := by
  simp [claimFault]
@[simp] theorem claimFault_lp (s : State) (i : TileId) (c : Byte) (d : Quad) : (claimFault s i c d).lp = s.lp := by
  simp [claimFault]
@[simp] theorem claimFault_db4 (s : State) (i : TileId) (c : Byte) (d : Quad) : (claimFault s i c d).db4 = s.db4 := by
  simp [claimFault]
@[simp] theorem claimFault_slew (s : State) (i : TileId) (c : Byte) (d : Quad) : (claimFault s i c d).slew = s.slew := by
  simp [claimFault]
@[simp] theorem claimFault_waferTrim (s : State) (i : TileId) (c : Byte) (d : Quad) : (claimFault s i c d).waferTrim = s.waferTrim := by
  simp [claimFault]
@[simp] theorem claimFault_waferInt (s : State) (i : TileId) (c : Byte) (d : Quad) : (claimFault s i c d).waferInt = s.waferInt := by
  simp [claimFault]
@[simp] theorem claimFault_fbAcc (s : State) (i : TileId) (c : Byte) (d : Quad) : (claimFault s i c d).fbAcc = s.fbAcc := by
  simp [claimFault]
@[simp] theorem claimFault_throttle (s : State) (i : TileId) (c : Byte) (d : Quad) : (claimFault s i c d).throttle = s.throttle := by
  simp [claimFault]
@[simp] theorem claimFault_baseCut (s : State) (i : TileId) (c : Byte) (d : Quad) : (claimFault s i c d).baseCut = s.baseCut := by
  simp [claimFault]
@[simp] theorem claimFault_cut (s : State) (i : TileId) (c : Byte) (d : Quad) : (claimFault s i c d).cut = s.cut := by
  simp [claimFault]
@[simp] theorem claimFault_tests (s : State) (i : TileId) (c : Byte) (d : Quad) : (claimFault s i c d).tests = s.tests := by
  simp [claimFault]
@[simp] theorem claimFault_fleet (s : State) (i : TileId) (c : Byte) (d : Quad) : (claimFault s i c d).fleet = s.fleet := by
  simp [claimFault]
@[simp] theorem claimFault_forming (s : State) (i : TileId) (c : Byte) (d : Quad) : (claimFault s i c d).forming = s.forming := by
  simp [claimFault]
@[simp] theorem claimFault_fleetLaunch (s : State) (i : TileId) (c : Byte) (d : Quad) : (claimFault s i c d).fleetLaunch = s.fleetLaunch := by
  simp [claimFault]
@[simp] theorem claimFault_fleetMsgs (s : State) (i : TileId) (c : Byte) (d : Quad) : (claimFault s i c d).fleetMsgs = s.fleetMsgs := by
  simp [claimFault]
@[simp] theorem claimFault_peerOut (s : State) (i : TileId) (c : Byte) (d : Quad) : (claimFault s i c d).peerOut = s.peerOut := by
  simp [claimFault]
@[simp] theorem claimFault_peerHolds (s : State) (i : TileId) (c : Byte) (d : Quad) : (claimFault s i c d).peerHolds = s.peerHolds := by
  simp [claimFault]
@[simp] theorem claimFault_peerLambda (s : State) (i : TileId) (c : Byte) (d : Quad) : (claimFault s i c d).peerLambda = s.peerLambda := by
  simp [claimFault]
@[simp] theorem claimFault_spdm (s : State) (i : TileId) (c : Byte) (d : Quad) : (claimFault s i c d).spdm = s.spdm := by
  simp [claimFault]
@[simp] theorem claimFault_wall (s : State) (i : TileId) (c : Byte) (d : Quad) : (claimFault s i c d).wall = s.wall := by
  simp [claimFault]
@[simp] theorem claimFault_todo (s : State) (i : TileId) (c : Byte) (d : Quad) : (claimFault s i c d).todo = s.todo := by
  simp [claimFault]
@[simp] theorem claimFault_inputs (s : State) (i : TileId) (c : Byte) (d : Quad) : (claimFault s i c d).inputs = s.inputs := by
  simp [claimFault]
@[simp] theorem claimFault_focus (s : State) (i : TileId) (c : Byte) (d : Quad) : (claimFault s i c d).focus = s.focus := by
  simp [claimFault]
@[simp] theorem claimFault_note (s : State) (i : TileId) (c : Byte) (d : Quad) : (claimFault s i c d).note = s.note := by
  simp [claimFault]
@[simp] theorem claimFault_free (s : State) (i : TileId) (c : Byte) (d : Quad) : (claimFault s i c d).free = s.free := by
  simp [claimFault]

@[simp] theorem enterHandler_tiles (s : State) (i : StrandId) (cause : Byte) (cls : Nat) (code : BitVec 16) (data : Quad) (r : BitVec 64) : (enterHandler s i cause cls code data r).tiles = s.tiles := rfl
@[simp] theorem enterHandler_ctxs (s : State) (i : StrandId) (cause : Byte) (cls : Nat) (code : BitVec 16) (data : Quad) (r : BitVec 64) : (enterHandler s i cause cls code data r).ctxs = s.ctxs := rfl
@[simp] theorem enterHandler_tlb (s : State) (i : StrandId) (cause : Byte) (cls : Nat) (code : BitVec 16) (data : Quad) (r : BitVec 64) : (enterHandler s i cause cls code data r).tlb = s.tlb := rfl
@[simp] theorem enterHandler_far (s : State) (i : StrandId) (cause : Byte) (cls : Nat) (code : BitVec 16) (data : Quad) (r : BitVec 64) : (enterHandler s i cause cls code data r).far = s.far := rfl
@[simp] theorem enterHandler_farMarks (s : State) (i : StrandId) (cause : Byte) (cls : Nat) (code : BitVec 16) (data : Quad) (r : BitVec 64) : (enterHandler s i cause cls code data r).farMarks = s.farMarks := rfl
@[simp] theorem enterHandler_farFlips (s : State) (i : StrandId) (cause : Byte) (cls : Nat) (code : BitVec 16) (data : Quad) (r : BitVec 64) : (enterHandler s i cause cls code data r).farFlips = s.farFlips := rfl
@[simp] theorem enterHandler_farTags (s : State) (i : StrandId) (cause : Byte) (cls : Nat) (code : BitVec 16) (data : Quad) (r : BitVec 64) : (enterHandler s i cause cls code data r).farTags = s.farTags := rfl
@[simp] theorem enterHandler_queues (s : State) (i : StrandId) (cause : Byte) (cls : Nat) (code : BitVec 16) (data : Quad) (r : BitVec 64) : (enterHandler s i cause cls code data r).queues = s.queues := rfl
@[simp] theorem enterHandler_turn (s : State) (i : StrandId) (cause : Byte) (cls : Nat) (code : BitVec 16) (data : Quad) (r : BitVec 64) : (enterHandler s i cause cls code data r).turn = s.turn := rfl
@[simp] theorem enterHandler_mbox (s : State) (i : StrandId) (cause : Byte) (cls : Nat) (code : BitVec 16) (data : Quad) (r : BitVec 64) : (enterHandler s i cause cls code data r).mbox = s.mbox := rfl
@[simp] theorem enterHandler_cats (s : State) (i : StrandId) (cause : Byte) (cls : Nat) (code : BitVec 16) (data : Quad) (r : BitVec 64) : (enterHandler s i cause cls code data r).cats = s.cats := rfl
@[simp] theorem enterHandler_accessions (s : State) (i : StrandId) (cause : Byte) (cls : Nat) (code : BitVec 16) (data : Quad) (r : BitVec 64) : (enterHandler s i cause cls code data r).accessions = s.accessions := rfl
@[simp] theorem enterHandler_reply (s : State) (i : StrandId) (cause : Byte) (cls : Nat) (code : BitVec 16) (data : Quad) (r : BitVec 64) : (enterHandler s i cause cls code data r).reply = s.reply := rfl
@[simp] theorem enterHandler_meas (s : State) (i : StrandId) (cause : Byte) (cls : Nat) (code : BitVec 16) (data : Quad) (r : BitVec 64) : (enterHandler s i cause cls code data r).meas = s.meas := rfl
@[simp] theorem enterHandler_startRec (s : State) (i : StrandId) (cause : Byte) (cls : Nat) (code : BitVec 16) (data : Quad) (r : BitVec 64) : (enterHandler s i cause cls code data r).startRec = s.startRec := rfl
@[simp] theorem enterHandler_power (s : State) (i : StrandId) (cause : Byte) (cls : Nat) (code : BitVec 16) (data : Quad) (r : BitVec 64) : (enterHandler s i cause cls code data r).power = s.power := rfl
@[simp] theorem enterHandler_ctls (s : State) (i : StrandId) (cause : Byte) (cls : Nat) (code : BitVec 16) (data : Quad) (r : BitVec 64) : (enterHandler s i cause cls code data r).ctls = s.ctls := rfl
@[simp] theorem enterHandler_curator (s : State) (i : StrandId) (cause : Byte) (cls : Nat) (code : BitVec 16) (data : Quad) (r : BitVec 64) : (enterHandler s i cause cls code data r).curator = s.curator := rfl
@[simp] theorem enterHandler_docents (s : State) (i : StrandId) (cause : Byte) (cls : Nat) (code : BitVec 16) (data : Quad) (r : BitVec 64) : (enterHandler s i cause cls code data r).docents = s.docents := rfl
@[simp] theorem enterHandler_findings (s : State) (i : StrandId) (cause : Byte) (cls : Nat) (code : BitVec 16) (data : Quad) (r : BitVec 64) : (enterHandler s i cause cls code data r).findings = s.findings := rfl
@[simp] theorem enterHandler_shifts (s : State) (i : StrandId) (cause : Byte) (cls : Nat) (code : BitVec 16) (data : Quad) (r : BitVec 64) : (enterHandler s i cause cls code data r).shifts = s.shifts := rfl
@[simp] theorem enterHandler_retiredTiles (s : State) (i : StrandId) (cause : Byte) (cls : Nat) (code : BitVec 16) (data : Quad) (r : BitVec 64) : (enterHandler s i cause cls code data r).retiredTiles = s.retiredTiles := rfl
@[simp] theorem enterHandler_detours (s : State) (i : StrandId) (cause : Byte) (cls : Nat) (code : BitVec 16) (data : Quad) (r : BitVec 64) : (enterHandler s i cause cls code data r).detours = s.detours := rfl
@[simp] theorem enterHandler_failedBypass (s : State) (i : StrandId) (cause : Byte) (cls : Nat) (code : BitVec 16) (data : Quad) (r : BitVec 64) : (enterHandler s i cause cls code data r).failedBypass = s.failedBypass := rfl
@[simp] theorem enterHandler_badFields (s : State) (i : StrandId) (cause : Byte) (cls : Nat) (code : BitVec 16) (data : Quad) (r : BitVec 64) : (enterHandler s i cause cls code data r).badFields = s.badFields := rfl
@[simp] theorem enterHandler_lowRail (s : State) (i : StrandId) (cause : Byte) (cls : Nat) (code : BitVec 16) (data : Quad) (r : BitVec 64) : (enterHandler s i cause cls code data r).lowRail = s.lowRail := rfl
@[simp] theorem enterHandler_lh (s : State) (i : StrandId) (cause : Byte) (cls : Nat) (code : BitVec 16) (data : Quad) (r : BitVec 64) : (enterHandler s i cause cls code data r).lh = s.lh := rfl
@[simp] theorem enterHandler_wheel (s : State) (i : StrandId) (cause : Byte) (cls : Nat) (code : BitVec 16) (data : Quad) (r : BitVec 64) : (enterHandler s i cause cls code data r).wheel = s.wheel := rfl
@[simp] theorem enterHandler_replayLog2 (s : State) (i : StrandId) (cause : Byte) (cls : Nat) (code : BitVec 16) (data : Quad) (r : BitVec 64) : (enterHandler s i cause cls code data r).replayLog2 = s.replayLog2 := rfl
@[simp] theorem enterHandler_lp (s : State) (i : StrandId) (cause : Byte) (cls : Nat) (code : BitVec 16) (data : Quad) (r : BitVec 64) : (enterHandler s i cause cls code data r).lp = s.lp := rfl
@[simp] theorem enterHandler_db4 (s : State) (i : StrandId) (cause : Byte) (cls : Nat) (code : BitVec 16) (data : Quad) (r : BitVec 64) : (enterHandler s i cause cls code data r).db4 = s.db4 := rfl
@[simp] theorem enterHandler_slew (s : State) (i : StrandId) (cause : Byte) (cls : Nat) (code : BitVec 16) (data : Quad) (r : BitVec 64) : (enterHandler s i cause cls code data r).slew = s.slew := rfl
@[simp] theorem enterHandler_waferTrim (s : State) (i : StrandId) (cause : Byte) (cls : Nat) (code : BitVec 16) (data : Quad) (r : BitVec 64) : (enterHandler s i cause cls code data r).waferTrim = s.waferTrim := rfl
@[simp] theorem enterHandler_waferInt (s : State) (i : StrandId) (cause : Byte) (cls : Nat) (code : BitVec 16) (data : Quad) (r : BitVec 64) : (enterHandler s i cause cls code data r).waferInt = s.waferInt := rfl
@[simp] theorem enterHandler_fbAcc (s : State) (i : StrandId) (cause : Byte) (cls : Nat) (code : BitVec 16) (data : Quad) (r : BitVec 64) : (enterHandler s i cause cls code data r).fbAcc = s.fbAcc := rfl
@[simp] theorem enterHandler_throttle (s : State) (i : StrandId) (cause : Byte) (cls : Nat) (code : BitVec 16) (data : Quad) (r : BitVec 64) : (enterHandler s i cause cls code data r).throttle = s.throttle := rfl
@[simp] theorem enterHandler_baseCut (s : State) (i : StrandId) (cause : Byte) (cls : Nat) (code : BitVec 16) (data : Quad) (r : BitVec 64) : (enterHandler s i cause cls code data r).baseCut = s.baseCut := rfl
@[simp] theorem enterHandler_cut (s : State) (i : StrandId) (cause : Byte) (cls : Nat) (code : BitVec 16) (data : Quad) (r : BitVec 64) : (enterHandler s i cause cls code data r).cut = s.cut := rfl
@[simp] theorem enterHandler_tests (s : State) (i : StrandId) (cause : Byte) (cls : Nat) (code : BitVec 16) (data : Quad) (r : BitVec 64) : (enterHandler s i cause cls code data r).tests = s.tests := rfl
@[simp] theorem enterHandler_fleet (s : State) (i : StrandId) (cause : Byte) (cls : Nat) (code : BitVec 16) (data : Quad) (r : BitVec 64) : (enterHandler s i cause cls code data r).fleet = s.fleet := rfl
@[simp] theorem enterHandler_forming (s : State) (i : StrandId) (cause : Byte) (cls : Nat) (code : BitVec 16) (data : Quad) (r : BitVec 64) : (enterHandler s i cause cls code data r).forming = s.forming := rfl
@[simp] theorem enterHandler_fleetLaunch (s : State) (i : StrandId) (cause : Byte) (cls : Nat) (code : BitVec 16) (data : Quad) (r : BitVec 64) : (enterHandler s i cause cls code data r).fleetLaunch = s.fleetLaunch := rfl
@[simp] theorem enterHandler_fleetMsgs (s : State) (i : StrandId) (cause : Byte) (cls : Nat) (code : BitVec 16) (data : Quad) (r : BitVec 64) : (enterHandler s i cause cls code data r).fleetMsgs = s.fleetMsgs := rfl
@[simp] theorem enterHandler_peerOut (s : State) (i : StrandId) (cause : Byte) (cls : Nat) (code : BitVec 16) (data : Quad) (r : BitVec 64) : (enterHandler s i cause cls code data r).peerOut = s.peerOut := rfl
@[simp] theorem enterHandler_peerHolds (s : State) (i : StrandId) (cause : Byte) (cls : Nat) (code : BitVec 16) (data : Quad) (r : BitVec 64) : (enterHandler s i cause cls code data r).peerHolds = s.peerHolds := rfl
@[simp] theorem enterHandler_peerLambda (s : State) (i : StrandId) (cause : Byte) (cls : Nat) (code : BitVec 16) (data : Quad) (r : BitVec 64) : (enterHandler s i cause cls code data r).peerLambda = s.peerLambda := rfl
@[simp] theorem enterHandler_spdm (s : State) (i : StrandId) (cause : Byte) (cls : Nat) (code : BitVec 16) (data : Quad) (r : BitVec 64) : (enterHandler s i cause cls code data r).spdm = s.spdm := rfl
@[simp] theorem enterHandler_wall (s : State) (i : StrandId) (cause : Byte) (cls : Nat) (code : BitVec 16) (data : Quad) (r : BitVec 64) : (enterHandler s i cause cls code data r).wall = s.wall := rfl
@[simp] theorem enterHandler_todo (s : State) (i : StrandId) (cause : Byte) (cls : Nat) (code : BitVec 16) (data : Quad) (r : BitVec 64) : (enterHandler s i cause cls code data r).todo = s.todo := rfl
@[simp] theorem enterHandler_inputs (s : State) (i : StrandId) (cause : Byte) (cls : Nat) (code : BitVec 16) (data : Quad) (r : BitVec 64) : (enterHandler s i cause cls code data r).inputs = s.inputs := rfl
@[simp] theorem enterHandler_focus (s : State) (i : StrandId) (cause : Byte) (cls : Nat) (code : BitVec 16) (data : Quad) (r : BitVec 64) : (enterHandler s i cause cls code data r).focus = s.focus := rfl
@[simp] theorem enterHandler_note (s : State) (i : StrandId) (cause : Byte) (cls : Nat) (code : BitVec 16) (data : Quad) (r : BitVec 64) : (enterHandler s i cause cls code data r).note = s.note := rfl
@[simp] theorem enterHandler_free (s : State) (i : StrandId) (cause : Byte) (cls : Nat) (code : BitVec 16) (data : Quad) (r : BitVec 64) : (enterHandler s i cause cls code data r).free = s.free := rfl

@[simp] theorem takeFatal_tiles (s : State) (i : StrandId) (cause : Byte) (cls : Nat) (code : BitVec 16) (data : Quad) (n : Bool) : (takeFatal s i cause cls code data n).tiles = s.tiles := by simp [takeFatal]
@[simp] theorem takeFatal_ctxs (s : State) (i : StrandId) (cause : Byte) (cls : Nat) (code : BitVec 16) (data : Quad) (n : Bool) : (takeFatal s i cause cls code data n).ctxs = s.ctxs := by simp [takeFatal]
@[simp] theorem takeFatal_tlb (s : State) (i : StrandId) (cause : Byte) (cls : Nat) (code : BitVec 16) (data : Quad) (n : Bool) : (takeFatal s i cause cls code data n).tlb = s.tlb := by simp [takeFatal]
@[simp] theorem takeFatal_far (s : State) (i : StrandId) (cause : Byte) (cls : Nat) (code : BitVec 16) (data : Quad) (n : Bool) : (takeFatal s i cause cls code data n).far = s.far := by simp [takeFatal]
@[simp] theorem takeFatal_farMarks (s : State) (i : StrandId) (cause : Byte) (cls : Nat) (code : BitVec 16) (data : Quad) (n : Bool) : (takeFatal s i cause cls code data n).farMarks = s.farMarks := by simp [takeFatal]
@[simp] theorem takeFatal_farFlips (s : State) (i : StrandId) (cause : Byte) (cls : Nat) (code : BitVec 16) (data : Quad) (n : Bool) : (takeFatal s i cause cls code data n).farFlips = s.farFlips := by simp [takeFatal]
@[simp] theorem takeFatal_farTags (s : State) (i : StrandId) (cause : Byte) (cls : Nat) (code : BitVec 16) (data : Quad) (n : Bool) : (takeFatal s i cause cls code data n).farTags = s.farTags := by simp [takeFatal]
@[simp] theorem takeFatal_queues (s : State) (i : StrandId) (cause : Byte) (cls : Nat) (code : BitVec 16) (data : Quad) (n : Bool) : (takeFatal s i cause cls code data n).queues = s.queues := by simp [takeFatal]
@[simp] theorem takeFatal_turn (s : State) (i : StrandId) (cause : Byte) (cls : Nat) (code : BitVec 16) (data : Quad) (n : Bool) : (takeFatal s i cause cls code data n).turn = s.turn := by simp [takeFatal]
@[simp] theorem takeFatal_mbox (s : State) (i : StrandId) (cause : Byte) (cls : Nat) (code : BitVec 16) (data : Quad) (n : Bool) : (takeFatal s i cause cls code data n).mbox = s.mbox := by simp [takeFatal]
@[simp] theorem takeFatal_cats (s : State) (i : StrandId) (cause : Byte) (cls : Nat) (code : BitVec 16) (data : Quad) (n : Bool) : (takeFatal s i cause cls code data n).cats = s.cats := by simp [takeFatal]
@[simp] theorem takeFatal_accessions (s : State) (i : StrandId) (cause : Byte) (cls : Nat) (code : BitVec 16) (data : Quad) (n : Bool) : (takeFatal s i cause cls code data n).accessions = s.accessions := by simp [takeFatal]
@[simp] theorem takeFatal_reply (s : State) (i : StrandId) (cause : Byte) (cls : Nat) (code : BitVec 16) (data : Quad) (n : Bool) : (takeFatal s i cause cls code data n).reply = s.reply := by simp [takeFatal]
@[simp] theorem takeFatal_meas (s : State) (i : StrandId) (cause : Byte) (cls : Nat) (code : BitVec 16) (data : Quad) (n : Bool) : (takeFatal s i cause cls code data n).meas = s.meas := by simp [takeFatal]
@[simp] theorem takeFatal_startRec (s : State) (i : StrandId) (cause : Byte) (cls : Nat) (code : BitVec 16) (data : Quad) (n : Bool) : (takeFatal s i cause cls code data n).startRec = s.startRec := by simp [takeFatal]
@[simp] theorem takeFatal_power (s : State) (i : StrandId) (cause : Byte) (cls : Nat) (code : BitVec 16) (data : Quad) (n : Bool) : (takeFatal s i cause cls code data n).power = s.power := by simp [takeFatal]
@[simp] theorem takeFatal_ctls (s : State) (i : StrandId) (cause : Byte) (cls : Nat) (code : BitVec 16) (data : Quad) (n : Bool) : (takeFatal s i cause cls code data n).ctls = s.ctls := by simp [takeFatal]
@[simp] theorem takeFatal_curator (s : State) (i : StrandId) (cause : Byte) (cls : Nat) (code : BitVec 16) (data : Quad) (n : Bool) : (takeFatal s i cause cls code data n).curator = s.curator := by simp [takeFatal]
@[simp] theorem takeFatal_docents (s : State) (i : StrandId) (cause : Byte) (cls : Nat) (code : BitVec 16) (data : Quad) (n : Bool) : (takeFatal s i cause cls code data n).docents = s.docents := by simp [takeFatal]
@[simp] theorem takeFatal_findings (s : State) (i : StrandId) (cause : Byte) (cls : Nat) (code : BitVec 16) (data : Quad) (n : Bool) : (takeFatal s i cause cls code data n).findings = s.findings := by simp [takeFatal]
@[simp] theorem takeFatal_shifts (s : State) (i : StrandId) (cause : Byte) (cls : Nat) (code : BitVec 16) (data : Quad) (n : Bool) : (takeFatal s i cause cls code data n).shifts = s.shifts := by simp [takeFatal]
@[simp] theorem takeFatal_retiredTiles (s : State) (i : StrandId) (cause : Byte) (cls : Nat) (code : BitVec 16) (data : Quad) (n : Bool) : (takeFatal s i cause cls code data n).retiredTiles = s.retiredTiles := by simp [takeFatal]
@[simp] theorem takeFatal_detours (s : State) (i : StrandId) (cause : Byte) (cls : Nat) (code : BitVec 16) (data : Quad) (n : Bool) : (takeFatal s i cause cls code data n).detours = s.detours := by simp [takeFatal]
@[simp] theorem takeFatal_failedBypass (s : State) (i : StrandId) (cause : Byte) (cls : Nat) (code : BitVec 16) (data : Quad) (n : Bool) : (takeFatal s i cause cls code data n).failedBypass = s.failedBypass := by simp [takeFatal]
@[simp] theorem takeFatal_badFields (s : State) (i : StrandId) (cause : Byte) (cls : Nat) (code : BitVec 16) (data : Quad) (n : Bool) : (takeFatal s i cause cls code data n).badFields = s.badFields := by simp [takeFatal]
@[simp] theorem takeFatal_lowRail (s : State) (i : StrandId) (cause : Byte) (cls : Nat) (code : BitVec 16) (data : Quad) (n : Bool) : (takeFatal s i cause cls code data n).lowRail = s.lowRail := by simp [takeFatal]
@[simp] theorem takeFatal_lh (s : State) (i : StrandId) (cause : Byte) (cls : Nat) (code : BitVec 16) (data : Quad) (n : Bool) : (takeFatal s i cause cls code data n).lh = s.lh := by simp [takeFatal]
@[simp] theorem takeFatal_wheel (s : State) (i : StrandId) (cause : Byte) (cls : Nat) (code : BitVec 16) (data : Quad) (n : Bool) : (takeFatal s i cause cls code data n).wheel = s.wheel := by simp [takeFatal]
@[simp] theorem takeFatal_replayLog2 (s : State) (i : StrandId) (cause : Byte) (cls : Nat) (code : BitVec 16) (data : Quad) (n : Bool) : (takeFatal s i cause cls code data n).replayLog2 = s.replayLog2 := by simp [takeFatal]
@[simp] theorem takeFatal_lp (s : State) (i : StrandId) (cause : Byte) (cls : Nat) (code : BitVec 16) (data : Quad) (n : Bool) : (takeFatal s i cause cls code data n).lp = s.lp := by simp [takeFatal]
@[simp] theorem takeFatal_db4 (s : State) (i : StrandId) (cause : Byte) (cls : Nat) (code : BitVec 16) (data : Quad) (n : Bool) : (takeFatal s i cause cls code data n).db4 = s.db4 := by simp [takeFatal]
@[simp] theorem takeFatal_slew (s : State) (i : StrandId) (cause : Byte) (cls : Nat) (code : BitVec 16) (data : Quad) (n : Bool) : (takeFatal s i cause cls code data n).slew = s.slew := by simp [takeFatal]
@[simp] theorem takeFatal_waferTrim (s : State) (i : StrandId) (cause : Byte) (cls : Nat) (code : BitVec 16) (data : Quad) (n : Bool) : (takeFatal s i cause cls code data n).waferTrim = s.waferTrim := by simp [takeFatal]
@[simp] theorem takeFatal_waferInt (s : State) (i : StrandId) (cause : Byte) (cls : Nat) (code : BitVec 16) (data : Quad) (n : Bool) : (takeFatal s i cause cls code data n).waferInt = s.waferInt := by simp [takeFatal]
@[simp] theorem takeFatal_fbAcc (s : State) (i : StrandId) (cause : Byte) (cls : Nat) (code : BitVec 16) (data : Quad) (n : Bool) : (takeFatal s i cause cls code data n).fbAcc = s.fbAcc := by simp [takeFatal]
@[simp] theorem takeFatal_throttle (s : State) (i : StrandId) (cause : Byte) (cls : Nat) (code : BitVec 16) (data : Quad) (n : Bool) : (takeFatal s i cause cls code data n).throttle = s.throttle := by simp [takeFatal]
@[simp] theorem takeFatal_baseCut (s : State) (i : StrandId) (cause : Byte) (cls : Nat) (code : BitVec 16) (data : Quad) (n : Bool) : (takeFatal s i cause cls code data n).baseCut = s.baseCut := by simp [takeFatal]
@[simp] theorem takeFatal_cut (s : State) (i : StrandId) (cause : Byte) (cls : Nat) (code : BitVec 16) (data : Quad) (n : Bool) : (takeFatal s i cause cls code data n).cut = s.cut := by simp [takeFatal]
@[simp] theorem takeFatal_tests (s : State) (i : StrandId) (cause : Byte) (cls : Nat) (code : BitVec 16) (data : Quad) (n : Bool) : (takeFatal s i cause cls code data n).tests = s.tests := by simp [takeFatal]
@[simp] theorem takeFatal_fleet (s : State) (i : StrandId) (cause : Byte) (cls : Nat) (code : BitVec 16) (data : Quad) (n : Bool) : (takeFatal s i cause cls code data n).fleet = s.fleet := by simp [takeFatal]
@[simp] theorem takeFatal_forming (s : State) (i : StrandId) (cause : Byte) (cls : Nat) (code : BitVec 16) (data : Quad) (n : Bool) : (takeFatal s i cause cls code data n).forming = s.forming := by simp [takeFatal]
@[simp] theorem takeFatal_fleetLaunch (s : State) (i : StrandId) (cause : Byte) (cls : Nat) (code : BitVec 16) (data : Quad) (n : Bool) : (takeFatal s i cause cls code data n).fleetLaunch = s.fleetLaunch := by simp [takeFatal]
@[simp] theorem takeFatal_fleetMsgs (s : State) (i : StrandId) (cause : Byte) (cls : Nat) (code : BitVec 16) (data : Quad) (n : Bool) : (takeFatal s i cause cls code data n).fleetMsgs = s.fleetMsgs := by simp [takeFatal]
@[simp] theorem takeFatal_peerOut (s : State) (i : StrandId) (cause : Byte) (cls : Nat) (code : BitVec 16) (data : Quad) (n : Bool) : (takeFatal s i cause cls code data n).peerOut = s.peerOut := by simp [takeFatal]
@[simp] theorem takeFatal_peerHolds (s : State) (i : StrandId) (cause : Byte) (cls : Nat) (code : BitVec 16) (data : Quad) (n : Bool) : (takeFatal s i cause cls code data n).peerHolds = s.peerHolds := by simp [takeFatal]
@[simp] theorem takeFatal_peerLambda (s : State) (i : StrandId) (cause : Byte) (cls : Nat) (code : BitVec 16) (data : Quad) (n : Bool) : (takeFatal s i cause cls code data n).peerLambda = s.peerLambda := by simp [takeFatal]
@[simp] theorem takeFatal_spdm (s : State) (i : StrandId) (cause : Byte) (cls : Nat) (code : BitVec 16) (data : Quad) (n : Bool) : (takeFatal s i cause cls code data n).spdm = s.spdm := by simp [takeFatal]
@[simp] theorem takeFatal_wall (s : State) (i : StrandId) (cause : Byte) (cls : Nat) (code : BitVec 16) (data : Quad) (n : Bool) : (takeFatal s i cause cls code data n).wall = s.wall := by simp [takeFatal]
@[simp] theorem takeFatal_todo (s : State) (i : StrandId) (cause : Byte) (cls : Nat) (code : BitVec 16) (data : Quad) (n : Bool) : (takeFatal s i cause cls code data n).todo = s.todo := by simp [takeFatal]
@[simp] theorem takeFatal_inputs (s : State) (i : StrandId) (cause : Byte) (cls : Nat) (code : BitVec 16) (data : Quad) (n : Bool) : (takeFatal s i cause cls code data n).inputs = s.inputs := by simp [takeFatal]
@[simp] theorem takeFatal_focus (s : State) (i : StrandId) (cause : Byte) (cls : Nat) (code : BitVec 16) (data : Quad) (n : Bool) : (takeFatal s i cause cls code data n).focus = s.focus := by simp [takeFatal]
@[simp] theorem takeFatal_note (s : State) (i : StrandId) (cause : Byte) (cls : Nat) (code : BitVec 16) (data : Quad) (n : Bool) : (takeFatal s i cause cls code data n).note = s.note := by simp [takeFatal]
@[simp] theorem takeFatal_free (s : State) (i : StrandId) (cause : Byte) (cls : Nat) (code : BitVec 16) (data : Quad) (n : Bool) : (takeFatal s i cause cls code data n).free = s.free := by simp [takeFatal]

@[simp] theorem takeFault_tiles (s : State) (i : StrandId) (cause : Byte) (cls : Nat) (code : BitVec 16) (data : Quad) (r : BitVec 64) : (takeFault s i cause cls code data r).tiles = s.tiles := by
  simp only [takeFault]; split
  · simp
  · split <;> simp
@[simp] theorem takeFault_ctxs (s : State) (i : StrandId) (cause : Byte) (cls : Nat) (code : BitVec 16) (data : Quad) (r : BitVec 64) : (takeFault s i cause cls code data r).ctxs = s.ctxs := by
  simp only [takeFault]; split
  · simp
  · split <;> simp
@[simp] theorem takeFault_tlb (s : State) (i : StrandId) (cause : Byte) (cls : Nat) (code : BitVec 16) (data : Quad) (r : BitVec 64) : (takeFault s i cause cls code data r).tlb = s.tlb := by
  simp only [takeFault]; split
  · simp
  · split <;> simp
@[simp] theorem takeFault_far (s : State) (i : StrandId) (cause : Byte) (cls : Nat) (code : BitVec 16) (data : Quad) (r : BitVec 64) : (takeFault s i cause cls code data r).far = s.far := by
  simp only [takeFault]; split
  · simp
  · split <;> simp
@[simp] theorem takeFault_farMarks (s : State) (i : StrandId) (cause : Byte) (cls : Nat) (code : BitVec 16) (data : Quad) (r : BitVec 64) : (takeFault s i cause cls code data r).farMarks = s.farMarks := by
  simp only [takeFault]; split
  · simp
  · split <;> simp
@[simp] theorem takeFault_farFlips (s : State) (i : StrandId) (cause : Byte) (cls : Nat) (code : BitVec 16) (data : Quad) (r : BitVec 64) : (takeFault s i cause cls code data r).farFlips = s.farFlips := by
  simp only [takeFault]; split
  · simp
  · split <;> simp
@[simp] theorem takeFault_farTags (s : State) (i : StrandId) (cause : Byte) (cls : Nat) (code : BitVec 16) (data : Quad) (r : BitVec 64) : (takeFault s i cause cls code data r).farTags = s.farTags := by
  simp only [takeFault]; split
  · simp
  · split <;> simp
@[simp] theorem takeFault_queues (s : State) (i : StrandId) (cause : Byte) (cls : Nat) (code : BitVec 16) (data : Quad) (r : BitVec 64) : (takeFault s i cause cls code data r).queues = s.queues := by
  simp only [takeFault]; split
  · simp
  · split <;> simp
@[simp] theorem takeFault_turn (s : State) (i : StrandId) (cause : Byte) (cls : Nat) (code : BitVec 16) (data : Quad) (r : BitVec 64) : (takeFault s i cause cls code data r).turn = s.turn := by
  simp only [takeFault]; split
  · simp
  · split <;> simp
@[simp] theorem takeFault_mbox (s : State) (i : StrandId) (cause : Byte) (cls : Nat) (code : BitVec 16) (data : Quad) (r : BitVec 64) : (takeFault s i cause cls code data r).mbox = s.mbox := by
  simp only [takeFault]; split
  · simp
  · split <;> simp
@[simp] theorem takeFault_cats (s : State) (i : StrandId) (cause : Byte) (cls : Nat) (code : BitVec 16) (data : Quad) (r : BitVec 64) : (takeFault s i cause cls code data r).cats = s.cats := by
  simp only [takeFault]; split
  · simp
  · split <;> simp
@[simp] theorem takeFault_accessions (s : State) (i : StrandId) (cause : Byte) (cls : Nat) (code : BitVec 16) (data : Quad) (r : BitVec 64) : (takeFault s i cause cls code data r).accessions = s.accessions := by
  simp only [takeFault]; split
  · simp
  · split <;> simp
@[simp] theorem takeFault_reply (s : State) (i : StrandId) (cause : Byte) (cls : Nat) (code : BitVec 16) (data : Quad) (r : BitVec 64) : (takeFault s i cause cls code data r).reply = s.reply := by
  simp only [takeFault]; split
  · simp
  · split <;> simp
@[simp] theorem takeFault_meas (s : State) (i : StrandId) (cause : Byte) (cls : Nat) (code : BitVec 16) (data : Quad) (r : BitVec 64) : (takeFault s i cause cls code data r).meas = s.meas := by
  simp only [takeFault]; split
  · simp
  · split <;> simp
@[simp] theorem takeFault_startRec (s : State) (i : StrandId) (cause : Byte) (cls : Nat) (code : BitVec 16) (data : Quad) (r : BitVec 64) : (takeFault s i cause cls code data r).startRec = s.startRec := by
  simp only [takeFault]; split
  · simp
  · split <;> simp
@[simp] theorem takeFault_power (s : State) (i : StrandId) (cause : Byte) (cls : Nat) (code : BitVec 16) (data : Quad) (r : BitVec 64) : (takeFault s i cause cls code data r).power = s.power := by
  simp only [takeFault]; split
  · simp
  · split <;> simp
@[simp] theorem takeFault_ctls (s : State) (i : StrandId) (cause : Byte) (cls : Nat) (code : BitVec 16) (data : Quad) (r : BitVec 64) : (takeFault s i cause cls code data r).ctls = s.ctls := by
  simp only [takeFault]; split
  · simp
  · split <;> simp
@[simp] theorem takeFault_curator (s : State) (i : StrandId) (cause : Byte) (cls : Nat) (code : BitVec 16) (data : Quad) (r : BitVec 64) : (takeFault s i cause cls code data r).curator = s.curator := by
  simp only [takeFault]; split
  · simp
  · split <;> simp
@[simp] theorem takeFault_docents (s : State) (i : StrandId) (cause : Byte) (cls : Nat) (code : BitVec 16) (data : Quad) (r : BitVec 64) : (takeFault s i cause cls code data r).docents = s.docents := by
  simp only [takeFault]; split
  · simp
  · split <;> simp
@[simp] theorem takeFault_findings (s : State) (i : StrandId) (cause : Byte) (cls : Nat) (code : BitVec 16) (data : Quad) (r : BitVec 64) : (takeFault s i cause cls code data r).findings = s.findings := by
  simp only [takeFault]; split
  · simp
  · split <;> simp
@[simp] theorem takeFault_shifts (s : State) (i : StrandId) (cause : Byte) (cls : Nat) (code : BitVec 16) (data : Quad) (r : BitVec 64) : (takeFault s i cause cls code data r).shifts = s.shifts := by
  simp only [takeFault]; split
  · simp
  · split <;> simp
@[simp] theorem takeFault_retiredTiles (s : State) (i : StrandId) (cause : Byte) (cls : Nat) (code : BitVec 16) (data : Quad) (r : BitVec 64) : (takeFault s i cause cls code data r).retiredTiles = s.retiredTiles := by
  simp only [takeFault]; split
  · simp
  · split <;> simp
@[simp] theorem takeFault_detours (s : State) (i : StrandId) (cause : Byte) (cls : Nat) (code : BitVec 16) (data : Quad) (r : BitVec 64) : (takeFault s i cause cls code data r).detours = s.detours := by
  simp only [takeFault]; split
  · simp
  · split <;> simp
@[simp] theorem takeFault_failedBypass (s : State) (i : StrandId) (cause : Byte) (cls : Nat) (code : BitVec 16) (data : Quad) (r : BitVec 64) : (takeFault s i cause cls code data r).failedBypass = s.failedBypass := by
  simp only [takeFault]; split
  · simp
  · split <;> simp
@[simp] theorem takeFault_badFields (s : State) (i : StrandId) (cause : Byte) (cls : Nat) (code : BitVec 16) (data : Quad) (r : BitVec 64) : (takeFault s i cause cls code data r).badFields = s.badFields := by
  simp only [takeFault]; split
  · simp
  · split <;> simp
@[simp] theorem takeFault_lowRail (s : State) (i : StrandId) (cause : Byte) (cls : Nat) (code : BitVec 16) (data : Quad) (r : BitVec 64) : (takeFault s i cause cls code data r).lowRail = s.lowRail := by
  simp only [takeFault]; split
  · simp
  · split <;> simp
@[simp] theorem takeFault_lh (s : State) (i : StrandId) (cause : Byte) (cls : Nat) (code : BitVec 16) (data : Quad) (r : BitVec 64) : (takeFault s i cause cls code data r).lh = s.lh := by
  simp only [takeFault]; split
  · simp
  · split <;> simp
@[simp] theorem takeFault_wheel (s : State) (i : StrandId) (cause : Byte) (cls : Nat) (code : BitVec 16) (data : Quad) (r : BitVec 64) : (takeFault s i cause cls code data r).wheel = s.wheel := by
  simp only [takeFault]; split
  · simp
  · split <;> simp
@[simp] theorem takeFault_replayLog2 (s : State) (i : StrandId) (cause : Byte) (cls : Nat) (code : BitVec 16) (data : Quad) (r : BitVec 64) : (takeFault s i cause cls code data r).replayLog2 = s.replayLog2 := by
  simp only [takeFault]; split
  · simp
  · split <;> simp
@[simp] theorem takeFault_lp (s : State) (i : StrandId) (cause : Byte) (cls : Nat) (code : BitVec 16) (data : Quad) (r : BitVec 64) : (takeFault s i cause cls code data r).lp = s.lp := by
  simp only [takeFault]; split
  · simp
  · split <;> simp
@[simp] theorem takeFault_db4 (s : State) (i : StrandId) (cause : Byte) (cls : Nat) (code : BitVec 16) (data : Quad) (r : BitVec 64) : (takeFault s i cause cls code data r).db4 = s.db4 := by
  simp only [takeFault]; split
  · simp
  · split <;> simp
@[simp] theorem takeFault_slew (s : State) (i : StrandId) (cause : Byte) (cls : Nat) (code : BitVec 16) (data : Quad) (r : BitVec 64) : (takeFault s i cause cls code data r).slew = s.slew := by
  simp only [takeFault]; split
  · simp
  · split <;> simp
@[simp] theorem takeFault_waferTrim (s : State) (i : StrandId) (cause : Byte) (cls : Nat) (code : BitVec 16) (data : Quad) (r : BitVec 64) : (takeFault s i cause cls code data r).waferTrim = s.waferTrim := by
  simp only [takeFault]; split
  · simp
  · split <;> simp
@[simp] theorem takeFault_waferInt (s : State) (i : StrandId) (cause : Byte) (cls : Nat) (code : BitVec 16) (data : Quad) (r : BitVec 64) : (takeFault s i cause cls code data r).waferInt = s.waferInt := by
  simp only [takeFault]; split
  · simp
  · split <;> simp
@[simp] theorem takeFault_fbAcc (s : State) (i : StrandId) (cause : Byte) (cls : Nat) (code : BitVec 16) (data : Quad) (r : BitVec 64) : (takeFault s i cause cls code data r).fbAcc = s.fbAcc := by
  simp only [takeFault]; split
  · simp
  · split <;> simp
@[simp] theorem takeFault_throttle (s : State) (i : StrandId) (cause : Byte) (cls : Nat) (code : BitVec 16) (data : Quad) (r : BitVec 64) : (takeFault s i cause cls code data r).throttle = s.throttle := by
  simp only [takeFault]; split
  · simp
  · split <;> simp
@[simp] theorem takeFault_baseCut (s : State) (i : StrandId) (cause : Byte) (cls : Nat) (code : BitVec 16) (data : Quad) (r : BitVec 64) : (takeFault s i cause cls code data r).baseCut = s.baseCut := by
  simp only [takeFault]; split
  · simp
  · split <;> simp
@[simp] theorem takeFault_cut (s : State) (i : StrandId) (cause : Byte) (cls : Nat) (code : BitVec 16) (data : Quad) (r : BitVec 64) : (takeFault s i cause cls code data r).cut = s.cut := by
  simp only [takeFault]; split
  · simp
  · split <;> simp
@[simp] theorem takeFault_tests (s : State) (i : StrandId) (cause : Byte) (cls : Nat) (code : BitVec 16) (data : Quad) (r : BitVec 64) : (takeFault s i cause cls code data r).tests = s.tests := by
  simp only [takeFault]; split
  · simp
  · split <;> simp
@[simp] theorem takeFault_fleet (s : State) (i : StrandId) (cause : Byte) (cls : Nat) (code : BitVec 16) (data : Quad) (r : BitVec 64) : (takeFault s i cause cls code data r).fleet = s.fleet := by
  simp only [takeFault]; split
  · simp
  · split <;> simp
@[simp] theorem takeFault_forming (s : State) (i : StrandId) (cause : Byte) (cls : Nat) (code : BitVec 16) (data : Quad) (r : BitVec 64) : (takeFault s i cause cls code data r).forming = s.forming := by
  simp only [takeFault]; split
  · simp
  · split <;> simp
@[simp] theorem takeFault_fleetLaunch (s : State) (i : StrandId) (cause : Byte) (cls : Nat) (code : BitVec 16) (data : Quad) (r : BitVec 64) : (takeFault s i cause cls code data r).fleetLaunch = s.fleetLaunch := by
  simp only [takeFault]; split
  · simp
  · split <;> simp
@[simp] theorem takeFault_fleetMsgs (s : State) (i : StrandId) (cause : Byte) (cls : Nat) (code : BitVec 16) (data : Quad) (r : BitVec 64) : (takeFault s i cause cls code data r).fleetMsgs = s.fleetMsgs := by
  simp only [takeFault]; split
  · simp
  · split <;> simp
@[simp] theorem takeFault_peerOut (s : State) (i : StrandId) (cause : Byte) (cls : Nat) (code : BitVec 16) (data : Quad) (r : BitVec 64) : (takeFault s i cause cls code data r).peerOut = s.peerOut := by
  simp only [takeFault]; split
  · simp
  · split <;> simp
@[simp] theorem takeFault_peerHolds (s : State) (i : StrandId) (cause : Byte) (cls : Nat) (code : BitVec 16) (data : Quad) (r : BitVec 64) : (takeFault s i cause cls code data r).peerHolds = s.peerHolds := by
  simp only [takeFault]; split
  · simp
  · split <;> simp
@[simp] theorem takeFault_peerLambda (s : State) (i : StrandId) (cause : Byte) (cls : Nat) (code : BitVec 16) (data : Quad) (r : BitVec 64) : (takeFault s i cause cls code data r).peerLambda = s.peerLambda := by
  simp only [takeFault]; split
  · simp
  · split <;> simp
@[simp] theorem takeFault_spdm (s : State) (i : StrandId) (cause : Byte) (cls : Nat) (code : BitVec 16) (data : Quad) (r : BitVec 64) : (takeFault s i cause cls code data r).spdm = s.spdm := by
  simp only [takeFault]; split
  · simp
  · split <;> simp
@[simp] theorem takeFault_wall (s : State) (i : StrandId) (cause : Byte) (cls : Nat) (code : BitVec 16) (data : Quad) (r : BitVec 64) : (takeFault s i cause cls code data r).wall = s.wall := by
  simp only [takeFault]; split
  · simp
  · split <;> simp
@[simp] theorem takeFault_todo (s : State) (i : StrandId) (cause : Byte) (cls : Nat) (code : BitVec 16) (data : Quad) (r : BitVec 64) : (takeFault s i cause cls code data r).todo = s.todo := by
  simp only [takeFault]; split
  · simp
  · split <;> simp
@[simp] theorem takeFault_inputs (s : State) (i : StrandId) (cause : Byte) (cls : Nat) (code : BitVec 16) (data : Quad) (r : BitVec 64) : (takeFault s i cause cls code data r).inputs = s.inputs := by
  simp only [takeFault]; split
  · simp
  · split <;> simp
@[simp] theorem takeFault_focus (s : State) (i : StrandId) (cause : Byte) (cls : Nat) (code : BitVec 16) (data : Quad) (r : BitVec 64) : (takeFault s i cause cls code data r).focus = s.focus := by
  simp only [takeFault]; split
  · simp
  · split <;> simp
@[simp] theorem takeFault_note (s : State) (i : StrandId) (cause : Byte) (cls : Nat) (code : BitVec 16) (data : Quad) (r : BitVec 64) : (takeFault s i cause cls code data r).note = s.note := by
  simp only [takeFault]; split
  · simp
  · split <;> simp
@[simp] theorem takeFault_free (s : State) (i : StrandId) (cause : Byte) (cls : Nat) (code : BitVec 16) (data : Quad) (r : BitVec 64) : (takeFault s i cause cls code data r).free = s.free := by
  simp only [takeFault]; split
  · simp
  · split <;> simp

namespace State

@[simp] theorem fault_tiles (s : State) (cls : SlotClass) (c : Byte) (d : Quad) : (s.fault cls c d).tiles = s.tiles := by simp [fault]
@[simp] theorem faultNext_tiles (s : State) (cls : SlotClass) (c : Byte) (d : BitVec 16) : (s.faultNext cls c d).tiles = s.tiles := by simp [faultNext]
@[simp] theorem fault_ctxs (s : State) (cls : SlotClass) (c : Byte) (d : Quad) : (s.fault cls c d).ctxs = s.ctxs := by simp [fault]
@[simp] theorem faultNext_ctxs (s : State) (cls : SlotClass) (c : Byte) (d : BitVec 16) : (s.faultNext cls c d).ctxs = s.ctxs := by simp [faultNext]
@[simp] theorem fault_tlb (s : State) (cls : SlotClass) (c : Byte) (d : Quad) : (s.fault cls c d).tlb = s.tlb := by simp [fault]
@[simp] theorem faultNext_tlb (s : State) (cls : SlotClass) (c : Byte) (d : BitVec 16) : (s.faultNext cls c d).tlb = s.tlb := by simp [faultNext]
@[simp] theorem fault_far (s : State) (cls : SlotClass) (c : Byte) (d : Quad) : (s.fault cls c d).far = s.far := by simp [fault]
@[simp] theorem faultNext_far (s : State) (cls : SlotClass) (c : Byte) (d : BitVec 16) : (s.faultNext cls c d).far = s.far := by simp [faultNext]
@[simp] theorem fault_farMarks (s : State) (cls : SlotClass) (c : Byte) (d : Quad) : (s.fault cls c d).farMarks = s.farMarks := by simp [fault]
@[simp] theorem faultNext_farMarks (s : State) (cls : SlotClass) (c : Byte) (d : BitVec 16) : (s.faultNext cls c d).farMarks = s.farMarks := by simp [faultNext]
@[simp] theorem fault_farFlips (s : State) (cls : SlotClass) (c : Byte) (d : Quad) : (s.fault cls c d).farFlips = s.farFlips := by simp [fault]
@[simp] theorem faultNext_farFlips (s : State) (cls : SlotClass) (c : Byte) (d : BitVec 16) : (s.faultNext cls c d).farFlips = s.farFlips := by simp [faultNext]
@[simp] theorem fault_farTags (s : State) (cls : SlotClass) (c : Byte) (d : Quad) : (s.fault cls c d).farTags = s.farTags := by simp [fault]
@[simp] theorem faultNext_farTags (s : State) (cls : SlotClass) (c : Byte) (d : BitVec 16) : (s.faultNext cls c d).farTags = s.farTags := by simp [faultNext]
@[simp] theorem fault_queues (s : State) (cls : SlotClass) (c : Byte) (d : Quad) : (s.fault cls c d).queues = s.queues := by simp [fault]
@[simp] theorem faultNext_queues (s : State) (cls : SlotClass) (c : Byte) (d : BitVec 16) : (s.faultNext cls c d).queues = s.queues := by simp [faultNext]
@[simp] theorem fault_turn (s : State) (cls : SlotClass) (c : Byte) (d : Quad) : (s.fault cls c d).turn = s.turn := by simp [fault]
@[simp] theorem faultNext_turn (s : State) (cls : SlotClass) (c : Byte) (d : BitVec 16) : (s.faultNext cls c d).turn = s.turn := by simp [faultNext]
@[simp] theorem fault_mbox (s : State) (cls : SlotClass) (c : Byte) (d : Quad) : (s.fault cls c d).mbox = s.mbox := by simp [fault]
@[simp] theorem faultNext_mbox (s : State) (cls : SlotClass) (c : Byte) (d : BitVec 16) : (s.faultNext cls c d).mbox = s.mbox := by simp [faultNext]
@[simp] theorem fault_cats (s : State) (cls : SlotClass) (c : Byte) (d : Quad) : (s.fault cls c d).cats = s.cats := by simp [fault]
@[simp] theorem faultNext_cats (s : State) (cls : SlotClass) (c : Byte) (d : BitVec 16) : (s.faultNext cls c d).cats = s.cats := by simp [faultNext]
@[simp] theorem fault_accessions (s : State) (cls : SlotClass) (c : Byte) (d : Quad) : (s.fault cls c d).accessions = s.accessions := by simp [fault]
@[simp] theorem faultNext_accessions (s : State) (cls : SlotClass) (c : Byte) (d : BitVec 16) : (s.faultNext cls c d).accessions = s.accessions := by simp [faultNext]
@[simp] theorem fault_reply (s : State) (cls : SlotClass) (c : Byte) (d : Quad) : (s.fault cls c d).reply = s.reply := by simp [fault]
@[simp] theorem faultNext_reply (s : State) (cls : SlotClass) (c : Byte) (d : BitVec 16) : (s.faultNext cls c d).reply = s.reply := by simp [faultNext]
@[simp] theorem fault_meas (s : State) (cls : SlotClass) (c : Byte) (d : Quad) : (s.fault cls c d).meas = s.meas := by simp [fault]
@[simp] theorem faultNext_meas (s : State) (cls : SlotClass) (c : Byte) (d : BitVec 16) : (s.faultNext cls c d).meas = s.meas := by simp [faultNext]
@[simp] theorem fault_startRec (s : State) (cls : SlotClass) (c : Byte) (d : Quad) : (s.fault cls c d).startRec = s.startRec := by simp [fault]
@[simp] theorem faultNext_startRec (s : State) (cls : SlotClass) (c : Byte) (d : BitVec 16) : (s.faultNext cls c d).startRec = s.startRec := by simp [faultNext]
@[simp] theorem fault_power (s : State) (cls : SlotClass) (c : Byte) (d : Quad) : (s.fault cls c d).power = s.power := by simp [fault]
@[simp] theorem faultNext_power (s : State) (cls : SlotClass) (c : Byte) (d : BitVec 16) : (s.faultNext cls c d).power = s.power := by simp [faultNext]
@[simp] theorem fault_ctls (s : State) (cls : SlotClass) (c : Byte) (d : Quad) : (s.fault cls c d).ctls = s.ctls := by simp [fault]
@[simp] theorem faultNext_ctls (s : State) (cls : SlotClass) (c : Byte) (d : BitVec 16) : (s.faultNext cls c d).ctls = s.ctls := by simp [faultNext]
@[simp] theorem fault_curator (s : State) (cls : SlotClass) (c : Byte) (d : Quad) : (s.fault cls c d).curator = s.curator := by simp [fault]
@[simp] theorem faultNext_curator (s : State) (cls : SlotClass) (c : Byte) (d : BitVec 16) : (s.faultNext cls c d).curator = s.curator := by simp [faultNext]
@[simp] theorem fault_docents (s : State) (cls : SlotClass) (c : Byte) (d : Quad) : (s.fault cls c d).docents = s.docents := by simp [fault]
@[simp] theorem faultNext_docents (s : State) (cls : SlotClass) (c : Byte) (d : BitVec 16) : (s.faultNext cls c d).docents = s.docents := by simp [faultNext]
@[simp] theorem fault_findings (s : State) (cls : SlotClass) (c : Byte) (d : Quad) : (s.fault cls c d).findings = s.findings := by simp [fault]
@[simp] theorem faultNext_findings (s : State) (cls : SlotClass) (c : Byte) (d : BitVec 16) : (s.faultNext cls c d).findings = s.findings := by simp [faultNext]
@[simp] theorem fault_shifts (s : State) (cls : SlotClass) (c : Byte) (d : Quad) : (s.fault cls c d).shifts = s.shifts := by simp [fault]
@[simp] theorem faultNext_shifts (s : State) (cls : SlotClass) (c : Byte) (d : BitVec 16) : (s.faultNext cls c d).shifts = s.shifts := by simp [faultNext]
@[simp] theorem fault_retiredTiles (s : State) (cls : SlotClass) (c : Byte) (d : Quad) : (s.fault cls c d).retiredTiles = s.retiredTiles := by simp [fault]
@[simp] theorem faultNext_retiredTiles (s : State) (cls : SlotClass) (c : Byte) (d : BitVec 16) : (s.faultNext cls c d).retiredTiles = s.retiredTiles := by simp [faultNext]
@[simp] theorem fault_detours (s : State) (cls : SlotClass) (c : Byte) (d : Quad) : (s.fault cls c d).detours = s.detours := by simp [fault]
@[simp] theorem faultNext_detours (s : State) (cls : SlotClass) (c : Byte) (d : BitVec 16) : (s.faultNext cls c d).detours = s.detours := by simp [faultNext]
@[simp] theorem fault_failedBypass (s : State) (cls : SlotClass) (c : Byte) (d : Quad) : (s.fault cls c d).failedBypass = s.failedBypass := by simp [fault]
@[simp] theorem faultNext_failedBypass (s : State) (cls : SlotClass) (c : Byte) (d : BitVec 16) : (s.faultNext cls c d).failedBypass = s.failedBypass := by simp [faultNext]
@[simp] theorem fault_badFields (s : State) (cls : SlotClass) (c : Byte) (d : Quad) : (s.fault cls c d).badFields = s.badFields := by simp [fault]
@[simp] theorem faultNext_badFields (s : State) (cls : SlotClass) (c : Byte) (d : BitVec 16) : (s.faultNext cls c d).badFields = s.badFields := by simp [faultNext]
@[simp] theorem fault_lowRail (s : State) (cls : SlotClass) (c : Byte) (d : Quad) : (s.fault cls c d).lowRail = s.lowRail := by simp [fault]
@[simp] theorem faultNext_lowRail (s : State) (cls : SlotClass) (c : Byte) (d : BitVec 16) : (s.faultNext cls c d).lowRail = s.lowRail := by simp [faultNext]
@[simp] theorem fault_lh (s : State) (cls : SlotClass) (c : Byte) (d : Quad) : (s.fault cls c d).lh = s.lh := by simp [fault]
@[simp] theorem faultNext_lh (s : State) (cls : SlotClass) (c : Byte) (d : BitVec 16) : (s.faultNext cls c d).lh = s.lh := by simp [faultNext]
@[simp] theorem fault_wheel (s : State) (cls : SlotClass) (c : Byte) (d : Quad) : (s.fault cls c d).wheel = s.wheel := by simp [fault]
@[simp] theorem faultNext_wheel (s : State) (cls : SlotClass) (c : Byte) (d : BitVec 16) : (s.faultNext cls c d).wheel = s.wheel := by simp [faultNext]
@[simp] theorem fault_replayLog2 (s : State) (cls : SlotClass) (c : Byte) (d : Quad) : (s.fault cls c d).replayLog2 = s.replayLog2 := by simp [fault]
@[simp] theorem faultNext_replayLog2 (s : State) (cls : SlotClass) (c : Byte) (d : BitVec 16) : (s.faultNext cls c d).replayLog2 = s.replayLog2 := by simp [faultNext]
@[simp] theorem fault_lp (s : State) (cls : SlotClass) (c : Byte) (d : Quad) : (s.fault cls c d).lp = s.lp := by simp [fault]
@[simp] theorem faultNext_lp (s : State) (cls : SlotClass) (c : Byte) (d : BitVec 16) : (s.faultNext cls c d).lp = s.lp := by simp [faultNext]
@[simp] theorem fault_db4 (s : State) (cls : SlotClass) (c : Byte) (d : Quad) : (s.fault cls c d).db4 = s.db4 := by simp [fault]
@[simp] theorem faultNext_db4 (s : State) (cls : SlotClass) (c : Byte) (d : BitVec 16) : (s.faultNext cls c d).db4 = s.db4 := by simp [faultNext]
@[simp] theorem fault_slew (s : State) (cls : SlotClass) (c : Byte) (d : Quad) : (s.fault cls c d).slew = s.slew := by simp [fault]
@[simp] theorem faultNext_slew (s : State) (cls : SlotClass) (c : Byte) (d : BitVec 16) : (s.faultNext cls c d).slew = s.slew := by simp [faultNext]
@[simp] theorem fault_waferTrim (s : State) (cls : SlotClass) (c : Byte) (d : Quad) : (s.fault cls c d).waferTrim = s.waferTrim := by simp [fault]
@[simp] theorem faultNext_waferTrim (s : State) (cls : SlotClass) (c : Byte) (d : BitVec 16) : (s.faultNext cls c d).waferTrim = s.waferTrim := by simp [faultNext]
@[simp] theorem fault_waferInt (s : State) (cls : SlotClass) (c : Byte) (d : Quad) : (s.fault cls c d).waferInt = s.waferInt := by simp [fault]
@[simp] theorem faultNext_waferInt (s : State) (cls : SlotClass) (c : Byte) (d : BitVec 16) : (s.faultNext cls c d).waferInt = s.waferInt := by simp [faultNext]
@[simp] theorem fault_fbAcc (s : State) (cls : SlotClass) (c : Byte) (d : Quad) : (s.fault cls c d).fbAcc = s.fbAcc := by simp [fault]
@[simp] theorem faultNext_fbAcc (s : State) (cls : SlotClass) (c : Byte) (d : BitVec 16) : (s.faultNext cls c d).fbAcc = s.fbAcc := by simp [faultNext]
@[simp] theorem fault_throttle (s : State) (cls : SlotClass) (c : Byte) (d : Quad) : (s.fault cls c d).throttle = s.throttle := by simp [fault]
@[simp] theorem faultNext_throttle (s : State) (cls : SlotClass) (c : Byte) (d : BitVec 16) : (s.faultNext cls c d).throttle = s.throttle := by simp [faultNext]
@[simp] theorem fault_baseCut (s : State) (cls : SlotClass) (c : Byte) (d : Quad) : (s.fault cls c d).baseCut = s.baseCut := by simp [fault]
@[simp] theorem faultNext_baseCut (s : State) (cls : SlotClass) (c : Byte) (d : BitVec 16) : (s.faultNext cls c d).baseCut = s.baseCut := by simp [faultNext]
@[simp] theorem fault_cut (s : State) (cls : SlotClass) (c : Byte) (d : Quad) : (s.fault cls c d).cut = s.cut := by simp [fault]
@[simp] theorem faultNext_cut (s : State) (cls : SlotClass) (c : Byte) (d : BitVec 16) : (s.faultNext cls c d).cut = s.cut := by simp [faultNext]
@[simp] theorem fault_tests (s : State) (cls : SlotClass) (c : Byte) (d : Quad) : (s.fault cls c d).tests = s.tests := by simp [fault]
@[simp] theorem faultNext_tests (s : State) (cls : SlotClass) (c : Byte) (d : BitVec 16) : (s.faultNext cls c d).tests = s.tests := by simp [faultNext]
@[simp] theorem fault_fleet (s : State) (cls : SlotClass) (c : Byte) (d : Quad) : (s.fault cls c d).fleet = s.fleet := by simp [fault]
@[simp] theorem faultNext_fleet (s : State) (cls : SlotClass) (c : Byte) (d : BitVec 16) : (s.faultNext cls c d).fleet = s.fleet := by simp [faultNext]
@[simp] theorem fault_forming (s : State) (cls : SlotClass) (c : Byte) (d : Quad) : (s.fault cls c d).forming = s.forming := by simp [fault]
@[simp] theorem faultNext_forming (s : State) (cls : SlotClass) (c : Byte) (d : BitVec 16) : (s.faultNext cls c d).forming = s.forming := by simp [faultNext]
@[simp] theorem fault_fleetLaunch (s : State) (cls : SlotClass) (c : Byte) (d : Quad) : (s.fault cls c d).fleetLaunch = s.fleetLaunch := by simp [fault]
@[simp] theorem faultNext_fleetLaunch (s : State) (cls : SlotClass) (c : Byte) (d : BitVec 16) : (s.faultNext cls c d).fleetLaunch = s.fleetLaunch := by simp [faultNext]
@[simp] theorem fault_fleetMsgs (s : State) (cls : SlotClass) (c : Byte) (d : Quad) : (s.fault cls c d).fleetMsgs = s.fleetMsgs := by simp [fault]
@[simp] theorem faultNext_fleetMsgs (s : State) (cls : SlotClass) (c : Byte) (d : BitVec 16) : (s.faultNext cls c d).fleetMsgs = s.fleetMsgs := by simp [faultNext]
@[simp] theorem fault_peerOut (s : State) (cls : SlotClass) (c : Byte) (d : Quad) : (s.fault cls c d).peerOut = s.peerOut := by simp [fault]
@[simp] theorem faultNext_peerOut (s : State) (cls : SlotClass) (c : Byte) (d : BitVec 16) : (s.faultNext cls c d).peerOut = s.peerOut := by simp [faultNext]
@[simp] theorem fault_peerHolds (s : State) (cls : SlotClass) (c : Byte) (d : Quad) : (s.fault cls c d).peerHolds = s.peerHolds := by simp [fault]
@[simp] theorem faultNext_peerHolds (s : State) (cls : SlotClass) (c : Byte) (d : BitVec 16) : (s.faultNext cls c d).peerHolds = s.peerHolds := by simp [faultNext]
@[simp] theorem fault_peerLambda (s : State) (cls : SlotClass) (c : Byte) (d : Quad) : (s.fault cls c d).peerLambda = s.peerLambda := by simp [fault]
@[simp] theorem faultNext_peerLambda (s : State) (cls : SlotClass) (c : Byte) (d : BitVec 16) : (s.faultNext cls c d).peerLambda = s.peerLambda := by simp [faultNext]
@[simp] theorem fault_spdm (s : State) (cls : SlotClass) (c : Byte) (d : Quad) : (s.fault cls c d).spdm = s.spdm := by simp [fault]
@[simp] theorem faultNext_spdm (s : State) (cls : SlotClass) (c : Byte) (d : BitVec 16) : (s.faultNext cls c d).spdm = s.spdm := by simp [faultNext]
@[simp] theorem fault_wall (s : State) (cls : SlotClass) (c : Byte) (d : Quad) : (s.fault cls c d).wall = s.wall := by simp [fault]
@[simp] theorem faultNext_wall (s : State) (cls : SlotClass) (c : Byte) (d : BitVec 16) : (s.faultNext cls c d).wall = s.wall := by simp [faultNext]
@[simp] theorem fault_todo (s : State) (cls : SlotClass) (c : Byte) (d : Quad) : (s.fault cls c d).todo = s.todo := by simp [fault]
@[simp] theorem faultNext_todo (s : State) (cls : SlotClass) (c : Byte) (d : BitVec 16) : (s.faultNext cls c d).todo = s.todo := by simp [faultNext]
@[simp] theorem fault_inputs (s : State) (cls : SlotClass) (c : Byte) (d : Quad) : (s.fault cls c d).inputs = s.inputs := by simp [fault]
@[simp] theorem faultNext_inputs (s : State) (cls : SlotClass) (c : Byte) (d : BitVec 16) : (s.faultNext cls c d).inputs = s.inputs := by simp [faultNext]
@[simp] theorem fault_focus (s : State) (cls : SlotClass) (c : Byte) (d : Quad) : (s.fault cls c d).focus = s.focus := by simp [fault]
@[simp] theorem faultNext_focus (s : State) (cls : SlotClass) (c : Byte) (d : BitVec 16) : (s.faultNext cls c d).focus = s.focus := by simp [faultNext]
@[simp] theorem fault_free (s : State) (cls : SlotClass) (c : Byte) (d : Quad) : (s.fault cls c d).free = s.free := by simp [fault]
@[simp] theorem faultNext_free (s : State) (cls : SlotClass) (c : Byte) (d : BitVec 16) : (s.faultNext cls c d).free = s.free := by simp [faultNext]

@[simp] theorem fault_note (s : State) (cls : SlotClass) (c : Byte) (d : Quad) : (s.fault cls c d).note = some ⟨c, cls⟩ := rfl
@[simp] theorem faultNext_note (s : State) (cls : SlotClass) (c : Byte) (d : BitVec 16) :
    (s.faultNext cls c d).note = some ⟨c, cls⟩ := rfl

end State

/-! ## The frames of a syllable's execution (spec/02 R55 to R57) -/

theorem guarded_disabled (s : State) (cls : SlotClass) (g : Guard) (v : Bool) (eff : State → State)
    (h : s.guardOn g = false) : guarded s cls g v eff = .next (s.taintIf (anyPsn (s.guard g).psn)) := by
  have h' : (s.guard g).val.getLsbD 0 = false := h
  simp only [guarded, h']; rfl

theorem guarded_invalid (s : State) (cls : SlotClass) (g : Guard) (eff : State → State)
    (h : s.guardOn g = true) : guarded s cls g false eff = .next (s.fault cls 0x03) := by
  have h' : (s.guard g).val.getLsbD 0 = true := h
  simp only [guarded, h']; rfl

theorem guarded_next (s : State) (cls : SlotClass) (g : Guard) (eff : State → State) (h : s.guardOn g = true) :
    guarded s cls g true eff = .next (eff (s.taintIf (anyPsn (s.guard g).psn))) := by
  have h' : (s.guard g).val.getLsbD 0 = true := h
  simp only [guarded, h']; rfl

theorem guardedC_disabled (s : State) (cls : SlotClass) (g : Guard) (v : Bool) (c : Check) (eff : State → State)
    (h : s.guardOn g = false) : guardedC s cls g v c eff = .next (s.taintIf (anyPsn (s.guard g).psn)) := by
  have h' : (s.guard g).val.getLsbD 0 = false := h
  simp only [guardedC, h']; rfl

theorem guardedC_invalid (s : State) (cls : SlotClass) (g : Guard) (c : Check) (eff : State → State)
    (h : s.guardOn g = true) : guardedC s cls g false c eff = .next (s.fault cls 0x03) := by
  have h' : (s.guard g).val.getLsbD 0 = true := h
  simp only [guardedC, h']; rfl

theorem guardedC_next (s : State) (cls : SlotClass) (g : Guard) (eff : State → State) (h : s.guardOn g = true) :
    guardedC s cls g true none eff = .next (eff (s.taintIf (anyPsn (s.guard g).psn))) := by
  have h' : (s.guard g).val.getLsbD 0 = true := h
  simp only [guardedC, h']; rfl

theorem guardedC_fault (s : State) (cls : SlotClass) (g : Guard) (c : Byte) (d : Quad) (eff : State → State)
    (h : s.guardOn g = true) : guardedC s cls g true (some (c, d)) eff = .next (s.fault cls c d) := by
  have h' : (s.guard g).val.getLsbD 0 = true := h
  simp only [guardedC, h']; rfl

theorem always_next (s : State) (cls : SlotClass) (eff : State → State) : always s cls true eff = .next (eff s) := rfl
theorem always_invalid (s : State) (cls : SlotClass) (eff : State → State) :
    always s cls false eff = .next (s.fault cls 0x03) := rfl
theorem alwaysC_next (s : State) (cls : SlotClass) (eff : State → State) : alwaysC s cls true none eff = .next (eff s) := rfl
theorem alwaysC_fault (s : State) (cls : SlotClass) (c : Byte) (d : Quad) (eff : State → State) :
    alwaysC s cls true (some (c, d)) eff = .next (s.fault cls c d) := rfl

theorem laned_next (s : State) (cls : SlotClass) (g : Guard) (eff : Mask → State → State) :
    laned s cls g true eff = .next (eff (s.guard g).val (s.taintIf (anyPsn (s.guard g).psn))) := rfl
theorem laned_invalid (s : State) (cls : SlotClass) (g : Guard) (eff : Mask → State → State) :
    laned s cls g false eff = .next (s.fault cls 0x03) := rfl
theorem lanedC_next (s : State) (cls : SlotClass) (g : Guard) (c : Mask → Check) (eff : Mask → State → State)
    (h : (s.guard g).val = 0 ∨ c (s.guard g).val = none) :
    lanedC s cls g true c eff = .next (eff (s.guard g).val (s.taintIf (anyPsn (s.guard g).psn))) := by
  rcases h with h | h
  · simp only [lanedC, if_pos h]; rfl
  · simp only [lanedC, h, ite_self]; rfl
theorem lanedC_fault (s : State) (cls : SlotClass) (g : Guard) (c : Mask → Check) (eff : Mask → State → State) (x : Byte)
    (d : Quad) (h : (s.guard g).val ≠ 0) (hc : c (s.guard g).val = some (x, d)) :
    lanedC s cls g true c eff = .next (s.fault cls x d) := by
  simp only [lanedC, hc, if_neg h]; rfl

/-- No failing check, no fault. -/
theorem firstFault_none (l : List (Bool × Byte × Quad)) (h : ∀ x ∈ l, x.1 = false) : firstFault l = none := by
  simp only [firstFault, Option.map_eq_none_iff, List.find?_eq_none]
  intro x hx; simp [h x hx]

@[simp] theorem firstFault_nil : firstFault [] = none := rfl
theorem firstFault_cons (b : Bool) (c : Byte) (d : Quad) (l : List (Bool × Byte × Quad)) :
    firstFault ((b, c, d) :: l) = if b then some (c, d) else firstFault l := by
  cases b <;> simp [firstFault]

end Sys2Proof.Machine
end

