-- ==== Sys2Proof/Laws/Memory.lean ====
section
/-!
SUPPORT. The laws of the memory operations: a read after a write, what a write leaves alone, and that every
memory operation keeps the canonical form.
-/

namespace Sys2Proof.Machine

/-! ## The canonical form -/

/-- A lower bound below every entry of a memory in canonical form. -/
theorem Memory.wfFrom_weaken {m : Memory} {lo a : Nat} (h : m.wfFrom (some a) = true) (hl : lo ≤ a) :
    m.wfFrom (some lo) = true := by
  cases m with
  | nil => rfl
  | cons p m =>
    obtain ⟨k, v⟩ := p
    simp only [Memory.wfFrom, Bool.and_eq_true, decide_eq_true_eq] at h ⊢
    exact ⟨⟨Nat.lt_of_le_of_lt hl h.1.1, h.1.2⟩, h.2⟩

theorem Memory.wfFrom_none {m : Memory} {lo : Nat} (h : m.wfFrom (some lo) = true) : m.wf = true := by
  cases m with
  | nil => rfl
  | cons p m =>
    obtain ⟨k, v⟩ := p
    simp only [Memory.wf, Memory.wfFrom, Bool.and_eq_true] at h ⊢
    exact ⟨⟨trivial, h.1.2⟩, h.2⟩

theorem Memory.wf_nil : Memory.wf [] = true := rfl

/-- Below its first entry a memory in canonical form reads zero. -/
theorem Memory.read_below {m : Memory} {lo a : Nat} (h : m.wfFrom (some lo) = true) (ha : a ≤ lo) : m.read a = 0 := by
  induction m generalizing lo with
  | nil => rfl
  | cons p m ih =>
    obtain ⟨k, v⟩ := p
    simp only [Memory.wfFrom, Bool.and_eq_true, decide_eq_true_eq] at h
    have hk : k ≠ a := by omega
    simp only [Memory.read, if_neg hk]
    exact ih h.2 (by omega)

theorem Memory.insert_wfFrom {m : Memory} {a : Nat} {b : Byte} {lo : Option Nat} (hb : b ≠ 0)
    (h : m.wfFrom lo = true) (ha : ∀ x, lo = some x → x < a) : (m.insert a b).wfFrom lo = true := by
  induction m generalizing lo with
  | nil =>
    cases lo with
    | none => simpa [Memory.insert, Memory.wfFrom] using hb
    | some x => simpa [Memory.insert, Memory.wfFrom, ha x rfl] using hb
  | cons p m ih =>
    obtain ⟨k, v⟩ := p
    simp only [Memory.wfFrom, Bool.and_eq_true, bne_iff_ne, ne_eq] at h
    obtain ⟨⟨hlo, hv⟩, hm⟩ := h
    unfold Memory.insert
    by_cases h1 : a < k
    · simp only [if_pos h1, Memory.wfFrom, Bool.and_eq_true, bne_iff_ne, ne_eq, decide_eq_true_eq]
      refine ⟨⟨?_, hb⟩, ⟨h1, hv⟩, hm⟩
      cases lo with
      | none => rfl
      | some x => simpa using ha x rfl
    · by_cases h2 : a = k
      · subst h2
        simp only [if_neg h1, if_true, Memory.wfFrom, Bool.and_eq_true, bne_iff_ne, ne_eq]
        exact ⟨⟨hlo, hb⟩, hm⟩
      · simp only [if_neg h1, if_neg h2, Memory.wfFrom, Bool.and_eq_true, bne_iff_ne, ne_eq]
        exact ⟨⟨hlo, hv⟩, ih hm fun x hx => by cases hx; omega⟩

theorem Memory.erase_wfFrom {m : Memory} {a : Nat} {lo : Option Nat} (h : m.wfFrom lo = true) :
    (m.erase a).wfFrom lo = true := by
  induction m generalizing lo with
  | nil => rfl
  | cons p m ih =>
    obtain ⟨k, v⟩ := p
    have h0 := h
    simp only [Memory.wfFrom, Bool.and_eq_true] at h
    unfold Memory.erase
    by_cases hk : k = a
    · rw [if_pos hk]
      cases lo with
      | none => exact Memory.wfFrom_none h.2
      | some x => exact Memory.wfFrom_weaken h.2 (by simpa using Nat.le_of_lt (by simpa using h.1.1))
    · simp only [if_neg hk, Memory.wfFrom, Bool.and_eq_true]
      exact ⟨h.1, ih h.2⟩

/-- Writing a byte keeps the canonical form. -/
theorem Memory.write_wf {m : Memory} (h : m.wf = true) (a : Nat) (b : Byte) : (m.write a b).wf = true := by
  unfold Memory.write
  split
  · exact Memory.erase_wfFrom h
  · exact Memory.insert_wfFrom ‹_› h (by simp)

/-- Writing bytes at consecutive addresses keeps the canonical form. -/
theorem Memory.writeList_wf {m : Memory} (h : m.wf = true) (a : Nat) (l : List Byte) : (m.writeList a l).wf = true := by
  induction l generalizing m a with
  | nil => exact h
  | cons b l ih => exact ih (Memory.write_wf h a b) _

/-- Any run of byte writes keeps the canonical form. -/
theorem Memory.foldl_write_wf {α : Type} (f : α → Nat) (g : α → Byte) (l : List α) {m : Memory} (h : m.wf = true) :
    (l.foldl (fun m x => m.write (f x) (g x)) m).wf = true := by
  induction l generalizing m with
  | nil => exact h
  | cons x l ih => exact ih (Memory.write_wf h _ _)

/-! ## Read and write -/

theorem Memory.read_insert (m : Memory) (a c : Nat) (b : Byte) : (m.insert a b).read c = if a = c then b else m.read c := by
  induction m with
  | nil => simp [Memory.insert, Memory.read]
  | cons p m ih =>
    obtain ⟨k, v⟩ := p
    unfold Memory.insert
    by_cases h1 : a < k
    · simp [h1, Memory.read]
    · by_cases h2 : a = k
      · subst h2; by_cases hc : a = c <;> simp [Memory.read, hc]
      · simp only [if_neg h1, if_neg h2, Memory.read, ih]
        by_cases hc : k = c
        · have : a ≠ c := fun h => h2 (h.trans hc.symm)
          simp [hc, this]
        · simp [hc]

theorem Memory.read_erase {m : Memory} (h : m.wf = true) (a c : Nat) :
    (m.erase a).read c = if a = c then 0 else m.read c := by
  have key : ∀ (lo : Option Nat) (m : Memory), m.wfFrom lo = true → (m.erase a).read c = if a = c then 0 else m.read c := by
    intro lo m
    induction m generalizing lo with
    | nil => intro _; simp [Memory.erase, Memory.read]
    | cons p m ih =>
      obtain ⟨k, v⟩ := p
      intro hw
      simp only [Memory.wfFrom, Bool.and_eq_true] at hw
      unfold Memory.erase
      by_cases hk : k = a
      · subst hk
        rw [if_pos rfl]
        by_cases hc : k = c
        · subst hc; rw [if_pos rfl]; exact Memory.read_below hw.2 (Nat.le_refl _)
        · simp [Memory.read, hc]
      · rw [if_neg hk]
        simp only [Memory.read, ih (some k) hw.2]
        by_cases hc : k = c
        · have : a ≠ c := fun h => hk (hc.trans h.symm)
          simp [hc, this]
        · simp [hc]
  exact key none m h

/-- What a byte reads as after a write. -/
theorem Memory.read_write {m : Memory} (h : m.wf = true) (a c : Nat) (b : Byte) :
    (m.write a b).read c = if a = c then b else m.read c := by
  unfold Memory.write
  split
  · subst b; exact Memory.read_erase h a c
  · exact Memory.read_insert m a c b

/-- A write leaves every other address alone, in any memory. -/
theorem Memory.read_write_ne (m : Memory) {a c : Nat} (b : Byte) (hc : a ≠ c) : (m.write a b).read c = m.read c := by
  unfold Memory.write
  split
  · induction m with
    | nil => rfl
    | cons p m ih =>
      obtain ⟨k, v⟩ := p
      unfold Memory.erase
      by_cases hk : k = a
      · have : k ≠ c := fun h => hc (hk.symm.trans h)
        simp [hk, Memory.read, hc]
      · simp only [if_neg hk, Memory.read, ih]
  · rw [Memory.read_insert, if_neg hc]

/-- Writing consecutive bytes leaves every address outside them alone. -/
theorem Memory.read_writeList_ne (m : Memory) {a c : Nat} (l : List Byte) (hc : c < a ∨ a + l.length ≤ c) :
    (m.writeList a l).read c = m.read c := by
  induction l generalizing m a with
  | nil => rfl
  | cons b l ih =>
    simp only [List.length_cons] at hc
    rw [Memory.writeList, ih _ (by omega), Memory.read_write_ne _ _ (by omega)]

/-- Writing consecutive bytes: each reads back. -/
theorem Memory.read_writeList {m : Memory} (h : m.wf = true) (a : Nat) (l : List Byte) {i : Nat} (hi : i < l.length) :
    (m.writeList a l).read (a + i) = l[i] := by
  induction l generalizing m a i with
  | nil => simp at hi
  | cons b l ih =>
    cases i with
    | zero =>
      rw [Memory.writeList, Memory.read_writeList_ne _ _ (.inl (by omega)), Memory.read_write h]
      simp
    | succ i =>
      have := ih (Memory.write_wf h a b) (a + 1) (i := i) (by simpa using hi)
      simpa [Memory.writeList, Nat.add_assoc, Nat.add_comm 1 i] using this

@[simp] theorem Memory.length_readList (m : Memory) (a n : Nat) : (m.readList a n).length = n := by
  induction n generalizing a with
  | zero => rfl
  | succ n ih => simp [Memory.readList, ih]

/-- A read of consecutive bytes is the read of each. -/
theorem Memory.getElem_readList (m : Memory) (a n : Nat) {i : Nat} (hi : i < (m.readList a n).length) :
    (m.readList a n)[i] = m.read (a + i) := by
  induction n generalizing a i with
  | zero => simp [Memory.readList] at hi
  | succ n ih =>
    cases i with
    | zero => simp [Memory.readList]
    | succ i =>
      have := ih (a + 1) (i := i) (by simpa [Memory.readList] using hi)
      simpa [Memory.readList, Nat.add_assoc, Nat.add_comm 1 i] using this

/-! ## The canonical form of the module -/

/-- The memories of the module right after reset are canonical. -/
theorem memoryCanonical_reset : MemoryCanonical State.reset := ⟨rfl, by simp [State.reset], by simp [State.reset]⟩

/-- Committing a word keeps a tile's memory canonical. -/
theorem Tile.commitWord_wf {t : Tile} (h : t.sram.wf = true) (bank : BitVec 6) (l : List BankByte) (w : Nat) :
    (t.commitWord bank l w).sram.wf = true := by
  unfold Tile.commitWord
  refine Memory.foldl_write_wf _ _ _ ?_
  split
  · exact h
  · exact Memory.writeList_wf h _ _

/-- Committing a write access keeps a tile's memory canonical. -/
theorem Tile.commit_wf {t : Tile} (h : t.sram.wf = true) (bank : BitVec 6) (l : List BankByte) :
    (t.commit bank l).sram.wf = true := by
  unfold Tile.commit
  generalize wordsOf l = ws
  induction ws generalizing t with
  | nil => exact h
  | cons w ws ih => exact ih (Tile.commitWord_wf h bank l w)

/-- A fresh tile holds nothing. -/
theorem Tile.fresh_wf (n : Nat) (w : BitVec 7) : (Tile.fresh n w).sram.wf = true := rfl

/-- Every tile of a canonical module has a canonical memory, the tiles that are not there too. -/
theorem MemoryCanonical.tileOf {s : State} (h : MemoryCanonical s) (t : TileId) : (s.tileOf t).sram.wf = true := by
  unfold State.tileOf
  cases hf : find s.tiles t with
  | none => rfl
  | some x => exact h.2.1 _ (mem_of_find hf)

/-- Replacing a tile by one with a canonical memory keeps the module canonical. -/
theorem MemoryCanonical.setTile {s : State} (h : MemoryCanonical s) (t : TileId) {x : Tile} (hx : x.sram.wf = true) :
    MemoryCanonical (s.setTile t x) := by
  refine ⟨h.1, fun p hp => ?_, h.2.2⟩
  obtain hp | rfl := mem_put hp
  · exact h.2.1 p hp
  · exact hx

/-- An update of a tile that keeps its memory keeps the module canonical. -/
theorem MemoryCanonical.modTile {s : State} (h : MemoryCanonical s) (t : TileId) {f : Tile → Tile}
    (hf : ∀ x : Tile, x.sram.wf = true → (f x).sram.wf = true) : MemoryCanonical (s.modTile t f) :=
  h.setTile t (hf _ (h.tileOf t))

/-- Every controller of a canonical module has a canonical memory, those that are not there too. -/
theorem MemoryCanonical.ctlOf {s : State} (h : MemoryCanonical s) (c : Controller) : (s.ctlOf c).mem.wf = true := by
  unfold State.ctlOf
  cases hf : find s.ctls c with
  | none => rfl
  | some x => exact h.2.2 _ (mem_of_find hf)

/-- Replacing a controller by one with a canonical memory keeps the module canonical. -/
theorem MemoryCanonical.setCtl {s : State} (h : MemoryCanonical s) (c : Controller) {x : Ctl} (hx : x.mem.wf = true) :
    MemoryCanonical (s.setCtl c x) := by
  refine ⟨h.1, h.2.1, fun p hp => ?_⟩
  obtain hp | rfl := mem_put hp
  · exact h.2.2 p hp
  · exact hx

/-- An update of a controller that keeps its memory keeps the module canonical. -/
theorem MemoryCanonical.modCtl {s : State} (h : MemoryCanonical s) (c : Controller) {f : Ctl → Ctl}
    (hf : ∀ x : Ctl, x.mem.wf = true → (f x).mem.wf = true) : MemoryCanonical (s.modCtl c f) :=
  h.setCtl c (hf _ (h.ctlOf c))

/-- A write into a controller's memory keeps its form. -/
theorem Ctl.store_wf (c : Controller) (a : Nat) (b : List Byte) {x : Ctl} (h : x.mem.wf = true) : (x.store c a b).mem.wf = true :=
  Memory.writeList_wf h _ _

/-- A state with the same tiles, far memory and controllers is canonical where this one is. -/
theorem MemoryCanonical.congr {s u : State} (h : MemoryCanonical s) (ht : u.tiles = s.tiles) (hf : u.far = s.far)
    (hc : u.ctls = s.ctls) : MemoryCanonical u := by
  unfold MemoryCanonical at *
  rw [ht, hf, hc]
  exact h

/-- A state with the same fabric parameters has legal ones where this one has. -/
theorem FabricLegal.congr {s u : State} (h : FabricLegal s) (h1 : u.lh = s.lh) (h2 : u.wheel = s.wheel)
    (h3 : u.replayLog2 = s.replayLog2) (h4 : u.lp = s.lp) (h5 : u.fleet = s.fleet) : FabricLegal u := by
  unfold FabricLegal at *
  rw [h1, h2, h3, h4, h5]
  exact h

/-- A write of far bytes keeps the module canonical. -/
theorem MemoryCanonical.farWrite {s : State} (h : MemoryCanonical s) (l : List (Nat × Byte × Bool)) :
    MemoryCanonical (farWrite s l) := by
  unfold Machine.farWrite
  have key : ∀ (l : List (Nat × Byte × Bool)) (s : State), MemoryCanonical s → MemoryCanonical (l.foldl (fun s b => { s with
      far := s.far.write b.1 b.2.1
      farMarks := if b.2.2 then setInsert s.farMarks (b.1 / 8) else s.farMarks
      farFlips := drop s.farFlips (b.1 / 8) }) s) := by
    intro l
    induction l with
    | nil => exact fun s h => h
    | cons b l ih => exact fun s h => ih _ ⟨Memory.write_wf h.1 _ _, h.2⟩
  exact key l _ ⟨h.1, h.2⟩

end Sys2Proof.Machine
end

