-- ==== Sys2Proof/Laws/Keeps.lean ====
section
/-!
SUPPORT. What every shared operation keeps: the canonical form of the module's memories and the legal values of the fabric
parameters; and the frames of a syllable, which keep whatever their effect keeps.
-/

namespace Sys2Proof.Machine

/-! ## Operations that write no memory -/

theorem plan_canonical (s : State) (e : Sched) (h : MemoryCanonical s) : MemoryCanonical (s.plan e) :=
  h.congr (rfl) (rfl) (rfl)
theorem plan_legal (s : State) (e : Sched) (h : FabricLegal s) : FabricLegal (s.plan e) :=
  h.congr (rfl) (rfl) (rfl) (rfl) (rfl)
theorem planEv_canonical (s : State) (cl n ph : Nat) (i : Event) (h : MemoryCanonical s) : MemoryCanonical (s.planEv cl n ph i) :=
  h.congr (rfl) (rfl) (rfl)
theorem planEv_legal (s : State) (cl n ph : Nat) (i : Event) (h : FabricLegal s) : FabricLegal (s.planEv cl n ph i) :=
  h.congr (rfl) (rfl) (rfl) (rfl) (rfl)
theorem push_canonical (s : State) (i : Event) (h : MemoryCanonical s) : MemoryCanonical (s.push i) :=
  h.congr (rfl) (rfl) (rfl)
theorem push_legal (s : State) (i : Event) (h : FabricLegal s) : FabricLegal (s.push i) :=
  h.congr (rfl) (rfl) (rfl) (rfl) (rfl)
theorem setCore_canonical (s : State) (i : StrandId) (x : Core) (h : MemoryCanonical s) : MemoryCanonical (s.setCore i x) :=
  h.congr (rfl) (rfl) (rfl)
theorem setCore_legal (s : State) (i : StrandId) (x : Core) (h : FabricLegal s) : FabricLegal (s.setCore i x) :=
  h.congr (rfl) (rfl) (rfl) (rfl) (rfl)
theorem modCore_canonical (s : State) (i : StrandId) (f : Core → Core) (h : MemoryCanonical s) : MemoryCanonical (s.modCore i f) :=
  h.congr (rfl) (rfl) (rfl)
theorem modCore_legal (s : State) (i : StrandId) (f : Core → Core) (h : FabricLegal s) : FabricLegal (s.modCore i f) :=
  h.congr (rfl) (rfl) (rfl) (rfl) (rfl)
theorem setClaim_canonical (s : State) (c : Nat) (x : Claim) (h : MemoryCanonical s) : MemoryCanonical (s.setClaim c x) :=
  h.congr (rfl) (rfl) (rfl)
theorem setClaim_legal (s : State) (c : Nat) (x : Claim) (h : FabricLegal s) : FabricLegal (s.setClaim c x) :=
  h.congr (rfl) (rfl) (rfl) (rfl) (rfl)
theorem modClaim_canonical (s : State) (c : Nat) (f : Claim → Claim) (h : MemoryCanonical s) : MemoryCanonical (s.modClaim c f) :=
  h.congr (rfl) (rfl) (rfl)
theorem modClaim_legal (s : State) (c : Nat) (f : Claim → Claim) (h : FabricLegal s) : FabricLegal (s.modClaim c f) :=
  h.congr (rfl) (rfl) (rfl) (rfl) (rfl)
theorem setCtx_canonical (s : State) (c : CtxId) (x : Ctx) (h : MemoryCanonical s) : MemoryCanonical (s.setCtx c x) :=
  h.congr (rfl) (rfl) (rfl)
theorem setCtx_legal (s : State) (c : CtxId) (x : Ctx) (h : FabricLegal s) : FabricLegal (s.setCtx c x) :=
  h.congr (rfl) (rfl) (rfl) (rfl) (rfl)
theorem modCtx_canonical (s : State) (c : CtxId) (f : Ctx → Ctx) (h : MemoryCanonical s) : MemoryCanonical (s.modCtx c f) :=
  h.congr (rfl) (rfl) (rfl)
theorem modCtx_legal (s : State) (c : CtxId) (f : Ctx → Ctx) (h : FabricLegal s) : FabricLegal (s.modCtx c f) :=
  h.congr (rfl) (rfl) (rfl) (rfl) (rfl)
theorem land_canonical (s : State) (cls : SlotClass) (n : Nat) (l : Landing) (h : MemoryCanonical s) : MemoryCanonical (s.land cls n l) :=
  h.congr (rfl) (rfl) (rfl)
theorem land_legal (s : State) (cls : SlotClass) (n : Nat) (l : Landing) (h : FabricLegal s) : FabricLegal (s.land cls n l) :=
  h.congr (rfl) (rfl) (rfl) (rfl) (rfl)
theorem landG_canonical (s : State) (cls : SlotClass) (n : Nat) (d : Dst 6) (l : Option Latch) (v : MWord) (h : MemoryCanonical s) : MemoryCanonical (s.landG cls n d l v) :=
  h.congr (rfl) (rfl) (rfl)
theorem landG_legal (s : State) (cls : SlotClass) (n : Nat) (d : Dst 6) (l : Option Latch) (v : MWord) (h : FabricLegal s) : FabricLegal (s.landG cls n d l v) :=
  h.congr (rfl) (rfl) (rfl) (rfl) (rfl)
theorem landA_canonical (s : State) (cls : SlotClass) (n : Nat) (d : Dst 4) (l : Option Latch) (v : MQuad) (h : MemoryCanonical s) : MemoryCanonical (s.landA cls n d l v) :=
  h.congr (rfl) (rfl) (rfl)
theorem landA_legal (s : State) (cls : SlotClass) (n : Nat) (d : Dst 4) (l : Option Latch) (v : MQuad) (h : FabricLegal s) : FabricLegal (s.landA cls n d l v) :=
  h.congr (rfl) (rfl) (rfl) (rfl) (rfl)
theorem landK_canonical (s : State) (cls : SlotClass) (n : Nat) (d : Dst 4) (l : Option Latch) (en : Mask) (v : MMask) (h : MemoryCanonical s) : MemoryCanonical (s.landK cls n d l en v) :=
  h.congr (rfl) (rfl) (rfl)
theorem landK_legal (s : State) (cls : SlotClass) (n : Nat) (d : Dst 4) (l : Option Latch) (en : Mask) (v : MMask) (h : FabricLegal s) : FabricLegal (s.landK cls n d l en v) :=
  h.congr (rfl) (rfl) (rfl) (rfl) (rfl)
theorem landV_canonical (s : State) (cls : SlotClass) (n : Nat) (d : Dst 6) (l : Option Latch) (en : Mask) (v : MVec) (h : MemoryCanonical s) : MemoryCanonical (s.landV cls n d l en v) :=
  h.congr (rfl) (rfl) (rfl)
theorem landV_legal (s : State) (cls : SlotClass) (n : Nat) (d : Dst 6) (l : Option Latch) (en : Mask) (v : MVec) (h : FabricLegal s) : FabricLegal (s.landV cls n d l en v) :=
  h.congr (rfl) (rfl) (rfl) (rfl) (rfl)
theorem landPair_canonical (s : State) (cls : SlotClass) (n : Nat) (d : Dst 5) (l : Option Latch) (en : Mask) (v w : MVec) (h : MemoryCanonical s) : MemoryCanonical (s.landPair cls n d l en v w) :=
  h.congr (rfl) (rfl) (rfl)
theorem landPair_legal (s : State) (cls : SlotClass) (n : Nat) (d : Dst 5) (l : Option Latch) (en : Mask) (v w : MVec) (h : FabricLegal s) : FabricLegal (s.landPair cls n d l en v w) :=
  h.congr (rfl) (rfl) (rfl) (rfl) (rfl)
theorem taintIf_canonical (s : State) (p : Bool) (h : MemoryCanonical s) : MemoryCanonical (s.taintIf p) :=
  h.congr (by simp) (by simp) (by simp)
theorem taintIf_legal (s : State) (p : Bool) (h : FabricLegal s) : FabricLegal (s.taintIf p) :=
  h.congr (by simp) (by simp) (by simp) (by simp) (by simp)
theorem fault_canonical (s : State) (cls : SlotClass) (x : Byte) (d : Quad) (h : MemoryCanonical s) : MemoryCanonical (s.fault cls x d) :=
  h.congr (by simp) (by simp) (by simp)
theorem fault_legal (s : State) (cls : SlotClass) (x : Byte) (d : Quad) (h : FabricLegal s) : FabricLegal (s.fault cls x d) :=
  h.congr (by simp) (by simp) (by simp) (by simp) (by simp)
theorem faultNext_canonical (s : State) (cls : SlotClass) (x : Byte) (c : BitVec 16) (h : MemoryCanonical s) : MemoryCanonical (s.faultNext cls x c) :=
  h.congr (by simp) (by simp) (by simp)
theorem faultNext_legal (s : State) (cls : SlotClass) (x : Byte) (c : BitVec 16) (h : FabricLegal s) : FabricLegal (s.faultNext cls x c) :=
  h.congr (by simp) (by simp) (by simp) (by simp) (by simp)
theorem recordFault_canonical (s : State) (cl : Nat) (r : FaultRec) (h : MemoryCanonical s) : MemoryCanonical (recordFault s cl r) :=
  h.congr (by simp) (by simp) (by simp)
theorem recordFault_legal (s : State) (cl : Nat) (r : FaultRec) (h : FabricLegal s) : FabricLegal (recordFault s cl r) :=
  h.congr (by simp) (by simp) (by simp) (by simp) (by simp)
theorem fatalAt_canonical (s : State) (cl : Nat) (h : MemoryCanonical s) : MemoryCanonical (fatalAt s cl) :=
  h.congr (by simp) (by simp) (by simp)
theorem fatalAt_legal (s : State) (cl : Nat) (h : FabricLegal s) : FabricLegal (fatalAt s cl) :=
  h.congr (by simp) (by simp) (by simp) (by simp) (by simp)
theorem claimFault_canonical (s : State) (i : TileId) (x : Byte) (d : Quad) (h : MemoryCanonical s) : MemoryCanonical (claimFault s i x d) :=
  h.congr (by simp) (by simp) (by simp)
theorem claimFault_legal (s : State) (i : TileId) (x : Byte) (d : Quad) (h : FabricLegal s) : FabricLegal (claimFault s i x d) :=
  h.congr (by simp) (by simp) (by simp) (by simp) (by simp)
theorem takeFatal_canonical (s : State) (i : StrandId) (x : Byte) (n : Nat) (c : BitVec 16) (d : Quad) (b : Bool) (h : MemoryCanonical s) : MemoryCanonical (takeFatal s i x n c d b) :=
  h.congr (by simp) (by simp) (by simp)
theorem takeFatal_legal (s : State) (i : StrandId) (x : Byte) (n : Nat) (c : BitVec 16) (d : Quad) (b : Bool) (h : FabricLegal s) : FabricLegal (takeFatal s i x n c d b) :=
  h.congr (by simp) (by simp) (by simp) (by simp) (by simp)
theorem takeFault_canonical (s : State) (i : StrandId) (x : Byte) (n : Nat) (c : BitVec 16) (d : Quad) (r : BitVec 64) (h : MemoryCanonical s) : MemoryCanonical (takeFault s i x n c d r) :=
  h.congr (by simp) (by simp) (by simp)
theorem takeFault_legal (s : State) (i : StrandId) (x : Byte) (n : Nat) (c : BitVec 16) (d : Quad) (r : BitVec 64) (h : FabricLegal s) : FabricLegal (takeFault s i x n c d r) :=
  h.congr (by simp) (by simp) (by simp) (by simp) (by simp)
theorem uncorrectable_canonical (s : State) (i : TileId) (n : Nat) (q : Quad) (h : MemoryCanonical s) : MemoryCanonical (uncorrectable s i n q) :=
  h.congr (by unfold uncorrectable; split <;> rfl) (by unfold uncorrectable; split <;> rfl) (by unfold uncorrectable; split <;> rfl)
theorem uncorrectable_legal (s : State) (i : TileId) (n : Nat) (q : Quad) (h : FabricLegal s) : FabricLegal (uncorrectable s i n q) :=
  h.congr (by unfold uncorrectable; split <;> rfl) (by unfold uncorrectable; split <;> rfl) (by unfold uncorrectable; split <;> rfl) (by unfold uncorrectable; split <;> rfl) (by unfold uncorrectable; split <;> rfl)
theorem countRows_canonical (s : State) (i : TileId) (b : BitVec 6) (l : List Nat) (h : MemoryCanonical s) : MemoryCanonical (countRows s i b l) :=
  h.congr (rfl) (rfl) (rfl)
theorem countRows_legal (s : State) (i : TileId) (b : BitVec 6) (l : List Nat) (h : FabricLegal s) : FabricLegal (countRows s i b l) :=
  h.congr (rfl) (rfl) (rfl) (rfl) (rfl)
theorem planWrite_canonical (s : State) (cls : SlotClass) (k n : Nat) (b : BitVec 6) (l : List BankByte) (h : MemoryCanonical s) : MemoryCanonical (s.planWrite cls k n b l) :=
  h.congr (by unfold State.planWrite; split <;> rfl) (by unfold State.planWrite; split <;> rfl) (by unfold State.planWrite; split <;> rfl)
theorem planWrite_legal (s : State) (cls : SlotClass) (k n : Nat) (b : BitVec 6) (l : List BankByte) (h : FabricLegal s) : FabricLegal (s.planWrite cls k n b l) :=
  h.congr (by unfold State.planWrite; split <;> rfl) (by unfold State.planWrite; split <;> rfl) (by unfold State.planWrite; split <;> rfl) (by unfold State.planWrite; split <;> rfl) (by unfold State.planWrite; split <;> rfl)
theorem planRead_canonical (s : State) (cls : SlotClass) (k n m : Nat) (v : Option Nat) (r : LateRead) (h : MemoryCanonical s) : MemoryCanonical (s.planRead cls k n m v r) :=
  h.congr (rfl) (rfl) (rfl)
theorem planRead_legal (s : State) (cls : SlotClass) (k n m : Nat) (v : Option Nat) (r : LateRead) (h : FabricLegal s) : FabricLegal (s.planRead cls k n m v r) :=
  h.congr (rfl) (rfl) (rfl) (rfl) (rfl)

/-! ## Operations over a tile -/

theorem setTile_legal (s : State) (i : TileId) (x : Tile) (h : FabricLegal s) : FabricLegal (s.setTile i x) :=
  h.congr rfl rfl rfl rfl rfl
theorem modTile_legal (s : State) (i : TileId) (f : Tile → Tile) (h : FabricLegal s) : FabricLegal (s.modTile i f) :=
  h.congr rfl rfl rfl rfl rfl
theorem setCtl_legal (s : State) (c : Controller) (x : Ctl) (h : FabricLegal s) : FabricLegal (s.setCtl c x) :=
  h.congr rfl rfl rfl rfl rfl
theorem modCtl_legal (s : State) (c : Controller) (f : Ctl → Ctl) (h : FabricLegal s) : FabricLegal (s.modCtl c f) :=
  h.congr rfl rfl rfl rfl rfl
theorem addBookings_canonical (s : State) (l : List Booking) (h : MemoryCanonical s) : MemoryCanonical (s.addBookings l) :=
  h.modTile _ fun _ hx => hx
theorem addBookings_legal (s : State) (l : List Booking) (h : FabricLegal s) : FabricLegal (s.addBookings l) :=
  h.congr rfl rfl rfl rfl rfl
theorem addIntent_canonical (s : State) (i : Intent) (h : MemoryCanonical s) : MemoryCanonical (s.addIntent i) :=
  h.modTile _ fun _ hx => hx
theorem addIntent_legal (s : State) (i : Intent) (h : FabricLegal s) : FabricLegal (s.addIntent i) :=
  h.congr rfl rfl rfl rfl rfl

/-- A bank read changes no byte that is stored. -/
theorem checkRead_canonical (s : State) (i : TileId) (n : Nat) (b : BitVec 6) (l : List (Option Nat))
    (h : MemoryCanonical s) : MemoryCanonical (checkRead s i n b l) := by
  unfold checkRead
  split
  · exact h
  · exact (uncorrectable_canonical s _ _ _ h).modTile _ fun _ hx => hx
theorem checkRead_legal (s : State) (i : TileId) (n : Nat) (b : BitVec 6) (l : List (Option Nat)) (h : FabricLegal s) :
    FabricLegal (checkRead s i n b l) := by
  unfold checkRead
  split
  · exact h
  · exact modTile_legal _ _ _ (uncorrectable_legal s _ _ _ h)

/-- A bank commit keeps the canonical form. -/
theorem commitBytes_canonical (s : State) (i : TileId) (n : Nat) (b : BitVec 6) (l : List BankByte)
    (h : MemoryCanonical s) : MemoryCanonical (commitBytes s i n b l) := by
  have ht := Tile.commit_wf (h.tileOf i) b l
  unfold commitBytes
  refine countRows_canonical _ _ _ _ ?_
  split
  · exact h.setTile _ ht
  · exact (uncorrectable_canonical s _ _ _ h).setTile _ ht
theorem commitBytes_legal (s : State) (i : TileId) (n : Nat) (b : BitVec 6) (l : List BankByte) (h : FabricLegal s) :
    FabricLegal (commitBytes s i n b l) := by
  unfold commitBytes
  refine countRows_legal _ _ _ _ (setTile_legal _ _ _ ?_)
  split
  · exact h
  · exact uncorrectable_legal s _ _ _ h

theorem clearZero_sram (t : Tile) (b r : Nat) : (t.clearZero b r).sram = t.sram := by
  unfold Tile.clearZero
  split <;> rfl

/-- A write of some columns of an accumulator row keeps the canonical form. -/
theorem commitAccRow_canonical (s : State) (i : TileId) (b : BitVec 6) (r : Nat) (l : List BankByte)
    (h : MemoryCanonical s) : MemoryCanonical (commitAccRow s i b r l) := by
  unfold commitAccRow
  dsimp only
  split
  · refine commitBytes_canonical _ _ _ _ _ (h.setTile _ ?_)
    rw [clearZero_sram]
    exact Tile.commit_wf (h.tileOf i) _ _
  · exact commitBytes_canonical _ _ _ _ _ h
theorem commitAccRow_legal (s : State) (i : TileId) (b : BitVec 6) (r : Nat) (l : List BankByte) (h : FabricLegal s) :
    FabricLegal (commitAccRow s i b r l) := by
  unfold commitAccRow
  dsimp only
  split
  · exact commitBytes_legal _ _ _ _ _ (setTile_legal _ _ _ h)
  · exact commitBytes_legal _ _ _ _ _ h

theorem foldl_farWrite_legal (l : List (Nat × Byte × Bool)) (s : State) (h : FabricLegal s) :
    FabricLegal (l.foldl (fun s b => { s with
      far := s.far.write b.1 b.2.1
      farMarks := if b.2.2 then setInsert s.farMarks (b.1 / 8) else s.farMarks
      farFlips := drop s.farFlips (b.1 / 8) }) s) := by
  induction l generalizing s with
  | nil => exact h
  | cons b l ih => exact ih _ (h.congr rfl rfl rfl rfl rfl)
theorem farWrite_legal (s : State) (l : List (Nat × Byte × Bool)) (h : FabricLegal s) : FabricLegal (farWrite s l) :=
  foldl_farWrite_legal l _ (h.congr rfl rfl rfl rfl rfl)

/-! ## The frames of a syllable -/

theorem checked_kept {P : State → Prop} {s eff : State} {cls : SlotClass} {c : Check}
    (hf : ∀ x d, P (s.fault cls x d)) (he : P eff) : P (s.checked cls c eff) := by
  unfold State.checked
  split
  · exact hf _ _
  · exact he
/-- A property that the taint, a fault and the effect keep is kept. -/
theorem guarded_kept {P : State → Prop} {s u : State} {cls : SlotClass} {g : Guard} {b : Bool} {eff : State → State}
    (ht : ∀ p, P (s.taintIf p)) (hf : ∀ x d, P (s.fault cls x d)) (he : ∀ p, P (eff (s.taintIf p)))
    (h : guarded s cls g b eff = .next u) : P u := by
  unfold guarded at h
  dsimp only at h
  split at h
  · cases h; exact ht _
  · split at h
    · cases h; exact hf _ _
    · cases h; exact he _
/-- A property that the taint, a fault and the effect keep is kept. -/
theorem always_kept {P : State → Prop} {s u : State} {cls : SlotClass} {b : Bool} {eff : State → State}
    (hf : ∀ x d, P (s.fault cls x d)) (he : P (eff s))
    (h : always s cls b eff = .next u) : P u := by
  unfold always at h
  split at h
  · cases h; exact hf _ _
  · cases h; exact he
/-- A property that the taint, a fault and the effect keep is kept. -/
theorem laned_kept {P : State → Prop} {s u : State} {cls : SlotClass} {g : Guard} {b : Bool} {eff : Mask → State → State}
    (hf : ∀ x d, P (s.fault cls x d)) (he : ∀ m p, P (eff m (s.taintIf p)))
    (h : laned s cls g b eff = .next u) : P u := by
  unfold laned at h
  split at h
  · cases h; exact hf _ _
  · cases h; exact he _ _
/-- A property that the taint, a fault and the effect keep is kept. -/
theorem guardedC_kept {P : State → Prop} {s u : State} {cls : SlotClass} {g : Guard} {b : Bool} {c : Check} {eff : State → State}
    (ht : ∀ p, P (s.taintIf p)) (hf : ∀ x d, P (s.fault cls x d)) (he : ∀ p, P (eff (s.taintIf p)))
    (h : guardedC s cls g b c eff = .next u) : P u := by
  unfold guardedC at h
  dsimp only at h
  split at h
  · cases h; exact ht _
  · split at h
    · cases h; exact hf _ _
    · cases h; exact checked_kept hf (he _)
/-- A property that the taint, a fault and the effect keep is kept. -/
theorem alwaysC_kept {P : State → Prop} {s u : State} {cls : SlotClass} {b : Bool} {c : Check} {eff : State → State}
    (hf : ∀ x d, P (s.fault cls x d)) (he : P (eff s))
    (h : alwaysC s cls b c eff = .next u) : P u := by
  unfold alwaysC at h
  split at h
  · cases h; exact hf _ _
  · cases h; exact checked_kept hf he
/-- A property that the taint, a fault and the effect keep is kept. -/
theorem lanedC_kept {P : State → Prop} {s u : State} {cls : SlotClass} {g : Guard} {b : Bool} {c : Mask → Check} {eff : Mask → State → State}
    (hf : ∀ x d, P (s.fault cls x d)) (he : ∀ m p, P (eff m (s.taintIf p)))
    (h : lanedC s cls g b c eff = .next u) : P u := by
  unfold lanedC at h
  dsimp only at h
  split at h
  · cases h; exact hf _ _
  · cases h; exact checked_kept hf (he _ _)
/-- A wait form: met, unmet or faulting. -/
theorem waits_kept {P : State → Prop} {s u e : State} {cls : SlotClass} {r : WaitResult} {m : Bool}
    (hf : ∀ x d, P (s.fault cls x d)) (hw : P ((s.taintIf m).modCore s.focus fun c => { c with status := .waiting })) (he : P e)
    (h : waits s cls r m e = .next u) : P u := by
  unfold waits at h
  split at h
  · cases h; exact he
  · cases h; exact hf _ _
  · split at h
    · cases h; exact hw
    · cases h; exact hf _ _

end Sys2Proof.Machine
end

