-- ==== Sys2Proof/Laws/PerInstr.lean ====
section
/-!
SUPPORT. What is said of every instruction as syntax: the instruction that `canon` names has the same encoding, is well formed
and legal exactly when the instruction is, and is its own `canon` (spec/02 R72: the four staging commands share one syllable).
-/

namespace Sys2Proof.Laws.Canon

open Sys2Proof

def Statement (i : Instr) : Prop :=
  i.canon.encode = i.encode ∧ i.canon.wellFormed = i.wellFormed ∧ i.canon.canon = i.canon ∧
    ∀ core, i.canon.legalOn core = i.legalOn core

theorem movi (sl : SSlot) (d : Dst 6) (imm : BitVec 18) : Statement (Instr.movi sl d imm) := ⟨rfl, rfl, rfl, fun _ => rfl⟩
theorem movhi (sl : SSlot) (w : Bool) (d : BitVec 6) (imm : BitVec 18) : Statement (Instr.movhi sl w d imm) := ⟨rfl, rfl, rfl, fun _ => rfl⟩
theorem add (o : SG3 6 6 6) : Statement (Instr.add o) := ⟨rfl, rfl, rfl, fun _ => rfl⟩
theorem addi (o : SI 6) : Statement (Instr.addi o) := ⟨rfl, rfl, rfl, fun _ => rfl⟩
theorem sub (o : SG3 6 6 6) : Statement (Instr.sub o) := ⟨rfl, rfl, rfl, fun _ => rfl⟩
theorem and (o : SG3 6 6 6) : Statement (Instr.and o) := ⟨rfl, rfl, rfl, fun _ => rfl⟩
theorem andi (o : SI 6) : Statement (Instr.andi o) := ⟨rfl, rfl, rfl, fun _ => rfl⟩
theorem or (o : SG3 6 6 6) : Statement (Instr.or o) := ⟨rfl, rfl, rfl, fun _ => rfl⟩
theorem ori (o : SI 6) : Statement (Instr.ori o) := ⟨rfl, rfl, rfl, fun _ => rfl⟩
theorem xor (o : SG3 6 6 6) : Statement (Instr.xor o) := ⟨rfl, rfl, rfl, fun _ => rfl⟩
theorem xori (o : SI 6) : Statement (Instr.xori o) := ⟨rfl, rfl, rfl, fun _ => rfl⟩
theorem andn (o : SG3 6 6 6) : Statement (Instr.andn o) := ⟨rfl, rfl, rfl, fun _ => rfl⟩
theorem mul (o : SG3 6 6 6) : Statement (Instr.mul o) := ⟨rfl, rfl, rfl, fun _ => rfl⟩
theorem mulh (o : SG3 6 6 6) : Statement (Instr.mulh o) := ⟨rfl, rfl, rfl, fun _ => rfl⟩
theorem mulhn (o : SG3 6 6 6) : Statement (Instr.mulhn o) := ⟨rfl, rfl, rfl, fun _ => rfl⟩
theorem div (o : SG3 6 6 6) : Statement (Instr.div o) := ⟨rfl, rfl, rfl, fun _ => rfl⟩
theorem divn (o : SG3 6 6 6) : Statement (Instr.divn o) := ⟨rfl, rfl, rfl, fun _ => rfl⟩
theorem rem (o : SG3 6 6 6) : Statement (Instr.rem o) := ⟨rfl, rfl, rfl, fun _ => rfl⟩
theorem remn (o : SG3 6 6 6) : Statement (Instr.remn o) := ⟨rfl, rfl, rfl, fun _ => rfl⟩
theorem shl (o : SG3 6 6 6) : Statement (Instr.shl o) := ⟨rfl, rfl, rfl, fun _ => rfl⟩
theorem shli (o : SSh) : Statement (Instr.shli o) := ⟨rfl, rfl, rfl, fun _ => rfl⟩
theorem shr (o : SG3 6 6 6) : Statement (Instr.shr o) := ⟨rfl, rfl, rfl, fun _ => rfl⟩
theorem shri (o : SSh) : Statement (Instr.shri o) := ⟨rfl, rfl, rfl, fun _ => rfl⟩
theorem sra (o : SG3 6 6 6) : Statement (Instr.sra o) := ⟨rfl, rfl, rfl, fun _ => rfl⟩
theorem srai (o : SSh) : Statement (Instr.srai o) := ⟨rfl, rfl, rfl, fun _ => rfl⟩
theorem rol (o : SG3 6 6 6) : Statement (Instr.rol o) := ⟨rfl, rfl, rfl, fun _ => rfl⟩
theorem min (o : SG3 6 6 6) : Statement (Instr.min o) := ⟨rfl, rfl, rfl, fun _ => rfl⟩
theorem max (o : SG3 6 6 6) : Statement (Instr.max o) := ⟨rfl, rfl, rfl, fun _ => rfl⟩
theorem minn (o : SG3 6 6 6) : Statement (Instr.minn o) := ⟨rfl, rfl, rfl, fun _ => rfl⟩
theorem maxn (o : SG3 6 6 6) : Statement (Instr.maxn o) := ⟨rfl, rfl, rfl, fun _ => rfl⟩
theorem ceq (o : SG3 6 6 6) : Statement (Instr.ceq o) := ⟨rfl, rfl, rfl, fun _ => rfl⟩
theorem cne (o : SG3 6 6 6) : Statement (Instr.cne o) := ⟨rfl, rfl, rfl, fun _ => rfl⟩
theorem clt (o : SG3 6 6 6) : Statement (Instr.clt o) := ⟨rfl, rfl, rfl, fun _ => rfl⟩
theorem cltn (o : SG3 6 6 6) : Statement (Instr.cltn o) := ⟨rfl, rfl, rfl, fun _ => rfl⟩
theorem cle (o : SG3 6 6 6) : Statement (Instr.cle o) := ⟨rfl, rfl, rfl, fun _ => rfl⟩
theorem clen (o : SG3 6 6 6) : Statement (Instr.clen o) := ⟨rfl, rfl, rfl, fun _ => rfl⟩
theorem ceqi (o : SI 6) : Statement (Instr.ceqi o) := ⟨rfl, rfl, rfl, fun _ => rfl⟩
theorem clti (o : SI 6) : Statement (Instr.clti o) := ⟨rfl, rfl, rfl, fun _ => rfl⟩
theorem sel (o : SG3 6 6 6) : Statement (Instr.sel o) := ⟨rfl, rfl, rfl, fun _ => rfl⟩
theorem clz (o : SG2 6 6) : Statement (Instr.clz o) := ⟨rfl, rfl, rfl, fun _ => rfl⟩
theorem ctz (o : SG2 6 6) : Statement (Instr.ctz o) := ⟨rfl, rfl, rfl, fun _ => rfl⟩
theorem popc (o : SG2 6 6) : Statement (Instr.popc o) := ⟨rfl, rfl, rfl, fun _ => rfl⟩
theorem bfx (o : SBf) : Statement (Instr.bfx o) := ⟨rfl, rfl, rfl, fun _ => rfl⟩
theorem bfxs (o : SBf) : Statement (Instr.bfxs o) := ⟨rfl, rfl, rfl, fun _ => rfl⟩
theorem bfi (sl : SSlot) (w : Bool) (d : BitVec 6) (a : Src 6) (pos wid : BitVec 5) : Statement (Instr.bfi sl w d a pos wid) := ⟨rfl, rfl, rfl, fun _ => rfl⟩
theorem aadd (o : SG3 4 4 6) : Statement (Instr.aadd o) := ⟨rfl, rfl, rfl, fun _ => rfl⟩
theorem aaddi (o : SI 4) : Statement (Instr.aaddi o) := ⟨rfl, rfl, rfl, fun _ => rfl⟩
theorem asub (o : SG3 4 4 4) : Statement (Instr.asub o) := ⟨rfl, rfl, rfl, fun _ => rfl⟩
theorem amk (o : SG3 4 6 6) : Statement (Instr.amk o) := ⟨rfl, rfl, rfl, fun _ => rfl⟩
theorem ahi (o : SG2 6 4) : Statement (Instr.ahi o) := ⟨rfl, rfl, rfl, fun _ => rfl⟩
theorem alo (o : SG2 6 4) : Statement (Instr.alo o) := ⟨rfl, rfl, rfl, fun _ => rfl⟩
theorem kset (o : SG2 4 6) : Statement (Instr.kset o) := ⟨rfl, rfl, rfl, fun _ => rfl⟩
theorem kget (o : SG2 6 4) : Statement (Instr.kget o) := ⟨rfl, rfl, rfl, fun _ => rfl⟩
theorem fadd (o : VG3 6 6 6 FTy) : Statement (Instr.fadd o) := ⟨rfl, rfl, rfl, fun _ => rfl⟩
theorem fsub (o : VG3 6 6 6 FTy) : Statement (Instr.fsub o) := ⟨rfl, rfl, rfl, fun _ => rfl⟩
theorem fmul (o : VG3 6 6 6 FTy) : Statement (Instr.fmul o) := ⟨rfl, rfl, rfl, fun _ => rfl⟩
theorem fmin (o : VG3 6 6 6 FTy) : Statement (Instr.fmin o) := ⟨rfl, rfl, rfl, fun _ => rfl⟩
theorem fmax (o : VG3 6 6 6 FTy) : Statement (Instr.fmax o) := ⟨rfl, rfl, rfl, fun _ => rfl⟩
theorem fabs (o : VG2 6 6 FTy) : Statement (Instr.fabs o) := ⟨rfl, rfl, rfl, fun _ => rfl⟩
theorem fneg (o : VG2 6 6 FTy) : Statement (Instr.fneg o) := ⟨rfl, rfl, rfl, fun _ => rfl⟩
theorem fma (o : VG4 6 6 FTy) : Statement (Instr.fma o) := ⟨rfl, rfl, rfl, fun _ => rfl⟩
theorem fms (o : VG4 6 6 FTy) : Statement (Instr.fms o) := ⟨rfl, rfl, rfl, fun _ => rfl⟩
theorem fnma (o : VG4 6 6 FTy) : Statement (Instr.fnma o) := ⟨rfl, rfl, rfl, fun _ => rfl⟩
theorem frcp (o : VG2 6 6 FTy) : Statement (Instr.frcp o) := ⟨rfl, rfl, rfl, fun _ => rfl⟩
theorem frsq (o : VG2 6 6 FTy) : Statement (Instr.frsq o) := ⟨rfl, rfl, rfl, fun _ => rfl⟩
theorem fexp2 (o : VG2 6 6 FTy) : Statement (Instr.fexp2 o) := ⟨rfl, rfl, rfl, fun _ => rfl⟩
theorem flog2 (o : VG2 6 6 FTy) : Statement (Instr.flog2 o) := ⟨rfl, rfl, rfl, fun _ => rfl⟩
theorem dot2 (o : VG3 6 6 6 HTy) : Statement (Instr.dot2 o) := ⟨rfl, rfl, rfl, fun _ => rfl⟩
theorem fcmpEq (o : VG3 4 6 6 FTy) : Statement (Instr.fcmpEq o) := ⟨rfl, rfl, rfl, fun _ => rfl⟩
theorem fcmpNe (o : VG3 4 6 6 FTy) : Statement (Instr.fcmpNe o) := ⟨rfl, rfl, rfl, fun _ => rfl⟩
theorem fcmpLt (o : VG3 4 6 6 FTy) : Statement (Instr.fcmpLt o) := ⟨rfl, rfl, rfl, fun _ => rfl⟩
theorem fcmpLe (o : VG3 4 6 6 FTy) : Statement (Instr.fcmpLe o) := ⟨rfl, rfl, rfl, fun _ => rfl⟩
theorem fcmpUn (o : VG3 4 6 6 FTy) : Statement (Instr.fcmpUn o) := ⟨rfl, rfl, rfl, fun _ => rfl⟩
theorem iadd (o : VG3 6 6 6 ITy) (sat : Bool) : Statement (Instr.iadd o sat) := ⟨rfl, rfl, rfl, fun _ => rfl⟩
theorem isub (o : VG3 6 6 6 ITy) (sat : Bool) : Statement (Instr.isub o sat) := ⟨rfl, rfl, rfl, fun _ => rfl⟩
theorem imul (o : VG3 6 6 6 ITy) (sat : Bool) : Statement (Instr.imul o sat) := ⟨rfl, rfl, rfl, fun _ => rfl⟩
theorem imulh (o : VG3 6 6 6 ITy) : Statement (Instr.imulh o) := ⟨rfl, rfl, rfl, fun _ => rfl⟩
theorem imad (o : VG4 6 6 ITy) (sat : Bool) : Statement (Instr.imad o sat) := ⟨rfl, rfl, rfl, fun _ => rfl⟩
theorem iand (o : VG3 6 6 6 ITy) : Statement (Instr.iand o) := ⟨rfl, rfl, rfl, fun _ => rfl⟩
theorem ior (o : VG3 6 6 6 ITy) : Statement (Instr.ior o) := ⟨rfl, rfl, rfl, fun _ => rfl⟩
theorem ixor (o : VG3 6 6 6 ITy) : Statement (Instr.ixor o) := ⟨rfl, rfl, rfl, fun _ => rfl⟩
theorem imin (o : VG3 6 6 6 ITy) : Statement (Instr.imin o) := ⟨rfl, rfl, rfl, fun _ => rfl⟩
theorem imax (o : VG3 6 6 6 ITy) : Statement (Instr.imax o) := ⟨rfl, rfl, rfl, fun _ => rfl⟩
theorem ishl (o : VG3 6 6 6 ITy) : Statement (Instr.ishl o) := ⟨rfl, rfl, rfl, fun _ => rfl⟩
theorem ishr (o : VG3 6 6 6 ITy) : Statement (Instr.ishr o) := ⟨rfl, rfl, rfl, fun _ => rfl⟩
theorem isra (o : VG3 6 6 6 ITy) : Statement (Instr.isra o) := ⟨rfl, rfl, rfl, fun _ => rfl⟩
theorem icmpEq (o : VG3 4 6 6 ITy) : Statement (Instr.icmpEq o) := ⟨rfl, rfl, rfl, fun _ => rfl⟩
theorem icmpNe (o : VG3 4 6 6 ITy) : Statement (Instr.icmpNe o) := ⟨rfl, rfl, rfl, fun _ => rfl⟩
theorem icmpLt (o : VG3 4 6 6 ITy) : Statement (Instr.icmpLt o) := ⟨rfl, rfl, rfl, fun _ => rfl⟩
theorem icmpLe (o : VG3 4 6 6 ITy) : Statement (Instr.icmpLe o) := ⟨rfl, rfl, rfl, fun _ => rfl⟩
theorem vsel (o : VG3 6 6 6 Fmt) : Statement (Instr.vsel o) := ⟨rfl, rfl, rfl, fun _ => rfl⟩
theorem vbc (o : VG2 6 6 Fmt) : Statement (Instr.vbc o) := ⟨rfl, rfl, rfl, fun _ => rfl⟩
theorem vmov (o : VG2 6 6 Fmt) : Statement (Instr.vmov o) := ⟨rfl, rfl, rfl, fun _ => rfl⟩
theorem vmovi (sl : VSlot) (d : Dst 6) (ty : Fmt) (sat : Bool) (imm : BitVec 16) : Statement (Instr.vmovi sl d ty sat imm) := ⟨rfl, rfl, rfl, fun _ => rfl⟩
theorem vext (o : VG3 6 6 6 Fmt) : Statement (Instr.vext o) := ⟨rfl, rfl, rfl, fun _ => rfl⟩
theorem vins (o : VG4 6 6 Fmt) : Statement (Instr.vins o) := ⟨rfl, rfl, rfl, fun _ => rfl⟩
theorem vperm (o : VG3 6 6 6 Fmt) : Statement (Instr.vperm o) := ⟨rfl, rfl, rfl, fun _ => rfl⟩
theorem vrot (o : VG3 6 6 6 Fmt) : Statement (Instr.vrot o) := ⟨rfl, rfl, rfl, fun _ => rfl⟩
theorem vzip (o : VG3 5 6 6 Fmt) : Statement (Instr.vzip o) := ⟨rfl, rfl, rfl, fun _ => rfl⟩
theorem vunzip (o : VG3 5 6 6 Fmt) : Statement (Instr.vunzip o) := ⟨rfl, rfl, rfl, fun _ => rfl⟩
theorem vsum (o : VG2 6 6 Fmt) : Statement (Instr.vsum o) := ⟨rfl, rfl, rfl, fun _ => rfl⟩
theorem vmaxr (o : VG2 6 6 Fmt) : Statement (Instr.vmaxr o) := ⟨rfl, rfl, rfl, fun _ => rfl⟩
theorem kand (o : VG3 4 4 4 Unit) : Statement (Instr.kand o) := ⟨rfl, rfl, rfl, fun _ => rfl⟩
theorem kor (o : VG3 4 4 4 Unit) : Statement (Instr.kor o) := ⟨rfl, rfl, rfl, fun _ => rfl⟩
theorem kxor (o : VG3 4 4 4 Unit) : Statement (Instr.kxor o) := ⟨rfl, rfl, rfl, fun _ => rfl⟩
theorem knot (o : VG2 4 4 Unit) : Statement (Instr.knot o) := ⟨rfl, rfl, rfl, fun _ => rfl⟩
theorem kcnt (o : VG2 6 4 Unit) : Statement (Instr.kcnt o) := ⟨rfl, rfl, rfl, fun _ => rfl⟩
theorem ldB (o : MA 6) : Statement (Instr.ldB o) := ⟨rfl, rfl, rfl, fun _ => rfl⟩
theorem ldBn (o : MA 6) : Statement (Instr.ldBn o) := ⟨rfl, rfl, rfl, fun _ => rfl⟩
theorem ldH (o : MA 6) : Statement (Instr.ldH o) := ⟨rfl, rfl, rfl, fun _ => rfl⟩
theorem ldHn (o : MA 6) : Statement (Instr.ldHn o) := ⟨rfl, rfl, rfl, fun _ => rfl⟩
theorem ldW (o : MA 6) : Statement (Instr.ldW o) := ⟨rfl, rfl, rfl, fun _ => rfl⟩
theorem stB (o : MS 6) : Statement (Instr.stB o) := ⟨rfl, rfl, rfl, fun _ => rfl⟩
theorem stH (o : MS 6) : Statement (Instr.stH o) := ⟨rfl, rfl, rfl, fun _ => rfl⟩
theorem stW (o : MS 6) : Statement (Instr.stW o) := ⟨rfl, rfl, rfl, fun _ => rfl⟩
theorem vldRow (o : MA 6) : Statement (Instr.vldRow o) := ⟨rfl, rfl, rfl, fun _ => rfl⟩
theorem vldCol (o : MA 6) (e : Size) : Statement (Instr.vldCol o e) := ⟨rfl, rfl, rfl, fun _ => rfl⟩
theorem vstRow (o : MS 6) : Statement (Instr.vstRow o) := ⟨rfl, rfl, rfl, fun _ => rfl⟩
theorem vstCol (o : MS 6) (e : Size) : Statement (Instr.vstCol o e) := ⟨rfl, rfl, rfl, fun _ => rfl⟩
theorem vld2 (o : MA 5) (r : Orient) : Statement (Instr.vld2 o r) := ⟨rfl, rfl, rfl, fun _ => rfl⟩
theorem vst2 (o : MS 5) (r : Orient) : Statement (Instr.vst2 o r) := ⟨rfl, rfl, rfl, fun _ => rfl⟩
theorem vlddRow (o : MA 6) : Statement (Instr.vlddRow o) := ⟨rfl, rfl, rfl, fun _ => rfl⟩
theorem vlddCol (o : MA 6) : Statement (Instr.vlddCol o) := ⟨rfl, rfl, rfl, fun _ => rfl⟩
theorem vgt (o : MX 6) (e : Size) : Statement (Instr.vgt o e) := ⟨rfl, rfl, rfl, fun _ => rfl⟩
theorem vgt2 (o : MX 5) (e : Size) : Statement (Instr.vgt2 o e) := ⟨rfl, rfl, rfl, fun _ => rfl⟩
theorem vsc (o : MXS) (e : Size) : Statement (Instr.vsc o e) := ⟨rfl, rfl, rfl, fun _ => rfl⟩
theorem amoAdd (o : MX 6) : Statement (Instr.amoAdd o) := ⟨rfl, rfl, rfl, fun _ => rfl⟩
theorem amoAnd (o : MX 6) : Statement (Instr.amoAnd o) := ⟨rfl, rfl, rfl, fun _ => rfl⟩
theorem amoOr (o : MX 6) : Statement (Instr.amoOr o) := ⟨rfl, rfl, rfl, fun _ => rfl⟩
theorem amoXor (o : MX 6) : Statement (Instr.amoXor o) := ⟨rfl, rfl, rfl, fun _ => rfl⟩
theorem amoMin (o : MX 6) : Statement (Instr.amoMin o) := ⟨rfl, rfl, rfl, fun _ => rfl⟩
theorem amoMax (o : MX 6) : Statement (Instr.amoMax o) := ⟨rfl, rfl, rfl, fun _ => rfl⟩
theorem amoXchg (o : MX 6) : Statement (Instr.amoXchg o) := ⟨rfl, rfl, rfl, fun _ => rfl⟩
theorem amoCas (w : Bool) (o : MXS) : Statement (Instr.amoCas w o) := ⟨rfl, rfl, rfl, fun _ => rfl⟩
theorem redF32 (o : MXS) : Statement (Instr.redF32 o) := ⟨rfl, rfl, rfl, fun _ => rfl⟩
theorem redS32 (o : MXS) : Statement (Instr.redS32 o) := ⟨rfl, rfl, rfl, fun _ => rfl⟩
theorem cvt (o : XF 6 6 Fmt Fmt) : Statement (Instr.cvt o) := ⟨rfl, rfl, rfl, fun _ => rfl⟩
theorem qblk (o : XF 6 6 Fam BTy) : Statement (Instr.qblk o) := ⟨rfl, rfl, rfl, fun _ => rfl⟩
theorem dqblk (o : XF 6 6 BTy Fam) : Statement (Instr.dqblk o) := ⟨rfl, rfl, rfl, fun _ => rfl⟩
theorem vpk (o : XF 6 5 Fmt Fmt) : Statement (Instr.vpk o) := ⟨rfl, rfl, rfl, fun _ => rfl⟩
theorem vupk (d : Dst 5) (a : Src 6) (tf ff : Fmt) : Statement (Instr.vupk d a tf ff) := ⟨rfl, rfl, rfl, fun _ => rfl⟩
theorem rngSeed (a b : Src 6) (g : Guard) : Statement (Instr.rngSeed a b g) := ⟨rfl, rfl, rfl, fun _ => rfl⟩
theorem rngPop (d : Dst 6) (g : Guard) : Statement (Instr.rngPop d g) := ⟨rfl, rfl, rfl, fun _ => rfl⟩
theorem spush (m : BitVec 6) (a : Src 6) (g : Guard) : Statement (Instr.spush m a g) := ⟨rfl, rfl, rfl, fun _ => rfl⟩
theorem spop (d : Dst 6) (m : BitVec 6) (g : Guard) : Statement (Instr.spop d m g) := ⟨rfl, rfl, rfl, fun _ => rfl⟩
theorem scnt (d : Dst 6) (m : BitVec 6) (g : Guard) : Statement (Instr.scnt d m g) := ⟨rfl, rfl, rfl, fun _ => rfl⟩
theorem sreset (m : BitVec 6) (g : Guard) : Statement (Instr.sreset m g) := ⟨rfl, rfl, rfl, fun _ => rfl⟩
theorem bgive (o : XB) (core : BitVec 2) (u : BitVec 6) : Statement (Instr.bgive o core u) := ⟨rfl, rfl, rfl, fun _ => rfl⟩
theorem blend (o : XB) (u : BitVec 6) (mask : BitVec 4) : Statement (Instr.blend o u mask) := ⟨rfl, rfl, rfl, fun _ => rfl⟩
theorem bback (o : XB) : Statement (Instr.bback o) := ⟨rfl, rfl, rfl, fun _ => rfl⟩
theorem brot (o : XB) : Statement (Instr.brot o) := ⟨rfl, rfl, rfl, fun _ => rfl⟩
theorem brotRev (o : XB) : Statement (Instr.brotRev o) := ⟨rfl, rfl, rfl, fun _ => rfl⟩
theorem bmap (d : Dst 6) (m : BitVec 6) (g : Guard) : Statement (Instr.bmap d m g) := ⟨rfl, rfl, rfl, fun _ => rfl⟩
theorem bfmt (o : XB) (fmt : Fmt) : Statement (Instr.bfmt o fmt) := ⟨rfl, rfl, rfl, fun _ => rfl⟩
theorem bzero (o : XB) : Statement (Instr.bzero o) := ⟨rfl, rfl, rfl, fun _ => rfl⟩
theorem bcopy (o : XB) (src : BitVec 6) (plate cnt : BitVec 4) : Statement (Instr.bcopy o src plate cnt) := ⟨rfl, rfl, rfl, fun _ => rfl⟩
theorem mclaim (n : BitVec 8) : Statement (Instr.mclaim n) := ⟨rfl, rfl, rfl, fun _ => rfl⟩
theorem mrel (n : BitVec 8) : Statement (Instr.mrel n) := ⟨rfl, rfl, rfl, fun _ => rfl⟩
theorem mstageRow (o : ES) : Statement (Instr.mstageRow o) := ⟨rfl, rfl, rfl, fun _ => rfl⟩
theorem mstageCol (o : ES) (e : Size) : Statement (Instr.mstageCol o e) := ⟨rfl, rfl, rfl, fun _ => rfl⟩
theorem mshape (sh : BitVec 2) (base : BitVec 4) (ofs : BitVec 10) (g : Guard) : Statement (Instr.mshape sh base ofs g) := ⟨rfl, rfl, rfl, fun _ => rfl⟩
theorem mma (sh : BitVec 2) (set na nb : Bool) (g : Guard) : Statement (Instr.mma sh set na nb g) := ⟨rfl, rfl, rfl, fun _ => rfl⟩
theorem maccRd (d : Dst 6) (tile : BitVec 8) (row : BitVec 6) (quarter : BitVec 2) : Statement (Instr.maccRd d tile row quarter) := ⟨rfl, rfl, rfl, fun _ => rfl⟩
theorem maccZero (n : BitVec 8) : Statement (Instr.maccZero n) := ⟨rfl, rfl, rfl, fun _ => rfl⟩
theorem mqnt (o : MS 6) (fam : Fam) (sat : Bool) : Statement (Instr.mqnt o fam sat) := ⟨rfl, rfl, rfl, fun _ => rfl⟩
theorem xsendLo (tag : BitVec 12) (a : Src 6) : Statement (Instr.xsendLo tag a) := ⟨rfl, rfl, rfl, fun _ => rfl⟩
theorem xsendHi (tag : BitVec 12) (a : Src 6) : Statement (Instr.xsendHi tag a) := ⟨rfl, rfl, rfl, fun _ => rfl⟩
theorem xrecvLo (d : Dst 6) (tag : BitVec 12) : Statement (Instr.xrecvLo d tag) := ⟨rfl, rfl, rfl, fun _ => rfl⟩
theorem xrecvHi (d : Dst 6) (tag : BitVec 12) : Statement (Instr.xrecvHi d tag) := ⟨rfl, rfl, rfl, fun _ => rfl⟩
theorem xland (a : Src 6) (dt : BitVec 18) : Statement (Instr.xland a dt) := ⟨rfl, rfl, rfl, fun _ => rfl⟩
theorem xtag (a : Src 6) (i : BitVec 4) : Statement (Instr.xtag a i) := ⟨rfl, rfl, rfl, fun _ => rfl⟩
theorem xpoll (d : BitVec 6) (tag : BitVec 12) : Statement (Instr.xpoll d tag) := ⟨rfl, rfl, rfl, fun _ => rfl⟩
theorem tkalign : Statement (Instr.tkalign) := ⟨rfl, rfl, rfl, fun _ => rfl⟩
theorem tkhold (dt : BitVec 18) : Statement (Instr.tkhold dt) := ⟨rfl, rfl, rfl, fun _ => rfl⟩
theorem stgSet (c : BitVec 8) (r : CtxReg) (a : Src 6) : Statement (Instr.stgSet c r a) := ⟨rfl, rfl, rfl, fun _ => rfl⟩
theorem readToBank (n : BitVec 8) : Statement (Instr.readToBank n) := ⟨rfl, rfl, rfl, fun _ => rfl⟩
theorem readToLandingBuffer (n : BitVec 8) : Statement (Instr.readToLandingBuffer n) := ⟨rfl, rfl, rfl, fun _ => rfl⟩
theorem write (n : BitVec 8) : Statement (Instr.write n) := ⟨rfl, rfl, rfl, fun _ => rfl⟩
theorem trackedWrite (n : BitVec 8) : Statement (Instr.trackedWrite n) := ⟨rfl, rfl, rfl, fun _ => rfl⟩
theorem stgRd (d : BitVec 6) (c : BitVec 8) (r : CtxName) : Statement (Instr.stgRd d c r) := ⟨rfl, rfl, rfl, fun _ => rfl⟩
theorem tlWait (c : BitVec 8) (a : Src 4) : Statement (Instr.tlWait c a) := ⟨rfl, rfl, rfl, fun _ => rfl⟩
theorem tlRd (d : BitVec 4) (c : BitVec 8) : Statement (Instr.tlRd d c) := ⟨rfl, rfl, rfl, fun _ => rfl⟩
theorem nop : Statement (Instr.nop) := ⟨rfl, rfl, rfl, fun _ => rfl⟩
theorem br (ofs : BitVec 18) : Statement (Instr.br ofs) := ⟨rfl, rfl, rfl, fun _ => rfl⟩
theorem brz (a : Src 6) (ofs : BitVec 18) : Statement (Instr.brz a ofs) := ⟨rfl, rfl, rfl, fun _ => rfl⟩
theorem brnz (a : Src 6) (ofs : BitVec 18) : Statement (Instr.brnz a ofs) := ⟨rfl, rfl, rfl, fun _ => rfl⟩
theorem brk (a : Src 6) (ofs : BitVec 18) : Statement (Instr.brk a ofs) := ⟨rfl, rfl, rfl, fun _ => rfl⟩
theorem call (d : BitVec 4) (ofs : BitVec 18) : Statement (Instr.call d ofs) := ⟨rfl, rfl, rfl, fun _ => rfl⟩
theorem ret (a : Src 4) (g : Guard) : Statement (Instr.ret a g) := ⟨rfl, rfl, rfl, fun _ => rfl⟩
theorem loop (a : Src 6) (ofs : BitVec 18) : Statement (Instr.loop a ofs) := ⟨rfl, rfl, rfl, fun _ => rfl⟩
theorem halt (g : Guard) : Statement (Instr.halt g) := ⟨rfl, rfl, rfl, fun _ => rfl⟩
theorem tkawait (a : Src 4) (dt : BitVec 18) : Statement (Instr.tkawait a dt) := ⟨rfl, rfl, rfl, fun _ => rfl⟩
theorem gate (n : BitVec 9) : Statement (Instr.gate n) := ⟨rfl, rfl, rfl, fun _ => rfl⟩
theorem wsplit (a b : Src 6) (g : Guard) : Statement (Instr.wsplit a b g) := ⟨rfl, rfl, rfl, fun _ => rfl⟩
theorem wret (a : Src 6) (g : Guard) : Statement (Instr.wret a g) := ⟨rfl, rfl, rfl, fun _ => rfl⟩
theorem jcbAdd (a : Src 6) (g : Guard) : Statement (Instr.jcbAdd a g) := ⟨rfl, rfl, rfl, fun _ => rfl⟩
theorem jcbPost (g : Guard) : Statement (Instr.jcbPost g) := ⟨rfl, rfl, rfl, fun _ => rfl⟩
theorem npreOn (g : Guard) : Statement (Instr.npreOn g) := ⟨rfl, rfl, rfl, fun _ => rfl⟩
theorem npreOff (g : Guard) : Statement (Instr.npreOff g) := ⟨rfl, rfl, rfl, fun _ => rfl⟩
theorem trap (code : BitVec 16) : Statement (Instr.trap code) := ⟨rfl, rfl, rfl, fun _ => rfl⟩
theorem svc (code : BitVec 16) : Statement (Instr.svc code) := ⟨rfl, rfl, rfl, fun _ => rfl⟩
theorem brkpt (code : BitVec 16) : Statement (Instr.brkpt code) := ⟨rfl, rfl, rfl, fun _ => rfl⟩
theorem iret : Statement (Instr.iret) := ⟨rfl, rfl, rfl, fun _ => rfl⟩
theorem crget (d : BitVec 6) (f : Bool) (r : CReg) : Statement (Instr.crget d f r) := ⟨rfl, rfl, rfl, fun _ => rfl⟩
theorem crset (a : Src 6) (f : Bool) (r : CReg) : Statement (Instr.crset a f r) := ⟨rfl, rfl, rfl, fun _ => rfl⟩
theorem fenceAcq (sc : Scope) (g : Guard) : Statement (Instr.fenceAcq sc g) := ⟨rfl, rfl, rfl, fun _ => rfl⟩
theorem fenceRel (sc : Scope) (g : Guard) : Statement (Instr.fenceRel sc g) := ⟨rfl, rfl, rfl, fun _ => rfl⟩
theorem fenceAr (sc : Scope) (g : Guard) : Statement (Instr.fenceAr sc g) := ⟨rfl, rfl, rfl, fun _ => rfl⟩
theorem fenceSc (sc : Scope) (g : Guard) : Statement (Instr.fenceSc sc g) := ⟨rfl, rfl, rfl, fun _ => rfl⟩
theorem waitaEq (o : MS 6) (sc : Scope) : Statement (Instr.waitaEq o sc) := ⟨rfl, rfl, rfl, fun _ => rfl⟩
theorem waitaNe (o : MS 6) (sc : Scope) : Statement (Instr.waitaNe o sc) := ⟨rfl, rfl, rfl, fun _ => rfl⟩
theorem waitaGen (o : MS 6) (sc : Scope) : Statement (Instr.waitaGen o sc) := ⟨rfl, rfl, rfl, fun _ => rfl⟩
theorem barArr (n : BitVec 9) : Statement (Instr.barArr n) := ⟨rfl, rfl, rfl, fun _ => rfl⟩
theorem barWait (n : BitVec 9) : Statement (Instr.barWait n) := ⟨rfl, rfl, rfl, fun _ => rfl⟩
theorem barSync (n : BitVec 9) : Statement (Instr.barSync n) := ⟨rfl, rfl, rfl, fun _ => rfl⟩
theorem openSpanEntry (st : StrandId) : Statement (Instr.openSpanEntry st) := ⟨rfl, rfl, rfl, fun _ => rfl⟩
theorem waitFormIssue (st : StrandId) : Statement (Instr.waitFormIssue st) := ⟨rfl, rfl, rfl, fun _ => rfl⟩
theorem tkawaitIssue (st : StrandId) : Statement (Instr.tkawaitIssue st) := ⟨rfl, rfl, rfl, fun _ => rfl⟩
theorem resultLanding (st : StrandId) (l : Landing) : Statement (Instr.resultLanding st l) := ⟨rfl, rfl, rfl, fun _ => rfl⟩
theorem runEnd (st : StrandId) : Statement (Instr.runEnd st) := ⟨rfl, rfl, rfl, fun _ => rfl⟩
theorem bankCommit (t : TileId) (core : Nat) (bank : BitVec 6) (d : BankData) : Statement (Instr.bankCommit t core bank d) := ⟨rfl, rfl, rfl, fun _ => rfl⟩
theorem mapChangeEffect (t : TileId) (ch : MapChange) : Statement (Instr.mapChangeEffect t ch) := ⟨rfl, rfl, rfl, fun _ => rfl⟩
theorem formatChangeEffect (t : TileId) (bank : BitVec 6) (f : Fmt) : Statement (Instr.formatChangeEffect t bank f) := ⟨rfl, rfl, rfl, fun _ => rfl⟩
theorem reductionApply (t : TileId) : Statement (Instr.reductionApply t) := ⟨rfl, rfl, rfl, fun _ => rfl⟩
theorem stageRowTransfer (t : TileId) (p : StageStep) : Statement (Instr.stageRowTransfer t p) := ⟨rfl, rfl, rfl, fun _ => rfl⟩
theorem mmaStart (t : TileId) (op : Nat) : Statement (Instr.mmaStart t op) := ⟨rfl, rfl, rfl, fun _ => rfl⟩
theorem mmaGroupAdd (t : TileId) (op b g : Nat) : Statement (Instr.mmaGroupAdd t op b g) := ⟨rfl, rfl, rfl, fun _ => rfl⟩
theorem mmaBlockWrite (t : TileId) (op b : Nat) : Statement (Instr.mmaBlockWrite t op b) := ⟨rfl, rfl, rfl, fun _ => rfl⟩
theorem mmaCompletion (t : TileId) (op : Nat) : Statement (Instr.mmaCompletion t op) := ⟨rfl, rfl, rfl, fun _ => rfl⟩
theorem arraySend (t : TileId) (send : Nat) : Statement (Instr.arraySend t send) := ⟨rfl, rfl, rfl, fun _ => rfl⟩
theorem operandRowDeposit (t : TileId) (slot : Nat) (row : MVec) (fmt : BitVec 6) : Statement (Instr.operandRowDeposit t slot row fmt) := ⟨rfl, rfl, rfl, fun _ => rfl⟩
theorem flitArrival (t : TileId) (side : Side) (f : Transit) : Statement (Instr.flitArrival t side f) := ⟨rfl, rfl, rfl, fun _ => rfl⟩
theorem flitRelease (t : TileId) (side : Side) : Statement (Instr.flitRelease t side) := ⟨rfl, rfl, rfl, fun _ => rfl⟩
theorem landedFlitDue (t : TileId) (tag : BitVec 12) (due : Nat) : Statement (Instr.landedFlitDue t tag due) := ⟨rfl, rfl, rfl, fun _ => rfl⟩
theorem landingLost (t : TileId) (tag : BitVec 12) (due : Nat) : Statement (Instr.landingLost t tag due) := ⟨rfl, rfl, rfl, fun _ => rfl⟩
theorem holdDelivery (t : TileId) (q : Nat) (mark : HoldMark) : Statement (Instr.holdDelivery t q mark) := ⟨rfl, rfl, rfl, fun _ => rfl⟩
theorem holdEnd (t : TileId) : Statement (Instr.holdEnd t) := ⟨rfl, rfl, rfl, fun _ => rfl⟩
theorem voltageDroop (t : TileId) (part : Nat) : Statement (Instr.voltageDroop t part) := ⟨rfl, rfl, rfl, fun _ => rfl⟩
theorem localTrimUpdate (t : TileId) : Statement (Instr.localTrimUpdate t) := ⟨rfl, rfl, rfl, fun _ => rfl⟩
theorem waferTrimUpdate (links : List (Nat × Int)) : Statement (Instr.waferTrimUpdate links) := ⟨rfl, rfl, rfl, fun _ => rfl⟩
theorem deadbandSlewSet (db sl : Nat) : Statement (Instr.deadbandSlewSet db sl) := ⟨rfl, rfl, rfl, fun _ => rfl⟩
theorem throttle (cut : Throttle) : Statement (Instr.throttle cut) := ⟨rfl, rfl, rfl, fun _ => rfl⟩
theorem railChange (field : Nat) (place : Place) (high : Bool) : Statement (Instr.railChange field place high) := ⟨rfl, rfl, rfl, fun _ => rfl⟩
theorem countUpset (t : TileId) (d : BitVec 64) : Statement (Instr.countUpset t d) := ⟨rfl, rfl, rfl, fun _ => rfl⟩
theorem bitUpset (p : UpsetPlace) (mask : BitVec 72) : Statement (Instr.bitUpset p mask) := ⟨rfl, rfl, rfl, fun _ => rfl⟩
theorem alignment (t : TileId) : Statement (Instr.alignment t) := ⟨rfl, rfl, rfl, fun _ => rfl⟩
theorem peerLinkLoss (port : Nat) : Statement (Instr.peerLinkLoss port) := ⟨rfl, rfl, rfl, fun _ => rfl⟩
theorem gateRelease (cl n : Nat) : Statement (Instr.gateRelease cl n) := ⟨rfl, rfl, rfl, fun _ => rfl⟩
theorem gateTimeout (cl n : Nat) : Statement (Instr.gateTimeout cl n) := ⟨rfl, rfl, rfl, fun _ => rfl⟩
theorem barrierPhaseCompletion (cl n : Nat) : Statement (Instr.barrierPhaseCompletion cl n) := ⟨rfl, rfl, rfl, fun _ => rfl⟩
theorem barrierTimeout (st : StrandId) (n : Nat) : Statement (Instr.barrierTimeout st n) := ⟨rfl, rfl, rfl, fun _ => rfl⟩
theorem nonPreEmptibleCap (st : StrandId) : Statement (Instr.nonPreEmptibleCap st) := ⟨rfl, rfl, rfl, fun _ => rfl⟩
theorem weightArrival (cl : Nat) (rcv : Option StrandId) (share : Nat) : Statement (Instr.weightArrival cl rcv share) := ⟨rfl, rfl, rfl, fun _ => rfl⟩
theorem jcbTotalArrival (st : StrandId) (n : Nat) : Statement (Instr.jcbTotalArrival st n) := ⟨rfl, rfl, rfl, fun _ => rfl⟩
theorem jcbPostArrival (cl : Nat) : Statement (Instr.jcbPostArrival cl) := ⟨rfl, rfl, rfl, fun _ => rfl⟩
theorem strandRetirement (st : StrandId) : Statement (Instr.strandRetirement st) := ⟨rfl, rfl, rfl, fun _ => rfl⟩
theorem claimEvaluation (cl : Nat) : Statement (Instr.claimEvaluation cl) := ⟨rfl, rfl, rfl, fun _ => rfl⟩
theorem commandActivation (c : CtxId) : Statement (Instr.commandActivation c) := ⟨rfl, rfl, rfl, fun _ => rfl⟩
theorem readLineRequest (c : CtxId) (m j : Nat) : Statement (Instr.readLineRequest c m j) := ⟨rfl, rfl, rfl, fun _ => rfl⟩
theorem stagingFlitRelease (c : CtxId) (m i : Nat) : Statement (Instr.stagingFlitRelease c m i) := ⟨rfl, rfl, rfl, fun _ => rfl⟩
theorem stagingDeposit (c : CtxId) (m k : Nat) : Statement (Instr.stagingDeposit c m k) := ⟨rfl, rfl, rfl, fun _ => rfl⟩
theorem stagingSourceRead (c : CtxId) (m k : Nat) : Statement (Instr.stagingSourceRead c m k) := ⟨rfl, rfl, rfl, fun _ => rfl⟩
theorem stagingWriteFlit (c : CtxId) (m i : Nat) : Statement (Instr.stagingWriteFlit c m i) := ⟨rfl, rfl, rfl, fun _ => rfl⟩
theorem stagingWriteCommit (c : CtxId) (m : Nat) : Statement (Instr.stagingWriteCommit c m) := ⟨rfl, rfl, rfl, fun _ => rfl⟩
theorem trackerFire (c : CtxId) : Statement (Instr.trackerFire c) := ⟨rfl, rfl, rfl, fun _ => rfl⟩
theorem timelineAdvance (c : CtxId) : Statement (Instr.timelineAdvance c) := ⟨rfl, rfl, rfl, fun _ => rfl⟩
theorem flagWrite (c : CtxId) (m : Nat) : Statement (Instr.flagWrite c m) := ⟨rfl, rfl, rfl, fun _ => rfl⟩
theorem fatalStop (cl : Nat) : Statement (Instr.fatalStop cl) := ⟨rfl, rfl, rfl, fun _ => rfl⟩
theorem uncorrectableHalt (cl : Nat) : Statement (Instr.uncorrectableHalt cl) := ⟨rfl, rfl, rfl, fun _ => rfl⟩
theorem preemptionStop (cl : Nat) : Statement (Instr.preemptionStop cl) := ⟨rfl, rfl, rfl, fun _ => rfl⟩
theorem selfTestMove (field row col : Nat) : Statement (Instr.selfTestMove field row col) := ⟨rfl, rfl, rfl, fun _ => rfl⟩
theorem selfTestMoveBack (field row : Nat) : Statement (Instr.selfTestMoveBack field row) := ⟨rfl, rfl, rfl, fun _ => rfl⟩
theorem abortStop (cl : Nat) : Statement (Instr.abortStop cl) := ⟨rfl, rfl, rfl, fun _ => rfl⟩
theorem claimRelease (cl : Nat) : Statement (Instr.claimRelease cl) := ⟨rfl, rfl, rfl, fun _ => rfl⟩
theorem powerOn (b : BootFindings) : Statement (Instr.powerOn b) := ⟨rfl, rfl, rfl, fun _ => rfl⟩
theorem hostFarWrite (addr : Nat) (w : FarData) : Statement (Instr.hostFarWrite addr w) := ⟨rfl, rfl, rfl, fun _ => rfl⟩
theorem hostFarRead (addr len : Nat) : Statement (Instr.hostFarRead addr len) := ⟨rfl, rfl, rfl, fun _ => rfl⟩
theorem qnotifyWrite (q : BitVec 6) (w : BitVec 64) : Statement (Instr.qnotifyWrite q w) := ⟨rfl, rfl, rfl, fun _ => rfl⟩
theorem hostRegisterWrite (off : Nat) (v : BitVec 64) : Statement (Instr.hostRegisterWrite off v) := ⟨rfl, rfl, rfl, fun _ => rfl⟩
theorem packetRead (q : BitVec 6) : Statement (Instr.packetRead q) := ⟨rfl, rfl, rfl, fun _ => rfl⟩
theorem fleetLaunch (packet args : List Byte) : Statement (Instr.fleetLaunch packet args) := ⟨rfl, rfl, rfl, fun _ => rfl⟩
theorem managementSidebandMessage (msg : FleetMessage) : Statement (Instr.managementSidebandMessage msg) := ⟨rfl, rfl, rfl, fun _ => rfl⟩
theorem load (a : MbArgs) : Statement (Instr.load a) := ⟨rfl, rfl, rfl, fun _ => rfl⟩
theorem evict (a : MbArgs) : Statement (Instr.evict a) := ⟨rfl, rfl, rfl, fun _ => rfl⟩
theorem lease (a : MbArgs) : Statement (Instr.lease a) := ⟨rfl, rfl, rfl, fun _ => rfl⟩
theorem unlease (a : MbArgs) : Statement (Instr.unlease a) := ⟨rfl, rfl, rfl, fun _ => rfl⟩
theorem unleaseEffect (slot : BitVec 8) : Statement (Instr.unleaseEffect slot) := ⟨rfl, rfl, rfl, fun _ => rfl⟩
theorem queueEnable (a : MbArgs) : Statement (Instr.queueEnable a) := ⟨rfl, rfl, rfl, fun _ => rfl⟩
theorem queueDisable (a : MbArgs) : Statement (Instr.queueDisable a) := ⟨rfl, rfl, rfl, fun _ => rfl⟩
theorem queueDisableDrain (q : BitVec 6) : Statement (Instr.queueDisableDrain q) := ⟨rfl, rfl, rfl, fun _ => rfl⟩
theorem invtlb (a : MbArgs) : Statement (Instr.invtlb a) := ⟨rfl, rfl, rfl, fun _ => rfl⟩
theorem preempt (a : MbArgs) : Statement (Instr.preempt a) := ⟨rfl, rfl, rfl, fun _ => rfl⟩
theorem resume (a : MbArgs) : Statement (Instr.resume a) := ⟨rfl, rfl, rfl, fun _ => rfl⟩
theorem abort (a : MbArgs) : Statement (Instr.abort a) := ⟨rfl, rfl, rfl, fun _ => rfl⟩
theorem fwload (a : MbArgs) : Statement (Instr.fwload a) := ⟨rfl, rfl, rfl, fun _ => rfl⟩
theorem record (a : MbArgs) : Statement (Instr.record a) := ⟨rfl, rfl, rfl, fun _ => rfl⟩
theorem restart (a : MbArgs) : Statement (Instr.restart a) := ⟨rfl, rfl, rfl, fun _ => rfl⟩
theorem opNotAssigned (op : BitVec 8) : Statement (Instr.opNotAssigned op) := ⟨rfl, rfl, rfl, fun _ => rfl⟩
theorem switchRequest (c : Controller) (addr : BitVec 32) : Statement (Instr.switchRequest c addr) := ⟨rfl, rfl, rfl, fun _ => rfl⟩
theorem firmwareSwitch (c : Controller) : Statement (Instr.firmwareSwitch c) := ⟨rfl, rfl, rfl, fun _ => rfl⟩
theorem alive (sig : CtlSignal) : Statement (Instr.alive sig) := ⟨rfl, rfl, rfl, fun _ => rfl⟩
theorem accept (sig : CtlSignal) : Statement (Instr.accept sig) := ⟨rfl, rfl, rfl, fun _ => rfl⟩
theorem rollback (c : Controller) : Statement (Instr.rollback c) := ⟨rfl, rfl, rfl, fun _ => rfl⟩
theorem getVersion : Statement (Instr.getVersion) := ⟨rfl, rfl, rfl, fun _ => rfl⟩
theorem getCapabilities (flags : Nat) : Statement (Instr.getCapabilities flags) := ⟨rfl, rfl, rfl, fun _ => rfl⟩
theorem negotiateAlgorithms (asym hash : Nat) : Statement (Instr.negotiateAlgorithms asym hash) := ⟨rfl, rfl, rfl, fun _ => rfl⟩
theorem getDigests : Statement (Instr.getDigests) := ⟨rfl, rfl, rfl, fun _ => rfl⟩
theorem getCertificate (slot offset len : Nat) : Statement (Instr.getCertificate slot offset len) := ⟨rfl, rfl, rfl, fun _ => rfl⟩
theorem challenge (slot : Nat) (nonce : List Byte) : Statement (Instr.challenge slot nonce) := ⟨rfl, rfl, rfl, fun _ => rfl⟩
theorem getMeasurements (index : Nat) (sign : Bool) : Statement (Instr.getMeasurements index sign) := ⟨rfl, rfl, rfl, fun _ => rfl⟩
theorem accessionRecordWrite (slot : BitVec 8) (rec bart : List Byte) : Statement (Instr.accessionRecordWrite slot rec bart) := ⟨rfl, rfl, rfl, fun _ => rfl⟩
theorem retainedImageFault (c : Controller) : Statement (Instr.retainedImageFault c) := ⟨rfl, rfl, rfl, fun _ => rfl⟩
theorem tileFailsSelfTest (field row : Nat) : Statement (Instr.tileFailsSelfTest field row) := ⟨rfl, rfl, rfl, fun _ => rfl⟩

end Sys2Proof.Laws.Canon
end

