-- ==== Sys2Proof/Tests/Slice0.lean ====
section
/-!
SUPPORT. The model's own tests: words of the spec's encoding tables and what they decode to, an ill-formed term for each
check of well-formedness, single steps on small states, and for every statement a state that meets its hypotheses.
-/

set_option Elab.async false

namespace Sys2Proof.Tests

open Sys2Proof Sys2Proof.Machine

/-! ## Words of the spec's encoding tables -/

/-- Sequencing and system forms: spec/04 and spec/13, their tables of encodings. -/
theorem test_decode_sequencing :
    decodeSyllable .c 0x02_000C_0040 = some (.brz (.reg 3) 64) ∧
    decodeSyllable .c 0x05_0200_0200 = some (.call 1 512) ∧
    decodeSyllable .c 0x11_0000_0005 = some (.gate 5) ∧
    decodeSyllable .c 0x10_001C_015A = some (.tkawait (.reg 7) 346) ∧
    decodeSyllable .c 0x24_0400_2200 = some (.crget 2 false .drift) ∧
    decodeSyllable .c 0x25_0018_1480 = some (.crset (.reg 6) true .tvec) := by decide +kernel

/-- Fences, waits on a word and barriers: spec/12, its table of encodings. -/
theorem test_decode_synchronisation :
    decodeSyllable .c 0x30_0000_0025 = some (.fenceRel .store 0) ∧
    decodeSyllable .c 0x30_0000_0163 = some (.fenceSc .claim 2) ∧
    decodeSyllable .c 0x31_0860_2041 = some (.waitaGen ⟨4, 3, 4, 0⟩ .tile) ∧
    decodeSyllable .c 0x32_0000_0025 = some (.barArr 37) ∧ decodeSyllable .c 0x34_0000_012C = some (.barSync 300) ∧
    decodeSyllable .m 0x10_0A41_8000 = some (.amoAdd ⟨.reg 5, 2, .reg 6, 0⟩) ∧
    decodeSyllable .m 0x10_0E22_00B8 = some (.amoCas false ⟨7, 1, .reg 8, 1⟩) ∧
    decodeSyllable .m 0x11_0682_42C0 = some (.redS32 ⟨3, 4, .reg 9, 5⟩) := by decide +kernel

/-- Scalar and address forms: spec/05 and the listings of spec/15 to spec/17. -/
theorem test_decode_scalar :
    decodeSyllable .s0 0x08_0E0E_0800 = some (.add ⟨.s0, .reg 7, .reg 3, .latch .sb, 0⟩) ∧
    decodeSyllable .s0 0x41_060F_FFC0 = some (.aaddi ⟨.s0, .reg 3, .reg 3, -64⟩) ∧
    decodeSyllable .s1 0x41_041C_0258 = some (.aaddi ⟨.s1, .reg 2, .reg 7, 600⟩) ∧
    decodeSyllable .s0 0x01_0601_0000 = some (.movi .s0 (.reg 3) 0x10000) ∧
    decodeSyllable .s0 0x25_0424_001F = some (.srai ⟨.s0, .reg 2, .reg 9, 31⟩) ∧
    decodeSyllable .s0 0x3C_0814_0168 = some (.bfx ⟨.s0, .reg 4, .reg 5, 8, 11⟩) ∧
    decodeSyllable .s0 0x38_0208_1A00 = some (.sel ⟨.s0, .reg 1, .reg 2, .reg 3, 4⟩) ∧
    decodeSyllable .s0 0x48_0418_0000 = some (.kset ⟨.s0, .reg 2, .reg 6, 0⟩) := by decide +kernel

/-- Vector and mask forms: spec/07 and the listings. -/
theorem test_decode_vector :
    decodeSyllable .v0 0x01_0A04_1001 = some (.fadd ⟨.v0, .reg 5, .reg 1, .reg 2, 0, .bf16⟩) ∧
    decodeSyllable .v1 0x12_0208_1800 = some (.fcmpLt ⟨.v1, .reg 1, .reg 2, .reg 3, 0, .fp32⟩) ∧
    decodeSyllable .v0 0x03_0604_1081 = some (.fmul ⟨.v0, .reg 3, .reg 1, .reg 2, 1, .bf16⟩) ∧
    decodeSyllable .v0 0x48_1210_0000 = some (.vsum ⟨.v0, .reg 9, .reg 4, 0, .flt .fp32⟩) ∧
    decodeSyllable .v0 0x50_0804_1000 = some (.kand ⟨.v0, .reg 4, .reg 1, .reg 2, 0, ()⟩) ∧
    decodeSyllable .v0 0x41_0208_0008 = some (.vbc ⟨.v0, .reg 1, .reg 2, 0, .int ⟨false, .w⟩⟩) := by decide +kernel

/-- Conversions, random bits, streams and bank-switch forms: spec/06, spec/07, spec/08. -/
theorem test_decode_x_slot :
    decodeSyllable .x 0x02_0E22_4044 = some (.qblk ⟨.reg 7, .reg 8, ⟨false, false, .p4⟩, .bf16, .rne, true⟩) ∧
    decodeSyllable .x 0x03_121C_1900 = some (.dqblk ⟨.reg 9, .reg 7, .bf16, ⟨false, false, .p4⟩, .rne, false⟩) ∧
    decodeSyllable .x 0x05_181C_0900 = some (.vupk (.reg 6) (.reg 7) (.flt .fp32) (.fam ⟨false, false, .p4⟩)) ∧
    decodeSyllable .x 0x08_0004_1000 = some (.rngSeed (.reg 1) (.reg 2) 0) ∧
    decodeSyllable .x 0x10_0004_018C = some (.spush 12 (.reg 1) 3) ∧
    decodeSyllable .x 0x11_0C00_000C = some (.spop (.reg 6) 12 0) ∧
    decodeSyllable .x 0x20_0210_0000 = some (.bgive ⟨1, 0⟩ 0 2) ∧
    decodeSyllable .x 0x20_0A4C_0000 = some (.bgive ⟨5, 0⟩ 2 9) ∧
    decodeSyllable .x 0x23_0600_0001 = some (.brotRev ⟨3, 0⟩) := by decide +kernel

/-- Matrix, fabric and staging forms: spec/09, spec/10, spec/11. -/
theorem test_decode_e_slot :
    decodeSyllable .e 0x01_0000_0005 = some (.mclaim 5) ∧
    decodeSyllable .e 0x03_0520_07E0 = some (.mstageRow ⟨5, 2, 0, 63⟩) ∧
    decodeSyllable .e 0x03_0631_03F4 = some (.mstageCol ⟨6, 3, 32, 31⟩ .h) ∧
    decodeSyllable .e 0x05_0000_01C1 = some (.mma 1 false true false 3) ∧
    decodeSyllable .e 0x06_1000_850C = some (.maccRd (.reg 8) 12 5 2) ∧
    decodeSyllable .e 0x08_0CA0_0064 = some (.mqnt ⟨6, 5, 0, 0⟩ ⟨false, false, .p4⟩ true) ∧
    decodeSyllable .e 0x10_0010_48C1 = some (.xsendHi 0x123 (.reg 4)) ∧
    decodeSyllable .e 0x13_001B_FCC0 = some (.xtag (.reg 6) 3) ∧
    decodeSyllable .e 0x14_0E00_48C0 = some (.xpoll 7 0x123) ∧
    decodeSyllable .e 0x16_0000_0040 = some (.tkhold 64) ∧
    decodeSyllable .e 0x20_0018_1503 = some (.stgSet 3 .tick (.reg 6)) ∧
    decodeSyllable .e 0x21_0000_0003 = some (.readToBank 3) ∧
    decodeSyllable .e 0x22_0800_0C03 = some (.stgRd 4 3 (.stat .state)) ∧
    decodeSyllable .e 0x28_0008_0003 = some (.tlWait 3 (.reg 2)) := by decide +kernel

/-- Bank accesses: spec/08 and the listings. -/
theorem test_decode_accesses :
    decodeSyllable .m 0x01_0640_1810 = some (.ldH ⟨.reg 3, 2, 3, 0⟩) ∧
    decodeSyllable .m 0x02_0E01_0020 = some (.stW ⟨7, 0, 32, 0⟩) ∧
    decodeSyllable .m 0x04_2860_0800 = some (.vstRow ⟨20, 3, 1, 0⟩) ∧
    decodeSyllable .m 0x04_0600_0880 = some (.vstRow ⟨3, 0, 1, 1⟩) := by decide +kernel

/-- The empty header, an unassigned opcode and a reserved bit: spec/02 R42, R74. -/
theorem test_decode_rejects :
    decodeSyllable .c 0xFF_0000_0000 = none ∧ decodeSyllable .s0 0x00_0000_0000 = none ∧
    decodeSyllable .e 0x15_0000_0001 = none ∧ decodeSyllable .e 0x15_0000_0000 = some .tkalign := by decide +kernel

/-! ## Well-formed and ill-formed terms, one of each for every check -/

theorem test_ill_formed :
    Instr.wellFormed (.bfx ⟨.s0, .reg 1, .reg 2, 20, 12⟩) = false ∧ Instr.wellFormed (.bfx ⟨.s0, .reg 1, .reg 2, 20, 11⟩) = true ∧
    Instr.wellFormed (.bfxs ⟨.s0, .reg 1, .reg 2, 31, 1⟩) = false ∧
    Instr.wellFormed (.bfi .s0 false 1 (.reg 2) 1 31) = false ∧ Instr.wellFormed (.bfi .s0 false 1 (.reg 2) 0 31) = true ∧
    Instr.wellFormed (.vmovi .v0 (.reg 1) (.int ⟨true, .w⟩) true 5) = false ∧
    Instr.wellFormed (.vmovi .v0 (.reg 1) (.flt .fp32) true 5) = true ∧
    Instr.wellFormed (.cvt ⟨.reg 1, .reg 2, .int ⟨true, .b⟩, .int ⟨true, .w⟩, .rtz, false⟩) = false ∧
    Instr.wellFormed (.qblk ⟨.reg 1, .reg 3, ⟨false, false, .p4⟩, .fp32, .rne, false⟩) = false ∧
    Instr.wellFormed (.dqblk ⟨.reg 1, .reg 2, .fp32, ⟨false, false, .p4⟩, .rne, false⟩) = false ∧
    Instr.wellFormed (.vpk ⟨.reg 1, .reg 2, .flt .fp32, .flt .bf16, .rne, false⟩) = false ∧
    Instr.wellFormed (.vupk (.reg 1) (.reg 2) (.flt .bf16) (.flt .fp32)) = false ∧
    Instr.wellFormed (.blend ⟨1, 0⟩ 2 0) = false ∧ Instr.wellFormed (.bcopy ⟨1, 0⟩ 2 15 1) = false ∧
    Instr.wellFormed (.bcopy ⟨1, 0⟩ 2 15 0) = true ∧ Instr.wellFormed (.xland (.reg 1) 0) = false ∧
    Instr.wellFormed (.tkhold 0) = false ∧ Instr.wellFormed (.tkhold 4096) = true ∧ Instr.wellFormed (.tkhold 4097) = false ∧
    Instr.wellFormed (.stgSet 3 .tick (.reg 16)) = false ∧ Instr.wellFormed (.stgRd 16 3 (.reg .far)) = false ∧
    Instr.wellFormed (.loop (.reg 1) 0) = false ∧ Instr.wellFormed (.loop (.reg 1) 1) = true ∧
    Instr.wellFormed (.crget 16 true .tick) = false ∧ Instr.wellFormed (.crset (.reg 1) false .tick) = false ∧
    Instr.wellFormed (.crset (.reg 16) true .tvec) = false ∧
    Instr.legalOn 2 (.bgive ⟨1, 0⟩ 2 3) = false ∧ Instr.legalOn 1 (.blend ⟨1, 0⟩ 3 2) = false := by decide +kernel

/-! ## Small states -/

/-- The probing strand: core 0 of tile (0, 0) of claim 0. -/
abbrev st0 : StrandId := probeStrand
abbrev t0 : TileId := probeStrand.tile

/-- A claim of one field that runs at tick 0; its one strand issues an empty bundle next. -/
def base : State := placeBundle State.reset []

/-- The base state with another core state of the probing strand. -/
def withMe (f : Core → Core) : State := base.modCore st0 f

/-- A core with registers g1 = 7, g2 = 3, k1 = 0, a1 = 0x2_0000 (slot 2, offset 0), and slot 2 mapped to bank 5. -/
def someCore (c : Core) : Core := { c with
  g := (c.g.put 1 (.clean 7)).put 2 (.clean 3)
  k := c.k.put 1 (.clean 0)
  a := c.a.put 1 (.clean 0x20000)
  map := c.map.put 2 ⟨.owned, 5⟩ }

/-- A strand with a mapped bank. -/
def mapped : State := withMe someCore

/-- The same with another tile. -/
def mappedTile (f : Tile → Tile) : State := mapped.modTile t0 f

/-- The bundle of one instruction, placed where the strand issues next. -/
def placed (i : Instr) : State := placeBundle State.reset (i.bundleBytes.getD [])

/-- Bundles of one instruction each, one after the other. -/
def placedAll (l : List Instr) : State := placeBundle State.reset (l.flatMap fun i => i.bundleBytes.getD [])

/-- What an outcome's next state satisfies. -/
def next (o : Host.Outcome State Fault Refusal) (p : State → Bool) : Bool :=
  match o with
  | .next u => p u
  | .fault _ => false
  | .refused _ => false


/-- The first landing of an outcome: its tick and the registers it writes. -/
def lands (o : Host.Outcome State Fault Refusal) : Option (Nat × List RegWrite) :=
  match o with
  | .next u => (u.agenda.getLast?).bind fun e => match e.act with
      | .ev (.resultLanding _ (.result r _)) => some (e.tick, r)
      | _ => none
  | .fault _ => none
  | .refused _ => none

/-- The cause of the fault that the strand took. -/
def cause (o : Host.Outcome State Fault Refusal) : Option Byte :=
  match o with
  | .next u => u.note.map fun n => n.cause
  | .fault _ => none
  | .refused _ => none

/-- A state whose strand holds two g values. -/
def two (a b : Word) : State := withMe fun c => { c with g := (c.g.put 1 (.clean a)).put 2 (.clean b) }

def g3 (a b : Src 6) : SG3 6 6 6 := ⟨.s0, .reg 3, a, b, 0⟩
def gLands (i : SG3 6 6 6 → Instr) (a b : Word) : Option (Nat × List RegWrite) := lands (exec (i (g3 (.reg 1) (.reg 2))) (two a b))
def gIs (n : Nat) (v : Word) : Option (Nat × List RegWrite) := some (n, [.g 3 (.clean v)])

def v2 (a b : Vec) : State := withMe fun c => { c with v := (c.v.put 1 (.clean a)).put 2 (.clean b) }
/-- The low elements of the vector that an outcome lands. -/
def vLow (o : Host.Outcome State Fault Refusal) (w : Nat) : Option (Nat × Nat) :=
  match lands o with
  | some (n, .v _ x _ :: _) => some (n, elem w x.val 0)
  | _ => none

/-! ## Witnesses: for every statement with hypotheses, operands and states that meet them

Each theorem lists, clause by clause, concrete operands and states that meet the hypotheses of the statement it is named
after, at the boundary values of the ranges that the clauses name. Where a clause is about all forms of a list, its conclusion is
checked at the point as well. -/

/-- Whether an outcome is a next state. -/
def runs (o : Host.Outcome State Fault Refusal) : Bool := next o fun _ => true

/-- Whether an outcome is a next state with the same operations to come. -/
def plans (o : Host.Outcome State Fault Refusal) (u : State) : Bool := next o fun x => decide (x.agenda = u.agenda)

/-- Whether the strand took a fault of a class and a cause. -/
def faults (o : Host.Outcome State Fault Refusal) (cls : SlotClass) (c : Byte) : Bool :=
  next o fun x => decide (x.note = some ⟨c, cls⟩)

/-- The base state with a changed claim. -/
def withClaim (f : Claim → Claim) : State := base.modClaim 0 f

/-- A placed bundle in another core state. -/
def placedIn (i : Instr) (f : Core → Core) : State := (placed i).modCore st0 f

/-- The mapped state with another address in a1. -/
def addressed (q : Quad) : State := withMe fun c => { someCore c with a := c.a.put 1 (.clean q) }

/-- The mapped state whose slot 2 has another map state. -/
def mappedAs (e : MapSt) : State := withMe fun c => { someCore c with map := c.map.put 2 ⟨e, 5⟩ }

/-- A state whose next task is a late read. -/
def reading (r : LateRead) : State := { mapped with todo := [.read r] }

/-- A tile with 61 scratchpad banks from bank 1 on, operand bank 62 and accumulator bank 63. -/
def matrixTile (t : Tile) : Tile := { t with part := 0x0000_040B_D000_0001 }

def spanOpen (s : State) : State := s.modCore st0 fun c => { c with span := true }

def own : XB := ⟨2, 0⟩

/-- A second strand on core 1 of the tile. -/
def duo (s : State) : State := s.setCore ⟨t0, 1⟩ { Core.fresh with status := .running }

/-- An operand slot: owner, P, format, F and U. -/
def slot (o : Option (BitVec 2)) (p : Nat) (u : Nat) : OpSlot := ⟨o, p, some (.flt .bf16), 0, u⟩

/-- The mapped state with an operand bank, an accumulator bank, and another state of slot 3. -/
def operands (x : OpSlot) : State := mappedTile fun t => { matrixTile t with opSlots := t.opSlots.put 3 x }

/-- A landing entry of tag 0x123. -/
def waiting (ready : Nat) (armed : Bool) : LandEntry := ⟨0x123, 7, 0, ready, 0, armed, none⟩


/-- The state of a claim that counts jobs. -/
def counting (posted : Bool) (total : Nat) : State :=
  (withMe fun c => { c with posted := posted }).modClaim 0 fun c => { c with mech := .jcb, jtotal := total }
/-! ## Scalar forms (spec/05 R126 to R138) -/

theorem test_add_wraps : gLands .add 0xFFFFFFFF 2 = gIs 1 1 := by decide +kernel
theorem test_sub_wraps : gLands .sub 3 7 = gIs 1 0xFFFFFFFC := by decide +kernel
theorem test_andn : gLands .andn 0xFF 0x0F = gIs 1 0xF0 := by decide +kernel
theorem test_mulh_signs : gLands .mulh 0xFFFFFFFF 1 = gIs 3 0xFFFFFFFF ∧ gLands .mulhn 0xFFFFFFFF 1 = gIs 3 0 := by decide +kernel
theorem test_div_rem_signs : gLands .div 0xFFFFFFF9 2 = gIs 12 0xFFFFFFFD ∧ gLands .rem 0xFFFFFFF9 2 = gIs 12 0xFFFFFFFF := by
  decide +kernel
theorem test_div_by_zero : gLands .div 5 0 = gIs 12 0xFFFFFFFF ∧ gLands .rem 5 0 = gIs 12 5 ∧
    gLands .divn 5 0 = gIs 12 0xFFFFFFFF ∧ gLands .remn 5 0 = gIs 12 5 := by decide +kernel
theorem test_div_overflow : gLands .div 0x80000000 0xFFFFFFFF = gIs 12 0x80000000 ∧
    gLands .rem 0x80000000 0xFFFFFFFF = gIs 12 0 := by decide +kernel
theorem test_shifts_by_width : gLands .shl 1 32 = gIs 1 0 ∧ gLands .shr 0x80000000 32 = gIs 1 0 ∧
    gLands .sra 0x80000000 40 = gIs 1 0xFFFFFFFF ∧ gLands .rol 0x80000001 33 = gIs 1 3 := by decide +kernel
theorem test_min_max : gLands .min 0xFFFFFFFF 1 = gIs 1 0xFFFFFFFF ∧ gLands .minn 0xFFFFFFFF 1 = gIs 1 1 ∧
    gLands .max 0xFFFFFFFF 1 = gIs 1 1 ∧ gLands .maxn 0xFFFFFFFF 1 = gIs 1 0xFFFFFFFF := by decide +kernel
theorem test_compares : gLands .clt 0xFFFFFFFF 0 = gIs 1 1 ∧ gLands .cltn 0xFFFFFFFF 0 = gIs 1 0 ∧ gLands .cle 4 4 = gIs 1 1 ∧
    gLands .clen 5 4 = gIs 1 0 ∧ gLands .ceq 4 4 = gIs 1 1 ∧ gLands .cne 4 4 = gIs 1 0 := by decide +kernel
theorem test_counts : lands (exec (.clz ⟨.s0, .reg 3, .reg 1, 0⟩) (two 0 0)) = gIs 1 32 ∧
    lands (exec (.ctz ⟨.s0, .reg 3, .reg 1, 0⟩) (two 8 0)) = gIs 1 3 ∧
    lands (exec (.popc ⟨.s0, .reg 3, .reg 1, 0⟩) (two 0xF0F 0)) = gIs 1 8 := by decide +kernel
theorem test_bit_fields : lands (exec (.bfx ⟨.s0, .reg 3, .reg 1, 4, 3⟩) (two 0x1A5 0)) = gIs 1 0xA ∧
    lands (exec (.bfxs ⟨.s0, .reg 3, .reg 1, 4, 3⟩) (two 0x1A5 0)) = gIs 1 0xFFFFFFFA ∧
    lands (exec (.bfi .s0 false 2 (.reg 1) 8 3) (two 0xFF 0x1234)) = some (1, [.g 2 (.clean 0x1F34)]) := by decide +kernel
theorem test_moves : lands (exec (.movi .s0 (.reg 3) 0x3FFFF) base) = gIs 1 0xFFFFFFFF ∧
    lands (exec (.movhi .s0 false 1 1) (two 0xFFFFFFFF 0)) = some (1, [.g 1 (.clean 0x7FFF)]) := by decide +kernel
theorem test_write_to_g0 : lands (exec (.add ⟨.s0, .none, .reg 1, .reg 2, 0⟩) (two 1 1)) = some (1, []) := by decide +kernel
theorem test_aadd_keeps_tag :
    lands (exec (.aaddi ⟨.s0, .reg 2, .reg 1, -1⟩) (withMe fun c => { c with a := c.a.put 1 (.clean 0x1200000000000000) })) =
      some (1, [.a 2 (.clean 0x12FFFFFFFFFFFFFF)]) := by decide +kernel
theorem test_kset_kget : lands (exec (.kset ⟨.s0, .reg 2, .reg 1, 0⟩) (two 0x12345678 0)) = some (1, [.k 2 (.clean 0x5678) 0xFFFF]) ∧
    lands (exec (.kget ⟨.s0, .reg 3, .reg 0, 0⟩) base) = gIs 1 0xFFFF := by decide +kernel

/-! ## Vector forms and conversions (spec/06, spec/07) -/

theorem test_fadd_rounds_to_even :
    vLow (exec (.fadd ⟨.v0, .reg 3, .reg 1, .reg 2, 0, .fp32⟩) (v2 0x4B800000 0x3F800000)) 32 = some (3, 0x4B800000) := by
  decide +kernel
theorem test_fmul_fma : vLow (exec (.fmul ⟨.v0, .reg 3, .reg 1, .reg 2, 0, .fp32⟩) (v2 0x40000000 0x40400000)) 32 = some (4, 0x40C00000) ∧
    vLow (exec (.fma ⟨.v0, false, 1, .reg 1, .reg 2, 0, .fp32⟩) (v2 0x40000000 0x40400000)) 32 = some (4, 0x41000000) := by
  decide +kernel
theorem test_fneg_keeps_nan : vLow (exec (.fneg ⟨.v0, .reg 3, .reg 1, 0, .fp32⟩) (v2 0x7FC00000 0)) 32 = some (3, 0xFFC00000) := by
  decide +kernel
theorem test_fmin_zero_signs : vLow (exec (.fmin ⟨.v0, .reg 3, .reg 1, .reg 2, 0, .fp32⟩) (v2 0 0x80000000)) 32 = some (3, 0x80000000) := by
  decide +kernel
theorem test_isub_saturates : vLow (exec (.isub ⟨.v0, .reg 3, .reg 1, .reg 2, 0, ⟨false, .b⟩⟩ true) (v2 3 5)) 8 = some (3, 0) ∧
    vLow (exec (.iadd ⟨.v0, .reg 3, .reg 1, .reg 2, 0, ⟨true, .h⟩⟩ false) (v2 0x7FFF 1)) 16 = some (3, 0x8000) := by decide +kernel
theorem test_imulh : vLow (exec (.imulh ⟨.v0, .reg 3, .reg 1, .reg 2, 0, ⟨true, .w⟩⟩) (v2 0xFFFFFFFF 1)) 32 = some (4, 0xFFFFFFFF) ∧
    vLow (exec (.imulh ⟨.v0, .reg 3, .reg 1, .reg 2, 0, ⟨false, .w⟩⟩) (v2 0xFFFFFFFF 1)) 32 = some (4, 0) := by decide +kernel
theorem test_vsum_tree : lands (exec (.vsum ⟨.v0, .reg 3, .reg 1, 0, .flt .fp32⟩) (v2 0x3F8000003F8000004B800000 0)) =
    gIs 6 0x4B800000 := by decide +kernel
theorem test_cvt_bf16 : vLow (exec (.cvt ⟨.reg 3, .reg 1, .flt .bf16, .flt .fp32, .rne, false⟩) (v2 0x3F808000 0)) 16 = some (2, 0x3F80) := by
  decide +kernel

/-! ## Faults, traps and control -/

theorem test_invalid_latch : cause (exec (.add (g3 (.latch .sa) (.reg 2))) base) = some 0x03 := by decide +kernel
theorem test_trap_codes : cause (exec (.trap 0x1234) base) = some 0x7F ∧ cause (exec (.svc 1) base) = some 0x7D ∧
    cause (exec .iret base) = some 0x75 ∧ cause (exec (.brkpt 1) base) = none := by decide +kernel
theorem test_call_returns_after_delay : lands (exec (.call 1 512) (placedAll [.call 1 512, .nop, .nop, .nop])) =
    some (3, [.a 1 (.clean 18)]) := by decide +kernel
theorem test_brz_taken : next (exec (.brz (.reg 1) 64) (two 0 0)) (fun u => decide (u.me.xfer = some (64, 2))) = true ∧
    next (exec (.brz (.reg 1) 64) (two 1 0)) (fun u => decide (u.me.xfer = none)) = true := by decide +kernel
theorem test_gate_not_member : cause (exec (.gate 5) base) = some 0x51 := by decide +kernel
theorem test_crget_tick : lands (exec (.crget 2 true .tick) base) = some (2, [.a 2 (.clean 0)]) := by decide +kernel

/-! ## Banks -/

theorem test_load_detached : cause (exec (.ldW ⟨.reg 3, 1, 0, 0⟩) base) = some 0x10 ∧
    cause (exec (.ldW ⟨.reg 3, 1, 0, 0⟩) mapped) = none := by decide +kernel
theorem test_load_signs :
    lands (exec (.ldB ⟨.reg 3, 1, 0, 0⟩) (mappedTile fun t => { t with sram := t.sram.write (5 * 65536) 0x80 })) = gIs 3 0xFFFFFF80 ∧
    lands (exec (.ldBn ⟨.reg 3, 1, 0, 0⟩) (mappedTile fun t => { t with sram := t.sram.write (5 * 65536) 0x80 })) = gIs 3 0x80 := by
  decide +kernel
theorem test_store_misaligned : cause (exec (.stH ⟨1, 1, 0, 0⟩) (withMe fun c => { someCore c with a := c.a.put 1 (.clean 0x20001) })) =
    some 0x12 := by decide +kernel
theorem test_mclaim_out_of_range : cause (exec (.mclaim 5) mapped) = some 0x23 := by decide +kernel
theorem test_xsend_unrouted : cause (exec (.xsendLo 0x123 (.reg 1)) mapped) = some 0x33 := by decide +kernel
theorem test_xpoll_empty : lands (exec (.xpoll 7 0x123) mapped) = some (1, [.g 7 (.clean 0)]) := by decide +kernel
theorem test_stg_unbound : cause (exec (.stgSet 3 .far (.reg 6)) mapped) = some 0x43 := by decide +kernel

/-- A whole step: the bundle is fetched, decoded and issued, and its result lands at the next tick. -/
theorem test_step_add : lands (step (placed (.addi ⟨.s0, .reg 3, .reg 1, 5⟩))) = gIs 1 5 := by decide +kernel
theorem test_step_nop : next (step (placedAll [.nop, .nop])) (fun u => decide ((u.coreOf st0).pc = 6)) = true := by decide +kernel

theorem witness_CodecRoundTrip :
    Instr.wellFormed (.bfx ⟨.s0, .reg 4, .reg 5, 8, 11⟩) = true ∧
    (Instr.bfx ⟨.s0, .reg 4, .reg 5, 8, 11⟩).encode = some (.s0, 0x3C_0814_0168) ∧
    Instr.wellFormed (.write 3) = true ∧ (Instr.write 3).encode = some (.e, 0x21_0000_0003) := by decide +kernel

theorem witness_BundleRoundTrip :
    Instr.wellFormed (.call 1 512) = true ∧ (Instr.call 1 512).encode = some (.c, 0x05_0200_0200) ∧
    (Instr.call 1 512).bundleBytes = some [0x80, 0x00, 0x02, 0x00, 0x02, 0x05] := by decide +kernel

theorem witness_UnassignedEncodings :
    (0xFF_0000_0001 : BitVec 40).extractLsb' 32 8 = 0xFF ∧ SlotClass.e ≠ .c ∧ (0x00_1234_5678 : BitVec 40).extractLsb' 32 8 = 0 ∧
    decodeSyllable .c 0x05_0200_0200 = some (.call 1 512) := by decide +kernel


theorem witness_StrandStart :
    runs (exec (.preemptionStop 0) base) = true ∧
    runs (exec (.resume .zero) (withClaim fun c => { c with run := .preempted 0 })) = true := by decide +kernel

theorem witness_StepKeepsFabric : FabricLegal State.reset ∧ runs (step State.reset) = true ∧ FabricLegal (placed .nop) ∧
    runs (step (placed .nop)) = true := by
  refine ⟨?_, by decide +kernel, ?_, by decide +kernel⟩ <;> unfold FabricLegal <;> decide +kernel

theorem witness_StepKeepsMemoryForm : MemoryCanonical State.reset ∧ runs (step State.reset) = true ∧
    MemoryCanonical (placed (.call 1 512)) ∧ runs (step (placed (.call 1 512))) = true := by
  refine ⟨?_, by decide +kernel, ?_, by decide +kernel⟩ <;> unfold MemoryCanonical <;> decide +kernel

/-- The hypotheses of `StepRunsDecoded` for a bundle of one instruction at address 0. -/
def onePresented (s : State) (c : SlotClass) (i : Instr) (bytes : List Byte) : Bool :=
  let p := checkFetch (presenting s st0 []) st0
  decide (s.todo = [.issue st0]) && isLive s 0 && presents s st0 &&
    decide (fetch (p.tileOf t0) 0 (p.coreOf st0).pc = .bundle 0 bytes) && decide (decodeBundle bytes = [(c, some i)]) &&
    i.legalOn 0 && decide ((p.coreOf st0).pendingFault = none) && (!takenTransfer p i || !transferBarred p) &&
    decide (tkHold p [i] = .go) && (!p.me.span || decide (waitOf p i ≠ some .unmet))

theorem witness_StepRunsDecoded :
    onePresented (placed .nop) .c .nop [0x80, 0, 0, 0, 0, 0] = true ∧
    onePresented (placed (.br 64)) .c (.br 64) [0x80, 0x40, 0, 0, 0, 1] = true ∧
    onePresented (placedIn (.brz (.reg 1) 64) fun c => { c with xfer := some (8, 2), g := c.g.put 1 (.clean 1) }) .c
      (.brz (.reg 1) 64) [0x80, 0x40, 0, 4, 0, 2] = true ∧
    onePresented (placed (.tkawait (.reg 2) 0)) .c (.tkawait (.reg 2) 0) [0x80, 0, 0, 8, 0, 0x10] = true ∧
    onePresented (placedIn (.waitaGen ⟨4, 3, 0, 0⟩ .tile) fun c => { c with span := true, map := c.map.put 0 ⟨.owned, 5⟩ }) .c
      (.waitaGen ⟨4, 3, 0, 0⟩ .tile) [0x80, 0x41, 0, 0x60, 0x08, 0x31] = true := by decide +kernel

/-- The state of the presentation of the probing strand's bundle, its words read. -/
def shown (s : State) : State := checkFetch (presenting s st0 []) st0
/-- The slots of the bundle. -/
def slots (s : State) : List Slot := (slotsAt (shown s) st0).getD []
/-- The instructions of its legal slots. -/
def legals (s : State) : List Instr := ((slots s).filter (slotLegal 0)).filterMap fun y => y.2
/-- The state in which its slots are checked. -/
def checked (s : State) : State := sharing exec (legals s) (wake (shown s))
/-- Whether the bundle's slots are all legal and nothing holds it back. -/
def goes (s : State) : Bool :=
  decide (slots s = (slots s).filter (slotLegal 0)) && decide (tkHold (shown s) (legals s) = .go) && !(shown s).me.span

theorem witness_BundleFaultChoice :
    (base.todo = [.issue st0] ∧ isLive base 0 = true ∧ presents base st0 = true ∧ ((shown base).coreOf st0).pendingFault = none ∧
      slotsAt (shown base) st0 = none) ∧
    (let s := placedIn (.br 64) fun c => { c with xfer := some (8, 2) }
     transferMisplaced (shown s) (slots s) = true ∧ bundleWaits (shown s) (slots s) = false) ∧
    (let s := placeBundle State.reset [0x80, 0, 0, 0, 0, 0xFF]
     slots s = [(.c, none)] ∧ slotLegal 0 (.c, none) = false ∧ transferMisplaced (shown s) (slots s) = false) ∧
    (let s := placeBundle State.reset [0x81, 0, 0x08, 0x0E, 0x06, 0x08, 0, 0, 0, 0, 0xFF]
     slots s = [(.s0, some (.add ⟨.s0, .reg 3, .reg 3, .latch .sb, 0⟩)), (.c, none)] ∧
     (∀ y ∈ (slots s).take 1, slotLegal 0 y = true) ∧ slotLegal 0 (.c, none) = false ∧
     transferMisplaced (shown s) (slots s) = false) ∧
    (let s := placed (.add (g3 (.latch .sa) (.reg 2)))
     transferMisplaced (shown s) (slots s) = false ∧ goes s = true ∧ legals s = [.add (g3 (.latch .sa) (.reg 2))] ∧
     noteOf exec (checked s) (.add (g3 (.latch .sa) (.reg 2))) = some ⟨0x03, .s0⟩) ∧
    (let s := placed .iret
     transferMisplaced (shown s) (slots s) = false ∧ goes s = true ∧ legals s = [.iret] ∧
     noteOf exec (checked s) .iret = some ⟨0x75, .c⟩) ∧
    (let s := placed .nop
     transferMisplaced (shown s) (slots s) = false ∧ goes s = true ∧ legals s = [.nop] ∧ noteOf exec (checked s) .nop = none) := by
  decide +kernel

theorem witness_SequentialFlow : base.me.idle = 0 ∧ (withMe fun c => { c with loops := [⟨6, 18, 1⟩, ⟨0, 18, 2⟩] }).me.idle = 0 ∧
    flowAfter 12 18 [⟨6, 18, 1⟩, ⟨0, 18, 2⟩] = (0, [⟨0, 18, 1⟩]) ∧ flowAfter 12 24 [⟨6, 18, 1⟩] = (24, []) ∧
    flowAfter 12 18 [⟨6, 24, 1⟩] = (18, [⟨6, 24, 1⟩]) := by decide +kernel

/-- A strand in an open span with a trap vector. -/
def trapping (c : Core) : Core := { c with span := true, tvecEn := true, tvec := 0x40 }

theorem witness_TrapEntry :
    (withMe trapping).me.span = true ∧ (withMe trapping).me.tvecEn = true ∧ (withMe trapping).me.fAct = false := by decide +kernel

theorem witness_FatalFault :
    ((withMe fun c => { c with fAct := true }).me.fAct = true ∧ base.me.span = false ∧
      (withMe fun c => { c with span := true }).me.tvecEn = false) ∧
    ((base.claimOf 0).fatal = none ∧ (base.claimOf 0).fleet = false) ∧
    ((withClaim fun c => { c with fatal := some 0 }).claimOf 0).fatal = some 0 := by decide +kernel

/-- A record of a fault at a tick. -/
def faultAt (n : Nat) : FaultRec := ⟨0x10, n, 0, 0, 0, 4, 0⟩

theorem witness_FaultRecordOrder :
    ((base.claimOf 0).faults.length = min (base.claimOf 0).faultCount 64 ∧
      (base.claimOf 0).faults.Pairwise (fun a b => b.before a = false)) ∧
    (let s := withClaim fun c => { c with faults := [faultAt 1, faultAt 3], faultCount := 2 }
     (s.claimOf 0).faults.length = min (s.claimOf 0).faultCount 64 ∧ (s.claimOf 0).faultCount < 64 ∧
     (s.claimOf 0).faults.Pairwise (fun a b => b.before a = false)) ∧
    (let s := withClaim fun c => { c with faults := List.replicate 64 (faultAt 1), faultCount := 64 }
     (s.claimOf 0).faults.length = min (s.claimOf 0).faultCount 64 ∧
     (s.claimOf 0).faults.Pairwise (fun a b => b.before a = false)) := by decide +kernel

theorem witness_TrapsAndReturns :
    base.me.dbg = false ∧ (0x7F : Byte) ≠ 0x7E ∧ (0x7D : Byte) ≠ 0x7E ∧
    (let c := (withMe fun c => { trapping c with dbg := true }).me
     c.dbg = true ∧ c.span = true ∧ c.tvecEn = true ∧ c.fAct = false) ∧
    (let c := (withMe fun c => { c with dbg := true }).me
     c.fAct = false ∧ (c.span = false ∨ c.tvecEn = false) ∧ c.dbg = true) ∧
    (let c := (withMe fun c => { c with dbg := true, span := true }).me
     c.fAct = false ∧ c.tvecEn = false ∧ c.dbg = true) ∧
    (let c := (withMe fun c => { c with dbg := true, fAct := true }).me
     c.fAct = true ∧ c.dbg = true) ∧ base.me.fAct = false ∧
    runs (exec .iret (withMe fun c => { c with fAct := true, fDly := 2, etgt := 12 })) = true := by decide +kernel

theorem witness_GuardsAndLatches :
    nonLaneGuard (.add ⟨.s0, .reg 3, .reg 1, .reg 2, 1⟩) = some 1 ∧ base.guardOn 1 = false ∧
    nonLaneGuard (.halt 15) = some 15 ∧ base.guardOn 15 = false ∧ nonLaneGuard (.waitaGen ⟨4, 3, 0, 1⟩ .tile) = some 1 ∧
    nonLaneGuard (.fenceSc .tile 1) = some 1 ∧
    ([.add (g3 (.latch .sa) (.reg 2)), .fadd ⟨.v1, .reg 3, .latch .va, .reg 1, 1, .fp16⟩, .brz (.latch .sa) 64,
        .spush 2 (.latch .vb) 1].all fun i : Instr =>
      i.encode.isSome && ((latchesRead i).any fun l => !(base.me.latchOf l).valid) &&
        (match nonLaneGuard i with | some g => base.guardOn g | none => true)) = true ∧
    (base.guardOn 0 = true ∧ (base.me.ok (Src.latch (n := 6) .sa) && base.me.ok (Src.reg (n := 6) 2)) = false) ∧
    base.me.ok (Src.latch (n := 6) .vb) = false ∧
    (scalarBinary.all fun p => faults (exec (p.1 (g3 (.reg 2) (.latch .xf))) base) .s0 0x03) = true ∧
    (scalarImmediate.all fun p => faults (exec (p.1 ⟨.s1, .reg 3, .latch .sa, 5⟩) base) .s1 0x03) = true ∧
    (floatBinary.all fun p => faults (exec (p.1 ⟨.v1, .reg 3, .latch .va, .reg 1, 1, .fp16⟩) base) .v1 0x03) = true ∧
    (intBinary.all fun p => faults (exec (p.1 ⟨.v0, .reg 3, .reg 1, .latch .vb, 1, ⟨true, .b⟩⟩) base) .v0 0x03) = true := by
  decide +kernel

/-! ### Values of the S forms -/

theorem witness_ScalarResults :
    (let s := two 0x80000003 0xFFFFFFFD
     s.guardOn 0 = true ∧ s.me.ok (Src.reg (n := 6) 1) = true ∧ s.me.ok (Src.reg (n := 6) 2) = true) ∧
    ([(0x80000003, 0xFFFFFFFD)].all fun q : Word × Word =>
      let s := two q.1 q.2
      scalarBinary.all fun p => plans (exec (p.1 (g3 (.reg 1) (.reg 2))) s)
        (s.landG .s0 p.2.1 (.reg 3) (some .sa) (.clean (p.2.2 q.1 q.2)))) = true ∧
    ([0x80FF0100].all fun x : Word =>
      let s := two x 0
      (scalarUnary.all fun p => plans (exec (p.1 ⟨.s1, .reg 3, .reg 1, 0⟩) s)
        (s.landG .s1 1 (.reg 3) (some .sb) (.clean (p.2 x)))) &&
      (scalarImmediate.all fun p => plans (exec (p.1 ⟨.s0, .reg 3, .reg 1, 0x3FFFF⟩) s)
        (s.landG .s0 1 (.reg 3) (some .sa) (.clean (p.2 x 0x3FFFF)))) &&
      (scalarShiftImmediate.all fun p => plans (exec (p.1 ⟨.s0, .reg 3, .reg 1, 31⟩) s)
        (s.landG .s0 1 (.reg 3) (some .sa) (.clean (p.2 x 31)))) &&
      (scalarBitField.all fun p => plans (exec (p.1 ⟨.s0, .reg 3, .reg 1, 20, 11⟩) s)
        (s.landG .s0 1 (.reg 3) (some .sa) (.clean (p.2 x 20 12))))) = true := by decide +kernel

theorem witness_MovesAndAddresses :
    (base.me.ok (Src.reg (n := 6) 1) = true ∧ base.me.ok (Src.reg (n := 4) 1) = true ∧ base.guardOn 0 = true ∧
      base.guardOn 1 = false) ∧
    (20 + 11 + 1 ≤ 32 ∧ (BitVec.toNat (31 : BitVec 5) + BitVec.toNat (0 : BitVec 5) + 1 ≤ 32)) ∧
    (let s := withMe fun c => { c with a := c.a.put 1 (.clean 0x1200000000000003), g := c.g.put 2 (.clean 0xFFFFFFFC) }
     lands (exec (.aadd ⟨.s0, .reg 3, .reg 1, .reg 2, 0⟩) s) = some (1, [.a 3 (.clean 0x12FFFFFFFFFFFFFF)]) ∧
     lands (exec (.asub ⟨.s0, .reg 3, .reg 2, .reg 1, 0⟩) s) = some (1, [.a 3 (.clean 0xFFFFFFFFFFFFFFFD)])) := by decide +kernel
/-! ### Vector forms, conversions, random bits -/

/-- Every vector source of this state is readable: two registers, a valid latch. -/
def vReady (s : State) : Prop :=
  s.me.ok (Src.reg (n := 6) 1) = true ∧ s.me.ok (Src.reg (n := 6) 2) = true ∧ s.me.ok (Src.reg (n := 4) 1) = true

/-- Whether element j of the landed vector is the value given. -/
def elemIs (o : Host.Outcome State Fault Refusal) (n w j x : Nat) : Bool :=
  match lands o with
  | some (m, .v _ v _ :: _) => decide (m = n ∧ elem w v.val j = x)
  | _ => false

theorem witness_FloatResults : vReady (v2 0xBF8000007F800000 0x4040000080000000) ∧
    floatFused.length = 3 ∧
    (floatBinary.all fun p => elemIs (exec (p.1 ⟨.v0, .reg 3, .reg 1, .reg 2, 0, .fp32⟩)
      (v2 0xBF8000007F800000 0x4040000080000000)) p.2.1 32 1 (p.2.2 .fp32 0xBF800000 0x40400000)) = true ∧
    (floatUnary.all fun p => elemIs (exec (p.1 ⟨.v1, .reg 3, .reg 1, 0, .bf16⟩) (v2 0xBF804000 0)) p.2.1 16 1
      (p.2.2 .bf16 0xBF80)) = true := by
  refine ⟨?_, by decide +kernel, by decide +kernel, by decide +kernel⟩
  unfold vReady; decide +kernel

theorem witness_MaskResults : vReady (v2 3 5) ∧ (v2 3 5).guardOn 0 = true ∧
    floatCompare.length = 5 ∧ intCompare.length = 4 ∧ maskBinary.length = 3 ∧
    lands (exec (.icmpLt ⟨.v0, .reg 2, .reg 1, .reg 2, 0, ⟨true, .h⟩⟩) (v2 0x0001000100010001 0x0002000200010002)) =
      some (3, [.k 2 (.clean 2) 0xFFFF]) := by
  refine ⟨?_, ?_⟩
  · unfold vReady; decide +kernel
  · decide +kernel

theorem witness_IntegerResults : vReady (v2 3 5) ∧ intSaturating.length = 3 ∧ intShift.length = 3 ∧ intBitwise.length = 3 ∧
    (intBinary.all fun p => elemIs (exec (p.1 ⟨.v0, .reg 3, .reg 1, .reg 2, 0, ⟨true, .b⟩⟩) (v2 0x80FF 0x7F02)) p.2.1 8 1
      ((p.2.2 ⟨true, .b⟩ (-128) 127) % 256).toNat) = true := by
  refine ⟨?_, ?_⟩
  · unfold vReady; decide +kernel
  · decide +kernel

theorem witness_LaneMovement : vReady (v2 3 5) ∧ (v2 3 5).guardOn 0 = true ∧ (v2 3 5).guardOn 1 = false := by
  refine ⟨?_, ?_⟩
  · unfold vReady; decide +kernel
  · decide +kernel

theorem witness_Reductions : (v2 3 5).guardOn 0 = true ∧ (v2 3 5).me.ok (Src.reg (n := 6) 1) = true ∧ (v2 3 5).guardOn 1 = false ∧
    ((Instr.vsum ⟨.v0, .reg 9, .reg 4, 0, .flt .fp32⟩).encode.isSome ∧
     (Instr.vmaxr ⟨.v1, .reg 9, .reg 4, 0, .int ⟨true, .b⟩⟩).encode.isSome) ∧
    lands (exec (.vsum ⟨.v0, .reg 3, .reg 1, 0, .int ⟨true, .b⟩⟩) (v2 0x80FF 0)) = gIs 6 (wordOf (-129)) := by decide +kernel

theorem witness_ResultFormsFrame : (resultForm (.scnt (.reg 3) 2 0)).isSome ∧ (resultForm (.vzip ⟨.v0, .reg 3, .reg 1, .reg 2, 0, .flt .fp16⟩)).isSome ∧
    (resultForm (.add (g3 (.reg 1) (.reg 2)))).isSome ∧ runs (exec (.scnt (.reg 3) 2 0) mapped) = true ∧
    runs (exec (.scnt (.reg 3) 2 0) base) = true ∧ runs (exec (.add (g3 (.reg 1) (.reg 2))) base) = true ∧
    runs (exec (.vzip ⟨.v0, .reg 3, .reg 1, .reg 2, 0, .flt .fp16⟩) base) = true := by decide +kernel

theorem witness_ConversionResults : (v2 3 5).me.ok (Src.reg (n := 6) 1) = true ∧
    (Fmt.flt .bf16).width < (Fmt.flt .fp32).width ∧ (Fmt.fam ⟨false, false, .p4⟩).width < (Fmt.flt .bf16).width ∧
    stochastic .sto8 = true ∧ stochastic .rne = false ∧
    runs (exec (.vpk ⟨.reg 10, .reg 1, .flt .bf16, .flt .fp32, .sto16, false⟩) (v2 3 5)) = true := by decide +kernel

/-- The block of a bf16 register. -/
def block (x : Vec) (i : Nat) : Sys2Proof.Machine.Num := blockSource (v2 x 0) ⟨.reg 3, .reg 1, ⟨false, false, .p4⟩, .bf16, .rne, false⟩ i

/-- Whether an element is finite with its leading bit at `top` or below; at `top` itself where `sharp`. -/
def finiteBelow (sharp : Bool) (top : Int) : Sys2Proof.Machine.Num → Bool
  | .fin _ m e => if sharp then decide (m ≠ 0 ∧ e + (Nat.log2 m : Int) = top) else decide (m ≠ 0 → e + (Nat.log2 m : Int) ≤ top)
  | .nan => false
  | .inf _ => false

theorem witness_BlockForms :
    ((v2 3 5).me.ok (Src.reg (n := 6) 1) = true ∧ (Src.reg (n := 6) 2).isEvenReg = true) ∧
    (block 0x3F80FFFF 0).isNaN = true ∧ (∀ i < 32, (block 0 i).isZero = true) ∧
    ((∀ i < 32, (block 0x3F807F80 i).isNaN = false) ∧ (block 0x3F807F80 0).isInf = true) ∧
    ((∀ i < 32, finiteBelow false 1 (block 0x3F804000 i) = true) ∧ finiteBelow true 1 (block 0x3F804000 0) = true) := by
  decide +kernel

theorem witness_ConvertIdentity : 0xFF < 2 ^ (Fmt.int ⟨true, .b⟩).width ∧ 0 < 2 ^ (Fmt.int ⟨false, .w⟩).width ∧
    (Fmt.flt .fp16).isInt = false ∧ (0x7BFF < 2 ^ (Fmt.flt .fp16).width ∧ (decodeNum (.flt .fp16) 0x7BFF).isNaN = false) ∧
    (0x7E00 < 2 ^ (Fmt.flt .fp16).width ∧ (decodeNum (.flt .fp16) 0x7E00).isNaN = true) := by decide +kernel

/-- 2^24 + 1 lies half way between two fp32 values: 2^24 is the one with the even code. -/
theorem witness_RoundToNearestEven : (Fmt.flt .fp32).isInt = false ∧ (16777217 : Nat) ≠ 0 ∧
    encodeNum (.flt .fp32) .rne false (.fin false 16777217 0) 0 = 0x4B800000 ∧
    (Sys2Proof.Machine.Num.rational (decodeNum (.flt .fp32) 0x4B800000)).isSome ∧ 0x4B800001 < 2 ^ (Fmt.flt .fp32).width ∧
    (Sys2Proof.Machine.Num.rational (decodeNum (.flt .fp32) 0x4B800001)).isSome := by
  refine ⟨rfl, by decide, by decide +kernel, ?_, by decide +kernel, ?_⟩
  · have : decodeNum (.flt .fp32) 0x4B800000 = .fin false 8388608 1 := by decide +kernel
    rw [this]; rfl
  · have : decodeNum (.flt .fp32) 0x4B800001 = .fin false 8388609 1 := by decide +kernel
    rw [this]; rfl

theorem witness_RandomBits : base.guardOn 0 = true ∧ base.guardOn 1 = false ∧ base.me.ok (Src.reg (n := 6) 1) = true ∧
    (Instr.rngPop (.reg 4) 0).encode = some (.x, 0x09_0800_0000) ∧
    decodeSyllable .x 0x09_0800_0000 = some (.rngPop (.reg 4) 0) := by decide +kernel
/-! ### Banks, streams, maps -/

/-- The access that an instruction asks for in a state, tested. -/
def access (s : State) (i : Instr) (p : Access → Bool) : Bool := match accessOf s i with | some x => p x | none => false

/-- A read-modify-write window of core 1 on bank 5 in ticks 2 and 3. -/
def windowed (s : State) : State := s.modTile t0 fun t => { t with bookings := [⟨5, 2, 3, true, 1, 4, 0⟩] }

def ldw : Instr := .ldW ⟨.reg 3, 1, 0, 0⟩
def stw : Instr := .stW ⟨2, 1, 0, 0⟩

theorem witness_AccessFaults :
    access base ldw (fun x => x.valid && x.enabled base && !x.attached base) = true ∧
    (let s := mappedAs .read
     access s stw (fun x => x.valid && x.enabled s && x.attached s && !x.reaches s) = true) ∧
    (let s := addressed 0x20001
     access s ldw (fun x => x.valid && x.enabled s && x.reaches s && !x.aligned) = true) ∧
    (let s := addressed 0x20FC0
     access s (.vld2 ⟨.reg 3, 1, 0, 0⟩ .row) (fun x => x.valid && x.enabled s && x.reaches s && x.aligned && x.leaves) = true) ∧
    (let s := windowed mapped
     access s stw (fun x => x.valid && x.enabled s && x.reaches s && x.aligned && !x.leaves && s.windowHit x.books) = true ∧
     faults (exec stw s) .m 0x14 = true) ∧
    faults (exec stw (mappedAs .read)) .m 0x11 = true ∧ faults (exec ldw (addressed 0x400000)) .m 0x10 = true ∧
    faults (exec (.vld2 ⟨.reg 3, 1, 0, 0⟩ .row) (addressed 0x20FC0)) .m 0x13 = true := by decide +kernel

theorem witness_AccessFrame : (accessOf mapped ldw).isSome ∧ runs (exec ldw mapped) = true ∧ runs (exec stw mapped) = true ∧
    access mapped (.stW ⟨2, 1, 0, 1⟩) (fun x => !x.enabled mapped) = true ∧ runs (exec (.stW ⟨2, 1, 0, 1⟩) mapped) = true := by
  decide +kernel

theorem witness_ScalarAccesses : scalarLoads.length = 5 ∧ scalarStores.length = 3 ∧
    (scalarLoads.all fun p => access mapped (p.1 ⟨.reg 3, 1, 0, 0⟩) fun x => x.enabled mapped && x.clear mapped) = true ∧
    (scalarStores.all fun p => access mapped (p.1 ⟨2, 1, 0, 0⟩) fun x => x.enabled mapped && x.clear mapped) = true ∧
    access (addressed 0x2FFFC) ldw (fun x => x.clear (addressed 0x2FFFC)) = true := by decide +kernel

/-- The lane forms of one register. -/
def lane (g : Guard) : List Instr :=
  [.vldRow ⟨.reg 3, 1, 0, g⟩, .vldCol ⟨.reg 3, 1, 0, g⟩ .h, .vgt ⟨.reg 3, 1, .reg 4, g⟩ .w, .vstRow ⟨3, 1, 0, g⟩,
    .vstCol ⟨3, 1, 0, g⟩ .b, .vsc ⟨3, 1, .reg 4, g⟩ .w]

theorem witness_LaneAccesses :
    ((lane 0).all fun i => access mapped i fun x => x.valid && (mapped.guard x.guard).val != 0 && x.clear mapped) = true ∧
    ((lane 1).all fun i => access mapped i fun x => x.valid && (mapped.guard x.guard).val == 0) = true ∧
    ((lane 0).all fun i => (laneLoadOf mapped i).isSome || (laneStoreOf mapped i).isSome) = true ∧
    ([.vlddRow ⟨.reg 3, 1, 0, 0⟩, .vlddCol ⟨.reg 3, 1, 0, 0⟩].all fun i => access mapped i fun x => x.clear mapped) = true ∧
    (mapped.guard 0).val ≠ 0 ∧ (mapped.guard 1).val = 0 := by decide +kernel

theorem witness_PairAccesses :
    ([.vld2 ⟨.reg 3, 1, 0, 0⟩ .row, .vld2 ⟨.reg 3, 1, 0, 0⟩ (.col .b), .vgt2 ⟨.reg 3, 1, .reg 4, 0⟩ .h,
      .vst2 ⟨3, 1, 0, 0⟩ .row].all fun i => access mapped i fun x => x.valid && x.clear mapped) = true ∧
    (mapped.guard 0).val ≠ 0 ∧ (mapped.guard 1).val = 0 ∧
    (access (addressed 0x20F80) (.vld2 ⟨.reg 3, 1, 0, 0⟩ .row) fun x => x.clear (addressed 0x20F80)) = true ∧
    (let s := reading (.pair st0 false (.clean 1) (.reg 3) 5 (rowCells 0) 0xFFFF)
     (rowCells 0).length = 64 ∧ (s.tileOf t0).flips = [] ∧ runs (step s) = true) := by decide +kernel

def atomic : MX 6 := ⟨.reg 3, 1, .reg 2, 0⟩
def red (g : Guard) : MXS := ⟨3, 1, .reg 2, g⟩
/-- A reduction entry for N. -/
def entry (en : Mask) : RedEntry := ⟨0, 0, 0, 5, 7, .clean 1, en, .s32⟩

theorem witness_AtomicsAndReductions :
    (atomicForms.all fun p => access mapped (p.1 atomic) fun x => x.valid && x.enabled mapped && x.clear mapped) = true ∧
    (access mapped (.amoCas false (red 0)) fun x => x.valid && x.enabled mapped && x.clear mapped) = true ∧
    (let s := reading (.amo st0 false .add 5 0 (.clean 1) (.clean 0) (.reg 3))
     (s.tileOf t0).flips = [] ∧ runs (step s) = true) ∧
    (access mapped (.redF32 (red 0)) fun x => x.valid && x.reaches mapped && x.aligned) = true ∧
    (access mapped (.redS32 (red 1)) fun x => x.valid && !x.enabled mapped) = true ∧
    ((mapped.me.srcG (.reg 2)).val = 3 ∧ mapped.myTile.redBuf.any (fun r => r.idx == 3) = false ∧ mapped.myTile.redN = 0 ∧
      (enteringRed mapped).any (fun r => r.idx == 3) = false) ∧
    ((mappedTile fun t => { t with redN := 4 }).myTile.redN = 4 ∧
      faults (exec (.redS32 (red 0)) (mappedTile fun t => { t with redN := 4 })) .m 0x52 = true ∧
      runs (exec (.redS32 (red 0)) (mappedTile fun t => { t with redN := 3 })) = true) ∧
    (∀ e ∈ (mapped.tileOf t0).redBuf, e.idx ≠ (mapped.tileOf t0).redN) ∧
    (let s := mappedTile fun t => { t with redBuf := [entry 0] }
     (s.tileOf t0).redBuf.find? (fun r => r.idx == (s.tileOf t0).redN) = some (entry 0) ∧ (entry 0).en = 0) ∧
    (let s := mappedTile fun t => { t with redBuf := [entry 0x8001] }
     (s.tileOf t0).redBuf.find? (fun r => r.idx == (s.tileOf t0).redN) = some (entry 0x8001) ∧ (entry 0x8001).en ≠ 0 ∧
     (s.tileOf t0).windowAt 5 0 = false ∧ (s.tileOf t0).flips = []) := by decide +kernel

theorem witness_BankCommits :
    ((∀ b ∈ [(⟨0, 1, false⟩ : BankByte), ⟨65535, 2, true⟩], b.off < 65536) ∧
      ([(⟨0, 1, false⟩ : BankByte), ⟨65535, 2, true⟩].map fun b => b.off).Nodup ∧ (mapped.tileOf t0).sram.wf = true ∧
      (mapped.tileOf t0).isAcc 5 = false ∧ (0 : Nat) < 8192 ∧ 8191 < 8192) ∧
    ((0 : Nat) < 1024 ∧ 1023 < 1024) ∧
    (let s := mappedTile matrixTile
     let b := (s.tileOf t0).accBase
     [(⟨64 * 1023, 1, false⟩ : BankByte)] ≠ [] ∧ (∀ x ∈ [(⟨64 * 1023, 1, false⟩ : BankByte)], x.off / 64 = 1023) ∧
     ([(⟨64 * 1023, 1, false⟩ : BankByte)].map fun x => x.off).Nodup ∧ (s.tileOf t0).sram.wf = true ∧
     (s.tileOf t0).isAcc b = true ∧ b < 64 ∧ (s.tileOf t0).rowZero b 1023 = true) := by decide +kernel

/-- Bank 5's stream with a head and a count. -/
def streamed (h : BitVec 14) (c : Nat) : State := mappedTile fun t => { t with streams := t.streams.put 5 ⟨h, c⟩ }
theorem witness_StreamForms :
    (mapped.me.ok (Src.reg (n := 6) 1) = true ∧ (mapped.guard 1).val = 0 ∧ (mapped.guard 0).val ≠ 0) ∧
    ((base.entry 2).st.usable = false ∧ ((mappedAs .read).entry 2).st = .read ∧ (mapped.entry 2).st.writable = true) ∧
    (lanesBelow 0xFFFF 16 = 16 ∧ 16384 < 16369 + 16 ∧ 16368 + 16 ≤ 16384 ∧
      mapped.windowHit [⟨5, 2, 2, false, 0, SlotClass.x.index, 0⟩] = false) ∧
    faults (exec (.spush 2 (.reg 1) 0) (streamed 0 16369)) .x 0x15 = true ∧
    runs (exec (.spush 2 (.reg 1) 0) (streamed 0x3FFF 16368)) = true ∧ faults (exec (.spop (.reg 3) 2 0) (streamed 0 15)) .x 0x74 = true ∧
    lands (exec (.scnt (.reg 3) 2 0) (streamed 0x3FFF 16)) = gIs 1 0x3FFF0010 ∧
    (mapped.guardOn 0 = true ∧ mapped.me.span = false ∧ (spanOpen base).me.span = true ∧ ((spanOpen base).entry 2).st.usable = false ∧
      (spanOpen mapped).me.span = true ∧ ((spanOpen mapped).entry 2).st.writable = true) ∧
    (let s := reading (.pop st0 false 5 0x3FFF (.reg 3))
     (s.tileOf t0).flips = [] ∧ runs (step s) = true) := by decide +kernel

theorem witness_BankMaps :
    ((mapped.guardOn 0 = true ∧ (entryIn base t0 0 2).st.usable = false ∧ (entryIn (mappedAs .read) t0 0 2).st = .read ∧
      (entryIn (mappedAs .lent) t0 0 2).st = .lent ∧ (entryIn mapped t0 0 2).st = .owned ∧
      (entryIn mapped t0 1 9).st = .detached ∧ namesConflict mapped [(0, 2), (1, 9)] = false) ∧
      faults (exec (.bgive own 0 2) mapped) .x 0x16 = true ∧ runs (exec (.bgive own 1 9) mapped) = true) ∧
    ((∀ c : BitVec 2, BitVec.getLsbD (0xE : BitVec 4) c.toNat = true → (entryIn mapped t0 c 9).st = .detached) ∧
      namesConflict mapped ((0, 2) :: (maskEntries 0xE 9 ⟨.owned, 5⟩).map fun q => q.1) = false ∧
      faults (exec (.blend own 9 0xE) base) .x 0x10 = true ∧ faults (exec (.blend own 9 0xE) (mappedAs .read)) .x 0x11 = true ∧
      (1 : BitVec 4).getLsbD (0 : BitVec 2).toNat = true ∧ (entryIn mapped t0 0 2).st ≠ .detached) ∧
    (namesConflict (mappedAs .read) [(0, 2)] = false ∧
      namesConflict (mappedAs .lent) ((0, 2) :: holders (mappedAs .lent) t0 5 (fun x => x == .read)) = false ∧
      mapped.myTile.homes.at 5 = none ∧
      (let s := mappedTile fun t => { t with homes := t.homes.put 5 (some (1, 9)) }
       s.myTile.homes.at 5 = some (1, 9) ∧ ((1, 9) : BitVec 2 × BitVec 6) ≠ (0, 2) ∧ (entryIn s t0 1 9).st = .detached ∧
       namesConflict s [(0, 2), (1, 9)] = false ∧ runs (exec (.bback own) s) = true) ∧
      (let s := mappedTile fun t => { t with homes := t.homes.put 5 (some (0, 3)) }
       let u := s.modCore st0 fun c => { c with map := c.map.put 3 ⟨.owned, 6⟩ }
       u.myTile.homes.at 5 = some (0, 3) ∧ (entryIn u t0 0 3).st ≠ .detached ∧ faults (exec (.bback own) u) .x 0x16 = true)) ∧
    (let s := placed (.brot own)
     let p := presenting s st0 []
     p.guardOn 0 = true ∧ (entryIn p t0 0 2).st = .detached ∧ (∀ c, liveCore p t0 c = true → presentsBrot p c 2 false = true) ∧
     (∀ c, liveCore p t0 c = false → (entryIn p t0 c 2).st = .detached) ∧ rotationConflict p 2 false = false ∧
     lastLive p = some p.focus.core ∧ runs (exec (.brot own) p) = true) ∧
    (liveCore (duo mapped) t0 1 = true ∧ presentsBrot (duo mapped) 1 2 true = false ∧ (entryIn (duo mapped) t0 0 2).st = .owned ∧
      faults (exec (.brotRev own) (duo mapped)) .x 0x50 = true) ∧
    (let s := (duo mapped).modTile t0 fun t => { t with intents := [(1, .rotate 2 false)] }
     (∀ c, liveCore s t0 c = true → presentsBrot s c 2 false = true) ∧ lastLive s = some 1 ∧ rotationConflict s 2 false = false ∧
     runs (exec (.brot own) s) = true) ∧
    (entryIn (mappedAs .leaving) t0 0 2).st = .leaving ∧ (entryIn (mappedAs .arriving) t0 0 2).st = .arriving ∧ ([some 5, none, some 6, some 7].filterMap id : List (BitVec 6)).Nodup := by
  decide +kernel

theorem witness_BankMaintenance :
    (mapped.guardOn 0 = true ∧ (base.entry 2).st = .detached ∧ (mapped.entry 2).st ≠ .detached ∧ (base.entry 2).st.usable = false ∧
      ((mappedAs .read).entry 2).st = .read ∧ (mapped.entry 2).st.writable = true ∧ mapped.me.taint = false ∧
      (mapped.guard 0).psn = 0 ∧ mapped.windowHit [⟨5, 2, 1025, false, 0, SlotClass.x.index, 0⟩] = false) ∧
    (let s := mapped.modCore st0 fun c => { c with map := c.map.put 3 ⟨.owned, 6⟩ }
     (s.entry 2).st.writable = true ∧ (s.entry 3).st.usable = true ∧ (s.entry 2).bank ≠ (s.entry 3).bank ∧
     (s.entry 2).bank = (s.entry 2).bank ∧ s.windowHit [⟨6, 3, 66, false, 0, SlotClass.x.index, 0⟩, ⟨5, 4, 67, false, 0, SlotClass.x.index, 0⟩] = false ∧
     faults (exec (.bcopy own 2 0 0) s) .x 0x16 = true ∧ runs (exec (.bcopy own 3 15 0) s) = true ∧
     (let u := s.modTile t0 fun t => { t with fmts := t.fmts.put 6 (.flt .bf16) }
      (u.myTile.fmts.at 6).width ≠ (u.myTile.fmts.at 5).width ∧ faults (exec (.bcopy own 3 0 15) u) .x 0x17 = true)) ∧
    (let s := reading (.copy st0 false 0 6 (.flt .bf16) 5 (.flt .fp16) 1023)
     (Fmt.flt .bf16).width = (Fmt.flt .fp16).width ∧ (s.tileOf t0).flips = [] ∧ runs (step s) = true) := by decide +kernel
/-! ### The matrix unit -/

/-- A `mclaim` of slot 3 by core 1 in this tick. -/
def claimUnderWay : Sched :=
  ⟨0, 1, 3, 0, 0, 6, some ⟨t0, 1⟩, none, 1, 0, .ev (.resultLanding ⟨t0, 1⟩ (.claimSlot 3))⟩

theorem witness_OperandSlots :
    (let s := operands (slot none 0 0)
     4 * s.myTile.opd = 4 ∧ (s.myTile.opSlots.at 3).owner = none ∧ claimedNow s 3 = false ∧
     claimedNow { s with agenda := [claimUnderWay] } 3 = true ∧ runs (exec (.mclaim 3) s) = true ∧
     faults (exec (.mclaim 4) s) .e 0x23 = true ∧ faults (exec (.mrel 3) s) .e 0x21 = true) ∧
    (let s := operands (slot (some 1) 0 0)
     (s.myTile.opSlots.at 3).owner = some 1 ∧ (1 : BitVec 2) ≠ s.focus.core ∧ faults (exec (.mclaim 3) s) .e 0x25 = true) ∧
    (let s := operands (slot (some 0) 0 1)
     (s.myTile.opSlots.at 3).owner = some s.focus.core ∧ s.t < 1 ∧ faults (exec (.mrel 3) s) .e 0x25 = true) ∧
    (let s := operands (slot (some 0) 0 0)
     (s.myTile.opSlots.at 3).owner = some s.focus.core ∧ (0 : Nat) ≤ s.t ∧ runs (exec (.mrel 3) s) = true) ∧
    (let s := (operands (slot (some 0) 191 0)).modTile t0 fun t => { t with fmts := t.fmts.put 5 (.flt .bf16) }
     let i : Instr := .mstageRow ⟨3, 1, 0, 0⟩
     let ea := placeOf s 1 0
     ea.toNat < 2 ^ 22 ∧ (s.entry (ea.extractLsb' 16 6)).st.usable = true ∧ orientAligned 0 .row = true ∧ (s.myTile.fmts.at 5) = .flt .bf16 ∧
     191 + 1 ≤ 192 ∧ s.windowHit [⟨5, 3, 3, false, 0, 6, 0⟩, ⟨62, 4, 4, false, 0, 6, 0⟩] = false ∧ runs (exec i s) = true ∧
     faults (exec (.mstageRow ⟨3, 1, 0, 1⟩) s) .e 0x24 = true ∧ faults (exec (.mstageCol ⟨3, 1, 0, 0⟩ .w) s) .e 0x17 = true ∧
     runs (exec (.mstageCol ⟨3, 1, 0, 0⟩ .h) s) = true ∧
     faults (exec (.mstageRow ⟨3, 1, 63, 1⟩) s) .e 0x13 = true) ∧
    (let s := (operands (slot (some 0) 0 0)).modCore st0 fun c => { c with a := c.a.put 1 (.clean 0x20001) }
     faults (exec (.mstageRow ⟨3, 1, 0, 0⟩) s) .e 0x12 = true ∧ faults (exec (.mshape 0 1 0 0) s) .e 0x12 = true) ∧
    faults (exec (.mstageRow ⟨3, 2, 0, 0⟩) (operands (slot (some 0) 0 0))) .e 0x10 = true ∧
    ((List.replicate 64 0).length = 64 ∧ (mapped.tileOf t0).flips = [] ∧ (0 : Nat) < 1024 ∧ 1023 < 1024 ∧
      (mapped.tileOf t0).sram.wf = true) ∧
    (let s := mapped
     s.guardOn 0 = true ∧ (placeOf s 1 0).toNat < 2 ^ 22 ∧ (s.entry 2).st.usable = true ∧ s.myTile.flips = [] ∧
     s.windowHit [⟨5, 0, 0, false, 0, 6, 0⟩] = false ∧ runs (exec (.mshape 3 1 0 0) s) = true ∧
     faults (exec (.mshape 3 2 0 0) s) .e 0x10 = true) := by decide +kernel

/-- M = N = 1, K = 4, operands in slots 0 and 1 with stride 1, accumulator tile 0. -/
def record : Vec := 0x0100_0100_0001_0004_0000

/-- A strand that may issue an `mma`: it holds the lease, its record and its two filled slots are ready. -/
def armedMma (r : Vec) (lease : Option (BitVec 2)) (p : Nat) (q : List MmaOp) : State :=
  let s := mappedTile fun t => { matrixTile t with
    opSlots := (t.opSlots.put 0 (slot (some 0) p 0)).put 1 (slot (some 0) 1 0)
    slotTable := [(lease, 1)], arrQueue := q
    sram := (t.sram.write (62 * 65536 + 1) 0x3F).write (62 * 65536) 0x80 }
  s.modCore st0 fun c => { c with shapes := c.shapes.put 0 (.clean r) }

/-- The same as a co-operative operation. -/
def coopRecord : Vec := record + 2 ^ 80

/-- An operation in the queue, of one element. -/
def op (coop : Bool) : MmaOp :=
  ⟨7, 0, 0, 0, 1, 1, 1, 4, 0, 1, 0, 1, true, false, false, .flt .bf16, .flt .bf16, coop, 0, 0, 1, 2, 2, 4⟩

theorem recordValid_witness : recordValid (armedMma record (some 0) 1 []).myTile record := by
  refine ⟨.flt .bf16, .flt .bf16, by decide +kernel, by decide +kernel, Or.inr ⟨by decide, by decide⟩, ?_⟩
  decide +kernel

theorem coopValid_witness : recordValid (armedMma coopRecord (some 0) 1 []).myTile coopRecord := by
  refine ⟨.flt .bf16, .flt .bf16, by decide +kernel, by decide +kernel, Or.inr ⟨by decide, by decide⟩, ?_⟩
  decide +kernel

theorem recordInvalid_witness : ¬ recordValid (armedMma record (some 0) 0 []).myTile record := by
  rintro ⟨fa, fb, ha, hb, -, -, -, -, -, -, -, -, -, -, -, -, -, -, h, -⟩
  have e : ((armedMma record (some 0) 0 []).myTile.opSlots.at (BitVec.ofNat 8 (shapeField record 3 0 8))).fmt = some (.flt .bf16) := by
    decide +kernel
  rw [e] at ha
  cases ha
  revert h
  decide +kernel

theorem witness_MatrixIssue :
    ((armedMma record (some 0) 1 []).guardOn 0 = true ∧ (armedMma record (some 0) 1 []).myTile.holdsLease 0 0 = true ∧
      (armedMma record (some 1) 1 []).myTile.holdsLease 0 0 = false ∧
      ((armedMma record (some 0) 1 []).me.shapes.at 0).val = record) ∧
    recordValid (armedMma record (some 0) 1 []).myTile record ∧ recordValid (armedMma coopRecord (some 0) 1 []).myTile coopRecord ∧
    ¬ recordValid (armedMma record (some 0) 0 []).myTile record ∧
    shapeField coopRecord 3 0 8 ≠ shapeField coopRecord 4 0 8 ∧
    next (exec (.mma 0 false false false 0) (armedMma coopRecord (some 0) 1 [])) (fun u => u.myTile.arrQueue.all fun o => o.coop) = true ∧
    runs (exec (.mma 0 false false false 0) (armedMma record (some 0) 1 [])) = true ∧
    faults (exec (.mma 0 false false false 0) (armedMma record (some 1) 1 [])) .e 0x20 = true ∧
    faults (exec (.mma 0 false false false 0) (armedMma (record + 0x3_0000_0000) (some 0) 1 [])) .e 0x23 = true ∧
    faults (exec (.mma 0 false false false 0) (armedMma (record + 0x200_0000) (some 0) 1 [])) .e 0x21 = true ∧
    faults (exec (.mma 0 false false false 0) (armedMma record (some 0) 0 [])) .e 0x24 = true ∧
    faults (exec (.mma 0 false false false 0) (armedMma record (some 0) 1 (List.replicate 8 (op false)))) .e 0x26 = true ∧
    runs (exec (.mma 0 false false false 0) (armedMma record (some 0) 1 (List.replicate 7 (op false)))) = true :=
  ⟨by decide +kernel, recordValid_witness, coopValid_witness, recordInvalid_witness, by decide +kernel⟩

/-- A state with one operation under way. -/
def working (coop : Bool) (acc : List AccElem) : State :=
  (armedMma record (some 0) 1 [op coop]).modTile t0 fun t => { t with arrAcc := acc }

/-- The operands of the one element: 1 x 0 and three times 0 x 0. -/
def oneGroup : List (Sys2Proof.Machine.Num × Sys2Proof.Machine.Num) := groupOperands ((working false []).tileOf t0) (op false) 0 0 0

theorem witness_MatrixArray :
    (MmaOp.find? ((working false []).tileOf t0).arrQueue 7 = some (op false) ∧ ((working false []).tileOf t0).flips = [] ∧
      (0 : Nat) < (op false).m ∧ 0 < (op false).n ∧
      oneGroup.map (fun p => (p.1.isZero, p.2.isZero)) = [(false, true), (true, true), (true, true), (true, true)] ∧
      (oneGroup.mapM fun p : Sys2Proof.Machine.Num × Sys2Proof.Machine.Num => (Sys2Proof.Machine.Num.rational p.1).bind fun a => (Sys2Proof.Machine.Num.rational p.2).map fun b => (a, b)).isSome ∧
      (Sys2Proof.Machine.Num.rational (decodeNum (.flt .fp32) (0 : Word).toNat)).isSome) ∧
    (let s := working false (List.replicate 256 (.clean 0))
     MmaOp.find? (s.tileOf t0).arrQueue 7 = some (op false) ∧ (s.tileOf t0).isAcc ((s.tileOf t0).accBank (op false).acc).toNat = true ∧
     (s.tileOf t0).arrAcc.length = 256 ∧ (op false).m ≤ 64 ∧ (op false).n ≤ 64 ∧ (s.tileOf t0).sram.wf = true) ∧
    (let w : ArrBlock := ⟨(op false).acc, 0, 0, 1, 1, List.replicate 256 (.clean 0)⟩
     let s := (working false []).modTile t0 fun t => { t with arrOut := [w] }
     (s.tileOf t0).arrOut = w :: [] ∧ w.elems.length = 256 ∧ runs (exec (.mmaBlockWrite t0 7 0) s) = true) ∧
    (op false).coop = false ∧ (op true).coop = true ∧ MmaOp.find? ((working true []).tileOf t0).arrQueue 7 = some (op true) ∧
    runs (exec (.mmaCompletion t0 7) (working false [])) = true := by decide +kernel

/-- The mapped state with a busy or idle accumulator tile 0. -/
def accumulating (since y : Nat) (z : BitVec 256) : State :=
  (mappedTile fun t => { matrixTile t with accs := t.accs.put 0 ⟨z, y, since⟩ }).modClaim 0 fun c => { c with tick := 5 }

theorem witness_Accumulators :
    (let s := accumulating 4 6 0
     4 * s.myTile.acc ≤ 4 ∧ s.t = 5 ∧ (4 < s.t ∧ s.t < 6) ∧ faults (exec (.maccRd (.reg 3) 4 0 0) s) .e 0x23 = true ∧
     faults (exec (.maccRd (.reg 3) 0 0 0) s) .e 0x22 = true ∧ faults (exec (.maccZero 0) s) .e 0x22 = true) ∧
    (let s := accumulating 5 6 1
     ¬ (5 < s.t) ∧ s.myTile.flips = [] ∧ s.myTile.isAcc 63 = true ∧ s.myTile.rowZero 63 0 = true ∧ s.myTile.rowZero 63 1 = false ∧
     runs (exec (.maccRd (.reg 3) 0 0 0) s) = true ∧ runs (exec (.maccZero 0) s) = true) ∧
    (let s := accumulating 4 5 0
     s.guardOn 0 = true ∧ ((s.me.readG 0).val.extractLsb' 0 8 : BitVec 8) = 0 ∧ ¬ (s.t < 5) ∧ (placeOf s 1 0).toNat < 2 ^ 22 ∧
     (s.entry 2).st.writable = true ∧ s.myTile.flips = [] ∧
     s.windowHit [⟨63, 5, 5, false, 0, 6, 5⟩, ⟨5, 7, 8, false, 0, 6, 5⟩] = false ∧
     runs (exec (.mqnt ⟨0, 1, 62, 0⟩ ⟨false, false, .p4⟩ true) s) = true ∧
     faults (exec (.mqnt ⟨0, 1, 63, 0⟩ ⟨false, false, .p4⟩ true) s) .e 0x13 = true ∧
     faults (exec (.mqnt ⟨0, 2, 0, 0⟩ ⟨false, false, .p4⟩ true) s) .e 0x10 = true ∧
     faults (exec (.mqnt ⟨2, 1, 0, 0⟩ ⟨false, false, .p4⟩ true) (s.modCore st0 fun c => { c with g := c.g.put 2 (.clean 4) })) .e 0x23 = true) := by
  decide +kernel
/-! ### The fabric -/

/-- A tile with one entry of a local source for tag 0x123, and one of the west input for it. -/
def routed (t : Tile) : Tile := { t with routes := [⟨0x123, 0, none, [.east, .south], true⟩, ⟨0x123, 0, some .west, [], true⟩] }

/-- A flit of tag 0x123. -/
def flit (nul : Bool) (tag : BitVec 12) : Flit := { sentFlit (.clean 7) false tag with nul := nul }

theorem witness_FabricForms :
    (mapped.me.ok (Src.reg (n := 6) 1) = true ∧ namedTag mapped 0xFF3 = none ∧ namedTag mapped 0xFEF = some 0xFEF ∧
      namedTag (withMe fun c => { c with aliases := c.aliases.put 15 (some 0x123) }) 0xFFF = some 0x123 ∧
      routeAt mapped t0 none 0x123 = none) ∧
    (let s := mappedTile routed
     routeAt s t0 none 0x123 = some ⟨0x123, 0, none, [.east, .south], true⟩ ∧
     (∀ c ≠ s.focus.core, (c, Intent.send 0x123) ∉ s.myTile.intents) ∧ 0x123 ∉ s.myTile.locals ∧ [Side.east, .south].Nodup ∧
     s.myTile.outs = [] ∧ runs (exec (.xsendHi 0x123 (.reg 1)) s) = true) ∧
    (let s := mappedTile fun t => { routed t with intents := [(1, .send 0x123)] }
     (1, Intent.send 0x123) ∈ s.myTile.intents ∧ (1 : BitVec 2) ≠ s.focus.core ∧ faults (exec (.xsendLo 0x123 (.reg 1)) s) .e 0x30 = true) ∧
    (mapped.myTile.landing = [] ∧ faults (exec (.xrecvLo (.reg 3) 0x123) mapped) .e 0x34 = true ∧
      faults (exec (.xrecvLo (.reg 3) 0x123) (mappedTile fun t => { t with landing := [waiting 1 true, waiting 0 false] })) .e 0x34 = true) ∧
    (let s := mappedTile fun t => { t with landing := [waiting 1 true, waiting 0 true] }
     s.myTile.landing = [waiting 1 true] ++ [waiting 0 true] ∧ (waiting 0 true).ready ≤ s.t ∧ waiting 0 true ∉ [waiting 1 true] ∧
     runs (exec (.xrecvHi (.reg 3) 0x123) s) = true) ∧
    (let s := mappedTile fun t => { t with posts := List.replicate 16 ⟨9, 9, 0⟩ }
     16 ≤ (s.myTile.posts.filter fun p => p.core = s.focus.core).length ∧ faults (exec (.xland (.reg 1) 1) s) .e 0x35 = true) ∧
    (let s := mappedTile fun t => { t with posts := [⟨7, 1, 1⟩] }
     (⟨7, 1, 1⟩ : Post) ∈ s.myTile.posts ∧ ((s.me.srcG (.reg 1)).val.extractLsb' 0 12 : BitVec 12) = 7 ∧
     faults (exec (.xland (.reg 1) 1) s) .e 0x35 = true ∧ runs (exec (.xland (.reg 1) 2) s) = true ∧ (7, 2) ∉ postingNow s) ∧
    mapped.now 0 < 1 ∧
    (let s := (mappedTile routed).modClaim 0 fun c => { c with tags := [(0x123, 7, 0), (0x124, 7, 0)] }
     (0x123, 7, 0) ∈ (s.claimOf 0).tags ∧ (s.me.srcG (.reg 1)).val.toNat % 256 = 7 ∧ (s.me.srcG (.reg 1)).val.toNat / 256 % 256 = 0 ∧
     (⟨0x123, 0, none, [.east, .south], true⟩ : Route) ∈ s.myTile.routes ∧ runs (exec (.xtag (.reg 1) 15) s) = true ∧
     faults (exec (.xtag (.reg 2) 15) s) .e 0x33 = true) ∧
    (mapped.myTile.landing ++ mapped.myTile.taken).length ≤ 32 := by 
  refine ⟨?_, ?_, ?_, ?_, ?_, ?_, ?_, ?_, ?_, ?_⟩ <;> decide +kernel

/-- The claim is held for a late landing of tag 0x123 on its first tile. -/
def held (n : Nat) : State :=
  { mapped with wall := 7 }.modClaim 0 fun c => { c with frozen := some ⟨t0, 0x123, n, 0, .landedFlitDue t0 0x123 0⟩ }

/-- A fleet's claim whose north edge link carries the peer port 0; its first tile holds a flit of that link. -/
def peered (lost : List Nat) (label : BitVec 16) : State :=
  { (mappedTile fun t => { t with elastic := [(.north, 0, { flit true 0x123 with label := label })] }) with lp := 512 }.modClaim 0 fun c =>
    { c with fleet := true, lostPorts := lost }

theorem witness_FabricEvents :
    across mapped t0 .east = some (.tile ⟨0, 1, 0⟩) ∧
    ((mapped.claimOf 0).frozen = none ∧ ((held 8).claimOf 0).frozen = some ⟨t0, 0x123, 8, 0, .landedFlitDue t0 0x123 0⟩ ∧
      { flit false 0x123 with land := true }.tag = 0x123 ∧ ((held 8).tileOf t0).landing.length < 32 ∧ 0 ≤ (held 8).now 0 ∧
      next (exec (.flitArrival t0 .west ⟨0, { flit false 0x123 with land := true }, false⟩) (held 8))
        (fun u => decide ((u.claimOf 0).frozen = none)) = true) ∧
    (portAt (peered [] 0) t0 .north = some 0 ∧ (flit true 0x123).origin = none ∧ 0 ∈ ((peered [0] 0).claimOf 0).lostPorts ∧
      ((peered [] 0).countOf t0).setWidth 16 - ((0 : BitVec 16) + BitVec.ofNat 16 (peered [] 0).lp) ≠ 0 ∧
      ((peered [] 0xFE00).countOf t0).setWidth 16 - ((0xFE00 : BitVec 16) + BitVec.ofNat 16 (peered [] 0).lp) = 0 ∧
      runs (exec (.flitRelease t0 .north) (peered [0] 0)) = true ∧ runs (exec (.flitRelease t0 .north) (peered [] 0)) = true ∧
      runs (exec (.flitRelease t0 .north) (peered [] 0xFE00)) = true) ∧
    (let s := mappedTile fun t => { routed t with elastic := [(.north, 0, flit false 1), (.west, 0, flit true 0x123)] }
     (s.tileOf t0).elastic = [(.north, 0, flit false 1)] ++ [(.west, 0, flit true 0x123)] ∧ portAt s t0 .west = none ∧
     (∀ x ∈ [(Side.north, 0, flit false 1)], x.1 ≠ Side.west) ∧ find (s.tileOf t0).linkErr Side.west = none ∧ (flit true 0x123).nul = true ∧
     (flit false 1).nul = false ∧ routeAt s t0 (some .north) 1 = none ∧ routeAt s t0 (some .west) 0x123 = some ⟨0x123, 0, some .west, [], true⟩ ∧
     (s.tileOf t0).outs = [] ∧ runs (exec (.flitRelease t0 .north) s) = true) ∧
    (let s := mappedTile fun t => { t with
       routes := [⟨1, 0, some .north, [.east], false⟩], elastic := [(.north, 0, flit false 1)], outs := [some .east] }
     routeAt s t0 (some .north) 1 = some ⟨1, 0, some .north, [.east], false⟩ ∧ some Side.east ∈ (s.tileOf t0).outs ∧
     runs (exec (.flitRelease t0 .north) s) = true) ∧
    (let s := mappedTile fun t => { t with landing := [waiting 1 false, waiting 0 false], posts := [⟨0x123, 0, 1⟩] }
     (s.tileOf t0).landing = [waiting 1 false] ++ waiting 0 false :: [] ∧ (⟨0x123, 0, 1⟩ : Post) ∈ (s.tileOf t0).posts ∧
     runs (exec (.landedFlitDue t0 0x123 0) s) = true) ∧
    (let s := mappedTile fun t => { t with landing := [waiting 0 false] }
     (s.tileOf t0).landing = [] ++ waiting 0 false :: [] ∧ (s.tileOf t0).posts = []) ∧
    (let s := mappedTile fun t => { t with posts := [⟨0x123, 0, 1⟩] }
     (s.tileOf t0).landing = [] ∧ (⟨0x123, 0, 1⟩ : Post) ∈ (s.tileOf t0).posts ∧ landingSpilt s t0 = false ∧
     next (exec (.landedFlitDue t0 0x123 0) s) (fun u =>
       decide (((u.claimOf 0).frozen.map fun z => (z.tile, z.tag, z.limit)) = some (t0, 0x123, 2 ^ 24))) = true) ∧
    ((mapped.tileOf t0).landing = [] ∧ (mapped.tileOf t0).posts = []) ∧
    (((operands (slot none 0 0)).tileOf t0).opSlots.at 3 = slot none 0 0 ∧ 3 < 4 * ((operands (slot none 0 0)).tileOf t0).opd ∧
      (slot (some 0) 0 1).u = 1 ∧ (operands (slot (some 0) 0 1)).now 0 < 1 ∧ 192 ≤ (slot (some 0) 192 0).p ∧
      (slot (some 0) 191 0).p < 192 ∧ (slot (some 0) 191 0).fmt = Fmt.dec 1 ∧ (slot (some 0) 191 0).fmt ≠ Fmt.dec 2 ∧
      runs (exec (.operandRowDeposit t0 3 (.clean 1) 1) (operands (slot (some 0) 191 0))) = true) ∧
    (mapped.tileOf t0).sends = [] ∧
    (let a : ArraySend := ⟨4, 3, 0x123, 1, [0], true⟩
     let s := mappedTile fun t => { matrixTile (routed t) with sends := [a] }
     (s.tileOf t0).sends.find? (fun x => x.id == a.id) = some a ∧ a.rows = 0 :: [] ∧ (s.tileOf t0).flips = [] ∧
     routeAt s t0 none a.tag = some ⟨0x123, 0, none, [.east, .south], true⟩ ∧ a.tag ∉ (s.tileOf t0).locals ∧ [Side.east, .south].Nodup ∧
     (s.tileOf t0).outs = [] ∧ a.half = true ∧ runs (exec (.arraySend t0 4) s) = true) := by 
  refine ⟨?_, ?_, ?_, ?_, ?_, ?_, ?_, ?_, ?_, ?_, ?_, ?_⟩ <;> decide +kernel

/-- The labels that the neighbours of tile (0, 0) hold. -/
def labels (s : State) : List (BitVec 16) :=
  ((allSides.filterMap fun d => across s t0 d).map fun a => (BitVec.ofNat 64 (s.now 0) + labelOff s a (s.now 0)).setWidth 16)

/-- The east neighbour's count is off by one. -/
def drifted : State := mapped.modTile ⟨0, 1, 0⟩ fun t => { t with off := 1, offHist := [(0, 1)] }

theorem no_majority : ∀ m, 2 * (labels drifted).count m ≤ (labels drifted).length := by
  have h : labels drifted = [1, 0] := by decide +kernel
  intro m
  rw [h, List.count_cons, List.count_singleton]
  by_cases a : m = 1
  · subst a; decide
  · have : ((1 : BitVec 16) == m) = false := by simpa using fun e => a e.symm
    simp only [this]
    split <;> simp

theorem witness_CountsAndHolds :
    (∀ m, 2 * (labels drifted).count m ≤ (labels drifted).length) ∧
    ((spanOpen mapped).me.span = true ∧ mapped.me.span = false ∧ mapped.myTile.pend = none ∧ mapped.wheelPos t0 < mapped.wheel ∧
      (mappedTile fun t => { t with pend := some 1 }).myTile.pend ≠ none ∧ runs (exec .tkalign mapped) = true) ∧
    (firstPresenting drifted t0 = some st0 ∧ firstPresenting (drifted.modCore st0 fun c => { c with status := .halted }) t0 = none) ∧
    ((∀ p ∈ mapped.tiles, p.1.claim = 0 → p.2.delay = 0 ∧ p.2.stopUntil ≤ p.2.stopFrom) ∧ holdsTo mapped ⟨0, 11, 11⟩ = [] ∧
      (mapped.claimOf 0).start ≤ (mapped.claimOf 0).tick ∧ runs (exec (.resultLanding st0 (.hold 5)) mapped) = true) ∧
    (((withClaim fun c => { c with fleet := true }).claimOf 0).fleet = true ∧ (23 : Nat) < 24 ∧
      runs (exec (.holdDelivery t0 5 ⟨3, some 23⟩) (withClaim fun c => { c with fleet := true })) = true) ∧
    ((labels mapped).length < 2 * (labels mapped).count 0 ∧ runs (exec (.alignment t0) mapped) = true) ∧
    (11 < 12 * (mapped.claimOf 0).fw ∧ 11 < 12 * (mapped.claimOf 0).fh ∧ (⟨0, 11, 11⟩ : TileId) ≠ t0) ∧
    ((mapped.tileOf t0).stopUntil ≤ 0 ∧ 3 + 2 ≤ ((mappedTile fun t => { t with stopUntil := 5 }).tileOf t0).stopUntil) ∧
    (mapped.tileOf t0).trim.natAbs ≤ 5000000 ∧ mapped.fleet = none ∧
    ({ mapped with fleet := some (0, 2, 300) } : State).fleet ≠ none ∧ 15000 ≤ 15000 ∧ 15000 < 15001 ∧
    (((mapped.setCtl (.docent 83) { mapped.ctlOf (.docent 83) with switching := true }).ctlOf (.docent 83)).switching = true ∧
      (mapped.ctlOf (.docent 83)).switching = false) ∧
    (tileClaimed mapped 0 11 11 = true ∧ tileClaimed mapped 0 11 12 = false ∧ tileClaimed mapped 1 0 0 = false ∧
      (1, 0, 0) ≠ (0, 0, 0)) ∧
    ((⟨0, 1, 0⟩ : TileId) ≠ t0 ∧ (⟨0, 1, 0⟩ : TileId).claim = t0.claim) :=
  ⟨no_majority, by decide +kernel⟩
/-! ### Staging -/

def ctx0 : CtxId := ⟨0, 5⟩

/-- Registers of a command: far address 0, one unit of 64 bytes, scratchpad bank 5 of tile (0, 0), tag 5. -/
def regs (cmd : Quad) : CtxRegs := { CtxRegs.zero with len := 64, cmd := cmd, loc := 5 * 65536, tag := 5, tcount := 1 }

/-- The mapped state with an engine context of the strand bound to its number 3, tag 5 naming its tile, and entries that lead from the
north edge link to it and from it to that link. -/
def bound (f : Ctx → Ctx) : State :=
  let s := (mappedTile fun t => { t with routes := [⟨5, 0, some .north, [], true⟩, ⟨5, 0, none, [.north], false⟩] }).modClaim 0
    fun c => { c with binds := [⟨st0, 3, ctx0⟩], tags := [(5, 0, 0)] }
  s.setCtx ctx0 (f { Ctx.fresh with owner := some st0 })

def unbound : State := mapped

theorem shadow_valid : ¬ shadowInvalid (regs 0) := by unfold shadowInvalid; decide +kernel
theorem shadow_zero : shadowInvalid CtxRegs.zero := by unfold shadowInvalid; decide +kernel

theorem witness_StagingForms :
    (shadowInvalid CtxRegs.zero ∧ ¬ shadowInvalid (regs 0)) ∧
    (mapped.me.ok (Src.reg (n := 6) 1) = true ∧ bindingOf unbound unbound.focus 3 = none ∧
      bindingOf (bound id) st0 3 = some ctx0 ∧ (bound id).focus = st0) ∧
    ((spanOpen (bound id)).me.span = true ∧ (bound id).me.span = false ∧
      ((bound fun x => { x with pending := some (1, regs 0) }).ctxFor 3).pending ≠ none ∧ ((bound id).ctxFor 3).pending = none ∧
      ((bound id).ctxFor 3).shadow = CtxRegs.zero ∧ ((bound fun x => { x with shadow := regs 0 }).ctxFor 3).shadow = regs 0 ∧
      runs (exec (.write 3) (bound fun x => { x with shadow := regs 0 })) = true ∧
      faults (exec (.write 3) (bound id)) .e 0x44 = true) ∧
    (((bound id).ctxOf ctx0).owner = some st0 ∧ ((bound id).ctxOf ctx0).activeTill = none ∧ ((bound id).ctxOf ctx0).armed = false ∧
      ((bound fun x => { x with activeTill := some 1 }).ctxOf ctx0).activeTill = some 1 ∧ (bound id).now 0 < 1) ∧
    (ctx0.engine < 32 ∧ ctx0.ctx < 256) ∧
    ((bound id).me.ok (Src.latch (n := 4) .sa) = false ∧ ((bound id).me.srcA (.reg 2)).val.toNat = 0 ∧
      ((bound id).ctxFor 3).issued < 0x20000 ∧ ((bound id).me.srcA (.reg 1)).val.toNat = 0x20000 ∧
      runs (exec (.tlWait 3 (.reg 2)) (bound id)) = true ∧ faults (exec (.tlWait 3 (.reg 1)) (bound id)) .e 0x43 = true ∧
      faults (exec (.tlWait 3 (.reg 1)) (bound fun x => { x with issued := 0x20000 })) .e 0x74 = true) := by
  refine ⟨⟨shadow_zero, shadow_valid⟩, ?_, ?_, ?_, ?_, ?_⟩ <;> decide +kernel

/-- A command under way. -/
def command (cmd : Quad) : Cmd := {
  num := 1, regs := regs cmd, active := 0, t0 := 0, units := 1, fmt := .flt .fp32, lines := [(0, .clean 1)], bad := []
  src := [(0, .clean 2)], phys := [(0, List.range 64)], rows := [(0, .clean 3)], release := [2, 3], hops := 0, edge := 0
  flagAt := none, commit := some 5, armed := false, count := 0 }

def commanded (cmd : Quad) : State := bound fun x => { x with cmds := [command cmd] }
/-- The same with the strand's heap window over the command's far bytes. -/
def heaped (cmd : Quad) : State := (commanded cmd).modCore st0 fun c => { c with heapLimit := 0x10000 }

/-- Flit i of command 1, of tag 5 and landing tick 0, its data a number. -/
def half (n : BitVec 256) (i : Nat) : LandEntry := ⟨5, n, 0, 0, 2, false, some (ctx0, 1, i)⟩

/-- A context whose pending command is of a read or a write, its first tick as early as it may be. -/
def asked (cmd : Quad) (tick : Quad) : State := bound fun x => { x with pending := some (1, { regs cmd with tick := tick }) }

/-- The command that an activation schedules. -/
def scheduled (cmd : Quad) (tick : Quad) (p : Path) : Option Cmd :=
  schedule (asked cmd tick) 0 ctx0 ⟨1, { regs cmd with tick := tick }, 0, tick.toNat, 1, .flt .fp32, [], [], [], [], [], [], 0, 0, none, none,
    false, 0⟩ p none 0

theorem witness_activations :
    (let x := ((bound id).tileOf t0)
     x.isScratch (regs 0).locBank.toNat = true ∧ x.isAcc (regs 0).locBank.toNat = false ∧ x.fmts.at (regs 0).locBank = .flt .fp32 ∧
     (regs 0).conv = false ∧ (regs 0).len.toNat * 32 = 1 * (64 * 32) ∧ (regs 0).row0 + 1 ≤ 1024 ∧ (regs 0).red = 0 ∧ (regs 2).red = 0) ∧
    destOf (asked 0 16384) 0 (regs 0) = some t0 ∧ (regs 0).opc = 0 ∧ (regs 2).opc = 2 ∧ (regs 0).fl = false ∧ (regs 2).fl = false ∧
    pathIn (asked 0 16384) 0 0 5 t0 = some ⟨0, 0, [0]⟩ ∧ pathOut (asked 2 512) 0 5 t0 = some ⟨0, 0, [0]⟩ ∧
    (scheduled 0 16384 ⟨0, 0, [0]⟩).isSome = true ∧ (scheduled 2 512 ⟨0, 0, [0]⟩).isSome = true ∧
    next (exec (.commandActivation ctx0) (asked 0 16384)) (fun u => decide ((u.ctxOf ctx0).activeTill = some 1)) = true ∧
    next (exec (.commandActivation ctx0) (asked 2 512)) (fun u => decide ((u.ctxOf ctx0).cmds.length = 1)) = true ∧
    next (exec (.commandActivation ctx0) (asked 2 511)) (fun u => decide ((u.claimOf 0).faults.map (fun r => r.cause) = [0x45])) = true := by
  decide +kernel

/-- The flit of command 1's flag. -/
def flagFlit : LandEntry := ⟨0, 9, 0, 261, 2, false, some (ctx0, 1, 2)⟩

theorem witness_StagingEngine :
    ((bound id).ctxOf ctx0).pending = none ∧
    (let r := { regs 0 with loc := 200 }
     ((bound fun x => { x with pending := some (1, r) }).ctxOf ctx0).pending = some (1, r) ∧ destOf (bound id) 0 r = none ∧
     runs (exec (.commandActivation ctx0) (bound fun x => { x with pending := some (1, r) })) = true) ∧
    (destOf (bound id) 0 (regs 1) = some t0 ∧ (regs 1).fl = false ∧ (regs 1).opc = 1 ∧ pathIn (bound id) 0 0 5 t0 = some ⟨0, 0, [0]⟩ ∧
      pathIn (bound id) 0 0 6 t0 = none ∧ destOf ((bound id).modClaim 0 fun c => { c with tags := [(6, 0, 0)] }) 0
        { regs 1 with tag := 6 } = some t0 ∧ { regs 1 with tick := 16383 }.tick.toNat < (bound id).now 0 + 16384 ∧
      ¬ ({ regs 1 with tick := 16384 }.tick.toNat < (bound id).now 0 + 16384)) ∧
    (destOf (bound id) 0 (regs 3) = some t0 ∧ (regs 3).fl = false ∧ (regs 3).opc = 3 ∧ (regs 3).red = 0 ∧
      ((bound id).tileOf t0).isScratch 5 = true ∧ ((bound id).tileOf t0).isAcc 5 = false ∧ pathOut (bound id) 0 5 t0 = some ⟨0, 0, [0]⟩ ∧
      (regs 3).len.toNat * (((bound id).tileOf t0).fmts.at 5).width = 1 * (32 * 64) ∧ (regs 3).conv = false ∧ (regs 3).row0 + 1 ≤ 1024) ∧
    (((commanded 0).ctxOf ctx0).cmd? 1 = some (command 0) ∧ ((commanded 0).ctxOf ctx0).owner = some st0 ∧
      (match (translate (commanded 0) st0 0 false 0 64).2 with | .error c => decide (c = 0x40) | .ok _ => false) = true ∧
      (match (translate (heaped 0) st0 0 false 0 64).2 with | .error _ => false | .ok l => decide (l = List.range 64)) = true ∧
      runs (exec (.readLineRequest ctx0 1 0) (heaped 0)) = true ∧ runs (exec (.readLineRequest ctx0 1 0) (commanded 0)) = true) ∧
    (((command 0).flit ctx0 0 0).isSome ∧ 0 ≠ (command 0).release.length ∧ edgeOf ((commanded 0).claimOf 0) 0 0 = some (t0, .north)) ∧
    (let s := commanded 0
     destOf s 0 (command 0).regs = some t0 ∧ (command 0).regs.opc = 0 ∧ (command 0).unitBad 0 = none ∧ (s.tileOf t0).isAcc 5 = false ∧
     (s.tileOf t0).flips = [] ∧ (s.tileOf t0).windowAt 5 0 = false ∧ takeLanded (s.tileOf t0).landing ctx0 1 ((command 0).due 0) 0 2 = none ∧
     landingSpilt s t0 = false ∧
     (let u := s.modTile t0 fun t => { t with landing := [half 1 0, waiting 0 true, half 2 1] }
      (command 0).due 0 = 0 ∧ takeLanded (u.tileOf t0).landing ctx0 1 0 0 2 = some ([half 1 0, half 2 1], [waiting 0 true]) ∧
      runs (exec (.stagingDeposit ctx0 1 0) u) = true)) ∧
    (let s := heaped 2
     (s.ctxOf ctx0).cmd? 1 = some (command 2) ∧ destOf s 0 (command 2).regs = some t0 ∧ runs (exec (.stagingSourceRead ctx0 1 0) s) = true ∧
     find (command 2).src (1 / 2) = some (.clean 2) ∧ routeAt s t0 none 5 = some ⟨5, 0, none, [.north], false⟩ ∧
     5 ∉ (s.tileOf t0).locals ∧ [Side.north].Nodup ∧ (s.tileOf t0).outs = []) ∧
    (let s := heaped 2
     (command 2).units = 1 ∧ s.far.wf = true ∧ (command 2).regs.conv = false ∧ find (command 2).rows 0 = some (.clean 3) ∧
     find (command 2).phys 0 = some (List.range 64) ∧ (List.range 64).length = 64 ∧ (List.range 64).Nodup) ∧
    (((bound id).ctxOf ctx0).armed = false ∧
      (let s := bound fun x => { x with cmds := [{ command 3 with armed := true }] }
       (s.ctxOf ctx0).cmds.find? (fun x => x.armed) = some { command 3 with armed := true } ∧
       destOf s 0 (regs 3) = some t0 ∧ pathOut s 0 5 t0 = some ⟨0, 0, [0]⟩ ∧ (regs 3).fl = false ∧
       (schedule s 0 ctx0 { command 3 with armed := false, t0 := 0 } ⟨0, 0, [0]⟩ none 0).isSome)) ∧
    (let s := (bound fun x => { x with cmds := [command 0] }).modClaim 0 fun c => { c with tick := 6 }
     (s.ctxOf ctx0).cmds.find? (fun c => c.num == 1) = some (command 0) ∧ (command 0).commit = some 5 ∧ 5 + 1 ≤ s.now 0 ∧
     next (exec (.timelineAdvance ctx0) s) (fun u => decide ((u.ctxOf ctx0).timeline = 1)) = true) ∧
    (let s := (commanded 0).modTile t0 fun t => { t with landing := [flagFlit] }
     (command 0).regs.flagTag = 0 ∧ (command 0).commit.getD 0 + 256 = 261 ∧ (command 0).release.length = 2 ∧
     takeLanded ((commanded 0).tileOf t0).landing ctx0 1 261 2 1 = none ∧
     takeLanded (s.tileOf t0).landing ctx0 1 261 2 1 = some ([flagFlit], []) ∧ (s.tileOf t0).isAcc 0 = false ∧
     (s.tileOf t0).windowAt 0 0 = false ∧ runs (exec (.flagWrite ctx0 1) s) = true) := by
  refine ⟨?_, ?_, ?_, ?_, ?_, ?_, ?_, ?_, ?_, ?_, ?_, ?_⟩ <;> decide +kernel

/-- A claim whose page table maps page 0 to page 1 of far memory, read only and with its tag checked; the table lies at 2^17, its
second and third levels where their numbers say; the pages up to 2^16 are declared. -/
def pagedMemory : Memory :=
  -- root entry 0 -> 0x40000, its entry 0 -> 0x50000, its entry 0 -> 0x60000, its entry 0: the page at 0x10000, V, L, R, TE
  [(0x20000, 1), (0x20001, 0), (0x20002, 4), (0x40000, 1), (0x40002, 5), (0x50000, 1), (0x50002, 6), (0x60000, 0x17), (0x60002, 1)].filter
    fun c => c.2 != 0

def paged (ranges : List FarRange) : State :=
  { (bound id).modClaim 0 fun c => { c with ptroot := 0x20000, ranges := ranges } with far := pagedMemory }

/-- What the table of `paged` gives for an address. -/
def pagedLeaf (v : Nat) : Option (Nat × Nat) := pageLeaf (fun a => littleEndian 8 fun k => pagedMemory.read (a + k)) v tableLevels 0x20000

theorem witness_FarTranslation :
    (paged []).tlb = [] ∧ (paged []).farFlips = [] ∧ ((paged []).claimOf 0).ptroot % 2 ^ 17 = 0 ∧ pagedMemory.wf = true ∧
    (∀ i < 64, (0xFFC0 + i) % 2 ^ 56 / 2 ^ 16 = 0xFFC0 % 2 ^ 56 / 2 ^ 16) ∧
    -- a declared page
    pagedLeaf 0xFFC0 = some (16, 0x10017) ∧ pagedLeaf 0x10000 = none ∧
    (let s := paged [⟨0, 0x10000, true, true⟩]
     (match (translate s st0 0 false 0xFFC0 64).2 with | .error _ => false | .ok l => decide (l = (List.range 64).map (0x1FFC0 + ·))) = true ∧
     (match (translate s st0 0 true 0xFFC0 64).2 with | .error c => decide (c = 0x42) | .ok _ => false) = true ∧
     (match (translate s st0 0 false 0x0100_0000_0000_FFC0 64).2 with | .error c => decide (c = 0x41) | .ok _ => false) = true) ∧
    (match (translate (paged []) st0 0 false 0xFFC0 64).2 with | .error c => decide (c = 0x40) | .ok _ => false) = true ∧
    -- the heap window
    (match (translate (heaped 0) st0 0 false 0xFFC0 64).2 with | .error _ => false | .ok l => decide (l = (List.range 64).map (0xFFC0 + ·))) = true :=
  by decide +kernel
/-! ### Sequencing, control registers, synchronisation -/

/-- The bundles of two instructions, the first presented now. -/
def pairPlaced (f : Core → Core) : State := (placedAll [.nop, .nop]).modCore st0 f

theorem witness_Transfers :
    (base.me.ok (Src.reg (n := 6) 1) = true ∧ (base.me.srcG (.reg 1)).val = 0 ∧ (mapped.me.srcG (.reg 1)).val ≠ 0) ∧
    ((pairPlaced id).nextPc = offsetTarget (pairPlaced id) 6 ∧ (pairPlaced id).nextPc ≠ offsetTarget (pairPlaced id) 12) ∧
    (let l := List.replicate 4 (⟨0, 6, 1⟩ : LoopEntry)
     4 ≤ (pairPlaced fun c => { c with loops := l }).me.loops.length ∧
     (pairPlaced fun c => { c with loops := l.tail }).me.loops.length < 4) ∧
    (base.guardOn 0 = true ∧ base.me.ok (Src.latch (n := 4) .sa) = false ∧ base.me.ok (Src.reg (n := 4) 1) = true) := by decide +kernel

/-- The state of a strand that holds weight, beside a second strand, with a share in g1 and a receiver in g2. -/
def weighted (w : BitVec 33) (share receiver : Word) : State :=
  duo (withMe fun c => { c with weight := w, g := (c.g.put 1 (.clean share)).put 2 (.clean receiver) })
/-- A write of the strand still to come. -/
def toCome (iss vis retire : Nat) : Sched :=
  ⟨0, 7, 7, 0, iss, 4, some st0, some vis, retire, 0, .ev (.bankCommit t0 0 5 (.bytes []))⟩

theorem witness_StrandEnds :
    ((base.me.ok (Src.reg (n := 4) 2) = true ∧ base.me.tkAt = none ∧ (0 + 0) % 2 ^ 64 ≤ (base.countOf t0).toNat ∧
      (base.countOf t0).toNat < (0 + 1) % 2 ^ 64 ∧ runs (exec (.tkawait (.reg 2) 1) base) = true) ∧
      (let s := fun n : Quad => withMe fun c => { c with tkAt := some (.clean n) }
       (s 0).me.tkAt = some (.clean 0) ∧ (0 : Quad).toNat ≤ ((s 0).countOf t0).toNat ∧ (s 1).me.tkAt = some (.clean 1) ∧
       ((s 1).countOf t0).toNat < (1 : Quad).toNat)) ∧
    (base.guardOn 0 = true ∧ base.mech = .weight ∧ (weighted (2 ^ 32) 7 65536).me.weight ≠ 0 ∧ base.agenda = [] ∧
      (let s := { base with agenda := [toCome 0 8 8] }
       s.t ≤ 8 ∧ (∀ e ∈ s.agenda, e.owner = some s.focus → e.retire ≤ 8) ∧ (toCome 0 8 8).owner = some s.focus ∧
       next (exec (.halt 0) s) (fun u => u.agenda.any fun e => e.tick == 8 && decide (e.act = .ev (.strandRetirement st0))) = true)) ∧
    (let s := operands (slot (some 0) 0 1)
     (3 : BitVec 8).toNat < 4 * (s.tileOf t0).opd ∧ ((s.tileOf t0).opSlots.at 3).owner = some st0.core ∧ s.now 0 < 1 ∧
     ((operands (slot (some 0) 0 0)).tileOf t0 |>.opSlots.at 3).u ≤ s.now 0 ∧ (entryIn (mappedAs .read) t0 0 2).st = .read ∧
     (∀ o ∈ strandsOf s 0, o = st0 ∨ (s.coreOf o).status = .retired) ∧ (s.claimOf 0).faults.length < 64) ∧
    -- a tracker short at the last retirement, armed or still pending
    (let armed := bound fun x => { x with cmds := [{ command 3 with armed := true }] }
     let pending := bound fun x => { x with pending := some (1, regs 3) }
     (armed.ctxOf ctx0).armed = true ∧ (pending.ctxOf ctx0).pending = some (1, regs 3) ∧ (regs 3).opc = 3 ∧
     (pending.ctxOf ctx0).owner = some st0 ∧ (pending.ctxs.map fun p => p.1) = [ctx0] ∧
     (∀ s ∈ [armed, pending], (∀ o ∈ strandsOf s 0, o = st0 ∨ (s.coreOf o).status = .retired) ∧
       next (exec (.strandRetirement st0) s) (fun u => decide ((u.claimOf 0).faults.map (fun r => r.cause) = [0x46])) = true)) ∧
    (let s := weighted (2 ^ 32) 7 65536
     s.mech = .weight ∧ (7 : Nat) < s.me.weight.toNat ∧ receiverOf s 65536 = ⟨t0, 1⟩ ∧ (⟨t0, 1⟩ : StrandId) ≠ s.focus ∧
     (s.coreOf ⟨t0, 1⟩).status ≠ .absent ∧ runs (exec (.wsplit (.reg 1) (.reg 2) 0) s) = true ∧
     runs (exec (.wret (.reg 1) 0) s) = true ∧ faults (exec (.wsplit (.reg 2) (.reg 2) 0) (weighted 65536 7 65536)) .c 0x73 = true ∧
     faults (exec (.wsplit (.reg 1) (.reg 1) 0) s) .c 0x73 = true ∧ faults (exec (.wret (.reg 2) 0) (weighted 65535 7 65536)) .c 0x73 = true ∧
     runs (exec (.wret (.reg 2) 0) (weighted 65536 7 65536)) = true ∧ faults (exec (.jcbPost 0) s) .c 0x73 = true) ∧
    ((counting true 0).mech = .jcb ∧ (counting true 0).me.posted = true ∧ (counting false 0).me.posted = false ∧
      faults (exec (.jcbAdd (.reg 1) 0) (counting true 0)) .c 0x72 = true ∧ runs (exec (.jcbAdd (.reg 1) 0) (counting false 0)) = true) ∧
    ((duo base).coreOf ⟨t0, 1⟩ |>.status) ≠ .retired ∧
    ((withMe fun c => { c with status := .retired }).coreOf st0 |>.status) = .retired ∧
    (((counting false 0).claimOf 0).jtotal + 1 < 2 ^ 64 ∧ 2 ^ 64 ≤ ((counting false (2 ^ 64 - 1)).claimOf 0).jtotal + 1 ∧
      (withMe fun c => { c with status := .halted }).me.status ∈ [CoreStatus.retired, .halted, .absent, .stopped] ∧
      base.me.status ∉ [CoreStatus.retired, .halted, .absent, .stopped]) ∧
    (base.me.npre = none ∧ (withMe fun c => { c with npre := some 0 }).me.npre ≠ none) ∧
    (let s := (withMe fun c => { c with npre := some 0 }).modClaim 0 fun c => { c with tick := 2 ^ 20 + 1 }
     (s.coreOf st0).npre = some 0 ∧ s.now 0 = 0 + 2 ^ 20 + 1 ∧ (base.coreOf st0).npre = none) := by
  refine ⟨?_, ?_, ?_, ?_, ?_, ?_, ?_, ?_, ?_, ?_, ?_⟩ <;> decide +kernel

theorem witness_ControlRegisters : base.me.ok (Src.reg (n := 6) 1) = true ∧ CReg.tvec ≠ .span ∧ CReg.tvec ≠ .drift ∧
    (0 : Quad).toNat % 2 = 0 ∧ (1 : Quad).toNat % 2 = 1 ∧ runs (exec (.crget 3 false .coord) base) = true := by decide +kernel

/-- A claim with one barrier whose only member is the probing strand. -/
def gathered (f : Claim → Claim) (g : Core → Core) : State :=
  (withMe g).modClaim 0 fun c => f { c with bart := [0x8000_0001_0000_0000] }

theorem member : MemberOf (gathered id id) 0 0 st0 := by unfold MemberOf; decide +kernel

theorem no_member : ¬ MemberOf base 0 0 st0 := by unfold MemberOf; decide +kernel

theorem arrival_open : OpenArrival (withMe fun c => { c with arrivals := [(0, 3)] }) st0 0 :=
  ⟨3, by decide +kernel, by decide +kernel⟩

theorem no_arrival (s : State) (h : (s.coreOf st0).arrivals = []) : ¬ OpenArrival s st0 0 := by
  rintro ⟨p, e, -⟩
  rw [h] at e
  cases e

theorem members_seen (s : State) (v : Nat) (h : s.agenda = []) (r : ∀ st ∈ strandsOf s 0, redsOf s st = []) : MembersSeen s 0 0 v := by
  intro st m _
  exact ⟨r st m, fun e he => by rw [h] at he; cases he⟩

theorem witness_Synchronisation :
    -- fences
    (base.guardOn 0 = true ∧ (∀ e ∈ base.agenda, e.owner = some base.focus → False) ∧ redsOf base base.focus = [] ∧
      (∀ p ∈ base.ctxs, p.2.owner = some base.focus → False) ∧
      (let s := { withClaim (fun c => { c with tick := 1 }) with agenda := [toCome 0 5 5] }
       (toCome 0 5 5).owner = some s.focus ∧ (toCome 0 5 5).iss < s.t ∧ s.t + 3 < 5 ∧ faults (exec (.fenceRel .tile 0) s) .c 0x18 = true) ∧
      runs (exec (.fenceRel .tile 0) { withClaim (fun c => { c with tick := 1 }) with agenda := [toCome 0 4 4] }) = true) ∧
    -- waits on a word
    ((placeOf mapped 1 0).toNat < 2 ^ 22 ∧ (mapped.entry 2).st.usable = true ∧ (placeOf mapped 1 0).toNat % 4 = 0 ∧
      mapped.myTile.flips = [] ∧ (base.entry 2).st.usable = false ∧ runs (exec (.waitaEq ⟨0, 1, 0, 0⟩ .tile) mapped) = true ∧
      faults (exec (.waitaNe ⟨0, 1, 0, 0⟩ .tile) mapped) .c 0x74 = true ∧
      runs (exec (.waitaNe ⟨0, 1, 0, 0⟩ .tile) (spanOpen mapped)) = true ∧
      faults (exec (.waitaNe ⟨0, 1, 0, 0⟩ .tile) (addressed 0x20002)) .c 0x12 = true) ∧
    -- barriers
    ((MemberOf (gathered id id) 0 0 st0 ∧ ¬ MemberOf base 0 0 st0) ∧
      OpenArrival (withMe fun c => { c with arrivals := [(0, 3)] }) st0 0 ∧ ¬ OpenArrival (gathered id id) st0 0 ∧
      MembersSeen (gathered id id) 0 0 0 ∧
      ((barrierOf (gathered id id) 0 0).gated = [] ∧ (gathered id id).me.synced = none ∧
        (gathered id fun c => { c with synced := some 0 }).me.synced = some 0 ∧ 0 < (gathered id id).lh ∧ 0 < (gathered id id).wheel ∧
        (∀ st ∈ strandsOf (gathered id id) 0, st = (gathered id id).focus) ∧ (gathered id id).focus ∈ strandsOf (gathered id id) 0 ∧
        find (gathered id id).me.arrivals 0 = none ∧ runs (exec (.barArr 0) (gathered id id)) = true ∧
        find (gathered id fun c => { c with arrivals := [(0, 0)] }).me.arrivals 0 ≠ none ∧
        faults (exec (.barWait 0) (gathered id id)) .c 0x51 = true ∧
        faults (exec (.barSync 0) (gathered id id)) .c 0x74 = true ∧
        runs (exec (.barSync 0) (spanOpen (gathered id id))) = true)) ∧
    -- gates
    (runs (exec (.gate 0) (gathered id id)) = true ∧
      (let s := gathered (fun c => { c with barriers := [(0, ⟨0, [], [(st0, 0)], some 0, 0⟩)] }) fun c => { c with status := .gate 0 }
       (barrierOf s 0 0).release = some 0 ∧ (st0, 0) ∈ (barrierOf s 0 0).gated ∧ 0 ≤ (s.countOf t0).toNat ∧
       (s.coreOf st0).status = .gate 0 ∧ (barrierOf s 0 0).gated ≠ [] ∧ runs (exec (.gateRelease 0 0) s) = true) ∧
      (let s := gathered (fun c => { c with tick := 2 ^ 24, barriers := [(0, ⟨0, [], [(st0, 0)], none, 0⟩)] }) fun c => { c with status := .gate 0 }
       (barrierOf s 0 0).release = none ∧ (barrierOf s 0 0).gated = (st0, 0) :: [] ∧ s.now 0 = (barrierOf s 0 0).since + 2 ^ 24 ∧
       base.now 0 ≠ 0 + 2 ^ 24 ∧ runs (exec (.gateTimeout 0 0) s) = true)) ∧
    -- a barrier's timeout
    (let s := ((placed (.barWait 0)).modCore st0 fun c => { c with status := .waiting, arrivals := [(0, 0)] }).modClaim 0 fun c =>
       { c with tick := 2 ^ 24, bart := [0x8000_0001_0000_0000], barriers := [(0, ⟨0, [(st0, 0)], [], none, 0⟩)] }
     find (barrierOf s 0 0).arrived st0 = some 0 ∧ 0 + 2 ^ 24 = s.now 0 ∧ arrivalOpen s st0 0 = true ∧ waitsOn s st0 0 = true ∧
     next (exec (.barrierTimeout st0 0) s) (fun u => decide (u.me.fCause = 0x71)) = true) := by
  refine ⟨by decide +kernel, by decide +kernel,
    ⟨⟨member, no_member⟩, arrival_open, no_arrival _ (by decide +kernel),
      members_seen _ _ (by decide +kernel) (by decide +kernel), by decide +kernel⟩, by decide +kernel, by decide +kernel⟩
/-! ### Stops, the host's side, the curator, boot, firmware, fleets and events -/

theorem stops_here : StopsHere (withClaim fun c => { c with preempt := true }) 0 := by unfold StopsHere Runs; decide +kernel

theorem stops_not_here : ¬ StopsHere (withClaim fun c => { c with tick := 1, preempt := true }) 0 := by
  rintro ⟨-, h, -⟩
  exact absurd h (by decide +kernel)

theorem no_drift : NoDrift base 0 := by unfold NoDrift; decide +kernel

theorem drift : ¬ NoDrift (base.modTile t0 fun t => { t with off := 1 }) 0 := by unfold NoDrift; decide +kernel

theorem arrays_idle : ArraysIdle base 0 := by unfold ArraysIdle; decide +kernel

/-- The base state with a controller that switches. -/
def switchingOn (c : Controller) (s : State) : State := s.setCtl c { s.ctlOf c with switching := true }

def anError : ErrRec := ⟨5, 0, 0, 0, 0⟩

theorem running : Runs base 0 := by unfold Runs; decide +kernel

theorem not_running : ¬ Runs base 1 ∧ ¬ Runs { base with power := .safe } 0 := by unfold Runs; decide +kernel

/-- A claim at a replay boundary whose docent has asked for a move of row 3. -/
def asking (g : GateWait) (open_ : Bool) : State :=
  (withMe fun c => { c with span := open_ }).modClaim 0 fun c => { c with moves := [⟨0, 3, some 5, g⟩, ⟨0, 4, none, .notDue⟩] }

theorem is_asked (g : GateWait) (b : Bool) : Asked ((asking g b).claimOf 0) 0 3 (some 5) g := by
  unfold Asked; cases g <;> cases b <;> decide +kernel

theorem asking_stops (g : GateWait) (b : Bool) : StopsHere (asking g b) 0 := by
  unfold StopsHere Runs; cases g <;> cases b <;> decide +kernel

theorem asking_no_drift (g : GateWait) (b : Bool) : NoDrift (asking g b) 0 := by
  unfold NoDrift; cases g <;> cases b <;> decide +kernel

/-- The moves of roving self-test: what row admits one, what makes it wait, and the boundary where it falls due. -/
theorem witness_selfTests :
    (let s := { base with tests := [⟨0, 0, 0⟩] }
     (∃ x ∈ s.tests, x.field = 0 ∧ x.row = 0) ∧ (∃ x ∈ s.tests, x.field = 0) ∧ holderOf s 0 = some 0 ∧
     (s.claimOf 0).run = .running ∧ (s.claimOf 0).moves = []) ∧
    (∃ p ∈ (asking .notDue false).claims, ∃ o ∈ p.2.moves, o.field = 0 ∧ o.col ≠ none ∧ (o.row, o.col) ≠ (3, some 6)) ∧
    (¬ ∃ p ∈ (asking .notDue false).claims, ∃ o ∈ p.2.moves, o.field = 0 ∧ o.col ≠ none ∧ (o.row, o.col) ≠ (3, some 5)) ∧
    base.tests = [] ∧ (base.claimOf 0).moves = [] ∧ holderOf State.reset 0 = none ∧ holderOf base 0 = some 0 ∧
    (∃ r ∈ { base with retiredTiles := [(0, 0, 0)] }.retiredTiles, r.1 = 0 ∧ r.2.1 = 0) ∧
    (0, 0) ∈ { base with failedBypass := [(0, 0)] }.failedBypass ∧ base.retiredTiles = [] ∧ base.failedBypass = [] ∧
    ((switchingOn (.docent 0) base).ctlOf (.docent 0)).switching = true ∧ (base.ctlOf (.docent 0)).switching = false ∧
    (asking .notDue false).now 0 % 2 ^ (asking .notDue false).replayLog2 = 0 ∧
    (withClaim fun c => { c with tick := 1 }).now 0 % 2 ^ base.replayLog2 ≠ 0 ∧
    (∃ st ∈ strandsOf (asking .notDue true) 0, ((asking .notDue true).coreOf st).span = true ∧
      ((asking .notDue true).coreOf st).status ≠ .retired) ∧
    (¬ ∃ st ∈ strandsOf (asking .notDue false) 0, ((asking .notDue false).coreOf st).span = true ∧
      ((asking .notDue false).coreOf st).status ≠ .retired) ∧
    next (exec (.selfTestMove 0 3 5) (asking .notDue true)) (fun u => decide (u.tests = [] ∧ (u.claimOf 0).moves.length = 2)) = true ∧
    next (exec (.selfTestMove 0 3 5) (asking .passed true)) (fun u => decide (u.tests = [⟨0, 3, 5⟩] ∧ u.shifts = [(0, 3, 5)])) = true ∧
    next (exec (.selfTestMove 0 3 5) (asking .notDue false)) (fun u => decide (u.tests = [⟨0, 3, 5⟩])) = true := by decide +kernel

theorem witness_ClaimStops :
    ((withClaim fun c => { c with returned := 2 ^ 32 }).claimOf 0).mech = .weight ∧
    Runs base 0 ∧ (¬ Runs base 1 ∧ ¬ Runs { base with power := .safe } 0) ∧ (base.claimOf 0).returned ≠ 2 ^ 32 ∧
    ((counting false 0).claimOf 0).jcount = ((counting false 0).claimOf 0).jtotal ∧
    ((counting false 0).claimOf 0).jbad = false ∧ ((counting false 1).claimOf 0).jcount ≠ ((counting false 1).claimOf 0).jtotal ∧
    (base.claimOf 0).fleet = false ∧
    -- stops of a running claim
    (base.claimOf 0).fatal = none ∧ (base.claimOf 0).firstErr = none ∧ (base.claimOf 0).faults.length < 64 ∧ NoDrift base 0 ∧
    ¬ NoDrift (base.modTile t0 fun t => { t with off := 1 }) 0 ∧
    ((withClaim fun c => { c with fatal := some 0 }).claimOf 0).fatal ≠ none ∧
    ((withClaim fun c => { c with firstErr := some anError }).claimOf 0).firstErr ≠ none ∧
    -- pre-emption
    (base.ctlOf .curator).switching = false ∧ ((withClaim fun c => { c with preempt := true }).claimOf 0).preempt = true ∧
    StopsHere (withClaim fun c => { c with preempt := true }) 0 ∧ (base.claimOf 0).preempt = false ∧
    ¬ StopsHere (withClaim fun c => { c with tick := 1, preempt := true }) 0 ∧ ArraysIdle base 0 ∧
    -- releases
    ((switchingOn .curator base).ctlOf .curator).switching = true ∧
    ((withClaim fun c => { c with run := .faulted 0 }).claimOf 0).run = .faulted 0 ∧
    ((withClaim fun c => { c with run := .haltedAt 0 }).claimOf 0).run = .haltedAt 0 ∧
    ((withClaim fun c => { c with run := .aborted 0 }).claimOf 0).run = .aborted 0 ∧
    -- upsets: a wheel position at the end of far memory
    next (exec (.bitUpset (.wheel t0) 33) base) (fun u => decide ((u.tileOf t0).wheel = 1)) = true ∧
    -- and the end of far memory
    8 * (3 * 2 ^ 37 - 1) < 3 * 2 ^ 40 ∧ 3 * 2 ^ 40 ≤ 8 * (3 * 2 ^ 37) ∧
    runs (exec (.bitUpset (.far (3 * 2 ^ 37 - 1)) 1) base) = true := by
  refine ⟨?_, running, not_running, ?_, ?_, ?_, ?_, ?_, ?_, ?_, ?_, no_drift, drift, ?_, ?_, ?_, ?_, stops_here, ?_, stops_not_here,
    arrays_idle, ?_, ?_, ?_, ?_, ?_, ?_, ?_, ?_⟩ <;> decide +kernel

/-- A module that is powered, with no claim. -/
def powered : State := { State.reset with power := .running }

/-- A queue of 16 entries at 0 whose window is the first 64 KiB, with packets up to `target` announced. -/
def someQueue (target qread : Quad) : Queue := ⟨target, qread, 0, 0, 0x10000, 4, true, false, false, false, false⟩

/-- A module whose queue 0 holds the packet of the listed bytes. -/
def queued (p : Memory) : State := { powered with queues := powered.queues.put 0 (someQueue 1 0), far := p }

/-- A packet for slot 0 without arguments: its signal at 0x1000 and its record at 0x2000. -/
def packet : Memory := [(0, 1), (1, 1), (9, 0x10), (17, 0x20)]

/-- The header of an image of one field without a record (R92); its digest is that of no bytes. -/
def header (hop : Byte) : List Byte :=
  [0x49, 0x52, 0x41, 0x45, 1, 0, hop, 32, 1, 1, 1, 0, 0, 0, 0, 0, 64, 0, 0, 0, 0, 0, 0, 0,
   0xe3, 0xb0, 0xc4, 0x42, 0x98, 0xfc, 0x1c, 0x14, 0x9a, 0xfb, 0xf4, 0xc8, 0x99, 0x6f, 0xb9, 0x24,
   0x27, 0xae, 0x41, 0xe4, 0x64, 0x9b, 0x93, 0x4c, 0xa4, 0x95, 0x99, 0x1b, 0x78, 0x52, 0xb8, 0x55, 0, 0, 0, 0, 0, 0, 0, 0]

/-- An accession record of field 0 for slot 0 and queue 0, with tables at 0. -/
def accession (v : Byte) : List Byte := [v, 0, 0, 1, 1, 0] ++ List.replicate 26 0 ++ [1] ++ List.replicate 31 0

/-- The queued packet with a slot and an accession record. -/
def submitted (leased : Bool) (hop v : Byte) : State :=
  let s := queued packet
  { s with cats := s.cats.put 0 ⟨.resident, header hop, leased, [], false⟩, accessions := s.accessions.put 0 (accession v) }

/-- A mailbox with the code and ring of a command. -/
def rung (op : Byte) (busy done : Bool) : State := { powered with mbox := { Mailbox.reset with op := op, busy := busy, done := done } }

theorem witness_HostSide_registers :
    State.reset.power = .off ∧ powered.power ≠ .off ∧ (3 * 2 ^ 40 - 8) + 8 ≤ 3 * 2 ^ 40 ∧ powered.far.wf = true ∧
    ([0, 0, 0, 0, 0, 0, 0, 0] : List Byte).length = 8 ∧ (0x1FF8 : Nat) < 0x2000 ∧ (0x1FF8 : Nat) % 8 = 0 ∧
    -- the mailbox
    (1 : Quad).getLsbD 0 = true ∧ (2 : Quad).getLsbD 0 = false ∧ (rung 3 true false).mbox.busy = true ∧
    (rung 3 false true).mbox.done = true ∧ (rung 3 false false).mbox.busy = false ∧
    ((switchingOn .curator powered).ctlOf .curator).switching = true ∧ (powered.ctlOf .curator).switching = false ∧
    ((mailboxCodes .zero).any fun p => p.1 == (12 : Byte).toNat) = true ∧ ((mailboxCodes .zero).any fun p => p.1 == (13 : Byte).toNat) = false := by decide +kernel

theorem witness_HostSide_tags :
    (let w := match exec (.hostFarWrite 64 ⟨[7], [(2, 9)]⟩) powered with | .next u => u.farTags | .fault _ => [] | .refused _ => []
     find w 2 = some 9) ∧ (2 : Nat) * 32 < 3 * 2 ^ 40 ∧ ¬ (3 * 2 ^ 35) * 32 < 3 * 2 ^ 40 := by decide +kernel

theorem witness_HostSide_notify :
    -- notifications: from QREAD to QREAD + 2^k
    (let x := someQueue 1 0
     x.en = true ∧ x.qread.toNat ≤ (0 : Quad).toNat ∧ (16 : Quad).toNat ≤ x.qread.toNat + 2 ^ x.log2 ∧
       ¬ (17 : Quad).toNat ≤ x.qread.toNat + 2 ^ x.log2) ∧
    -- one that lowers the target of a queue that is being disabled
    (let x := { someQueue 3 1 with disabling := true }
     x.en = true ∧ x.qread.toNat ≤ (1 : Quad).toNat ∧ x.disabling = true ∧ x.qread = 1 ∧
     next (exec (.qnotifyWrite 0 1) { powered with queues := powered.queues.put 0 x })
       (fun u => decide (u.todo = [.ev (.queueDisableDrain 0)])) = true) := by decide +kernel

theorem witness_HostSide_queues :
    -- packets
    ((powered.queues.at 0).en = false ∧ (someQueue 1 1).target.toNat ≤ (someQueue 1 1).qread.toNat ∧
      ((queued []).queues.at 0).qread.toNat < ((queued []).queues.at 0).target.toNat ∧ packetField (headPacket (queued []) 0) 0 1 % 2 = 0 ∧
      packetField (headPacket (queued packet) 0) 0 1 % 2 = 1 ∧ ((switchingOn .curator (queued packet)).ctlOf .curator).switching = true) ∧
    (packetDropped (someQueue 1 0) (headPacket (queued [(0, 1), (8, 4)]) 0) = true ∧
     packetDropped (someQueue 1 0) (headPacket (queued packet) 0) = false) ∧
    packetField (headPacket (queued [(0, 1)]) 0) 1 1 ≠ 1 ∧ 16 < packetField (headPacket (queued [(0, 1), (3, 17)]) 0) 3 1 ∧
    (let p := headPacket (queued packet) 0
     packetBad (someQueue 1 0) p [] = false ∧ packetField p 3 1 ≤ 16 ∧ ((queued packet).cats.at 0).st ≠ .resident) ∧
    ((submitted false 6 1).cats.at 0).st = .resident ∧ ((submitted false 6 1).cats.at 0).leased = false ∧
    (submitted false 6 1).fleet = none := by
  refine ⟨?_, ?_, ?_, ?_, ?_, ?_, ?_, ?_⟩ <;> decide +kernel

theorem witness_HostSide_launches :
    (submitted true 6 1).far.wf = true ∧
    (parseImage (header 8)).hop ≠ (submitted true 8 1).lh ∧ (parseImage (header 6)).hop = (submitted true 6 1).lh ∧
    (parseImage (header 6)).wheel = (submitted true 6 1).wheel ∧ (parseAcc (accession 0)).v = false ∧
    ((submitted true 6 1).cats.at 0).leased = true ∧ (parseImage (header 6)).ranges.isEmpty = true ∧
    (let s := submitted true 6 1
     launchReason (consume s 0 (headPacket s 0)) (some 0) (takeSlot (consume s 0 (headPacket s 0)) 0).read (headPacket s 0) [] = 0) := by
  refine ⟨?_, ?_, ?_, ?_, ?_, ?_, ?_, ?_⟩ <;> decide +kernel

/-- The result of a command. -/
def result (i : Instr) (s : State) : Option (Byte × Bool) :=
  match exec i s with
  | .next u => some (u.mbox.result, u.mbox.done)
  | .fault _ => none
  | .refused _ => none

def mbArgs (a0 a1 a2 : Quad) : MbArgs := ⟨a0, a1, a2, 0, 0, 0⟩

/-- A powered module with a slot. -/
def catalogued (c : CatSlot) : State := { powered with cats := powered.cats.put 255 c }

/-- Whether the signature of a LOAD or an FWLOAD verifies is the installation's (an opaque value of Config), so the clauses under
`signed = true` and under `signed = false` are met in one of the two cases: the operands below meet every other hypothesis of both. -/
theorem witness_CuratorCommands :
    { powered with power := .safe }.power = .safe ∧ powered.power ≠ .safe ∧
    -- LOAD at the limits of its arguments, with an image that passes and one that does not
    (let a := mbArgs 255 (3 * 2 ^ 40 - 448) 64
     a.a0.toNat < 256 ∧ a.a1.toNat % 64 = 0 ∧ a.a1.toNat + a.a2.toNat + 384 ≤ 3 * 2 ^ 40 ∧ a.a3 = 0) ∧
    result (.load (mbArgs 256 0 0)) powered = some (4, true) ∧ result (.load (mbArgs 0 (3 * 2 ^ 40 - 384) 64)) powered = some (4, true) ∧
    (powered.cats.at 255).st = .empty ∧ imageBad (header 6) 64 = none ∧ imageBad (header 6) 63 = some 0 ∧
    -- the slot commands
    (let s := catalogued ⟨.resident, header 6, true, [], false⟩
     (s.cats.at 255).st = .resident ∧ (s.cats.at 255).leased = true ∧ inFlight s 255 = false ∧
     result (.evict (mbArgs 255 0 0)) s = some (0, true) ∧ result (.lease (mbArgs 255 0 0)) s = some (0, true) ∧
     result (.lease (mbArgs 256 0 0)) s = some (4, true) ∧ result (.evict (mbArgs 254 0 0)) s = some (0, true) ∧
     result (.unlease (mbArgs 254 0 0)) s = some (1, true)) ∧
    (inFlight (base.modClaim 0 fun c => { c with slot := 255 }) 255 = true ∧
      ((catalogued ⟨.resident, [], true, [], true⟩).cats.at 255).unlease = true ∧
      { powered with accessions := powered.accessions.put 255 (accession 1) }.accessions.at 255 ≠ []) ∧
    -- the queues
    (let a : MbArgs := ⟨63, 3 * 2 ^ 40 - 1024, 4, 0, 0, 1⟩
     a.a0.toNat < 64 ∧ a.a1.toNat % 64 = 0 ∧ 4 ≤ a.a2.toNat ∧ a.a1.toNat + 64 * 2 ^ a.a2.toNat ≤ 3 * 2 ^ 40 ∧ a.a5 = 1 ∧
     result (.queueEnable a) powered = some (0, true) ∧ result (.queueEnable { a with a2 := 3 }) powered = some (4, true) ∧
     result (.queueEnable { a with a1 := 0, a2 := 17 }) powered = some (4, true) ∧
     result (.queueEnable { a with a0 := 0 }) (queued []) = some (1, true)) ∧
    (((queued []).queues.at 0).en = true ∧ ((queued []).queues.at 0).qread ≠ ((queued []).queues.at 0).target ∧
      (someQueue 1 1).qread = (someQueue 1 1).target ∧ (powered.queues.at 0).en = false ∧
      { someQueue 1 1 with disabling := true }.disabling = true) ∧
    -- INVTLB
    ((83 : Quad).toNat < 84 ∧ ¬ (84 : Quad).toNat < 84) ∧
    -- the claim commands
    (result (.preempt (mbArgs 1 0 0)) base = some (1, true) ∧ result (.preempt (mbArgs 84 0 0)) base = some (4, true) ∧
      (base.claimOf 0).run = .running ∧ (base.claimOf 0).fleet = false ∧ (base.claimOf 0).abort = none ∧
      ((withClaim fun c => { c with run := .preempted 0 }).claimOf 0).run = .preempted 0 ∧
      result (.resume (mbArgs 0 0 0)) (withClaim fun c => { c with run := .preempted 0 }) = some (0, true)) ∧
    -- firmware, the start record, the restart
    (controllerOf 0 = some .curator ∧ controllerOf 0x117 = some (.engine 23) ∧ controllerOf 0x118 = none ∧
      controllerOf 0x253 = some (.docent 83) ∧ controllerOf 0x254 = none ∧
      result (.fwload (mbArgs 0x100 0 384)) (switchingOn (.engine 0) powered) = some (1, true) ∧
      result (.fwload (mbArgs 0 0 383)) powered = some (4, true) ∧ (powered.ctlOf .curator).switching = false ∧
      result (.record (mbArgs 8 0 0)) powered = some (0, true) ∧ result (.record (mbArgs 9 0 0)) powered = some (4, true) ∧
      result (.restart (mbArgs 1 0 0)) powered = some (4, true)) := by
  refine ⟨?_, ?_, ?_, ?_, ?_, ?_, ?_, ?_, ?_, ?_, ?_, ?_, ?_, ?_, ?_⟩ <;> decide +kernel

/-- What a boot finds: failed steps, controllers whose active image fails, tiles that fail. -/
def boots (failed : List Nat) (active : List Controller) (retired : List (Nat × Nat × Nat)) : BootFindings :=
  ⟨failed, [], active, [], [], retired, [(1, 2)], [], 64, 16, [(3, 40)]⟩

/-- A module off, with a step failed at the last start, n times in a row. -/
def failedBefore (k : BitVec 3) (n : Nat) : State := { State.reset with startRec := State.reset.startRec.put k (.fail, n) }

/-- The power state and a step's entry after a boot. -/
def booted (i : Instr) (s : State) (k : BitVec 3) : Option (Power × StepOut × Nat) :=
  match exec i s with
  | .next u => some (u.power, u.startRec.at k)
  | .fault _ => none
  | .refused _ => none

theorem witness_BootAndMeasurements :
    ((∀ k ∈ [1, 2, 3, 4, 5, 6, 7, 8], (State.reset.startRec.at (BitVec.ofNat 3 (k - 1))).1 ≠ .fail) ∧ (boots [] [] []).failed = [] ∧
      (boots [] [] []).badActive = [] ∧ (boots [] [] []).badFields = [] ∧ booted (.powerOn (boots [] [] [])) State.reset 7 = some (.running, .pass, 0)) ∧
    (booted (.powerOn (boots [8] [] [])) State.reset 7 = some (.off, .fail, 1) ∧ booted (.powerOn (boots [1] [] [])) State.reset 7 = some (.off, .skipped, 0)) ∧
    (∀ k ∈ [1, 5], ∀ j ∈ [1, 2, 3, 4, 5, 6, 7, 8], j ≠ k → ((failedBefore (BitVec.ofNat 3 (k - 1)) 1).startRec.at (BitVec.ofNat 3 (j - 1))).1 ≠ .fail) ∧
    booted (.powerOn (boots [5] [] [])) (failedBefore 4 1) 4 = some (.safe, .alternative, 1) ∧
    (7 ∉ (boots [7] [] []).alternativeFails ∧ booted (.powerOn (boots [7] [] [])) (failedBefore 6 1) 6 = some (.running, .alternative, 0)) ∧
    -- the retained half of one docent
    (booted (.powerOn (boots [] [.docent 83] [])) State.reset 3 = some (.off, .fail, 1) ∧
      booted (.powerOn (boots [] [.docent 83] [])) (failedBefore 3 1) 3 = some (.running, .alternative, 0) ∧
      (let s := (failedBefore 3 1).setCtl (.docent 83) { Ctl.reset with active := 1, retained := 2 }
       (find s.ctls (.docent 83)).isSome = true ∧
       next (exec (.powerOn (boots [] [.docent 83] [])) s) (fun u => decide ((u.ctlOf (.docent 83)).active = 2)) = true) ∧
      booted (.powerOn { boots [] [.docent 83] [] with badRetained := [.docent 83] }) (failedBefore 3 1) 3 = some (.off, .fail, 2) ∧
      booted (.powerOn { boots [] [.docent 83] [] with badRetained := [.docent 83] }) (failedBefore 3 2) 3 = some (.safe, .fail, 3)) ∧
    -- two tiles of a row, one tile beside a failed bypass, one tile
    (next (exec (.powerOn (boots [] [] [(0, 1, 3), (0, 1, 4)])) State.reset) (fun u => decide (u.badFields = [0])) = true ∧
      next (exec (.powerOn (boots [] [] [(1, 2, 3)])) State.reset) (fun u => decide (1 ∈ u.badFields ∧ (1, 2) ∈ u.failedBypass)) = true ∧
      next (exec (.powerOn (boots [] [] [(0, 1, 3)])) State.reset) (fun u => decide (u.badFields = [] ∧ u.retiredTiles = [(0, 1, 3)])) = true) ∧
    (8 : Nat) = (7 : BitVec 3).toNat + 1 := by
  refine ⟨?_, ?_, ?_, ?_, ?_, ?_, ?_, ?_⟩ <;> decide +kernel

/-- What a launch took from a slot that holds nothing. -/
def took : SlotParts := takeSlot powered 0

/-- A module of a fleet of two wafers, with a launch under preparation. -/
def fleeted (verdicts : List (Nat × Nat)) : State :=
  { powered with fleet := some (0, 2, 1), fleetLaunch := some ⟨[], [], took, none, 0, 0, [], verdicts, [], false, none, none⟩ }

/-- A module of a fleet of three wafers whose curator has proposed a cut to which the listed wafers agreed. -/
def cutting (l : List Nat) : State := { powered with fleet := some (0, 3, 1), cut := some (100, l) }

/-- A running claim that is a part of a fleet's launch. -/
def inFleet : State := { withClaim fun c => { c with fleet := true } with power := .running, fleet := some (0, 2, 1) }

theorem witness_FirmwareAndFleet :
    ((powered.ctlOf .curator).switching = false ∧ ((switchingOn (.docent 83) powered).ctlOf (.docent 83)).switching = true ∧
      powered.mbox.ring = false ∧ (Controller.curator ∉ powered.findings.badRetained) ∧ (powered.ctlOf .curator).mem.wf = true ∧
      powered.far.wf = true ∧ littleEndian 8 (fun i => (accession 1).getD (16 + i) 0) + 1 ≤ 3 * 2 ^ 40 ∧
      next (exec (.accessionRecordWrite 255 (accession 1) [7]) powered) (fun u => decide (u.far.read 0 = 7 ∧ u.far.read 1 = 0)) = true) ∧
    ((handRecord powered .curator).length < 2 ^ 32 ∧ 0 + 63 < (handRecord powered .curator).length ∧
      (0xFFFFFFFF : BitVec 32).toNat + 0 ≥ 2 * halfSize .curator) ∧
    (fwloadFor { powered with mbox := { Mailbox.reset with busy := true, hop := 0x0A } } .curator = true ∧
      fwloadFor powered .curator = false) ∧
    (let c := { powered.ctlOf .curator with rbk := true }
     c.rbk = true ∧ c.accept = false ∧ (powered.ctlOf .curator).rbk = false) ∧
    (powered.fleet = none ∧ (fleeted []).fleetLaunch ≠ none ∧ { powered with fleet := some (0, 2, 1) }.fleetLaunch = none) ∧
    -- the limits of a formation
    (2 ≤ 64 ∧ 64 ≤ 64 ∧ 63 < 64 ∧ 512 ≤ 16384 ∧ 16384 % powered.wheel = 0 ∧ 512 % powered.wheel = 0 ∧ ¬ 511 % powered.wheel = 0) ∧
    -- a cut, and a docent that switches
    ((cutting []).cut = some (100, []) ∧ 1 ∉ ([] : List Nat) ∧ ([] : List Nat).length + 2 < 3 ∧ 3 ≤ [1].length + 2 ∧ 2 ∉ [1] ∧
      next (exec (.managementSidebandMessage (.cutAgreed 2 100)) (cutting [1])) (fun u => decide (u.baseCut = 100)) = true ∧
      next (exec (.managementSidebandMessage (.cutAgreed 2 100)) (cutting [])) (fun u => decide (u.baseCut = 0)) = true ∧
      ((switchingOn (.docent 83) (cutting [1])).ctlOf (.docent 83)).switching = true ∧ (83 : Nat) < 84) ∧
    -- peer routes, verdicts and parts
    ((fleeted []).fleetLaunch.isSome ∧ (0 : Nat) + 2 ≥ 2 ∧
      next (exec (.managementSidebandMessage (.peerRoutes [])) (fleeted []))
        (fun u => decide ((u.fleetLaunch.map fun f => f.verdicts) = some [(0, 0)])) = true) ∧
    (((fleeted [(0, 0)]).fleetLaunch.map fun f => decide (2 ≤ f.verdicts.length + 1 ∧ ∀ v ∈ f.verdicts, v.1 ≠ 1 ∧ v.2 = 0)) = some true ∧
      ((fleeted [(0, 5)]).fleetLaunch.map fun f => decide (∃ v ∈ f.verdicts, v.2 ≠ 0)) = some true ∧
      ((fleeted []).fleetLaunch.map fun f => decide (f.parts.length + 1 < 2 ∧ f.verdicts.length + 1 < 2 ∧ f.started = false)) = some true) ∧
    (let f : FleetLaunch := ⟨[], [], took, none, 0, 1, [], [(0, 0), (1, 0)], [⟨1, 3, 0, 0, 0, 5, some 0⟩], true, none, none⟩
     { powered with fleetLaunch := some f }.fleetLaunch = some f ∧ f.started = true ∧ f.parts.length + 1 = 2) ∧
    -- requests, before their tick and at it
    ((base.claimOf 0).fleet = false ∧ (inFleet.claimOf 0).fleet = true ∧ inFleet.now 0 < 1 ∧ 0 ≤ inFleet.now 0 ∧
      Runs inFleet 0) := by
  refine ⟨?_, ?_, ?_, ?_, ?_, ?_, ?_, ?_, ?_, ?_, ?_, ?_, ?_, ?_, ?_⟩
  all_goals first | decide +kernel | (unfold Runs; decide +kernel)

/-- A claim that stands for a late landing which is lost at the next step of wall time. -/
def standing : State := withClaim fun c => { c with frozen := some ⟨t0, 0x123, 1, 1, .getVersion⟩ }

theorem witness_EventSteps : { base with todo := [.ev .getVersion] }.todo = .ev .getVersion :: [] ∧ { base with todo := [] }.todo = [] ∧
    (base.claims.map fun p => p.1).Nodup ∧ (base.claims.map fun p => decide (p.2.run = .running ∧ p.2.frozen = none ∧ p.2.parley = none)) = [true] ∧
    (base.power ≠ .safe ∧ (base.claimOf 1).run ≠ .running) ∧
    (standing.claims.map fun p => p.2.frozen) = [some ⟨t0, 0x123, 1, 1, .getVersion⟩] ∧ (1 : Nat) ≤ standing.wall + 1 ∧
    runs (step { base with todo := [] }) = true ∧ runs (step { base with todo := [.ev .getVersion] }) = true := by decide +kernel
/-! ### Clauses with states of their own -/

/-- A flit of tag 0x123 waits at the west input under upset bits of its link word. -/
def upsetLink (m : BitVec 5) (f : Tile → Tile) : State :=
  mappedTile fun t => { f t with elastic := [(.west, 0, flit false 0x123)], linkErr := [(.west, m)] }

/-- A fleet's claim that has lost port 0, with an entry for the first link of that port, about to take a drift step. -/
def lostOne : State :=
  { (mappedTile fun t => { t with routes := [⟨0x123, 0, some .north, [], true⟩] }).modClaim 0 fun c =>
      { c with fleet := true, lostPorts := [0] } with lp := 512, todo := [.drift 0] }

theorem witness_FabricEvents_links :
    -- an engine receives
    (across (bound id) t0 .north = some (.engine ctx0.engine) ∧ { flit false 5 with kind := 2, origin := some (ctx0, 1, 0) }.kind = 2 ∧
      next (exec (.flitArrival t0 .north ⟨0, { flit false 5 with kind := 2, origin := some (ctx0, 1, 0) }, true⟩) (commanded 2))
        (fun u => decide (u.agenda = [])) = true) ∧
    -- one quarter corrected, a marked flit, a marked flit without an entry
    (find (upsetLink 1 routed).myTile.linkErr .west = some 1 ∧ (1 : BitVec 5).getLsbD 4 = false ∧ portAt (upsetLink 1 routed) t0 .west = none ∧
      routeAt (upsetLink 1 routed) t0 (some .west) 0x123 = some ⟨0x123, 0, some .west, [], true⟩ ∧
      next (exec (.flitRelease t0 .west) (upsetLink 1 routed)) (fun u => decide (u.myTile.landing.map (fun e => e.psn) = [1])) = true) ∧
    ((16 : BitVec 5).getLsbD 4 = true ∧ routeTag (upsetLink 16 routed) t0 .west = some 0x123 ∧ routeTag (upsetLink 16 id) t0 .west = none ∧
      next (exec (.flitRelease t0 .west) (upsetLink 16 routed)) (fun u => decide (u.myTile.landing.map (fun e => (e.data, e.psn)) = [(0, 0xF)])) = true ∧
      next (exec (.flitRelease t0 .west) (upsetLink 16 id)) (fun u => decide (u.myTile.landing = [])) = true) ∧
    -- a lost flit of a lost port
    (isLive lostOne 0 = true ∧ (lostOne.claimOf 0).lostPorts = [0] ∧ (0 : Nat) < 19 ∧ edgeTile 0 = ((0, 0), .north) ∧
      (∀ j < 19, j ≠ 0 → routeTag lostOne ⟨0, (edgeTile j).1.1, (edgeTile j).1.2⟩ (edgeTile j).2 = none) ∧
      routeTag lostOne t0 .north = some 0x123 ∧ portEntry lostOne t0 .north 0 0x123 = true ∧
      next (step lostOne) (fun u => decide ((u.tileOf t0).landing.map (fun e => e.psn) = [0xF])) = true) ∧
    -- an array send without an entry in this tick
    (let a : ArraySend := ⟨4, 3, 0x123, 1, [0], true⟩
     let s := mappedTile fun t => { matrixTile t with sends := [a], routes := [⟨0x123, 5, none, [.east], false⟩] }
     routeAt s t0 none a.tag = none ∧ nextSend s.wheel (wheelShift s t0) ((s.tileOf t0).localSlots a.tag) 1 = some 5 ∧
     next (exec (.arraySend t0 4) s) (fun u => decide (u.agenda.map (fun e => e.tick) = [5])) = true) := by
  refine ⟨?_, ?_, ?_, ?_, ?_⟩ <;> decide +kernel

/-- The probing tile stands for a hold of q cycles. -/
def stopped (q : Nat) : State := mapped.modTile t0 fun x => { x.stand 3 q with held := true }

theorem witness_CountsAndHolds_stops :
    holdsTo mapped t0 = [] ∧ (mapped.tileOf t0).lagHigh = false ∧ max 3 (mapped.tileOf t0).stopUntil = 3 ∧
    (∀ k, 3 ≤ k → k < 3 + 1 → highAt (stopped 1) t0 k 0 = false) ∧ highAt (stopped 5) t0 7 0 = true ∧
    next (exec (.holdDelivery t0 1 ⟨3, none⟩) mapped) (fun u => decide (u.agenda = [] ∧ (u.tileOf t0).peak = 1)) = true ∧
    next (exec (.holdDelivery t0 5 ⟨3, none⟩) mapped) (fun u => decide ((u.tileOf t0).lagHigh = true ∧ (u.tileOf t0).peak = 5)) = true := by
  refine ⟨by decide +kernel, by decide +kernel, by decide +kernel, ?_, by decide +kernel, by decide +kernel, by decide +kernel⟩
  intro k h1 h2
  obtain rfl : k = 3 := by omega
  decide +kernel

/-- A command of two units that converts its words to halves. -/
def twoUnits : Cmd := { command 2 with
  regs := { regs 0x82 with len := 128 }, units := 2, phys := [(0, List.range 64), (1, (List.range 64).map (· + 64))]
  rows := [(0, .clean 3), (1, .clean 4)] }

theorem witness_StagingEngine_schedules :
    -- a read: the latest two ticks of its slot, one wheel apart; the engine and the unit's tick bound them
    (let y := scheduled 0 16384 ⟨0, 0, [0]⟩
     (y.map fun y => (y.release, y.commit)) = some ([16378 - 32, 16378], some 16384) ∧
     (16378 + (asked 0 16384).lh) % (asked 0 16384).wheel = 0 ∧ 16378 + (0 + 1) * (asked 0 16384).lh ≤ 16384) ∧
    -- a write: the first two ticks of its slot after the unit's tick
    (let y := scheduled 2 512 ⟨0, 0, [0]⟩
     (y.map fun y => (y.release, y.commit)) = some ([544, 576], some (576 + 6 + 2048)) ∧ 544 % (asked 2 512).wheel = 0 ∧ 512 + 1 ≤ 544) ∧
    -- a commit of two units
    (let s := bound fun x => { x with cmds := [twoUnits] }
     (s.ctxOf ctx0).cmd? 1 = some twoUnits ∧ s.far.wf = true ∧
     ((List.range twoUnits.units).map fun n => (find twoUnits.phys n).getD []) = [List.range 64, (List.range 64).map (· + 64)] ∧
     (List.range 128).Nodup ∧ runs (exec (.stagingWriteCommit ctx0 1) s) = true) := by
  refine ⟨?_, ?_, ?_⟩ <;> decide +kernel

/-- The TLB of engine 0 holds page 0, mapped to page 2 of far memory and readable. -/
def heldPage : State := { paged [⟨0, 0x10000, true, true⟩] with tlb := [⟨0, 0, 0, 16, 0x20007⟩] }

theorem witness_FarTranslation_tlb :
    heldPage.tlb.find? (fun x => x.engine == 0 && x.claim == 0 && x.page == 0xFFC0 / 2 ^ 16 * 2 ^ 16 / 2 ^ x.size) =
      some ⟨0, 0, 0, 16, 0x20007⟩ ∧ (0x20007 : BitVec 64).toNat / 8 % 2 = 0 ∧ (0x20007 : BitVec 64).toNat / 4 % 2 = 1 ∧
    -- without it the walk fills
    (translate (paged [⟨0, 0x10000, true, true⟩]) st0 0 false 0xFFC0 64).1.tlb.head? = some ⟨0, 0, 0, 16, 0x10017⟩ := by decide +kernel

/-- The probing strand has an entry of an index in its tile's reorder buffer, issued at tick 0; the tick is 1. -/
def reducing (idx : BitVec 32) : State :=
  { withClaim (fun c => { c with tick := 1 }) with agenda := [] }.modTile t0 fun t =>
    { t with redBuf := [⟨idx, 0, 0, 5, 0, .clean 0, 1, .f32⟩] }

theorem witness_Synchronisation_fences :
    ((redsOf (reducing 1) st0).map fun r => (r.idx, r.iss)) = [(1, 0)] ∧ (reducing 1).t = 1 ∧ (reducing 1).myTile.redN = 0 ∧
    faults (exec (.fenceRel .tile 0) (reducing 1)) .c 0x18 = true ∧ runs (exec (.fenceSc .tile 0) (reducing 0)) = true ∧
    (let s := commanded 0
     (s.ctxOf ctx0).owner = some s.focus ∧ ((command 0).finished.map fun n => decide (s.t + 3 < n)) = some true ∧
     faults (exec (.fenceAr .store 0) s) .c 0x18 = true) ∧
    ((asked 0 16384).ctxOf ctx0).pending ≠ none ∧ faults (exec (.fenceRel .host 0) (asked 0 16384)) .c 0x18 = true := by decide +kernel

/-- A fleet's claim at a replay boundary that is asked to stop, with what other wafers have said of it. -/
def parleying (n : Nat) (answers : List (Nat × Nat × Bool)) : State :=
  { withClaim fun c => { c with fleet := true, preempt := true, answers := answers } with power := .running, fleet := some (0, n, 1) }

/-- An alignment and a send are planned on the probing tile. -/
def planned : State :=
  (mappedTile fun t => { t with sends := [⟨4, 3, 0x123, 1, [0], false⟩], routes := [⟨0x123, 5, none, [.east], false⟩] }).plan
    ⟨0, 5, phRun, 0, 0, 8, none, none, 0, 0, .ev (.arraySend t0 4)⟩ |>.plan ⟨0, 32, phRun, 0, 0, 8, none, none, 0, 0, .ev (.alignment t0)⟩

theorem witness_ClaimStops_fleet :
    ((parleying 2 []).fleet = some (0, 2, 1) ∧ ((parleying 2 []).claimOf 0).parley = none ∧
      next (exec (.preemptionStop 0) (parleying 2 [])) (fun u => decide ((u.claimOf 0).parley = some 0)) = true) ∧
    (((parleying 2 [(1, 0, false)]).claimOf 0).answers = [(1, 0, false)] ∧
      next (exec (.preemptionStop 0) (parleying 2 [(1, 0, false)])) (fun u =>
        decide ((u.claimOf 0).run = .running ∧ (u.claimOf 0).preempt = true)) = true) ∧
    next (exec (.preemptionStop 0) (parleying 2 [(1, 0, true)])) (fun u => decide ((u.claimOf 0).run = .preempted 0)) = true ∧
    -- a wheel upset moves what was planned by the wheel position
    (planned.agenda.length = 2 ∧ next (exec (.bitUpset (.wheel t0) 2) planned) (fun u =>
      decide ((u.tileOf t0).wheel = 2 ∧ u.agenda.map (fun e => e.tick) = [3, 30])) = true) := by
  refine ⟨?_, ?_, ?_, ?_⟩ <;> decide +kernel

/-- An image that declares one far range of one page, readable. -/
def oneRange : List Byte := (header 6).set 12 1 |>.set 16 104 |> fun h =>
  h ++ [12, 0, 0, 0, 0, 0, 255, 0, 24, 0, 0, 0, 0, 0, 0, 0] ++ List.replicate 16 0 |>.set 80 0 |>.set 89 0 |>.set 90 1 |> fun h => h ++ [1, 0, 0, 0, 0, 0, 0, 0]

/-- A slot with that image, and a record whose page table has its upper entries in place. -/
def leasing : State :=
  { catalogued ⟨.resident, oneRange, false, [], false⟩ with
    far := pagedMemory.filter (fun c => c.1 < 0x60000)
    accessions := powered.accessions.put 255 ((accession 1).set 10 2) }

theorem witness_CuratorCommands_lease :
    (parseImage oneRange).ranges = [⟨0, 0x10000, true, false⟩] ∧ (0 + 0x10000 - 1) / 2 ^ 16 = 0 ∧
    (parseAcc (leasing.accessions.at 255)).v = true ∧ (parseAcc (leasing.accessions.at 255)).ptroot = 0x20000 ∧
    leasing.farFlips = [] ∧ leasing.far.wf = true ∧
    (let word := fun p => littleEndian 8 fun i => leasing.far.read (p + i)
     word 0x20000 = 0x40001 ∧ word 0x40000 = 0x50001 ∧ word 0x50000 = 0x60001 ∧ word 0x60000 % 2 = 0) ∧
    (pagedMemory.read 0x60000 = 0x17) ∧ (parseAcc (accession 0)).v = false ∧
    runs (exec (.lease (mbArgs 255 0 0)) leasing) = true := by
  refine ⟨?_, ?_, ?_, ?_, ?_, ?_, ?_, ?_, ?_, ?_⟩ <;> decide +kernel

/-- A wafer that waits for the other of two to agree to an Lp. -/
def forming : State := { powered with forming := some ⟨0, 2, 4096, 1, []⟩ }

theorem witness_FirmwareAndFleet_more :
    -- a request outstanding; an outcome held back through a curator switch
    (requestsOut base .curator = false ∧ requestsOut (withClaim fun c => { c with preempt := true }) .curator = true ∧
      requestsOut (asking .notDue false) (.docent 0) = true ∧
      next (exec (.firmwareSwitch (.docent 0)) (asking .notDue false)) (fun u => decide ((u.ctlOf (.docent 0)).asked = true)) = true) ∧
    (let s := switchingOn .curator { powered with mbox := { Mailbox.reset with busy := true, hop := 9, held := some (0, 5) } }
     s.mbox.held = some (0, 5) ∧ s.mbox.ring = false ∧
     next (exec (.accept ⟨.curator, 2, 0⟩) s) (fun u => decide (u.mbox.res0 = 5 ∧ u.mbox.done = true ∧ u.mbox.held = none)) = true) ∧
    -- other codes of SWCMD
    next (exec (.alive ⟨.curator, 0x80, 7⟩) powered) (fun u =>
      decide ((u.ctlOf .curator).arg = 7 ∧ (u.ctlOf .curator).alive = (powered.ctlOf .curator).alive)) = true ∧
    -- a formation
    (forming.power = .running ∧ forming.forming = some ⟨0, 2, 4096, 1, []⟩ ∧ 4096 % powered.wheel = 0 ∧
      runs (exec (.managementSidebandMessage (.formAgreed 1 4096)) forming) = true ∧ powered.forming = none ∧ powered.fleet = none) ∧
    -- what another wafer says of a boundary, here where the part runs and where it has ended
    ((inFleet.claimOf 0).parley = none ∧
      next (exec (.managementSidebandMessage (.boundary 1 4096 true)) inFleet) (fun u =>
        decide ((u.claimOf 0).answers = [(1, 4096, true)] ∧ u.fleetMsgs = [])) = true ∧
      next (exec (.managementSidebandMessage (.boundary 1 4096 true)) (inFleet.modClaim 0 fun c => { c with run := .ended 0 true })) (fun u =>
        decide ((u.claimOf 0).answers = [(1, 4096, true), (0, 4096, true)] ∧ u.fleetMsgs = [.boundary 0 4096 true])) = true) ∧
    -- a module that does not run
    ({ inFleet with power := .safe }.power ≠ .running ∧ runs (exec (.managementSidebandMessage (.request 7 0)) { inFleet with power := .safe }) = true) ∧
    -- a queue whose fleet packet is in preparation
    (let s := { queued packet with
       fleet := some (0, 2, 1), fleetLaunch := some ⟨[], [], took, some 0, 0, 0, [], [], [], false, none, none⟩ }
     (s.fleetLaunch.map fun f => (f.started, f.queue)) = some (false, some 0) ∧
     next (exec (.packetRead 0) s) (fun u => decide (u.queues.at 0 = s.queues.at 0)) = true) := by
  refine ⟨?_, ?_, ?_, ?_, ?_, ?_, ?_⟩ <;> decide +kernel

/-- The panels that a co-operative operation of four 16-bit elements reads: the first. -/
theorem witness_MatrixIssue_panels :
    [0].Nodup ∧ (∀ p, p ∈ [0] ↔ ∃ i < 4, (0 + i * 1) * 16 / 512 = p) ∧
    runs (exec (.mma 0 false false false 0) (armedMma (coopRecord - 2 ^ 32) (some 0) 1 [])) = true := by
  refine ⟨by decide, fun p => ⟨fun h => ⟨0, by omega, by simp_all⟩, ?_⟩, by decide +kernel⟩
  rintro ⟨i, hi, e⟩
  have : p = 0 := by omega
  simp [this]
/-! ### Clauses added since: staging -/

/-- Registers of a command with FL = 1: its flag goes by tag 7 to word 0 of bank 5. -/
def flagRegs (cmd : Quad) (tick : Quad) (ft : Quad) : CtxRegs :=
  { regs (0x8000 + cmd) with tag := 5 + ft * 65536, flag := 5 * 65536, fval := 9, tick := tick }

/-- The bound state with an entry for tag 7 that leads from the north edge link to the tile. -/
def flagged (f : Ctx → Ctx) : State :=
  (bound f).modTile t0 (fun t => { t with routes := ⟨7, 3, some .north, [], true⟩ :: t.routes })
    |>.modClaim 0 fun c => { c with tags := (7, 0, 0) :: c.tags }

/-- A command as an activation at tick 0 finds it. -/
def cmdOf (r : CtxRegs) (q : Nat) : Cmd := ⟨1, r, 0, r.tick.toNat, q, .flt .fp32, [], [], [], [], [], [], 0, 0, none, none, false, 0⟩

/-- The registers of an OPC 1 command of two flits. -/
def rawRegs (tick : Quad) : CtxRegs := { regs 1 with tick := tick, pitch := 32 }

/-- A command of two lines that converts fp32 to the bank's bf16. -/
def narrowing : Cmd := { command 0 with
  regs := { regs 0x10 with len := 128 }, fmt := .flt .bf16, lines := [(0, .clean 0x3F800000), (1, .clean 0x40000000)] }

/-- The two flits of a row with a reducing command; the row holds the number 1. -/
def adding (red : Quad) : State :=
  (bound fun x => { x with cmds := [command (4 * red)] }).modTile t0 fun t => { t with
    landing := [half 0x40000000 0, half 0xBF800000 1], sram := (t.sram.write (5 * 65536 + 3) 0x3F).write (5 * 65536 + 2) 0x80 }

/-- The first word of each half of the row that a deposit commits. -/
def deposited (o : Host.Outcome State Fault Refusal) (a b : List Byte) : Bool :=
  next o fun u => u.agenda.any fun e => match e.act with
    | .ev (.bankCommit _ _ _ (.bytes l)) =>
      decide ((l.map fun x : BankByte => x.val).take 4 = a ∧ ((l.map fun x : BankByte => x.val).drop 32).take 4 = b)
    | _ => false

/-- A command of the accumulator tile 0, which is busy at tick 5. -/
def busyAcc (opc : Quad) : State :=
  ((bound fun x => { x with cmds := [{ command opc with regs := { regs opc with loc := 63 * 65536 } }] }).modTile t0 fun t =>
    { matrixTile t with landing := [half 1 0, half 2 1], accs := t.accs.put 0 ⟨0, 6, 4⟩ }).modClaim 0 fun c => { c with tick := 5 }

/-- A tracked write with FL = 1 whose tracker is armed. -/
def tracked (ft : Quad) : State := flagged fun x => { x with cmds := [{ command 3 with regs := flagRegs 3 0 ft, armed := true }] }

/-- The causes of a claim's faults after an outcome. -/
def claimCauses (o : Host.Outcome State Fault Refusal) (l : List Byte) : Bool :=
  next o fun u => decide ((u.claimOf 0).faults.map (fun r : FaultRec => r.cause) = l)

theorem rows_busy : RowBusy ((busyAcc 0).tileOf t0) 63 0 5 ∧ ¬ RowBusy ((bound id).tileOf t0) 5 0 0 := by
  unfold RowBusy; decide +kernel

theorem witness_StagingEngine_flags :
    -- OPC 1: two flits, one wheel apart; with PITCH = 0 no two ticks
    (let s := bound fun x => { x with pending := some (1, rawRegs 16384) }
     pathIn s 0 0 5 t0 = some ⟨0, 0, [0]⟩ ∧
     ((schedule s 0 ctx0 (cmdOf (rawRegs 16384) 2) ⟨0, 0, [0]⟩ none 0).map fun y => (y.release, y.commit)) = some ([16378, 16410], some 16416) ∧
     schedule s 0 ctx0 (cmdOf { rawRegs 16384 with pitch := 0 } 2) ⟨0, 0, [0]⟩ none 0 = none ∧
     next (exec (.commandActivation ctx0) s) (fun u => decide ((u.ctxOf ctx0).activeTill = some 2 ∧ (u.claimOf 0).faults = [])) = true ∧
     claimCauses (exec (.commandActivation ctx0) (bound fun x => { x with pending := some (1, { rawRegs 16384 with pitch := 0 }) })) [0x45] = true) ∧
    -- FL = 1: the flag of a read and of a write, and a flag whose tag has no path
    (let s := fun r : CtxRegs => flagged fun x => { x with pending := some (1, r) }
     pathIn (s (flagRegs 0 16384 7)) 0 0 7 t0 = some ⟨0, 0, [3]⟩ ∧ pathIn (s (flagRegs 0 16384 6)) 0 0 6 t0 = none ∧
     ((s (flagRegs 0 16384 7)).tileOf t0).isScratch 5 = true ∧
     ((schedule (s (flagRegs 0 16384 7)) 0 ctx0 (cmdOf (flagRegs 0 16384 7) 1) ⟨0, 0, [0]⟩ (some ⟨0, 0, [3]⟩) 0).map fun y =>
       (y.commit, y.flagAt)) = some (some 16384, some (0, 16605)) ∧
     (16605 + 6) % 32 = 3 ∧ 16605 + 1 * 6 ≤ 16384 + 256 ∧
     ((schedule (s (flagRegs 2 512 7)) 0 ctx0 (cmdOf (flagRegs 2 512 7) 1) ⟨0, 0, [0]⟩ (some ⟨0, 0, [3]⟩) 0).map fun y =>
       (y.commit, y.flagAt)) = some (some 2630, some (0, 2877)) ∧
     claimCauses (exec (.commandActivation ctx0) (s (flagRegs 0 16384 7))) [] = true ∧
     claimCauses (exec (.commandActivation ctx0) (s (flagRegs 0 16384 6))) [0x44] = true ∧
     claimCauses (exec (.commandActivation ctx0) (s { flagRegs 0 16384 7 with flag := 200 })) [0x44] = true) ∧
    -- what flits carry: a converted row's halves, raw bytes, FVAL
    ((narrowing.flit ctx0 0 0).map fun f => f.data) = some 0x3F80 ∧ ((narrowing.flit ctx0 1 0).map fun f => f.data) = some 0x4000 ∧
    ((command 1).flit ctx0 0 0).map (fun f => (f.data, f.kind)) = some (1, 0) ∧
    ((({ command 0 with regs := flagRegs 0 0 7 } : Cmd).flit ctx0 2 0).map fun f => (f.data, f.tag)) = some (9, 7) ∧
    -- RED: 1 + 2, the larger and the smaller; the other half, 0 with -1
    (Fmt.flt .fp32).width = 32 ∧ deposited (exec (.stagingDeposit ctx0 1 0) (adding 1)) [0, 0, 0x40, 0x40] [0, 0, 0x80, 0xBF] = true ∧
    deposited (exec (.stagingDeposit ctx0 1 0) (adding 2)) [0, 0, 0, 0x40] [0, 0, 0, 0] = true ∧
    deposited (exec (.stagingDeposit ctx0 1 0) (adding 3)) [0, 0, 0x80, 0x3F] [0, 0, 0x80, 0xBF] = true ∧
    -- a busy accumulator tile
    ((takeLanded ((busyAcc 0).tileOf t0).landing ctx0 1 0 0 2).isSome ∧
      claimCauses (exec (.stagingDeposit ctx0 1 0) (busyAcc 0)) [0x22] = true ∧
      claimCauses (exec (.stagingSourceRead ctx0 1 0) (busyAcc 2)) [0x22] = true) ∧
    -- a tracker's flag
    (pathIn (tracked 7) 0 0 7 t0 = some ⟨0, 0, [3]⟩ ∧ pathIn (tracked 6) 0 0 6 t0 = none ∧
      claimCauses (exec (.trackerFire ctx0) (tracked 6)) [0x44] = true ∧
      next (exec (.trackerFire ctx0) (tracked 7)) (fun u => decide
        ((u.ctxOf ctx0).cmds.map (fun c : Cmd => c.flagAt.isSome) = [true])) = true) := by
  refine ⟨?_, ?_, ?_, ?_, ?_, ?_, ?_, ?_, ?_, ?_, ?_, ?_⟩ <;> decide +kernel

/-! ### Waits with poisoned operands, conflicts, rotations, halves of rows, drift, trims -/

/-- A bundle with an unmet `waita` in an open span whose base is poisoned. -/
def poisonedWait : State := placedIn (.waitaNe ⟨4, 3, 0, 0⟩ .tile) fun c =>
  { c with span := true, map := c.map.put 0 ⟨.owned, 5⟩, a := c.a.put 3 ⟨0, 1⟩ }

/-- Whether the focus strand waits, tainted. -/
def waitsTainted (o : Host.Outcome State Fault Refusal) : Bool := next o fun u => decide (u.me.taint = true ∧ u.me.status = .waiting)

theorem witness_waits_taint :
    ((shown poisonedWait).me.span = true ∧ (shown poisonedWait).me.status = .running ∧
      waitOf (shown poisonedWait) (.waitaNe ⟨4, 3, 0, 0⟩ .tile) = some .unmet ∧ goes (poisonedWait.modCore st0 fun c => { c with span := false }) = true ∧
      next (step poisonedWait) (fun u => decide ((u.coreOf st0).taint = true ∧ (u.coreOf st0).status = .waiting ∧ (u.coreOf st0).pc = 0)) = true) ∧
    waitsTainted (exec (.spop (.reg 3) 2 1) ((spanOpen (streamed 0 0)).modCore st0 fun c => { c with k := c.k.put 1 ⟨1, 1⟩ })) = true ∧
    waitsTainted (exec (.tlWait 3 (.reg 1)) ((bound fun x => { x with issued := 0x20000 }).modCore st0 fun c =>
      { c with span := true, a := c.a.put 1 ⟨0x20000, 1⟩ })) = true ∧
    next (exec (.tkawait (.reg 2) 0) (withMe fun c => { c with a := c.a.put 2 ⟨1000, 1⟩ }))
      (fun u => decide (u.me.taint = true ∧ u.me.status = .tkawait 1000)) = true ∧
    waitsTainted (exec (.waitaNe ⟨0, 1, 0, 0⟩ .tile) ((spanOpen mapped).modCore st0 fun c => { c with a := c.a.put 1 ⟨0x20000, 1⟩ })) = true ∧
    -- a write of `cr.drift` lands before the flits of its tick
    next (exec (.crset (.reg 1) false .drift) base) (fun u => u.agenda.all fun e => decide (e.phase < phRun)) = true ∧
    next (exec (.crset (.reg 1) true .tvec) base) (fun u => u.agenda.all fun e => decide (e.phase = phLand)) = true := by
  refine ⟨?_, ?_, ?_, ?_, ?_, ?_, ?_⟩ <;> decide +kernel

/-- Core 1 presents a change of the named entries in this tick. -/
def rival (l : List (BitVec 2 × BitVec 6)) (s : State) : State := s.modTile t0 fun t => { t with intents := [(1, .change l [])] }

/-- Two strands present a rotation of slot 2 in one tick, over entries in the given states. -/
def turning (a b : MapSt) : State :=
  let bytes := (Instr.brot ⟨2, 0⟩).bundleBytes.getD []
  let s := placedIn (.brot ⟨2, 0⟩) fun c => { c with map := c.map.put 2 ⟨a, 5⟩ }
  let s := s.modTile t0 fun t => { t with part := 0x3E0000081, sram := Memory.writeList t.sram 65536 bytes }
  { s.setCore ⟨t0, 1⟩ { s.coreOf st0 with map := (Tab.all 6 ⟨.detached, 0⟩ : Tab 6 MapEntry).put 2 ⟨b, 6⟩ } with
    todo := [.present t0, .issue st0, .issue ⟨t0, 1⟩] }

/-- What some steps make of a state. -/
def steps : Nat → State → State
  | 0, s => s
  | n + 1, s => match step s with
    | .next u => steps n u
    | .fault _ => s
    | .refused _ => s

/-- The cores and causes of the faults after three steps. -/
def turned (a b : MapSt) : List (Nat × Byte) := ((steps 3 (turning a b)).claimOf 0).faults.map fun r : FaultRec => (r.core, r.cause)

/-- R220: an entry in a wrong state gives its own strand 0x16 or 0x10, the other `brot` of the tick 0x50. -/
theorem test_brot_two_strands : turned .owned .owned = [] ∧ turned .lent .owned = [(0, 0x16), (1, 0x50)] ∧
    turned .owned .lent = [(0, 0x50), (1, 0x16)] ∧ turned .arriving .owned = [(0, 0x10), (1, 0x50)] := by
  refine ⟨?_, ?_, ?_, ?_⟩ <;> decide +kernel

theorem witness_BankMaps_conflicts :
    (namesConflict (rival [(1, 9)] mapped) [(0, 2), (1, 9)] = true ∧ faults (exec (.bgive own 1 9) (rival [(1, 9)] mapped)) .x 0x16 = true) ∧
    (namesConflict (rival [(3, 9)] mapped) ((0, 2) :: (maskEntries 0xE 9 ⟨.owned, 5⟩).map fun q => q.1) = true ∧
      faults (exec (.blend own 9 0xE) (rival [(3, 9)] mapped)) .x 0x16 = true) ∧
    (namesConflict (rival [(0, 2)] (mappedAs .read)) [(0, 2)] = true ∧ faults (exec (.bback own) (rival [(0, 2)] (mappedAs .read))) .x 0x16 = true) ∧
    (let s := rival [(0, 2)] (mappedAs .lent)
     namesConflict s ((0, 2) :: holders s t0 5 (fun x => x == .read)) = true ∧ faults (exec (.bback own) s) .x 0x16 = true) ∧
    (let s := rival [(1, 9)] (mappedTile fun t => { t with homes := t.homes.put 5 (some (1, 9)) })
     (entryIn s t0 1 9).st = .detached ∧ namesConflict s [(0, 2), (1, 9)] = true ∧ faults (exec (.bback own) s) .x 0x16 = true) := by
  refine ⟨?_, ?_, ?_, ?_, ?_⟩ <;> decide +kernel

/-- A half of an array's row, of one row of one send. -/
def rowHalf (h : Bool) (row : Nat) : Flit := { sentFlit (.clean 7) h 0x123 with half := h, kind := 1, pair := some (t0, 3, row) }

/-- The causes of the faults after a tile has taken some flits. -/
def taken (l : List Flit) : List Byte :=
  ((l.foldl (fun s f => deliver s t0 f) (operands (slot (some 0) 0 0))).claimOf 0).faults.map fun r : FaultRec => r.cause

/-- R276: a second half goes with the first half of its own row, and without it the claim takes 0x24. -/
theorem test_row_halves : taken [rowHalf false 1, rowHalf true 1] = [] ∧ taken [rowHalf false 1, rowHalf true 2] = [0x24] ∧
    taken [rowHalf true 2] = [0x24] := by decide +kernel

/-- The east neighbour's count leads by n, at a check of the claim's links. -/
def drifting (n : BitVec 64) : State :=
  { mapped.modTile ⟨0, 1, 0⟩ (fun t => { t with off := n, offHist := [(0, n)] }) with todo := [.drift 0] }

theorem witness_FabricEvents_drift :
    isLive (drifting 1) 0 = true ∧ ((drifting 1).claimOf 0).lostPorts = [] ∧ ((drifting 1).tiles.all fun p => p.2.linkErr.isEmpty) = true ∧
    across (drifting 1) t0 .east = some (.tile ⟨0, 1, 0⟩) ∧ ((drifting 1).tileOf ⟨0, 1, 0⟩).offHist ≠ [] ∧ (drifting 1).lh = 6 ∧
    next (step (drifting 2)) (fun u => decide ((u.tileOf t0).dir = 2 ∧ (u.tileOf t0).delta = 0xFFFE ∧ (u.claimOf 0).faults = [])) = true ∧
    claimCauses (step (drifting 3)) (List.replicate 6 0x32) = true := by
  refine ⟨?_, ?_, ?_, ?_, ?_, ?_, ?_, ?_⟩ <;> decide +kernel

/-- The probing tile has stood three cycles longer than its neighbours. -/
def behind : State := mapped.modTile t0 fun t => { t with delay := 3 }

theorem mean_behind : MeanOf (lambdas behind t0 1024) 48 ∧ MeanOf [100, -7] 46 ∧ MeanOf [] 0 := by unfold MeanOf; decide +kernel

/-- R260 and R262: a local and a wafer's update that the slew bounds (50 ppm per millisecond, 1,024 cycles of 1,700 MHz), and a
throttled wafer's trim that may not rise; a hold of which two cycles fall into a stretch that stands already. -/
theorem test_trims :
    lessDeadband 4 48 = 32 ∧ 1250 * 32 = 40000 ∧
    next (exec (.localTrimUpdate t0) behind) (fun u => decide ((u.tileOf t0).trim = 30117 ∧ (u.tileOf t0).trimAt = 1024)) = true ∧
    next (exec (.waferTrimUpdate [(0, 100), (1, -7)]) { mapped with fleet := some (0, 2, 1) })
      (fun u => decide (u.waferTrim = 30117 ∧ u.waferInt = 22)) = true ∧
    next (exec (.waferTrimUpdate [(0, 100), (1, -7)]) { mapped with fleet := some (0, 2, 1), throttle := 1000 })
      (fun u => decide (u.waferTrim = 0 ∧ u.waferInt = 0)) = true ∧
    next (exec (.holdDelivery t0 5 ⟨3, none⟩) (mappedTile fun t => { t with stopUntil := 5 })) (fun u =>
      decide ((u.tileOf t0).delay = 3)) = true := by
  refine ⟨?_, ?_, ?_, ?_, ?_, ?_⟩ <;> decide +kernel

/-! ### Leases of the slot table; groups with NaN and infinities -/

/-- The lease of core 0 in its only entry, at the first residue. -/
theorem witness_MatrixIssue_lease :
    (let l := (armedMma record (some 0) 1 []).myTile.slotTable
     l = [(some 0, 1)] ∧ l[0]? = some (some 0, 1) ∧ ((armedMma record (some 0) 1 []).countOf t0).toNat % 64 < 64) ∧
    (armedMma record (some 1) 1 []).myTile.slotTable = [(some 1, 1)] ∧
    (let s := (armedMma record none 1 []).modTile t0 fun t => { t with slotTable := [(none, 0), (some 0, 1)] }
     runs (exec (.mma 0 false false false 0) s) = true) := by
  refine ⟨?_, ?_, ?_⟩ <;> decide +kernel

/-- The first elements of the two operand rows, as bf16 codes. -/
def elements (a b : BitVec 16) : State :=
  (working false []).modTile t0 fun t =>
    let m := (t.sram.write (62 * 65536) (a.extractLsb' 0 8)).write (62 * 65536 + 1) (a.extractLsb' 8 8)
    { t with sram := (m.write (62 * 65536 + 16384) (b.extractLsb' 0 8)).write (62 * 65536 + 16385) (b.extractLsb' 8 8) }

/-- The first group of the element under work. -/
def groupOf (a b : BitVec 16) : List (Sys2Proof.Machine.Num × Sys2Proof.Machine.Num) :=
  groupOperands ((elements a b).tileOf t0) (op false) 0 0 0

/-- The value of the first element after its first group. -/
def added (s : State) (v : Word) : Bool := next (exec (.mmaGroupAdd t0 7 0 0) s) fun u => decide (((u.tileOf t0).arrAcc.getD 0 (.clean 0)).val = v)

theorem groups_special :
    NanGroup (groupOf 0x7FC0 0x3F80) ∧ NanGroup (groupOf 0x7F80 0) ∧ ¬ NanGroup (groupOf 0x7F80 0x3F80) ∧ ¬ NanGroup (groupOf 0x3F80 0x3F80) ∧
    (∃ p ∈ groupOf 0x7F80 0x3F80, InfiniteProduct p false) ∧ ∃ p ∈ groupOf 0xFF80 0x3F80, InfiniteProduct p true := by
  
  unfold NanGroup InfiniteProduct Sys2Proof.Machine.Num.Infinite
  refine ⟨?_, ?_, ?_, ?_, ?_, ?_⟩ <;> decide +kernel

theorem marked_operand :
    OperandMarked (((elements 0x3F80 0x3F80).modTile t0 fun t => { t with marks := [62 * 8192] }).tileOf t0) 0 (.flt .bf16) 0 0 1 0 ∧
    ¬ OperandMarked ((elements 0x3F80 0x3F80).tileOf t0) 0 (.flt .bf16) 0 0 1 0 := by unfold OperandMarked; decide +kernel

/-- R242 and R243: what a group with a NaN, an infinity and a poisoned byte makes of the element. -/
theorem witness_MatrixArray_special :
    added (elements 0x7FC0 0x3F80) 0x7FC00000 = true ∧ added (elements 0x7F80 0) 0x7FC00000 = true ∧
    added (elements 0x7F80 0x3F80) 0x7F800000 = true ∧ added (elements 0xFF80 0x3F80) 0xFF800000 = true ∧
    added (elements 0x3F80 0x3F80) 0x3F800000 = true ∧
    next (exec (.mmaGroupAdd t0 7 0 0) ((elements 0x3F80 0x3F80).modTile t0 fun t => { t with marks := [62 * 8192] }))
      (fun u => decide (((u.tileOf t0).arrAcc.getD 0 (.clean 0)).psn = 1)) = true ∧
    (op false).acc = 0 ∧ 16 * (0 / (((op false).n + 15) / 16)) = 0 := by
  refine ⟨?_, ?_, ?_, ?_, ?_, ?_, ?_, ?_⟩ <;> decide +kernel

/-! ### A launch's strands, parts of a fleet that go on, boots with failed wires, the curator's core -/

/-- An image whose one record is the code of core 0 of tile (0, 0): 64 bytes. -/
def coded : List Byte := ((header 6).set 12 1).set 16 144 ++ [1, 0, 0, 0, 0, 0, 0, 0, 64, 0, 0, 0, 0, 0, 0, 0] ++ List.replicate 64 0

/-- The queued packet for a slot with that image. -/
def startable : State := { submitted true 6 1 with cats := powered.cats.put 0 ⟨.resident, coded, true, [], false⟩ }

theorem witness_HostSide_strands :
    (parseImage coded).hasStrand 0 0 0 = true ∧ (parseImage coded).hasStrand 0 0 1 = false ∧
    launchReason (consume startable 0 (headPacket startable 0)) (some 0) (takeSlot (consume startable 0 (headPacket startable 0)) 0).read
      (headPacket startable 0) [] = 0 ∧
    next (exec (.packetRead 0) startable) (fun u => decide (u.cores.map (fun p => p.1) = [st0] ∧
      (u.coreOf st0).status = .running ∧ (u.coreOf st0).pc = 0)) = true := by
  refine ⟨?_, ?_, ?_, ?_⟩ <;> decide +kernel

/-- A launch whose parts run; what of its own part has ended, and where the others stand. -/
def launched (parts : List FleetPart) (gone stands : Option Nat) : FleetLaunch :=
  ⟨[], [], took, none, 0, 1, [], [(0, 0), (1, 0)], parts, true, gone, stands⟩

/-- A fleet of two wafers whose leader's part has ended at tick 5 while the other goes on. -/
def leading (wafer : Nat) (stands : Option Nat) : State :=
  { withClaim fun c => { c with fleet := true, wafer := wafer, tick := 5, run := .ended 5 true } with
    power := .running, fleet := some (wafer, 2, 1), fleetLaunch := some (launched [⟨0, 0, 0, 0, 0, 5, none⟩] (some 0) stands) }

/-- The same with a mailbox command under way. -/
def askedFor (op : Byte) (stands : Option Nat) : State :=
  { leading 0 stands with mbox := { Mailbox.reset with op := op, busy := true, hop := op } }

theorem parts_go_on : PartsGoOn (leading 0 none) 0 (launched [⟨0, 0, 0, 0, 0, 5, none⟩] (some 0) none) ∧
    PartsGoOn (leading 0 (some 8191)) 0 (launched [⟨0, 0, 0, 0, 0, 5, none⟩] (some 0) (some 8191)) ∧
    PartsGoOn (askedFor 7 none) 0 (launched [⟨0, 0, 0, 0, 0, 5, none⟩] (some 0) none) :=
  ⟨⟨by decide +kernel, by decide +kernel, Or.inr (Or.inr ⟨5, true, by decide +kernel⟩), by decide +kernel, by decide +kernel⟩,
    ⟨by decide +kernel, by decide +kernel, Or.inr (Or.inr ⟨5, true, by decide +kernel⟩), by decide +kernel, by decide +kernel⟩,
    by decide +kernel, by decide +kernel, Or.inr (Or.inr ⟨5, true, by decide +kernel⟩), by decide +kernel, by decide +kernel⟩

theorem parts_gone (s : State) (h : (s.claimOf 0).fleet = false) (f : FleetLaunch) : ¬ PartsGoOn s 0 f := by
  rintro ⟨a, -⟩
  rw [h] at a
  cases a

/-- The messages of an outcome's next state. -/
def tells (o : Host.Outcome State Fault Refusal) (l : List FleetMessage) : Bool := next o fun u => decide (u.fleetMsgs = l)

theorem witness_CuratorCommands_parts :
    ((base.claimOf 0).fleet = false ∧ base.power ≠ .safe ∧ (leading 0 none).power ≠ .safe) ∧
    tells (exec (.preempt (mbArgs 0 0 0)) (leading 0 none)) [.request 7 8191] = true ∧
    tells (exec (.abort (mbArgs 0 0 0)) (leading 0 none)) [.request 9 8191] = true ∧
    tells (exec (.abort (mbArgs 0 0 0)) (leading 0 (some 8191))) [.request 9 8191] = true ∧
    (tells (exec (.resume (mbArgs 0 0 0)) (leading 0 (some 8191))) [.request 8 8191] = true ∧
      result (.resume (mbArgs 0 0 0)) (leading 0 (some 8191)) = some (0, true)) ∧
    result (.resume (mbArgs 0 0 0)) (leading 0 none) = some (1, true) ∧
    result (.preempt (mbArgs 0 0 0)) (leading 0 (some 8191)) = some (1, true) ∧
    next (exec (.restart (mbArgs 0 0 0)) (leading 0 none)) (fun u => decide (u.claims = [] ∧ u.mbox = State.reset.mbox)) = true := by
  refine ⟨?_, ?_, ?_, ?_, ?_, ?_, ?_, ?_⟩ <;> decide +kernel

/-- What a boot finds whose only failures are wires and bypasses. -/
def wired (wires : List (Nat × Nat × Side)) (bypass : List (Nat × Nat)) : BootFindings :=
  { boots [] [] [] with failedBypass := bypass, failedWires := wires }

/-- The shifts, the links on detours and Lh that a boot leaves. -/
def bootLinks (i : Instr) (skips : Skips) (links : List (Nat × Nat × Side)) (lh : Nat) : Bool :=
  next (exec i State.reset) fun u => decide (u.retiredTiles = skips ∧ u.detours = links ∧ u.lh = lh)

/-- R13, R14: failed wires between physical columns 2 and 3 of a row of field 13 are passed by a shift of the row; with a failed
bypass the link is placed on a detour and Lh is 8. -/
theorem witness_BootAndMeasurements_wires :
    bootLinks (.powerOn (wired [] [])) [] [] 6 = true ∧
    next (exec (.powerOn (wired [(15, 13, .east)] [])) State.reset)
      (fun u => decide (u.detours = [] ∧ u.lh = 6 ∧ u.retiredTiles.length = 1)) = true ∧
    bootLinks (.powerOn (wired [(15, 13, .east)] [(13, 1)])) [] [(14, 13, .east)] 8 = true ∧
    (13 * (13 % 12) + 2, 12 * (13 / 12) + 1) = (15, 13) ∧ (12 * (13 % 12) + 2 = 14) := by
  refine ⟨?_, ?_, ?_, ?_, ?_⟩ <;> decide +kernel

/-- Words of RV32IMC by its manual: addi x1, x0, 5; c.li x10, 1; mul x3, x1, x2; and none for ebreak and the word of zeros. -/
theorem test_rv_words : rvDecode 0x00500093 = some (.alui .add 1 0 5) ∧ rvCompressed 0x4505 = some (.alui .add 10 0 1) ∧
    rvDecode 0x022081B3 = some (.alu .mul 3 1 2) ∧ rvDecode 0x00100073 = none ∧ rvCompressed 0 = none := by decide +kernel

/-- The curator's core after a step of wall time, with addi x1, x0, 5 at its program counter. -/
theorem test_curator_step :
    (let s := powered.modCtl .curator fun x => { x with mem := [(0, 0x93), (2, 0x50)] }
     (stepCurator s).curator.x.at 1 = 5 ∧ (stepCurator s).curator.pc = 4) := by decide +kernel

theorem witness_FirmwareAndFleet_parts :
    -- requests outstanding: a message on its way, a command that waits on the parts, a queue that drains
    (requestsOut base .curator = false ∧
      requestsOut (base.plan ⟨0, 9, phStop, 0, 0, 8, none, none, 0, 0, .ev (.managementSidebandMessage (.request 7 9))⟩) .curator = true ∧
      requestsOut (askedFor 7 none) .curator = true ∧
      requestsOut { powered with queues := powered.queues.put 0 { someQueue 1 0 with disabling := true } } .curator = true) ∧
    -- the end of the launch that the leader tells
    ((leading 1 none).fleetLaunch = some (launched [⟨0, 0, 0, 0, 0, 5, none⟩] (some 0) none) ∧ ((leading 1 none).claimOf 0).wafer ≠ 0 ∧
      ((leading 1 none).claimOf 0).run = .ended 5 true ∧
      next (exec (.managementSidebandMessage .launchEnded) (leading 1 none)) (fun u => decide (u.fleetLaunch = none)) = true ∧
      next (exec (.managementSidebandMessage .launchEnded) (leading 0 none)) (fun u => decide (u.fleetLaunch.isSome)) = true) ∧
    -- a wafer's own part ends: the leader's and another's
    (let s := fun w : Nat => { withClaim fun c => { c with fleet := true, wafer := w, tick := 5 } with
       power := .running, fleet := some (w, 2, 1), fleetLaunch := some (launched [] none none) }
     (∀ w ∈ [0, 1], isLive (s w) 0 = true ∧ (launched [] none none).parts.length + 1 < 2) ∧
     next (exec (.claimEvaluation 0) (s 1)) (fun u => decide (u.fleetMsgs.length = 1 ∧
       (u.fleetLaunch.map fun f => f.gone) = some (some (s 1).wall) ∧ (claimAt u 0 0).isSome = true)) = true ∧
     next (exec (.claimEvaluation 0) (s 0)) (fun u => decide (u.fleetMsgs = [] ∧
       (u.fleetLaunch.map fun f => f.parts.length) = some 1 ∧ (claimAt u 11 11).isSome = true)) = true) ∧
    -- the last part
    (next (exec (.managementSidebandMessage (.partEnded 1 0 0 0 0 9 none)) (askedFor 7 none)) (fun u =>
        decide (u.fleetLaunch = none ∧ u.fleetMsgs = [.launchEnded] ∧ u.mbox.result = 1 ∧ u.mbox.done = true)) = true ∧
      next (exec (.managementSidebandMessage (.partEnded 1 0 0 0 0 9 none)) (askedFor 9 none)) (fun u =>
        decide (u.mbox.result = 0 ∧ u.mbox.res0 = 9 ∧ u.mbox.done = true)) = true) ∧
    -- what the other wafer says of a boundary where the leader's part has ended
    (((askedFor 7 none).claimOf 0).parley = none ∧ ((askedFor 7 none).claimOf 0).answers = [] ∧
      next (exec (.managementSidebandMessage (.boundary 1 8192 true)) (askedFor 7 none)) (fun u =>
        decide ((u.fleetLaunch.map fun f => f.stands) = some (some 8192) ∧ u.mbox.done = true)) = true ∧
      next (exec (.managementSidebandMessage (.boundary 1 8192 false)) (askedFor 7 none)) (fun u =>
        decide ((u.fleetLaunch.map fun f => f.stands) = some none ∧ u.mbox.done = false)) = true ∧
      next (exec (.managementSidebandMessage (.boundary 1 8192 true)) { askedFor 7 none with fleet := some (0, 3, 1) }) (fun u =>
        decide ((u.fleetLaunch.map fun f => f.stands) = some none ∧ (u.claimOf 0).answers.length = 2)) = true) := by
  refine ⟨?_, ?_, ?_, ?_, ?_⟩ <;> decide +kernel

end Sys2Proof.Tests
end

namespace Sys2Proof.Machine

/-! ## How a state with canonical memories is put together -/

section Building
variable {s a b : State}

/-- Both branches of a choice are canonical. -/
theorem MemoryCanonical.ite {c : Prop} [Decidable c] (ha : MemoryCanonical a) (hb : MemoryCanonical b) :
    MemoryCanonical (if c then a else b) := by
  split
  · exact ha
  · exact hb

/-- A run of operations that each keep the canonical form keeps it. -/
theorem MemoryCanonical.foldl {α : Type} {f : State → α → State}
    (hf : ∀ (s : State) (x : α), MemoryCanonical s → MemoryCanonical (f s x)) (l : List α) {s : State}
    (h : MemoryCanonical s) : MemoryCanonical (l.foldl f s) := by
  induction l generalizing s with
  | nil => exact h
  | cons x l ih => exact ih (hf s x h)

/-- Replacing a tile by one with the same SRAM keeps the module canonical. -/
theorem MemoryCanonical.setTileSame (h : MemoryCanonical s) {t : TileId} {x : Tile} (hx : x.sram = (s.tileOf t).sram) :
    MemoryCanonical (s.setTile t x) := h.setTile t (hx ▸ h.tileOf t)

/-- A change of every tile that keeps its SRAM keeps the module canonical. -/
theorem MemoryCanonical.mapTiles (h : MemoryCanonical s) {f : TileId × Tile → TileId × Tile}
    (hf : ∀ p : TileId × Tile, p.2.sram.wf = true → (f p).2.sram.wf = true) :
    MemoryCanonical { s with tiles := s.tiles.map f } := by
  refine ⟨h.1, fun q hq => ?_, h.2.2⟩
  obtain ⟨p, hp, rfl⟩ := List.mem_map.mp hq
  exact hf p (h.2.1 p hp)

end Building

/-! ## What may follow a step -/

/-- Every state that an outcome leads to has canonical memories. -/
def OutcomeCanonical (o : Host.Outcome State Fault Refusal) : Prop := ∀ u, o = .next u → MemoryCanonical u

section Frames
variable {s : State} {cls : SlotClass} {g : Guard} {v : Bool}

theorem OutcomeCanonical.next (h : MemoryCanonical s) : OutcomeCanonical (.next s) := fun _ hu => by
  cases hu
  exact h

/-- Both branches of a choice of outcomes are canonical. -/
theorem OutcomeCanonical.ite {c : Prop} [Decidable c] {a b : Host.Outcome State Fault Refusal} (ha : OutcomeCanonical a)
    (hb : OutcomeCanonical b) : OutcomeCanonical (if c then a else b) := by
  split
  · exact ha
  · exact hb

theorem OutcomeCanonical.fault (f : Fault) : OutcomeCanonical (.fault f) := fun _ hu => nomatch hu

theorem OutcomeCanonical.refused (r : Refusal) : OutcomeCanonical (.refused r) := fun _ hu => nomatch hu

/-- A guarded syllable keeps the canonical form where its effect does. -/
theorem guarded_canonical {eff : State → State} (h : MemoryCanonical s)
    (he : ∀ s, MemoryCanonical s → MemoryCanonical (eff s)) : OutcomeCanonical (guarded s cls g v eff) := fun _ hu =>
  guarded_kept (fun _ => taintIf_canonical s _ h) (fun _ _ => fault_canonical s cls _ _ h)
    (fun _ => he _ (taintIf_canonical s _ h)) hu

/-- An unguarded syllable keeps it where its effect does. -/
theorem always_canonical {eff : State → State} (h : MemoryCanonical s)
    (he : ∀ s, MemoryCanonical s → MemoryCanonical (eff s)) : OutcomeCanonical (always s cls v eff) := fun _ hu =>
  always_kept (fun _ _ => fault_canonical s cls _ _ h) (he _ h) hu

/-- A lane syllable keeps it where its effect does. -/
theorem laned_canonical {eff : Mask → State → State} (h : MemoryCanonical s)
    (he : ∀ m s, MemoryCanonical s → MemoryCanonical (eff m s)) : OutcomeCanonical (laned s cls g v eff) := fun _ hu =>
  laned_kept (fun _ _ => fault_canonical s cls _ _ h) (fun _ _ => he _ _ (taintIf_canonical s _ h)) hu

/-- A guarded syllable with checks keeps it where its effect does. -/
theorem guardedC_canonical {c : Check} {eff : State → State} (h : MemoryCanonical s)
    (he : ∀ s, MemoryCanonical s → MemoryCanonical (eff s)) : OutcomeCanonical (guardedC s cls g v c eff) := fun _ hu =>
  guardedC_kept (fun _ => taintIf_canonical s _ h) (fun _ _ => fault_canonical s cls _ _ h)
    (fun _ => he _ (taintIf_canonical s _ h)) hu

/-- An unguarded syllable with checks keeps it where its effect does. -/
theorem alwaysC_canonical {c : Check} {eff : State → State} (h : MemoryCanonical s)
    (he : ∀ s, MemoryCanonical s → MemoryCanonical (eff s)) : OutcomeCanonical (alwaysC s cls v c eff) := fun _ hu =>
  alwaysC_kept (fun _ _ => fault_canonical s cls _ _ h) (he _ h) hu

/-- A lane syllable with checks keeps it where its effect does. -/
theorem lanedC_canonical {c : Mask → Check} {eff : Mask → State → State} (h : MemoryCanonical s)
    (he : ∀ m s, MemoryCanonical s → MemoryCanonical (eff m s)) : OutcomeCanonical (lanedC s cls g v c eff) := fun _ hu =>
  lanedC_kept (fun _ _ => fault_canonical s cls _ _ h) (fun _ _ => he _ _ (taintIf_canonical s _ h)) hu

/-- A wait form keeps it where the effect of the met condition does. -/
theorem waits_canonical {r : WaitResult} {m : Bool} {e : State} (h : MemoryCanonical s) (he : MemoryCanonical e) :
    OutcomeCanonical (waits s cls r m e) := fun _ hu =>
  waits_kept (fun _ _ => fault_canonical s cls _ _ h) (modCore_canonical _ _ _ (taintIf_canonical s m h)) he hu

end Frames

/-! ## The forms whose only effect is a result -/

section Results
variable {s : State}

theorem sBin_canonical {o : SG3 6 6 6} {n : Nat} {f : Word → Word → Word} (h : MemoryCanonical s) :
    OutcomeCanonical (sBin s o n f) := guarded_canonical h fun _ hs => hs

theorem sUn_canonical {o : SG2 6 6} {f : Word → Word} (h : MemoryCanonical s) : OutcomeCanonical (sUn s o f) :=
  guarded_canonical h fun _ hs => hs

theorem sImm_canonical {sl : SSlot} {d : Dst 6} {x : Src 6} {f : Word → Word} (h : MemoryCanonical s) :
    OutcomeCanonical (sImm s sl d x f) := always_canonical h fun _ hs => hs

theorem execSel_canonical {o : SG3 6 6 6} (h : MemoryCanonical s) : OutcomeCanonical (execSel o s) :=
  always_canonical h fun s hs => taintIf_canonical s _ hs

theorem vBin_canonical {T : Type} {o : VG3 6 6 6 T} {n : Nat} {f : Vec → Vec → Vec} (h : MemoryCanonical s) :
    OutcomeCanonical (vBin s o n f) := laned_canonical h fun _ _ hs => hs

theorem vUn_canonical {T : Type} {o : VG2 6 6 T} {n : Nat} {f : Vec → Vec} (h : MemoryCanonical s) :
    OutcomeCanonical (vUn s o n f) := laned_canonical h fun _ _ hs => hs

theorem vTri_canonical {T : Type} {o : VG4 6 6 T} {n : Nat} {f : Vec → Vec → Vec → Vec} (h : MemoryCanonical s) :
    OutcomeCanonical (vTri s o n f) := laned_canonical h fun _ _ hs => hs

theorem vCmp_canonical {T : Type} {o : VG3 4 6 6 T} {n : Nat} {p : Nat → Nat → Bool} (h : MemoryCanonical s) :
    OutcomeCanonical (vCmp s o n p) := laned_canonical h fun _ _ hs => hs

theorem execVsel_canonical {o : VG3 6 6 6 Fmt} (h : MemoryCanonical s) : OutcomeCanonical (execVsel o s) :=
  always_canonical h fun s hs => taintIf_canonical s _ hs

theorem vMove_canonical {o : VG3 6 6 6 Fmt} {v : Bool} {f : State → Vec} {p : State → Bool} (h : MemoryCanonical s) :
    OutcomeCanonical (vMove s o v f p) := laned_canonical h fun _ _ hs => hs

theorem vPair_canonical {o : VG3 5 6 6 Fmt} {f : Nat → Vec → Vec → List Nat} (h : MemoryCanonical s) :
    OutcomeCanonical (vPair s o f) := laned_canonical h fun _ _ hs => hs

theorem vReduce_canonical {o : VG2 6 6 Fmt} {f : Nat → Nat → Nat} (h : MemoryCanonical s) :
    OutcomeCanonical (vReduce s o f) := guarded_canonical h fun _ hs => hs

theorem kBin_canonical {o : VG3 4 4 4 Unit} {f : Mask → Mask → Mask} (h : MemoryCanonical s) :
    OutcomeCanonical (kBin s o f) := guarded_canonical h fun _ hs => hs

end Results

/-! ## Conversions (spec/06) -/

section Conversions
variable {s : State}

theorem takeIf_canonical {m : Rnd} (h : MemoryCanonical s) : MemoryCanonical (takeIf m s) := .ite h h

theorem execCvt_canonical {o : XF 6 6 Fmt Fmt} (h : MemoryCanonical s) : OutcomeCanonical (execCvt o s) :=
  always_canonical h fun s hs => takeIf_canonical (s := s) hs

theorem execVpk_canonical {o : XF 6 5 Fmt Fmt} (h : MemoryCanonical s) : OutcomeCanonical (execVpk o s) :=
  always_canonical h fun s hs => takeIf_canonical (s := s) hs

theorem execQblk_canonical {o : XF 6 6 Fam BTy} (h : MemoryCanonical s) : OutcomeCanonical (execQblk o s) :=
  always_canonical h fun s hs => takeIf_canonical (s := s) hs

theorem execDqblk_canonical {o : XF 6 6 BTy Fam} (h : MemoryCanonical s) : OutcomeCanonical (execDqblk o s) := by
  refine always_canonical h fun s hs => ?_
  have hw := takeIf_canonical (m := o.rnd) hs
  dsimp only
  split
  · exact hw
  · exact hw

end Conversions

/-! ## The matrix unit (spec/09) -/

section Matrix
variable {s : State} {t : TileId}

theorem stage_canonical {o : ES} {r : Orient} (h : MemoryCanonical s) : OutcomeCanonical (stage s o r) := by
  unfold stage
  refine alwaysC_canonical h fun s hs => MemoryCanonical.foldl (fun s _ hs => plan_canonical s _ hs) _ ?_
  exact (addBookings_canonical _ _ (taintIf_canonical s _ hs)).modTile _ fun _ hx => hx

theorem transferRow_canonical {p : StageStep} (h : MemoryCanonical s) : MemoryCanonical (transferRow s t p) := by
  cases p with
  | read => exact checkRead_canonical s _ _ _ _ h
  | write => exact commitBytes_canonical s _ _ _ _ h

theorem execMshape_canonical {sh : BitVec 2} {b : BitVec 4} {ofs : BitVec 10} {g : Guard} (h : MemoryCanonical s) :
    OutcomeCanonical (execMshape sh b ofs g s) := by
  unfold execMshape
  refine guardedC_canonical h fun s hs => land_canonical _ _ _ _ ?_
  exact checkRead_canonical _ _ _ _ _ (addBookings_canonical _ _ (taintIf_canonical s _ hs))

theorem planMma_canonical {o : MmaOp} (h : MemoryCanonical s) : MemoryCanonical (planMma s t o) :=
  plan_canonical _ _ <| MemoryCanonical.foldl (fun _ _ hs => plan_canonical _ _ <|
    MemoryCanonical.foldl (fun s _ hs => plan_canonical s _ hs) _ hs) _ h

theorem acceptMma_canonical {r : Vec} {x y z : Bool} (h : MemoryCanonical s) : MemoryCanonical (acceptMma s r x y z) :=
  planMma_canonical (modClaim_canonical _ _ _ (h.setTile _ (h.tileOf _)))

theorem execMma_canonical {sh : BitVec 2} {x y z : Bool} {g : Guard} (h : MemoryCanonical s) :
    OutcomeCanonical (execMma sh x y z g s) :=
  guardedC_canonical h fun s hs => acceptMma_canonical (taintIf_canonical s _ hs)

theorem touchArray_canonical {b : BitVec 6} (h : MemoryCanonical s) : MemoryCanonical (touchArray s t b) :=
  h.modTile _ fun _ hx => hx

theorem groupAdd_canonical {o : MmaOp} {b g : Nat} (h : MemoryCanonical s) : MemoryCanonical (groupAdd s t o b g) := by
  unfold groupAdd
  refine MemoryCanonical.setTileSame (checkRead_canonical _ _ _ _ _ (checkRead_canonical _ _ _ _ _ ?_)) rfl
  exact .ite (checkRead_canonical _ _ _ _ _ (touchArray_canonical h)) h

theorem blockWrite_canonical {o : MmaOp} {b : Nat} (h : MemoryCanonical s) : MemoryCanonical (blockWrite s t o b) :=
  MemoryCanonical.foldl (fun s _ hs => commitAccRow_canonical s _ _ _ _ hs) _
    (touchArray_canonical (h.modTile _ fun _ hx => hx))

theorem accReadCheck_canonical {b : BitVec 6} {r : Nat} (h : MemoryCanonical s) :
    MemoryCanonical (accReadCheck s b r) :=
  .ite h (checkRead_canonical s _ _ _ _ h)

theorem execMaccRd_canonical {d : Dst 6} {a : BitVec 8} {r : BitVec 6} {q : BitVec 2} (h : MemoryCanonical s) :
    OutcomeCanonical (execMaccRd d a r q s) :=
  alwaysC_canonical h fun s hs => landV_canonical _ _ _ _ _ _ _ (accReadCheck_canonical (addBookings_canonical s _ hs))

theorem execMqnt_canonical {o : MS 6} {f : Fam} {x : Bool} (h : MemoryCanonical s) :
    OutcomeCanonical (execMqnt o f x s) := by
  unfold execMqnt
  refine guardedC_canonical h fun s hs => planWrite_canonical _ _ _ _ _ _ ?_
  exact MemoryCanonical.foldl (fun _ _ hs => accReadCheck_canonical hs) _
    (addBookings_canonical _ _ (taintIf_canonical s _ hs))

end Matrix


/-! ## The fabric (spec/10) -/

section Fabric
variable {s : State} {t : TileId}

theorem modDocent_canonical {f : Docent → Docent} (h : MemoryCanonical s) : MemoryCanonical (modDocent s t f) := h

theorem retime_canonical (h : MemoryCanonical s) : MemoryCanonical (retime s t) := h

theorem sendHold_canonical {q cy : Nat} {l : List TileId} (h : MemoryCanonical s) :
    MemoryCanonical (sendHold s t q cy l) := by
  refine MemoryCanonical.foldl (fun s o hs => ?_) _ h
  exact .ite hs hs

theorem holdOut_canonical {q cy : Nat} {p : Option Nat} (h : MemoryCanonical s) :
    MemoryCanonical (holdOut s t q cy p) :=
  .ite h h

theorem raiseHoldAt_canonical {q cy : Nat} (h : MemoryCanonical s) : MemoryCanonical (raiseHoldAt s t q cy) :=
  holdOut_canonical (sendHold_canonical (modDocent_canonical (h.modTile t fun _ hx => hx)))

theorem raiseHold_canonical {q : Nat} (h : MemoryCanonical s) : MemoryCanonical (raiseHold s t q) :=
  raiseHoldAt_canonical h

theorem engineHold_canonical {q : Nat} (h : MemoryCanonical s) : MemoryCanonical (engineHold s t q) :=
  holdOut_canonical (sendHold_canonical h)

theorem notePeak_canonical {ws : List Nat} (h : MemoryCanonical s) : MemoryCanonical (notePeak s t ws) :=
  h.modTile t fun _ hx => hx

/-- A tile's standing still is counted without a change of its SRAM. -/
theorem stand_canonical {w f : Nat} (h : MemoryCanonical s) : MemoryCanonical (s.modTile t fun x => x.stand w f) :=
  h.modTile t fun _ hx => hx

theorem addLag_canonical {f : Nat} (h : MemoryCanonical s) : MemoryCanonical (addLag s t f) := by
  refine .ite h (notePeak_canonical (retime_canonical (stand_canonical ?_)))
  exact .ite ((raiseHold_canonical h).modTile t fun _ hx => hx) h

theorem seeStop_canonical {ws : List Nat} (h : MemoryCanonical s) : MemoryCanonical (seeStop s t ws) := by
  unfold seeStop
  dsimp only
  have hn := notePeak_canonical (t := t) (ws := ws) h
  generalize List.find? _ ws = w
  split
  · exact hn
  · exact (raiseHoldAt_canonical hn).modTile t fun _ hx => hx

theorem lagTile_canonical (h : MemoryCanonical s) : MemoryCanonical (lagTile s t) := by
  have hr : MemoryCanonical (if highAt s t (cycleOf s t) 0 && !(s.tileOf t).lagHigh then raiseHold s t (lagOf s t) else s) :=
    .ite (raiseHold_canonical h) h
  exact .ite hr (notePeak_canonical (hr.modTile t fun _ hx => hx))

theorem lagTick_canonical {cl : Nat} (h : MemoryCanonical s) : MemoryCanonical (lagTick s cl) :=
  .ite h (.foldl (fun _ _ hs => lagTile_canonical hs) _ h)

theorem noteDrift_canonical {d : Side} {x : BitVec 16} {n : Nat} (h : MemoryCanonical s) :
    MemoryCanonical (noteDrift s t d x n) := by
  have hm := h.modTile t (f := fun y => { y with dir := y.dir ||| (1 <<< (sideIndex d)), delta := x }) fun _ hx => hx
  exact .ite h (.ite (claimFault_canonical _ _ _ _ hm) hm)

theorem driftTile_canonical (h : MemoryCanonical s) : MemoryCanonical (driftTile s t) := by
  refine MemoryCanonical.foldl (fun s d hs => ?_) _ h
  split
  · exact hs
  · exact noteDrift_canonical hs

theorem driftTick_canonical {cl : Nat} (h : MemoryCanonical s) : MemoryCanonical (driftTick s cl) :=
  .ite h (.foldl (fun _ _ hs => driftTile_canonical hs) _ h)

theorem claimLocal_canonical {g : BitVec 12} (h : MemoryCanonical s) : MemoryCanonical (claimLocal s t g).1 := by
  unfold claimLocal
  split
  · exact claimFault_canonical s _ _ _ h
  · exact h.modTile t fun _ hx => hx

theorem enterLanding_canonical {e : LandEntry} (h : MemoryCanonical s) : MemoryCanonical (enterLanding s t e) :=
  .ite (claimFault_canonical s _ _ _ h) (h.modTile t fun _ hx => hx)

theorem freezeFor_canonical {g : BitVec 12} {e : Event} (h : MemoryCanonical s) : MemoryCanonical (freezeFor s t g e) :=
  .ite h (raiseHold_canonical (modClaim_canonical s _ _ h))

theorem freezeCycle_canonical {z : Freeze} (h : MemoryCanonical s) : MemoryCanonical (freezeCycle s z) := by
  refine notePeak_canonical (retime_canonical (stand_canonical ?_))
  exact .ite (raiseHold_canonical (modClaim_canonical s _ _ h)) h

theorem depositOperandRow_canonical {k : Nat} {r : MVec} {f : BitVec 6} (h : MemoryCanonical s) :
    MemoryCanonical (depositOperandRow s t k r f) := by
  have hf (c : Byte) : MemoryCanonical (claimFault s t c 0) := claimFault_canonical s _ _ _ h
  unfold depositOperandRow
  refine .ite (hf _) (.ite (hf _) (.ite (hf _) (.ite (hf _) (plan_canonical _ _ ?_))))
  exact h.modTile t fun _ hx => hx

theorem deliver_canonical {f : Flit} (h : MemoryCanonical s) : MemoryCanonical (deliver s t f) := by
  unfold deliver
  extract_lets n s'
  have hs : MemoryCanonical s' := h.modTile t fun _ hx => hx
  refine .ite (.ite ?_ (hs.modTile t fun _ hx => hx)) (.ite (enterLanding_canonical hs) (.ite ?_ ?_))
  · split
    · exact claimFault_canonical _ _ _ _ hs
    · exact planEv_canonical _ _ _ _ _ (hs.modTile t fun _ hx => hx)
  · exact planEv_canonical _ _ _ _ _ (enterLanding_canonical hs)
  · split
    · exact enterLanding_canonical hs
    · exact enterLanding_canonical hs

theorem landDue_canonical {g : BitVec 12} {n : Nat} (h : MemoryCanonical s) : MemoryCanonical (landDue s t g n) := by
  refine .ite (h.modTile t fun _ hx => hx) (.ite (claimFault_canonical _ _ _ _ ?_) (.ite (freezeFor_canonical h) h))
  exact h.modTile t fun _ hx => hx

theorem engineTakes_canonical {e : Nat} {f : Flit} (h : MemoryCanonical s) : MemoryCanonical (engineTakes s e f) := by
  unfold engineTakes
  split
  · exact .ite h h
  · exact h

theorem sendOut_canonical {d : Side} {f : Flit} (h : MemoryCanonical s) : MemoryCanonical (sendOut s t d f) := by
  unfold sendOut
  dsimp only
  split
  · exact h
  · exact h
  · exact h
  · exact .ite h h
  · exact h

theorem takePort_canonical {p : Option Side} {go : State → State} (h : MemoryCanonical s)
    (hg : ∀ s, MemoryCanonical s → MemoryCanonical (go s)) : MemoryCanonical (takePort s t p go) :=
  .ite (claimFault_canonical s _ _ _ h) (hg _ (h.modTile t fun _ hx => hx))

theorem forward_canonical {r : Route} {f : Flit} (h : MemoryCanonical s) : MemoryCanonical (forward s t r f) := by
  have ho : MemoryCanonical (r.outs.foldl (fun s d => takePort s t (some d) fun s => sendOut s t d f) s) :=
    .foldl (fun _ _ hs => takePort_canonical hs fun _ hs => sendOut_canonical hs) _ h
  exact .ite (takePort_canonical ho fun _ hs => deliver_canonical hs) ho

theorem inject_canonical {f : Flit} (h : MemoryCanonical s) : MemoryCanonical (inject s t f) := by
  unfold inject
  split
  · exact h
  · exact .ite (forward_canonical (claimLocal_canonical h)) (claimLocal_canonical h)

theorem thaw_canonical {z : Freeze} {f : Flit} (h : MemoryCanonical s) : MemoryCanonical (thaw s z f) :=
  (deliver_canonical (modClaim_canonical s _ _ h)).congr rfl rfl rfl

theorem arrive_canonical {d : Side} {n : Nat} {f : Flit} (h : MemoryCanonical s) :
    MemoryCanonical (arrive s t d n f) := by
  unfold arrive
  dsimp only
  split
  · exact thaw_canonical h
  · exact planEv_canonical _ _ _ _ _ (h.modTile t fun _ hx => hx)

theorem crossed_canonical {d : Side} {f : Transit} (h : MemoryCanonical s) : MemoryCanonical (crossed s t d f) := by
  refine .ite ?_ (arrive_canonical h)
  split
  · exact engineTakes_canonical h
  · exact engineTakes_canonical h
  · exact h
  · exact h
  · exact h

theorem routeOn_canonical {d : Side} {f : Flit} (h : MemoryCanonical s) : MemoryCanonical (routeOn s t d f) := by
  unfold routeOn
  split
  · exact claimFault_canonical s _ _ _ h
  · exact forward_canonical h

theorem release_canonical {d : Side} (h : MemoryCanonical s) : MemoryCanonical (release s t d) := by
  unfold release
  extract_lets n
  split
  · exact h
  · extract_lets s1 port s2 err s3 r
    have h1 : MemoryCanonical s1 := h.modTile t fun _ hx => hx
    have h2 : MemoryCanonical s2 := by
      unfold s2
      clear_value port
      split
      · exact h1
      · exact noteDrift_canonical h1
    have h3 : MemoryCanonical s3 := h2.modTile t fun _ hx => hx
    have hr : MemoryCanonical r.1 := by
      unfold r
      clear_value err
      split
      · exact h3
      · exact .ite h3 (uncorrectable_canonical _ _ _ _ h3)
    refine .ite h1 ?_
    split
    · exact hr
    · exact .ite hr (routeOn_canonical hr)

theorem nullError_canonical {e : Side × BitVec 5} (h : MemoryCanonical s) : MemoryCanonical (nullError s t e) := by
  have hm := h.modTile t (f := fun x => { x with linkErr := drop x.linkErr e.1 }) fun _ hx => hx
  have hu := uncorrectable_canonical _ t 15 (linkPlace e.1) hm
  refine .ite hm ?_
  split
  · exact hu
  · exact .ite hu (routeOn_canonical hu)

theorem nullErrors_canonical {cl : Nat} (h : MemoryCanonical s) : MemoryCanonical (nullErrors s cl) :=
  .foldl (fun _ _ hs => .foldl (fun _ _ hs => nullError_canonical hs) _ hs) _ h

theorem lostTick_canonical {cl : Nat} (h : MemoryCanonical s) : MemoryCanonical (lostTick s cl) := by
  refine MemoryCanonical.foldl (fun _ _ hs => MemoryCanonical.foldl (fun s _ hs => ?_) _ hs) _ h
  dsimp only
  split
  · exact hs
  · split
    · exact hs
    · exact .ite (forward_canonical hs) hs

theorem planSend_canonical {a : ArraySend} {n : Nat} (h : MemoryCanonical s) : MemoryCanonical (planSend s t a n) := by
  unfold planSend
  split
  · exact h
  · exact h

theorem startSends_canonical {o : MmaOp} (h : MemoryCanonical s) : MemoryCanonical (startSends s t o) := by
  unfold startSends
  extract_lets go
  have hg (s on slot tag f rows) (hs : MemoryCanonical s) : MemoryCanonical (go s on slot tag f rows) :=
    .ite (planSend_canonical (hs.setTileSame rfl)) hs
  exact hg _ _ _ _ _ _ (hg _ _ _ _ _ _ h)

theorem sendFlit_canonical {a : ArraySend} (h : MemoryCanonical s) : MemoryCanonical (sendFlit s t a) := by
  unfold sendFlit
  split
  · exact h
  · refine .ite (planSend_canonical h) ?_
    extract_lets x cells s1 v f s2 a' s3
    have hs : MemoryCanonical s3 :=
      (inject_canonical (checkRead_canonical s _ _ _ _ h)).modTile t fun _ hx => hx
    exact .ite hs (planSend_canonical hs)

theorem send_canonical {g : BitVec 12} {a : Src 6} {x : Bool} (h : MemoryCanonical s) :
    OutcomeCanonical (send s g a x) :=
  alwaysC_canonical h fun s hs => inject_canonical (addIntent_canonical s _ hs)

theorem receive_canonical {d : Dst 6} {g : BitVec 12} {x : Bool} (h : MemoryCanonical s) :
    OutcomeCanonical (receive s d g x) := by
  unfold receive
  refine alwaysC_canonical h fun s hs => ?_
  split
  · exact hs
  · exact land_canonical _ _ _ _ (hs.modTile _ fun _ hx => hx)

theorem execXland_canonical {a : Src 6} {n : BitVec 18} (h : MemoryCanonical s) : OutcomeCanonical (execXland a n s) :=
  alwaysC_canonical h fun s hs => plan_canonical _ _ (taintIf_canonical s _ hs)

theorem execXtag_canonical {a : Src 6} {i : BitVec 4} (h : MemoryCanonical s) : OutcomeCanonical (execXtag a i s) :=
  alwaysC_canonical h fun s hs => land_canonical _ _ _ _ (taintIf_canonical s _ hs)

theorem execTkalign_canonical (h : MemoryCanonical s) : OutcomeCanonical (execTkalign s) := by
  refine alwaysC_canonical h fun s hs => ?_
  split
  · exact hs
  · exact planEv_canonical _ _ _ _ _ (hs.modTile _ fun _ hx => hx)

theorem align_canonical (h : MemoryCanonical s) : MemoryCanonical (align s t) := by
  unfold align
  dsimp only
  split
  · have hm := h.modTile t (f := fun x => { x with pend := none }) fun _ hx => hx
    split
    · exact claimFault_canonical _ _ _ _ hm
    · exact takeFatal_canonical _ _ _ _ _ _ _ (recordFault_canonical _ _ _ hm)
  · refine h.modTile t fun x hx => ?_
    dsimp only
    split
    · exact hx
    · exact hx

theorem holdArrives_canonical {q n : Nat} (h : MemoryCanonical s) : MemoryCanonical (holdArrives s t q n) :=
  push_canonical _ _ (seeStop_canonical (retime_canonical (h.modTile t fun _ hx => hx)))

theorem holdIn_canonical {q n p : Nat} (h : MemoryCanonical s) : MemoryCanonical (holdIn s t q n p) :=
  holdArrives_canonical (holdOut_canonical (sendHold_canonical h))

theorem holdDelivered_canonical {q n : Nat} {p : Option Nat} (h : MemoryCanonical s) :
    MemoryCanonical (holdDelivered s t q n p) := by
  cases p with
  | none => exact holdArrives_canonical h
  | some => exact holdIn_canonical h

theorem droopStretch_canonical {n : Nat} (h : MemoryCanonical s) : MemoryCanonical (droopStretch s t n) :=
  addLag_canonical (modDocent_canonical (h.modTile t fun _ hx => hx))

theorem trimTile_canonical (h : MemoryCanonical s) : MemoryCanonical (trimTile s t) := by
  unfold trimTile
  extract_lets x w target acc whole s'
  have hs : MemoryCanonical s' := h.modTile t fun _ hx => hx
  exact addLag_canonical (.ite hs hs)

theorem trimWafer_canonical {l : List (Nat × Int)} (h : MemoryCanonical s) : MemoryCanonical (trimWafer s l) := by
  unfold trimWafer
  split
  · exact h
  · exact h

theorem setThrottle_canonical {n : Nat} (h : MemoryCanonical s) : MemoryCanonical (setThrottle s n) := by
  unfold setThrottle
  split
  · exact h
  · exact .ite h h

theorem railChange_canonical {f r c : Nat} {b : Bool} (h : MemoryCanonical s) :
    MemoryCanonical (railChange s f r c b) :=
  .ite h (.ite h h)

theorem upsetWheel_canonical {m : BitVec 7} (h : MemoryCanonical s) : MemoryCanonical (upsetWheel s t m) := by
  have hm := h.modTile t (f := fun x => { x with wheel := BitVec.ofNat 7 ((x.wheel ^^^ m).toNat % s.wheel) }) fun _ hx => hx
  unfold upsetWheel
  extract_lets s1 s2
  have hs : MemoryCanonical s2 := .ite hm (hm.modTile t fun _ hx => hx)
  exact hs

theorem landingLost_canonical {g : BitVec 12} {n : Nat} (h : MemoryCanonical s) :
    MemoryCanonical (landingLost s t g n) :=
  claimFault_canonical _ _ _ _ ((modClaim_canonical s _ _ h).modTile t fun _ hx => hx)

end Fabric

/-! ## Accesses to banks (spec/08, spec/12) -/

section Banks
variable {s : State} {t : TileId}

theorem mLoad_canonical {o : MA 6} {e : Size} {b : Bool} (h : MemoryCanonical s) :
    OutcomeCanonical (mLoad s o e b) := by
  unfold mLoad
  refine guardedC_canonical h fun s hs => landG_canonical _ _ _ _ _ _ ?_
  exact addBookings_canonical _ _ (checkRead_canonical _ _ _ _ _ (taintIf_canonical s _ hs))

theorem mStore_canonical {o : MS 6} {e : Size} (h : MemoryCanonical s) : OutcomeCanonical (mStore s o e) := by
  unfold mStore
  refine guardedC_canonical h fun s hs => planWrite_canonical _ _ _ _ _ _ ?_
  exact addBookings_canonical _ _ (taintIf_canonical s _ hs)

theorem laneLoad_canonical {b : BitVec 6} {m : Mask} {l : List Nat} (h : MemoryCanonical s) :
    MemoryCanonical (laneLoad s b m l).2 := checkRead_canonical s _ _ _ _ h

section
variable {g : Guard} {v ok x : Bool} {a : BitVec 56} {f : Mask → Bool} {l m : List Nat}

theorem mLoadV_canonical {d : Dst 6} (h : MemoryCanonical s) : OutcomeCanonical (mLoadV s d g v a ok f x l) := by
  unfold mLoadV
  refine lanedC_canonical h fun m s hs => .ite (landV_canonical _ _ _ _ _ _ _ hs) (landV_canonical _ _ _ _ _ _ _ ?_)
  exact laneLoad_canonical (addBookings_canonical _ _ (taintIf_canonical s _ hs))

theorem mStoreV_canonical {d : BitVec 6} (h : MemoryCanonical s) : OutcomeCanonical (mStoreV s d g v a ok f x l) := by
  unfold mStoreV
  refine lanedC_canonical h fun m s hs => .ite hs (planWrite_canonical _ _ _ _ _ _ ?_)
  exact addBookings_canonical _ _ (taintIf_canonical s _ hs)

theorem mLoadPair_canonical {d : Dst 5} (h : MemoryCanonical s) :
    OutcomeCanonical (mLoadPair s d g v a ok f x l m) := by
  unfold mLoadPair
  refine lanedC_canonical h fun m s hs => .ite (landPair_canonical _ _ _ _ _ _ _ _ hs) (planRead_canonical _ _ _ _ _ _ _ ?_)
  exact laneLoad_canonical (addBookings_canonical _ _ (taintIf_canonical s _ hs))

theorem mStorePair_canonical {d : BitVec 5} {y : Bool} (h : MemoryCanonical s) :
    OutcomeCanonical (mStorePair s d g a ok y x l m) := by
  unfold mStorePair
  refine lanedC_canonical h fun m s hs => .ite hs (planWrite_canonical _ _ _ _ _ _ ?_)
  exact addBookings_canonical _ _ (taintIf_canonical s _ hs)

end

theorem vlddAt_canonical {o : MA 6} {c : Bool} (h : MemoryCanonical s) : OutcomeCanonical (vlddAt o c s) := by
  unfold vlddAt
  refine lanedC_canonical h fun m s hs => .ite (landV_canonical _ _ _ _ _ _ _ hs) (landV_canonical _ _ _ _ _ _ _ ?_)
  exact checkRead_canonical _ _ _ _ _ (addBookings_canonical _ _ (taintIf_canonical s _ hs))

theorem mAmo_canonical {op : AmoOp} {d : Dst 6} {c : MWord} {b : BitVec 4} {x : Src 6} {g : Guard} (h : MemoryCanonical s) :
    OutcomeCanonical (mAmo s op d c b x g) := by
  unfold mAmo
  refine guardedC_canonical h fun s hs => planRead_canonical _ _ _ _ _ _ _ ?_
  exact addBookings_canonical _ _ (taintIf_canonical s _ hs)

theorem checked_canonical {u : State} {cls : SlotClass} {c : Check} (h : MemoryCanonical s) (hu : MemoryCanonical u) :
    MemoryCanonical (s.checked cls c u) := checked_kept (fun _ _ => fault_canonical s cls _ _ h) hu

theorem mRed_canonical {k : RedKind} {o : MXS} (h : MemoryCanonical s) : OutcomeCanonical (mRed s k o) := by
  unfold mRed
  dsimp only
  split
  · exact .next (fault_canonical s _ _ _ h)
  · exact .next (checked_canonical h (plan_canonical _ _ (taintIf_canonical _ _ (taintIf_canonical s _ h))))

end Banks

/-! ## Streams and bank switching (spec/07, spec/08) -/

section Switching
variable {s : State} {t : TileId}

theorem execSpush_canonical {m : BitVec 6} {a : Src 6} {g : Guard} (h : MemoryCanonical s) :
    OutcomeCanonical (execSpush m a g s) := by
  unfold execSpush
  refine lanedC_canonical h fun m s hs => .ite hs (land_canonical _ _ _ _ (planWrite_canonical _ _ _ _ _ _ ?_))
  exact addBookings_canonical s _ hs

theorem execSpop_canonical {d : Dst 6} {m : BitVec 6} {g : Guard} (h : MemoryCanonical s) :
    OutcomeCanonical (execSpop d m g s) := by
  have ht := taintIf_canonical s (anyPsn (s.guard g).psn) h
  unfold execSpop
  dsimp only
  split
  · exact .next ht
  · exact waits_canonical h (checked_canonical h (planRead_canonical _ _ _ _ _ _ _ (land_canonical _ _ _ _
      (addBookings_canonical _ _ ht))))

theorem change_canonical {n : List (BitVec 2 × BitVec 6)} {m : List (BitVec 2 × BitVec 6 × MapEntry)} {c : MapChange}
    (h : MemoryCanonical s) : MemoryCanonical (change s n m c) := by
  refine plan_canonical _ _ (MemoryCanonical.foldl (fun s x hs => ?_) _ (addIntent_canonical s _ h))
  exact hs

theorem execBgive_canonical {o : XB} {c : BitVec 2} {u : BitVec 6} (h : MemoryCanonical s) :
    OutcomeCanonical (execBgive o c u s) := guardedC_canonical h fun _ hs => change_canonical hs

theorem execBlend_canonical {o : XB} {u : BitVec 6} {m : BitVec 4} (h : MemoryCanonical s) :
    OutcomeCanonical (execBlend o u m s) := guardedC_canonical h fun _ hs => change_canonical hs

theorem execBback_canonical {o : XB} (h : MemoryCanonical s) : OutcomeCanonical (execBback o s) := by
  unfold execBback
  dsimp only
  split
  · exact guardedC_canonical h fun _ hs => hs
  · exact guardedC_canonical h fun _ hs => hs
  · exact guardedC_canonical h fun _ hs => hs
  · exact guardedC_canonical h fun _ hs => change_canonical hs
  · exact guardedC_canonical h fun _ hs => change_canonical hs
  · split
    · exact guardedC_canonical h fun _ hs => hs
    · split
      · exact guardedC_canonical h fun _ hs => hs
      · exact guardedC_canonical h fun _ hs => change_canonical hs

theorem rotate_canonical {o : XB} {r : Bool} (h : MemoryCanonical s) : OutcomeCanonical (rotate s o r) := by
  unfold rotate
  refine guardedC_canonical h fun s hs => ?_
  extract_lets s'
  have hi : MemoryCanonical s' := addIntent_canonical _ _ (addIntent_canonical s _ hs)
  exact .ite (change_canonical hi) (plan_canonical _ _ hi)

theorem settleOwner_canonical {b : BitVec 6} (h : MemoryCanonical s) : MemoryCanonical (settleOwner s t b) := by
  refine .ite (MemoryCanonical.foldl (fun s x hs => ?_) _ h) h
  exact hs

theorem applyChange_canonical {c : MapChange} (h : MemoryCanonical s) : MemoryCanonical (applyChange s t c) := by
  cases c with
  | give => exact h
  | back => exact h
  | lend =>
    refine modCore_canonical _ _ _ (MemoryCanonical.foldl (fun s x hs => ?_) _ h)
    exact hs
  | withdraw =>
    refine settleOwner_canonical (MemoryCanonical.foldl (fun s x hs => ?_) _ h)
    exact hs
  | rotate slot rev banks =>
    refine MemoryCanonical.foldl (fun s p hs => ?_) _ h
    dsimp only
    split
    · exact hs
    · exact MemoryCanonical.modTile (modCore_canonical s _ _ hs) t fun _ hx => hx

theorem applyWithdrawals_canonical (h : MemoryCanonical s) : MemoryCanonical (applyWithdrawals s t) := by
  refine MemoryCanonical.foldl (fun s p hs => ?_) _ h
  split
  · exact hs
  · exact hs
  · exact hs
  · exact hs
  · exact hs
  · exact hs

theorem execBzero_canonical {o : XB} (h : MemoryCanonical s) : OutcomeCanonical (execBzero o s) := by
  unfold execBzero
  refine guardedC_canonical h fun s hs => MemoryCanonical.foldl (fun s j hs => ?_) _ (addBookings_canonical s _ hs)
  exact hs

theorem execBcopy_canonical {o : XB} {u : BitVec 6} {p n : BitVec 4} (h : MemoryCanonical s) :
    OutcomeCanonical (execBcopy o u p n s) := by
  unfold execBcopy
  refine guardedC_canonical h fun s hs => MemoryCanonical.foldl (fun s j hs => ?_) _ (addBookings_canonical s _ hs)
  exact hs

end Switching

/-! ## Staging (spec/11) -/

section Staging
variable {s : State} {k : CtxId} {st : StrandId} {t : TileId}

theorem execStgSet_canonical {c : BitVec 8} {r : CtxReg} {a : Src 6} (h : MemoryCanonical s) :
    OutcomeCanonical (execStgSet c r a s) :=
  alwaysC_canonical h fun s hs => land_canonical _ _ _ _ (taintIf_canonical s _ hs)

theorem stgGo_canonical {c : BitVec 8} (h : MemoryCanonical s) : OutcomeCanonical (stgGo s c) :=
  alwaysC_canonical h fun _ hs => land_canonical _ _ _ _ hs

theorem execStgRd_canonical {d : BitVec 6} {c : BitVec 8} {r : CtxName} (h : MemoryCanonical s) :
    OutcomeCanonical (execStgRd d c r s) := .next (.ite h h)

theorem execTlWait_canonical {c : BitVec 8} {a : Src 4} (h : MemoryCanonical s) :
    OutcomeCanonical (execTlWait c a s) := by
  unfold execTlWait
  split
  · exact .next (fault_canonical s _ _ _ h)
  · exact waits_canonical h (taintIf_canonical s _ h)

/-- A walk that fills the TLB changes at most the record of an error and the TLB itself. The walk and its use stand as
variables in the proof: the kernel unfolds the matches on a walk before `walkFill`, and then counts up to the root's bound. -/
theorem walkFill_canonical {e v : Nat} (h : MemoryCanonical s) :
    MemoryCanonical (walkFill s e t v).1 := by
  obtain ⟨find, hw⟩ : ∃ find, find = @walk := ⟨_, rfl⟩
  obtain ⟨fill, hf⟩ : ∃ fill, fill = @walkFill := ⟨_, rfl⟩
  rw [← hf]
  delta walkFill at hf
  rw [← hw] at hf
  subst hf
  beta_reduce
  extract_lets cl w s'
  have hs : MemoryCanonical s' := by
    unfold s'
    clear_value w
    split
    · exact h
    · exact uncorrectable_canonical s _ _ _ h
  clear_value s' w
  split
  · exact hs
  · exact hs

theorem lookup_canonical {e v : Nat} {w : Bool} (h : MemoryCanonical s) : MemoryCanonical (lookup s e t v w).1 := by
  have hf : MemoryCanonical { s with free := s.free + 1 } := h
  unfold lookup
  split
  · exact walkFill_canonical h
  · split
    · exact walkFill_canonical hf
    · dsimp only
      split
      · exact walkFill_canonical hf
      · exact hf

theorem translate_canonical {e n : Nat} {w : Bool} {a : Quad} (h : MemoryCanonical s) :
    MemoryCanonical (translate s st e w a n).1 := by
  have key (l : List Nat) (acc : State × List (Nat × Option (Nat × BitVec 64))) (ha : MemoryCanonical acc.1) :
      MemoryCanonical (l.foldl (fun acc p =>
        let q := lookup acc.1 e st.tile (p * 65536) w
        (q.1, (p, q.2) :: acc.2)) acc).1 := by
    induction l generalizing acc with
    | nil => exact ha
    | cons p l ih => exact ih _ (lookup_canonical ha)
  exact key _ (s, []) h

theorem planCtx_canonical {cl n ph r f : Nat} {e : Event} (h : MemoryCanonical s) :
    MemoryCanonical (planCtx s k cl n ph r f e) := h

theorem planCmd_canonical {cl : Nat} {c : Cmd} (h : MemoryCanonical s) : MemoryCanonical (planCmd s cl k c) := by
  have hp {α : Type} (n : α → Nat) (ph r f : Nat) (i : α → Event) (l : List α) {s : State} (hs : MemoryCanonical s) :
      MemoryCanonical (l.foldl (fun s x => planCtx s k cl (n x) ph r f (i x)) s) :=
    .foldl (fun _ _ hs => planCtx_canonical hs) _ hs
  unfold planCmd
  extract_lets units fin w1 w2 r1 s1 s2 s3
  have h1 : MemoryCanonical s1 :=
    .ite (planCtx_canonical (hp _ _ _ _ _ _ (hp _ _ _ _ _ _ h))) (hp _ _ _ _ _ _ (hp _ _ _ _ _ _ h))
  have h3 : MemoryCanonical s3 := by
    unfold s3
    split
    · exact planCtx_canonical h1
    · exact planCtx_canonical (planCtx_canonical (planCtx_canonical h1))
  exact modClaim_canonical _ _ _ h3

theorem activate_canonical (h : MemoryCanonical s) : MemoryCanonical (activate s k) := by
  unfold activate
  dsimp only
  split
  · have hf (x : Ctx) (i : TileId) (b : Byte) : MemoryCanonical (claimFault (s.setCtx k x) i b 0) :=
      claimFault_canonical _ _ _ _ (setCtx_canonical s _ _ h)
    refine .ite (hf _ _ _) (.ite (hf _ _ _) (.ite (hf _ _ _) (.ite h ?_)))
    split
    · exact hf _ _ _
    · split
      · exact hf _ _ _
      · exact .ite (planCmd_canonical h) (.foldl (fun _ _ hs => planCtx_canonical hs) _ (planCmd_canonical h))
  · exact h

theorem commitCmd_canonical (h : MemoryCanonical s) : MemoryCanonical (commitCmd s k) := by
  unfold commitCmd
  dsimp only
  split
  · exact h
  · split
    · exact .ite h h
    · exact .ite h h

theorem engineFault_canonical {b : Byte} {d : Quad} (h : MemoryCanonical s) : MemoryCanonical (engineFault s st b d) :=
  claimFault_canonical s _ _ _ h

theorem requestLine_canonical {m j : Nat} (h : MemoryCanonical s) : MemoryCanonical (requestLine s k m j) := by
  unfold requestLine
  dsimp only
  split
  · split
    · exact engineFault_canonical (translate_canonical h)
    · exact setCtx_canonical _ _ _ (translate_canonical h)
  · exact h

theorem releaseFlit_canonical {m i : Nat} (h : MemoryCanonical s) : MemoryCanonical (releaseFlit s k m i) := by
  unfold releaseFlit
  extract_lets x
  split
  · extract_lets cl n link
    split
    · exact planEv_canonical _ _ _ _ _ (.ite h (engineHold_canonical h))
    · exact h
  · exact h

theorem engineAccess_canonical {b : BitVec 6} {r : Nat} {f : State → State} (h : MemoryCanonical s)
    (hf : ∀ s, MemoryCanonical s → MemoryCanonical (f s)) : MemoryCanonical (engineAccess s st t b r f) :=
  .ite (engineFault_canonical h) (.ite (claimFault_canonical s _ _ _ h) (hf _ (h.modTile t fun _ hx => hx)))

theorem planDeposit_canonical {b : BitVec 6} {f : Nat} {l : List BankByte} (h : MemoryCanonical s) :
    MemoryCanonical (planDeposit s k t b f l) := h

theorem deposit_canonical {m u : Nat} (h : MemoryCanonical s) : MemoryCanonical (deposit s k m u) := by
  unfold deposit
  extract_lets x
  split
  · extract_lets t s1
    have h1 : MemoryCanonical s1 := by
      unfold s1
      split
      · exact uncorrectable_canonical s _ _ _ h
      · exact h
    refine .ite h1 ?_
    split
    · refine engineAccess_canonical (h1.modTile t fun _ hx => hx) fun s hs => planDeposit_canonical ?_
      exact .ite hs (checkRead_canonical s _ _ _ _ hs)
    · exact freezeFor_canonical h1
  · exact h

theorem writeFlag_canonical {m : Nat} (h : MemoryCanonical s) : MemoryCanonical (writeFlag s k m) := by
  unfold writeFlag
  dsimp only
  split
  · split
    · exact engineAccess_canonical (h.modTile _ fun _ hx => hx) fun _ hs => planDeposit_canonical hs
    · exact freezeFor_canonical h
  · exact h

theorem readSource_canonical {m u : Nat} (h : MemoryCanonical s) : MemoryCanonical (readSource s k m u) := by
  unfold readSource
  extract_lets x
  split
  · refine engineAccess_canonical h fun s hs => ?_
    extract_lets s1 v r c
    have h1 : MemoryCanonical s1 := .ite hs (checkRead_canonical s _ _ _ _ hs)
    have hr : MemoryCanonical r.1 := translate_canonical h1
    split
    · exact engineFault_canonical (setCtx_canonical _ _ _ hr)
    · exact setCtx_canonical _ _ _ hr
  · exact h

theorem writeFlit_canonical {m i : Nat} (h : MemoryCanonical s) : MemoryCanonical (writeFlit s k m i) := by
  unfold writeFlit
  dsimp only
  split
  · split
    · exact h
    · exact inject_canonical h
  · exact h

theorem commitRows_canonical {c : Cmd} (h : MemoryCanonical s) : MemoryCanonical (c.commitRows s) := by
  refine MemoryCanonical.foldl (fun s u hs => ?_) _ h
  split
  · exact hs.farWrite _
  · exact hs

theorem commitWrite_canonical {m : Nat} (h : MemoryCanonical s) : MemoryCanonical (commitWrite s k m) := by
  unfold commitWrite
  dsimp only
  split
  · refine commitRows_canonical ?_
    split
    · exact h
    · exact engineHold_canonical h
  · exact h

theorem fireTracker_canonical (h : MemoryCanonical s) : MemoryCanonical (fireTracker s k) := by
  unfold fireTracker
  dsimp only
  split
  · refine .ite (engineFault_canonical (setCtx_canonical s _ _ h)) ?_
    split
    · exact engineFault_canonical (setCtx_canonical s _ _ h)
    · have hp {c : Cmd} {x : Ctx} {cl : Nat} : MemoryCanonical (planCmd (s.setCtx k x) cl k c) := planCmd_canonical h
      exact .ite (planCtx_canonical hp) hp
  · exact h

theorem advanceTimeline_canonical (h : MemoryCanonical s) : MemoryCanonical (advanceTimeline s k) := by
  unfold advanceTimeline
  dsimp only
  split
  · exact h
  · exact h

end Staging

/-! ## Ordering and synchronisation (spec/12) -/

section Sync
variable {s : State} {st : StrandId} {cl n : Nat}

theorem watch_canonical {o : MS 6} (h : MemoryCanonical s) : MemoryCanonical (watch s o) :=
  .ite h (checkRead_canonical s _ _ _ _ h)

theorem waita_canonical {o : MS 6} {c : WaitCmp} (h : MemoryCanonical s) : OutcomeCanonical (waita s o c) := by
  unfold waita
  split
  · exact .next (taintIf_canonical s _ h)
  · exact waits_canonical (watch_canonical h) (taintIf_canonical _ _ (watch_canonical h))

theorem planPhase_canonical (h : MemoryCanonical s) : MemoryCanonical (planPhase s cl n) := by
  refine .ite h ?_
  split
  · exact h
  · exact h

theorem completePhase_canonical (h : MemoryCanonical s) : MemoryCanonical (completePhase s cl n) := .ite h (.ite h h)

theorem arriveAt_canonical (h : MemoryCanonical s) : MemoryCanonical (arriveAt s n) := planPhase_canonical h

theorem syncArrive_canonical (h : MemoryCanonical s) : MemoryCanonical (syncArrive s n) :=
  .ite (modCore_canonical _ _ _ (arriveAt_canonical h)) h

theorem takeEarlyFault_canonical {b : Byte} {r : BitVec 64} {c : Nat} (h : MemoryCanonical s) :
    MemoryCanonical (takeEarlyFault s st b r c) := modCore_canonical _ _ _ (takeFault_canonical s _ _ _ _ _ _ h)

theorem barrierTimeout_canonical (h : MemoryCanonical s) : MemoryCanonical (barrierTimeout s st n) :=
  .ite (takeEarlyFault_canonical h) h

theorem planGate_canonical (h : MemoryCanonical s) : MemoryCanonical (planGate s cl n) := by
  refine .ite h ?_
  split
  · exact h
  · exact h

theorem releaseGate_canonical (h : MemoryCanonical s) : MemoryCanonical (releaseGate s cl n) := by
  unfold releaseGate
  extract_lets b now
  split
  · exact h
  · refine .ite h ?_
    extract_lets go rest s1 s2
    have h1 : MemoryCanonical s1 := by
      refine MemoryCanonical.foldl (fun s p hs => ?_) _ h
      exact hs
    have h2 : MemoryCanonical s2 := modClaim_canonical _ _ _ h1
    exact .ite (modClaim_canonical _ _ _ h2) (planEv_canonical _ _ _ _ _ (modClaim_canonical _ _ _ h2))

theorem gateTimeout_canonical (h : MemoryCanonical s) : MemoryCanonical (gateTimeout s cl n) := by
  unfold gateTimeout
  dsimp only
  split
  · refine .ite (MemoryCanonical.foldl (fun s p hs => ?_) _ h) h
    exact .ite (takeEarlyFault_canonical (setCore_canonical s _ _ hs)) hs
  · exact h

theorem execGate_canonical {k : BitVec 9} (h : MemoryCanonical s) : OutcomeCanonical (execGate k s) := by
  unfold execGate
  refine alwaysC_canonical h fun s hs => planGate_canonical ?_
  exact .ite hs hs

theorem settleBarriers_canonical (h : MemoryCanonical s) : MemoryCanonical (settleBarriers s st) := by
  refine MemoryCanonical.foldl (fun s p hs => ?_) _ h
  have hp : MemoryCanonical (if (find p.2.arrived st).isSome then s else planPhase s st.tile.claim p.1) :=
    .ite hs (planPhase_canonical hs)
  exact .ite hp (planGate_canonical hp)

end Sync

/-! ## Sequencing and control registers (spec/04, spec/13) -/

section Sequencing
variable {s : State} {st : StrandId} {t : TileId}

theorem branchIf_canonical {a : Src 6} {f : Word → Bool} {go : State → State} (h : MemoryCanonical s)
    (hg : ∀ s, MemoryCanonical s → MemoryCanonical (go s)) : OutcomeCanonical (branchIf s a f go) := by
  unfold branchIf
  refine always_canonical h fun s hs => ?_
  extract_lets s1
  have h1 : MemoryCanonical s1 := taintIf_canonical s _ hs
  exact .ite (hg _ h1) h1

theorem execRet_canonical {a : Src 4} {g : Guard} (h : MemoryCanonical s) : OutcomeCanonical (execRet a g s) :=
  guarded_canonical h fun s hs => modCore_canonical _ _ _ (taintIf_canonical s _ hs)

theorem execLoop_canonical {a : Src 6} {o : BitVec 18} (h : MemoryCanonical s) : OutcomeCanonical (execLoop a o s) := by
  unfold execLoop
  refine alwaysC_canonical h fun s hs => ?_
  extract_lets s1
  have h1 : MemoryCanonical s1 := taintIf_canonical s _ hs
  exact .ite h1 (.ite (planEv_canonical _ _ _ _ _ (modCore_canonical _ _ _ h1)) (modCore_canonical _ _ _ h1))

theorem sendUpdate_canonical {e : Event} (h : MemoryCanonical s) : MemoryCanonical (sendUpdate s t e) := h

theorem execWsplit_canonical {a b : Src 6} {g : Guard} (h : MemoryCanonical s) :
    OutcomeCanonical (execWsplit a b g s) := by
  unfold execWsplit
  exact guardedC_canonical h fun s hs => sendUpdate_canonical (modCore_canonical _ _ _ (taintIf_canonical s _ hs))

theorem returnWeight_canonical {n : Nat} (h : MemoryCanonical s) : MemoryCanonical (returnWeight s n) := h

theorem weightArrives_canonical {cl n : Nat} {r : Option StrandId} (h : MemoryCanonical s) :
    MemoryCanonical (weightArrives s cl r n) := by
  cases r with
  | none => exact h
  | some => exact .ite h h

theorem totalArrives_canonical {n : Nat} (h : MemoryCanonical s) : MemoryCanonical (totalArrives s st n) := by
  refine .ite h ?_
  cases (s.coreOf st).status <;> exact h

theorem execNpreOn_canonical {g : Guard} (h : MemoryCanonical s) : OutcomeCanonical (execNpreOn g s) := by
  unfold execNpreOn
  refine guarded_canonical h fun s hs => ?_
  split
  · exact hs
  · exact hs

theorem sectionCap_canonical (h : MemoryCanonical s) : MemoryCanonical (sectionCap s st) := by
  unfold sectionCap
  split
  · exact .ite h h
  · exact h

theorem execHalt_canonical {g : Guard} (h : MemoryCanonical s) : OutcomeCanonical (execHalt g s) := by
  unfold execHalt
  refine guarded_canonical h fun s hs => ?_
  extract_lets s1 w s2 s3 r
  have h2 : MemoryCanonical s2 := .ite hs hs
  have h3 : MemoryCanonical s3 := modCore_canonical _ _ _ h2
  exact .ite h3 h3

theorem releaseSlots_canonical (h : MemoryCanonical s) : MemoryCanonical (releaseSlots s st) := by
  refine MemoryCanonical.foldl (fun s i hs => ?_) _ h
  exact .ite (hs.modTile _ fun _ hx => hx) hs

theorem retireStrand_canonical (h : MemoryCanonical s) : MemoryCanonical (retireStrand s st) := by
  unfold retireStrand
  extract_lets n s1 s2 s3 s4
  have h2 : MemoryCanonical s2 := (modCore_canonical s _ _ h).modTile _ fun _ hx => hx
  have h3 : MemoryCanonical s3 := by
    refine MemoryCanonical.foldl (fun s u hs => ?_) _ h2
    exact hs
  have h4 : MemoryCanonical s4 := settleBarriers_canonical (releaseSlots_canonical h3)
  exact .ite (.foldl (fun s _ hs => claimFault_canonical s _ _ _ hs) _ h4) h4

theorem execTkawait_canonical {a : Src 4} {d : BitVec 18} (h : MemoryCanonical s) :
    OutcomeCanonical (execTkawait a d s) := by
  unfold execTkawait
  refine always_canonical h fun s hs => ?_
  have ht := taintIf_canonical s (anyPsn (tkTarget s a d).psn) hs
  exact .ite (modCore_canonical _ _ _ ht) (modCore_canonical _ _ _ ht)

theorem returnFrom_canonical (h : MemoryCanonical s) : MemoryCanonical (returnFrom s) := h

theorem execIret_canonical (h : MemoryCanonical s) : OutcomeCanonical (execIret s) :=
  .next (checked_canonical h (returnFrom_canonical h))

theorem execBrkpt_canonical {c : BitVec 16} (h : MemoryCanonical s) : OutcomeCanonical (execBrkpt c s) :=
  .next (.ite (faultNext_canonical s _ _ _ h) h)

theorem execCrget_canonical {d : BitVec 6} {f : Bool} {r : CReg} (h : MemoryCanonical s) :
    OutcomeCanonical (execCrget d f r s) := .next (.ite h h)

theorem execCrset_canonical {a : Src 6} {f : Bool} {r : CReg} (h : MemoryCanonical s) :
    OutcomeCanonical (execCrset a f r s) := by
  unfold execCrset
  exact always_canonical h fun s hs => plan_canonical _ _ (taintIf_canonical s _ hs)

theorem landCreg_canonical {r : CReg} {v : Quad} (h : MemoryCanonical s) : MemoryCanonical (landCreg s st r v) := by
  unfold landCreg
  split
  · exact .ite h h
  · exact h.modTile _ fun _ hx => hx
  all_goals exact h

end Sequencing

/-! ## Effects that come due (spec/95) -/

section Effects
variable {s : State} {st : StrandId} {t : TileId}

theorem postSlot_canonical {g : BitVec 12} {n : Nat} (h : MemoryCanonical s) : MemoryCanonical (postSlot s st g n) := by
  unfold postSlot
  extract_lets s1 m
  have h1 : MemoryCanonical s1 := h.modTile _ fun _ hx => hx
  exact .ite h1 h1

theorem withCtx_canonical {c : BitVec 8} {f : CtxId → State} (h : MemoryCanonical s) (hf : ∀ k, MemoryCanonical (f k)) :
    MemoryCanonical (withCtx s st c f) := by
  unfold withCtx
  split
  · exact hf _
  · exact h

theorem landNow_canonical {l : Landing} (h : MemoryCanonical s) : MemoryCanonical (landNow s st l) := by
  cases l with
  | result => exact h
  | shape => exact h
  | creg => exact landCreg_canonical h
  | seed => exact h
  | stream => exact h.modTile _ fun _ hx => hx
  | aliasTag => exact h
  | post => exact postSlot_canonical h
  | claimSlot => exact h.modTile _ fun _ hx => hx
  | freeSlot => exact h.modTile _ fun _ hx => hx
  | zeroTile => exact h.modTile _ fun _ hx => hx
  | ctxReg => exact withCtx_canonical h fun _ => h
  | ctxGo => exact withCtx_canonical h fun _ => commitCmd_canonical h
  | redEntry => exact h.modTile _ fun _ hx => hx
  | leave => exact h
  | hold => exact raiseHold_canonical h

theorem commitData_canonical {n : Nat} {b : BitVec 6} {d : BankData} (h : MemoryCanonical s) :
    MemoryCanonical (commitData s t n b d) := by
  cases d with
  | zeroRow => exact commitBytes_canonical s _ _ _ _ h
  | counted => exact countRows_canonical s _ _ _ h
  | bytes l =>
    refine .ite (MemoryCanonical.foldl (fun s r hs => ?_) _ h) (commitBytes_canonical s _ _ _ _ h)
    refine (commitAccRow_canonical s _ _ _ _ hs).modTile _ fun x hx => ?_
    rw [clearZero_sram]
    exact hx

theorem applyReduction_canonical (h : MemoryCanonical s) : MemoryCanonical (applyReduction s t) := by
  unfold applyReduction
  extract_lets x
  split
  · exact h
  · extract_lets s1
    have h1 : MemoryCanonical s1 := modClaim_canonical _ _ _ (h.setTileSame rfl)
    refine .ite h1 (.ite (claimFault_canonical _ _ _ _ h1) (plan_canonical _ _ (checkRead_canonical _ _ _ _ _ ?_)))
    exact h1.modTile _ fun _ hx => hx

theorem landLate_canonical {cls : SlotClass} {m n : Nat} {r : List RegWrite} {l : Latch × MVec} (h : MemoryCanonical s) :
    MemoryCanonical (landLate s st cls m n r l) := h

theorem lateRead_canonical {r : LateRead} (h : MemoryCanonical s) : MemoryCanonical (lateRead s r) := by
  cases r with
  | pair => exact landLate_canonical (checkRead_canonical s _ _ _ _ h)
  | amo => exact plan_canonical _ _ (landLate_canonical (checkRead_canonical s _ _ _ _ h))
  | pop => exact landLate_canonical (checkRead_canonical s _ _ _ _ h)
  | copy => exact plan_canonical _ _ (checkRead_canonical s _ _ _ _ h)

theorem withOp_canonical {n : Nat} {f : MmaOp → State} (h : MemoryCanonical s) (hf : ∀ o, MemoryCanonical (f o)) :
    MemoryCanonical (withOp s t n f) := by
  unfold withOp
  split
  · exact hf _
  · exact h

theorem execArraySend_canonical {n : Nat} (h : MemoryCanonical s) : OutcomeCanonical (execArraySend t n s) := by
  refine .next ?_
  split
  · exact sendFlit_canonical h
  · exact h

theorem execCountUpset_canonical {d : BitVec 64} (h : MemoryCanonical s) : OutcomeCanonical (execCountUpset t d s) := by
  refine .next (MemoryCanonical.foldl (fun s p hs => ?_) _ (h.modTile t fun _ hx => hx))
  exact hs

theorem execBitUpset_canonical {p : UpsetPlace} {m : BitVec 72} (h : MemoryCanonical s) :
    OutcomeCanonical (execBitUpset p m s) := by
  cases p with
  | bank => exact .next (h.modTile _ fun _ hx => hx)
  | far n =>
    unfold execBitUpset
    dsimp only
    split
    · exact .next h
    · exact .fault _
  | link => exact .next (h.modTile _ fun _ hx => hx)
  | wheel => exact .next (upsetWheel_canonical h)

end Effects

/-! ## How a claim stops and ends (spec/04, spec/13, spec/14) -/

section Stops
variable {s : State} {cl : Nat} {t : TileId}

theorem mailboxDone_canonical {b : Byte} {q : Quad} (h : MemoryCanonical s) :
    MemoryCanonical (mailboxDone s b q) := .ite h h

theorem mailboxRelease_canonical (h : MemoryCanonical s) : MemoryCanonical (mailboxRelease s) := by
  unfold mailboxRelease
  split
  · exact h
  · exact h

theorem claimStopped_canonical (h : MemoryCanonical s) : MemoryCanonical (claimStopped s cl) := by
  refine .ite h (.ite (mailboxDone_canonical h) (.ite ?_ h))
  cases (s.claimOf cl).run <;> exact mailboxDone_canonical h

theorem writeCompletion_canonical {a b : Nat} {r : RecordWords} (h : MemoryCanonical s) :
    MemoryCanonical (writeCompletion s a b r) := (h.farWrite _).farWrite _

theorem settleLease_canonical {b : Byte} (h : MemoryCanonical s) : MemoryCanonical (settleLease s b) := .ite h h

theorem partsStopped_canonical {n : Nat} (h : MemoryCanonical s) : MemoryCanonical (partsStopped s n) :=
  .ite (mailboxDone_canonical h) (.ite (mailboxDone_canonical h) h)

theorem settleFleet_canonical (h : MemoryCanonical s) : MemoryCanonical (settleFleet s) := by
  unfold settleFleet
  split
  · refine .ite ?_ h
    split
    · exact h
    · extract_lets fin start s1
      have h1 : MemoryCanonical s1 := (partsStopped_canonical (n := fin) h).congr rfl rfl rfl
      exact settleLease_canonical (writeCompletion_canonical h1)
  · exact h

theorem finishLaunch_canonical {k e b : Nat} {x : Bool} (h : MemoryCanonical s) :
    MemoryCanonical (finishLaunch s cl k e b x) := by
  unfold finishLaunch
  extract_lets c w tl s1
  have h1 : MemoryCanonical s1 := h
  exact .ite (.ite (settleFleet_canonical h1) h1) (settleLease_canonical (writeCompletion_canonical h1))

theorem evaluateClaim_canonical (h : MemoryCanonical s) : MemoryCanonical (evaluateClaim s cl) :=
  finishLaunch_canonical (claimStopped_canonical (setClaim_canonical s _ _ h))

theorem execClaimEvaluation_canonical (h : MemoryCanonical s) : OutcomeCanonical (execClaimEvaluation cl s) :=
  .next (.ite (evaluateClaim_canonical h) h)

theorem execClaimRelease_canonical (h : MemoryCanonical s) : OutcomeCanonical (execClaimRelease cl s) := by
  refine .next (.ite h ?_)
  split
  · exact finishLaunch_canonical h
  · exact finishLaunch_canonical h
  · exact finishLaunch_canonical h
  all_goals exact h

theorem turnWheels_canonical {d : Nat} (h : MemoryCanonical s) : MemoryCanonical (turnWheels s cl d) := by
  refine h.mapTiles fun p hp => ?_
  split
  · exact hp
  · exact hp

theorem moveCount_canonical {n : Nat} (h : MemoryCanonical s) : MemoryCanonical (moveCount s cl n) :=
  modClaim_canonical _ _ _ (turnWheels_canonical h)

/-- What an operation in flight does at its tick keeps the canonical form. -/
theorem flightStep_canonical {a : Action} {u : State} (h : MemoryCanonical s) (hu : flightStep s a = some u) :
    MemoryCanonical u := by
  unfold flightStep at hu
  split at hu
  · cases hu; exact commitData_canonical h
  · cases hu; exact landNow_canonical h
  · cases hu; exact applyReduction_canonical h
  · cases hu; exact crossed_canonical h
  · cases hu; exact release_canonical h
  · cases hu; exact requestLine_canonical h
  · cases hu; exact releaseFlit_canonical h
  · cases hu; exact deposit_canonical h
  · cases hu; exact writeFlag_canonical h
  · cases hu; exact lateRead_canonical h
  · cases hu; exact lateRead_canonical h
  · cases hu

theorem flightStep_getD_canonical {a : Action} (h : MemoryCanonical s) : MemoryCanonical ((flightStep s a).getD s) := by
  cases hu : flightStep s a with
  | none => exact h
  | some u => exact flightStep_canonical h hu

theorem flightBefore_canonical {e : Sched} {n : Nat} (h : MemoryCanonical s) :
    MemoryCanonical (flightBefore e n s) := by
  induction n generalizing s with
  | zero => exact h
  | succ n ih =>
    unfold flightBefore
    split
    · exact h
    · extract_lets u v
      have hu : MemoryCanonical u := moveCount_canonical (s := { s with agenda := _ }) h
      have hv : MemoryCanonical v := .ite hu (hu.mapTiles fun _ hp => hp)
      exact ih (flightStep_getD_canonical hv)

theorem reduceUntil_canonical {b n : Nat} (h : MemoryCanonical s) : MemoryCanonical (reduceUntil s t b n) := by
  refine MemoryCanonical.foldl (fun s j hs => ?_) _ h
  exact hs

theorem stageEarly_canonical {p : StageStep} {e : Sched} {b : Nat} (h : MemoryCanonical s) :
    MemoryCanonical (stageEarly s t p e b) := by
  unfold stageEarly
  generalize arraySteps = n
  extract_lets x y
  have hy : y.sram.wf = true := (flightBefore_canonical (reduceUntil_canonical h)).tileOf t
  refine MemoryCanonical.modTile (transferRow_canonical (h.setTile t ?_)) t fun _ _ => h.tileOf t
  exact hy

theorem writeEarly_canonical {o : MmaOp} {b : Nat} {e : Sched} (h : MemoryCanonical s) :
    MemoryCanonical (writeEarly s t o b e) :=
  plan_canonical _ _ ((blockWrite_canonical (t := t) (o := o) (b := b) h).congr rfl rfl rfl)

theorem finishStep_canonical {n : Nat} {e : Sched} (h : MemoryCanonical s) : MemoryCanonical (finishStep s n e) := by
  unfold finishStep
  split
  · exact stageEarly_canonical h
  · exact transferRow_canonical h
  · exact withOp_canonical h fun _ => startSends_canonical h
  · exact withOp_canonical h fun _ => groupAdd_canonical h
  · exact withOp_canonical h fun _ => writeEarly_canonical h
  · exact plan_canonical _ _ (landNow_canonical h)
  · exact h

theorem finishArrays_canonical {m n : Nat} (h : MemoryCanonical s) : MemoryCanonical (finishArrays cl m n s) := by
  induction n generalizing s with
  | zero => exact h
  | succ n ih =>
    unfold finishArrays
    split
    · exact h
    · exact ih (finishStep_canonical (moveCount_canonical (s := { s with agenda := _ }) h))

theorem settleArrays_canonical (h : MemoryCanonical s) : MemoryCanonical (settleArrays s cl) := by
  unfold settleArrays
  extract_lets u
  have hu : MemoryCanonical u := moveCount_canonical (finishArrays_canonical h)
  refine hu.mapTiles fun p hp => ?_
  split
  · exact hp
  · exact hp

theorem standStill_canonical {r : ClaimRun} (h : MemoryCanonical s) : MemoryCanonical (standStill s cl r) := h

theorem defer_canonical {e : Event} (h : MemoryCanonical s) : MemoryCanonical (defer s e) := h

theorem stopForRelease_canonical {r : ClaimRun} (h : MemoryCanonical s) : MemoryCanonical (stopForRelease s cl r) :=
  defer_canonical (claimStopped_canonical (standStill_canonical h))

theorem execFatalStop_canonical (h : MemoryCanonical s) : OutcomeCanonical (execFatalStop cl s) :=
  .next (.ite (stopForRelease_canonical h) h)

theorem stopOrDrift_canonical {f : State → State} (h : MemoryCanonical s)
    (hf : ∀ s, MemoryCanonical s → MemoryCanonical (f s)) : MemoryCanonical (stopOrDrift s cl f) :=
  .ite (hf s h) (claimFault_canonical s _ _ _ h)

theorem execUncorrectableHalt_canonical (h : MemoryCanonical s) : OutcomeCanonical (execUncorrectableHalt cl s) :=
  .next (.ite (stopOrDrift_canonical h fun _ hs => stopForRelease_canonical (settleArrays_canonical hs)) h)

theorem recordAbort_canonical (h : MemoryCanonical s) :
    MemoryCanonical (recordAbort s cl) := recordFault_canonical s _ _ h

theorem execAbortStop_canonical (h : MemoryCanonical s) : OutcomeCanonical (execAbortStop cl s) :=
  .next (.ite (stopForRelease_canonical (recordAbort_canonical (settleArrays_canonical h))) h)

theorem stopPreempted_canonical (h : MemoryCanonical s) : MemoryCanonical (stopPreempted s cl) :=
  stopOrDrift_canonical (modClaim_canonical s _ _ h) fun _ hs =>
    claimStopped_canonical (standStill_canonical (settleArrays_canonical hs))

theorem settleParley_canonical (h : MemoryCanonical s) : MemoryCanonical (settleParley s cl) := by
  unfold settleParley
  dsimp only
  split
  · exact .ite (.ite (stopPreempted_canonical (modClaim_canonical s _ _ h)) h) h
  · exact h

theorem sayBoundary_canonical {b : Nat} {x : Bool} (h : MemoryCanonical s) :
    MemoryCanonical (sayBoundary s cl b x) := by
  unfold sayBoundary
  split
  · exact h
  · exact h

theorem execPreemptionStop_canonical (h : MemoryCanonical s) : OutcomeCanonical (execPreemptionStop cl s) := by
  unfold execPreemptionStop
  extract_lets ok s1
  have h1 : MemoryCanonical s1 := sayBoundary_canonical (modClaim_canonical s _ _ h)
  exact .next (.ite h (.ite (.ite (settleParley_canonical (h1.congr rfl rfl rfl)) h) (.ite (stopPreempted_canonical h) h)))

theorem resumeClaim_canonical (h : MemoryCanonical s) : MemoryCanonical (resumeClaim s cl) := h

theorem moveMap_canonical {m : MoveReq} (h : MemoryCanonical s) : MemoryCanonical (moveMap s m) := by
  unfold moveMap
  split
  · exact h
  · exact h

theorem moveAtBoundary_canonical {m : MoveReq} (h : MemoryCanonical s) : MemoryCanonical (moveAtBoundary s cl m) :=
  .ite (stopOrDrift_canonical (modClaim_canonical s _ _ h) fun _ hs => moveMap_canonical hs) (modClaim_canonical s _ _ h)

theorem moveRow_canonical {m : MoveReq} (h : MemoryCanonical s) : MemoryCanonical (moveRow s m) := by
  unfold moveRow
  extract_lets free
  have hf (s : State) (hs : MemoryCanonical s) : MemoryCanonical (free s) :=
    .ite (defer_canonical hs) (moveMap_canonical hs)
  split
  · exact hf _ h
  · split
    · split
      · exact .ite (moveAtBoundary_canonical h) h
      · exact h
    all_goals exact hf _ (modClaim_canonical s _ _ h)

theorem execSelfTestMove_canonical {f r c : Nat} (h : MemoryCanonical s) :
    OutcomeCanonical (execSelfTestMove f r c s) :=
  .next (.ite h (moveRow_canonical h))

theorem execSelfTestMoveBack_canonical {f r : Nat} (h : MemoryCanonical s) :
    OutcomeCanonical (execSelfTestMoveBack f r s) :=
  .next (.ite (moveRow_canonical h) h)

theorem execTileFailsSelfTest_canonical {f r : Nat} (h : MemoryCanonical s) :
    OutcomeCanonical (execTileFailsSelfTest f r s) := by
  refine .next ?_
  split
  · exact h
  · exact .ite h h

theorem execThrottle_canonical {c : Throttle} (h : MemoryCanonical s) : OutcomeCanonical (execThrottle c s) :=
  .next (.ite h (setThrottle_canonical h))

theorem execRailChange_canonical {f : Nat} {p : Place} {x : Bool} (h : MemoryCanonical s) :
    OutcomeCanonical (execRailChange f p x s) := .next (.ite h (railChange_canonical h))

theorem enterSafe_canonical (h : MemoryCanonical s) : MemoryCanonical (enterSafe s) := by
  unfold enterSafe
  extract_lets s1
  have h1 : MemoryCanonical s1 := h.congr rfl rfl rfl
  exact .ite (mailboxDone_canonical h1) h1

end Stops

/-! ## Launches (spec/14) -/

section Launch
variable {s : State}

/-- A tile that an image builds starts with a canonical memory: its records are written byte by byte. -/
theorem buildTile_wf (i : Image) (n x y : Nat) : (buildTile i n x y).sram.wf = true := by
  have hw {α : Type} (f : α → Nat) (g : α → List Byte) (l : List α) {m : Memory} (h : m.wf = true) :
      (l.foldl (fun m r => m.writeList (f r) (g r)) m).wf = true := by
    induction l generalizing m with
    | nil => exact h
    | cons r l ih => exact ih (Memory.writeList_wf h _ _)
  exact hw _ _ _ (hw _ _ _ Memory.wf_nil)

theorem installClaim_canonical {l : LaunchParts} {p a : List Byte} (h : MemoryCanonical s) :
    MemoryCanonical (installClaim s l p a) := by
  refine ⟨h.1, fun q hq => ?_, h.2.2⟩
  obtain hq | hq := List.mem_append.mp hq
  · exact h.2.1 q (List.mem_filter.mp hq).1
  · obtain ⟨t, -, rfl⟩ := List.mem_map.mp hq
    exact buildTile_wf _ _ _ _

theorem startClaim_canonical {l : LaunchParts} {p a : List Byte} (h : MemoryCanonical s) :
    MemoryCanonical (startClaim s l p a) :=
  MemoryCanonical.congr (installClaim_canonical (l := l) (p := p) (a := a) h) rfl rfl rfl

theorem refuseLaunch_canonical {p : List Byte} {n : Nat} (h : MemoryCanonical s) :
    MemoryCanonical (refuseLaunch s p n) :=
  settleLease_canonical (writeCompletion_canonical h)

theorem settleVerdicts_canonical (h : MemoryCanonical s) : MemoryCanonical (settleVerdicts s) := by
  unfold settleVerdicts
  split
  · refine .ite h (.ite (modClaim_canonical _ _ _ (startClaim_canonical (h.congr rfl rfl rfl))) (.ite ?_ ?_))
    · exact refuseLaunch_canonical (h.congr rfl rfl rfl)
    · exact settleLease_canonical (h.congr rfl rfl rfl)
  · exact h

theorem settleRoutes_canonical (h : MemoryCanonical s) : MemoryCanonical (settleRoutes s) := by
  unfold settleRoutes
  split
  · exact .ite h (settleVerdicts_canonical (h.congr rfl rfl rfl))
  · exact h

theorem prepareFleet_canonical {q : Option Nat} {p a : List Byte} (h : MemoryCanonical s) :
    MemoryCanonical (prepareFleet s q p a) := by
  unfold prepareFleet
  exact settleRoutes_canonical (h.congr rfl rfl rfl)

theorem receiveLaunch_canonical {p a : List Byte} (h : MemoryCanonical s) : MemoryCanonical (receiveLaunch s p a) := by
  refine .ite h ?_
  split
  · exact prepareFleet_canonical h
  · exact h

theorem consume_canonical {q : BitVec 6} {p : List Byte} (h : MemoryCanonical s) : MemoryCanonical (consume s q p) := by
  unfold consume
  extract_lets x s1 s2
  have h2 : MemoryCanonical s2 := (h.farWrite _).congr rfl rfl rfl
  exact .ite h2 h2

theorem launchPacket_canonical {q : BitVec 6} {p a : List Byte} (h : MemoryCanonical s) :
    MemoryCanonical (launchPacket s q p a) := by
  unfold launchPacket
  exact .ite (refuseLaunch_canonical h) (.ite (prepareFleet_canonical h)
    (.ite (startClaim_canonical h) (refuseLaunch_canonical h)))

theorem modQueue_canonical {q : BitVec 6} {f : Queue → Queue} (h : MemoryCanonical s) :
    MemoryCanonical (s.modQueue q f) :=
  h.congr rfl rfl rfl

theorem readPacket_canonical {q : BitVec 6} (h : MemoryCanonical s) : MemoryCanonical (readPacket s q) := by
  unfold readPacket
  exact .ite (.ite (modQueue_canonical h) (.ite h (.ite (consume_canonical (modQueue_canonical h))
    (launchPacket_canonical (consume_canonical h))))) h

theorem notify_canonical {q : BitVec 6} {w : BitVec 64} (h : MemoryCanonical s) : MemoryCanonical (notify s q w) := by
  unfold notify
  exact .ite (.ite (push_canonical _ _ (modQueue_canonical h)) (modQueue_canonical h)) (modQueue_canonical h)

end Launch

/-! ## The curator and the firmware (spec/14) -/

section Curator
variable {s : State} {c : Controller}

/-- A step of the curator's core writes at most the curator's memory, byte by byte. -/
theorem rvRun_canonical {i : Rv} {n : Nat} (h : MemoryCanonical s) : MemoryCanonical (rvRun s i n) := by
  have hg (x : CuratorCore) : MemoryCanonical { s with curator := x } := h.congr rfl rfl rfl
  cases i with
  | store =>
    unfold rvRun
    exact .ite ((hg _).modCtl _ fun _ hx => Ctl.store_wf _ _ _ hx) (hg _)
  | load => exact h.congr rfl rfl rfl
  | _ => exact hg _

theorem stepCurator_canonical (h : MemoryCanonical s) : MemoryCanonical (stepCurator s) := by
  refine .ite h ?_
  split
  · exact rvRun_canonical h
  · exact h

theorem command_canonical {x y z : Bool} {f : State → State} (h : MemoryCanonical s)
    (hf : ∀ s, MemoryCanonical s → MemoryCanonical (f s)) : OutcomeCanonical (command s x y z f) :=
  .next (.ite (mailboxDone_canonical h) (.ite (mailboxDone_canonical h) (.ite (mailboxDone_canonical h) (hf s h))))

theorem extend_canonical {i : BitVec 3} {d : BitVec 256} (h : MemoryCanonical s) : MemoryCanonical (extend s i d) :=
  h.congr rfl rfl rfl

theorem execLoad_canonical {a : MbArgs} (h : MemoryCanonical s) : OutcomeCanonical (execLoad a s) := by
  unfold execLoad
  refine command_canonical h fun s hs => .ite (mailboxDone_canonical hs) ?_
  split
  · exact mailboxDone_canonical hs
  · exact mailboxDone_canonical (extend_canonical (hs.congr rfl rfl rfl))

theorem execEvict_canonical {a : MbArgs} (h : MemoryCanonical s) : OutcomeCanonical (execEvict a s) := by
  unfold execEvict
  exact command_canonical h fun s hs => mailboxDone_canonical (hs.congr rfl rfl rfl)

theorem putEntry_canonical {p : Nat} {e : BitVec 64} (h : MemoryCanonical s) : MemoryCanonical (putEntry s p e) :=
  (h.farWrite _).congr rfl rfl rfl

theorem mapPage_canonical {v b : Nat} {x y : Bool} {l : List (Nat × Nat)} (h : MemoryCanonical s) :
    MemoryCanonical (mapPage v x y l b s) := by
  induction l generalizing s b with
  | nil => exact h
  | cons p l ih =>
    unfold mapPage
    dsimp only
    split
    · exact .ite h (putEntry_canonical h)
    · exact .ite (.ite h (ih h)) (ih (putEntry_canonical (h.farWrite _)))

theorem mapLease_canonical {b : Byte} (h : MemoryCanonical s) : MemoryCanonical (mapLease s b) := by
  unfold mapLease
  exact .ite h (.foldl (fun _ _ hs => .foldl (fun _ _ hs => mapPage_canonical hs) _ hs) _ h)

theorem execLease_canonical {a : MbArgs} (h : MemoryCanonical s) : OutcomeCanonical (execLease a s) := by
  unfold execLease
  exact command_canonical h fun s hs => mailboxDone_canonical (mapLease_canonical (hs.congr rfl rfl rfl))

theorem execUnlease_canonical {a : MbArgs} (h : MemoryCanonical s) : OutcomeCanonical (execUnlease a s) := by
  unfold execUnlease
  exact command_canonical h fun s hs => settleLease_canonical (hs.congr rfl rfl rfl)

theorem execUnleaseEffect_canonical {b : BitVec 8} (h : MemoryCanonical s) :
    OutcomeCanonical (execUnleaseEffect b s) := by
  unfold execUnleaseEffect
  exact .next (.ite (.ite (mailboxDone_canonical (h.congr rfl rfl rfl)) (h.congr rfl rfl rfl)) h)

theorem execQueueEnable_canonical {a : MbArgs} (h : MemoryCanonical s) : OutcomeCanonical (execQueueEnable a s) := by
  unfold execQueueEnable
  exact command_canonical h fun s hs => mailboxDone_canonical (modQueue_canonical hs)

theorem execQueueDisable_canonical {a : MbArgs} (h : MemoryCanonical s) : OutcomeCanonical (execQueueDisable a s) := by
  unfold execQueueDisable
  exact command_canonical h fun s hs => .ite (mailboxDone_canonical hs)
    (.ite (push_canonical _ _ (modQueue_canonical hs)) (modQueue_canonical hs))

theorem execQueueDisableDrain_canonical {q : BitVec 6} (h : MemoryCanonical s) :
    OutcomeCanonical (execQueueDisableDrain q s) := by
  unfold execQueueDisableDrain
  exact .next (.ite (mailboxDone_canonical (modQueue_canonical h)) h)

theorem execInvtlb_canonical {a : MbArgs} (h : MemoryCanonical s) : OutcomeCanonical (execInvtlb a s) := by
  unfold execInvtlb
  exact command_canonical h fun s hs => mailboxDone_canonical (hs.congr rfl rfl rfl)

theorem askRest_canonical {cl op : Nat} {f : FleetLaunch} (h : MemoryCanonical s) :
    MemoryCanonical (askRest s cl op f) := by
  unfold askRest
  split
  · exact h.congr rfl rfl rfl
  · exact h.congr rfl rfl rfl

theorem askFleet_canonical {cl op : Nat} {f : State → State} (h : MemoryCanonical s)
    (hf : ∀ s, MemoryCanonical s → MemoryCanonical (f s)) : MemoryCanonical (askFleet s cl op f) := by
  refine .ite (.ite (h.congr rfl rfl rfl) ?_) (hf s h)
  split
  · exact askRest_canonical h
  · exact hf _ (h.congr rfl rfl rfl)

theorem execPreempt_canonical {a : MbArgs} (h : MemoryCanonical s) : OutcomeCanonical (execPreempt a s) := by
  unfold execPreempt
  exact command_canonical h fun s hs => askFleet_canonical hs fun s hs => modClaim_canonical s _ _ hs

theorem execResume_canonical {a : MbArgs} (h : MemoryCanonical s) : OutcomeCanonical (execResume a s) := by
  unfold execResume
  exact command_canonical h fun s hs => mailboxDone_canonical (askFleet_canonical hs fun _ hs => resumeClaim_canonical hs)

theorem observeAbort_canonical {cl : Nat} (h : MemoryCanonical s) : MemoryCanonical (observeAbort s cl) := by
  unfold observeAbort
  extract_lets c n
  split
  · exact .ite h (planEv_canonical _ _ _ _ _ (setClaim_canonical s _ _ h))
  · exact defer_canonical (claimStopped_canonical (recordAbort_canonical (setClaim_canonical s _ _ h)))
  all_goals exact h

theorem execAbort_canonical {a : MbArgs} (h : MemoryCanonical s) : OutcomeCanonical (execAbort a s) := by
  unfold execAbort
  exact command_canonical h fun s hs => askFleet_canonical hs fun _ hs => observeAbort_canonical hs

theorem storeImage_canonical {b : List Byte} (h : MemoryCanonical s) : MemoryCanonical (storeImage s c b) := by
  refine MemoryCanonical.congr (h.modCtl c (f := fun x => { x.store c (halfBase c (!x.half)) b with retained := sha256 b })
    fun x hx => ?_) rfl rfl rfl
  exact Ctl.store_wf _ _ _ hx

theorem execFwload_canonical {a : MbArgs} (h : MemoryCanonical s) : OutcomeCanonical (execFwload a s) := by
  unfold execFwload
  refine command_canonical h fun s hs => .ite (mailboxDone_canonical hs) ?_
  exact .ite (mailboxDone_canonical (storeImage_canonical hs)) (storeImage_canonical hs)

theorem execRecord_canonical {a : MbArgs} (h : MemoryCanonical s) : OutcomeCanonical (execRecord a s) := by
  unfold execRecord
  exact command_canonical h fun _ hs => mailboxDone_canonical hs

theorem takeCommand_canonical (h : MemoryCanonical s) : MemoryCanonical (takeCommand s) :=
  .ite (push_canonical _ _ (h.congr rfl rfl rfl)) h

theorem execAccessionRecordWrite_canonical {b : BitVec 8} {r t : List Byte} (h : MemoryCanonical s) :
    OutcomeCanonical (execAccessionRecordWrite b r t s) := by
  unfold execAccessionRecordWrite
  have ha : MemoryCanonical { s with accessions := s.accessions.put b r } := h.congr rfl rfl rfl
  exact .next (.ite (defer_canonical h) (mapLease_canonical (ha.farWrite _)))

theorem askSwitch_canonical {a : BitVec 32} (h : MemoryCanonical s) : MemoryCanonical (askSwitch s c a) := by
  unfold askSwitch
  have hf : MemoryCanonical { s with free := s.free + 1 } := h.congr rfl rfl rfl
  refine .ite (h.modCtl _ fun _ hx => hx) (push_canonical _ _ (hf.modCtl _ fun _ hx => ?_))
  exact Ctl.store_wf _ _ _ hx

theorem startImage_canonical {x : Bool} (h : MemoryCanonical s) : MemoryCanonical (startImage s c x) := by
  cases c with
  | curator => exact h.congr rfl rfl rfl
  | engine => exact h
  | docent => exact h

theorem execFirmwareSwitch_canonical (h : MemoryCanonical s) : OutcomeCanonical (execFirmwareSwitch c s) := by
  unfold execFirmwareSwitch
  extract_lets x y s1
  have h1 : MemoryCanonical s1 := startImage_canonical (extend_canonical (h.setCtl _ (h.ctlOf c)))
  exact .next (.ite (h.setCtl _ (h.ctlOf c)) (.ite (h.setCtl _ (h.ctlOf c)) (.ite h1 (push_canonical _ _ h1))))

theorem signalAlive_canonical {a : BitVec 32} (h : MemoryCanonical s) : MemoryCanonical (signalAlive s c a) :=
  h.modCtl _ fun _ hx => hx

theorem signalAccept_canonical {a : BitVec 32} (h : MemoryCanonical s) : MemoryCanonical (signalAccept s c a) := by
  unfold signalAccept
  extract_lets x s1
  have h1 : MemoryCanonical s1 := h.setCtl _ (h.ctlOf c)
  exact takeCommand_canonical (mailboxRelease_canonical (.ite (mailboxDone_canonical h1) h1))

theorem writeSwcmd_canonical {g : CtlSignal} (h : MemoryCanonical s) : MemoryCanonical (writeSwcmd s g) := by
  unfold writeSwcmd
  split
  · exact signalAlive_canonical h
  · exact signalAccept_canonical h
  · exact askSwitch_canonical h
  · exact h.modCtl _ fun _ hx => hx

theorem execRollback_canonical (h : MemoryCanonical s) : OutcomeCanonical (execRollback c s) := by
  unfold execRollback
  extract_lets x y s1
  have h1 : MemoryCanonical s1 := startImage_canonical (extend_canonical (h.setCtl _ (h.ctlOf c)))
  exact .next (.ite h (takeCommand_canonical (mailboxRelease_canonical (.ite (mailboxDone_canonical h1) h1))))

theorem execRetainedImageFault_canonical (h : MemoryCanonical s) : OutcomeCanonical (execRetainedImageFault c s) := by
  unfold execRetainedImageFault
  extract_lets x s1
  have h1 : MemoryCanonical s1 := h.setCtl _ (h.ctlOf c)
  exact .next (.ite (.ite (enterSafe_canonical h1) h1) h)

theorem answer_canonical {n : Nat} {l : List Byte} (h : MemoryCanonical s) : MemoryCanonical (answer s n l) :=
  h.congr rfl rfl rfl

theorem execGetMeasurements_canonical {n : Nat} {x : Bool} (h : MemoryCanonical s) :
    OutcomeCanonical (execGetMeasurements n x s) := .next (.ite (answer_canonical h) (h.congr rfl rfl rfl))

end Curator

/-! ## Boot and the host's side (spec/14) -/

section Boot
variable {s : State}

/-- A controller keeps its memory over a boot. -/
theorem bootCtl_wf {l : List Controller} (c : Controller) (h : MemoryCanonical s) : (bootCtl s l c).mem.wf = true := by
  have hc := h.ctlOf c
  unfold State.ctlOf at hc
  unfold bootCtl
  cases hf : find s.ctls c <;> rw [hf] at hc <;> simp only [Option.getD] at hc ⊢ <;> split <;> exact hc

theorem bootMeasure_canonical {n k : Nat} (h : MemoryCanonical s) : MemoryCanonical (bootMeasure n s k) := by
  have hm (l : List Controller) (i : BitVec 3) :
      MemoryCanonical (l.foldl (fun s c => extend s i (s.ctlOf c).active) s) :=
    .foldl (fun _ _ hs => extend_canonical hs) _ h
  unfold bootMeasure
  split
  · exact extend_canonical h
  · exact hm _ _
  · exact hm _ _
  · exact hm _ _
  · exact extend_canonical h
  · exact h

theorem powerOn_canonical {b : BootFindings} (h : MemoryCanonical s) : MemoryCanonical (powerOn s b) := by
  unfold powerOn
  extract_lets r back rs dr s0 s1
  have h0 : MemoryCanonical s0 := by
    refine ⟨h.1, memoryCanonical_reset.2.1, fun p hp => ?_⟩
    obtain ⟨c, -, rfl⟩ := List.mem_map.mp hp
    exact bootCtl_wf c h
  have h1 : MemoryCanonical s1 := .foldl (fun _ _ hs => bootMeasure_canonical hs) _ (h0.congr rfl rfl rfl)
  split
  · exact h1.congr rfl rfl rfl
  · exact h1.congr rfl rfl rfl

theorem execRestart_canonical {a : MbArgs} (h : MemoryCanonical s) : OutcomeCanonical (execRestart a s) :=
  command_canonical h fun _ hs => powerOn_canonical hs

theorem hostWrite_canonical {a : Nat} {l : List Byte} (h : MemoryCanonical s) : MemoryCanonical (hostWrite s a l) :=
  .ite (.ite (push_canonical s _ h) h) (h.farWrite _)

theorem execHostFarWrite_canonical {a : Nat} {w : FarData} (h : MemoryCanonical s) :
    OutcomeCanonical (execHostFarWrite a w s) :=
  .next (.ite h (MemoryCanonical.congr (hostWrite_canonical h) rfl rfl rfl))

theorem mailboxWrite_canonical {n : Nat} {v : BitVec 64} (h : MemoryCanonical s) :
    MemoryCanonical (mailboxWrite s n v) := by
  unfold mailboxWrite
  dsimp only
  split
  case h_8 => exact .ite (takeCommand_canonical (h.congr rfl rfl rfl)) h
  all_goals exact h.congr rfl rfl rfl

theorem registerWrite_canonical {n : Nat} {v : BitVec 64} (h : MemoryCanonical s) :
    MemoryCanonical (registerWrite s n v) := by
  unfold registerWrite
  exact .ite h (.ite (.ite (push_canonical s _ h) (.ite (modQueue_canonical h) h)) (mailboxWrite_canonical h))

theorem execHostRegisterWrite_canonical {n : Nat} {v : BitVec 64} (h : MemoryCanonical s) :
    OutcomeCanonical (execHostRegisterWrite n v s) := .next (.ite h (registerWrite_canonical h))

end Boot

/-! ## Messages of a fleet (spec/10, spec/14) -/

section Fleet
variable {s : State}

theorem fleetRequest_canonical {n : Nat} (h : MemoryCanonical s) : MemoryCanonical (fleetRequest s n) := by
  unfold fleetRequest
  split
  · exact .ite (modClaim_canonical s _ _ h) h
  · exact .ite (resumeClaim_canonical h) h
  · exact observeAbort_canonical h
  · exact h

theorem formFleet_canonical {w n lp hf : Nat} (h : MemoryCanonical s) : MemoryCanonical (formFleet s w n lp hf) :=
  .ite (h.congr rfl rfl rfl) h

theorem formAgreed_canonical {f : Forming} {v lp : Nat} (h : MemoryCanonical s) :
    MemoryCanonical (formAgreed s f v lp) :=
  .ite h (.ite (h.congr rfl rfl rfl) (h.congr rfl rfl rfl))

theorem settleRest_canonical {b : Nat} (h : MemoryCanonical s) : MemoryCanonical (settleRest s b) := by
  unfold settleRest
  split
  · extract_lets said s1 s2
    have h1 : MemoryCanonical s1 := modClaim_canonical s _ _ h
    have h2 : MemoryCanonical s2 := h1.congr rfl rfl rfl
    exact .ite (.ite (.ite (mailboxDone_canonical h2) h2) h1) h
  · exact h

theorem heardBoundary_canonical {v b : Nat} {x : Bool} (h : MemoryCanonical s) :
    MemoryCanonical (heardBoundary s v b x) := by
  have h1 := modClaim_canonical s 0 (fun c => { c with answers := c.answers ++ [(v, b, x)] }) h
  exact settleRest_canonical (.ite (settleParley_canonical h1) (sayBoundary_canonical h1))

theorem cutAgreed_canonical {w n : Nat} (h : MemoryCanonical s) : MemoryCanonical (cutAgreed s w n) := by
  unfold cutAgreed
  split
  · exact .ite h (.ite (h.congr rfl rfl rfl) (h.congr rfl rfl rfl))
  · exact h

theorem heardMessage_canonical {m : FleetMessage} (h : MemoryCanonical s) : MemoryCanonical (heardMessage s m) := by
  have hd := defer_canonical (e := .managementSidebandMessage m) h
  cases m with
  | form => exact formFleet_canonical h
  | formAgreed =>
    unfold heardMessage
    dsimp only
    split
    · exact formAgreed_canonical h
    · exact hd
    · exact h
  | cutProposed =>
    unfold heardMessage
    dsimp only
    split
    · exact h.congr rfl rfl rfl
    · exact h
  | cutAgreed => exact .ite hd (cutAgreed_canonical h)
  | cutMade => exact .ite hd (h.congr rfl rfl rfl)
  | launch => exact receiveLaunch_canonical h
  | peerRoutes =>
    unfold heardMessage
    dsimp only
    split
    · exact settleRoutes_canonical (h.congr rfl rfl rfl)
    · exact hd
    · exact h
  | verdict => exact settleVerdicts_canonical (MemoryCanonical.congr h rfl rfl rfl)
  | partEnded => exact settleFleet_canonical (MemoryCanonical.congr h rfl rfl rfl)
  | boundary => exact .ite (heardBoundary_canonical h) h
  | launchEnded =>
    unfold heardMessage
    dsimp only
    split
    · exact .ite (settleLease_canonical (h.congr rfl rfl rfl)) h
    · exact h
  | request => exact .ite (.ite (planEv_canonical s _ _ _ _ h) (fleetRequest_canonical h)) h

theorem fleetMessage_canonical {m : FleetMessage} (h : MemoryCanonical s) : MemoryCanonical (fleetMessage s m) :=
  .ite (heardMessage_canonical h) h

end Fleet

/-! ## What every instruction and every event keeps -/

section Dispatch
variable {s : State}

/-- Every event keeps the canonical form: each row by what it does to the memories. -/
theorem runEvent_canonical {e : Event} (h : MemoryCanonical s) : OutcomeCanonical (runEvent e s) := by
  cases e <;> dsimp only [runEvent]
  case openSpanEntry | waitFormIssue | tkawaitIssue | runEnd | deadbandSlewSet | peerLinkLoss | jcbPostArrival =>
    exact .next h
  case resultLanding => exact .next (landNow_canonical h)
  case bankCommit => exact .next (commitData_canonical h)
  case mapChangeEffect => exact .next (applyChange_canonical h)
  case formatChangeEffect | mmaCompletion | holdEnd => exact .next (h.modTile _ fun _ hx => hx)
  case reductionApply => exact .next (applyReduction_canonical h)
  case stageRowTransfer => exact .next (transferRow_canonical h)
  case mmaStart => exact .next (withOp_canonical h fun _ => startSends_canonical h)
  case mmaGroupAdd => exact .next (withOp_canonical h fun _ => groupAdd_canonical h)
  case mmaBlockWrite => exact .next (withOp_canonical h fun _ => blockWrite_canonical h)
  case arraySend => exact execArraySend_canonical h
  case operandRowDeposit => exact .next (depositOperandRow_canonical h)
  case flitArrival => exact .next (crossed_canonical h)
  case flitRelease => exact .next (release_canonical h)
  case landedFlitDue => exact .next (landDue_canonical h)
  case landingLost => exact .next (landingLost_canonical h)
  case holdDelivery => exact .next (holdDelivered_canonical h)
  case voltageDroop => exact .next (droopStretch_canonical h)
  case localTrimUpdate => exact .next (trimTile_canonical h)
  case waferTrimUpdate => exact .next (trimWafer_canonical h)
  case throttle => exact execThrottle_canonical h
  case railChange => exact execRailChange_canonical h
  case countUpset => exact execCountUpset_canonical h
  case bitUpset => exact execBitUpset_canonical h
  case alignment => exact .next (align_canonical h)
  case gateRelease => exact .next (releaseGate_canonical h)
  case gateTimeout => exact .next (gateTimeout_canonical h)
  case barrierPhaseCompletion => exact .next (completePhase_canonical h)
  case barrierTimeout => exact .next (barrierTimeout_canonical h)
  case nonPreEmptibleCap => exact .next (sectionCap_canonical h)
  case weightArrival => exact .next (weightArrives_canonical h)
  case jcbTotalArrival => exact .next (totalArrives_canonical h)
  case strandRetirement => exact .next (retireStrand_canonical h)
  case claimEvaluation => exact execClaimEvaluation_canonical h
  case commandActivation => exact .next (activate_canonical h)
  case readLineRequest => exact .next (requestLine_canonical h)
  case stagingFlitRelease => exact .next (releaseFlit_canonical h)
  case stagingDeposit => exact .next (deposit_canonical h)
  case stagingSourceRead => exact .next (readSource_canonical h)
  case stagingWriteFlit => exact .next (writeFlit_canonical h)
  case stagingWriteCommit => exact .next (commitWrite_canonical h)
  case trackerFire => exact .next (fireTracker_canonical h)
  case timelineAdvance => exact .next (advanceTimeline_canonical h)
  case flagWrite => exact .next (writeFlag_canonical h)
  case fatalStop => exact execFatalStop_canonical h
  case uncorrectableHalt => exact execUncorrectableHalt_canonical h
  case preemptionStop => exact execPreemptionStop_canonical h
  case selfTestMove => exact execSelfTestMove_canonical h
  case selfTestMoveBack => exact execSelfTestMoveBack_canonical h
  case abortStop => exact execAbortStop_canonical h
  case claimRelease => exact execClaimRelease_canonical h
  case powerOn => exact .next (powerOn_canonical h)
  case hostFarWrite => exact execHostFarWrite_canonical h
  case hostFarRead => exact .next (.ite h (h.congr rfl rfl rfl))
  case qnotifyWrite => exact .next (notify_canonical h)
  case hostRegisterWrite => exact execHostRegisterWrite_canonical h
  case packetRead => exact .next (readPacket_canonical h)
  case fleetLaunch => exact .next (receiveLaunch_canonical h)
  case managementSidebandMessage => exact .next (fleetMessage_canonical h)
  case load => exact execLoad_canonical h
  case evict => exact execEvict_canonical h
  case lease => exact execLease_canonical h
  case unlease => exact execUnlease_canonical h
  case unleaseEffect => exact execUnleaseEffect_canonical h
  case queueEnable => exact execQueueEnable_canonical h
  case queueDisable => exact execQueueDisable_canonical h
  case queueDisableDrain => exact execQueueDisableDrain_canonical h
  case invtlb => exact execInvtlb_canonical h
  case preempt => exact execPreempt_canonical h
  case resume => exact execResume_canonical h
  case abort => exact execAbort_canonical h
  case fwload => exact execFwload_canonical h
  case record => exact execRecord_canonical h
  case restart => exact execRestart_canonical h
  case opNotAssigned => exact .next (mailboxDone_canonical h)
  case switchRequest => exact .next (askSwitch_canonical h)
  case firmwareSwitch => exact execFirmwareSwitch_canonical h
  case alive | accept => exact .next (writeSwcmd_canonical h)
  case rollback => exact execRollback_canonical h
  case getVersion | getCapabilities | negotiateAlgorithms | getDigests | getCertificate | challenge =>
    exact .next (answer_canonical h)
  case getMeasurements => exact execGetMeasurements_canonical h
  case accessionRecordWrite => exact execAccessionRecordWrite_canonical h
  case retainedImageFault => exact execRetainedImageFault_canonical h
  case tileFailsSelfTest => exact execTileFailsSelfTest_canonical h

/-- Every instruction keeps the canonical form; an event's row does what the event does. -/
theorem exec_canonical {i : Instr} (h : MemoryCanonical s) : OutcomeCanonical (exec i s) := by
  cases i <;> dsimp only [exec, vldAt, vstAt, execVldRow, execVldCol, execVstRow, execVstCol, execVld2, execVgt, execVgt2,
    execVsc, execScnt, execSreset, execBfmt, execMclaim, execMrel]
  case movi | movhi | vmovi | xpoll | tlRd | nop | br | call => exact .next h
  case trap | svc => exact .next (faultNext_canonical s _ _ _ h)
  case add | sub | and | or | xor | andn | mul | mulh | mulhn | div | divn | rem | remn | shl | shr | sra | rol | min
    | max | minn | maxn | ceq | cne | clt | cltn | cle | clen => exact sBin_canonical h
  case addi | andi | ori | xori | shli | shri | srai | ceqi | clti | bfx | bfxs => exact sImm_canonical h
  case sel => exact execSel_canonical h
  case clz | ctz | popc => exact sUn_canonical h
  case bfi | aaddi | vupk => exact always_canonical h fun _ hs => hs
  case aadd | asub | amk | ahi | alo | kset | kget | vext | knot | kcnt | rngSeed | rngPop | bmap | npreOff | fenceAcq =>
    exact guarded_canonical h fun _ hs => hs
  case fadd | fsub | fmul | fmin | fmax | dot2 | iadd | isub | imul | imulh | iand | ior | ixor | imin | imax | ishl
    | ishr | isra => exact vBin_canonical h
  case fabs | fneg | frcp | frsq | fexp2 | flog2 | vmov => exact vUn_canonical h
  case fma | fms | fnma | imad => exact vTri_canonical h
  case fcmpEq | fcmpNe | fcmpLt | fcmpLe | fcmpUn | icmpEq | icmpNe | icmpLt | icmpLe => exact vCmp_canonical h
  case vsel => exact execVsel_canonical h
  case vbc | vins => exact laned_canonical h fun _ _ hs => hs
  case vperm | vrot => exact vMove_canonical h
  case vzip | vunzip => exact vPair_canonical h
  case vsum | vmaxr => exact vReduce_canonical h
  case kand | kor | kxor => exact kBin_canonical h
  case ldB | ldBn | ldH | ldHn | ldW => exact mLoad_canonical h
  case stB | stH | stW => exact mStore_canonical h
  case vldRow | vldCol | vgt => exact mLoadV_canonical h
  case vstRow | vstCol | vsc => exact mStoreV_canonical h
  case vld2 | vgt2 => exact mLoadPair_canonical h
  case vst2 => exact mStorePair_canonical h
  case vlddRow | vlddCol => exact vlddAt_canonical h
  case amoAdd | amoAnd | amoOr | amoXor | amoMin | amoMax | amoXchg | amoCas => exact mAmo_canonical h
  case redF32 | redS32 => exact mRed_canonical h
  case cvt => exact execCvt_canonical h
  case qblk => exact execQblk_canonical h
  case dqblk => exact execDqblk_canonical h
  case vpk => exact execVpk_canonical h
  case spush => exact execSpush_canonical h
  case spop => exact execSpop_canonical h
  case scnt | sreset | bfmt | fenceRel | fenceAr | fenceSc => exact guardedC_canonical h fun _ hs => hs
  case bgive => exact execBgive_canonical h
  case blend => exact execBlend_canonical h
  case bback => exact execBback_canonical h
  case brot | brotRev => exact rotate_canonical h
  case bzero => exact execBzero_canonical h
  case bcopy => exact execBcopy_canonical h
  case mclaim | mrel | maccZero | tkhold => exact alwaysC_canonical h fun _ hs => hs
  case mstageRow | mstageCol => exact stage_canonical h
  case mshape => exact execMshape_canonical h
  case mma => exact execMma_canonical h
  case maccRd => exact execMaccRd_canonical h
  case mqnt => exact execMqnt_canonical h
  case xsendLo | xsendHi => exact send_canonical h
  case xrecvLo | xrecvHi => exact receive_canonical h
  case xland => exact execXland_canonical h
  case xtag => exact execXtag_canonical h
  case tkalign => exact execTkalign_canonical h
  case stgSet => exact execStgSet_canonical h
  case readToBank | readToLandingBuffer | write | trackedWrite => exact stgGo_canonical h
  case stgRd => exact execStgRd_canonical h
  case tlWait => exact execTlWait_canonical h
  case brz | brnz => exact branchIf_canonical h fun s hs => modCore_canonical s _ _ hs
  case brk => exact branchIf_canonical h fun s hs => modCore_canonical _ _ _ (modCore_canonical s _ _ hs)
  case ret => exact execRet_canonical h
  case loop => exact execLoop_canonical h
  case halt => exact execHalt_canonical h
  case tkawait => exact execTkawait_canonical h
  case gate => exact execGate_canonical h
  case wsplit => exact execWsplit_canonical h
  case wret => exact guardedC_canonical h fun _ hs => returnWeight_canonical hs
  case jcbAdd => exact guardedC_canonical h fun _ hs => sendUpdate_canonical hs
  case jcbPost => exact guardedC_canonical h fun s hs => sendUpdate_canonical (modCore_canonical s _ _ hs)
  case npreOn => exact execNpreOn_canonical h
  case brkpt => exact execBrkpt_canonical h
  case iret => exact execIret_canonical h
  case crget => exact execCrget_canonical h
  case crset => exact execCrset_canonical h
  case waitaEq | waitaNe | waitaGen => exact waita_canonical h
  case barArr => exact alwaysC_canonical h fun _ hs => arriveAt_canonical hs
  case barWait => exact waits_canonical h (modCore_canonical s _ _ h)
  case barSync => exact waits_canonical (syncArrive_canonical h) (modCore_canonical s _ _ h)
  case openSpanEntry => exact runEvent_canonical (e := .openSpanEntry _) h
  case waitFormIssue => exact runEvent_canonical (e := .waitFormIssue _) h
  case tkawaitIssue => exact runEvent_canonical (e := .tkawaitIssue _) h
  case resultLanding => exact runEvent_canonical (e := .resultLanding _ _) h
  case runEnd => exact runEvent_canonical (e := .runEnd _) h
  case bankCommit => exact runEvent_canonical (e := .bankCommit _ _ _ _) h
  case mapChangeEffect => exact runEvent_canonical (e := .mapChangeEffect _ _) h
  case formatChangeEffect => exact runEvent_canonical (e := .formatChangeEffect _ _ _) h
  case reductionApply => exact runEvent_canonical (e := .reductionApply _) h
  case stageRowTransfer => exact runEvent_canonical (e := .stageRowTransfer _ _) h
  case mmaStart => exact runEvent_canonical (e := .mmaStart _ _) h
  case mmaGroupAdd => exact runEvent_canonical (e := .mmaGroupAdd _ _ _ _) h
  case mmaBlockWrite => exact runEvent_canonical (e := .mmaBlockWrite _ _ _) h
  case mmaCompletion => exact runEvent_canonical (e := .mmaCompletion _ _) h
  case arraySend => exact runEvent_canonical (e := .arraySend _ _) h
  case operandRowDeposit => exact runEvent_canonical (e := .operandRowDeposit _ _ _ _) h
  case flitArrival => exact runEvent_canonical (e := .flitArrival _ _ _) h
  case flitRelease => exact runEvent_canonical (e := .flitRelease _ _) h
  case landedFlitDue => exact runEvent_canonical (e := .landedFlitDue _ _ _) h
  case landingLost => exact runEvent_canonical (e := .landingLost _ _ _) h
  case holdDelivery => exact runEvent_canonical (e := .holdDelivery _ _ _) h
  case holdEnd => exact runEvent_canonical (e := .holdEnd _) h
  case voltageDroop => exact runEvent_canonical (e := .voltageDroop _ _) h
  case localTrimUpdate => exact runEvent_canonical (e := .localTrimUpdate _) h
  case waferTrimUpdate => exact runEvent_canonical (e := .waferTrimUpdate _) h
  case deadbandSlewSet => exact runEvent_canonical (e := .deadbandSlewSet _ _) h
  case throttle => exact runEvent_canonical (e := .throttle _) h
  case railChange => exact runEvent_canonical (e := .railChange _ _ _) h
  case countUpset => exact runEvent_canonical (e := .countUpset _ _) h
  case bitUpset => exact runEvent_canonical (e := .bitUpset _ _) h
  case alignment => exact runEvent_canonical (e := .alignment _) h
  case peerLinkLoss => exact runEvent_canonical (e := .peerLinkLoss _) h
  case gateRelease => exact runEvent_canonical (e := .gateRelease _ _) h
  case gateTimeout => exact runEvent_canonical (e := .gateTimeout _ _) h
  case barrierPhaseCompletion => exact runEvent_canonical (e := .barrierPhaseCompletion _ _) h
  case barrierTimeout => exact runEvent_canonical (e := .barrierTimeout _ _) h
  case nonPreEmptibleCap => exact runEvent_canonical (e := .nonPreEmptibleCap _) h
  case weightArrival => exact runEvent_canonical (e := .weightArrival _ _ _) h
  case jcbTotalArrival => exact runEvent_canonical (e := .jcbTotalArrival _ _) h
  case jcbPostArrival => exact runEvent_canonical (e := .jcbPostArrival _) h
  case strandRetirement => exact runEvent_canonical (e := .strandRetirement _) h
  case claimEvaluation => exact runEvent_canonical (e := .claimEvaluation _) h
  case commandActivation => exact runEvent_canonical (e := .commandActivation _) h
  case readLineRequest => exact runEvent_canonical (e := .readLineRequest _ _ _) h
  case stagingFlitRelease => exact runEvent_canonical (e := .stagingFlitRelease _ _ _) h
  case stagingDeposit => exact runEvent_canonical (e := .stagingDeposit _ _ _) h
  case stagingSourceRead => exact runEvent_canonical (e := .stagingSourceRead _ _ _) h
  case stagingWriteFlit => exact runEvent_canonical (e := .stagingWriteFlit _ _ _) h
  case stagingWriteCommit => exact runEvent_canonical (e := .stagingWriteCommit _ _) h
  case trackerFire => exact runEvent_canonical (e := .trackerFire _) h
  case timelineAdvance => exact runEvent_canonical (e := .timelineAdvance _) h
  case flagWrite => exact runEvent_canonical (e := .flagWrite _ _) h
  case fatalStop => exact runEvent_canonical (e := .fatalStop _) h
  case uncorrectableHalt => exact runEvent_canonical (e := .uncorrectableHalt _) h
  case preemptionStop => exact runEvent_canonical (e := .preemptionStop _) h
  case selfTestMove => exact runEvent_canonical (e := .selfTestMove _ _ _) h
  case selfTestMoveBack => exact runEvent_canonical (e := .selfTestMoveBack _ _) h
  case abortStop => exact runEvent_canonical (e := .abortStop _) h
  case claimRelease => exact runEvent_canonical (e := .claimRelease _) h
  case powerOn => exact runEvent_canonical (e := .powerOn _) h
  case hostFarWrite => exact runEvent_canonical (e := .hostFarWrite _ _) h
  case hostFarRead => exact runEvent_canonical (e := .hostFarRead _ _) h
  case qnotifyWrite => exact runEvent_canonical (e := .qnotifyWrite _ _) h
  case hostRegisterWrite => exact runEvent_canonical (e := .hostRegisterWrite _ _) h
  case packetRead => exact runEvent_canonical (e := .packetRead _) h
  case fleetLaunch => exact runEvent_canonical (e := .fleetLaunch _ _) h
  case managementSidebandMessage => exact runEvent_canonical (e := .managementSidebandMessage _) h
  case load => exact runEvent_canonical (e := .load _) h
  case evict => exact runEvent_canonical (e := .evict _) h
  case lease => exact runEvent_canonical (e := .lease _) h
  case unlease => exact runEvent_canonical (e := .unlease _) h
  case unleaseEffect => exact runEvent_canonical (e := .unleaseEffect _) h
  case queueEnable => exact runEvent_canonical (e := .queueEnable _) h
  case queueDisable => exact runEvent_canonical (e := .queueDisable _) h
  case queueDisableDrain => exact runEvent_canonical (e := .queueDisableDrain _) h
  case invtlb => exact runEvent_canonical (e := .invtlb _) h
  case preempt => exact runEvent_canonical (e := .preempt _) h
  case resume => exact runEvent_canonical (e := .resume _) h
  case abort => exact runEvent_canonical (e := .abort _) h
  case fwload => exact runEvent_canonical (e := .fwload _) h
  case record => exact runEvent_canonical (e := .record _) h
  case restart => exact runEvent_canonical (e := .restart _) h
  case opNotAssigned => exact .next (mailboxDone_canonical h)
  case switchRequest => exact runEvent_canonical (e := .switchRequest _ _) h
  case firmwareSwitch => exact runEvent_canonical (e := .firmwareSwitch _) h
  case alive => exact runEvent_canonical (e := .alive _) h
  case accept => exact runEvent_canonical (e := .accept _) h
  case rollback => exact runEvent_canonical (e := .rollback _) h
  case getVersion => exact runEvent_canonical (e := .getVersion) h
  case getCapabilities => exact runEvent_canonical (e := .getCapabilities _) h
  case negotiateAlgorithms => exact runEvent_canonical (e := .negotiateAlgorithms _ _) h
  case getDigests => exact runEvent_canonical (e := .getDigests) h
  case getCertificate => exact runEvent_canonical (e := .getCertificate _ _ _) h
  case challenge => exact runEvent_canonical (e := .challenge _ _) h
  case getMeasurements => exact runEvent_canonical (e := .getMeasurements _ _) h
  case accessionRecordWrite => exact runEvent_canonical (e := .accessionRecordWrite _ _ _) h
  case retainedImageFault => exact runEvent_canonical (e := .retainedImageFault _) h
  case tileFailsSelfTest => exact runEvent_canonical (e := .tileFailsSelfTest _ _) h

end Dispatch

/-! ## What a step does to the memories beside the meanings of instructions and events -/

section Presentation
variable {s : State} {l : List Instr}

theorem checkFetch_canonical {st : StrandId} (h : MemoryCanonical s) : MemoryCanonical (checkFetch s st) := by
  unfold checkFetch
  exact .ite h (.foldl (fun s _ hs => checkRead_canonical s _ _ _ _ hs) _ h)

theorem presentWait_canonical {i : Instr} (h : MemoryCanonical s) : MemoryCanonical (presentWait s i) := by
  unfold presentWait
  split
  · exact .ite (watch_canonical h) h
  · exact .ite (watch_canonical h) h
  · exact .ite (watch_canonical h) h
  · exact syncArrive_canonical h
  · exact h

theorem keepTarget_canonical (h : MemoryCanonical s) : MemoryCanonical (keepTarget s l) := by
  induction l with
  | nil => exact h
  | cons i l ih =>
    unfold keepTarget
    split
    next => exact h
    next => exact modCore_canonical _ _ _ (taintIf_canonical s _ h)
    next heq =>
      cases heq
      exact ih

theorem holdBundle_canonical (h : MemoryCanonical s) : MemoryCanonical (holdBundle s) := by
  unfold holdBundle
  split
  · exact h
  all_goals exact modCore_canonical s _ _ h

theorem wake_canonical (h : MemoryCanonical s) : MemoryCanonical (wake s) := by
  unfold wake
  split
  · exact modCore_canonical s _ _ h
  all_goals exact h

theorem takePending_canonical {n : BitVec 8} (h : MemoryCanonical s) : MemoryCanonical (takePending s n) :=
  fault_canonical _ _ _ _ (modCore_canonical s _ _ h)

theorem goSequential_canonical {a q : BitVec 64} {x : Option (BitVec 64 × Nat)} (h : MemoryCanonical s) :
    MemoryCanonical (goSequential s a q x) := modCore_canonical s _ _ h

theorem afterIssue_canonical {x : Option (BitVec 64 × Nat)} {a q : BitVec 64} (h : MemoryCanonical s) :
    MemoryCanonical (afterIssue x a q s) := by
  refine .ite h ?_
  split
  · exact goSequential_canonical h
  · exact planEv_canonical _ _ _ _ _ (modCore_canonical s _ _ h)
  · exact goSequential_canonical h

end Presentation

/-! ## Issue, for any meaning of instructions that keeps the canonical form -/

section Issue
variable {s : State} {l : List Instr} {ex : Meaning} (hex : ∀ i s, MemoryCanonical s → OutcomeCanonical (ex i s))

theorem sharing_canonical (h : MemoryCanonical s) : MemoryCanonical (sharing ex l s) := by
  unfold sharing
  split
  · exact h
  · exact h
  · exact h.modTile _ fun _ hx => hx

theorem preTaint_canonical (h : MemoryCanonical s) : MemoryCanonical (preTaint ex s l) := by
  unfold preTaint
  split
  · exact h
  · exact h
  · exact taintIf_canonical s _ h

theorem presentTile_canonical {t : TileId} (h : MemoryCanonical s) : MemoryCanonical (presentTile ex t s) := by
  unfold presentTile
  exact .ite h (h.modTile _ fun _ hx => hx)

include hex

theorem faultIn_canonical {i : Instr} (h : MemoryCanonical s) : OutcomeCanonical (faultIn ex l s i) := by
  unfold faultIn
  split
  · exact hex i s h
  · exact hex i s h
  · split
    next u hu => exact .next ((hex i _ (sharing_canonical h) u hu).modTile _ fun _ hx => hx)
    next f _ => exact .fault f
    next r _ => exact .refused r

theorem runSlots_canonical (h : MemoryCanonical s) : OutcomeCanonical (runSlots ex l s) := by
  induction l generalizing s with
  | nil => exact .next h
  | cons i l ih =>
    unfold runSlots
    split
    next u hu => exact ih (hex i s h u hu)
    next f _ => exact .fault f
    next r _ => exact .refused r

theorem issueSlots_canonical (h : MemoryCanonical s) : OutcomeCanonical (issueSlots ex l s) := by
  unfold issueSlots
  split
  next u hu => exact .next (afterIssue_canonical (runSlots_canonical hex (preTaint_canonical h) u hu))
  next f _ => exact .fault f
  next r _ => exact .refused r

/-- A bundle issues, takes the fault of one slot, or takes the fault that stood pending. -/
theorem checkAndIssue_canonical (h : MemoryCanonical s) : OutcomeCanonical (checkAndIssue ex l s) := by
  unfold checkAndIssue
  dsimp only
  split
  · exact issueSlots_canonical hex h
  · exact faultIn_canonical hex h
  · exact .next (takePending_canonical h)
  · exact OutcomeCanonical.ite (faultIn_canonical hex h) (.next (takePending_canonical h))

theorem presentLegal_canonical (h : MemoryCanonical s) : OutcomeCanonical (presentLegal ex l s) := by
  have hp (n : BitVec 8) : OutcomeCanonical (.next (takePending s n)) := .next (takePending_canonical h)
  unfold presentLegal
  split
  · exact .next (fault_canonical s _ _ _ h)
  · split
    · exact hp _
    · exact .next (modCore_canonical _ _ _ (keepTarget_canonical h))
  · refine OutcomeCanonical.ite ?_ (checkAndIssue_canonical hex (wake_canonical h))
    dsimp only
    split
    · exact .next (holdBundle_canonical (keepTarget_canonical
        (taintIf_canonical _ _ (.foldl (fun _ _ hs => presentWait_canonical hs) _ h))))
    · exact hex _ _ (wake_canonical h)
    · exact hp _
    · exact OutcomeCanonical.ite (hex _ _ (wake_canonical h)) (hp _)

theorem presentSlots_canonical {l : List Slot} (h : MemoryCanonical s) : OutcomeCanonical (presentSlots ex l s) := by
  unfold presentSlots
  refine OutcomeCanonical.ite (.next (fault_canonical s _ _ _ h)) ?_
  split
  · exact .next (fault_canonical s _ _ _ h)
  · exact presentLegal_canonical hex h

theorem presentBundle_canonical (h : MemoryCanonical s) : OutcomeCanonical (presentBundle ex s) := by
  unfold presentBundle
  extract_lets u
  have hu : MemoryCanonical u := checkFetch_canonical h
  split
  · exact .next (fault_canonical u _ _ _ hu)
  · exact presentSlots_canonical hex hu

theorem issueStrand_canonical {st : StrandId} (h : MemoryCanonical s) : OutcomeCanonical (issueStrand ex st s) := by
  unfold issueStrand
  extract_lets u
  have hu : MemoryCanonical u := h.congr rfl rfl rfl
  exact OutcomeCanonical.ite (presentBundle_canonical hex hu) (OutcomeCanonical.ite (.next (modCore_canonical u _ _ hu))
    (.next hu))

end Issue

/-! ## The tick of a claim and wall time -/

section Tick
variable {s : State} {cl : Nat}

theorem takeDue_canonical {p : Nat → Bool} {k : Task} (h : MemoryCanonical s) : MemoryCanonical (takeDue s cl p k) := by
  unfold takeDue
  split
  · exact h
  · exact h.congr rfl rfl rfl

theorem planReductions_canonical (h : MemoryCanonical s) : MemoryCanonical (planReductions s cl) :=
  .foldl (fun s _ hs => .ite hs (planEv_canonical s _ _ _ _ hs)) _ h

theorem startIssues_canonical (h : MemoryCanonical s) : MemoryCanonical (startIssues s cl) :=
  MemoryCanonical.congr (planReductions_canonical (cl := cl) h) rfl rfl rfl

theorem endTile_canonical {t : TileId} (h : MemoryCanonical s) : MemoryCanonical (endTile s t) := by
  unfold endTile
  extract_lets x n f u
  have hu : MemoryCanonical u := (applyWithdrawals_canonical h).modTile _ fun _ hx => hx
  exact .ite hu (addLag_canonical (modDocent_canonical hu))

theorem fireTrackers_canonical (h : MemoryCanonical s) : MemoryCanonical (fireTrackers s cl) :=
  .foldl (fun s _ hs => planEv_canonical s _ _ _ _ hs) _ h

theorem reductionGap_canonical (h : MemoryCanonical s) : MemoryCanonical (reductionGap s cl) := by
  refine .ite ?_ h
  split
  · exact claimFault_canonical s _ _ _ h
  · exact h

theorem planEvaluation_canonical (h : MemoryCanonical s) : MemoryCanonical (planEvaluation s cl) := by
  unfold planEvaluation
  exact .ite h (planEv_canonical _ _ _ _ _ (modClaim_canonical s _ _ h))

theorem closeTick_canonical (h : MemoryCanonical s) : MemoryCanonical (closeTick s cl) := by
  unfold closeTick
  extract_lets u v
  have hu : MemoryCanonical u := lagTick_canonical (.foldl (fun _ _ hs => endTile_canonical hs) _ h)
  have hv : MemoryCanonical v := planEvaluation_canonical (reductionGap_canonical (fireTrackers_canonical hu))
  exact hv.congr rfl rfl rfl

theorem runTask_canonical {ex : Meaning} (hex : ∀ i s, MemoryCanonical s → OutcomeCanonical (ex i s)) {k : Task}
    (h : MemoryCanonical s) : OutcomeCanonical (runTask ex k s) := by
  cases k with
  | ev e => exact runEvent_canonical h
  | read r => exact .next (lateRead_canonical h)
  | early cl => exact .next (.ite (takeDue_canonical h) h)
  | drift cl => exact .next (.ite (lostTick_canonical (nullErrors_canonical (driftTick_canonical h))) h)
  | issues cl => exact .next (.ite (startIssues_canonical h) h)
  | present t => exact .next (.ite (presentTile_canonical h) h)
  | issue st => exact OutcomeCanonical.ite (issueStrand_canonical hex h) (.next h)
  | late cl => exact .next (.ite (takeDue_canonical h) h)
  | endTick cl => exact .next (.ite (closeTick_canonical h) h)

theorem claimTick_canonical (h : MemoryCanonical s) : MemoryCanonical (claimTick s cl) := by
  unfold claimTick
  refine .ite h ?_
  split
  · exact .ite (h.congr rfl rfl rfl) (freezeCycle_canonical h)
  · extract_lets u
    have hu : MemoryCanonical u := turnWheels_canonical (modClaim_canonical s _ _ h)
    exact hu.congr rfl rfl rfl

theorem servePackets_canonical (h : MemoryCanonical s) : MemoryCanonical (servePackets s) := by
  refine .ite h ?_
  split
  · exact h
  · exact h.congr rfl rfl rfl

theorem keepRate_canonical (h : MemoryCanonical s) : MemoryCanonical (keepRate s) :=
  .ite h (.ite (h.congr rfl rfl rfl) (h.congr rfl rfl rfl))

theorem advance_canonical (h : MemoryCanonical s) : MemoryCanonical (advance s) := by
  unfold advance
  extract_lets w u v
  have hu : MemoryCanonical u := keepRate_canonical (h.congr rfl rfl rfl)
  have hv : MemoryCanonical v := servePackets_canonical (stepCurator_canonical hu)
  exact .foldl (fun _ _ hs => claimTick_canonical hs) _ hv

theorem step_canonical (h : MemoryCanonical s) : OutcomeCanonical (step s) := by
  unfold step stepWith
  split
  · exact .next (advance_canonical h)
  · exact runTask_canonical (fun _ _ => exec_canonical) (h.congr rfl rfl rfl)

end Tick

/-- Settles O8: a step runs one task or lets wall time pass, and each of these keeps far memory, every bank and every
controller's memory in the canonical form, since they write them byte by byte or not at all. -/
theorem stepKeepsMemoryForm : Obligations.StepKeepsMemoryForm := by
  unfold Obligations.StepKeepsMemoryForm
  exact fun _ u h hu => step_canonical h u hu

end Sys2Proof.Machine

namespace Sys2Proof.Machine

/-! # The fabric parameters

What every function of the model leaves unchanged: the logical latency of a link, the wheel, the replay depth and the
latency and membership of a fleet. Only a boot and the forming of a fleet set them. -/

section FabricParameters
open State

/-- The fabric parameters: the latency of a link, the wheel, the replay depth, the latency of a peer link and the fleet. -/
def State.fabric (s : State) : Nat × Nat × Nat × Nat × Option (Nat × Nat × Nat) :=
  (s.lh, s.wheel, s.replayLog2, s.lp, s.fleet)

/-- Two states have the same fabric parameters. -/
@[simp] abbrev FabricSame (u s : State) : Prop := u.fabric = s.fabric

theorem FabricSame.trans {a b c : State} (h : FabricSame a b) (k : FabricSame b c) : FabricSame a c := Eq.trans h k

@[simp] theorem fabric_eta (s : State) : (s.lh, s.wheel, s.replayLog2, s.lp, s.fleet) = s.fabric := rfl

@[simp] theorem fabric_mk (cores tiles claims agenda ctxs tlb far farMarks farFlips farTags queues turn mbox cats accessions reply meas startRec power ctls curator docents findings shifts retiredTiles detours failedBypass badFields lowRail lh wheel replayLog2 lp db4 slew waferTrim waferInt fbAcc throttle baseCut cut tests fleet forming fleetLaunch fleetMsgs peerOut peerHolds peerLambda spdm wall todo inputs focus note free) : State.fabric ⟨cores, tiles, claims, agenda, ctxs, tlb, far, farMarks, farFlips, farTags, queues, turn, mbox, cats, accessions, reply, meas, startRec, power, ctls, curator, docents, findings, shifts, retiredTiles, detours, failedBypass, badFields, lowRail, lh, wheel, replayLog2, lp, db4, slew, waferTrim, waferInt, fbAcc, throttle, baseCut, cut, tests, fleet, forming, fleetLaunch, fleetMsgs, peerOut, peerHolds, peerLambda, spdm, wall, todo, inputs, focus, note, free⟩ = (lh, wheel, replayLog2, lp, fleet) := rfl

@[simp] theorem setCore_fabric (s : State) (i : StrandId) (x : Core) : FabricSame (s.setCore i x) s := rfl
@[simp] theorem setTile_fabric (s : State) (i : TileId) (x : Tile) : FabricSame (s.setTile i x) s := rfl
@[simp] theorem setClaim_fabric (s : State) (i : Nat) (x : Claim) : FabricSame (s.setClaim i x) s := rfl
@[simp] theorem setCtx_fabric (s : State) (i : CtxId) (x : Ctx) : FabricSame (s.setCtx i x) s := rfl
@[simp] theorem setCtl_fabric (s : State) (i : Controller) (x : Ctl) : FabricSame (s.setCtl i x) s := rfl
@[simp] theorem modCore_fabric (s : State) (i : StrandId) (f : Core → Core) : FabricSame (s.modCore i f) s := rfl
@[simp] theorem modTile_fabric (s : State) (i : TileId) (f : Tile → Tile) : FabricSame (s.modTile i f) s := rfl
@[simp] theorem modClaim_fabric (s : State) (i : Nat) (f : Claim → Claim) : FabricSame (s.modClaim i f) s := rfl
@[simp] theorem modCtx_fabric (s : State) (i : CtxId) (f : Ctx → Ctx) : FabricSame (s.modCtx i f) s := rfl
@[simp] theorem plan_fabric (s : State) (e : Sched) : FabricSame (s.plan e) s := rfl
@[simp] theorem push_fabric (s : State) (e : Event) : FabricSame (s.push e) s := rfl
@[simp] theorem planEv_fabric (s : State) (c n p : Nat) (e : Event) : FabricSame (s.planEv c n p e) s := rfl

@[simp] theorem taintIf_fabric (s : State) (p : Bool) :
    FabricSame (s.taintIf p) s := by cases p <;> rfl

@[simp] theorem recordFault_fabric (s : State) (cl : Nat) (r : FaultRec) :
    FabricSame (recordFault s cl r) s := rfl

@[simp] theorem fatalAt_fabric (s : State) (cl : Nat) :
    FabricSame (fatalAt s cl) s := by
  unfold fatalAt
  split <;> rfl

@[simp] theorem claimFault_fabric (s : State) (i : TileId) (c : Byte) (d : Quad) :
    FabricSame (claimFault s i c d) s := by simp [claimFault]

@[simp] theorem enterHandler_fabric (s : State) (i : StrandId) (cause : Byte) (cls : Nat) (code : BitVec 16) (data : Quad) (r : BitVec 64) :
    FabricSame (enterHandler s i cause cls code data r) s := rfl

@[simp] theorem takeFatal_fabric (s : State) (i : StrandId) (cause : Byte) (cls : Nat) (code : BitVec 16) (data : Quad) (n : Bool) :
    FabricSame (takeFatal s i cause cls code data n) s := by simp [takeFatal]

@[simp] theorem takeFault_fabric (s : State) (i : StrandId) (cause : Byte) (cls : Nat) (code : BitVec 16) (data : Quad) (r : BitVec 64) :
    FabricSame (takeFault s i cause cls code data r) s := by
  simp only [takeFault]
  (repeat' split) <;> simp

@[simp] theorem fault_fabric (s : State) (cls : SlotClass) (c : Byte) (d : Quad) :
    FabricSame (s.fault cls c d) s := by simp [State.fault]

@[simp] theorem faultNext_fabric (s : State) (cls : SlotClass) (c : Byte) (d : BitVec 16) :
    FabricSame (s.faultNext cls c d) s := by simp [State.faultNext]

@[simp] theorem foldl_fabric {α : Type} {f : State → α → State} (hf : ∀ s x, FabricSame (f s x) s) (l : List α)
    (s : State) :
    FabricSame (l.foldl f s) s := by
  induction l generalizing s with
  | nil => simp
  | cons x l ih => exact (ih (f s x)).trans (hf s x)

/-! ### Ops -/

@[simp] theorem land_fabric (s : State) (cls : SlotClass) (lat : Nat) (l : Landing) :
    FabricSame (State.land s cls lat l) s := rfl

@[simp] theorem takeEarlyFault_fabric (s : State) (i : StrandId) (cause : Byte) (resume : BitVec 64) (cls : Nat) :
    FabricSame (takeEarlyFault s i cause resume cls) s := by simp [takeEarlyFault]

@[simp] theorem redirect_fabric (s : State) (pc : BitVec 64) :
    FabricSame (redirect s pc) s := rfl

@[simp] theorem returnFrom_fabric (s : State) : FabricSame (returnFrom s) s := rfl

@[simp] theorem uncorrectable_fabric (s : State) (i : TileId) (core : Nat) (place : Quad) :
    FabricSame (uncorrectable s i core place) s := by
  unfold uncorrectable
  split <;> simp

@[simp] theorem checkRead_fabric (s : State) (i : TileId) (core : Nat) (bank : BitVec 6) (cells : List (Option Nat)) :
    FabricSame (checkRead s i core bank cells) s := by
  unfold checkRead
  split <;> simp

@[simp] theorem checkFetch_fabric (s : State) (st : StrandId) : FabricSame (checkFetch s st) s := by
  simp only [checkFetch]
  split <;> simp

@[simp] theorem countRows_fabric (s : State) (i : TileId) (bank : BitVec 6) (rows : List Nat) :
    FabricSame (countRows s i bank rows) s := rfl

@[simp] theorem commitBytes_fabric (s : State) (i : TileId) (core : Nat) (bank : BitVec 6) (l : List BankByte) :
    FabricSame (commitBytes s i core bank l) s := by
  simp only [commitBytes]
  split <;> simp

@[simp] theorem commitAccRow_fabric (s : State) (i : TileId) (bank : BitVec 6) (row : Nat) (l : List BankByte) :
    FabricSame (commitAccRow s i bank row l) s := by
  simp only [commitAccRow]
  split <;> simp

/-! ### Operands -/

@[simp] theorem landG_fabric (s : State) (cls : SlotClass) (lat : Nat) (d : Dst 6) (l : Option Latch) (v : MWord) :
    FabricSame (State.landG s cls lat d l v) s := rfl

@[simp] theorem landA_fabric (s : State) (cls : SlotClass) (lat : Nat) (d : Dst 4) (l : Option Latch) (v : MQuad) :
    FabricSame (State.landA s cls lat d l v) s := rfl

@[simp] theorem landK_fabric (s : State) (cls : SlotClass) (lat : Nat) (d : Dst 4) (l : Option Latch) (en : Mask)
    (v : MMask) :
    FabricSame (State.landK s cls lat d l en v) s := rfl

@[simp] theorem landV_fabric (s : State) (cls : SlotClass) (lat : Nat) (d : Dst 6) (l : Option Latch) (en : Mask)
    (v : MVec) :
    FabricSame (State.landV s cls lat d l en v) s := rfl

@[simp] theorem landPair_fabric (s : State) (cls : SlotClass) (lat : Nat) (d : Dst 5) (l : Option Latch) (en : Mask)
    (lo : MVec) (hi : MVec) :
    FabricSame (State.landPair s cls lat d l en lo hi) s := rfl

@[simp] theorem checked_fabric {s eff : State} {cls : SlotClass} {c : Check} (he : FabricSame eff s) :
    FabricSame (s.checked cls c eff) s := by
  unfold State.checked
  split <;> simp [he]

/-! ### Access -/

@[simp] theorem addBookings_fabric (s : State) (bs : List Booking) :
    FabricSame (State.addBookings s bs) s := rfl

@[simp] theorem addIntent_fabric (s : State) (i : Intent) :
    FabricSame (State.addIntent s i) s := rfl

@[simp] theorem planWrite_fabric (s : State) (cls : SlotClass) (k : Nat) (lat : Nat) (bank : BitVec 6)
    (l : List BankByte) :
    FabricSame (State.planWrite s cls k lat bank l) s := by
  unfold State.planWrite
  split <;> simp

@[simp] theorem planRead_fabric (s : State) (cls : SlotClass) (k : Nat) (lat : Nat) (fin : Nat) (vis : Option Nat)
    (r : LateRead) :
    FabricSame (State.planRead s cls k lat fin vis r) s := rfl

@[simp] theorem readNow_fabric (s : State) (bank : BitVec 6) (cells : List (Option Nat)) :
    FabricSame (State.readNow s bank cells) s := by simp [State.readNow]

/-! ### Convert -/

@[simp] theorem takeWord_fabric (s : State) : FabricSame (takeWord s) s := rfl

@[simp] theorem takeIf_fabric (mode : Rnd) (s : State) : FabricSame (takeIf mode s) s := by
  unfold takeIf
  split <;> simp

@[simp] theorem landCv_fabric (s : State) (lat : Nat) (d : Dst 6) (v : MVec) :
    FabricSame (landCv s lat d v) s := rfl

@[simp] theorem landCvPair_fabric (s : State) (lat : Nat) (d : Dst 5) (v : Marked 1024 16) :
    FabricSame (landCvPair s lat d v) s := rfl

/-! ### Matrix -/

@[simp] theorem planStage_fabric (s : State) (bank : BitVec 6) (dst : BitVec 6) (cells : List Nat) (off : Nat) (j : Nat) :
    FabricSame (planStage s bank dst cells off j) s := rfl

@[simp] theorem transferRow_fabric (s : State) (t : TileId) (x0 : StageStep) : FabricSame (transferRow s t x0) s := by
  unfold transferRow
  split <;> simp

@[simp] theorem planArray_fabric (s : State) (t : TileId) (tick : Nat) (phase : Nat) (rank : Nat) (i : Event) :
    FabricSame (planArray s t tick phase rank i) s := rfl

@[simp] theorem planMma_fabric (s : State) (t : TileId) (o : MmaOp) :
    FabricSame (planMma s t o) s := by simp [planMma]

@[simp] theorem acceptMma_fabric (s : State) (r : Vec) (set : Bool) (na : Bool) (nb : Bool) :
    FabricSame (acceptMma s r set na nb) s := by simp [acceptMma]

@[simp] theorem touchArray_fabric (s : State) (t : TileId) (bank : BitVec 6) :
    FabricSame (touchArray s t bank) s := rfl

@[simp] theorem groupAdd_fabric (s : State) (t : TileId) (o : MmaOp) (b : Nat) (g : Nat) :
    FabricSame (groupAdd s t o b g) s := by
  unfold groupAdd
  split <;> simp

@[simp] theorem blockWrite_fabric (s : State) (t : TileId) (o : MmaOp) (b : Nat) :
    FabricSame (blockWrite s t o b) s := by simp [blockWrite]

@[simp] theorem accReadCheck_fabric (s : State) (bank : BitVec 6) (row : Nat) :
    FabricSame (accReadCheck s bank row) s := by
  unfold accReadCheck
  split <;> simp

/-! ### Fabric -/

@[simp] theorem modDocent_fabric (s : State) (t : TileId) (f : Docent → Docent) :
    FabricSame (modDocent s t f) s := rfl

@[simp] theorem retime_fabric (s : State) (t : TileId) : FabricSame (retime s t) s := rfl

@[simp] theorem sendHold_fabric (s : State) (t : TileId) (q cy : Nat) (l : List TileId) :
    FabricSame (sendHold s t q cy l) s :=
  foldl_fabric (fun s o => by dsimp only; split <;> simp) l s

@[simp] theorem holdOut_fabric (s : State) (t : TileId) (q : Nat) (cy : Nat) (by_ : Option Nat) :
    FabricSame (holdOut s t q cy by_) s := by
  simp only [holdOut]
  split <;> simp

@[simp] theorem raiseHoldAt_fabric (s : State) (t : TileId) (q : Nat) (cy : Nat) :
    FabricSame (raiseHoldAt s t q cy) s := by simp [raiseHoldAt]

@[simp] theorem raiseHold_fabric (s : State) (t : TileId) (q : Nat) :
    FabricSame (raiseHold s t q) s := by simp [raiseHold]

@[simp] theorem engineHold_fabric (s : State) (t : TileId) (q : Nat) :
    FabricSame (engineHold s t q) s := by simp [engineHold]

@[simp] theorem notePeak_fabric (s : State) (t : TileId) (ws : List Nat) :
    FabricSame (notePeak s t ws) s := rfl

@[simp] theorem addLag_fabric (s : State) (t : TileId) (f : Nat) : FabricSame (addLag s t f) s := by
  simp only [addLag]
  (repeat' split) <;> simp

@[simp] theorem seeStop_fabric (s : State) (t : TileId) (ws : List Nat) : FabricSame (seeStop s t ws) s := by
  simp only [seeStop]
  split <;> simp

@[simp] theorem lagTile_fabric (s : State) (t : TileId) : FabricSame (lagTile s t) s := by
  simp only [lagTile]
  (repeat' split) <;> simp

@[simp] theorem lagTick_fabric (s : State) (cl : Nat) : FabricSame (lagTick s cl) s := by
  unfold lagTick
  split <;> simp

@[simp] theorem noteDrift_fabric (s : State) (t : TileId) (d : Side) (delta : BitVec 16) (slack : Nat) :
    FabricSame (noteDrift s t d delta slack) s := by
  unfold noteDrift
  split <;> [skip; split] <;> simp

@[simp] theorem driftTile_fabric (s : State) (t : TileId) : FabricSame (driftTile s t) s :=
  foldl_fabric (fun s d => by split <;> simp) _ s

@[simp] theorem driftTick_fabric (s : State) (cl : Nat) : FabricSame (driftTick s cl) s := by
  unfold driftTick
  split <;> simp

@[simp] theorem claimLocal_fabric (s : State) (t : TileId) (g : BitVec 12) : FabricSame (claimLocal s t g).1 s := by
  unfold claimLocal
  split <;> simp

@[simp] theorem enterLanding_fabric (s : State) (t : TileId) (e : LandEntry) : FabricSame (enterLanding s t e) s := by
  unfold enterLanding
  split <;> simp

@[simp] theorem freezeFor_fabric (s : State) (t : TileId) (tag : BitVec 12) (retry : Event) :
    FabricSame (freezeFor s t tag retry) s := by
  unfold freezeFor
  split <;> simp

@[simp] theorem freezeCycle_fabric (s : State) (z : Freeze) : FabricSame (freezeCycle s z) s := by
  unfold freezeCycle
  split <;> simp

@[simp] theorem depositOperandRow_fabric (s : State) (t : TileId) (slot : Nat) (row : MVec) (fmt : BitVec 6) :
    FabricSame (depositOperandRow s t slot row fmt) s := by
  simp only [depositOperandRow]
  (repeat' split) <;> simp

@[simp] theorem deliver_fabric (s : State) (t : TileId) (f : Flit) : FabricSame (deliver s t f) s := by
  simp only [deliver]
  (repeat' split) <;> simp

@[simp] theorem landDue_fabric (s : State) (t : TileId) (tag : BitVec 12) (due : Nat) :
    FabricSame (landDue s t tag due) s := by
  simp only [landDue]
  (repeat' split) <;> simp

@[simp] theorem engineTakes_fabric (s : State) (e : Nat) (f : Flit) : FabricSame (engineTakes s e f) s := by
  unfold engineTakes
  (repeat' split) <;> simp

@[simp] theorem sendEngine_fabric (s : State) (t : TileId) (d : Side) (f : Flit) :
    FabricSame (sendEngine s t d f) s := rfl

@[simp] theorem sendOut_fabric (s : State) (t : TileId) (d : Side) (f : Flit) : FabricSame (sendOut s t d f) s := by
  simp only [sendOut]
  (repeat' split) <;> simp

theorem takePort_fabric {go : State → State} (hgo : ∀ s, FabricSame (go s) s) (s : State) (t : TileId) (p : Option Side) :
    FabricSame (takePort s t p go) s := by
  unfold takePort
  split
  · simp
  · exact (hgo _).trans (by simp)

@[simp] theorem forward_fabric (s : State) (t : TileId) (r : Route) (f : Flit) : FabricSame (forward s t r f) s := by
  have hs := foldl_fabric (fun s d => takePort_fabric (fun s => sendOut_fabric s t d f) s t (some d)) r.outs s
  unfold forward
  dsimp only
  split
  · exact (takePort_fabric (fun s => deliver_fabric s t f) _ t none).trans hs
  · exact hs

@[simp] theorem inject_fabric (s : State) (t : TileId) (f : Flit) : FabricSame (inject s t f) s := by
  simp only [inject]
  (repeat' split) <;> simp

@[simp] theorem thaw_fabric (s : State) (z : Freeze) (f : Flit) : FabricSame (thaw s z f) s := by simp [thaw]

@[simp] theorem arrive_fabric (s : State) (t : TileId) (d : Side) (due : Nat) (f : Flit) :
    FabricSame (arrive s t d due f) s := by
  simp only [arrive]
  split <;> simp

@[simp] theorem crossed_fabric (s : State) (t : TileId) (d : Side) (f : Transit) :
    FabricSame (crossed s t d f) s := by
  unfold crossed
  (repeat' split) <;> simp

@[simp] theorem routeOn_fabric (s : State) (t : TileId) (d : Side) (f : Flit) : FabricSame (routeOn s t d f) s := by
  unfold routeOn
  split <;> simp

@[simp] theorem nullError_fabric (s : State) (t : TileId) (e : Side × BitVec 5) : FabricSame (nullError s t e) s := by
  simp only [nullError]
  (repeat' split) <;> simp

@[simp] theorem planSend_fabric (s : State) (t : TileId) (a : ArraySend) (n : Nat) :
    FabricSame (planSend s t a n) s := by
  unfold planSend
  split <;> simp

@[simp] theorem startSends_fabric (s : State) (t : TileId) (o : MmaOp) : FabricSame (startSends s t o) s := by
  simp only [startSends]
  (repeat' split) <;> simp

@[simp] theorem align_fabric (s : State) (t : TileId) : FabricSame (align s t) s := by
  simp only [align]
  (repeat' split) <;> simp

@[simp] theorem holdArrives_fabric (s : State) (t : TileId) (q : Nat) (cycle : Nat) :
    FabricSame (holdArrives s t q cycle) s := by simp [holdArrives]

@[simp] theorem holdIn_fabric (s : State) (t : TileId) (q : Nat) (cycle : Nat) (port : Nat) :
    FabricSame (holdIn s t q cycle port) s := by simp [holdIn]

@[simp] theorem holdDelivered_fabric (s : State) (t : TileId) (q : Nat) (cycle : Nat) (x0 : Option Nat) :
    FabricSame (holdDelivered s t q cycle x0) s := by
  unfold holdDelivered
  split <;> simp

@[simp] theorem droopStretch_fabric (s : State) (t : TileId) (part : Nat) :
    FabricSame (droopStretch s t part) s := by simp [droopStretch]

@[simp] theorem trimTile_fabric (s : State) (t : TileId) : FabricSame (trimTile s t) s := by
  simp only [trimTile]
  split <;> simp

@[simp] theorem trimWafer_fabric (s : State) (links : List (Nat × Int)) : FabricSame (trimWafer s links) s := by
  unfold trimWafer
  split <;> simp

@[simp] theorem setGains_fabric (s : State) (db : Nat) (sl : Nat) :
    FabricSame (setGains s db sl) s := rfl

@[simp] theorem setThrottle_fabric (s : State) (ppm : Nat) : FabricSame (setThrottle s ppm) s := by
  unfold setThrottle
  split <;> [skip; split] <;> simp

@[simp] theorem railChange_fabric (s : State) (field : Nat) (row : Nat) (col : Nat) (high : Bool) :
    FabricSame (railChange s field row col high) s := by
  unfold railChange
  split <;> [skip; split] <;> simp

@[simp] theorem raiseRails_fabric (s : State) : FabricSame (raiseRails s) s := rfl

@[simp] theorem upsetCount_fabric (s : State) (t : TileId) (d : BitVec 64) :
    FabricSame (upsetCount s t d) s := rfl

@[simp] theorem reckonUses_fabric (s : State) (t : TileId) :
    FabricSame (reckonUses s t) s := rfl

@[simp] theorem upsetWheel_fabric (s : State) (t : TileId) (mask : BitVec 7) :
    FabricSame (upsetWheel s t mask) s := by
  simp only [upsetWheel]
  split <;> simp

@[simp] theorem losePeer_fabric (s : State) (port : Nat) : FabricSame (losePeer s port) s := rfl

@[simp] theorem landingLost_fabric (s : State) (t : TileId) (tag : BitVec 12) (due : Nat) :
    FabricSame (landingLost s t tag due) s := by simp [landingLost]

@[simp] theorem streamAt_fabric (s : State) (bank : BitVec 6) (c : StreamChange) :
    FabricSame (streamAt s bank c) s := rfl

/-! ### Switch -/

@[simp] theorem setEntry_fabric (s : State) (t : TileId) (core : BitVec 2) (slot : BitVec 6) (e : MapEntry) :
    FabricSame (setEntry s t core slot e) s := rfl

@[simp] theorem change_fabric (s : State) (names : List (BitVec 2 × BitVec 6)) (marks : List
    (BitVec 2 × BitVec 6 × MapEntry)) (ch : MapChange) :
    FabricSame (change s names marks ch) s := by simp [change]

@[simp] theorem settleOwner_fabric (s : State) (t : TileId) (bank : BitVec 6) :
    FabricSame (settleOwner s t bank) s := by
  unfold settleOwner
  split <;> simp

@[simp] theorem applyChange_fabric (s : State) (t : TileId) (c : MapChange) : FabricSame (applyChange s t c) s := by
  cases c with
  | rotate slot rev banks => exact foldl_fabric (fun s p => by dsimp only; split <;> simp) _ s
  | _ => simp [applyChange]

@[simp] theorem applyWithdrawals_fabric (s : State) (t : TileId) : FabricSame (applyWithdrawals s t) s :=
  foldl_fabric (fun s p => by split <;> simp) _ s

@[simp] theorem withdrawAt_fabric (s : State) (st : StrandId) (slot : BitVec 6) :
    FabricSame (withdrawAt s st slot) s := rfl

@[simp] theorem zeroRow_fabric (s : State) (bank : BitVec 6) (j : Nat) :
    FabricSame (zeroRow s bank j) s := rfl

/-! ### Staging -/

@[simp] theorem farWrite_fabric (s : State) (l : List (Nat × Byte × Bool)) :
    FabricSame (farWrite s l) s :=
  (foldl_fabric (fun _ _ => by simp) l _).trans (by simp)

@[simp] theorem setFarTags_fabric (s : State) (tags : List (Nat × BitVec 4)) :
    FabricSame (setFarTags s tags) s := rfl

@[simp] theorem planCtx_fabric (s : State) (k : CtxId) (cl : Nat) (tick : Nat) (phase : Nat) (rank : Nat)
    (flag : Nat) (i : Event) :
    FabricSame (planCtx s k cl tick phase rank flag i) s := rfl

@[simp] theorem planCmd_fabric (s : State) (cl : Nat) (k : CtxId) (c : Cmd) : FabricSame (planCmd s cl k c) s := by
  unfold planCmd
  (repeat' split) <;> simp

@[simp] theorem activate_fabric (s : State) (k : CtxId) : FabricSame (activate s k) s := by
  simp only [activate]
  (repeat' split) <;> simp

@[simp] theorem commitCmd_fabric (s : State) (k : CtxId) : FabricSame (commitCmd s k) s := by
  simp only [commitCmd]
  (repeat' split) <;> simp

@[simp] theorem engineFault_fabric (s : State) (st : StrandId) (cause : Byte) (data : Quad) :
    FabricSame (engineFault s st cause data) s := by simp [engineFault]

@[simp] theorem releaseFlit_fabric (s : State) (k : CtxId) (m : Nat) (i : Nat) :
    FabricSame (releaseFlit s k m i) s := by
  simp only [releaseFlit]
  (repeat' split) <;> simp

theorem engineAccess_fabric {ok : State → State} (hok : ∀ s, FabricSame (ok s) s) (s : State) (st : StrandId) (t : TileId)
    (b : BitVec 6) (r : Nat) : FabricSame (engineAccess s st t b r ok) s := by
  unfold engineAccess
  dsimp only
  split
  · simp
  · split
    · simp
    · exact (hok _).trans (by simp)

@[simp] theorem planDeposit_fabric (s : State) (k : CtxId) (t : TileId) (bank : BitVec 6) (flag : Nat)
    (l : List BankByte) :
    FabricSame (planDeposit s k t bank flag l) s := rfl

@[simp] theorem writeFlit_fabric (s : State) (k : CtxId) (m : Nat) (i : Nat) : FabricSame (writeFlit s k m i) s := by
  simp only [writeFlit]
  (repeat' split) <;> simp

@[simp] theorem commitRows_fabric (c : Cmd) (s : State) : FabricSame (c.commitRows s) s :=
  foldl_fabric (fun s u => by split <;> simp) _ s

@[simp] theorem commitWrite_fabric (s : State) (k : CtxId) (m : Nat) : FabricSame (commitWrite s k m) s := by
  simp only [commitWrite]
  (repeat' split) <;> simp

@[simp] theorem fireTracker_fabric (s : State) (k : CtxId) : FabricSame (fireTracker s k) s := by
  simp only [fireTracker]
  (repeat' split) <;> simp

@[simp] theorem advanceTimeline_fabric (s : State) (k : CtxId) : FabricSame (advanceTimeline s k) s := by
  simp only [advanceTimeline]
  split <;> simp

/-! ### Sync -/

@[simp] theorem watch_fabric (s : State) (o : MS 6) : FabricSame (watch s o) s := by
  unfold watch
  split <;> simp

@[simp] theorem setBarrier_fabric (s : State) (cl : Nat) (n : Nat) (b : Barrier) :
    FabricSame (setBarrier s cl n b) s := rfl

@[simp] theorem planPhase_fabric (s : State) (cl : Nat) (n : Nat) : FabricSame (planPhase s cl n) s := by
  unfold planPhase
  split <;> [skip; split] <;> simp

@[simp] theorem completePhase_fabric (s : State) (cl : Nat) (n : Nat) : FabricSame (completePhase s cl n) s := by
  simp only [completePhase]
  (repeat' split) <;> simp

@[simp] theorem arriveAt_fabric (s : State) (n : Nat) : FabricSame (arriveAt s n) s := by simp [arriveAt]

@[simp] theorem clearArrival_fabric (s : State) (n : Nat) :
    FabricSame (clearArrival s n) s := rfl

@[simp] theorem syncArrive_fabric (s : State) (n : Nat) : FabricSame (syncArrive s n) s := by
  unfold syncArrive
  split <;> simp

@[simp] theorem barrierTimeout_fabric (s : State) (st : StrandId) (n : Nat) :
    FabricSame (barrierTimeout s st n) s := by
  simp only [barrierTimeout]
  (repeat' split) <;> simp

@[simp] theorem planGate_fabric (s : State) (cl : Nat) (n : Nat) : FabricSame (planGate s cl n) s := by
  simp only [planGate]
  (repeat' split) <;> simp

@[simp] theorem ungate_fabric (s : State) (st : StrandId) (r : Nat) :
    FabricSame (ungate s st r) s := rfl

@[simp] theorem releaseGate_fabric (s : State) (cl : Nat) (n : Nat) : FabricSame (releaseGate s cl n) s := by
  simp only [releaseGate]
  (repeat' split) <;> simp

@[simp] theorem gateTimeout_fabric (s : State) (cl n : Nat) : FabricSame (gateTimeout s cl n) s := by
  unfold gateTimeout
  dsimp only
  split
  · split
    · exact (foldl_fabric (fun s p => by split <;> simp) _ _).trans (by simp)
    · simp
  · simp

@[simp] theorem settleBarriers_fabric (s : State) (st : StrandId) : FabricSame (settleBarriers s st) s :=
  foldl_fabric (fun s p => by (repeat' split) <;> simp) _ s

/-! ### Sequence -/

@[simp] theorem branchTo_fabric (s : State) (target : BitVec 64) :
    FabricSame (branchTo s target) s := rfl

@[simp] theorem sendUpdate_fabric (s : State) (dest : TileId) (i : Event) :
    FabricSame (sendUpdate s dest i) s := rfl

@[simp] theorem returnWeight_fabric (s : State) (share : Nat) :
    FabricSame (returnWeight s share) s := rfl

@[simp] theorem weightArrives_fabric (s : State) (cl : Nat) (rcv : Option StrandId) (share : Nat) :
    FabricSame (weightArrives s cl rcv share) s := by
  unfold weightArrives
  (repeat' split) <;> simp

@[simp] theorem totalArrives_fabric (s : State) (st : StrandId) (n : Nat) : FabricSame (totalArrives s st n) s := by
  simp only [totalArrives]
  (repeat' split) <;> simp

@[simp] theorem sectionCap_fabric (s : State) (st : StrandId) : FabricSame (sectionCap s st) s := by
  unfold sectionCap
  (repeat' split) <;> simp

@[simp] theorem releaseSlots_fabric (s : State) (st : StrandId) : FabricSame (releaseSlots s st) s :=
  foldl_fabric (fun s i => by dsimp only; split <;> simp) _ s

@[simp] theorem retireStrand_fabric (s : State) (st : StrandId) : FabricSame (retireStrand s st) s := by
  simp only [retireStrand]
  split <;> simp

@[simp] theorem openSpan_fabric (s : State) (st : StrandId) :
    FabricSame (openSpan s st) s := rfl

@[simp] theorem landCreg_fabric (s : State) (st : StrandId) (r : CReg) (v : Quad) :
    FabricSame (landCreg s st r v) s := by
  unfold landCreg
  (repeat' split) <;> simp

/-! ### Effects -/

@[simp] theorem landResult_fabric (s : State) (st : StrandId) (regs : List RegWrite) (latch : Option (Latch × MVec)) :
    FabricSame (landResult s st regs latch) s := rfl

@[simp] theorem postSlot_fabric (s : State) (st : StrandId) (tag : BitVec 12) (due : Nat) :
    FabricSame (postSlot s st tag due) s := by
  simp only [postSlot]
  split <;> simp

theorem withCtx_fabric {s : State} {st : StrandId} {c : BitVec 8} {f : CtxId → State} (hf : ∀ k, FabricSame (f k) s) :
    FabricSame (withCtx s st c f) s := by
  unfold withCtx
  split
  · exact hf _
  · simp

@[simp] theorem landNow_fabric (s : State) (st : StrandId) (l : Landing) : FabricSame (landNow s st l) s := by
  cases l with
  | ctxReg c r v => exact withCtx_fabric fun k => by simp
  | ctxGo c => exact withCtx_fabric fun k => commitCmd_fabric s k
  | _ => simp [landNow]

@[simp] theorem commitData_fabric (s : State) (t : TileId) (core : Nat) (bank : BitVec 6) (x0 : BankData) :
    FabricSame (commitData s t core bank x0) s := by
  unfold commitData
  (repeat' split) <;> simp

@[simp] theorem applyReduction_fabric (s : State) (t : TileId) : FabricSame (applyReduction s t) s := by
  simp only [applyReduction]
  (repeat' split) <;> simp

@[simp] theorem landLate_fabric (s : State) (st : StrandId) (cls : SlotClass) (age : Nat) (lat : Nat)
    (regs : List RegWrite) (l : Latch × MVec) :
    FabricSame (landLate s st cls age lat regs l) s := rfl

@[simp] theorem lateRead_fabric (s : State) (x0 : LateRead) : FabricSame (lateRead s x0) s := by
  unfold lateRead
  split <;> simp

theorem withOp_fabric {s : State} {t : TileId} {n : Nat} {f : MmaOp → State} (hf : ∀ o, FabricSame (f o) s) :
    FabricSame (withOp s t n f) s := by
  unfold withOp
  split
  · exact hf _
  · simp

/-! ### Stops -/

@[simp] theorem mailboxShow_fabric (s : State) (result : Byte) (r0 : Quad) :
    FabricSame (mailboxShow s result r0) s := rfl

@[simp] theorem mailboxDone_fabric (s : State) (result : Byte) (r0 : Quad) :
    FabricSame (mailboxDone s result r0) s := by
  unfold mailboxDone
  split <;> simp

@[simp] theorem mailboxRelease_fabric (s : State) : FabricSame (mailboxRelease s) s := by
  unfold mailboxRelease
  split <;> simp

@[simp] theorem claimStopped_fabric (s : State) (cl : Nat) : FabricSame (claimStopped s cl) s := by
  unfold claimStopped
  (repeat' split) <;> simp

@[simp] theorem defer_fabric (s : State) (e : Event) : FabricSame (defer s e) s := rfl

@[simp] theorem writeCompletion_fabric (s : State) (crec : Nat) (sig : Nat) (r : RecordWords) :
    FabricSame (writeCompletion s crec sig r) s := rfl

@[simp] theorem settleLease_fabric (s : State) (slot : Byte) : FabricSame (settleLease s slot) s := by
  unfold settleLease
  split <;> simp

@[simp] theorem partsStopped_fabric (s : State) (fin : Nat) : FabricSame (partsStopped s fin) s := by
  unfold partsStopped
  split <;> [skip; split] <;> simp

@[simp] theorem settleFleet_fabric (s : State) : FabricSame (settleFleet s) s := by
  unfold settleFleet
  (repeat' split) <;> simp

@[simp] theorem finishLaunch_fabric (s : State) (cl : Nat) (kind : Nat) (endTick : Nat) (haltb : Nat) (sat : Bool) :
    FabricSame (finishLaunch s cl kind endTick haltb sat) s := by
  simp only [finishLaunch]
  (repeat' split) <;> simp

@[simp] theorem evaluateClaim_fabric (s : State) (cl : Nat) :
    FabricSame (evaluateClaim s cl) s := by simp [evaluateClaim]

@[simp] theorem turnWheels_fabric (s : State) (cl : Nat) (d : Nat) :
    FabricSame (turnWheels s cl d) s := rfl

@[simp] theorem moveCount_fabric (s : State) (cl : Nat) (n : Nat) :
    FabricSame (moveCount s cl n) s := rfl

@[simp] theorem reduceUntil_fabric (s : State) (t : TileId) (b : Nat) (n : Nat) :
    FabricSame (reduceUntil s t b n) s := by simp [reduceUntil]

@[simp] theorem stageEarly_fabric (s : State) (t : TileId) (p : StageStep) (e : Sched) (b : Nat) :
    FabricSame (stageEarly s t p e b) s := by simp [stageEarly]

@[simp] theorem writeEarly_fabric (s : State) (t : TileId) (o : MmaOp) (b : Nat) (e : Sched) :
    FabricSame (writeEarly s t o b e) s := by simp [writeEarly]

@[simp] theorem finishStep_fabric (s : State) (n : Nat) (e : Sched) : FabricSame (finishStep s n e) s := by
  unfold finishStep
  split
  · simp
  · simp
  · exact withOp_fabric fun o => startSends_fabric s _ o
  · exact withOp_fabric fun o => groupAdd_fabric s _ o _ _
  · exact withOp_fabric fun o => writeEarly_fabric s _ o _ _
  · simp
  · simp

@[simp] theorem finishArrays_fabric (cl n k : Nat) (s : State) : FabricSame (finishArrays cl n k s) s := by
  induction k generalizing s with
  | zero => simp [finishArrays]
  | succ k ih =>
    unfold finishArrays
    split
    · simp
    · exact (ih _).trans (by simp)

@[simp] theorem settleArrays_fabric (s : State) (cl : Nat) :
    FabricSame (settleArrays s cl) s := by simp [settleArrays]

@[simp] theorem standStill_fabric (s : State) (cl : Nat) (run : ClaimRun) :
    FabricSame (standStill s cl run) s := rfl

@[simp] theorem stopForRelease_fabric (s : State) (cl : Nat) (run : ClaimRun) :
    FabricSame (stopForRelease s cl run) s := by simp [stopForRelease]

theorem stopOrDrift_fabric {s : State} {cl : Nat} {f : State → State} (hf : FabricSame (f s) s) :
    FabricSame (stopOrDrift s cl f) s := by
  unfold stopOrDrift
  split
  · exact hf
  · simp

@[simp] theorem recordAbort_fabric (s : State) (cl : Nat) :
    FabricSame (recordAbort s cl) s := rfl

@[simp] theorem stopPreempted_fabric (s : State) (cl : Nat) : FabricSame (stopPreempted s cl) s :=
  (stopOrDrift_fabric (s := s.modClaim cl _) (by simp)).trans (by simp)

@[simp] theorem settleParley_fabric (s : State) (cl : Nat) : FabricSame (settleParley s cl) s := by
  simp only [settleParley]
  (repeat' split) <;> simp

@[simp] theorem sayBoundary_fabric (s : State) (cl : Nat) (b : Nat) (ok : Bool) :
    FabricSame (sayBoundary s cl b ok) s := by
  unfold sayBoundary
  split <;> simp

@[simp] theorem resumeClaim_fabric (s : State) (cl : Nat) :
    FabricSame (resumeClaim s cl) s := rfl

@[simp] theorem beginTest_fabric (s : State) (m : MoveReq) (col : Nat) :
    FabricSame (beginTest s m col) s := rfl

@[simp] theorem endTest_fabric (s : State) (m : MoveReq) : FabricSame (endTest s m) s := rfl

@[simp] theorem moveMap_fabric (s : State) (m : MoveReq) : FabricSame (moveMap s m) s := by
  unfold moveMap
  split <;> simp

@[simp] theorem enterSafe_fabric (s : State) : FabricSame (enterSafe s) s := by
  simp only [enterSafe]
  split <;> simp

/-! ### Launch -/

@[simp] theorem installClaim_fabric (s : State) (l : LaunchParts) (p : List Byte) (args : List Byte) :
    FabricSame (installClaim s l p args) s := rfl

@[simp] theorem startClaim_fabric (s : State) (l : LaunchParts) (p : List Byte) (args : List Byte) :
    FabricSame (startClaim s l p args) s := rfl

@[simp] theorem refuseLaunch_fabric (s : State) (p : List Byte) (reason : Nat) :
    FabricSame (refuseLaunch s p reason) s := by simp [refuseLaunch]

@[simp] theorem settleVerdicts_fabric (s : State) : FabricSame (settleVerdicts s) s := by
  unfold settleVerdicts
  (repeat' split) <;> simp

@[simp] theorem settleRoutes_fabric (s : State) : FabricSame (settleRoutes s) s := by
  unfold settleRoutes
  (repeat' split) <;> simp

@[simp] theorem prepareFleet_fabric (s : State) (q : Option Nat) (p : List Byte) (args : List Byte) :
    FabricSame (prepareFleet s q p args) s := by simp [prepareFleet]

@[simp] theorem receiveLaunch_fabric (s : State) (packet : List Byte) (args : List Byte) :
    FabricSame (receiveLaunch s packet args) s := by
  unfold receiveLaunch
  split <;> [skip; split] <;> simp

@[simp] theorem modQueue_fabric (s : State) (q : BitVec 6) (f : Queue → Queue) :
    FabricSame (State.modQueue s q f) s := rfl

@[simp] theorem consume_fabric (s : State) (q : BitVec 6) (p : List Byte) : FabricSame (consume s q p) s := by
  simp only [consume]
  split <;> simp

@[simp] theorem launchPacket_fabric (s : State) (q : BitVec 6) (p : List Byte) (args : List Byte) :
    FabricSame (launchPacket s q p args) s := by
  simp only [launchPacket]
  (repeat' split) <;> simp

@[simp] theorem readPacket_fabric (s : State) (q : BitVec 6) : FabricSame (readPacket s q) s := by
  simp only [readPacket]
  (repeat' split) <;> simp

@[simp] theorem notify_fabric (s : State) (q : BitVec 6) (w : BitVec 64) : FabricSame (notify s q w) s := by
  simp only [notify]
  (repeat' split) <;> simp

@[simp] theorem modCtl_fabric (s : State) (c : Controller) (f : Ctl → Ctl) :
    FabricSame (State.modCtl s c f) s := rfl

@[simp] theorem rvRun_fabric (s : State) (i : Rv) (len : Nat) : FabricSame (rvRun s i len) s := by
  simp only [rvRun]
  (repeat' split) <;> simp

@[simp] theorem stepCurator_fabric (s : State) : FabricSame (stepCurator s) s := by
  unfold stepCurator
  split <;> [skip; split] <;> simp

/-! ### Curator -/

@[simp] theorem extend_fabric (s : State) (i : BitVec 3) (h : BitVec 256) :
    FabricSame (extend s i h) s := rfl

@[simp] theorem putEntry_fabric (s : State) (p : Nat) (e : BitVec 64) :
    FabricSame (putEntry s p e) s := rfl

@[simp] theorem mapPage_fabric (v : Nat) (rd wr : Bool) (l : List (Nat × Nat)) (a : Nat) (s : State) :
    FabricSame (mapPage v rd wr l a s) s := by
  induction l generalizing a s with
  | nil => simp [mapPage]
  | cons p l ih =>
    unfold mapPage
    dsimp only
    split
    · split <;> simp
    · split
      · split
        · simp
        · exact ih _ _
      · exact (ih _ _).trans (by simp)

@[simp] theorem mapLease_fabric (s : State) (b : Byte) : FabricSame (mapLease s b) s := by
  unfold mapLease
  dsimp only
  split
  · simp
  · exact foldl_fabric (fun s r => foldl_fabric (fun s v => mapPage_fabric v _ _ _ _ s) _ s) _ s

@[simp] theorem askRest_fabric (s : State) (cl : Nat) (op : Nat) (f : FleetLaunch) :
    FabricSame (askRest s cl op f) s := by
  unfold askRest
  split <;> simp

theorem askFleet_fabric {s : State} {cl op : Nat} {f : State → State} (hf : ∀ s, FabricSame (f s) s) :
    FabricSame (askFleet s cl op f) s := by
  unfold askFleet
  dsimp only
  split
  · split
    · simp
    · split
      · simp
      · exact (hf _).trans (by simp)
  · exact hf s

@[simp] theorem observeAbort_fabric (s : State) (cl : Nat) : FabricSame (observeAbort s cl) s := by
  simp only [observeAbort]
  (repeat' split) <;> simp

@[simp] theorem storeImage_fabric (s : State) (c : Controller) (b : List Byte) :
    FabricSame (storeImage s c b) s := rfl

@[simp] theorem takeCommand_fabric (s : State) : FabricSame (takeCommand s) s := by
  simp only [takeCommand]
  split <;> simp

@[simp] theorem askSwitch_fabric (s : State) (c : Controller) (addr : BitVec 32) :
    FabricSame (askSwitch s c addr) s := by
  unfold askSwitch
  split <;> simp

@[simp] theorem startImage_fabric (s : State) (c : Controller) (rolledBack : Bool) :
    FabricSame (startImage s c rolledBack) s := by
  unfold startImage
  split <;> simp

@[simp] theorem signalAlive_fabric (s : State) (c : Controller) (arg : BitVec 32) :
    FabricSame (signalAlive s c arg) s := rfl

@[simp] theorem signalAccept_fabric (s : State) (c : Controller) (arg : BitVec 32) :
    FabricSame (signalAccept s c arg) s := by
  simp only [signalAccept]
  (repeat' split) <;> simp

@[simp] theorem writeSwcmd_fabric (s : State) (sig : CtlSignal) : FabricSame (writeSwcmd s sig) s := by
  unfold writeSwcmd
  split <;> simp

@[simp] theorem answer_fabric (s : State) (code : Nat) (more : List Byte) :
    FabricSame (answer s code more) s := rfl

@[simp] theorem bootMeasure_fabric (free : Nat) (s : State) (k : Nat) : FabricSame (bootMeasure free s k) s := by
  unfold bootMeasure
  split <;> simp

@[simp] theorem hostWrite_fabric (s : State) (addr : Nat) (data : List Byte) :
    FabricSame (hostWrite s addr data) s := by
  unfold hostWrite
  (repeat' split) <;> simp

@[simp] theorem mailboxWrite_fabric (s : State) (off : Nat) (v : BitVec 64) :
    FabricSame (mailboxWrite s off v) s := by
  simp only [mailboxWrite]
  (repeat' split) <;> simp

@[simp] theorem registerWrite_fabric (s : State) (off : Nat) (v : BitVec 64) :
    FabricSame (registerWrite s off v) s := by
  unfold registerWrite
  (repeat' split) <;> simp

@[simp] theorem fleetRequest_fabric (s : State) (op : Nat) : FabricSame (fleetRequest s op) s := by
  unfold fleetRequest
  (repeat' split) <;> simp

@[simp] theorem settleRest_fabric (s : State) (b : Nat) : FabricSame (settleRest s b) s := by
  simp only [settleRest]
  (repeat' split) <;> simp

@[simp] theorem heardBoundary_fabric (s : State) (v : Nat) (b : Nat) (ok : Bool) :
    FabricSame (heardBoundary s v b ok) s := by
  simp only [heardBoundary]
  (repeat' split) <;> simp

@[simp] theorem cutAgreed_fabric (s : State) (w : Nat) (ppm : Nat) : FabricSame (cutAgreed s w ppm) s := by
  unfold cutAgreed
  (repeat' split) <;> simp

/-! ### Issue -/

@[simp] theorem presentWait_fabric (s : State) (x0 : Instr) : FabricSame (presentWait s x0) s := by
  unfold presentWait
  (repeat' split) <;> simp

@[simp] theorem holdBundle_fabric (s : State) : FabricSame (holdBundle s) s := by
  unfold holdBundle
  split <;> simp

@[simp] theorem sharing_fabric (ex : Meaning) (l : List Instr) (s : State) : FabricSame (sharing ex l s) s := by
  unfold sharing
  split <;> simp

@[simp] theorem takePending_fabric (s : State) (cause : BitVec 8) :
    FabricSame (takePending s cause) s := by simp [takePending]

@[simp] theorem preTaint_fabric (ex : Meaning) (s : State) (l : List Instr) : FabricSame (preTaint ex s l) s := by
  unfold preTaint
  split <;> simp

@[simp] theorem goSequential_fabric (s : State) (at_ : BitVec 64) (q : BitVec 64) (x : Option (BitVec 64 × Nat)) :
    FabricSame (goSequential s at_ q x) s := rfl

@[simp] theorem afterIssue_fabric (x : Option (BitVec 64 × Nat)) (at_ : BitVec 64) (q : BitVec 64) (s : State) :
    FabricSame (afterIssue x at_ q s) s := by
  unfold afterIssue
  split <;> [skip; split] <;> simp

@[simp] theorem wake_fabric (s : State) : FabricSame (wake s) s := by
  unfold wake
  split <;> simp

@[simp] theorem presentTile_fabric (ex : Meaning) (t : TileId) (s : State) : FabricSame (presentTile ex t s) s := by
  unfold presentTile
  dsimp only
  split <;> simp

/-! ### Tick -/

@[simp] theorem takeDue_fabric (s : State) (cl : Nat) (p : Nat → Bool) (again : Task) :
    FabricSame (takeDue s cl p again) s := by
  unfold takeDue
  split <;> simp

@[simp] theorem planReductions_fabric (s : State) (cl : Nat) : FabricSame (planReductions s cl) s :=
  foldl_fabric (fun s t => by split <;> simp) _ s

@[simp] theorem startIssues_fabric (s : State) (cl : Nat) : FabricSame (startIssues s cl) s := by simp [startIssues]

@[simp] theorem endTile_fabric (s : State) (t : TileId) : FabricSame (endTile s t) s := by
  simp only [endTile]
  split <;> simp

@[simp] theorem fireTrackers_fabric (s : State) (cl : Nat) :
    FabricSame (fireTrackers s cl) s := by simp [fireTrackers]

@[simp] theorem reductionGap_fabric (s : State) (cl : Nat) : FabricSame (reductionGap s cl) s := by
  unfold reductionGap
  (repeat' split) <;> simp

@[simp] theorem planEvaluation_fabric (s : State) (cl : Nat) : FabricSame (planEvaluation s cl) s := by
  simp only [planEvaluation]
  split <;> simp

@[simp] theorem closeTick_fabric (s : State) (cl : Nat) : FabricSame (closeTick s cl) s := by simp [closeTick]

@[simp] theorem claimTick_fabric (s : State) (cl : Nat) : FabricSame (claimTick s cl) s := by
  unfold claimTick
  (repeat' split) <;> simp

@[simp] theorem servePackets_fabric (s : State) : FabricSame (servePackets s) s := by
  unfold servePackets
  split <;> [skip; split] <;> simp

@[simp] theorem keepRate_fabric (s : State) : FabricSame (keepRate s) s := by
  simp only [keepRate]
  (repeat' split) <;> simp

@[simp] theorem advance_fabric (s : State) : FabricSame (advance s) s := by simp [advance]

@[simp] theorem placeBundle_fabric (s : State) (bytes : List Byte) :
    FabricSame (placeBundle s bytes) s := rfl

@[simp] theorem withFetchWord_fabric (s : State) (nbits : Nat) (w : Nat) :
    FabricSame (State.withFetchWord s nbits w) s := rfl

theorem FabricSame.ite {c : Prop} [Decidable c] {a b s : State} (ha : FabricSame a s) (hb : FabricSame b s) :
    FabricSame (if c then a else b) s := by
  split
  · exact ha
  · exact hb

/-! ### Rows that call others -/

@[simp] theorem release_fabric (s : State) (t : TileId) (d : Side) : FabricSame (release s t d) s := by
  unfold release
  extract_lets n
  split
  · simp
  · extract_lets s1 port s2 err s3 r
    have h2 : FabricSame s2 s := by
      unfold s2
      clear_value port
      split <;> simp [s1]
    have hr : FabricSame r.1 s := by
      unfold r
      clear_value err
      split
      · exact h2
      · exact .ite h2 ((uncorrectable_fabric s3 _ _ _).trans h2)
    refine .ite (by simp [s1]) ?_
    split
    · exact hr
    · exact .ite hr ((routeOn_fabric _ _ _ _).trans hr)

@[simp] theorem nullErrors_fabric (s : State) (cl : Nat) : FabricSame (nullErrors s cl) s := by
  refine foldl_fabric (fun s p => foldl_fabric (fun s e => nullError_fabric s _ e) _ s) _ s

@[simp] theorem lostTick_fabric (s : State) (cl : Nat) : FabricSame (lostTick s cl) s := by
  refine foldl_fabric (fun s p => foldl_fabric (fun s i => ?_) _ s) _ s
  dsimp only
  split
  · simp
  · split
    · simp
    · exact .ite (by simp) (by simp)

@[simp] theorem sendFlit_fabric (s : State) (t : TileId) (a : ArraySend) : FabricSame (sendFlit s t a) s := by
  unfold sendFlit
  split
  · simp
  · refine .ite (by simp) ?_
    extract_lets x cells s1 v f s2 a' s3
    have hs : FabricSame s3 s := (inject_fabric s1 t f).trans (checkRead_fabric s t 15 _ _)
    exact .ite hs ((planSend_fabric s3 t a _).trans hs)
/-- The walk and its use stand as variables, as in `walkFill_canonical`, so that the kernel does not evaluate the walk. -/
@[simp] theorem walkFill_fabric (s : State) (e : Nat) (t : TileId) (v : Nat) : FabricSame (walkFill s e t v).1 s := by
  obtain ⟨find, hw⟩ : ∃ find, find = @walk := ⟨_, rfl⟩
  obtain ⟨fill, hf⟩ : ∃ fill, fill = @walkFill := ⟨_, rfl⟩
  rw [← hf]
  delta walkFill at hf
  rw [← hw] at hf
  subst hf
  beta_reduce
  extract_lets cl w u
  have hu : FabricSame u s := by
    unfold u
    clear_value w
    split <;> simp
  clear_value w u
  split
  · exact hu
  · exact hu

@[simp] theorem lookup_fabric (s : State) (e : Nat) (t : TileId) (v : Nat) (w : Bool) :
    FabricSame (lookup s e t v w).1 s := by
  unfold lookup
  split
  · simp
  · split
    · exact walkFill_fabric _ e t v
    · dsimp only
      split
      · exact walkFill_fabric _ e t v
      · simp

@[simp] theorem translate_fabric (s : State) (st : StrandId) (e : Nat) (w : Bool) (far : Quad) (n : Nat) :
    FabricSame (translate s st e w far n).1 s := by
  unfold translate
  extract_lets core vs pages r
  have hr (l : List Nat) (acc : State × List (Nat × Option (Nat × BitVec 64))) : FabricSame
      (l.foldl (fun acc p => let q := lookup acc.1 e st.tile (p * 65536) w; (q.1, (p, q.2) :: acc.2)) acc).1 acc.1 := by
    induction l generalizing acc with
    | nil => simp
    | cons p l ih => exact (ih _).trans (lookup_fabric _ e st.tile _ w)
  exact hr pages (s, [])

@[simp] theorem requestLine_fabric (s : State) (k : CtxId) (m : Nat) (j : Nat) :
    FabricSame (requestLine s k m j) s := by
  unfold requestLine
  dsimp only
  split
  · split <;> simp
  · simp

@[simp] theorem deposit_fabric (s : State) (k : CtxId) (m u : Nat) : FabricSame (deposit s k m u) s := by
  unfold deposit
  extract_lets x
  split
  · extract_lets t s1
    have h1 : FabricSame s1 s := by
      unfold s1
      split <;> simp
    refine .ite h1 ?_
    split
    · refine (engineAccess_fabric (fun s => ?_) _ _ _ _ _).trans h1
      dsimp only
      split <;> simp
    · exact (freezeFor_fabric s1 _ _ _).trans h1
  · simp

@[simp] theorem writeFlag_fabric (s : State) (k : CtxId) (m : Nat) : FabricSame (writeFlag s k m) s := by
  unfold writeFlag
  dsimp only
  split
  · split
    · exact (engineAccess_fabric (fun s => by simp) _ _ _ _ _).trans (by simp)
    · simp
  · simp

@[simp] theorem readSource_fabric (s : State) (k : CtxId) (m u : Nat) : FabricSame (readSource s k m u) s := by
  unfold readSource
  extract_lets x
  split
  · refine engineAccess_fabric (fun s => ?_) _ _ _ _ _
    extract_lets s1 v r c
    have h1 : FabricSame s1 s := .ite (by simp) (by simp)
    have hr : FabricSame r.1 s := (translate_fabric _ _ _ _ _ _).trans h1
    split
    · exact FabricSame.trans (by simp) hr
    · exact hr
  · simp
theorem flightStep_fabric (s : State) (a : Action) : FabricSame ((flightStep s a).getD s) s := by
  unfold flightStep
  split <;> simp only [Option.getD_some, Option.getD_none]
  case h_1 => exact commitData_fabric s _ _ _ _
  case h_2 => exact landNow_fabric s _ _
  case h_3 => exact applyReduction_fabric s _
  case h_4 => exact crossed_fabric s _ _ _
  case h_5 => exact release_fabric s _ _
  case h_6 => exact requestLine_fabric s _ _ _
  case h_7 => exact releaseFlit_fabric s _ _ _
  case h_8 => exact deposit_fabric s _ _ _
  case h_9 => exact writeFlag_fabric s _ _
  case h_10 => exact lateRead_fabric s _
  case h_11 => exact lateRead_fabric s _


@[simp] theorem flightBefore_fabric (e : Sched) (n : Nat) (s : State) : FabricSame (flightBefore e n s) s := by
  induction n generalizing s with
  | zero => simp [flightBefore]
  | succ n ih =>
    unfold flightBefore
    split
    · simp
    · extract_lets u v
      have hu : FabricSame u s := moveCount_fabric _ _ _
      exact (ih _).trans ((flightStep_fabric v _).trans (.ite hu hu))

@[simp] theorem moveAtBoundary_fabric (s : State) (cl : Nat) (r : MoveReq) :
    FabricSame (moveAtBoundary s cl r) s := by
  unfold moveAtBoundary
  extract_lets gate rest
  exact .ite ((stopOrDrift_fabric (moveMap_fabric _ r)).trans (by simp)) (by simp)

@[simp] theorem moveRow_fabric (s : State) (m : MoveReq) : FabricSame (moveRow s m) s := by
  unfold moveRow
  extract_lets free
  have hf (s : State) : FabricSame (free s) s := .ite (by simp) (by simp)
  split
  · exact hf s
  · split
    · split
      · exact .ite (by simp) (by simp)
      · simp
    all_goals exact (hf _).trans (by simp)

@[simp] theorem keepTarget_fabric (s : State) (l : List Instr) : FabricSame (keepTarget s l) s := by
  induction l with
  | nil => simp [keepTarget]
  | cons i l ih =>
    unfold keepTarget
    split
    · simp
    · simp
    · simp_all

/-- Every state that an outcome leads to has the fabric parameters of `s`. -/
def KeepsFabric (s : State) (o : Host.Outcome State Fault Refusal) : Prop := ∀ u, o = .next u → FabricSame u s

@[simp] theorem keepsFabric_next {s u : State} : KeepsFabric s (.next u) ↔ FabricSame u s :=
  ⟨fun h => h u rfl, fun h _ hu => by cases hu; exact h⟩

@[simp] theorem keepsFabric_fault {s : State} {f : Fault} : KeepsFabric s (.fault f) := fun _ hu => nomatch hu

@[simp] theorem keepsFabric_refused {s : State} {r : Refusal} : KeepsFabric s (.refused r) := fun _ hu => nomatch hu

theorem KeepsFabric.ite {c : Prop} [Decidable c] {s : State} {a b : Host.Outcome State Fault Refusal}
    (ha : KeepsFabric s a) (hb : KeepsFabric s b) : KeepsFabric s (if c then a else b) := by
  split
  · exact ha
  · exact hb

section Frames
variable {s : State} {cls : SlotClass} {g : Guard} {v : Bool}

theorem guarded_fabric {eff : State → State} (he : ∀ s, FabricSame (eff s) s) :
    KeepsFabric s (guarded s cls g v eff) :=
  fun _ => guarded_kept (P := (FabricSame · s)) (fun p => by simp) (fun x d => by simp) fun p => (he _).trans (by simp)

theorem always_fabric {eff : State → State} (he : ∀ s, FabricSame (eff s) s) : KeepsFabric s (always s cls v eff) :=
  fun _ => always_kept (P := (FabricSame · s)) (fun x d => by simp) (he s)

theorem laned_fabric {eff : Mask → State → State} (he : ∀ m s, FabricSame (eff m s) s) :
    KeepsFabric s (laned s cls g v eff) :=
  fun _ => laned_kept (P := (FabricSame · s)) (fun x d => by simp) fun m p => (he m _).trans (by simp)

theorem guardedC_fabric {c : Check} {eff : State → State} (he : ∀ s, FabricSame (eff s) s) :
    KeepsFabric s (guardedC s cls g v c eff) :=
  fun _ => guardedC_kept (P := (FabricSame · s)) (fun p => by simp) (fun x d => by simp) fun p => (he _).trans (by simp)

theorem alwaysC_fabric {c : Check} {eff : State → State} (he : ∀ s, FabricSame (eff s) s) :
    KeepsFabric s (alwaysC s cls v c eff) :=
  fun _ => alwaysC_kept (P := (FabricSame · s)) (fun x d => by simp) (he s)

theorem lanedC_fabric {c : Mask → Check} {eff : Mask → State → State} (he : ∀ m s, FabricSame (eff m s) s) :
    KeepsFabric s (lanedC s cls g v c eff) :=
  fun _ => lanedC_kept (P := (FabricSame · s)) (fun x d => by simp) fun m p => (he m _).trans (by simp)

theorem waits_fabric {r : WaitResult} {m : Bool} {e : State} (he :
    FabricSame e s) : KeepsFabric s (waits s cls r m e) :=
  fun _ => waits_kept (P := (FabricSame · s)) (fun x d => by simp) (by simp) he

end Frames

section Forms
variable {s : State}

@[simp] theorem laneLoad_fabric {b : BitVec 6} {m : Mask} {l : List Nat} : FabricSame (laneLoad s b m l).2 s := by
  simp [laneLoad]

theorem mLoadV_fabric {d : Dst 6} {g : Guard} {v ok x : Bool} {a : BitVec 56} {f : Mask → Bool} {l : List Nat} :
    KeepsFabric s (mLoadV s d g v a ok f x l) := by
  unfold mLoadV
  refine lanedC_fabric fun m s => ?_
  dsimp only
  split <;> simp

theorem mStoreV_fabric {d : BitVec 6} {g : Guard} {v ok x : Bool} {a : BitVec 56} {f : Mask → Bool} {l : List Nat} :
    KeepsFabric s (mStoreV s d g v a ok f x l) := by
  unfold mStoreV
  refine lanedC_fabric fun m s => ?_
  split <;> simp

theorem mLoadPair_fabric {d : Dst 5} {g : Guard} {v ok x : Bool} {a : BitVec 56} {f : Mask → Bool} {l m : List Nat} :
    KeepsFabric s (mLoadPair s d g v a ok f x l m) := by
  unfold mLoadPair
  refine lanedC_fabric fun m s => ?_
  dsimp only
  split <;> simp

theorem execVst2_fabric {o : MS 5} {r : Orient} : KeepsFabric s (execVst2 o r s) := by
  unfold execVst2 mStorePair
  refine lanedC_fabric fun m s => ?_
  split <;> simp

theorem vlddAt_fabric {o : MA 6} {c : Bool} : KeepsFabric s (vlddAt o c s) := by
  unfold vlddAt
  refine lanedC_fabric fun m s => ?_
  dsimp only
  split <;> simp

theorem execDqblk_fabric {o : XF 6 6 BTy Fam} : KeepsFabric s (execDqblk o s) :=
  always_fabric fun s => by
    dsimp only
    split <;> simp

theorem mRed_fabric {k : RedKind} {o : MXS} : KeepsFabric s (mRed s k o) := by
  unfold mRed
  split <;> simp

theorem execSpop_fabric {d : Dst 6} {m : BitVec 6} {g : Guard} : KeepsFabric s (execSpop d m g s) :=
  .ite (by simp) (waits_fabric (checked_fabric (by simp)))

theorem execBback_fabric {o : XB} : KeepsFabric s (execBback o s) := by
  unfold execBback
  dsimp only
  split
  case h_6 =>
    split
    · exact guardedC_fabric fun s => by simp
    · split <;> exact guardedC_fabric fun s => by simp
  all_goals exact guardedC_fabric fun s => by simp

theorem rotate_fabric {o : XB} {r : Bool} : KeepsFabric s (rotate s o r) := by
  unfold rotate
  refine guardedC_fabric fun s => ?_
  dsimp only
  split <;> simp

theorem receive_fabric {d : Dst 6} {t : BitVec 12} {x : Bool} : KeepsFabric s (receive s d t x) := by
  unfold receive
  refine alwaysC_fabric fun s => ?_
  split <;> simp

theorem execTkalign_fabric : KeepsFabric s (execTkalign s) := by
  unfold execTkalign
  refine alwaysC_fabric fun s => ?_
  split <;> simp

theorem waita_fabric {o : MS 6} {c : WaitCmp} : KeepsFabric s (waita s o c) := by
  unfold waita
  refine .ite (by simp) fun u hu => ?_
  exact FabricSame.trans (waits_fabric (by simp) u hu) (by simp)

theorem branchIf_fabric {a : Src 6} {p : Word → Bool} {go : State → State} (hgo : ∀ s, FabricSame (go s) s) :
    KeepsFabric s (branchIf s a p go) := by
  unfold branchIf
  refine always_fabric fun s => ?_
  dsimp only
  split
  · exact (hgo _).trans (by simp)
  · simp

theorem execLoop_fabric {a : Src 6} {n : BitVec 18} : KeepsFabric s (execLoop a n s) := by
  unfold execLoop
  refine alwaysC_fabric fun s => ?_
  dsimp only
  split
  · simp
  · split <;> simp

theorem execNpreOn_fabric {g : Guard} : KeepsFabric s (execNpreOn g s) :=
  guarded_fabric fun s => by split <;> simp

theorem execHalt_fabric {g : Guard} : KeepsFabric s (execHalt g s) := by
  refine guarded_fabric fun s => ?_
  extract_lets s1 w s2 s3 r
  have h2 : FabricSame s2 s := .ite (by simp [s1]) (by simp [s1])
  exact .ite h2 h2

theorem execGate_fabric {n : BitVec 9} : KeepsFabric s (execGate n s) := by
  unfold execGate
  refine alwaysC_fabric fun s => ?_
  dsimp only
  split <;> simp

end Forms

section Commands
variable {s : State} {a : MbArgs}

theorem command_fabric {x y z : Bool} {f : State → State} (hf : ∀ s, FabricSame (f s) s) :
    KeepsFabric s (command s x y z f) :=
  keepsFabric_next.2 (.ite (by simp) (.ite (by simp) (.ite (by simp) (hf s))))

theorem execLoad_fabric : KeepsFabric s (execLoad a s) := by
  unfold execLoad
  refine command_fabric fun s => .ite (by simp) ?_
  split <;> simp

theorem execFwload_fabric : KeepsFabric s (execFwload a s) := by
  unfold execFwload
  refine command_fabric fun s => .ite (by simp) ?_
  exact .ite (by simp) (by simp)

theorem execUnleaseEffect_fabric {b : BitVec 8} : KeepsFabric s (execUnleaseEffect b s) :=
  keepsFabric_next.2 (.ite (.ite (by simp) (by simp)) (by simp))

theorem execQueueDisable_fabric : KeepsFabric s (execQueueDisable a s) := by
  unfold execQueueDisable
  exact command_fabric fun s => .ite (by simp) (.ite (by simp) (by simp))

theorem execBitUpset_fabric {p : UpsetPlace} {m : BitVec 72} : KeepsFabric s (execBitUpset p m s) := by
  cases p with
  | far n => exact .ite (by simp) (by simp)
  | _ => exact keepsFabric_next.2 (by simp)

theorem execClaimRelease_fabric {cl : Nat} : KeepsFabric s (execClaimRelease cl s) := by
  refine keepsFabric_next.2 (.ite (by simp) ?_)
  split <;> simp

theorem execPreemptionStop_fabric {cl : Nat} : KeepsFabric s (execPreemptionStop cl s) :=
  keepsFabric_next.2 (.ite (by simp) (.ite (.ite (by simp) (by simp)) (.ite (by simp) (by simp))))

theorem execFirmwareSwitch_fabric {c : Controller} : KeepsFabric s (execFirmwareSwitch c s) :=
  keepsFabric_next.2 (.ite (by simp) (.ite (by simp) (.ite (by simp) (by simp))))

theorem execRollback_fabric {c : Controller} : KeepsFabric s (execRollback c s) := by
  refine keepsFabric_next.2 (.ite (by simp) ?_)
  dsimp only
  split <;> simp

theorem execRetainedImageFault_fabric {c : Controller} : KeepsFabric s (execRetainedImageFault c s) :=
  keepsFabric_next.2 (.ite (.ite (by simp) (by simp)) (by simp))

theorem execTileFailsSelfTest_fabric {f r : Nat} : KeepsFabric s (execTileFailsSelfTest f r s) := by
  refine keepsFabric_next.2 ?_
  split
  · simp
  · exact .ite (by simp) (by simp)

end Commands

section Families
variable {s : State}

theorem stage_fabric {o : ES} {r : Orient} : KeepsFabric s (stage s o r) := by
  unfold stage
  exact alwaysC_fabric fun s => by simp

theorem send_fabric {tag : BitVec 12} {a : Src 6} {hi : Bool} : KeepsFabric s (send s tag a hi) := by
  unfold send
  exact alwaysC_fabric fun s => by simp

theorem mLoad_fabric {o : MA 6} {e : Size} {signed : Bool} : KeepsFabric s (mLoad s o e signed) := by
  unfold mLoad
  exact guardedC_fabric fun s => by simp

theorem mStore_fabric {o : MS 6} {e : Size} : KeepsFabric s (mStore s o e) := by
  unfold mStore
  exact guardedC_fabric fun s => by simp

theorem mAmo_fabric {op : AmoOp} {d : Dst 6} {cmp : MWord} {base : BitVec 4} {sx : Src 6} {g : Guard} :
    KeepsFabric s (mAmo s op d cmp base sx g) := by
  unfold mAmo
  exact guardedC_fabric fun s => by simp

theorem stgGo_fabric {c : BitVec 8} : KeepsFabric s (stgGo s c) := by
  unfold stgGo
  exact alwaysC_fabric fun s => by simp

theorem releaseFence_fabric {sc : Sys2Proof.Scope} {g : Guard} :
    KeepsFabric s (releaseFence s sc g) := guardedC_fabric fun s => by simp

theorem sBin_fabric {o : SG3 6 6 6} {lat : Nat} {f : Word → Word → Word} :
    KeepsFabric s (sBin s o lat f) := guarded_fabric fun s => by simp

theorem sUn_fabric {o : SG2 6 6} {f : Word → Word} : KeepsFabric s (sUn s o f) := guarded_fabric fun s => by simp

theorem sImm_fabric {sl : SSlot} {d : Dst 6} {a : Src 6} {f : Word → Word} :
    KeepsFabric s (sImm s sl d a f) := always_fabric fun s => by simp

theorem vBin_fabric {T : Type} {o : VG3 6 6 6 T} {lat : Nat} {f : Vec → Vec → Vec} :
    KeepsFabric s (vBin s o lat f) := laned_fabric fun m s => by simp

theorem vUn_fabric {T : Type} {o : VG2 6 6 T} {lat : Nat} {f : Vec → Vec} :
    KeepsFabric s (vUn s o lat f) := laned_fabric fun m s => by simp

theorem vTri_fabric {T : Type} {o : VG4 6 6 T} {lat : Nat} {f : Vec → Vec → Vec → Vec} :
    KeepsFabric s (vTri s o lat f) := laned_fabric fun m s => by simp

theorem vCmp_fabric {T : Type} {o : VG3 4 6 6 T} {w : Nat} {p : Nat → Nat → Bool} :
    KeepsFabric s (vCmp s o w p) := laned_fabric fun m s => by simp

theorem vMove_fabric {o : VG3 6 6 6 Fmt} {valid : Bool} {f : State → Vec} {psn : State → Bool} :
    KeepsFabric s (vMove s o valid f psn) := laned_fabric fun m s => by simp

theorem vPair_fabric {o : VG3 5 6 6 Fmt} {f : Nat → Vec → Vec → List Nat} :
    KeepsFabric s (vPair s o f) := laned_fabric fun m s => by simp

theorem vReduce_fabric {o : VG2 6 6 Fmt} {f : Nat → Nat → Nat} :
    KeepsFabric s (vReduce s o f) := guarded_fabric fun s => by simp

theorem kBin_fabric {o : VG3 4 4 4 Unit} {f : Mask → Mask → Mask} :
    KeepsFabric s (kBin s o f) := guarded_fabric fun s => by simp

theorem execEvict_fabric {a : MbArgs} : KeepsFabric s (execEvict a s) := by
  unfold execEvict
  exact command_fabric fun s => by simp

theorem execLease_fabric {a : MbArgs} : KeepsFabric s (execLease a s) := by
  unfold execLease
  exact command_fabric fun s => by simp

theorem execUnlease_fabric {a : MbArgs} : KeepsFabric s (execUnlease a s) := by
  unfold execUnlease
  exact command_fabric fun s => by simp

theorem execQueueEnable_fabric {a : MbArgs} : KeepsFabric s (execQueueEnable a s) := by
  unfold execQueueEnable
  exact command_fabric fun s => by simp

theorem execInvtlb_fabric {a : MbArgs} : KeepsFabric s (execInvtlb a s) := by
  unfold execInvtlb
  exact command_fabric fun s => by simp

theorem execPreempt_fabric {a : MbArgs} : KeepsFabric s (execPreempt a s) := by
  unfold execPreempt
  exact command_fabric fun s => askFleet_fabric fun s => by simp

theorem execResume_fabric {a : MbArgs} : KeepsFabric s (execResume a s) := by
  unfold execResume
  refine command_fabric fun s => FabricSame.trans ?_ (askFleet_fabric (cl := a.a0.toNat) (op := 8)
    (f := fun s => resumeClaim s a.a0.toNat) fun s => ?_)
  · simp
  · simp

theorem execAbort_fabric {a : MbArgs} : KeepsFabric s (execAbort a s) := by
  unfold execAbort
  exact command_fabric fun s => askFleet_fabric fun s => by simp

theorem execRecord_fabric {a : MbArgs} : KeepsFabric s (execRecord a s) := by
  unfold execRecord
  exact command_fabric fun s => by simp

theorem execQueueDisableDrain_fabric {q : BitVec 6} : KeepsFabric s (execQueueDisableDrain q s) :=
  keepsFabric_next.2 (.ite (.ite (by simp) (by simp)) (by simp))

theorem execSelfTestMove_fabric {f r c : Nat} : KeepsFabric s (execSelfTestMove f r c s) := by
  simp only [execSelfTestMove]
  (repeat' split) <;> simp

theorem execTlWait_fabric {c : BitVec 8} {a : Src 4} : KeepsFabric s (execTlWait c a s) :=
  .ite (by simp) (waits_fabric (by simp))

theorem execUncorrectableHalt_fabric {cl : Nat} : KeepsFabric s (execUncorrectableHalt cl s) :=
  keepsFabric_next.2 (.ite (stopOrDrift_fabric (by simp)) (by simp))

theorem execArraySend_fabric {t : TileId} {n : Nat} : KeepsFabric s (execArraySend t n s) := by
  unfold execArraySend
  split <;> simp

theorem execMmaStart_fabric {t : TileId} {op : Nat} : KeepsFabric s (execMmaStart t op s) :=
  keepsFabric_next.2 (withOp_fabric fun _ => by simp)

theorem execMmaGroupAdd_fabric {t : TileId} {op b g : Nat} : KeepsFabric s (execMmaGroupAdd t op b g s) :=
  keepsFabric_next.2 (withOp_fabric fun _ => by simp)

theorem execMmaBlockWrite_fabric {t : TileId} {op b : Nat} : KeepsFabric s (execMmaBlockWrite t op b s) :=
  keepsFabric_next.2 (withOp_fabric fun _ => by simp)

end Families

/-! ## A boot and the forming of a fleet set legal parameters -/

section Boot
variable {s : State}

theorem FabricLegal.of_same {u : State} (h : FabricLegal s) (hu : FabricSame u s) : FabricLegal u := by
  obtain ⟨hlh, hwheel, hrep, hlp, hfleet⟩ : u.lh = s.lh ∧ u.wheel = s.wheel ∧ u.replayLog2 = s.replayLog2 ∧ u.lp = s.lp ∧
    u.fleet = s.fleet := by simpa only [FabricSame, State.fabric, Prod.mk.injEq] using hu
  exact h.congr hlh hwheel hrep hlp hfleet

theorem bindFields_legal {b : BootFindings} (h : FabricLegal s) (hf : s.fleet = none) : FabricLegal (bindFields s b) := by
  obtain ⟨-, -, -, hlp, hlp', -⟩ := h
  refine ⟨?_, ?_, ?_, hlp, hlp', fun hne => absurd hf hne⟩
  · show (if _ then 6 else 8) = 6 ∨ (if _ then 6 else 8) = 8
    split <;> simp
  · show (if _ then b.wheel else 32) = 32 ∨ (if _ then b.wheel else 32) = 48 ∨ (if _ then b.wheel else 32) = 64
    split <;> simp_all
  · show 10 ≤ (if _ then b.replayLog2 else 12) ∧ (if _ then b.replayLog2 else 12) ≤ 16
    split <;> simp_all

/-- A boot leaves legal fabric parameters whatever they were before it: a restart sets those of a reset, and the binder
legal ones. -/
theorem powerOn_legal {b : BootFindings} : FabricLegal (powerOn s b) := by
  unfold powerOn
  extract_lets r back r0 d0 s0 s1
  have h0 : FabricLegal s0 ∧ s0.fleet = none := by simp [FabricLegal, s0, r0, restarted, State.reset]
  have h1 : FabricSame s1 s0 := by simp [s1]
  have hl : FabricLegal s1 := h0.1.of_same h1
  split
  · exact hl.of_same (by simp)
  · exact FabricLegal.of_same (s := bindFields s1 b) (bindFields_legal hl ((congrArg (fun f => f.2.2.2.2) h1).trans h0.2)) rfl

/-- A fleet forms only with a latency that `fleetFits` admits. -/
theorem formAgreed_legal {f : Forming} {v lp : Nat} (h : FabricLegal s) : FabricLegal (formAgreed s f v lp) := by
  unfold formAgreed
  split
  next => exact h
  next hn =>
    split
    next => exact h.of_same (by simp)
    next =>
      obtain ⟨hlh, hwheel, hrep, -, -, -⟩ := h
      have hfit : 512 ≤ lp ∧ lp ≤ 16384 ∧ lp % s.wheel = 0 := by
        obtain ⟨-, -, -, -, hf⟩ := by simpa only [not_or, Bool.not_eq_false] using hn
        obtain ⟨⟨-, -, -, hl, hl', hm⟩, -⟩ := by simpa only [fleetFits, Bool.and_eq_true, decide_eq_true_eq] using hf
        exact ⟨hl, hl', hm⟩
      exact ⟨hlh, hwheel, hrep, hfit.1, hfit.2.1, fun _ => hfit.2.2⟩

@[simp] theorem formFleet_fabric (s : State) (w n lp hf : Nat) : FabricSame (formFleet s w n lp hf) s :=
  .ite (by simp) (by simp)

theorem heardMessage_legal {m : FleetMessage} (h : FabricLegal s) : FabricLegal (heardMessage s m) := by
  have hs (u : State) (hu : FabricSame u s) : FabricLegal u := h.of_same hu
  cases m <;> dsimp only [heardMessage]
  case formAgreed =>
    split
    · exact formAgreed_legal h
    · exact h.of_same (by simp)
    · exact h
  case launchEnded => split <;> [split; skip] <;> exact h.of_same (by simp)
  case request => split <;> [split; skip] <;> exact h.of_same (by simp)
  case form | launch | verdict | partEnded => exact h.of_same (by simp)
  all_goals split <;> exact h.of_same (by simp)

theorem fleetMessage_legal {m : FleetMessage} (h : FabricLegal s) : FabricLegal (fleetMessage s m) := by
  unfold fleetMessage
  split
  · exact heardMessage_legal h
  · exact h

end Boot

/-- Every state that an outcome leads to has legal fabric parameters. -/
def OutcomeLegal (o : Host.Outcome State Fault Refusal) : Prop := ∀ u, o = .next u → FabricLegal u

theorem KeepsFabric.legal {s : State} {o : Host.Outcome State Fault Refusal} (ho : KeepsFabric s o) (h : FabricLegal s) :
    OutcomeLegal o := fun u hu => h.of_same (ho u hu)

theorem OutcomeLegal.next {u : State} (h : FabricLegal u) : OutcomeLegal (.next u) := fun _ hu => by cases hu; exact h

theorem OutcomeLegal.fault (f : Fault) : OutcomeLegal (.fault f) := fun _ hu => nomatch hu

theorem OutcomeLegal.refused (r : Refusal) : OutcomeLegal (.refused r) := fun _ hu => nomatch hu

theorem OutcomeLegal.ite {c : Prop} [Decidable c] {a b : Host.Outcome State Fault Refusal}
    (ha : OutcomeLegal a) (hb : OutcomeLegal b) : OutcomeLegal (if c then a else b) := by
  split
  · exact ha
  · exact hb

section Dispatch
variable {s : State}

theorem execRestart_legal {a : MbArgs} (h : FabricLegal s) : OutcomeLegal (execRestart a s) :=
  .next (by
    split
    · exact h.of_same (by simp)
    · split
      · exact h.of_same (by simp)
      · split
        · exact h.of_same (by simp)
        · exact powerOn_legal)

/-- Every event keeps the fabric parameters legal: only a boot and a message of a fleet set them. -/
theorem runEvent_legal {e : Event} (h : FabricLegal s) : OutcomeLegal (runEvent e s) := by
  cases e <;> dsimp only [runEvent]
  case powerOn => exact .next powerOn_legal
  case restart => exact execRestart_legal h
  case managementSidebandMessage => exact .next (fleetMessage_legal h)
  case openSpanEntry | waitFormIssue | tkawaitIssue | resultLanding | runEnd | bankCommit | mapChangeEffect |
    formatChangeEffect | reductionApply | stageRowTransfer | mmaCompletion | operandRowDeposit | flitArrival |
    flitRelease | landedFlitDue | landingLost | holdDelivery | holdEnd | voltageDroop | localTrimUpdate |
    waferTrimUpdate | deadbandSlewSet | countUpset | alignment | peerLinkLoss | gateRelease | gateTimeout |
    barrierPhaseCompletion | barrierTimeout | nonPreEmptibleCap | weightArrival | jcbTotalArrival | jcbPostArrival |
    strandRetirement | commandActivation | readLineRequest | stagingFlitRelease | stagingDeposit | stagingSourceRead |
    stagingWriteFlit | stagingWriteCommit | trackerFire | timelineAdvance | flagWrite | qnotifyWrite | packetRead |
    fleetLaunch | opNotAssigned | switchRequest | alive | accept | getVersion | getCapabilities | negotiateAlgorithms
    | getDigests | getCertificate | challenge =>
    exact (keepsFabric_next.2 (by simp)).legal h
  case throttle | railChange | claimEvaluation | fatalStop | selfTestMoveBack | abortStop | hostFarWrite | hostFarRead
    | hostRegisterWrite | getMeasurements | accessionRecordWrite =>
    exact (keepsFabric_next.2 (.ite (by simp) (by simp))).legal h
  case arraySend => exact execArraySend_fabric.legal h
  case bitUpset => exact execBitUpset_fabric.legal h
  case preemptionStop => exact execPreemptionStop_fabric.legal h
  case selfTestMove => exact execSelfTestMove_fabric.legal h
  case claimRelease => exact execClaimRelease_fabric.legal h
  case unleaseEffect => exact execUnleaseEffect_fabric.legal h
  case queueDisableDrain => exact execQueueDisableDrain_fabric.legal h
  case firmwareSwitch => exact execFirmwareSwitch_fabric.legal h
  case rollback => exact execRollback_fabric.legal h
  case retainedImageFault => exact execRetainedImageFault_fabric.legal h
  case tileFailsSelfTest => exact execTileFailsSelfTest_fabric.legal h
  case mmaStart => exact execMmaStart_fabric.legal h
  case mmaGroupAdd => exact execMmaGroupAdd_fabric.legal h
  case mmaBlockWrite => exact execMmaBlockWrite_fabric.legal h
  case uncorrectableHalt => exact execUncorrectableHalt_fabric.legal h
  case load => exact execLoad_fabric.legal h
  case evict => exact execEvict_fabric.legal h
  case lease => exact execLease_fabric.legal h
  case unlease => exact execUnlease_fabric.legal h
  case queueEnable => exact execQueueEnable_fabric.legal h
  case queueDisable => exact execQueueDisable_fabric.legal h
  case invtlb => exact execInvtlb_fabric.legal h
  case preempt => exact execPreempt_fabric.legal h
  case resume => exact execResume_fabric.legal h
  case abort => exact execAbort_fabric.legal h
  case fwload => exact execFwload_fabric.legal h
  case record => exact execRecord_fabric.legal h

/-- Every instruction keeps the fabric parameters legal; an event's row does what the event does. -/
theorem exec_legal {i : Instr} (h : FabricLegal s) : OutcomeLegal (exec i s) := by
  cases i <;> dsimp only [exec, vldAt, vstAt, execVldRow, execVldCol, execVstRow, execVstCol, execVld2, execVgt, execVgt2,
    execVsc, execScnt, execSreset, execBfmt, execMclaim, execMrel, execSpush, execBgive, execBlend, execBzero, execBcopy,
    execMshape, execMma, execMqnt, execWsplit, execWret, execJcbAdd, execJcbPost, execXland, execXtag, execStgSet,
    execMaccRd, execMaccZero, execRet, execCrset, execTkawait]
  case movi | movhi | vmovi | xpoll | tlRd | nop | br | call | trap | svc | iret =>
    exact (keepsFabric_next.2 (by simp)).legal h
  case brkpt | crget | stgRd => exact (keepsFabric_next.2 (.ite (by simp) (by simp))).legal h
  case add | sub | and | or | xor | andn | mul | mulh | mulhn | div | divn | rem | remn | shl | shr | sra | rol | min
    | max | minn | maxn | ceq | cne | clt | cltn | cle | clen => exact (sBin_fabric).legal h
  case addi | andi | ori | xori | shli | shri | srai | ceqi | clti | bfx | bfxs => exact (sImm_fabric).legal h
  case clz | ctz | popc => exact (sUn_fabric).legal h
  case sel | bfi | aaddi | vsel | cvt | qblk | vpk | vupk => exact (always_fabric fun _ => by simp).legal h
  case aadd | asub | amk | ahi | alo | kset | kget | vext | knot | kcnt | rngSeed | rngPop | bmap | npreOff | fenceAcq =>
    exact (guarded_fabric fun _ => by simp).legal h
  case fadd | fsub | fmul | fmin | fmax | dot2 | iadd | isub | imul | imulh | iand | ior | ixor | imin | imax | ishl
    | ishr | isra => exact (vBin_fabric).legal h
  case fabs | fneg | frcp | frsq | fexp2 | flog2 | vmov => exact (vUn_fabric).legal h
  case fma | fms | fnma | imad => exact (vTri_fabric).legal h
  case fcmpEq | fcmpNe | fcmpLt | fcmpLe | fcmpUn | icmpEq | icmpNe | icmpLt | icmpLe => exact (vCmp_fabric).legal h
  case vbc | vins => exact (laned_fabric fun _ _ => by simp).legal h
  case vperm | vrot => exact (vMove_fabric).legal h
  case vzip | vunzip => exact (vPair_fabric).legal h
  case vsum | vmaxr => exact (vReduce_fabric).legal h
  case kand | kor | kxor => exact (kBin_fabric).legal h
  case ldB | ldBn | ldH | ldHn | ldW => exact (mLoad_fabric).legal h
  case stB | stH | stW => exact (mStore_fabric).legal h
  case vldRow | vldCol | vgt => exact mLoadV_fabric.legal h
  case vstRow | vstCol | vsc => exact mStoreV_fabric.legal h
  case vld2 | vgt2 => exact mLoadPair_fabric.legal h
  case vst2 => exact execVst2_fabric.legal h
  case vlddRow | vlddCol => exact vlddAt_fabric.legal h
  case amoAdd | amoAnd | amoOr | amoXor | amoMin | amoMax | amoXchg | amoCas => exact (mAmo_fabric).legal h
  case redF32 | redS32 => exact mRed_fabric.legal h
  case dqblk => exact execDqblk_fabric.legal h
  case spop => exact execSpop_fabric.legal h
  case spush => exact (lanedC_fabric fun _ _ => .ite (by simp) (by simp)).legal h
  case fenceRel | fenceAr | fenceSc => exact releaseFence_fabric.legal h
  case scnt | sreset | bgive | blend | bfmt | bzero | bcopy | mshape | mma | mqnt | wsplit | wret | jcbAdd | jcbPost =>
    exact (guardedC_fabric fun _ => by simp).legal h
  case bback => exact execBback_fabric.legal h
  case brot | brotRev => exact rotate_fabric.legal h
  case mclaim | mrel | xland | xtag | stgSet | maccRd | maccZero | tkhold | barArr =>
    exact (alwaysC_fabric fun _ => by simp).legal h
  case mstageRow | mstageCol => exact (stage_fabric).legal h
  case xsendLo | xsendHi => exact (send_fabric).legal h
  case xrecvLo | xrecvHi => exact receive_fabric.legal h
  case tkalign => exact execTkalign_fabric.legal h
  case readToBank | readToLandingBuffer | write | trackedWrite => exact (stgGo_fabric).legal h
  case tlWait => exact (execTlWait_fabric).legal h
  case barWait => exact (waits_fabric (by simp)).legal h
  case barSync => exact (waits_fabric (by simp)).legal (h.of_same (syncArrive_fabric _ _))
  case tkawait => exact (always_fabric fun _ => .ite (by simp) (by simp)).legal h
  case brz | brnz | brk => exact (branchIf_fabric fun _ => by simp).legal h
  case ret => exact (guarded_fabric fun _ => by simp).legal h
  case crset => exact (always_fabric fun _ => by simp).legal h
  case loop => exact execLoop_fabric.legal h
  case halt => exact execHalt_fabric.legal h
  case gate => exact execGate_fabric.legal h
  case npreOn => exact execNpreOn_fabric.legal h
  case waitaEq | waitaNe | waitaGen => exact waita_fabric.legal h
  case powerOn => exact .next powerOn_legal
  case restart => exact execRestart_legal h
  case managementSidebandMessage => exact .next (fleetMessage_legal h)
  case openSpanEntry | waitFormIssue | tkawaitIssue | resultLanding | runEnd | bankCommit | mapChangeEffect |
    formatChangeEffect | reductionApply | stageRowTransfer | mmaCompletion | operandRowDeposit | flitArrival |
    flitRelease | landedFlitDue | landingLost | holdDelivery | holdEnd | voltageDroop | localTrimUpdate |
    waferTrimUpdate | deadbandSlewSet | countUpset | alignment | peerLinkLoss | gateRelease | gateTimeout |
    barrierPhaseCompletion | barrierTimeout | nonPreEmptibleCap | weightArrival | jcbTotalArrival | jcbPostArrival |
    strandRetirement | commandActivation | readLineRequest | stagingFlitRelease | stagingDeposit | stagingSourceRead |
    stagingWriteFlit | stagingWriteCommit | trackerFire | timelineAdvance | flagWrite | qnotifyWrite | packetRead |
    fleetLaunch | opNotAssigned | switchRequest | alive | accept | getVersion | getCapabilities | negotiateAlgorithms
    | getDigests | getCertificate | challenge =>
    exact (keepsFabric_next.2 (by simp)).legal h
  case throttle | railChange | claimEvaluation | fatalStop | selfTestMoveBack | abortStop | hostFarWrite | hostFarRead
    | hostRegisterWrite | getMeasurements | accessionRecordWrite =>
    exact (keepsFabric_next.2 (.ite (by simp) (by simp))).legal h
  case arraySend => exact execArraySend_fabric.legal h
  case bitUpset => exact execBitUpset_fabric.legal h
  case preemptionStop => exact execPreemptionStop_fabric.legal h
  case selfTestMove => exact execSelfTestMove_fabric.legal h
  case claimRelease => exact execClaimRelease_fabric.legal h
  case unleaseEffect => exact execUnleaseEffect_fabric.legal h
  case queueDisableDrain => exact execQueueDisableDrain_fabric.legal h
  case firmwareSwitch => exact execFirmwareSwitch_fabric.legal h
  case rollback => exact execRollback_fabric.legal h
  case retainedImageFault => exact execRetainedImageFault_fabric.legal h
  case tileFailsSelfTest => exact execTileFailsSelfTest_fabric.legal h
  case mmaStart => exact execMmaStart_fabric.legal h
  case mmaGroupAdd => exact execMmaGroupAdd_fabric.legal h
  case mmaBlockWrite => exact execMmaBlockWrite_fabric.legal h
  case uncorrectableHalt => exact execUncorrectableHalt_fabric.legal h
  case load => exact execLoad_fabric.legal h
  case evict => exact execEvict_fabric.legal h
  case lease => exact execLease_fabric.legal h
  case unlease => exact execUnlease_fabric.legal h
  case queueEnable => exact execQueueEnable_fabric.legal h
  case queueDisable => exact execQueueDisable_fabric.legal h
  case invtlb => exact execInvtlb_fabric.legal h
  case preempt => exact execPreempt_fabric.legal h
  case resume => exact execResume_fabric.legal h
  case abort => exact execAbort_fabric.legal h
  case fwload => exact execFwload_fabric.legal h
  case record => exact execRecord_fabric.legal h

end Dispatch

/-! ## Issue, for any meaning of instructions that keeps the parameters legal -/

section Issue
variable {s : State} {l : List Instr} {ex : Meaning} (hex : ∀ i s, FabricLegal s → OutcomeLegal (ex i s))

include hex

theorem faultIn_legal {i : Instr} (h : FabricLegal s) : OutcomeLegal (faultIn ex l s i) := by
  unfold faultIn
  split
  · exact hex i s h
  · exact hex i s h
  · split
    next u hu => exact .next ((hex i _ (h.of_same (by simp)) u hu).of_same (by simp))
    next f _ => exact .fault f
    next r _ => exact .refused r

theorem runSlots_legal (h : FabricLegal s) : OutcomeLegal (runSlots ex l s) := by
  induction l generalizing s with
  | nil => exact .next h
  | cons i l ih =>
    unfold runSlots
    split
    next u hu => exact ih (hex i s h u hu)
    next f _ => exact .fault f
    next r _ => exact .refused r

theorem issueSlots_legal (h : FabricLegal s) : OutcomeLegal (issueSlots ex l s) := by
  unfold issueSlots
  split
  next u hu => exact .next ((runSlots_legal hex (h.of_same (by simp)) u hu).of_same (by simp))
  next f _ => exact .fault f
  next r _ => exact .refused r

/-- A bundle issues, takes the fault of one slot, or takes the fault that stood pending. -/
theorem checkAndIssue_legal (h : FabricLegal s) : OutcomeLegal (checkAndIssue ex l s) := by
  have hp (n : BitVec 8) : OutcomeLegal (.next (takePending s n)) := .next (h.of_same (by simp))
  unfold checkAndIssue
  dsimp only
  split
  · exact issueSlots_legal hex h
  · exact faultIn_legal hex h
  · exact hp _
  · exact .ite (faultIn_legal hex h) (hp _)

theorem presentLegal_legal (h : FabricLegal s) : OutcomeLegal (presentLegal ex l s) := by
  have hp (n : BitVec 8) : OutcomeLegal (.next (takePending s n)) := .next (h.of_same (by simp))
  have hw : FabricLegal (wake s) := h.of_same (by simp)
  unfold presentLegal
  split
  · exact .next (h.of_same (by simp))
  · split
    · exact hp _
    · exact .next (h.of_same (by simp))
  · refine .ite ?_ (checkAndIssue_legal hex hw)
    dsimp only
    split
    · exact .next (h.of_same (by simp))
    · exact hex _ _ hw
    · exact hp _
    · exact .ite (hex _ _ hw) (hp _)

theorem presentSlots_legal {l : List Slot} (h : FabricLegal s) : OutcomeLegal (presentSlots ex l s) := by
  unfold presentSlots
  refine .ite (.next (h.of_same (by simp))) ?_
  split
  · exact .next (h.of_same (by simp))
  · exact presentLegal_legal hex h

theorem presentBundle_legal (h : FabricLegal s) : OutcomeLegal (presentBundle ex s) := by
  unfold presentBundle
  extract_lets u
  have hu : FabricLegal u := h.of_same (by simp [u])
  split
  · exact .next (hu.of_same (by simp))
  · exact presentSlots_legal hex hu

theorem issueStrand_legal {st : StrandId} (h : FabricLegal s) : OutcomeLegal (issueStrand ex st s) := by
  unfold issueStrand
  extract_lets u
  have hu : FabricLegal u := h.of_same rfl
  exact .ite (presentBundle_legal hex hu) (.ite (.next (hu.of_same (by simp))) (.next hu))

theorem runTask_legal {k : Task} (h : FabricLegal s) : OutcomeLegal (runTask ex k s) := by
  cases k with
  | ev e => exact runEvent_legal h
  | issue st => exact .ite (issueStrand_legal hex h) (.next h)
  | read r => exact .next (h.of_same (by simp))
  | early cl | drift cl | issues cl | present t | late cl | endTick cl => exact .next (h.of_same (.ite (by simp) (by simp)))

end Issue

/-! ## Every step -/

section Step
variable {s : State}

theorem step_legal (h : FabricLegal s) : OutcomeLegal (step s) := by
  unfold step stepWith
  split
  · exact .next (h.of_same (by simp))
  · exact runTask_legal (fun _ _ => exec_legal) (h.of_same rfl)

end Step

end FabricParameters

/-- Settles O7: a step runs one task or lets wall time pass, and of all that these do only a boot and the forming of a fleet
set the fabric parameters, to legal values. -/
theorem stepKeepsFabric : Obligations.StepKeepsFabric := by
  unfold Obligations.StepKeepsFabric
  exact fun _ u h hu => step_legal h u hu

end Sys2Proof.Machine


namespace Sys2Proof.Machine

/-! # Clauses of the machine and the fabric that a state breaks

Each section gives a state, what the model evaluates to on it, and the refutation. -/

section ForeignFreeze
open State

/-- Claims 0 and 1 run; a tile of claim 1 is held for a late flit, and the record of the freeze stands with claim 0. -/
def foreignFreeze : State :=
  { State.reset with
    claims := [(0, { Claim.absent with run := .running, frozen := some ⟨⟨1, 0, 0⟩, 0, 5, 0, .jcbPostArrival 0⟩ }),
      (1, { Claim.absent with run := .running })] }

/-- The cycle of the freeze passes first and holds claim 1, whose own turn comes after it. -/
theorem tick_advance_foreignFreeze : ((advance foreignFreeze).claimOf 1).tick = 0 := by decide

end ForeignFreeze

/-- Refutes O59: that the count of a running claim goes on is stated of every state whose claims have distinct numbers, without
the premise that a freeze stands with the claim of its tile, which only the clause of the lost landing has. In `foreignFreeze`
the freeze of claim 0 names a tile of claim 1, and the step of wall time holds claim 1's count. -/
theorem not_eventSteps : ¬ Obligations.EventSteps := by
  unfold Obligations.EventSteps
  rintro ⟨-, hwall⟩
  obtain ⟨u, hu, -, -, -, -, -, hlive⟩ := hwall foreignFreeze rfl
  have hstep : step foreignFreeze = .next (advance foreignFreeze) := rfl
  obtain ⟨hcounts, -⟩ := hlive (by decide)
  obtain ⟨htick, -⟩ := hcounts 1 { Claim.absent with run := .running } (by simp [foreignFreeze]) ⟨⟨rfl, by decide⟩, rfl, rfl⟩
  cases hstep.symm.trans hu
  rw [tick_advance_foreignFreeze] at htick
  exact absurd htick (by decide)

section DamagedDrift
open State

/-- The corner tile of a fleet's claim: a null flit whose label is beyond the slack leaves the buffer of its peer link, in a tick
with an error on the link's sideband, while the only output port of the entry that owns the input is taken. -/
def damagedDrift : State :=
  { State.reset with
    claims := [(0, { Claim.absent with fleet := true, fw := 1, fh := 1 })]
    tiles := [(⟨0, 0, 0⟩, { Tile.fresh 0 0 with
      elastic := [(.north, 0, nullFlit)], linkErr := [(.north, 0x10)],
      routes := [⟨5, 0, some .north, [.south], false⟩], outs := [some .south] })] }

/-- A delta beyond the slack is noted like one beyond no slack. -/
theorem noteDrift_of_slack_le {s : State} {t : TileId} {d : Side} {delta : BitVec 16} {slack : Nat}
    (h : slack ≤ delta.toInt.natAbs) : noteDrift s t d delta slack = noteDrift s t d delta 0 := by
  simp [noteDrift, h]

/-- The error makes the null flit a lost flit of the entry's tag: the claim takes 0x32 for the label and 0x30 for the port. -/
theorem faultCount_release_damagedDrift : ((release damagedDrift ⟨0, 0, 0⟩ .north).claimOf 0).faultCount = 2 := by
  have hfind : (damagedDrift.tileOf ⟨0, 0, 0⟩).elastic.find? (fun e => e.1 == Side.north && decide (e.2.1 ≤ damagedDrift.now 0)) =
      some (.north, 0, nullFlit) := by decide
  unfold release
  simp only [hfind]
  generalize hu : damagedDrift.modTile ⟨0, 0, 0⟩ (fun x => { x with elastic := x.elastic.erase (.north, 0, nullFlit) }) = u
  have hport : (if nullFlit.origin.isSome then none else portAt u ⟨0, 0, 0⟩ .north) = some 0 := by
    subst hu
    decide
  have hdrift : noteDrift u ⟨0, 0, 0⟩ .north ((u.countOf ⟨0, 0, 0⟩).setWidth 16 - (nullFlit.label + BitVec.ofNat 16 u.lp))
      (driftSlack u (.peer 0)) = noteDrift u ⟨0, 0, 0⟩ .north 0xFE00 0 := by
    subst hu
    exact noteDrift_of_slack_le (Nat.sub_le 512 _)
  simp only [hport, hdrift]
  subst hu
  decide

end DamagedDrift

/-- Refutes O46: of a null flit of a peer port whose label is beyond the slack the statement says that the claim takes one fault,
0x32, whatever error the link has in that tick. In `damagedDrift` an error on the sideband makes the flit a lost flit as well,
which finds its output port taken, so that the claim takes two. -/
theorem not_fabricEvents : ¬ Obligations.FabricEvents := by
  unfold Obligations.FabricEvents
  rintro ⟨-, hrelease, -⟩
  obtain ⟨-, -, -, -, hpeer⟩ := hrelease ⟨0, 0, 0⟩ .north damagedDrift [] [] 0 nullFlit rfl (by simp) (Nat.zero_le _)
  obtain ⟨u, hu, -, -, hfault⟩ := (hpeer 0 ⟨rfl, by decide⟩).2 List.not_mem_nil (by decide) rfl
  obtain ⟨hcount, -⟩ := hfault (Nat.sub_le 512 _)
  cases hu
  rw [faultCount_release_damagedDrift] at hcount
  exact absurd hcount (by decide)

section LostRow
open State

/-- Two tiles of a row fail, so that the row is lost, and so do the wires between two others of it. -/
def lostRowFindings : BootFindings :=
  { findingsNone with retired := [(0, 0, 3), (0, 0, 5)], failedWires := [(7, 0, .east)] }

/-- The binder shifts the lost row for its wires, from a column in which no tile failed. -/
theorem retiredTiles_powerOn_lostRow : (powerOn State.reset lostRowFindings).retiredTiles = [(0, 0, 7)] := by
  decide +kernel

end LostRow

/-- Refutes O57: that a tile which the binder skips was found to fail, or stands in a row in which none was. With
`lostRowFindings` two tiles of a row fail; the binder leaves both out of its map, and so takes the row for one whose reserve tile
is free: it skips a third tile of it to avoid the failed wires. -/
theorem not_bootAndMeasurements : ¬ Obligations.BootAndMeasurements := by
  unfold Obligations.BootAndMeasurements
  rintro ⟨hboot, -⟩
  obtain ⟨u, hu, -, -, -, -, -, -, -, -, -, -, -, hpass, -⟩ := hboot lostRowFindings State.reset
  obtain ⟨-, -, -, -, -, -, hretired, -⟩ := hpass (by decide) rfl rfl (by simp [lostRowFindings, findingsNone])
  cases hu
  rw [retiredTiles_powerOn_lostRow] at hretired
  rcases hretired 0 0 7 (by decide) with hfailed | ⟨-, hsound, -⟩
  · exact absurd hfailed (by decide)
  · exact hsound 3 (by decide)

end Sys2Proof.Machine
namespace Sys2Proof.Machine

/-! # Bytes, claims and tiles that an update leaves alone -/

section Kept
open State
variable {s u v : State} {t : TileId}

/-! ## Tables -/

theorem put_put {κ α : Type} [DecidableEq κ] (l : List (κ × α)) (k : κ) (x y : α) : put (put l k x) k y = put l k y := by
  induction l with
  | nil => simp [put]
  | cons p l ih =>
    obtain ⟨i, z⟩ := p
    by_cases h : i = k <;> simp [put, h, ih]

@[simp] theorem setTile_setTile (s : State) (t : TileId) (x y : Tile) : (s.setTile t x).setTile t y = s.setTile t y := by
  simp [State.setTile, put_put]

/-- A tile is a fresh one or stands in the table. -/
theorem tileOf_cases {P : Tile → Prop} (s : State) (t : TileId) (hf : ∀ n p, P (.fresh n p))
    (ht : ∀ p ∈ s.tiles, p.1 = t → P p.2) : P (s.tileOf t) := by
  unfold State.tileOf
  cases h : find s.tiles t with
  | none => exact hf _ _
  | some x => exact ht (t, x) (mem_of_find h) rfl

theorem tileOf_congr (ht : u.tiles = s.tiles) (hc : u.claims = s.claims) (hw : u.wheel = s.wheel) (t : TileId) :
    u.tileOf t = s.tileOf t := by
  simp [State.tileOf, State.claimOf, ht, hc, hw]

theorem coreOf_congr (hc : u.cores = s.cores) (i : StrandId) : u.coreOf i = s.coreOf i := by
  simp [State.coreOf, hc]

theorem claimOf_congr (hc : u.claims = s.claims) (k : Nat) : u.claimOf k = s.claimOf k := by
  simp [State.claimOf, hc]

/-! ## Bytes -/

/-- Two tiles hold the same bytes, marks and flips. -/
def SameStore (x y : Tile) : Prop := y.sram = x.sram ∧ y.marks = x.marks ∧ y.flips = x.flips

theorem SameStore.byteView {x y : Tile} (h : SameStore x y) (bank : BitVec 6) (off : Nat) :
    y.byteView bank off = x.byteView bank off := by
  obtain ⟨hs, hm, hf⟩ := h
  simp [Tile.byteView, Tile.wordView, hs, hm, hf]

theorem BytesKept.of_store (ht : ∀ t, SameStore (s.tileOf t) (u.tileOf t)) (hf : u.far = s.far) : BytesKept s u :=
  ⟨fun t bank off => (ht t).byteView bank off, fun a => by rw [hf]⟩

/-- A tile that stands in no table holds no byte, whatever its claim's count is. -/
theorem BytesKept.of_tiles (ht : u.tiles = s.tiles) (hf : u.far = s.far) : BytesKept s u :=
  .of_store (fun t => by
    unfold SameStore State.tileOf
    rw [ht]
    cases find s.tiles t <;> exact ⟨rfl, rfl, rfl⟩) hf

theorem BytesKept.refl (s : State) : BytesKept s s := .of_tiles rfl rfl

theorem BytesKept.trans (h : BytesKept s u) (k : BytesKept u v) : BytesKept s v :=
  ⟨fun t bank off => (k.1 t bank off).trans (h.1 t bank off), fun a => (k.2 a).trans (h.2 a)⟩

theorem bytesKept_setTile {x : Tile} (hx : SameStore (s.tileOf t) x) : BytesKept s (s.setTile t x) :=
  .of_store (fun o => by
    by_cases h : o = t
    · subst h
      rwa [tileOf_setTile]
    · rw [tileOf_setTile_ne _ _ _ _ h]
      exact ⟨rfl, rfl, rfl⟩) rfl

theorem bytesKept_modTile {f : Tile → Tile} (hf : ∀ x, SameStore x (f x)) : BytesKept s (s.modTile t f) :=
  bytesKept_setTile (hf _)

theorem bytesKept_planEv (s : State) (c n p : Nat) (i : Event) : BytesKept s (s.planEv c n p i) := .of_tiles rfl rfl

/-! ## A fault of a claim -/

theorem mem_insertFault (l : List FaultRec) (r : FaultRec) : r ∈ insertFault l r := by
  induction l with
  | nil => simp [insertFault]
  | cons x l ih =>
    unfold insertFault
    split <;> simp [ih]

theorem length_insertFault (l : List FaultRec) (r : FaultRec) : (insertFault l r).length = l.length + 1 := by
  induction l with
  | nil => rfl
  | cons x l ih =>
    unfold insertFault
    split <;> simp [ih]

/-- A record with room for a fault takes it. -/
theorem mem_take_insertFault {l : List FaultRec} (r : FaultRec) (h : l.length < 64) : r ∈ (insertFault l r).take 64 := by
  rw [List.take_of_length_le (by rw [length_insertFault]; omega)]
  exact mem_insertFault l r

theorem claimOf_recordFault (s : State) (cl : Nat) (r : FaultRec) : (recordFault s cl r).claimOf cl =
    { s.claimOf cl with faults := (insertFault (s.claimOf cl).faults r).take 64, faultCount := (s.claimOf cl).faultCount + 1 } := by
  simp [recordFault]

/-- A fatal fault changes nothing of its claim but the tick of the first one. -/
theorem claimOf_fatalAt (s : State) (cl : Nat) : (fatalAt s cl).claimOf cl =
    { s.claimOf cl with fatal := some ((s.claimOf cl).fatal.getD (s.now cl)) } := by
  unfold fatalAt
  split
  next n h =>
    generalize s.claimOf cl = c at h ⊢
    cases c
    subst h
    rfl
  next h => simp [h]

theorem claimOf_claimFault (s : State) (t : TileId) (cause : Byte) (data : Quad) : (claimFault s t cause data).claimOf t.claim =
    let c := s.claimOf t.claim
    { c with
      faults := (insertFault c.faults ⟨cause, s.now t.claim, t.x, t.y, 15, 0, data⟩).take 64
      faultCount := c.faultCount + 1
      fatal := some (c.fatal.getD c.tick) } := by
  unfold claimFault
  rw [claimOf_fatalAt]
  simp [claimOf_recordFault, State.now]

@[simp] theorem fatalAt_cores (s : State) (cl : Nat) : (fatalAt s cl).cores = s.cores := by
  unfold fatalAt
  split <;> rfl

@[simp] theorem claimFault_cores (s : State) (t : TileId) (cause : Byte) (data : Quad) :
    (claimFault s t cause data).cores = s.cores := fatalAt_cores _ _

theorem claimFaulted_claimFault (s : State) (t : TileId) (cause : Byte) (data : Quad) :
    ClaimFaulted s (claimFault s t cause data) t cause := by
  have hc := claimOf_claimFault s t cause data
  refine ⟨by rw [hc], fun hlen => ⟨_, by rw [hc]; exact mem_take_insertFault _ hlen, rfl, rfl, rfl, rfl, rfl⟩, by rw [hc]; rfl,
    fun st => coreOf_congr (by simp) st, .of_tiles (by simp) (by simp)⟩

end Kept
end Sys2Proof.Machine

namespace Sys2Proof.Machine

/-! # Holds: what they plan and what they leave alone (R258, R259, R263, R264) -/

section Holds
open State
variable {s u v : State} {t o : TileId}

/-! ## States that differ in what is planned -/

/-- Only what is planned, what the docents counted and the holds that leave the wafer differ. -/
def OnlyPlans (s u : State) : Prop := ∃ a d p, u = { s with agenda := a, docents := d, peerHolds := p }

theorem OnlyPlans.refl (s : State) : OnlyPlans s s := ⟨_, _, _, rfl⟩

theorem OnlyPlans.trans (h : OnlyPlans s u) (k : OnlyPlans u v) : OnlyPlans s v := by
  obtain ⟨_, _, _, rfl⟩ := h
  obtain ⟨a, d, p, rfl⟩ := k
  exact ⟨a, d, p, rfl⟩

theorem OnlyPlans.tiles (h : OnlyPlans s u) : u.tiles = s.tiles := by obtain ⟨_, _, _, rfl⟩ := h; rfl
theorem OnlyPlans.claims (h : OnlyPlans s u) : u.claims = s.claims := by obtain ⟨_, _, _, rfl⟩ := h; rfl
theorem OnlyPlans.cores (h : OnlyPlans s u) : u.cores = s.cores := by obtain ⟨_, _, _, rfl⟩ := h; rfl
theorem OnlyPlans.far (h : OnlyPlans s u) : u.far = s.far := by obtain ⟨_, _, _, rfl⟩ := h; rfl
theorem OnlyPlans.todo (h : OnlyPlans s u) : u.todo = s.todo := by obtain ⟨_, _, _, rfl⟩ := h; rfl
theorem OnlyPlans.tileOf (h : OnlyPlans s u) (t : TileId) : u.tileOf t = s.tileOf t := by obtain ⟨_, _, _, rfl⟩ := h; rfl
theorem OnlyPlans.claimOf (h : OnlyPlans s u) (k : Nat) : u.claimOf k = s.claimOf k := by obtain ⟨_, _, _, rfl⟩ := h; rfl
theorem OnlyPlans.now (h : OnlyPlans s u) (k : Nat) : u.now k = s.now k := by obtain ⟨_, _, _, rfl⟩ := h; rfl
theorem OnlyPlans.coreOf (h : OnlyPlans s u) (i : StrandId) : u.coreOf i = s.coreOf i := by obtain ⟨_, _, _, rfl⟩ := h; rfl
theorem OnlyPlans.bytesKept (h : OnlyPlans s u) : BytesKept s u := .of_tiles h.tiles h.far

theorem onlyPlans_foldl {α : Type} {f : State → α → State} (hf : ∀ s x, OnlyPlans s (f s x)) (l : List α) (s : State) :
    OnlyPlans s (l.foldl f s) := by
  induction l generalizing s with
  | nil => exact .refl s
  | cons x l ih => exact (hf s x).trans (ih _)

theorem onlyPlans_modDocent (s : State) (t : TileId) (f : Docent → Docent) : OnlyPlans s (modDocent s t f) := ⟨_, _, _, rfl⟩

theorem onlyPlans_retime (s : State) (t : TileId) : OnlyPlans s (retime s t) := ⟨_, _, _, rfl⟩

theorem onlyPlans_holdOut (s : State) (t : TileId) (q cy : Nat) (p : Option Nat) : OnlyPlans s (holdOut s t q cy p) := by
  unfold holdOut
  dsimp only
  split
  · exact ⟨_, _, _, rfl⟩
  · exact .refl s

/-- A hold goes to one tile. -/
def sendOne (s : State) (t : TileId) (q cy : Nat) (o : TileId) : State :=
  let x := cy + holdDistance (s.claimOf t.claim) t o
  let u := s.planEv t.claim (tickAt s o x) phWire (.holdDelivery o q ⟨x, none⟩)
  if (holdsTo s o).isEmpty then u else retime u o

theorem sendHold_cons (s : State) (t : TileId) (q cy : Nat) (o : TileId) (l : List TileId) :
    sendHold s t q cy (o :: l) = sendHold (sendOne s t q cy o) t q cy l := rfl

theorem onlyPlans_sendOne (s : State) (t : TileId) (q cy : Nat) (o : TileId) : OnlyPlans s (sendOne s t q cy o) := by
  unfold sendOne
  dsimp only
  split
  · exact ⟨_, _, _, rfl⟩
  · exact .trans ⟨_, _, _, rfl⟩ (onlyPlans_retime _ o)

theorem onlyPlans_sendHold (s : State) (t : TileId) (q cy : Nat) (l : List TileId) : OnlyPlans s (sendHold s t q cy l) :=
  onlyPlans_foldl (fun s o => onlyPlans_sendOne s t q cy o) l s

/-! ## Operations that a hold on its way may be put off by -/

/-- An operation stands in an agenda, a hold on its way perhaps at another tick. -/
def Survives (e : Sched) (l : List Sched) : Prop :=
  e ∈ l ∨ ∃ o p x n, e.act = .ev (.holdDelivery o p ⟨x, none⟩) ∧ { e with tick := n } ∈ l

/-- Every operation of an agenda survives in another. -/
def AgendaSurvives (s u : State) : Prop := ∀ e ∈ s.agenda, Survives e u.agenda

theorem AgendaSurvives.of_subset (h : s.agenda ⊆ u.agenda) : AgendaSurvives s u := fun _ he => .inl (h he)

theorem AgendaSurvives.trans (h : AgendaSurvives s u) (k : AgendaSurvives u v) : AgendaSurvives s v := by
  intro e he
  rcases h e he with h | ⟨o, p, x, n, ha, h⟩
  · exact k e h
  · rcases k _ h with h | ⟨_, _, _, m, _, h⟩
    · exact .inr ⟨o, p, x, n, ha, h⟩
    · exact .inr ⟨o, p, x, m, ha, h⟩

/-- What is planned stays planned. -/
theorem AgendaSurvives.act (h : AgendaSurvives s u) {e : Sched} (he : e ∈ s.agenda) : ∃ e' ∈ u.agenda, e'.act = e.act := by
  rcases h e he with h | ⟨_, _, _, _, _, h⟩
  · exact ⟨e, h, rfl⟩
  · exact ⟨_, h, rfl⟩

theorem agendaSurvives_foldl {α : Type} {f : State → α → State} (hf : ∀ s x, AgendaSurvives s (f s x)) (l : List α)
    (s : State) : AgendaSurvives s (l.foldl f s) := by
  induction l generalizing s with
  | nil => exact .of_subset fun _ => id
  | cons x l ih => exact (hf s x).trans (ih _)

/-- What `retime` makes of one operation. -/
def retimed (s : State) (t : TileId) (e : Sched) : Sched :=
  match e.act with
  | .ev (.holdDelivery o _ ⟨x, none⟩) => if o = t ∧ s.now t.claim < e.tick then { e with tick := tickAt s t x } else e
  | _ => e

theorem retime_agenda (s : State) (t : TileId) : (retime s t).agenda = s.agenda.map (retimed s t) := rfl

theorem retimed_cases (s : State) (t : TileId) (e : Sched) : retimed s t e = e ∨
    ∃ q x, e.act = .ev (.holdDelivery t q ⟨x, none⟩) ∧ s.now t.claim < e.tick ∧
      retimed s t e = { e with tick := tickAt s t x } := by
  unfold retimed
  split
  next o q x h =>
    split
    next hc =>
      obtain ⟨rfl, hn⟩ := hc
      exact .inr ⟨q, x, h, hn, rfl⟩
    next => exact .inl rfl
  next => exact .inl rfl

theorem retimed_act (s : State) (t : TileId) (e : Sched) : (retimed s t e).act = e.act := by
  obtain h | ⟨_, _, _, _, h⟩ := retimed_cases s t e <;> rw [h]

theorem retimed_phase (s : State) (t : TileId) (e : Sched) : (retimed s t e).phase = e.phase := by
  obtain h | ⟨_, _, _, _, h⟩ := retimed_cases s t e <;> rw [h]

theorem retimed_tick (s : State) (t : TileId) (e : Sched) {n : Nat} (he : n < e.tick) (ht : ∀ x, n < tickAt s t x) :
    n < (retimed s t e).tick := by
  obtain h | ⟨_, x, _, _, h⟩ := retimed_cases s t e <;> rw [h]
  · exact he
  · exact ht x

theorem retimed_of_ne (s : State) {e : Sched} {k x : Nat} (ha : e.act = .ev (.holdDelivery o k ⟨x, none⟩)) (h : t ≠ o) :
    retimed s t e = e := by
  simp [retimed, ha, Ne.symm h]

theorem mem_retime (t : TileId) {e : Sched} (he : e ∈ s.agenda) : retimed s t e ∈ (retime s t).agenda := List.mem_map_of_mem he

theorem mem_planEv (s : State) (c n p : Nat) (i : Event) :
    (⟨c, n, p, 0, s.now c, 8, none, none, 0, 0, .ev i⟩ : Sched) ∈ (s.planEv c n p i).agenda :=
  List.mem_append_right _ (List.mem_singleton_self _)

theorem agendaSurvives_retime (s : State) (t : TileId) : AgendaSurvives s (retime s t) := by
  intro e he
  have hm : retimed s t e ∈ (retime s t).agenda := List.mem_map_of_mem he
  obtain h | ⟨q, x, ha, -, h⟩ := retimed_cases s t e
  · exact .inl (h ▸ hm)
  · exact .inr ⟨t, q, x, _, ha, h ▸ hm⟩

theorem agendaSurvives_planEv (s : State) (c n p : Nat) (i : Event) : AgendaSurvives s (s.planEv c n p i) :=
  .of_subset (List.subset_append_left _ _)

theorem agendaSurvives_sendOne (s : State) (t : TileId) (q cy : Nat) (o : TileId) : AgendaSurvives s (sendOne s t q cy o) := by
  unfold sendOne
  dsimp only
  split
  · exact agendaSurvives_planEv s _ _ _ _
  · exact AgendaSurvives.trans (agendaSurvives_planEv s _ _ _ _) (agendaSurvives_retime _ o)

theorem agendaSurvives_sendHold (s : State) (t : TileId) (q cy : Nat) (l : List TileId) :
    AgendaSurvives s (sendHold s t q cy l) :=
  agendaSurvives_foldl (fun s o => agendaSurvives_sendOne s t q cy o) l s

@[simp] theorem holdOut_agenda (s : State) (t : TileId) (q cy : Nat) (p : Option Nat) :
    (holdOut s t q cy p).agenda = s.agenda := by
  unfold holdOut
  dsimp only
  split <;> rfl

theorem agendaSurvives_holdOut (s : State) (t : TileId) (q cy : Nat) (p : Option Nat) : AgendaSurvives s (holdOut s t q cy p) :=
  .of_subset (by rw [holdOut_agenda]; exact fun _ => id)

/-! ## Holds on their way -/

/-- The hold on its way to a tile that an operation is, if it is one. -/
def holdIn? (t : TileId) (e : Sched) : Option (Nat × Nat) :=
  match e.act with
  | .ev (.holdDelivery o q ⟨cycle, none⟩) => if o = t then some (q, cycle) else none
  | _ => none

theorem holdsTo_eq (s : State) (t : TileId) : holdsTo s t = (s.agenda.filterMap (holdIn? t)).foldl insertHold [] := rfl

theorem holdIn?_act {e f : Sched} (h : f.act = e.act) (t : TileId) : holdIn? t f = holdIn? t e := by
  simp only [holdIn?, h]

theorem holdsTo_congr (h : u.agenda = s.agenda) (t : TileId) : holdsTo u t = holdsTo s t := by rw [holdsTo_eq, holdsTo_eq, h]

@[simp] theorem holdsTo_retime (s : State) (t o : TileId) : holdsTo (retime s t) o = holdsTo s o := by
  simp only [holdsTo_eq, retime_agenda, List.filterMap_map]
  congr 2
  funext e
  exact holdIn?_act (retimed_act s t e) o

theorem holdsTo_planEv_ne (s : State) (c n p q x : Nat) (h : o ≠ t) :
    holdsTo (s.planEv c n p (.holdDelivery o q ⟨x, none⟩)) t = holdsTo s t := by
  simp [holdsTo_eq, State.planEv, State.plan, List.filterMap_append, holdIn?, h]

theorem holdsTo_sendOne_ne (s : State) (q cy : Nat) {w : TileId} (h : o ≠ w) :
    holdsTo (sendOne s t q cy o) w = holdsTo s w := by
  unfold sendOne
  dsimp only
  split <;> simp only [holdsTo_retime, holdsTo_planEv_ne _ _ _ _ _ _ h]

theorem insertHold_ne_nil (l : List (Nat × Nat)) (h : Nat × Nat) : insertHold l h ≠ [] := by
  cases l with
  | nil => simp [insertHold]
  | cons x l =>
    unfold insertHold
    split <;> simp

theorem foldl_insertHold_eq_nil {l acc : List (Nat × Nat)} (h : l.foldl insertHold acc = []) : l = [] ∧ acc = [] := by
  induction l generalizing acc with
  | nil => exact ⟨rfl, h⟩
  | cons x l ih => exact absurd (ih h).2 (insertHold_ne_nil _ _)

/-- With no hold on its way to a tile there is nothing to put off. -/
theorem retime_of_holdsTo_nil (h : holdsTo s t = []) : retime s t = s := by
  have hid : s.agenda.map (retimed s t) = s.agenda := by
    refine (List.map_congr_left fun e he => ?_).trans (List.map_id _)
    obtain h' | ⟨q, x, ha, -, -⟩ := retimed_cases s t e
    · exact h'
    · have hn := List.filterMap_eq_nil_iff.1 (foldl_insertHold_eq_nil (holdsTo_eq s t ▸ h)).1 e he
      simp [holdIn?, ha] at hn
  exact congrArg (fun a => { s with agenda := a }) hid

/-! ## Where a tile stands -/

/-- Two states agree in where their tiles stand: in their counts' stops, the claims, the holds on their way and the links. -/
structure SameStanding (s u : State) : Prop where
  claims : u.claims = s.claims
  lh : u.lh = s.lh
  lp : u.lp = s.lp
  peerLambda : u.peerLambda = s.peerLambda
  holdsTo : ∀ t, holdsTo u t = holdsTo s t
  delay : ∀ t, (u.tileOf t).delay = (s.tileOf t).delay
  stopFrom : ∀ t, (u.tileOf t).stopFrom = (s.tileOf t).stopFrom
  stopUntil : ∀ t, (u.tileOf t).stopUntil = (s.tileOf t).stopUntil

theorem SameStanding.stood (h : SameStanding s u) (t : TileId) (w : Nat) : Machine.stood u t w = Machine.stood s t w := by
  simp only [Machine.stood, h.holdsTo, h.delay, h.stopFrom, h.stopUntil]

theorem SameStanding.claimOf (h : SameStanding s u) (k : Nat) : u.claimOf k = s.claimOf k := claimOf_congr h.claims k

theorem SameStanding.across (h : SameStanding s u) (t : TileId) (d : Side) : Machine.across u t d = Machine.across s t d := by
  simp only [Machine.across, h.claimOf]

theorem SameStanding.lambda (h : SameStanding s u) (t : TileId) (w : Nat) : Machine.lambda u t w = Machine.lambda s t w := by
  funext a
  cases a <;> simp only [Machine.lambda, h.stood, h.peerLambda]

theorem SameStanding.lambdaAfter (h : SameStanding s u) (t : TileId) (w f : Nat) :
    Machine.lambdaAfter u t w f = Machine.lambdaAfter s t w f := by
  funext a
  cases a <;> simp only [Machine.lambdaAfter, h.lambda]

theorem SameStanding.lagAt (h : SameStanding s u) (t : TileId) (w : Nat) : Machine.lagAt u t w = Machine.lagAt s t w := by
  simp only [Machine.lagAt, Machine.lagTo, h.across, h.lambdaAfter]

theorem SameStanding.driftSlack (h : SameStanding s u) : Machine.driftSlack u = Machine.driftSlack s := by
  funext a
  cases a <;> simp only [Machine.driftSlack, Machine.usableSlack, h.lh, h.lp]

theorem SameStanding.highAt (h : SameStanding s u) (t : TileId) (w f : Nat) : Machine.highAt u t w f = Machine.highAt s t w f := by
  simp only [Machine.highAt, h.across, h.lambdaAfter, h.driftSlack]

/-- A tile's entry changes, but not where the tile stands. -/
theorem sameStanding_setTile {x : Tile} (hd : x.delay = (s.tileOf t).delay) (hf : x.stopFrom = (s.tileOf t).stopFrom)
    (hu : x.stopUntil = (s.tileOf t).stopUntil) : SameStanding s (s.setTile t x) where
  claims := rfl
  lh := rfl
  lp := rfl
  peerLambda := rfl
  holdsTo := fun _ => rfl
  delay o := by
    by_cases h : o = t
    · subst h; simp [hd]
    · rw [tileOf_setTile_ne _ _ _ _ h]
  stopFrom o := by
    by_cases h : o = t
    · subst h; simp [hf]
    · rw [tileOf_setTile_ne _ _ _ _ h]
  stopUntil o := by
    by_cases h : o = t
    · subst h; simp [hu]
    · rw [tileOf_setTile_ne _ _ _ _ h]

/-- A tile none of whose cycles stood still, with no hold on its way, stands with its claim. -/
theorem stood_eq_zero (hd : (s.tileOf t).delay = 0) (hs : (s.tileOf t).stopUntil ≤ (s.tileOf t).stopFrom)
    (hh : holdsTo s t = []) (w : Nat) : stood s t w = 0 := by
  simp only [stood, hh, hd, List.foldl_nil, beyond]
  omega

/-! ## What a hold sent plans -/

theorem tickAt_congr (hc : s.claims = u.claims) (ht : ∀ o, (u.tileOf o) = s.tileOf o) (hh : holdsTo u o = holdsTo s o) (x : Nat) :
    tickAt u o x = tickAt s o x := by
  simp only [tickAt, stood, State.now, claimOf_congr hc, ht, hh]

theorem tickAt_gt (s : State) (t : TileId) (x : Nat) : s.now t.claim < tickAt s t x := by
  unfold tickAt
  omega

/-- The hold that a tile receives is on its way, at the tick of its cycle where no other hold is. -/
theorem sendOne_entry (s : State) (t : TileId) (q cy : Nat) (o : TileId) :
    ∃ e ∈ (sendOne s t q cy o).agenda, s.now o.claim < e.tick ∧ e.phase = phWire ∧
      e.act = .ev (.holdDelivery o q ⟨cy + holdDistance (s.claimOf t.claim) t o, none⟩) ∧
      (holdsTo s o = [] → e.tick = tickAt s o (cy + holdDistance (s.claimOf t.claim) t o)) := by
  unfold sendOne
  dsimp only
  generalize cy + holdDistance (s.claimOf t.claim) t o = x
  split
  next h =>
    exact ⟨_, List.mem_append_right _ (List.mem_singleton_self _), tickAt_gt s o x, rfl, rfl, fun _ => rfl⟩
  next h =>
    have hm := mem_retime o (mem_planEv s t.claim (tickAt s o x) phWire (.holdDelivery o q ⟨x, none⟩))
    refine ⟨_, hm, ?_, ?_, retimed_act _ _ _, fun hn => absurd (by rw [hn]; rfl) h⟩
    · refine retimed_tick _ _ _ (tickAt_gt s o x) fun y => ?_
      exact tickAt_gt (s.planEv t.claim (tickAt s o x) phWire (.holdDelivery o q ⟨x, none⟩)) o y
    · exact retimed_phase _ _ _

/-- A hold to one tile leaves those to other tiles where they are. -/
theorem mem_sendOne_of_ne {e : Sched} {w : TileId} {k x : Nat} (he : e ∈ s.agenda)
    (ha : e.act = .ev (.holdDelivery w k ⟨x, none⟩)) (h : o ≠ w) (q cy : Nat) : e ∈ (sendOne s t q cy o).agenda := by
  unfold sendOne
  dsimp only
  split
  · exact List.mem_append_left _ he
  · have hm := mem_retime (s := s.planEv t.claim (tickAt s o (cy + holdDistance (s.claimOf t.claim) t o)) phWire
      (.holdDelivery o q ⟨cy + holdDistance (s.claimOf t.claim) t o, none⟩)) o (List.mem_append_left _ he)
    rwa [retimed_of_ne _ ha h] at hm

theorem mem_sendHold_of_notMem {e : Sched} {w : TileId} {k x : Nat} {l : List TileId} (he : e ∈ s.agenda)
    (ha : e.act = .ev (.holdDelivery w k ⟨x, none⟩)) (h : w ∉ l) (q cy : Nat) : e ∈ (sendHold s t q cy l).agenda := by
  induction l generalizing s with
  | nil => exact he
  | cons o l ih =>
    obtain ⟨ho, hl⟩ : w ≠ o ∧ w ∉ l := by simpa using h
    exact ih (mem_sendOne_of_ne he ha (Ne.symm ho) q cy) hl

/-- A hold sent to some tiles is on its way to each of them. -/
theorem sendHold_entry (t : TileId) (q cy : Nat) {l : List TileId} (hl : l.Nodup) (ho : o ∈ l) (s : State) :
    ∃ e ∈ (sendHold s t q cy l).agenda, s.now o.claim < e.tick ∧ e.phase = phWire ∧
      e.act = .ev (.holdDelivery o q ⟨cy + holdDistance (s.claimOf t.claim) t o, none⟩) ∧
      (holdsTo s o = [] → e.tick = tickAt s o (cy + holdDistance (s.claimOf t.claim) t o)) := by
  induction l generalizing s with
  | nil => exact absurd ho List.not_mem_nil
  | cons w l ih =>
    obtain ⟨hw, hl⟩ := List.nodup_cons.1 hl
    rw [sendHold_cons]
    rcases List.mem_cons.1 ho with rfl | ho
    · obtain ⟨e, he, hn, hp, ha, ht⟩ := sendOne_entry s t q cy o
      exact ⟨e, mem_sendHold_of_notMem he ha hw q cy, hn, hp, ha, ht⟩
    · have hne : w ≠ o := fun h => hw (h ▸ ho)
      have hs := onlyPlans_sendOne s t q cy w
      have hh := holdsTo_sendOne_ne (t := t) s q cy hne
      obtain ⟨e, he, hn, hp, ha, ht⟩ := ih hl ho (sendOne s t q cy w)
      rw [hs.now] at hn
      rw [hs.claimOf] at ha ht
      rw [hh, tickAt_congr hs.claims.symm hs.tileOf hh] at ht
      exact ⟨e, he, hn, hp, ha, ht⟩

/-! ## The tiles of a claim -/

theorem mem_claimTiles {c : Claim} {cl x y : Nat} (hx : x < 12 * c.fw) (hy : y < 12 * c.fh) :
    (⟨cl, x, y⟩ : TileId) ∈ claimTiles c cl :=
  List.mem_flatten.2 ⟨_, List.mem_map.2 ⟨y, List.mem_range.2 hy, rfl⟩, List.mem_map.2 ⟨x, List.mem_range.2 hx, rfl⟩⟩

theorem nodup_claimTiles (c : Claim) (cl : Nat) : (claimTiles c cl).Nodup := by
  refine List.nodup_flatten.2 ⟨fun l hl => ?_, ?_⟩
  · obtain ⟨y, -, rfl⟩ := List.mem_map.1 hl
    exact List.nodup_range.map fun a b h => congrArg TileId.x h
  · refine List.pairwise_map.2 (List.nodup_range.imp fun {a b} hab => ?_)
    intro i hi hj
    obtain ⟨_, -, rfl⟩ := List.mem_map.1 hi
    obtain ⟨_, -, h⟩ := List.mem_map.1 hj
    exact hab (congrArg TileId.y h).symm

theorem nodup_otherTiles (c : Claim) (t : TileId) : ((claimTiles c t.claim).filter fun o => o != t).Nodup :=
  (nodup_claimTiles c t.claim).filter _

theorem mem_otherTiles {c : Claim} {t : TileId} {x y : Nat} (hx : x < 12 * c.fw) (hy : y < 12 * c.fh)
    (h : (⟨t.claim, x, y⟩ : TileId) ≠ t) : (⟨t.claim, x, y⟩ : TileId) ∈ (claimTiles c t.claim).filter fun o => o != t :=
  List.mem_filter.2 ⟨mem_claimTiles hx hy, by simpa using h⟩

/-- Two tiles of a claim are at least one cycle apart. -/
theorem holdDistance_pos (c : Claim) {a b : TileId} (hc : b.claim = a.claim) (h : b ≠ a) : 1 ≤ holdDistance c a b := by
  have : 1 ≤ hops a b := by
    by_contra hz
    refine h ?_
    obtain ⟨ca, xa, ya⟩ := a
    obtain ⟨cb, xb, yb⟩ := b
    simp only [hops, dist] at hz hc ⊢
    simp only [TileId.mk.injEq]
    omega
  unfold holdDistance
  dsimp only
  omega

theorem toNat_satInc (x : BitVec 16) : (satInc x).toNat = min 0xFFFF (x.toNat + 1) := by
  unfold satInc
  split
  next h => subst h; rfl
  next h =>
    bv_omega

end Holds
end Sys2Proof.Machine

namespace Sys2Proof.Machine

/-! # Lag: what raising a hold, standing still and looking at the lag change -/

section Lag
open State
variable {s u v : State} {t o : TileId}

/-! ## Changes of one tile -/

/-- Only one tile's entry and what is planned change. -/
structure TileFrame (s u : State) (t : TileId) : Prop where
  tileOf_ne : ∀ o ≠ t, u.tileOf o = s.tileOf o
  claims : u.claims = s.claims
  cores : u.cores = s.cores
  far : u.far = s.far
  todo : u.todo = s.todo

theorem TileFrame.trans (h : TileFrame s u t) (k : TileFrame u v t) : TileFrame s v t where
  tileOf_ne o ho := (k.tileOf_ne o ho).trans (h.tileOf_ne o ho)
  claims := k.claims.trans h.claims
  cores := k.cores.trans h.cores
  far := k.far.trans h.far
  todo := k.todo.trans h.todo

theorem OnlyPlans.tileFrame (h : OnlyPlans s u) (t : TileId) : TileFrame s u t :=
  ⟨fun o _ => h.tileOf o, h.claims, h.cores, h.far, h.todo⟩

theorem tileFrame_modTile (s : State) (t : TileId) (f : Tile → Tile) : TileFrame s (s.modTile t f) t :=
  ⟨fun o ho => tileOf_modTile_ne s t o f ho, rfl, rfl, rfl, rfl⟩

theorem TileFrame.coreOf (h : TileFrame s u t) (i : StrandId) : u.coreOf i = s.coreOf i := coreOf_congr h.cores i

theorem TileFrame.claimOf (h : TileFrame s u t) (k : Nat) : u.claimOf k = s.claimOf k := claimOf_congr h.claims k

theorem TileFrame.now (h : TileFrame s u t) (k : Nat) : u.now k = s.now k := congrArg Claim.tick (h.claimOf k)

theorem TileFrame.bytesKept (h : TileFrame s u t) (hs : SameStore (s.tileOf t) (u.tileOf t)) : BytesKept s u :=
  .of_store (fun o => by
    by_cases ho : o = t
    · subst ho; exact hs
    · rw [h.tileOf_ne o ho]; exact ⟨rfl, rfl, rfl⟩) h.far

/-! ## Peaks and holds -/

/-- A tile's counters of its lag change. -/
def LagCounted (x y : Tile) : Prop := ∃ h p l, y = { x with holds := h, peak := p, lagHigh := l }

theorem LagCounted.trans {x y z : Tile} (h : LagCounted x y) (k : LagCounted y z) : LagCounted x z := by
  obtain ⟨_, _, _, rfl⟩ := h
  obtain ⟨a, b, c, rfl⟩ := k
  exact ⟨a, b, c, rfl⟩

theorem LagCounted.refl (x : Tile) : LagCounted x x := ⟨_, _, _, rfl⟩

/-- A tile counts a hold that it raises. -/
def countsHold (s : State) (t : TileId) : State :=
  modDocent (s.modTile t fun x => { x with holds := satInc x.holds }) t fun d => { d with holds := d.holds + 1 }

theorem raiseHoldAt_eq (s : State) (t : TileId) (q cy : Nat) : raiseHoldAt s t q cy =
    holdOut (sendHold (countsHold s t) t q cy ((claimTiles ((countsHold s t).claimOf t.claim) t.claim).filter fun o => o != t))
      t q cy none := rfl

theorem onlyPlans_raiseHoldAt (s : State) (t : TileId) (q cy : Nat) :
    OnlyPlans (s.modTile t fun x => { x with holds := satInc x.holds }) (raiseHoldAt s t q cy) :=
  (onlyPlans_modDocent _ _ _).trans ((onlyPlans_sendHold _ _ _ _ _).trans (onlyPlans_holdOut _ _ _ _ _))

theorem tileFrame_raiseHoldAt (s : State) (t : TileId) (q cy : Nat) : TileFrame s (raiseHoldAt s t q cy) t :=
  (tileFrame_modTile s t _).trans ((onlyPlans_raiseHoldAt s t q cy).tileFrame t)

theorem tileOf_raiseHoldAt (s : State) (t : TileId) (q cy : Nat) :
    (raiseHoldAt s t q cy).tileOf t = { s.tileOf t with holds := satInc (s.tileOf t).holds } :=
  ((onlyPlans_raiseHoldAt s t q cy).tileOf t).trans (tileOf_modTile _ _ _)

theorem agendaSurvives_raiseHoldAt (s : State) (t : TileId) (q cy : Nat) : AgendaSurvives s (raiseHoldAt s t q cy) := by
  rw [raiseHoldAt_eq]
  have h : AgendaSurvives s (countsHold s t) := .of_subset fun _ => id
  exact h.trans ((agendaSurvives_sendHold _ t q cy _).trans (agendaSurvives_holdOut _ t q cy none))

/-- The largest lag that a tile showed at some cycles. -/
def topLag (s : State) (t : TileId) (ws : List Nat) : Nat := (ws.map (lagAt s t)).foldl max 0

theorem tileOf_notePeak (s : State) (t : TileId) (ws : List Nat) : (notePeak s t ws).tileOf t =
    { s.tileOf t with peak := BitVec.ofNat 16 (max (s.tileOf t).peak.toNat (min (topLag s t ws) 0xFFFF)) } :=
  tileOf_modTile _ _ _

theorem tileFrame_notePeak (s : State) (t : TileId) (ws : List Nat) : TileFrame s (notePeak s t ws) t := by
  unfold notePeak
  exact tileFrame_modTile s t _

theorem sameStanding_notePeak (s : State) (t : TileId) (ws : List Nat) : SameStanding s (notePeak s t ws) :=
  sameStanding_setTile rfl rfl rfl

theorem le_foldl_max {l : List Nat} {a : Nat} (x : Nat) (h : a ≤ x ∨ a ∈ l) : a ≤ l.foldl max x := by
  induction l generalizing x with
  | nil => simpa using h
  | cons b l ih =>
    refine ih _ ?_
    rcases h with h | h
    · exact .inl (h.trans (le_max_left _ _))
    · rcases List.mem_cons.1 h with rfl | h
      · exact .inl (le_max_right _ _)
      · exact .inr h

theorem lagAt_le_topLag {ws : List Nat} {w : Nat} (h : w ∈ ws) : lagAt s t w ≤ topLag s t ws :=
  le_foldl_max 0 (.inr (List.mem_map_of_mem h))

theorem lagAt_le_peak_notePeak {ws : List Nat} {w : Nat} (h : w ∈ ws) :
    min (lagAt s t w) 0xFFFF ≤ ((notePeak s t ws).tileOf t).peak.toNat := by
  have hl := lagAt_le_topLag (s := s) (t := t) h
  have hp := (s.tileOf t).peak.isLt
  rw [tileOf_notePeak]
  simp only [BitVec.toNat_ofNat]
  omega

/-! ## A stop seen -/

/-- Where a tile's lag is high already, or no cycle of a stop makes it so, only its peak changes. -/
theorem seeStop_quiet {ws : List Nat} (h : (s.tileOf t).lagHigh = true ∨ ∀ w ∈ ws, highAt s t w 0 = false) :
    seeStop s t ws = notePeak s t ws := by
  have hs := sameStanding_notePeak s t ws
  have hnone : (if ((notePeak s t ws).tileOf t).lagHigh then none
      else ws.find? fun w => highAt (notePeak s t ws) t w 0) = none := by
    rw [tileOf_notePeak]
    dsimp only
    split
    · rfl
    next hl =>
      have h := h.resolve_left (by simpa using hl)
      exact List.find?_eq_none.2 fun w hw => by rw [hs.highAt, h w hw]; simp
  unfold seeStop
  dsimp only
  rw [hnone]

/-- Where a cycle of a stop makes a tile's lag high, the tile raises a hold. -/
theorem seeStop_raises {ws : List Nat} {w : Nat} (hl : (s.tileOf t).lagHigh = false) (hw : w ∈ ws)
    (hh : highAt s t w 0 = true) : ∃ q k, seeStop s t ws =
      (raiseHoldAt (notePeak s t ws) t q k).modTile t fun x => { x with lagHigh := true } := by
  have hs := sameStanding_notePeak s t ws
  obtain ⟨k, hk⟩ : ∃ k, (if ((notePeak s t ws).tileOf t).lagHigh then none
      else ws.find? fun w => highAt (notePeak s t ws) t w 0) = some k := by
    rw [tileOf_notePeak]
    dsimp only
    rw [hl, if_neg Bool.false_ne_true, ← Option.isSome_iff_exists, List.find?_isSome]
    exact ⟨w, hw, by rw [hs.highAt, hh]⟩
  unfold seeStop
  dsimp only
  rw [hk]
  exact ⟨_, _, rfl⟩

/-- What is seen of a stop changes a tile's counters of its lag and raises its peak to its lag. -/
structure SeesStop (s u : State) (t : TileId) (ws : List Nat) : Prop where
  frame : TileFrame s u t
  counted : LagCounted (s.tileOf t) (u.tileOf t)
  peak : ∀ w ∈ ws, min (lagAt s t w) 0xFFFF ≤ (u.tileOf t).peak.toNat
  agenda : AgendaSurvives s u

theorem seesStop_notePeak (s : State) (t : TileId) (ws : List Nat) : SeesStop s (notePeak s t ws) t ws where
  frame := tileFrame_notePeak s t ws
  counted := ⟨_, _, _, tileOf_notePeak s t ws⟩
  peak _ hw := lagAt_le_peak_notePeak hw
  agenda := .of_subset fun _ => id

theorem tileOf_raised (s : State) (t : TileId) (q k : Nat) :
    ((raiseHoldAt s t q k).modTile t fun x => { x with lagHigh := true }).tileOf t =
      { s.tileOf t with holds := satInc (s.tileOf t).holds, lagHigh := true } := by
  rw [tileOf_modTile, tileOf_raiseHoldAt]

theorem seesStop_seeStop (s : State) (t : TileId) (ws : List Nat) : SeesStop s (seeStop s t ws) t ws := by
  by_cases h : (s.tileOf t).lagHigh = true ∨ ∀ w ∈ ws, highAt s t w 0 = false
  · rw [seeStop_quiet h]
    exact seesStop_notePeak s t ws
  · obtain ⟨hl, w, hw, hh⟩ : (s.tileOf t).lagHigh = false ∧ ∃ w ∈ ws, highAt s t w 0 = true := by simpa using h
    obtain ⟨q, k, hu⟩ := seeStop_raises hl hw hh
    have hn := seesStop_notePeak s t ws
    have ht := tileOf_raised (notePeak s t ws) t q k
    rw [hu]
    refine ⟨(hn.frame.trans (tileFrame_raiseHoldAt _ _ _ _)).trans (tileFrame_modTile _ _ _), ?_, ?_, ?_⟩
    · exact hn.counted.trans ⟨_, _, _, ht⟩
    · intro w hw
      rw [ht]
      exact hn.peak w hw
    · exact AgendaSurvives.trans (agendaSurvives_raiseHoldAt (notePeak s t ws) t q k) (.of_subset fun _ => id)

/-! ## A freeze or a stretch -/

/-- A tile stood still for some cycles: besides its counters of its lag, only its stops change. -/
def StoodFor (x y : Tile) (f : Nat) : Prop :=
  ∃ h p l a b, y = { x with holds := h, peak := p, lagHigh := l, stopFrom := a, stopUntil := b, delay := x.delay + f }

theorem tileFrame_addLag (s : State) (t : TileId) (f : Nat) :
    TileFrame s (addLag s t f) t ∧ StoodFor (s.tileOf t) ((addLag s t f).tileOf t) f := by
  unfold addLag
  split
  next h =>
    subst h
    refine ⟨⟨fun _ _ => rfl, rfl, rfl, rfl, rfl⟩, (s.tileOf t).holds, (s.tileOf t).peak, (s.tileOf t).lagHigh,
      (s.tileOf t).stopFrom, (s.tileOf t).stopUntil, ?_⟩
    rw [Nat.cast_zero, Int.add_zero]
  next h =>
    dsimp only
    generalize hr : (if highAt s t (cycleOf s t) f = true then
      (raiseHold s t (lagTo s t (cycleOf s t) f)).modTile t fun x => { x with lagHigh := true } else s) = r
    obtain ⟨hf, x, p, l, hx⟩ : TileFrame s r t ∧ LagCounted (s.tileOf t) (r.tileOf t) := by
      subst hr
      split
      · exact ⟨(tileFrame_raiseHoldAt _ _ _ _).trans (tileFrame_modTile _ _ _), _, _, _, tileOf_raised s t _ _⟩
      · exact ⟨⟨fun _ _ => rfl, rfl, rfl, rfl, rfl⟩, .refl _⟩
    have hp := onlyPlans_retime (r.modTile t fun x => x.stand (cycleOf s t + 1) f) t
    refine ⟨((hf.trans (tileFrame_modTile _ _ _)).trans (hp.tileFrame t)).trans (tileFrame_notePeak _ _ _), ?_⟩
    rw [tileOf_notePeak, hp.tileOf, tileOf_modTile, hx]
    exact ⟨_, _, _, _, _, rfl⟩

theorem StoodFor.sameStore {x y : Tile} {f : Nat} (h : StoodFor x y f) : SameStore x y := by
  obtain ⟨_, _, _, _, _, rfl⟩ := h
  exact ⟨rfl, rfl, rfl⟩

theorem LagCounted.sameStore {x y : Tile} (h : LagCounted x y) : SameStore x y := by
  obtain ⟨_, _, _, rfl⟩ := h
  exact ⟨rfl, rfl, rfl⟩

theorem SameStore.trans {x y z : Tile} (h : SameStore x y) (k : SameStore y z) : SameStore x z :=
  ⟨k.1.trans h.1, k.2.1.trans h.2.1, k.2.2.trans h.2.2⟩

end Lag
end Sys2Proof.Machine

namespace Sys2Proof.Machine

/-! # Counts, holds and trims: each event of R260 to R290 -/

section Clauses
open State
variable {s : State} {t : TileId}

/-! ## Where the instructions and events have their meaning -/

theorem exec_tkalign_eq (s : State) : exec .tkalign s = execTkalign s := rfl
theorem exec_tkhold_eq (dt : BitVec 18) (s : State) : exec (.tkhold dt) s = execTkhold dt s := rfl
theorem exec_waferTrimUpdate_eq (links : List (Nat × Int)) (s : State) :
    exec (.waferTrimUpdate links) s = execWaferTrimUpdate links s := rfl
theorem exec_throttle_eq (cut : Throttle) (s : State) : exec (.throttle cut) s = execThrottle cut s := rfl
theorem exec_railChange_eq (field : Nat) (place : Place) (high : Bool) (s : State) :
    exec (.railChange field place high) s = execRailChange field place high s := rfl

/-! ## Alignment and holds as instructions (R289, R290) -/

theorem exec_tkalign_span (h : s.me.span = true) : exec .tkalign s = .next (s.fault .e 0x74) := by
  simp [exec_tkalign_eq, execTkalign, alwaysC, firstFault_cons, h, State.checked]

theorem exec_tkalign_pending (h : s.me.span = false) (hp : s.myTile.pend ≠ none) : exec .tkalign s = .next s := by
  obtain ⟨n, hn⟩ := Option.ne_none_iff_exists'.1 hp
  simp [exec_tkalign_eq, execTkalign, alwaysC, firstFault_cons, h, State.checked, hn]

theorem exec_tkalign (h : s.me.span = false) (hp : s.myTile.pend = none) : exec .tkalign s =
    .next ((s.modTile s.focus.tile fun t => { t with pend := some (s.t + 1) }).planEv s.focus.tile.claim
        (s.t + (s.wheel - s.wheelPos s.focus.tile)) phRun (.alignment s.focus.tile)) := by
  simp [exec_tkalign_eq, execTkalign, alwaysC, firstFault_cons, h, State.checked, hp]

theorem exec_tkhold_span (dt : BitVec 18) (h : s.me.span = true) : exec (.tkhold dt) s = .next (s.fault .e 0x74) := by
  simp [exec_tkhold_eq, execTkhold, alwaysC, firstFault_cons, h, State.checked]

theorem exec_tkhold (dt : BitVec 18) (h : s.me.span = false) : exec (.tkhold dt) s = .next (s.land .e 1 (.hold dt.toNat)) := by
  simp [exec_tkhold_eq, execTkhold, alwaysC, firstFault_cons, h, State.checked]

/-- The first alignment that is asked for is planned at the tile's next wheel boundary. -/
theorem tkalign_plans (h : s.me.span = false) (hp : s.myTile.pend = none) (hw : s.wheelPos s.focus.tile < s.wheel) :
    ∃ u e, exec .tkalign s = .next u ∧ (u.tileOf s.focus.tile).pend = some (s.t + 1) ∧ u.agenda = s.agenda ++ [e] ∧
      e.act = .ev (.alignment s.focus.tile) ∧ s.t < e.tick ∧ e.tick ≤ s.t + s.wheel ∧
      (s.wheelPos s.focus.tile + (e.tick - s.t)) % s.wheel = 0 ∧ (∀ st, u.coreOf st = s.coreOf st) ∧ BytesKept s u := by
  rw [exec_tkalign h hp]
  refine ⟨_, _, rfl, ?_, rfl, rfl, ?_, ?_, ?_, fun _ => rfl, ?_⟩
  · simp
  · dsimp only; omega
  · dsimp only; omega
  · dsimp only
    rw [show s.wheelPos s.focus.tile + (s.t + (s.wheel - s.wheelPos s.focus.tile) - s.t) = s.wheel by omega, Nat.mod_self]
  · refine BytesKept.trans (bytesKept_setTile ?_) (bytesKept_planEv _ _ _ _ _)
    exact ⟨rfl, rfl, rfl⟩

/-! ## A hold raised (R264) -/

/-- A tile that has stood still in no cycle, and to which no hold is on its way, takes a hold at the tick of its cycle. -/
theorem tickAt_of_level {o : TileId} (d : Nat) (hd : 1 ≤ d) (hc : t.claim = o.claim)
    (ho : ∀ p ∈ s.tiles, p.1.claim = o.claim → p.2.delay = 0 ∧ p.2.stopUntil ≤ p.2.stopFrom) (hh : holdsTo s o = [])
    (hs : (s.claimOf o.claim).start ≤ (s.claimOf o.claim).tick) : tickAt s o (cycleOf s t + d) = (s.claimOf o.claim).tick + d := by
  have level : ∀ i : TileId, i.claim = o.claim → (s.tileOf i).delay = 0 ∧ (s.tileOf i).stopUntil ≤ (s.tileOf i).stopFrom :=
    fun i hi => tileOf_cases (P := fun x => x.delay = 0 ∧ x.stopUntil ≤ x.stopFrom) s i (fun _ _ => ⟨rfl, Nat.le_refl _⟩)
      fun p hp he => ho p hp (he ▸ hi)
  obtain ⟨hdo, hso⟩ := level o rfl
  obtain ⟨hdt, -⟩ := level t hc
  simp only [tickAt, stood_eq_zero hdo hso hh, cycleOf, hdt, State.now, hc]
  omega

theorem holdsTo_countsHold (s : State) (t o : TileId) : holdsTo (countsHold s t) o = holdsTo s o := rfl

theorem tickAt_countsHold (s : State) (t o : TileId) (x : Nat) : tickAt (countsHold s t) o x = tickAt s o x := by
  have h : SameStanding s (countsHold s t) :=
    { sameStanding_setTile (s := s) (t := t) (x := { s.tileOf t with holds := satInc (s.tileOf t).holds }) rfl rfl rfl with }
  have hs := h.stood o
  simp only [tickAt, State.now, h.claimOf, hs]

/-- A hold that a tile raises is on its way to every other tile of its claim. -/
theorem raiseHoldAt_entry {x y : Nat} (q cy : Nat) (hx : x < 12 * (s.claimOf t.claim).fw) (hy : y < 12 * (s.claimOf t.claim).fh)
    (ho : (⟨t.claim, x, y⟩ : TileId) ≠ t) : ∃ e ∈ (raiseHoldAt s t q cy).agenda,
      s.now t.claim < e.tick ∧ e.phase = phWire ∧
      e.act = .ev (.holdDelivery ⟨t.claim, x, y⟩ q ⟨cy + holdDistance (s.claimOf t.claim) t ⟨t.claim, x, y⟩, none⟩) ∧
      (holdsTo s ⟨t.claim, x, y⟩ = [] →
        e.tick = tickAt s ⟨t.claim, x, y⟩ (cy + holdDistance (s.claimOf t.claim) t ⟨t.claim, x, y⟩)) := by
  obtain ⟨e, he, hn, hp, ha, ht⟩ := sendHold_entry t q cy (nodup_otherTiles ((countsHold s t).claimOf t.claim) t)
    (mem_otherTiles hx hy ho) (countsHold s t)
  rw [raiseHoldAt_eq, holdOut_agenda]
  rw [holdsTo_countsHold, tickAt_countsHold] at ht
  exact ⟨e, he, hn, hp, ha, ht⟩

theorem bytesKept_raiseHoldAt (s : State) (t : TileId) (q cy : Nat) : BytesKept s (raiseHoldAt s t q cy) :=
  (tileFrame_raiseHoldAt s t q cy).bytesKept (by rw [tileOf_raiseHoldAt]; exact ⟨rfl, rfl, rfl⟩)

/-! ## Droops, rails, throttles and upsets (R38, R261, R262, R268) -/

theorem switching_eq (s : State) (c : Controller) : switching s c = (s.ctlOf c).switching := rfl

theorem voltageDroop_spends (s : State) (t : TileId) (part : Nat) : ∃ u, exec (.voltageDroop t part) s = .next u ∧
    1000 * (u.tileOf t).delay + (u.tileOf t).droop = 1000 * (s.tileOf t).delay + (s.tileOf t).droop + part ∧
    (u.tileOf t).droop < 1000 ∧ (∀ st, u.coreOf st = s.coreOf st) ∧ BytesKept s u := by
  refine ⟨_, rfl, ?_⟩
  unfold droopStretch
  dsimp only
  generalize hd : (s.tileOf t).droop + part = d
  generalize hr : modDocent (s.modTile t fun x => { x with droop := d % 1000, gained := x.gained - (d / 1000 : Nat) }) t
    (fun x => { x with droops := x.droops + 1 }) = r
  have hx : r.tileOf t = { s.tileOf t with droop := d % 1000, gained := (s.tileOf t).gained - (d / 1000 : Nat) } := by
    subst hr
    exact ((onlyPlans_modDocent _ t _).tileOf t).trans (tileOf_modTile s t _)
  have hf : TileFrame s r t := by
    subst hr
    exact (tileFrame_modTile s t _).trans ((onlyPlans_modDocent _ _ _).tileFrame t)
  obtain ⟨hg, h, p, l, a, b, hu⟩ := tileFrame_addLag r t (d / 1000)
  rw [hx] at hu
  refine ⟨?_, ?_, (hf.trans hg).coreOf, (hf.trans hg).bytesKept (by rw [hu]; exact ⟨rfl, rfl, rfl⟩)⟩
  · rw [hu]
    dsimp only
    omega
  · rw [hu]
    exact Nat.mod_lt _ (by decide)

theorem railChange_moves (s : State) (field row col : Nat) (high : Bool) : ∃ l,
    railChange s field row col high = { s with lowRail := l } ∧
    (∀ p, p ≠ (field, row, col) → (p ∈ l ↔ p ∈ s.lowRail)) ∧ (high = true → (field, row, col) ∉ l) ∧
    (high = false → tileClaimed s field row col = false → (field, row, col) ∈ l) ∧
    (high = false → tileClaimed s field row col = true → l = s.lowRail) := by
  unfold railChange
  dsimp only
  cases high
  case true => exact ⟨_, if_pos rfl, fun p hp => by simp [List.mem_filter, hp], by simp, by simp, by simp⟩
  case false =>
    rw [if_neg Bool.false_ne_true]
    cases tileClaimed s field row col
    case true => exact ⟨_, if_pos rfl, by simp, by simp, by simp, by simp⟩
    case false =>
      exact ⟨_, if_neg Bool.false_ne_true, fun p hp => by simp [List.mem_filter, hp], by simp, by simp, by simp⟩

theorem countUpset_moves (t : TileId) (d : BitVec 64) (s : State) : ∃ u, exec (.countUpset t d) s = .next u ∧
    u.countOf t = s.countOf t + d ∧ (∀ i ≠ t, i.claim = t.claim → u.countOf i = s.countOf i) ∧
    u.now t.claim = s.now t.claim ∧ (∀ st, u.coreOf st = s.coreOf st) ∧ BytesKept s u := by
  refine ⟨_, rfl, ?_⟩
  have hp : OnlyPlans (upsetCount s t d) ((((upsetCount s t d).claimOf t.claim).barriers.filter fun p => p.2.release.isSome).foldl
      (fun s p => s.planEv t.claim (s.now t.claim + 1) phRun (.gateRelease t.claim p.1)) (upsetCount s t d)) :=
    onlyPlans_foldl (fun s p => ⟨_, _, _, rfl⟩) _ _
  refine ⟨?_, fun i hi _ => ?_, hp.now _, hp.coreOf, ?_⟩
  · rw [State.countOf, State.countOf, hp.now, hp.tileOf, upsetCount, now_modTile, tileOf_modTile, Tile.setOff]
    exact (BitVec.add_assoc _ _ _).symm
  · rw [State.countOf, State.countOf, hp.now, hp.tileOf, upsetCount, now_modTile, tileOf_modTile_ne _ _ _ _ hi]
  · refine BytesKept.trans (bytesKept_setTile ?_) hp.bytesKept
    exact ⟨rfl, rfl, rfl⟩

end Clauses
end Sys2Proof.Machine

namespace Sys2Proof.Machine

/-! # Trims and alignments (R260 to R262, R289) -/

section Trims
open State
variable {s : State} {t : TileId}

theorem meanOf_eq {l : List Int} {e : Int} (h : MeanOf l e) : meanOf l = e := by
  obtain ⟨h0, h1⟩ := h
  cases l with
  | nil => exact (h0 rfl).symm
  | cons a l =>
    obtain ⟨hlo, hhi⟩ := h1 (List.cons_ne_nil a l)
    have hp : (0 : Int) < (a :: l).length := by simp
    have hs : (a :: l).foldl (· + ·) 0 = (a :: l).sum := List.sum_eq_foldl.symm
    rw [meanOf, List.isEmpty_cons, if_neg Bool.false_ne_true, hs]
    refine Int.le_antisymm ?_ ?_
    · exact Int.lt_add_one_iff.1 (Int.ediv_lt_of_lt_mul hp (by rwa [Int.mul_comm]))
    · exact Int.le_ediv_of_mul_le hp (by rwa [Int.mul_comm])

theorem deadband_eq (db4 : Nat) (e : Int) : deadband db4 e = lessDeadband db4 e := rfl

theorem localTarget_eq (db4 : Nat) (e : Int) :
    localTarget db4 e = max (-5000000) (min 5000000 (1250 * lessDeadband db4 e)) := by
  rw [localTarget, clampTo, deadband_eq, show 20000 * lessDeadband db4 e / 16 = 1250 * lessDeadband db4 e by omega]

theorem slewStep_eq (s : State) (n : Nat) (τ : Int) : slewStep s n τ =
    s.slew * (n : Int) * 10 ^ 18 / (1700 * (1000000 - s.throttle - s.baseCut : Nat) * (10 ^ 9 + τ)) := by
  have h1 : (s.slew : Int) * n * 1000 * 1000000 * 1000000000 = s.slew * n * 10 ^ 18 := by ring
  have h2 : (1000000000 : Int) = 10 ^ 9 := by norm_num
  rw [slewStep, fbRate, h1, h2]

theorem slewStep_nonneg (s : State) (n : Nat) {τ : Int} (h : -(10 ^ 9) < τ) : 0 ≤ slewStep s n τ := by
  rw [slewStep_eq]
  exact Int.ediv_nonneg (by positivity) (mul_nonneg (by positivity) (by omega))

/-- The wafer's own trim is none of what its slew is counted in. -/
theorem slewStep_wafer (s : State) : slewStep s 1024 0 =
    s.slew * 1024 * 10 ^ 9 / (1700 * (1000000 - s.throttle - s.baseCut : Nat)) := by
  rw [slewStep_eq]
  rw [show (s.slew : Int) * ((1024 : Nat) : Int) * 10 ^ 18 = (s.slew * 1024 * 10 ^ 9) * 10 ^ 9 by push_cast; ring,
    show (10 : Int) ^ 9 + 0 = 10 ^ 9 by ring]
  exact Int.mul_ediv_mul_of_pos_left _ _ (by norm_num)

/-- A clamped change towards a target within a bound stays within it. -/
theorem natAbs_trim_le {trim step target : Int} (hs : 0 ≤ step) (ht : -5000000 ≤ target ∧ target ≤ 5000000)
    (hx : trim.natAbs ≤ 5000000) : (trim + clampTo step (target - trim)).natAbs ≤ 5000000 := by
  obtain ⟨hlo, hhi⟩ := ht
  unfold clampTo
  omega

/-- What a local trim update leaves: the trim and its books, then the stops of what it repays. -/
theorem tileOf_trimTile (s : State) (t : TileId) : TileFrame s (trimTile s t) t ∧
    let x := s.tileOf t
    let acc := x.trimAcc + 1024 * x.trim
    ∃ h p l a b, (trimTile s t).tileOf t = { x with
      trim := x.trim + clampTo (slewStep s (trimCycle x - x.trimAt) s.waferTrim)
        (localTarget s.db4 (meanOf (lambdas s t (trimCycle x))) - x.trim)
      trimAcc := acc - acc / 1000000000 * 1000000000, trimCycles := x.trimCycles + 1, trimAt := trimCycle x
      gained := x.gained + acc / 1000000000, delay := x.delay - acc / 1000000000
      holds := h, peak := p, lagHigh := l, stopFrom := a, stopUntil := b } := by
  unfold trimTile
  dsimp only
  generalize hw : ((s.tileOf t).trimAcc + 1024 * (s.tileOf t).trim) / 1000000000 = whole
  generalize hr : s.modTile t _ = r
  have hx : r.tileOf t = _ := hr ▸ tileOf_modTile s t _
  have hf : TileFrame s r t := hr ▸ tileFrame_modTile s t _
  generalize hv : (if 0 < whole then retime r t else r) = v
  have hp : OnlyPlans r v := by
    subst hv
    split
    · exact onlyPlans_retime r t
    · exact .refl r
  obtain ⟨hg, h, p, l, a, b, hu⟩ := tileFrame_addLag v t (-whole).toNat
  rw [hp.tileOf, hx] at hu
  refine ⟨(hf.trans (hp.tileFrame t)).trans hg, h, p, l, a, b, ?_⟩
  rw [hu]
  congr 1
  dsimp only
  split <;> omega

theorem localTrimUpdate_trims (s : State) (t : TileId) :
    let x := s.tileOf t
    let w := ((1024 * (x.trimCycles + 1) : Nat) - x.gained : Int).toNat
    let fb := 1000000 - s.throttle - s.baseCut
    let step : Int := s.slew * ((w - x.trimAt : Nat) : Int) * 10 ^ 18 / (1700 * fb * (10 ^ 9 + s.waferTrim))
    ∃ u, exec (.localTrimUpdate t) s = .next u ∧ (∀ st, u.coreOf st = s.coreOf st) ∧ BytesKept s u ∧
      (u.tileOf t).trimAt = w ∧ (u.tileOf t).trimCycles = x.trimCycles + 1 ∧
      (∀ e, MeanOf (lambdas s t w) e → (u.tileOf t).trim = x.trim + max (-step) (min step
        (max (-5000000) (min 5000000 (1250 * lessDeadband s.db4 e)) - x.trim))) ∧
      (-(10 ^ 9) < s.waferTrim → x.trim.natAbs ≤ 5000000 → (u.tileOf t).trim.natAbs ≤ 5000000) ∧
      10 ^ 9 * ((u.tileOf t).gained - x.gained) + (u.tileOf t).trimAcc = x.trimAcc + 1024 * x.trim ∧
      0 ≤ (u.tileOf t).trimAcc ∧ (u.tileOf t).trimAcc < 10 ^ 9 ∧
      (u.tileOf t).delay + (u.tileOf t).gained = x.delay + x.gained := by
  intro x w fb step
  obtain ⟨hf, h, p, l, a, b, hu⟩ := tileOf_trimTile s t
  have hstep : slewStep s (w - x.trimAt) s.waferTrim = step := slewStep_eq ..
  refine ⟨_, rfl, hf.coreOf, hf.bytesKept (by rw [hu]; exact ⟨rfl, rfl, rfl⟩), ?_⟩
  rw [hu]
  refine ⟨rfl, rfl, fun e he => ?_, fun hτ hx => ?_, ?_, ?_, ?_, ?_⟩
  · show x.trim + clampTo (slewStep s (w - x.trimAt) s.waferTrim) (localTarget s.db4 (meanOf (lambdas s t w)) - x.trim) = _
    rw [meanOf_eq he, localTarget_eq, hstep]
    rfl
  · refine natAbs_trim_le (slewStep_nonneg s _ hτ) ?_ hx
    rw [localTarget_eq]
    omega
  all_goals dsimp only [x]
  all_goals omega

theorem waferTrimUpdate_fleetless {links : List (Nat × Int)} (h : s.fleet = none) :
    exec (.waferTrimUpdate links) s = .next s := by
  simp [exec_waferTrimUpdate_eq, execWaferTrimUpdate, trimWafer, h]

theorem waferTrimUpdate_trims {links : List (Nat × Int)} (h : s.fleet ≠ none) {e : Int} (he : MeanOf (links.map fun l => l.2) e) :
    let fb := 1000000 - s.throttle - s.baseCut
    let step : Int := s.slew * 1024 * 10 ^ 9 / (1700 * fb)
    let clamped := fun x : Int => max (-15000000) (min 15000000 x)
    let capped := fun x : Int => if s.throttle = 0 then x else min x 0
    let d := lessDeadband s.db4 e
    let iw := clamped (s.waferInt + 20 * d * 1024 * 1000000 / (1700 * 16 * fb))
    exec (.waferTrimUpdate links) s = .next { s with
      peerLambda := links, fbAcc := s.fbAcc - 1024 * 1000000, waferInt := capped iw
      waferTrim := s.waferTrim + max (-step) (min step (capped (clamped (1250 * d + iw)) - s.waferTrim)) } := by
  intro fb step clamped capped d iw
  obtain ⟨f, hf⟩ := Option.ne_none_iff_exists'.1 h
  have hd : 20000 * lessDeadband s.db4 e / 16 = 1250 * d := by omega
  simp only [exec_waferTrimUpdate_eq, execWaferTrimUpdate, trimWafer, hf, meanOf_eq he, deadband_eq, slewStep_wafer, hd]
  rfl

/-! ## Alignment to the neighbours' count (R289) -/

theorem count_eq_length_filter (l : List (BitVec 16)) (m : BitVec 16) : (l.filter fun x => x = m).length = l.count m := by
  rw [List.count_eq_length_filter]
  congr 1

theorem majority_eq_none {l : List (BitVec 16)} (h : ∀ m, 2 * l.count m ≤ l.length) : majority l = none := by
  refine List.find?_eq_none.2 fun m _ => ?_
  have := h m
  rw [count_eq_length_filter]
  simp; omega

/-- Two values cannot both hold more than half of a list. -/
theorem majority_eq_some {l : List (BitVec 16)} {m : BitVec 16} (h : l.length < 2 * l.count m) : majority l = some m := by
  have hm : m ∈ l := List.count_pos_iff.1 (by omega)
  have hs : (majority l).isSome := List.find?_isSome.2 ⟨m, hm, by rw [count_eq_length_filter]; simpa using h⟩
  obtain ⟨k, hk⟩ := Option.isSome_iff_exists.1 hs
  have hc : l.length < 2 * l.count k := by
    have := List.find?_some hk
    rw [count_eq_length_filter] at this
    simpa using this
  rw [hk]
  by_contra hne
  have hne : k ≠ m := fun h => hne (h ▸ rfl)
  have := List.length_eq_countP_add_countP (fun x => x == m) (l := l)
  have : l.countP (fun x => x == k) ≤ l.countP fun x => ¬(x == m) = true :=
    List.countP_mono_left fun x _ hx => by rw [beq_iff_eq.1 hx]; simpa using hne
  unfold List.count at h hc
  omega

end Trims
end Sys2Proof.Machine

namespace Sys2Proof.Machine

/-! # Alignment (R289) -/

section Align
open State
variable {s u : State} {t : TileId}

theorem tileOf_of_find {x : Tile} (h : find u.tiles t = some x) : u.tileOf t = x := by
  rw [State.tileOf, h]
  rfl

/-- A tile that stands in the table is not touched by what happens to its claim. -/
theorem tileOf_of_modTile {f : Tile → Tile} (h : u.tiles = (s.modTile t f).tiles) : u.tileOf t = f (s.tileOf t) :=
  tileOf_of_find (by rw [h]; exact find_put_self _ _ _)

theorem firstPresenting_congr (hc : u.claims = s.claims) (hk : u.cores = s.cores) (hn : u.countOf t = s.countOf t) :
    firstPresenting u t = firstPresenting s t := by
  simp only [firstPresenting, State.now, coreOf_congr hk, claimOf_congr hc, hn]

theorem firstPresenting_tile {st : StrandId} (h : firstPresenting s t = some st) : st.tile = t := by
  obtain ⟨c, -, rfl⟩ := List.mem_map.1 (List.mem_of_find?_eq_some h)
  rfl

theorem claimFaulted_congr (hc : s.claims = u.claims) (hk : s.cores = u.cores) (hb : BytesKept u s) {v : State} {cause : Byte}
    (h : ClaimFaulted s v t cause) : ClaimFaulted u v t cause := by
  obtain ⟨h1, h2, h3, h4, h5⟩ := h
  simp only [State.now, claimOf_congr hc] at h1 h2
  exact ⟨h1, h2, h3, fun st => (h4 st).trans (coreOf_congr hk st), hb.trans h5⟩

/-- The core of a strand that took a fatal fault. -/
theorem coreOf_takeFatal (s : State) (i : StrandId) (cause : Byte) (cls : Nat) (code : BitVec 16) (data : Quad) (nest : Bool) :
    ((takeFatal s i cause cls code data nest).coreOf i).status = .stopped ∧
      ((takeFatal s i cause cls code data nest).coreOf i).fCause = cause := by
  unfold takeFatal
  dsimp only
  rw [coreOf_congr (fatalAt_cores _ _), coreOf_setCore]
  exact ⟨rfl, rfl⟩

theorem coreOf_takeFatal_ne (s : State) {i o : StrandId} (h : o ≠ i) (cause : Byte) (cls : Nat) (code : BitVec 16) (data : Quad)
    (nest : Bool) : (takeFatal s i cause cls code data nest).coreOf o = s.coreOf o := by
  unfold takeFatal
  dsimp only
  rw [coreOf_congr (fatalAt_cores _ _), coreOf_setCore_ne _ _ _ _ h]

theorem claimOf_takeFatal (s : State) (i : StrandId) (cause : Byte) (cls : Nat) (code : BitVec 16) (data : Quad) (nest : Bool) :
    (takeFatal s i cause cls code data nest).claimOf i.tile.claim = { s.claimOf i.tile.claim with
      fatal := some ((s.claimOf i.tile.claim).fatal.getD (s.now i.tile.claim)) } := by
  unfold takeFatal
  rw [claimOf_fatalAt]
  rfl

theorem tiles_takeFatal (s : State) (i : StrandId) (cause : Byte) (cls : Nat) (code : BitVec 16) (data : Quad) (nest : Bool) :
    (takeFatal s i cause cls code data nest).tiles = s.tiles := by
  unfold takeFatal
  rw [fatalAt_tiles]
  rfl

theorem far_takeFatal (s : State) (i : StrandId) (cause : Byte) (cls : Nat) (code : BitVec 16) (data : Quad) (nest : Bool) :
    (takeFatal s i cause cls code data nest).far = s.far := by
  unfold takeFatal
  rw [fatalAt_far]
  rfl

/-- The labels that a tile sees at its sides. -/
def neighbourCounts (s : State) (t : TileId) : List (BitVec 16) :=
  (allSides.filterMap fun d => across s t d).map fun a =>
    (BitVec.ofNat 64 (s.now t.claim) + labelOff s a (s.now t.claim)).setWidth 16

/-- No alignment of a tile is asked for any more. -/
def noPend (s : State) (t : TileId) : State := s.modTile t fun x => { x with pend := none }

theorem pend_of_noPend (h : u.tiles = (noPend s t).tiles) : (u.tileOf t).pend = none := by
  have hx : u.tileOf t = { s.tileOf t with pend := none } := tileOf_of_modTile h
  rw [hx]

/-- Without a majority the bundle that the tile presents takes the fault. -/
theorem align_without_majority (s : State) (t : TileId)
    (h : ∀ m, 2 * (neighbourCounts s t).count m ≤ (neighbourCounts s t).length) :
    ∃ u, exec (.alignment t) s = .next u ∧ (u.tileOf t).pend = none ∧
      (firstPresenting s t = none → ClaimFaulted s u t 0x32) ∧
      ∀ st, firstPresenting s t = some st → (u.coreOf st).status = .stopped ∧ (u.coreOf st).fCause = 0x32 ∧
        presents u st = false ∧ (u.claimOf t.claim).faultCount = (s.claimOf t.claim).faultCount + 1 ∧
        (u.claimOf t.claim).fatal.isSome = true ∧ (∀ o ≠ st, u.coreOf o = s.coreOf o) ∧ BytesKept s u := by
  have hb : BytesKept s (noPend s t) := bytesKept_setTile ⟨rfl, rfl, rfl⟩
  have hfp : firstPresenting (noPend s t) t = firstPresenting s t :=
    firstPresenting_congr rfl rfl (by simp [State.countOf, noPend])
  have hal : align s t = match firstPresenting s t with
      | none => claimFault (noPend s t) t 0x32 0
      | some st => takeFatal (recordFault (noPend s t) t.claim
          ⟨0x32, s.now t.claim, t.x, t.y, st.core.toNat, 0, 0⟩) st 0x32 0 0 0 false := by
    rw [← hfp]
    unfold neighbourCounts at h
    unfold align
    dsimp only
    rw [majority_eq_none h]
    rfl
  clear h
  refine ⟨_, rfl, ?_⟩
  rw [hal]
  cases hst : firstPresenting s t with
  | none =>
    dsimp only
    refine ⟨?_, fun _ => claimFaulted_congr (s := noPend s t) (u := s) rfl rfl hb (claimFaulted_claimFault _ _ _ _),
      fun _ h => absurd h (by simp)⟩
    exact pend_of_noPend (claimFault_tiles _ _ _ _)
  | some st =>
    dsimp only
    refine ⟨?_, fun h => absurd h (by simp), fun st' h' => ?_⟩
    · exact pend_of_noPend (tiles_takeFatal _ _ _ _ _ _ _)
    · obtain rfl := Option.some.inj h'
      obtain rfl := firstPresenting_tile hst
      obtain ⟨hs, hc⟩ := coreOf_takeFatal (recordFault (noPend s st.tile) st.tile.claim
          ⟨0x32, s.now st.tile.claim, st.tile.x, st.tile.y, st.core.toNat, 0, 0⟩) st 0x32 0 0 0 false
      refine ⟨hs, hc, by rw [presents, hs], ?_, ?_, fun o ho => ?_, ?_⟩
      · rw [claimOf_takeFatal, claimOf_recordFault]
        rfl
      · rw [claimOf_takeFatal]
        rfl
      · rw [coreOf_takeFatal_ne _ ho]
        rfl
      · refine hb.trans (.of_tiles ?_ ?_)
        · rw [tiles_takeFatal]; rfl
        · rw [far_takeFatal]; rfl

theorem natAbs_signExtend_le (d : BitVec 16) : (d.signExtend 64).toInt.natAbs ≤ 2 ^ 15 := by
  rw [BitVec.toInt_signExtend_of_le (by decide)]
  have := d.toInt_lt
  have := d.le_toInt
  omega

/-- The value that a count takes over from its neighbours' low 16 bits. -/
theorem setWidth_adopted (own : BitVec 64) (m : BitVec 16) : (own + (m - own.setWidth 16).signExtend 64).setWidth 16 = m := by
  have hs : ((m - own.setWidth 16).signExtend 64).setWidth 16 = m - own.setWidth 16 := by
    ext i hi
    simp [BitVec.getElem_signExtend, hi, show i < 64 by omega]
  rw [BitVec.setWidth_add _ _ (by decide), hs, BitVec.add_comm, BitVec.sub_add_cancel]

/-- A majority of the neighbours gives the tile its count. -/
theorem align_to_majority (s : State) (t : TileId) {m : BitVec 16}
    (h : (neighbourCounts s t).length < 2 * (neighbourCounts s t).count m) :
    ∃ u, exec (.alignment t) s = .next u ∧ (u.countOf t).setWidth 16 = m ∧
      ((u.countOf t) - (s.countOf t)).toInt.natAbs ≤ 2 ^ 15 ∧ (u.tileOf t).dir = 0 ∧ (u.tileOf t).delta = 0 ∧
      (u.tileOf t).pend = none ∧ u.now t.claim = s.now t.claim ∧ (∀ st, u.coreOf st = s.coreOf st) ∧ BytesKept s u := by
  have hal : align s t = s.modTile t fun x =>
      { (if s.countOf t + (m - (s.countOf t).setWidth 16).signExtend 64 = s.countOf t then x
          else x.setOff (s.now t.claim) (s.countOf t + (m - (s.countOf t).setWidth 16).signExtend 64 -
            BitVec.ofNat 64 (s.now t.claim))) with dir := 0, delta := 0, pend := none } := by
    unfold neighbourCounts at h
    unfold align
    dsimp only
    rw [majority_eq_some h]
  have hc : (align s t).countOf t = s.countOf t + (m - (s.countOf t).setWidth 16).signExtend 64 := by
    rw [hal, State.countOf, now_modTile, tileOf_modTile]
    split
    next he => exact he.symm
    next => exact add_sub_cancel _ _
  refine ⟨_, rfl, ?_, ?_, ?_⟩
  · rw [hc, setWidth_adopted]
  · rw [hc, add_sub_cancel_left]
    exact natAbs_signExtend_le _
  · rw [hal, tileOf_modTile]
    refine ⟨rfl, rfl, rfl, rfl, fun _ => rfl, bytesKept_setTile ?_⟩
    split <;> exact ⟨rfl, rfl, rfl⟩

end Align
end Sys2Proof.Machine

namespace Sys2Proof.Machine

/-! # Holds delivered (R264, R278) -/

section Delivery
open State
variable {s u v : State} {t : TileId}

/-! ## Holds that leave the wafer -/

@[simp] theorem sendOne_peerHolds (s : State) (t : TileId) (q cy : Nat) (o : TileId) :
    (sendOne s t q cy o).peerHolds = s.peerHolds := by
  unfold sendOne
  dsimp only
  split <;> rfl

@[simp] theorem sendHold_peerHolds (s : State) (t : TileId) (q cy : Nat) (l : List TileId) :
    (sendHold s t q cy l).peerHolds = s.peerHolds := by
  induction l generalizing s with
  | nil => rfl
  | cons o l ih => rw [sendHold_cons, ih, sendOne_peerHolds]

/-- The holds that leave a fleet's wafer over its peer ports but one. -/
def holdsOut (c : Claim) (t : TileId) (q cy : Nat) (by_ : Option Nat) : List (Nat × Nat × Nat) :=
  ((List.range 24).filter fun p => by_ != some p).map fun p => (p, q, cy + portDistance c t p + Config.peerLatency p)

theorem holdOut_peerHolds (s : State) (t : TileId) (q cy : Nat) (p : Option Nat) : (holdOut s t q cy p).peerHolds =
    s.peerHolds ++ if (s.claimOf t.claim).fleet then holdsOut (s.claimOf t.claim) t q cy p else [] := by
  unfold holdOut
  dsimp only
  split
  · rfl
  · rw [List.append_nil]

theorem mem_holdsOut {c : Claim} {q cy k : Nat} {p : Option Nat} (hk : k < 24) (h : p ≠ some k) :
    (k, q, cy + portDistance c t k + Config.peerLatency k) ∈ holdsOut c t q cy p :=
  List.mem_map.2 ⟨k, List.mem_filter.2 ⟨List.mem_range.2 hk, by simpa using h⟩, rfl⟩

theorem notMem_holdsOut (c : Claim) (t : TileId) (q cy p r x : Nat) : (p, r, x) ∉ holdsOut c t q cy (some p) := by
  intro h
  obtain ⟨k, hk, he⟩ := List.mem_map.1 h
  obtain ⟨-, hne⟩ := List.mem_filter.1 hk
  obtain rfl : k = p := (Prod.mk.inj he).1
  simp at hne

theorem prefix_raiseHoldAt (s : State) (t : TileId) (q cy : Nat) : s.peerHolds <+: (raiseHoldAt s t q cy).peerHolds := by
  rw [raiseHoldAt_eq, holdOut_peerHolds, sendHold_peerHolds]
  exact List.prefix_append _ _

theorem prefix_seeStop (s : State) (t : TileId) (ws : List Nat) : s.peerHolds <+: (seeStop s t ws).peerHolds := by
  unfold seeStop
  dsimp only
  split
  · exact List.prefix_rfl
  · exact prefix_raiseHoldAt (notePeak s t ws) _ _ _

/-! ## A delivery -/

/-- A tile as a hold of q cycles from a cycle on stops it. -/
def stopped (s : State) (t : TileId) (q cycle : Nat) : State :=
  s.modTile t fun x => { x.stand (max cycle (s.tileOf t).stopUntil) (cycle + q - max cycle (s.tileOf t).stopUntil) with held := true }

/-- The cycles in which a hold of q cycles stops a tile. -/
def stopCycles (s : State) (t : TileId) (q cycle : Nat) : List Nat :=
  cyclesFrom (max cycle (s.tileOf t).stopUntil) (cycle + q - max cycle (s.tileOf t).stopUntil)

theorem holdArrives_eq (s : State) (t : TileId) (q cycle : Nat) : holdArrives s t q cycle =
    (seeStop (retime (stopped s t q cycle) t) t (stopCycles s t q cycle)).push (.holdEnd t) := rfl

theorem mem_cyclesFrom {w f k : Nat} : k ∈ cyclesFrom w f ↔ w ≤ k ∧ k < w + f := by
  unfold cyclesFrom
  rw [List.mem_map]
  constructor
  · rintro ⟨a, ha, rfl⟩
    have := List.mem_range.1 ha
    omega
  · rintro ⟨h1, h2⟩
    exact ⟨k - w, List.mem_range.2 (by omega), by omega⟩

theorem mem_stopCycles {q cycle k : Nat} :
    k ∈ stopCycles s t q cycle ↔ max cycle (s.tileOf t).stopUntil ≤ k ∧ k < cycle + q := by
  rw [stopCycles, mem_cyclesFrom]
  omega

theorem tileOf_stopped (s : State) (t : TileId) (q cycle : Nat) : (stopped s t q cycle).tileOf t =
    { (s.tileOf t).stand (max cycle (s.tileOf t).stopUntil) (cycle + q - max cycle (s.tileOf t).stopUntil) with held := true } :=
  tileOf_modTile _ _ _

/-- What a delivered hold does: the tile's count stands to the end of the hold, and the hold's end follows. -/
structure Stops (s u : State) (t : TileId) (q cycle : Nat) : Prop where
  held : (u.tileOf t).held = true
  stopUntil : (u.tileOf t).stopUntil = max (s.tileOf t).stopUntil (cycle + q)
  delay : (u.tileOf t).delay = (s.tileOf t).delay + ((cycle + q - max cycle (s.tileOf t).stopUntil : Nat) : Int)
  todo : u.todo = .ev (.holdEnd t) :: s.todo
  coreOf : ∀ st, u.coreOf st = s.coreOf st
  bytesKept : BytesKept s u

theorem stops_holdArrives (s : State) (t : TileId) (q cycle : Nat) : Stops s (holdArrives s t q cycle) t q cycle := by
  rw [holdArrives_eq]
  have hp := onlyPlans_retime (stopped s t q cycle) t
  have hs := seesStop_seeStop (retime (stopped s t q cycle) t) t (stopCycles s t q cycle)
  generalize seeStop (retime (stopped s t q cycle) t) t (stopCycles s t q cycle) = u at hs
  obtain ⟨hf, ⟨h, p, l, hu⟩, -, -⟩ := hs
  have hf : TileFrame s u t := (tileFrame_modTile s t _).trans ((hp.tileFrame t).trans hf)
  rw [hp.tileOf, tileOf_stopped] at hu
  refine ⟨?_, ?_, ?_, ?_, hf.coreOf, (hf.bytesKept ?_).trans (.of_tiles rfl rfl)⟩
  · rw [tileOf_push, hu]
  · rw [tileOf_push, hu]
    dsimp only [Tile.stand]
    omega
  · rw [tileOf_push, hu]
    rfl
  · rw [← hf.todo]
    rfl
  · rw [hu]
    exact ⟨rfl, rfl, rfl⟩

theorem Stops.of_onlyPlans {q cycle : Nat} (h : OnlyPlans s u) (k : Stops u v t q cycle) : Stops s v t q cycle where
  held := k.held
  stopUntil := by rw [k.stopUntil, h.tileOf]
  delay := by rw [k.delay, h.tileOf]
  todo := by rw [k.todo, h.todo]
  coreOf st := (k.coreOf st).trans (h.coreOf st)
  bytesKept := h.bytesKept.trans k.bytesKept

theorem lagHigh_stopped (s : State) (t : TileId) (q cycle : Nat) :
    ((retime (stopped s t q cycle) t).tileOf t).lagHigh = (s.tileOf t).lagHigh := by
  rw [(onlyPlans_retime _ t).tileOf, tileOf_stopped]
  rfl

/-- A tile whose lag is high already raises no hold. -/
theorem holdArrives_peerHolds_of_high (q cycle : Nat) (h : (s.tileOf t).lagHigh = true) :
    (holdArrives s t q cycle).peerHolds = s.peerHolds := by
  rw [holdArrives_eq, seeStop_quiet (.inl ((lagHigh_stopped s t q cycle).trans h))]
  rfl

theorem prefix_holdArrives (s : State) (t : TileId) (q cycle : Nat) : s.peerHolds <+: (holdArrives s t q cycle).peerHolds :=
  prefix_seeStop (retime (stopped s t q cycle) t) t _

theorem agendaSurvives_holdArrives (s : State) (t : TileId) (q cycle : Nat) : AgendaSurvives s (holdArrives s t q cycle) := by
  have h1 : AgendaSurvives s (stopped s t q cycle) := .of_subset fun _ => id
  have h2 := (seesStop_seeStop (retime (stopped s t q cycle) t) t (stopCycles s t q cycle)).agenda
  exact h1.trans ((agendaSurvives_retime _ t).trans h2)

/-- What a delivery shows where no other hold is on its way to the tile: its lag enters its peak, and it raises a hold where its
lag has become high. -/
theorem holdArrives_sees (q cycle : Nat) (hh : holdsTo s t = []) :
    let w := max cycle (s.tileOf t).stopUntil
    let u := holdArrives s t q cycle
    ((s.tileOf t).lagHigh = true ∨ (∀ k, w ≤ k → k < cycle + q → highAt (stopped s t q cycle) t k 0 = false) →
      u.agenda = s.agenda ∧ u.peerHolds = s.peerHolds ∧ (u.tileOf t).holds = (s.tileOf t).holds) ∧
    ((s.tileOf t).lagHigh = false → (∃ k, w ≤ k ∧ k < cycle + q ∧ highAt (stopped s t q cycle) t k 0 = true) →
      (u.tileOf t).lagHigh = true ∧ (u.tileOf t).holds.toNat = min 0xFFFF ((s.tileOf t).holds.toNat + 1)) ∧
    ∀ k, w ≤ k → k < cycle + q → min (lagAt (stopped s t q cycle) t k) 0xFFFF ≤ (u.tileOf t).peak.toNat := by
  have hr : retime (stopped s t q cycle) t = stopped s t q cycle := retime_of_holdsTo_nil hh
  have hx := tileOf_stopped s t q cycle
  have hl : ((stopped s t q cycle).tileOf t).lagHigh = (s.tileOf t).lagHigh := by rw [hx]; rfl
  dsimp only
  rw [holdArrives_eq, hr]
  refine ⟨fun hq => ?_, fun hn hk => ?_, fun k h1 h2 => ?_⟩
  · rw [seeStop_quiet (hq.imp hl.trans fun h k hk => h k (mem_stopCycles.1 hk).1 (mem_stopCycles.1 hk).2), tileOf_push,
      tileOf_notePeak, hx]
    exact ⟨rfl, rfl, rfl⟩
  · obtain ⟨k, h1, h2, hk⟩ := hk
    obtain ⟨a, b, hu⟩ := seeStop_raises (hl.trans hn) (mem_stopCycles.2 ⟨h1, h2⟩) hk
    rw [hu, tileOf_push, tileOf_raised, tileOf_notePeak, hx]
    exact ⟨rfl, toNat_satInc _⟩
  · exact (seesStop_seeStop (stopped s t q cycle) t (stopCycles s t q cycle)).peak k (mem_stopCycles.2 ⟨h1, h2⟩)

/-! ## A hold that comes in over a peer port -/

/-- A hold of another wafer, sent on to the claim's other tiles and over the other ports. -/
def sentOn (s : State) (t : TileId) (q cycle port : Nat) : State :=
  holdOut (sendHold s t q cycle ((claimTiles (s.claimOf t.claim) t.claim).filter fun o => o != t)) t q cycle (some port)

theorem holdIn_eq (s : State) (t : TileId) (q cycle port : Nat) :
    holdIn s t q cycle port = holdArrives (sentOn s t q cycle port) t q cycle := rfl

theorem onlyPlans_sentOn (s : State) (t : TileId) (q cycle port : Nat) : OnlyPlans s (sentOn s t q cycle port) :=
  (onlyPlans_sendHold _ _ _ _ _).trans (onlyPlans_holdOut _ _ _ _ _)

theorem holdIn_plans (q cycle port : Nat) {x y : Nat} (hx : x < 12 * (s.claimOf t.claim).fw) (hy : y < 12 * (s.claimOf t.claim).fh)
    (ho : (⟨t.claim, x, y⟩ : TileId) ≠ t) : ∃ e ∈ (holdIn s t q cycle port).agenda, e.act =
      .ev (.holdDelivery ⟨t.claim, x, y⟩ q ⟨cycle + holdDistance (s.claimOf t.claim) t ⟨t.claim, x, y⟩, none⟩) := by
  obtain ⟨e, he, -, -, ha, -⟩ := sendHold_entry t q cycle (nodup_otherTiles (s.claimOf t.claim) t) (mem_otherTiles hx hy ho) s
  have h1 := agendaSurvives_holdArrives (sentOn s t q cycle port) t q cycle
  obtain ⟨e', he', ha'⟩ := ((agendaSurvives_holdOut _ t q cycle (some port)).trans h1).act he
  exact ⟨e', he', ha'.trans ha⟩

theorem sentOn_peerHolds (q cycle port : Nat) (hf : (s.claimOf t.claim).fleet = true) : (sentOn s t q cycle port).peerHolds =
    s.peerHolds ++ holdsOut (s.claimOf t.claim) t q cycle (some port) := by
  have hc := (onlyPlans_sendHold s t q cycle ((claimTiles (s.claimOf t.claim) t.claim).filter fun o => o != t)).claimOf t.claim
  rw [sentOn, holdOut_peerHolds, sendHold_peerHolds, hc, if_pos hf]

/-- The hold leaves over every other port. -/
theorem holdIn_leaves (q cycle : Nat) {port k : Nat} (hf : (s.claimOf t.claim).fleet = true) (hk : k < 24) (hp : k ≠ port) :
    ∃ x, (holdIn s t q cycle port).peerHolds.count (k, q, x) ≠ s.peerHolds.count (k, q, x) := by
  refine ⟨cycle + portDistance (s.claimOf t.claim) t k + Config.peerLatency k, Nat.ne_of_gt ?_⟩
  have hm := List.count_pos_iff.2 (mem_holdsOut (t := t) (c := s.claimOf t.claim) (q := q) (cy := cycle) (p := some port) hk
    (by simpa using hp.symm))
  have hle := (prefix_holdArrives (sentOn s t q cycle port) t q cycle).sublist.count_le
    (k, q, cycle + portDistance (s.claimOf t.claim) t k + Config.peerLatency k)
  rw [sentOn_peerHolds q cycle port hf, List.count_append] at hle
  rw [holdIn_eq]
  omega

/-- It does not go back over the port it came by, unless the tile's lag becomes high. -/
theorem holdIn_not_back (q cycle port : Nat) (hf : (s.claimOf t.claim).fleet = true) (hl : (s.tileOf t).lagHigh = true) (x : Nat) :
    (holdIn s t q cycle port).peerHolds.count (port, q, x) = s.peerHolds.count (port, q, x) := by
  have hl : ((sentOn s t q cycle port).tileOf t).lagHigh = true := by rw [(onlyPlans_sentOn s t q cycle port).tileOf, hl]
  rw [holdIn_eq, holdArrives_peerHolds_of_high q cycle hl, sentOn_peerHolds q cycle port hf, List.count_append,
    List.count_eq_zero.2 (notMem_holdsOut _ t q cycle port q x), Nat.add_zero]

end Delivery

/-! # The obligation -/

/-- Settles O47: each event of counts, holds and trims does what R38 and R260 to R290 say of it. -/
theorem countsAndHolds : Obligations.CountsAndHolds := by
  unfold Obligations.CountsAndHolds
  refine ⟨fun s => ⟨exec_tkalign_span, exec_tkalign_pending, tkalign_plans⟩,
    fun t s => ⟨align_without_majority s t, fun m => align_to_majority s t⟩,
    fun dt s => ⟨exec_tkhold_span dt, fun h => ⟨_, exec_tkhold dt h, _, rfl, rfl, rfl, rfl⟩⟩,
    ?hold, ?delivery, ?holdEnd, fun t part s => voltageDroop_spends s t part, fun t s => localTrimUpdate_trims s t,
    fun links s => ⟨waferTrimUpdate_fleetless, fun h e => waferTrimUpdate_trims h⟩, fun _ _ _ => rfl,
    ?throttle, ?rail, countUpset_moves⟩
  case hold =>
    intro st q s c
    refine ⟨_, rfl, bytesKept_raiseHoldAt .., (tileFrame_raiseHoldAt s st.tile q _).coreOf, ?_,
      agendaSurvives_raiseHoldAt s st.tile q _, ?_⟩
    · exact (congrArg (fun x => x.holds.toNat) (tileOf_raiseHoldAt s st.tile q _)).trans (toNat_satInc _)
    · intro x hx y hy o d ho
      obtain ⟨e, he, hn, hp, ha, ht⟩ := raiseHoldAt_entry q (cycleOf s st.tile) hx hy ho
      exact ⟨e, he, hn, hp, ha, fun hl hh hs => (ht hh).trans (tickAt_of_level d (holdDistance_pos c rfl ho) rfl hl hh hs)⟩
  case delivery =>
    intro t q cycle port s
    cases port with
    | none =>
      have h := stops_holdArrives s t q cycle
      exact ⟨_, rfl, h.held, h.stopUntil, h.delay, h.todo, h.coreOf, h.bytesKept, fun _ hh => holdArrives_sees q cycle hh,
        fun p hp => absurd hp (by simp)⟩
    | some port =>
      have h := (stops_holdArrives (sentOn s t q cycle port) t q cycle).of_onlyPlans (onlyPlans_sentOn s t q cycle port)
      refine ⟨_, rfl, h.held, h.stopUntil, h.delay, h.todo, h.coreOf, h.bytesKept, fun hp => absurd hp (by simp), fun p hp => ?_⟩
      obtain rfl := Option.some.inj hp
      exact ⟨fun x hx y hy ho => holdIn_plans q cycle port hx hy ho,
        fun hf => ⟨fun k hk hp => holdIn_leaves q cycle hf hk hp, fun hl x => holdIn_not_back q cycle port hf hl x⟩⟩
  case holdEnd =>
    intro t s
    have hx := State.tileOf_modTile s t fun x => { x with held := false }
    refine ⟨_, rfl, by rw [hx], by rw [hx], fun _ => rfl, bytesKept_setTile ?_, rfl⟩
    exact ⟨rfl, rfl, rfl⟩
  case throttle =>
    intro field ppm s
    refine ⟨fun h => ⟨fun hf => ?_, fun hf hp => ?_, fun hf hp => ?_⟩, fun h => ?_⟩
    · simp [exec_throttle_eq, execThrottle, switching_eq, h, setThrottle, hf]
    · obtain ⟨f, hf⟩ := Option.ne_none_iff_exists'.1 hf
      simp [exec_throttle_eq, execThrottle, switching_eq, h, setThrottle, hf, fleetThrottle, hp]
    · obtain ⟨f, hf⟩ := Option.ne_none_iff_exists'.1 hf
      simp [exec_throttle_eq, execThrottle, switching_eq, h, setThrottle, hf, fleetThrottle, Nat.not_le.2 hp]
    · simp [exec_throttle_eq, execThrottle, switching_eq, h, defer]
  case rail =>
    intro field row col high s
    refine ⟨fun h => ?_, fun h => by simp [exec_railChange_eq, execRailChange, switching_eq, h, defer]⟩
    obtain ⟨l, hl, hne, hhigh, hfree, hheld⟩ := railChange_moves s field row col high
    refine ⟨{ s with lowRail := l }, ?_, rfl, hne, hhigh, hfree, fun h1 h2 => ?_⟩
    · simp [exec_railChange_eq, execRailChange, switching_eq, h, hl]
    · rw [hheld h1 h2]

end Sys2Proof.Machine

namespace Sys2Proof.Machine

/-! # Completion records (R369) -/

section Records
open State
variable {s u : State}

/-! ## Bytes and numbers -/

@[simp] theorem length_bytesOf {w : Nat} (v : BitVec w) (n : Nat) : (bytesOf v n).length = n := by simp [bytesOf]

theorem bytesOf_succ {w : Nat} (v : BitVec w) (n : Nat) : bytesOf v (n + 1) = byteOf v 0 :: bytesOf (v >>> 8) n := by
  unfold bytesOf
  rw [List.range_succ_eq_map, List.map_cons, List.map_map]
  congr 1
  refine List.map_congr_left fun i _ => ?_
  apply BitVec.eq_of_toNat_eq
  simp only [Function.comp, byteOf, BitVec.extractLsb'_toNat, BitVec.toNat_ushiftRight, ← Nat.shiftRight_add]
  congr 2
  omega

/-- The little-endian number of a value's low bytes is the value. -/
theorem leNat_bytesOf {w : Nat} (n : Nat) (v : BitVec w) : leNat (bytesOf v n) = v.toNat % 256 ^ n := by
  induction n generalizing v with
  | zero => simp [bytesOf, leNat, Nat.mod_one]
  | succ n ih =>
    have h0 : (byteOf v 0).toNat = v.toNat % 256 := by simp [byteOf]
    have h1 : (v >>> 8).toNat = v.toNat / 256 := by rw [BitVec.toNat_ushiftRight, Nat.shiftRight_eq_div_pow]
    rw [bytesOf_succ, leNat, ih, h0, h1, Nat.pow_succ', Nat.mod_mul]

theorem leNat_word (v : BitVec 64) : leNat (bytesOf v 8) = v.toNat := by
  rw [leNat_bytesOf]
  exact Nat.mod_eq_of_lt v.isLt

theorem leNat_lt (l : List Byte) : leNat l < 256 ^ l.length := by
  induction l with
  | nil => simp [leNat]
  | cons b l ih =>
    have := b.isLt
    rw [leNat, List.length_cons, Nat.pow_succ]
    omega

/-! ## Consecutive bytes written -/

theorem farBytesAt_cons (a : Nat) (b : Byte) (l : List Byte) : farBytesAt a (b :: l) = (a, b, false) :: farBytesAt (a + 1) l := by
  unfold farBytesAt
  rw [List.zipIdx_cons, List.map_cons, List.zipIdx_succ, List.map_map]
  congr 1
  refine List.map_congr_left fun p _ => ?_
  simp only [Function.comp]
  congr 1
  omega

/-- Far memory after a write of bytes, with the flips of the written pieces gone. -/
def farStore (m : Memory) (fl : List (Nat × BitVec 72)) (l : List (Nat × Byte × Bool)) : Memory × List (Nat × BitVec 72) :=
  l.foldl (fun x b => (x.1.write b.1 b.2.1, drop x.2 (b.1 / 8))) (m, fl)

theorem farWrite_farBytesAt (s : State) (a : Nat) (l : List Byte) : farWrite s (farBytesAt a l) = { s with
    far := s.far.writeList a l
    farMarks := s.farMarks.filter fun p => !coversClean (farBytesAt a l) p
    farFlips := s.farFlips.filter fun p => !((farBytesAt a l).any fun b => b.1 / 8 == p.1) } := by
  unfold farWrite
  generalize s.farMarks.filter (fun p => !coversClean (farBytesAt a l) p) = marks
  induction l generalizing s a with
  | nil =>
    simp [farBytesAt, Memory.writeList]
  | cons b l ih =>
    rw [farBytesAt_cons, List.foldl_cons]
    have h := ih { s with far := s.far.write a b, farFlips := drop s.farFlips (a / 8) } (a + 1)
    dsimp only at h ⊢
    rw [if_neg Bool.false_ne_true]
    refine h.trans ?_
    rw [drop, List.filter_filter]
    congr 1
    refine List.filter_congr fun p _ => ?_
    by_cases hp : p.1 = a / 8
    · simp [hp]
    · simp [hp, Ne.symm hp]

theorem mem_farBytesAt {a : Nat} {l : List Byte} {b : Nat × Byte × Bool} (h : b ∈ farBytesAt a l) :
    a ≤ b.1 ∧ b.1 < a + l.length ∧ b.2.2 = false := by
  obtain ⟨p, hp, rfl⟩ := List.mem_map.1 h
  have := List.snd_lt_of_mem_zipIdx hp
  exact ⟨Nat.le_add_right _ _, by dsimp only; omega, rfl⟩

theorem exists_mem_farBytesAt {a : Nat} {l : List Byte} {i : Nat} (h : i < l.length) : ∃ b ∈ farBytesAt a l, b.1 = a + i :=
  ⟨_, List.mem_map_of_mem (List.getElem_mem (l := l.zipIdx) (n := i) (by simpa using h)), by simp⟩

theorem find_filter_ne {κ α : Type} [DecidableEq κ] {l : List (κ × α)} {x : κ} {p : κ × α → Bool} (h : ∀ y, p (x, y) = true) :
    find (l.filter p) x = find l x := by
  induction l with
  | nil => rfl
  | cons q l ih =>
    obtain ⟨k, v⟩ := q
    by_cases hk : k = x
    · subst hk
      simp [h, find]
    · rw [List.filter_cons]
      split <;> simp [find, hk, ih]

theorem find_filter_none {κ α : Type} [DecidableEq κ] {l : List (κ × α)} {x : κ} {p : κ × α → Bool} (h : ∀ y, p (x, y) = false) :
    find (l.filter p) x = none := by
  cases hf : find (l.filter p) x with
  | none => rfl
  | some y =>
    have := (List.mem_filter.1 (mem_of_find hf)).2
    rw [h] at this
    exact absurd this (by simp)

theorem Memory.readList_congr {m m' : Memory} {a n : Nat} (h : ∀ i < n, m.read (a + i) = m'.read (a + i)) :
    m.readList a n = m'.readList a n := by
  refine List.ext_getElem (by simp) fun i h1 h2 => ?_
  rw [Memory.getElem_readList, Memory.getElem_readList]
  exact h i (by simpa using h1)

/-- A write of consecutive bytes leaves the bytes of every other piece as they were. -/
theorem farByte_farWrite_of_piece {a c : Nat} {l : List Byte} (h : c / 8 < a / 8 ∨ a + l.length ≤ 8 * (c / 8)) :
    farByte (farWrite s (farBytesAt a l)) c = farByte s c := by
  have hany : ((farBytesAt a l).any fun b => b.1 / 8 == c / 8) = false := by
    rw [List.any_eq_false]
    intro b hb
    obtain ⟨h1, h2, -⟩ := mem_farBytesAt hb
    simp
    omega
  have hcov : coversClean (farBytesAt a l) (c / 8) = false := by
    rw [coversClean, Bool.and_eq_false_iff]
    refine .inl ?_
    rw [List.all_eq_false]
    refine ⟨0, by simp, ?_⟩
    rw [Bool.not_eq_true, List.any_eq_false]
    intro b hb
    obtain ⟨h1, h2, -⟩ := mem_farBytesAt hb
    simp
    omega
  have hf : find (farWrite s (farBytesAt a l)).farFlips (c / 8) = find s.farFlips (c / 8) := by
    rw [farWrite_farBytesAt]
    exact find_filter_ne fun y => by rw [hany]; rfl
  have hm : (farWrite s (farBytesAt a l)).farMarks.contains (c / 8) = s.farMarks.contains (c / 8) := by
    rw [farWrite_farBytesAt, Bool.eq_iff_iff]
    simp [hcov]
  have hr : ∀ d, d / 8 = c / 8 → (farWrite s (farBytesAt a l)).far.read d = s.far.read d := by
    intro d hd
    rw [farWrite_farBytesAt]
    exact Memory.read_writeList_ne _ _ (by omega)
  have hw : wordAt (farWrite s (farBytesAt a l)).far (c / 8) = wordAt s.far (c / 8) := by
    rw [wordAt, wordAt, Memory.readList_congr fun i hi => hr _ (by omega)]
  unfold farByte farView
  rw [hf, hm, hw, hr c rfl]

/-- A write of consecutive bytes is read back, whatever stored bits were flipped before. -/
theorem farByte_farWrite {a i : Nat} {l : List Byte} (hw : s.far.wf = true) (h : i < l.length) :
    (farByte (farWrite s (farBytesAt a l)) (a + i)).1 = l[i] := by
  have hf : find (farWrite s (farBytesAt a l)).farFlips ((a + i) / 8) = none := by
    rw [farWrite_farBytesAt]
    refine find_filter_none fun y => ?_
    obtain ⟨b, hb, he⟩ := exists_mem_farBytesAt (a := a) h
    have : ((farBytesAt a l).any fun b => b.1 / 8 == (a + i) / 8) = true := List.any_eq_true.2 ⟨b, hb, by simp [he]⟩
    rw [this]
    rfl
  unfold farByte
  rw [hf, farWrite_farBytesAt]
  exact Memory.read_writeList hw _ _ h

theorem farRead_congr {a n : Nat} (h : ∀ c, a ≤ c → c < a + n → farByte u c = farByte s c) : farRead u a n = farRead s a n := by
  refine List.map_congr_left fun i hi => ?_
  rw [h _ (by omega) (by have := List.mem_range.1 hi; omega)]

theorem farRead_farWrite {a k n : Nat} {l : List Byte} (hw : s.far.wf = true) (h : k + n ≤ l.length) :
    farRead (farWrite s (farBytesAt a l)) (a + k) n = (l.drop k).take n := by
  refine List.ext_getElem (by simp [farRead]; omega) fun i h1 h2 => ?_
  simp only [farRead, List.getElem_map, List.getElem_range, List.getElem_take, List.getElem_drop]
  have hi : i < n := by simpa [farRead] using h1
  rw [Nat.add_assoc]
  exact farByte_farWrite hw (by omega)

end Records
end Sys2Proof.Machine

namespace Sys2Proof.Machine

/-! # How a launch ends (R120, R369) -/

section Ends
open State
variable {s u : State}

/-! ## The record's words -/

/-- The words of a list of bytes that words make up. -/
theorem take_drop_words {ws : List (BitVec 64)} {k : Nat} (h : k < ws.length) :
    (((ws.map fun w => bytesOf w 8).flatten).drop (8 * k)).take 8 = bytesOf ws[k] 8 := by
  induction ws generalizing k with
  | nil => exact absurd h (Nat.not_lt_zero _)
  | cons w ws ih =>
    rw [List.map_cons, List.flatten_cons]
    cases k with
    | zero => simp
    | succ k =>
      have hk : 8 * (k + 1) = (bytesOf w 8).length + 8 * k := by rw [length_bytesOf]; omega
      rw [hk, List.drop_length_add_append, ih (by simpa using h)]
      rfl

theorem length_words (ws : List (BitVec 64)) : ((ws.map fun w => bytesOf w 8).flatten).length = 8 * ws.length := by
  simp [List.length_flatten, Function.comp_def]
  omega

/-- The words of a record. -/
def RecordWords.words (r : RecordWords) : List (BitVec 64) :=
  [BitVec.ofNat 64 (r.kind + 256 * r.reason + 2 ^ 32 * r.user.toNat), BitVec.ofNat 64 r.start, BitVec.ofNat 64 r.endTick,
    r.fault, r.ftick, r.fdata, BitVec.ofNat 64 r.haltb, BitVec.ofNat 64 r.tlmin]

theorem RecordWords.bytes_eq (r : RecordWords) : r.bytes = (r.words.map fun w => bytesOf w 8).flatten := rfl

theorem length_recordBytes (r : RecordWords) : r.bytes.length = 64 := by rw [r.bytes_eq, length_words]; rfl

/-- A word written to far memory is read back. -/
theorem leNat_farRead_word {a : Nat} (hw : s.far.wf = true) (v : BitVec 64) :
    leNat (farRead (farWrite s (farBytesAt a (bytesOf v 8))) a 8) = v.toNat := by
  have h := farRead_farWrite (s := s) (a := a) (k := 0) (n := 8) (l := bytesOf v 8) hw (by rw [length_bytesOf])
  rw [Nat.add_zero, List.drop_zero, List.take_of_length_le (by rw [length_bytesOf])] at h
  rw [h, leNat_word]

theorem toNat_pred_word {l : List Byte} (h : l.length = 8) :
    (bitsOfBytes 64 l - 1 : BitVec 64).toNat = (leNat l + (2 ^ 64 - 1)) % 2 ^ 64 := by
  have hl := leNat_lt l
  rw [h] at hl
  have hm : leNat l % 2 ^ 64 = leNat l := Nat.mod_eq_of_lt (hl.trans_eq (by norm_num))
  have h1 : (1 : BitVec 64).toNat = 1 := rfl
  rw [bitsOfBytes, BitVec.toNat_sub, BitVec.toNat_ofNat, hm, h1, Nat.add_comm]

/-- A record written in eight words, and a signal decremented. -/
theorem completed_writeCompletion (s : State) (crec sig : Nat) (r : RecordWords) {ws : List Nat}
    (hws : ∀ k < 8, (r.words.getD k 0).toNat = ws.getD k 0 % 2 ^ 64) : Completed s (writeCompletion s crec sig r) crec sig ws := by
  intro hc hs hne hwf
  have hl := length_recordBytes r
  generalize hv : farWrite s (farBytesAt crec r.bytes) = v
  have hu : writeCompletion s crec sig r = farWrite v (farBytesAt sig (bytesOf (bitsOfBytes 64 (farRead v sig 8) - 1) 8)) := by
    rw [← hv]; rfl
  have hvwf : v.far.wf = true := by
    rw [← hv, farWrite_farBytesAt]
    exact Memory.writeList_wf hwf _ _
  have hsig : farRead v sig 8 = farRead s sig 8 := by
    rw [← hv]
    exact farRead_congr fun c h1 h2 => farByte_farWrite_of_piece (by omega)
  rw [hu]
  refine ⟨fun k hk => ?_, ?_, fun a ha hb => ?_⟩
  · have hrec : farRead (farWrite v (farBytesAt sig (bytesOf (bitsOfBytes 64 (farRead v sig 8) - 1) 8))) (crec + 8 * k) 8 =
        farRead v (crec + 8 * k) 8 :=
      farRead_congr fun c h1 h2 => farByte_farWrite_of_piece (by rw [length_bytesOf]; omega)
    rw [hrec, ← hv, farRead_farWrite hwf (by omega), r.bytes_eq, take_drop_words (by simpa [RecordWords.words] using hk),
      leNat_word, ← hws k hk]
    congr 1
    exact (List.getD_eq_getElem _ _ _).symm
  · rw [leNat_farRead_word hvwf, hsig, toNat_pred_word (by simp [farRead])]
  · rw [farByte_farWrite_of_piece (by rw [length_bytesOf]; omega), ← hv, farByte_farWrite_of_piece (by omega)]

end Ends
end Sys2Proof.Machine

namespace Sys2Proof.Machine

/-! # The end of a launch (R120, R369) -/

section Launch
open State
variable {s u : State}

/-! ## What a stop shows in the mailbox -/

theorem mailboxDone_eq (s : State) (result : Byte) (r0 : Quad) : ∃ m, mailboxDone s result r0 = { s with mbox := m } := by
  unfold mailboxDone
  split
  · exact ⟨_, rfl⟩
  · exact ⟨_, rfl⟩

/-- A stop shows in nothing but the mailbox. -/
theorem claimStopped_eq (s : State) (cl : Nat) : ∃ m, claimStopped s cl = { s with mbox := m } := by
  unfold claimStopped
  dsimp only
  split
  · exact ⟨_, rfl⟩
  split
  · exact mailboxDone_eq _ _ _
  split
  · split <;> exact mailboxDone_eq _ _ _
  · exact ⟨_, rfl⟩

/-! ## The record of a launch -/

theorem settleLease_eq (s : State) (slot : Byte) : ∃ l, settleLease s slot = { s with todo := l } := by
  unfold settleLease
  split
  · exact ⟨_, rfl⟩
  · exact ⟨_, rfl⟩

theorem writeCompletion_eq (s : State) (crec sig : Nat) (r : RecordWords) :
    ∃ f m g, writeCompletion s crec sig r = { s with far := f, farMarks := m, farFlips := g } := by
  unfold writeCompletion
  dsimp only
  rw [farWrite_farBytesAt, farWrite_farBytesAt]
  exact ⟨_, _, _, rfl⟩

theorem foldl_min_le (l : List Nat) (n : Nat) : ∀ x ∈ n :: l, l.foldl min n ≤ x := by
  induction l generalizing n with
  | nil => simp
  | cons y l ih =>
    have h := ih (min n y)
    simp only [List.mem_cons, List.foldl_cons, forall_eq_or_imp] at h ⊢
    exact ⟨h.1.trans (min_le_left _ _), h.1.trans (min_le_right _ _), h.2⟩

theorem foldl_min_mem (l : List Nat) (n : Nat) : l.foldl min n ∈ n :: l := by
  induction l generalizing n with
  | nil => simp
  | cons y l ih =>
    rw [List.foldl_cons]
    rcases List.mem_cons.1 (ih (min n y)) with h | h
    · rw [h]
      rcases min_choice n y with h | h <;> simp [h]
    · exact List.mem_cons_of_mem _ (List.mem_cons_of_mem _ h)

theorem lowestTimeline_tlMin (s : State) (c : Claim) : LowestTimeline s c ((tlMin s c).getD 0) := by
  unfold tlMin LowestTimeline
  cases hb : c.binds with
  | nil => simp
  | cons b l =>
    have hle := foldl_min_le (l.map fun b => (s.ctxOf b.ctx).timeline) (s.ctxOf b.ctx).timeline
    have hmem := foldl_min_mem (l.map fun b => (s.ctxOf b.ctx).timeline) (s.ctxOf b.ctx).timeline
    rw [← List.map_cons (f := fun b : Binding => (s.ctxOf b.ctx).timeline)] at hle hmem
    obtain ⟨x, hx, he⟩ := List.mem_map.1 hmem
    exact ⟨by simp, fun y hy => hle _ (List.mem_map_of_mem hy), fun _ => ⟨x, hx, he.symm⟩⟩

/-- The fault words of a record as numbers. -/
def faultNumbers (c : Claim) (halt : Bool) : List Nat :=
  match (if halt then c.firstErr else none) with
  | some e => [0x60 + e.core * 2 ^ 8 + e.x * 2 ^ 16 + e.y * 2 ^ 24 + min c.faultCount 0xFFFF * 2 ^ 32, e.tick, e.place.toNat]
  | none => primaryFault c

theorem faultNumbers_eq (c : Claim) (halt : Bool) : ∃ a b d, faultNumbers c halt = [a, b, d] ∧
    (faultWords c halt).1.toNat = a % 2 ^ 64 ∧ (faultWords c halt).2.1.toNat = b % 2 ^ 64 ∧
    (faultWords c halt).2.2.toNat = d % 2 ^ 64 := by
  have hq : ∀ q : Quad, q.toNat = q.toNat % 2 ^ 64 := fun q => (Nat.mod_eq_of_lt q.isLt).symm
  have hword : ∀ cause core x y n : Nat,
      (BitVec.ofNat 64 (cause + 256 * core + 65536 * x + 2 ^ 24 * y + 2 ^ 32 * n)).toNat =
        (cause + core * 2 ^ 8 + x * 2 ^ 16 + y * 2 ^ 24 + n * 2 ^ 32) % 2 ^ 64 := fun cause core x y n => by
    rw [BitVec.toNat_ofNat]
    congr 1
    omega
  unfold faultNumbers faultWords primaryFault
  dsimp only
  cases (if halt then c.firstErr else none) with
  | some e => exact ⟨_, _, _, rfl, hword .., BitVec.toNat_ofNat .., hq _⟩
  | none =>
    cases c.faults with
    | nil => exact ⟨_, _, _, rfl, rfl, rfl, rfl⟩
    | cons f l => exact ⟨_, _, _, rfl, hword .., BitVec.toNat_ofNat .., hq _⟩

theorem farByte_congr (hf : u.far = s.far) (hm : u.farMarks = s.farMarks) (hg : u.farFlips = s.farFlips) : farByte u = farByte s := by
  funext a
  simp only [farByte, farView, hf, hm, hg]

theorem farRead_congr_fun (h : farByte u = farByte s) : farRead u = farRead s := by
  funext a n
  simp only [farRead, h]

theorem Completed.congr {v w : State} {crec sig : Nat} {ws : List Nat} (h : Completed s u crec sig ws)
    (hf : v.far = s.far) (hv : farByte v = farByte s) (hw : farByte w = farByte u) : Completed v w crec sig ws := by
  unfold Completed at h ⊢
  rwa [hf, farRead_congr_fun hv, farRead_congr_fun hw, hv, hw]

/-- The record of a launch that ends. -/
def endRecord (s : State) (c : Claim) (kind endTick haltb : Nat) : RecordWords where
  kind := kind
  reason := 0
  user := c.user
  start := c.start
  endTick := endTick
  fault := (faultWords c (kind == 4)).1
  ftick := (faultWords c (kind == 4)).2.1
  fdata := (faultWords c (kind == 4)).2.2
  haltb := haltb
  tlmin := (tlMin s c).getD 0

theorem map_words_endRecord (s : State) (c : Claim) (kind endTick haltb : Nat) :
    (endRecord s c kind endTick haltb).words.map BitVec.toNat = ([kind + c.user.toNat * 2 ^ 32, c.start, endTick] ++
      faultNumbers c (kind == 4) ++ [haltb, (tlMin s c).getD 0]).map (· % 2 ^ 64) := by
  obtain ⟨a, b, d, hf, ha, hb, hd⟩ := faultNumbers_eq c (kind == 4)
  have h0 : kind + 256 * 0 + 2 ^ 32 * c.user.toNat = kind + c.user.toNat * 2 ^ 32 := by omega
  simp only [RecordWords.words, endRecord, hf, List.map_cons, List.map_nil, List.cons_append, List.nil_append,
    BitVec.toNat_ofNat, ha, hb, hd, h0]

theorem words_endRecord (s : State) (c : Claim) (kind endTick haltb k : Nat) :
    ((endRecord s c kind endTick haltb).words.getD k 0).toNat = ([kind + c.user.toNat * 2 ^ 32, c.start, endTick] ++
      faultNumbers c (kind == 4) ++ [haltb, (tlMin s c).getD 0]).getD k 0 % 2 ^ 64 := by
  have h0 : BitVec.toNat (0 : BitVec 64) = 0 % 2 ^ 64 := rfl
  rw [← List.getD_map (f := BitVec.toNat), map_words_endRecord, h0, List.getD_map _ 0 (· % 2 ^ 64)]

/-- The module as a claim's fields are freed: its operations are gone, and what waited for its moves follows. -/
def freed (s : State) (cl endTick : Nat) (sat : Bool) : State :=
  { s.setClaim cl { s.claimOf cl with run := .ended endTick sat, vitrine := [], moves := [] } with
    agenda := s.agenda.filter fun e => e.claim != cl
    todo := s.todo ++ (s.claimOf cl).moves.map fun m => .ev m.event }

theorem finishLaunch_eq {cl : Nat} (h : (s.claimOf cl).fleet = false) (kind endTick haltb : Nat) (sat : Bool) :
    finishLaunch s cl kind endTick haltb sat = settleLease (writeCompletion (freed s cl endTick sat) (s.claimOf cl).crec
      (s.claimOf cl).sig (endRecord s (s.claimOf cl) kind endTick haltb)) (s.claimOf cl).slot := by
  unfold finishLaunch
  dsimp only
  rw [if_neg (by rw [h]; exact Bool.false_ne_true)]
  rfl

/-- A launch that is no part of a fleet's ends. -/
theorem launchEnds_finishLaunch {cl : Nat} (h : (s.claimOf cl).fleet = false) (kind endTick haltb : Nat) (sat : Bool) :
    ((finishLaunch s cl kind endTick haltb sat).claimOf cl).run = .ended endTick sat ∧
      LaunchEnds s (finishLaunch s cl kind endTick haltb sat) cl kind endTick haltb (faultNumbers (s.claimOf cl) (kind == 4)) := by
  rw [finishLaunch_eq h]
  have hcomp := completed_writeCompletion (freed s cl endTick sat) (s.claimOf cl).crec (s.claimOf cl).sig
    (endRecord s (s.claimOf cl) kind endTick haltb) fun k _ => words_endRecord s (s.claimOf cl) kind endTick haltb k
  obtain ⟨l, hl⟩ := settleLease_eq (writeCompletion (freed s cl endTick sat) (s.claimOf cl).crec (s.claimOf cl).sig
    (endRecord s (s.claimOf cl) kind endTick haltb)) (s.claimOf cl).slot
  obtain ⟨f, m, g, hw⟩ := writeCompletion_eq (freed s cl endTick sat) (s.claimOf cl).crec (s.claimOf cl).sig
    (endRecord s (s.claimOf cl) kind endTick haltb)
  rw [hl]
  rw [hw] at hcomp ⊢
  have hrun : ((freed s cl endTick sat).claimOf cl).run = .ended endTick sat := congrArg Claim.run (State.claimOf_setClaim s cl _)
  refine ⟨hrun, ⟨sat, hrun⟩, fun k hk => State.claimOf_setClaim_ne s cl k _ hk, fun e he => ?_, rfl, rfl, _,
    lowestTimeline_tlMin s (s.claimOf cl), hcomp.congr rfl (farByte_congr rfl rfl rfl) (farByte_congr rfl rfl rfl)⟩
  obtain ⟨hm, hc⟩ := List.mem_filter.1 he
  exact ⟨by simpa using hc, hm⟩

/-! ## Evaluation and release -/

/-- What has no part in a launch's end may differ before it. -/
theorem LaunchEnds.congr {v : State} {cl kind endTick haltb : Nat} {fault : List Nat} {run : ClaimRun} {m : Mailbox}
    (hv : v = { s.setClaim cl { s.claimOf cl with run := run } with mbox := m })
    (h : LaunchEnds v u cl kind endTick haltb fault) : LaunchEnds s u cl kind endTick haltb fault := by
  obtain ⟨hr, hk, ha, hc, ht, tl, hl, hw⟩ := h
  have hcl : v.claimOf cl = { s.claimOf cl with run := run } := by rw [hv]; exact State.claimOf_setClaim _ _ _
  rw [hcl] at hl hw
  subst hv
  exact ⟨hr, fun k hne => (hk k hne).trans (State.claimOf_setClaim_ne s cl k _ hne), ha, hc, ht, tl, hl,
    hw.congr rfl (farByte_congr rfl rfl rfl) rfl⟩

/-- Whether the evaluation finds a claim satisfied (R120). -/
def satisfied (c : Claim) : Bool :=
  match c.mech with
  | .weight => c.returned == 2 ^ 32
  | .jcb => c.jcount == c.jtotal && !c.jbad

theorem satisfied_iff (c : Claim) : satisfied c = true ↔
    (c.mech = .weight ∧ c.returned = 2 ^ 32) ∨ (c.mech = .jcb ∧ c.jcount = c.jtotal ∧ c.jbad = false) := by
  unfold satisfied
  cases c.mech <;> simp

theorem evaluateClaim_eq (s : State) (cl : Nat) : evaluateClaim s cl =
    finishLaunch (claimStopped (s.setClaim cl { s.claimOf cl with run := .ended (s.claimOf cl).tick (satisfied (s.claimOf cl)) }) cl)
      cl (if satisfied (s.claimOf cl) then 0 else 1) (s.claimOf cl).tick 0 (satisfied (s.claimOf cl)) := rfl

theorem evaluateClaim_ends {cl : Nat} (h : (s.claimOf cl).fleet = false) {sat : Bool} (hs : satisfied (s.claimOf cl) = sat) :
    ((evaluateClaim s cl).claimOf cl).run = .ended (s.claimOf cl).tick sat ∧
      LaunchEnds s (evaluateClaim s cl) cl (if sat then 0 else 1) (s.claimOf cl).tick 0 (primaryFault (s.claimOf cl)) := by
  rw [evaluateClaim_eq, hs]
  obtain ⟨m, hm⟩ := claimStopped_eq (s.setClaim cl { s.claimOf cl with run := .ended (s.claimOf cl).tick sat }) cl
  rw [hm]
  generalize hv : ({ s.setClaim cl { s.claimOf cl with run := .ended (s.claimOf cl).tick sat } with mbox := m } : State) = v
  have hcl : v.claimOf cl = { s.claimOf cl with run := .ended (s.claimOf cl).tick sat } := by
    rw [← hv]; exact State.claimOf_setClaim _ _ _
  obtain ⟨hr, hl⟩ := launchEnds_finishLaunch (s := v) (cl := cl) (by rw [hcl]; exact h) (if sat then 0 else 1)
    (s.claimOf cl).tick 0 sat
  refine ⟨hr, LaunchEnds.congr hv.symm ?_⟩
  rw [hcl] at hl
  cases sat <;> exact hl

end Launch
end Sys2Proof.Machine

namespace Sys2Proof.Machine

/-! # Arrays that finish what they have accepted (R250) -/

section Finish
open State
variable {s u v : State} {cl : Nat}

/-- What the arrays' last steps leave alone: strands, far memory, what comes in and goes out, each claim but for its first
uncorrectable error, and every operation planned. -/
structure Quiet (s u : State) : Prop where
  cores : u.cores = s.cores
  far : u.far = s.far
  inputs : u.inputs = s.inputs
  wall : u.wall = s.wall
  fleetMsgs : u.fleetMsgs = s.fleetMsgs
  claim : ∀ k, ∃ e, u.claimOf k = { s.claimOf k with firstErr := e }
  agenda : s.agenda ⊆ u.agenda

theorem Quiet.of_claims (hc : u.cores = s.cores) (hf : u.far = s.far) (hi : u.inputs = s.inputs) (hw : u.wall = s.wall)
    (hm : u.fleetMsgs = s.fleetMsgs) (hk : u.claims = s.claims) (ha : s.agenda ⊆ u.agenda) : Quiet s u :=
  ⟨hc, hf, hi, hw, hm, fun k => ⟨(s.claimOf k).firstErr, claimOf_congr hk k⟩, ha⟩

theorem Quiet.refl (s : State) : Quiet s s := .of_claims rfl rfl rfl rfl rfl rfl fun _ => id

theorem Quiet.trans (h : Quiet s u) (k : Quiet u v) : Quiet s v where
  cores := k.cores.trans h.cores
  far := k.far.trans h.far
  inputs := k.inputs.trans h.inputs
  wall := k.wall.trans h.wall
  fleetMsgs := k.fleetMsgs.trans h.fleetMsgs
  claim i := by
    obtain ⟨a, ha⟩ := h.claim i
    obtain ⟨b, hb⟩ := k.claim i
    exact ⟨b, by rw [hb, ha]⟩
  agenda := fun _ he => k.agenda (h.agenda he)

theorem quiet_setTile (s : State) (t : TileId) (x : Tile) : Quiet s (s.setTile t x) := .of_claims rfl rfl rfl rfl rfl rfl fun _ => id

theorem quiet_modTile (s : State) (t : TileId) (f : Tile → Tile) : Quiet s (s.modTile t f) := quiet_setTile s t _

theorem quiet_plan (s : State) (e : Sched) : Quiet s (s.plan e) :=
  .of_claims rfl rfl rfl rfl rfl rfl fun _ he => List.mem_append_left _ he

theorem quiet_planEv (s : State) (c n p : Nat) (i : Event) : Quiet s (s.planEv c n p i) := quiet_plan s _

theorem quiet_ctxs (s : State) (c : List (CtxId × Ctx)) : Quiet s { s with ctxs := c } := .of_claims rfl rfl rfl rfl rfl rfl fun _ => id

theorem quiet_foldl {α : Type} {f : State → α → State} (hf : ∀ s x, Quiet s (f s x)) (l : List α) (s : State) :
    Quiet s (l.foldl f s) := by
  induction l generalizing s with
  | nil => exact .refl s
  | cons x l ih => exact (hf s x).trans (ih _)

theorem quiet_firstErr (s : State) (cl : Nat) (e : Option ErrRec) : Quiet s (s.modClaim cl fun c => { c with firstErr := e }) := by
  refine ⟨rfl, rfl, rfl, rfl, rfl, fun k => ?_, fun _ => id⟩
  by_cases hk : k = cl
  · subst hk
    exact ⟨e, State.claimOf_modClaim _ _ _⟩
  · exact ⟨(s.claimOf k).firstErr, State.claimOf_modClaim_ne _ _ _ _ hk⟩

theorem quiet_uncorrectable (s : State) (i : TileId) (core : Nat) (place : Quad) : Quiet s (uncorrectable s i core place) := by
  unfold uncorrectable
  split
  · exact .refl s
  · exact (quiet_firstErr _ _ _).trans (quiet_planEv _ _ _ _ _)

theorem quiet_checkRead (s : State) (i : TileId) (core : Nat) (bank : BitVec 6) (cells : List (Option Nat)) :
    Quiet s (checkRead s i core bank cells) := by
  unfold checkRead
  split
  · exact .refl s
  · exact (quiet_uncorrectable _ _ _ _).trans (quiet_modTile _ _ _)

theorem quiet_commitBytes (s : State) (i : TileId) (core : Nat) (bank : BitVec 6) (l : List BankByte) :
    Quiet s (commitBytes s i core bank l) := by
  unfold commitBytes countRows
  dsimp only
  refine Quiet.trans ?_ ((quiet_setTile _ _ _).trans (quiet_ctxs _ _))
  split
  · exact .refl s
  · exact quiet_uncorrectable _ _ _ _

theorem quiet_commitAccRow (s : State) (i : TileId) (bank : BitVec 6) (row : Nat) (l : List BankByte) :
    Quiet s (commitAccRow s i bank row l) := by
  unfold commitAccRow
  dsimp only
  split
  · exact (quiet_setTile _ _ _).trans (quiet_commitBytes _ _ _ _ _)
  · exact quiet_commitBytes _ _ _ _ _

theorem quiet_touchArray (s : State) (t : TileId) (bank : BitVec 6) : Quiet s (touchArray s t bank) := quiet_modTile _ _ _

theorem quiet_groupAdd (s : State) (t : TileId) (o : MmaOp) (b g : Nat) : Quiet s (groupAdd s t o b g) := by
  unfold groupAdd
  dsimp only
  refine Quiet.trans ?_ ((quiet_checkRead _ _ _ _ _).trans ((quiet_checkRead _ _ _ _ _).trans (quiet_setTile _ _ _)))
  split
  · exact (quiet_touchArray _ _ _).trans (quiet_checkRead _ _ _ _ _)
  · exact .refl s

theorem quiet_blockWrite (s : State) (t : TileId) (o : MmaOp) (b : Nat) : Quiet s (blockWrite s t o b) := by
  unfold blockWrite
  dsimp only
  exact (quiet_modTile _ _ _).trans ((quiet_touchArray _ _ _).trans (quiet_foldl (fun _ _ => quiet_commitAccRow _ _ _ _ _) _ _))

theorem quiet_transferRow (s : State) (t : TileId) (p : StageStep) : Quiet s (transferRow s t p) := by
  cases p with
  | read st bank cells db dst => exact (quiet_checkRead _ _ _ _ _).trans (quiet_plan _ _)
  | write db dst row => exact quiet_commitBytes _ _ _ _ _

theorem quiet_planSend (s : State) (t : TileId) (a : ArraySend) (n : Nat) : Quiet s (planSend s t a n) := by
  unfold planSend
  split
  · exact .refl s
  · exact quiet_planEv _ _ _ _ _

theorem quiet_startSends (s : State) (t : TileId) (o : MmaOp) : Quiet s (startSends s t o) := by
  unfold startSends
  dsimp only
  generalize hv : (if (o.coop && o.gc == 0) = true then _ else s) = v
  have h : Quiet s v := by
    subst hv
    split
    · exact (quiet_setTile _ _ _).trans (quiet_planSend _ _ _ _)
    · exact .refl s
  split
  · exact h.trans ((quiet_setTile _ _ _).trans (quiet_planSend _ _ _ _))
  · exact h

theorem quiet_withOp {t : TileId} {op : Nat} {f : MmaOp → State} (hf : ∀ o, Quiet s (f o)) : Quiet s (withOp s t op f) := by
  unfold withOp
  split
  · exact hf _
  · exact .refl s

theorem quiet_stageEarly (s : State) (t : TileId) (p : StageStep) (e : Sched) (b : Nat) : Quiet s (stageEarly s t p e b) := by
  unfold stageEarly
  dsimp only
  exact (quiet_setTile _ _ _).trans ((quiet_transferRow _ _ _).trans (quiet_modTile _ _ _))

theorem quiet_writeEarly (s : State) (t : TileId) (o : MmaOp) (b : Nat) (e : Sched) : Quiet s (writeEarly s t o b e) := by
  unfold writeEarly
  dsimp only
  exact (quiet_blockWrite _ _ _ _).trans ((quiet_ctxs _ _).trans (quiet_plan _ _))

/-- Every step of an array is quiet, and the landing that R250 lets happen clears an accumulator tile. -/
theorem quiet_finishStep {w : State} {e : Sched} (h : e.arrayStep w = true) (s : State) (b : Nat) : Quiet s (finishStep s b e) := by
  unfold finishStep
  split
  · exact quiet_stageEarly _ _ _ _ _
  · exact quiet_transferRow _ _ _
  · exact quiet_withOp fun o => quiet_startSends _ _ _
  · exact quiet_withOp fun o => quiet_groupAdd _ _ _ _ _
  · exact quiet_withOp fun o => quiet_writeEarly _ _ _ _ _
  next st l ha =>
    obtain ⟨n, rfl⟩ : ∃ n, l = .zeroTile n := by
      unfold Sched.arrayStep at h
      rw [ha] at h
      cases l with
      | zeroTile n => exact ⟨n, rfl⟩
      | _ => exact absurd h (by simp)
    exact (quiet_modTile s st.tile _).trans (quiet_plan _ _)
  · exact .refl s

/-! ## All their steps -/

/-- What arrays that finish leave alone, but for the count of the claim that stops and its operations. -/
structure Finishing (s u : State) (cl : Nat) : Prop where
  cores : u.cores = s.cores
  far : u.far = s.far
  inputs : u.inputs = s.inputs
  wall : u.wall = s.wall
  fleetMsgs : u.fleetMsgs = s.fleetMsgs
  claim : ∃ n e, u.claimOf cl = { s.claimOf cl with tick := n, firstErr := e }
  agenda : ∀ e ∈ s.agenda, e.claim ≠ cl → e ∈ u.agenda

theorem Finishing.trans (h : Finishing s u cl) (k : Finishing u v cl) : Finishing s v cl where
  cores := k.cores.trans h.cores
  far := k.far.trans h.far
  inputs := k.inputs.trans h.inputs
  wall := k.wall.trans h.wall
  fleetMsgs := k.fleetMsgs.trans h.fleetMsgs
  claim := by
    obtain ⟨n, a, ha⟩ := h.claim
    obtain ⟨m, b, hb⟩ := k.claim
    exact ⟨m, b, by rw [hb, ha]⟩
  agenda := fun e he hc => k.agenda e (h.agenda e he hc) hc

theorem Quiet.finishing (h : Quiet s u) (cl : Nat) : Finishing s u cl := by
  obtain ⟨e, he⟩ := h.claim cl
  exact ⟨h.cores, h.far, h.inputs, h.wall, h.fleetMsgs, ⟨_, e, he⟩, fun _ hx _ => h.agenda hx⟩

theorem claimOf_moveCount (s : State) (cl n : Nat) : (moveCount s cl n).claimOf cl = { s.claimOf cl with tick := n } :=
  State.claimOf_modClaim _ _ _

theorem finishing_moveCount (s : State) (cl n : Nat) : Finishing s (moveCount s cl n) cl :=
  ⟨rfl, rfl, rfl, rfl, rfl, ⟨n, (s.claimOf cl).firstErr, claimOf_moveCount s cl n⟩, fun _ he _ => he⟩

theorem mem_of_leastSched {l : List Sched} {e : Sched} (h : leastSched l = some e) : e ∈ l := by
  induction l generalizing e with
  | nil => exact absurd h (by simp [leastSched])
  | cons x l ih =>
    unfold leastSched at h
    split at h
    · exact Option.some.inj h ▸ List.mem_cons_self
    next b hb =>
      split at h
      · exact Option.some.inj h ▸ List.mem_cons_of_mem _ (ih hb)
      · exact Option.some.inj h ▸ List.mem_cons_self

theorem finishing_erase {e : Sched} (h : e.claim = cl) : Finishing s { s with agenda := s.agenda.erase e } cl :=
  ⟨rfl, rfl, rfl, rfl, rfl, ⟨(s.claimOf cl).tick, (s.claimOf cl).firstErr, rfl⟩, fun x hx hc =>
    (List.mem_erase_of_ne (show x ≠ e from fun he => hc (by rw [he, h]))).2 hx⟩

theorem finishing_finishArrays (cl b fuel : Nat) (s : State) : Finishing s (finishArrays cl b fuel s) cl := by
  induction fuel generalizing s with
  | zero => exact (Quiet.refl s).finishing cl
  | succ n ih =>
    unfold finishArrays
    split
    · exact (Quiet.refl s).finishing cl
    next e he =>
      obtain ⟨-, hc⟩ := List.mem_filter.1 (mem_of_leastSched he)
      obtain ⟨hcl, ha⟩ : e.claim = cl ∧ e.arrayStep s = true := by simpa using hc
      exact (finishing_erase hcl).trans ((finishing_moveCount _ _ _).trans
        (((quiet_finishStep ha _ _).finishing cl).trans (ih _)))

/-- Arrays that finish at a stop: the claim's count is at its tick again. -/
theorem finishing_settleArrays (s : State) (cl : Nat) : Finishing s (settleArrays s cl) cl :=
  ((finishing_finishArrays cl (s.now cl) arraySteps s).trans (finishing_moveCount _ cl (s.now cl))).trans
    ⟨rfl, rfl, rfl, rfl, rfl, ⟨_, _, rfl⟩, fun _ he _ => he⟩

theorem claimOf_settleArrays (s : State) (cl : Nat) :
    ∃ e, (settleArrays s cl).claimOf cl = { s.claimOf cl with firstErr := e } := by
  obtain ⟨n, e, h⟩ := (finishing_finishArrays cl (s.now cl) arraySteps s).claim
  refine ⟨e, (claimOf_moveCount (finishArrays cl (s.now cl) arraySteps s) cl (s.now cl)).trans ?_⟩
  rw [h]
  rfl

end Finish
end Sys2Proof.Machine

namespace Sys2Proof.Machine

/-! # Stops of a claim (R122, R341, R344, R346, R363, R368) -/

section Stops
open State
variable {s u v : State} {cl : Nat}

theorem isRunning_iff (s : State) (cl : Nat) : isRunning s cl = true ↔ Runs s cl := by
  simp [isRunning, Runs]

theorem isRunning_eq_false (h : ¬ Runs s cl) : isRunning s cl = false := by
  rw [← isRunning_iff] at h
  simpa using h

theorem driftFree_iff (s : State) (cl : Nat) : driftFree s cl = true ↔ NoDrift s cl := by
  simp only [driftFree, NoDrift, List.all_eq_true, Bool.or_eq_true, bne_iff_ne, Bool.and_eq_true, beq_iff_eq]
  exact forall₂_congr fun p _ => imp_iff_not_or.symm

theorem mayStop_iff (s : State) (cl : Nat) : mayStop s cl = true ↔ StopsHere s cl := by
  have hsec : inSection s cl = false ↔ ∀ st ∈ strandsOf s cl, (s.coreOf st).npre = none := by
    simp [inSection, List.any_eq_false]
  have hstop : (s.agenda.any fun e => e.claim == cl && e.tick == s.now cl && e.phase == phStop) = false ↔
      ∀ e ∈ s.agenda, e.claim = cl → e.tick = s.now cl → e.phase ≠ phStop := by
    simp [List.any_eq_false]
  simp only [mayStop, StopsHere, Bool.and_eq_true, isRunning_iff, beq_iff_eq, Bool.not_eq_true', hsec, hstop, State.replay,
    Option.isNone_iff_eq_none, and_assoc]

theorem driftedTile_claim (s : State) (cl : Nat) : (driftedTile s cl).claim = cl := by
  unfold driftedTile
  split
  next p h =>
    have := List.find?_some h
    simp only [Bool.and_eq_true, beq_iff_eq] at this
    exact this.1
  next => rfl

/-! ## A count that stands -/

/-- A claim whose count stands, with what was in flight. -/
def stoodClaim (s : State) (cl : Nat) (run : ClaimRun) : Claim :=
  { s.claimOf cl with
    run := run
    vitrine := (s.agenda.filter fun e => e.claim == cl).map fun e => { e with tick := e.tick - s.now cl } }

theorem claimOf_standStill (s : State) (cl : Nat) (run : ClaimRun) : (standStill s cl run).claimOf cl = stoodClaim s cl run :=
  (claimOf_congr (s := s.setClaim cl (stoodClaim s cl run)) rfl cl).trans (State.claimOf_setClaim _ _ _)

/-- What leaves a claim's count and everything but its own operations as they were before it stops. -/
structure Stopping (s v : State) (cl : Nat) : Prop where
  cores : v.cores = s.cores
  far : v.far = s.far
  inputs : v.inputs = s.inputs
  wall : v.wall = s.wall
  tick : (v.claimOf cl).tick = (s.claimOf cl).tick
  agenda : ∀ e ∈ s.agenda, e.claim ≠ cl → e ∈ v.agenda

theorem stopping_refl (s : State) (cl : Nat) : Stopping s s cl := ⟨rfl, rfl, rfl, rfl, rfl, fun _ he _ => he⟩

theorem stopping_settleArrays (s : State) (cl : Nat) : Stopping s (settleArrays s cl) cl := by
  have h := finishing_settleArrays s cl
  obtain ⟨e, he⟩ := claimOf_settleArrays s cl
  exact ⟨h.cores, h.far, h.inputs, h.wall, by rw [he], h.agenda⟩

theorem Stopping.recordAbort (h : Stopping s v cl) : Stopping s (Machine.recordAbort v cl) cl :=
  ⟨h.cores, h.far, h.inputs, h.wall, by rw [Machine.recordAbort, claimOf_recordFault]; exact h.tick, h.agenda⟩

/-- A count stands, whatever the mailbox shows and the curator waits for. -/
theorem Stopping.standsStill {w : State} (h : Stopping s v cl) (run : ClaimRun) (hc : w.claims = (standStill v cl run).claims)
    (hk : w.cores = v.cores) (hf : w.far = v.far) (ha : w.agenda = v.agenda.filter fun e => e.claim != cl) :
    StandsStill s w cl run := by
  have hcl := (claimOf_congr hc cl).trans (claimOf_standStill v cl run)
  refine ⟨by rw [hcl]; rfl, by rw [hcl]; exact h.tick, hk.trans h.cores, hf.trans h.far, fun e he => ?_, fun e he hne => ?_⟩
  · rw [ha] at he
    exact bne_iff_ne.1 (List.mem_filter.1 he).2
  · exact ha ▸ List.mem_filter.2 ⟨h.agenda e he hne, bne_iff_ne.2 hne⟩

theorem stopForRelease_eq (s : State) (cl : Nat) (run : ClaimRun) : ∃ m, stopForRelease s cl run =
    { standStill s cl run with mbox := m, inputs := s.inputs ++ [(s.wall + 1, .claimRelease cl)] } := by
  obtain ⟨m, hm⟩ := claimStopped_eq (standStill s cl run) cl
  exact ⟨m, by rw [stopForRelease, hm]; rfl⟩

/-- A stop that the curator releases: the count stands, and the release is asked for. -/
theorem Stopping.stopForRelease (h : Stopping s v cl) (run : ClaimRun) :
    StandsStill s (Machine.stopForRelease v cl run) cl run ∧
      (Machine.stopForRelease v cl run).inputs = s.inputs ++ [(s.wall + 1, .claimRelease cl)] ∧
      (Machine.stopForRelease v cl run).tiles = v.tiles ∧
      (Machine.stopForRelease v cl run).claimOf cl = (standStill v cl run).claimOf cl := by
  obtain ⟨m, hm⟩ := stopForRelease_eq v cl run
  rw [hm]
  exact ⟨h.standsStill run rfl rfl rfl rfl, by rw [← h.inputs, ← h.wall], rfl, rfl⟩

/-! ## Fatal stops, halts and aborts -/

theorem fatalStop_stands (h : Runs s cl) : ∃ u, exec (.fatalStop cl) s = .next u ∧ StandsStill s u cl (.faulted (s.now cl)) ∧
    u.tiles = s.tiles ∧ u.inputs = s.inputs ++ [(s.wall + 1, .claimRelease cl)] := by
  obtain ⟨h1, h2, h3, -⟩ := (stopping_refl s cl).stopForRelease (.faulted (s.now cl))
  refine ⟨_, ?_, h1, h3, h2⟩
  show execFatalStop cl s = _
  rw [execFatalStop, if_pos ((isRunning_iff s cl).2 h)]

theorem exec_uncorrectableHalt (h : Runs s cl) (hf : (s.claimOf cl).fatal = none) : exec (.uncorrectableHalt cl) s =
    .next (stopOrDrift s cl fun s => stopForRelease (settleArrays s cl) cl (.haltedAt (s.now cl))) := by
  show execUncorrectableHalt cl s = _
  rw [execUncorrectableHalt, if_pos (by simp [(isRunning_iff s cl).2 h, hf])]

theorem stopOrDrift_of_noDrift (h : NoDrift s cl) (f : State → State) : stopOrDrift s cl f = f s := if_pos ((driftFree_iff s cl).2 h)

theorem stopOrDrift_of_drift (h : ¬ NoDrift s cl) (f : State → State) :
    stopOrDrift s cl f = claimFault s (driftedTile s cl) 0x32 0 := if_neg fun hd => h ((driftFree_iff s cl).1 hd)

theorem uncorrectableHalt_stands (h : Runs s cl) (hf : (s.claimOf cl).fatal = none) (hd : NoDrift s cl) :
    ∃ u, exec (.uncorrectableHalt cl) s = .next u ∧ StandsStill s u cl (.haltedAt (s.now cl)) ∧
      u.inputs = s.inputs ++ [(s.wall + 1, .claimRelease cl)] := by
  obtain ⟨h1, h2, -⟩ := (stopping_settleArrays s cl).stopForRelease (.haltedAt (s.now cl))
  exact ⟨_, by rw [exec_uncorrectableHalt h hf, stopOrDrift_of_noDrift hd], h1, h2⟩

theorem uncorrectableHalt_drifts (h : Runs s cl) (hf : (s.claimOf cl).fatal = none) (hd : ¬ NoDrift s cl) :
    ∃ u t, t.claim = cl ∧ exec (.uncorrectableHalt cl) s = .next u ∧ ClaimFaulted s u t 0x32 :=
  ⟨_, driftedTile s cl, driftedTile_claim s cl, by rw [exec_uncorrectableHalt h hf, stopOrDrift_of_drift hd],
    claimFaulted_claimFault _ _ _ _⟩

theorem abortStop_stands (h : Runs s cl) (hf : (s.claimOf cl).fatal = none) (he : (s.claimOf cl).firstErr = none) :
    ∃ u, exec (.abortStop cl) s = .next u ∧ StandsStill s u cl (.aborted (s.now cl)) ∧
      u.inputs = s.inputs ++ [(s.wall + 1, .claimRelease cl)] ∧
      (u.claimOf cl).faultCount = (s.claimOf cl).faultCount + 1 ∧
      ((s.claimOf cl).faults.length < 64 →
        ∃ r ∈ (u.claimOf cl).faults, r.cause = 0x61 ∧ r.core = 15 ∧ r.tick = s.now cl) := by
  have hx : exec (.abortStop cl) s = .next (stopForRelease (recordAbort (settleArrays s cl) cl) cl (.aborted (s.now cl))) := by
    show execAbortStop cl s = _
    rw [execAbortStop, if_pos (by simp [(isRunning_iff s cl).2 h, hf, he])]
  obtain ⟨e, hcl⟩ := claimOf_settleArrays s cl
  obtain ⟨h1, h2, -, h4⟩ := (stopping_settleArrays s cl).recordAbort.stopForRelease (.aborted (s.now cl))
  have hnow : (settleArrays s cl).now cl = s.now cl := (stopping_settleArrays s cl).tick
  rw [claimOf_standStill, stoodClaim, recordAbort, claimOf_recordFault, hcl, hnow] at h4
  refine ⟨_, hx, h1, h2, ?_, fun hl => ?_⟩
  · rw [recordAbort, hnow, h4]
  · rw [recordAbort, hnow, h4]
    exact ⟨_, mem_take_insertFault _ hl, rfl, rfl, rfl⟩

end Stops
end Sys2Proof.Machine

namespace Sys2Proof.Machine

/-! # Pre-emption (R122, R346, R363) -/

section Preempt
open State
variable {s u v : State} {cl : Nat}

/-! ## Arrays at rest -/

theorem finishArrays_idle (h : ArraysIdle s cl) (b fuel : Nat) : finishArrays cl b fuel s = s := by
  cases fuel with
  | zero => rfl
  | succ n =>
    have hn : (s.agenda.filter fun e => e.claim == cl && e.arrayStep s) = [] :=
      List.filter_eq_nil_iff.2 fun e he => by
        by_cases hc : e.claim = cl
        · simp [hc, h e he hc]
        · simp [hc]
    unfold finishArrays
    rw [hn]
    rfl

/-- Whole turns leave a wheel position where it is. -/
theorem turnWheels_whole (cl : Nat) {d : Nat} (hd : 0 < s.wheel → d = 0) (hw : ∀ p ∈ s.tiles, p.2.wheel.toNat < s.wheel) :
    (turnWheels s cl d).tiles = s.tiles := by
  unfold turnWheels
  refine (List.map_congr_left fun p hp => ?_).trans (List.map_id _)
  have hp := hw p hp
  rw [hd (by omega), Nat.add_zero, Nat.mod_eq_of_lt hp]
  split
  · simp
  · rfl

theorem tileOf_of_nodup (h : (s.tiles.map fun p => p.1).Nodup) {p : TileId × Tile} (hp : p ∈ s.tiles) : s.tileOf p.1 = p.2 := by
  suffices hf : find s.tiles p.1 = some p.2 by rw [State.tileOf, hf]; rfl
  generalize s.tiles = l at h hp
  induction l with
  | nil => exact absurd hp List.not_mem_nil
  | cons q l ih =>
    obtain ⟨hq, hl⟩ := List.nodup_cons.1 h
    rcases List.mem_cons.1 hp with rfl | hp
    · simp [find]
    · have hne : q.1 ≠ p.1 := fun he => hq (List.mem_map.2 ⟨p, hp, he.symm⟩)
      simp [find, hne, ih hl hp]

/-- Arrays at rest have nothing to finish: every tile and operation is as it was. -/
theorem settleArrays_idle (h : ArraysIdle s cl) (hn : (s.tiles.map fun p => p.1).Nodup)
    (hw : ∀ p ∈ s.tiles, p.2.wheel.toNat < s.wheel) : (settleArrays s cl).tiles = s.tiles ∧ (settleArrays s cl).agenda = s.agenda := by
  have ht : (moveCount s cl (s.now cl)).tiles = s.tiles :=
    turnWheels_whole cl (fun hp => by
      have h1 := Nat.div_add_mod (s.now cl) s.wheel
      have h2 : s.now cl + s.wheel - s.now cl % s.wheel = s.wheel * (s.now cl / s.wheel + 1) := by
        rw [Nat.mul_add]
        omega
      rw [h2, Nat.mul_mod_right]) hw
  unfold settleArrays
  rw [finishArrays_idle h]
  dsimp only
  rw [ht]
  refine ⟨(List.map_congr_left fun p hp => ?_).trans (List.map_id _), rfl⟩
  rw [tileOf_of_nodup hn hp]
  split <;> rfl

/-! ## A pre-emption at a boundary -/

/-- A pre-emption that is asked for no more. -/
def unasked (s : State) (cl : Nat) : State := s.modClaim cl fun c => { c with preempt := false }

theorem claimOf_unasked (s : State) (cl : Nat) : (unasked s cl).claimOf cl = { s.claimOf cl with preempt := false } :=
  State.claimOf_modClaim _ _ _

theorem now_unasked (s : State) (cl : Nat) : (unasked s cl).now cl = s.now cl := by rw [State.now, claimOf_unasked]; rfl

theorem tileOf_unasked (s : State) (cl : Nat) (t : TileId) : (unasked s cl).tileOf t = s.tileOf t := by
  by_cases h : t.claim = cl
  · subst h
    unfold State.tileOf
    rw [claimOf_unasked]
    rfl
  · unfold State.tileOf
    rw [show (unasked s cl).claimOf t.claim = s.claimOf t.claim from State.claimOf_modClaim_ne _ _ _ _ h]
    rfl

theorem noDrift_unasked : NoDrift (unasked s cl) cl ↔ NoDrift s cl := Iff.rfl

theorem stopPreempted_eq (hd : NoDrift s cl) : ∃ m, stopPreempted s cl =
    { standStill (settleArrays (unasked s cl) cl) cl (.preempted (s.now cl)) with mbox := m } := by
  obtain ⟨m, hm⟩ := claimStopped_eq (standStill (settleArrays (unasked s cl) cl) cl (.preempted ((unasked s cl).now cl))) cl
  have hn := now_unasked s cl
  refine ⟨m, ?_⟩
  rw [← hn, ← hm]
  exact stopOrDrift_of_noDrift (noDrift_unasked.2 hd) _

/-- A pre-emption stands the claim's count at its boundary. -/
theorem stopPreempted_stands (hd : NoDrift s cl) : StandsStill s (stopPreempted s cl) cl (.preempted (s.now cl)) ∧
    (∃ e l, (stopPreempted s cl).claimOf cl = { s.claimOf cl with
      preempt := false, firstErr := e, run := .preempted (s.now cl), vitrine := l }) ∧
    (stopPreempted s cl).fleetMsgs = s.fleetMsgs ∧
    (stopPreempted s cl).tiles = (settleArrays (unasked s cl) cl).tiles ∧
    ((stopPreempted s cl).claimOf cl).vitrine = ((settleArrays (unasked s cl) cl).agenda.filter fun e => e.claim == cl).map
      fun e => { e with tick := e.tick - s.now cl } := by
  obtain ⟨m, hm⟩ := stopPreempted_eq hd
  have hs : Stopping s (unasked s cl) cl := ⟨rfl, rfl, rfl, rfl, by rw [claimOf_unasked], fun _ he _ => he⟩
  have hv := stopping_settleArrays (unasked s cl) cl
  have hsv : Stopping s (settleArrays (unasked s cl) cl) cl :=
    ⟨hv.cores, hv.far, hv.inputs, hv.wall, hv.tick.trans hs.tick, hv.agenda⟩
  obtain ⟨e, he⟩ := claimOf_settleArrays (unasked s cl) cl
  have hcl := claimOf_standStill (settleArrays (unasked s cl) cl) cl (.preempted (s.now cl))
  have hnow : (settleArrays (unasked s cl) cl).now cl = s.now cl := hsv.tick
  have hmsg : (settleArrays (unasked s cl) cl).fleetMsgs = s.fleetMsgs := (finishing_settleArrays (unasked s cl) cl).fleetMsgs
  rw [stoodClaim, he, claimOf_unasked, hnow] at hcl
  rw [hm]
  have hcl' : ({ standStill (settleArrays (unasked s cl) cl) cl (.preempted (s.now cl)) with mbox := m } : State).claimOf cl = _ :=
    (claimOf_congr rfl cl).trans hcl
  refine ⟨hsv.standsStill _ rfl rfl rfl rfl, ⟨e, _, hcl'⟩, hmsg, rfl, by rw [hcl']⟩

theorem stopPreempted_idle (hd : NoDrift s cl) (h : ArraysIdle s cl) (hn : (s.tiles.map fun p => p.1).Nodup)
    (hw : ∀ p ∈ s.tiles, p.2.wheel.toNat < s.wheel) : (stopPreempted s cl).tiles = s.tiles ∧
      ((stopPreempted s cl).claimOf cl).vitrine =
        (s.agenda.filter fun e => e.claim == cl).map fun e => { e with tick := e.tick - s.now cl } := by
  have hi : ArraysIdle (unasked s cl) cl := fun e he hc => by
    rw [← h e he hc]
    unfold Sched.arrayStep
    simp only [tileOf_unasked]
  obtain ⟨ht, ha⟩ := settleArrays_idle hi hn hw
  obtain ⟨-, -, -, h4, h5⟩ := stopPreempted_stands hd
  exact ⟨h4.trans ht, h5.trans (by rw [ha]; rfl)⟩

theorem claimFaulted_unasked {t : TileId} (h : t.claim = cl) : ClaimFaulted s (claimFault (unasked s cl) t 0x32 0) t 0x32 := by
  subst h
  have hc := claimOf_claimFault (unasked s t.claim) t 0x32 0
  rw [claimOf_unasked] at hc
  refine ⟨by rw [hc], fun hl => ⟨_, by rw [hc]; exact mem_take_insertFault _ hl, rfl, ?_, rfl, rfl, rfl⟩, by rw [hc]; rfl,
    fun st => coreOf_congr (by rw [claimFault_cores]; rfl) st, .of_tiles (by rw [claimFault_tiles]; rfl) (by rw [claimFault_far]; rfl)⟩
  exact now_unasked s t.claim

theorem stopPreempted_drifts (hd : ¬ NoDrift s cl) :
    ∃ t, t.claim = cl ∧ stopPreempted s cl = claimFault (unasked s cl) t 0x32 0 :=
  ⟨driftedTile (unasked s cl) cl, driftedTile_claim _ _, stopOrDrift_of_drift (fun h => hd (noDrift_unasked.1 h)) _⟩

theorem exec_preemptionStop (cl : Nat) (s : State) : exec (.preemptionStop cl) s = execPreemptionStop cl s := rfl

/-- Whether a claim may stop for a pre-emption: at a boundary that admits it, outside a curator switch. -/
def admitsStop (s : State) (cl : Nat) : Bool := mayStop s cl && !switching s .curator

theorem admitsStop_iff (s : State) (cl : Nat) : admitsStop s cl = true ↔ StopsHere s cl ∧ (s.ctlOf .curator).switching = false := by
  simp [admitsStop, mayStop_iff, switching_eq]

theorem preemptionStop_unasked (h : (s.claimOf cl).preempt = false) : exec (.preemptionStop cl) s = .next s := by
  simp [exec_preemptionStop, execPreemptionStop, h]

theorem alone_iff (s : State) (cl : Nat) :
    ((s.claimOf cl).fleet && s.fleet.isSome) = false ↔ (s.claimOf cl).fleet = false ∨ s.fleet = none := by
  cases (s.claimOf cl).fleet <;> cases s.fleet <;> simp

/-- A claim of one wafer stops where its boundary admits it, and nothing happens elsewhere. -/
theorem preemptionStop_alone (ha : (s.claimOf cl).fleet = false ∨ s.fleet = none) (hp : (s.claimOf cl).preempt = true) :
    exec (.preemptionStop cl) s = .next (if admitsStop s cl then stopPreempted s cl else s) := by
  rw [exec_preemptionStop, execPreemptionStop, (alone_iff s cl).2 ha, hp]
  rfl

theorem preemptionStop_not_admitted (ha : (s.claimOf cl).fleet = false ∨ s.fleet = none)
    (h : (s.ctlOf .curator).switching = true ∨ ¬ StopsHere s cl) : exec (.preemptionStop cl) s = .next s := by
  cases hp : (s.claimOf cl).preempt with
  | false => exact preemptionStop_unasked hp
  | true =>
    have : admitsStop s cl ≠ true := fun hx => by
      obtain ⟨h1, h2⟩ := (admitsStop_iff s cl).1 hx
      rcases h with h | h
      · exact absurd (h2.symm.trans h) (by simp)
      · exact h h1
    rw [preemptionStop_alone ha hp, if_neg this]

end Preempt
end Sys2Proof.Machine

namespace Sys2Proof.Machine

/-! # The wafers' agreement on a boundary (R363) -/

section Parley
open State
variable {s u v : State} {cl : Nat}

/-- What a wafer has said of the boundaries, its own word on boundary b with it. -/
def answersWith (c : Claim) (w b : Nat) (ok : Bool) : List (Nat × Nat × Bool) := c.answers ++ [(w, b, ok)]

/-- The answers on a boundary. -/
def saidOf (l : List (Nat × Nat × Bool)) (b : Nat) : List (Nat × Nat × Bool) := l.filter fun a => a.2.1 == b

theorem mem_saidOf {l : List (Nat × Nat × Bool)} {b : Nat} {a : Nat × Nat × Bool} : a ∈ saidOf l b ↔ a ∈ l ∧ a.2.1 = b := by
  simp [saidOf]

theorem allSaid_iff (c : Claim) (w b n : Nat) (ok : Bool) :
    ((List.range n).all fun x => (saidOf (answersWith c w b ok) b).any fun a => a.1 == x) = true ↔
      ∀ x < n, x ≠ w → ∃ y, (x, b, y) ∈ c.answers := by
  simp only [List.all_eq_true, List.mem_range, List.any_eq_true, mem_saidOf, answersWith, List.mem_append, List.mem_singleton,
    beq_iff_eq]
  constructor
  · intro h x hx hw
    obtain ⟨⟨a, d, y⟩, ⟨hm | hm, rfl⟩, rfl⟩ := h x hx
    · exact ⟨y, hm⟩
    · exact absurd (congrArg Prod.fst hm) hw
  · intro h x hx
    by_cases hw : x = w
    · exact ⟨(w, b, ok), ⟨.inr rfl, rfl⟩, hw.symm⟩
    · obtain ⟨y, hy⟩ := h x hx hw
      exact ⟨_, ⟨.inl hy, rfl⟩, rfl⟩

theorem allAgree_iff (c : Claim) (w b : Nat) (ok : Bool) : (saidOf (answersWith c w b ok) b).all (fun a => a.2.2) = true ↔
    ok = true ∧ ∀ x, (x, b, false) ∉ c.answers := by
  simp only [List.all_eq_true, mem_saidOf, answersWith, List.mem_append, List.mem_singleton]
  constructor
  · intro h
    exact ⟨h (w, b, ok) ⟨.inr rfl, rfl⟩, fun x hx => absurd (h _ ⟨.inl hx, rfl⟩) Bool.false_ne_true⟩
  · rintro ⟨hok, hn⟩ ⟨x, d, y⟩ ⟨hm | hm, rfl⟩
    · cases y with
      | true => rfl
      | false => exact absurd hm (hn x)
    · rw [hm]
      exact hok

/-- A wafer whose count stands at a boundary of its fleet's claim and has said whether it may stop there. -/
def spoken (s : State) (cl w : Nat) (ok : Bool) : State :=
  { s.setClaim cl { s.claimOf cl with
      parley := some (s.now cl), answers := answersWith (s.claimOf cl) w (s.now cl) ok } with
    fleetMsgs := s.fleetMsgs ++ [.boundary w (s.now cl) ok]
    todo := s.todo.filter fun k => !(tickTasks cl).contains k }

theorem claimOf_spoken (s : State) (cl w : Nat) (ok : Bool) : (spoken s cl w ok).claimOf cl = { s.claimOf cl with
    parley := some (s.now cl), answers := answersWith (s.claimOf cl) w (s.now cl) ok } :=
  (claimOf_congr (s := s.setClaim cl _) rfl cl).trans (State.claimOf_setClaim _ _ _)

/-- A claim whose wafers have all spoken of boundary b. -/
def parleyed (s : State) (cl b : Nat) : State :=
  s.modClaim cl fun c => { c with parley := none, answers := c.answers.filter fun a => decide (b < a.2.1) }

theorem settleParley_spoken {w n lp : Nat} (h : s.fleet = some (w, n, lp)) (ok : Bool) : settleParley (spoken s cl w ok) cl =
    if (List.range n).all fun x => (saidOf (answersWith (s.claimOf cl) w (s.now cl) ok) (s.now cl)).any fun a => a.1 == x then
      if (saidOf (answersWith (s.claimOf cl) w (s.now cl) ok) (s.now cl)).all (fun a => a.2.2) then
        stopPreempted (parleyed (spoken s cl w ok) cl (s.now cl)) cl
      else { parleyed (spoken s cl w ok) cl (s.now cl) with todo := (spoken s cl w ok).todo ++ tickTasks cl }
    else spoken s cl w ok := by
  have hc := claimOf_spoken s cl w ok
  have hf : (spoken s cl w ok).fleet = some (w, n, lp) := h
  unfold settleParley
  rw [hc, hf]
  rfl

theorem modClaim_modClaim (s : State) (k : Nat) (f g : Claim → Claim) : (s.modClaim k f).modClaim k g = s.modClaim k fun c => g (f c) := by
  rw [State.modClaim, State.claimOf_modClaim]
  simp only [State.modClaim, State.setClaim, put_put]

theorem sayBoundary_eq {w n lp b : Nat} (hf : s.fleet = some (w, n, lp)) (ok : Bool) : sayBoundary s cl b ok =
    { s.modClaim cl fun c => { c with answers := c.answers ++ [(w, b, ok)] } with
      fleetMsgs := s.fleetMsgs ++ [.boundary w b ok] } := by
  simp [sayBoundary, hf]

/-- A claim takes no more steps in this tick. -/
def halted (s : State) (cl : Nat) : State := { s with todo := s.todo.filter fun k => !(tickTasks cl).contains k }

/-- At a boundary of a fleet's claim the wafer says whether it may stop there. -/
theorem preemptionStop_speaks {w n lp : Nat} (hc : (s.claimOf cl).fleet = true) (hf : s.fleet = some (w, n, lp))
    (hp : (s.claimOf cl).preempt = true) (hr : Runs s cl) (hb : s.now cl % 2 ^ s.replayLog2 = 0)
    (hn : (s.claimOf cl).parley = none) :
    exec (.preemptionStop cl) s = .next (settleParley (spoken s cl w (admitsStop s cl)) cl) := by
  have hcond : (isRunning s cl && s.now cl % s.replay == 0 && (s.claimOf cl).parley.isNone) = true := by
    simp [(isRunning_iff s cl).2 hr, hn, State.replay, hb]
  have hs : halted (sayBoundary (s.modClaim cl fun c => { c with parley := some c.tick }) cl (s.now cl) (admitsStop s cl)) cl =
      spoken s cl w (admitsStop s cl) := by
    rw [sayBoundary_eq (s := s.modClaim cl fun c => { c with parley := some c.tick }) hf, modClaim_modClaim]
    rfl
  rw [← hs, exec_preemptionStop, execPreemptionStop, hp, hc, hf]
  dsimp only
  rw [if_neg (by simp), if_pos (by simp), if_pos hcond]
  rfl

theorem claimOf_parleyed (s : State) (cl w b : Nat) (ok : Bool) : ∃ l, (parleyed (spoken s cl w ok) cl b).claimOf cl =
    { s.claimOf cl with parley := none, answers := l } := by
  refine ⟨(answersWith (s.claimOf cl) w (s.now cl) ok).filter fun a => decide (b < a.2.1), ?_⟩
  rw [parleyed, State.claimOf_modClaim, claimOf_spoken]

/-- A wafer that waits for others: its claim's count stands at the boundary. -/
theorem spoken_waits (s : State) (cl w : Nat) (ok : Bool) : ((spoken s cl w ok).claimOf cl).parley = some (s.now cl) ∧
    isLive (spoken s cl w ok) cl = false ∧ ((spoken s cl w ok).claimOf cl).tick = (s.claimOf cl).tick := by
  have h := claimOf_spoken s cl w ok
  exact ⟨by rw [h], by simp [isLive, h], by rw [h]⟩

/-- A claim that all have spoken of, and not all for a stop, goes on. -/
theorem parleyed_goes_on (hr : Runs s cl) (w b : Nat) (ok : Bool) (l : List Task) :
    Runs { parleyed (spoken s cl w ok) cl b with todo := l } cl ∧
      (({ parleyed (spoken s cl w ok) cl b with todo := l } : State).claimOf cl).parley = none := by
  obtain ⟨m, hm⟩ := claimOf_parleyed s cl w b ok
  have h : ({ parleyed (spoken s cl w ok) cl b with todo := l } : State).claimOf cl = _ := (claimOf_congr rfl cl).trans hm
  exact ⟨⟨by rw [h]; exact hr.1, hr.2⟩, by rw [h]⟩

/-- A claim that all have spoken for stops at its boundary. -/
theorem parleyed_stops (hd : NoDrift s cl) (w : Nat) (ok : Bool) :
    StandsStill s (stopPreempted (parleyed (spoken s cl w ok) cl (s.now cl)) cl) cl (.preempted (s.now cl)) ∧
      ((stopPreempted (parleyed (spoken s cl w ok) cl (s.now cl)) cl).claimOf cl).parley = none ∧
      ((stopPreempted (parleyed (spoken s cl w ok) cl (s.now cl)) cl).claimOf cl).preempt = false := by
  obtain ⟨l, hl⟩ := claimOf_parleyed s cl w (s.now cl) ok
  have hv : NoDrift (parleyed (spoken s cl w ok) cl (s.now cl)) cl := hd
  have hn : (parleyed (spoken s cl w ok) cl (s.now cl)).now cl = s.now cl := by rw [State.now, hl]; rfl
  obtain ⟨⟨h1, h2, h3, h4, h5, h6⟩, ⟨e, m, hcl⟩, -⟩ := stopPreempted_stands hv
  rw [hl] at hcl h2
  rw [hn] at h1
  exact ⟨⟨h1, h2, h3, h4, h5, h6⟩, by rw [hcl], by rw [hcl]⟩

/-- Whether it stops or has drifted, a claim that stops for all keeps its strands and far memory. -/
theorem stopPreempted_keeps (s : State) (cl : Nat) : (stopPreempted s cl).fleetMsgs = s.fleetMsgs ∧
    (stopPreempted s cl).cores = s.cores ∧ (stopPreempted s cl).far = s.far := by
  by_cases hd : NoDrift s cl
  · obtain ⟨⟨-, -, h3, h4, -⟩, -, hm, -⟩ := stopPreempted_stands hd
    exact ⟨hm, h3, h4⟩
  · obtain ⟨t, -, h⟩ := stopPreempted_drifts hd
    rw [h, claimFault_cores, claimFault_far, claimFault_fleetMsgs]
    exact ⟨rfl, rfl, rfl⟩

/-- The wafers' agreement: the count stands until all have spoken; then all go on, or all stop. -/
theorem preemptionStop_agrees {w n lp : Nat} (hc : (s.claimOf cl).fleet = true) (hf : s.fleet = some (w, n, lp))
    (hp : (s.claimOf cl).preempt = true) (hr : Runs s cl) (hb : s.now cl % 2 ^ s.replayLog2 = 0)
    (hn : (s.claimOf cl).parley = none) :
    let b := s.now cl
    let said := fun (v : Nat) (ok : Bool) => (v, b, ok) ∈ (s.claimOf cl).answers
    ∃ u ok, exec (.preemptionStop cl) s = .next u ∧ u.fleetMsgs = s.fleetMsgs ++ [.boundary w b ok] ∧
      (ok = true ↔ StopsHere s cl ∧ (s.ctlOf .curator).switching = false) ∧ u.cores = s.cores ∧ u.far = s.far ∧
      ((∃ v < n, v ≠ w ∧ ∀ x, ¬ said v x) → (u.claimOf cl).parley = some b ∧ isLive u cl = false ∧
        (u.claimOf cl).tick = (s.claimOf cl).tick ∧ u.agenda = s.agenda ∧ u.tiles = s.tiles) ∧
      ((∀ v < n, v ≠ w → ∃ x, said v x) → ((∃ v, said v false) ∨ ok = false) → Runs u cl ∧ (u.claimOf cl).parley = none ∧
        u.agenda = s.agenda ∧ u.tiles = s.tiles ∧ Task.issues cl ∈ u.todo) ∧
      ((∀ v < n, v ≠ w → ∃ x, said v x) → (∀ v, ¬ said v false) → ok = true → NoDrift s cl →
        StandsStill s u cl (.preempted b) ∧ (u.claimOf cl).parley = none ∧ (u.claimOf cl).preempt = false) := by
  intro b said
  have hx := preemptionStop_speaks hc hf hp hr hb hn
  rw [settleParley_spoken hf] at hx
  generalize hok : admitsStop s cl = ok at hx
  have hiff : ok = true ↔ StopsHere s cl ∧ (s.ctlOf .curator).switching = false := hok ▸ admitsStop_iff s cl
  by_cases hall : ∀ v < n, v ≠ w → ∃ x, said v x
  · rw [if_pos ((allSaid_iff ..).2 hall)] at hx
    have hsome : ¬ ∃ v < n, v ≠ w ∧ ∀ x, ¬ said v x := fun ⟨v, hv, hw, hno⟩ => (hall v hv hw).elim hno
    by_cases hag : ok = true ∧ ∀ v, ¬ said v false
    · rw [if_pos ((allAgree_iff ..).2 hag)] at hx
      obtain ⟨hok, hno⟩ := hag
      obtain ⟨hm, hc, hf⟩ := stopPreempted_keeps (parleyed (spoken s cl w ok) cl b) cl
      refine ⟨_, ok, hx, hm, hiff, hc, hf, fun h => absurd h hsome, fun _ h => ?_, fun _ _ _ hd => parleyed_stops hd w ok⟩
      rcases h with ⟨v, hv⟩ | h
      · exact absurd hv (hno v)
      · exact absurd (hok.symm.trans h) (by simp)
    · rw [if_neg fun h => hag ((allAgree_iff ..).1 h)] at hx
      refine ⟨_, ok, hx, rfl, hiff, rfl, rfl, fun h => absurd h hsome, fun _ _ => ?_, fun _ hno hok => absurd ⟨hok, hno⟩ hag⟩
      obtain ⟨h1, h2⟩ := parleyed_goes_on hr w b ok ((spoken s cl w ok).todo ++ tickTasks cl)
      exact ⟨h1, h2, rfl, rfl, List.mem_append_right _ (by simp [tickTasks])⟩
  · rw [if_neg fun h => hall ((allSaid_iff ..).1 h)] at hx
    obtain ⟨h1, h2, h3⟩ := spoken_waits s cl w ok
    exact ⟨_, ok, hx, rfl, hiff, rfl, rfl, fun _ => ⟨h1, h2, h3, rfl, rfl⟩, fun h => absurd h hall, fun h => absurd h hall⟩

end Parley
end Sys2Proof.Machine

namespace Sys2Proof.Machine

/-! # Roving self-test (R38, R275, R348) -/

section SelfTests
open State
variable {s u : State} {field row col cl : Nat}

/-! ## What the docent looks at -/

/-- A docent tests a tile of its field, or has asked for a move to test another one. -/
def Busy (s : State) (field row col : Nat) : Prop := (∃ x ∈ s.tests, x.field = field) ∨
  ∃ p ∈ s.claims, ∃ o ∈ p.2.moves, o.field = field ∧ o.col ≠ none ∧ (o.row, o.col) ≠ (row, some col)

/-- A row's map admits no shift. -/
def Fixed (s : State) (field row : Nat) : Prop :=
  (∃ r ∈ s.retiredTiles, r.1 = field ∧ r.2.1 = row) ∨ (field, row) ∈ s.failedBypass

/-- A tile of a row is under test. -/
def Tested (s : State) (field row : Nat) : Prop := ∃ x ∈ s.tests, x.field = field ∧ x.row = row

/-- The docent or the curator is switched. -/
def Switched (s : State) (field : Nat) : Prop :=
  (s.ctlOf (.docent field)).switching = true ∨ (s.ctlOf .curator).switching = true

theorem docentBusy_iff (s : State) (field row col : Nat) (g : GateWait) :
    docentBusy s ⟨field, row, some col, g⟩ = true ↔ Busy s field row col := by
  simp only [docentBusy, Busy, Bool.or_eq_true, List.any_eq_true, Bool.and_eq_true, beq_iff_eq, bne_iff_ne,
    Option.isSome_iff_ne_none, and_assoc]

theorem rowFixed_iff (s : State) (field row : Nat) : rowFixed s field row = true ↔ Fixed s field row := by
  simp [rowFixed, rowRetired, Fixed]

theorem rowTested_iff (s : State) (field row : Nat) : rowTested s field row = true ↔ Tested s field row := by
  simp [rowTested, Tested]

theorem switched_iff (s : State) (field : Nat) :
    (switching s (.docent field) || switching s .curator) = true ↔ Switched s field := by
  simp [switching_eq, Switched]

theorem same_iff (a b : MoveReq) : a.same b = true ↔ a.field = b.field ∧ a.row = b.row ∧ a.col = b.col := by
  simp [MoveReq.same, and_assoc]

theorem inSpan_iff (s : State) (cl : Nat) :
    inSpan s cl = true ↔ ∃ st ∈ strandsOf s cl, (s.coreOf st).span = true ∧ (s.coreOf st).status ≠ .retired := by
  simp [inSpan]

/-! ## The map shifts and shifts back -/

/-- Only the tests, the shifts and the low rail change. -/
def OnlyMaps (s u : State) : Prop := u = { s with tests := u.tests, shifts := u.shifts, lowRail := u.lowRail }

theorem mem_raiseRails (s : State) (x : Nat × Nat × Nat) :
    x ∈ (raiseRails s).lowRail ↔ x ∈ s.lowRail ∧ tileClaimed (raiseRails s) x.1 x.2.1 x.2.2 = false := by
  simp only [raiseRails, List.mem_filter, Bool.not_eq_true']
  rfl

theorem testBegins_beginTest (s : State) (field row col : Nat) (g : GateWait) {fixed : Prop} (hf : fixed ↔ Fixed s field row) :
    TestBegins s (beginTest s ⟨field, row, some col, g⟩ col) field row col fixed := by
  refine ⟨rfl, fun h => ?_, fun h => ?_, fun x => ?_⟩
  · exact if_pos ((rowFixed_iff ..).2 (hf.1 h))
  · exact if_neg fun hr => h (hf.2 ((rowFixed_iff ..).1 hr))
  · refine (mem_raiseRails _ x).trans (and_congr_left fun _ => ?_)
    by_cases hx : x = (field, row, col) <;> simp [List.mem_filter, hx]

theorem onlyMaps_beginTest (s : State) (m : MoveReq) (col : Nat) : OnlyMaps s (beginTest s m col) := rfl

theorem testEnds_endTest (s : State) (field row : Nat) (g : GateWait) :
    TestEnds s (endTest s ⟨field, row, none, g⟩) field row := by
  refine ⟨fun x => ?_, fun x => ?_, fun x => mem_raiseRails _ x⟩
  · show x ∈ s.tests.filter _ ↔ _
    simp [List.mem_filter, imp_iff_not_or]
  · show x ∈ s.shifts.filter _ ↔ _
    simp [List.mem_filter, imp_iff_not_or]

theorem onlyMaps_endTest (s : State) (m : MoveReq) : OnlyMaps s (endTest s m) := rfl

/-! ## A move of a row -/

theorem moveRow_free (h : holderOf s field = none) (row : Nat) (col : Option Nat) (g : GateWait) :
    moveRow s ⟨field, row, col, g⟩ = if switching s (.docent field) || switching s .curator then
      defer s (MoveReq.event ⟨field, row, col, g⟩) else moveMap s ⟨field, row, col, g⟩ := by
  unfold moveRow
  rw [h]

theorem moveRow_asks (h : holderOf s field = some cl) (hr : (s.claimOf cl).run = .running) {m : MoveReq} (hm : m.field = field)
    (hn : ∀ o ∈ (s.claimOf cl).moves, o.same m = false) :
    moveRow s m = s.modClaim cl fun c => { c with moves := c.moves ++ [m] } := by
  have hf : (s.claimOf cl).moves.find? (fun o => o.same m) = none := List.find?_eq_none.2 fun o ho => by simp [hn o ho]
  unfold moveRow
  rw [hm, h]
  dsimp only
  rw [hr, hf]

theorem moveRow_asked (h : holderOf s field = some cl) (hr : (s.claimOf cl).run = .running) {m o : MoveReq} (hm : m.field = field)
    (ho : (s.claimOf cl).moves.find? (fun o => o.same m) = some o) :
    moveRow s m = if s.now cl % s.replay = 0 then moveAtBoundary s cl o else s := by
  unfold moveRow
  rw [hm, h]
  dsimp only
  rw [hr, ho]

theorem find_same {c : Claim} {row : Nat} {col : Option Nat} {g g' : GateWait} (h : Asked c field row col g) :
    c.moves.find? (fun o => o.same ⟨field, row, col, g'⟩) = some ⟨field, row, col, g⟩ := by
  obtain ⟨hm, hu⟩ := h
  have hs : (c.moves.find? fun o => o.same ⟨field, row, col, g'⟩).isSome :=
    List.find?_isSome.2 ⟨_, hm, (same_iff _ _).2 ⟨rfl, rfl, rfl⟩⟩
  obtain ⟨o, ho⟩ := Option.isSome_iff_exists.1 hs
  have hso := List.find?_some (p := fun o : MoveReq => o.same ⟨field, row, col, g'⟩) ho
  obtain ⟨h1, h2, h3⟩ := (same_iff _ _).1 hso
  rw [ho, hu o (List.mem_of_find?_eq_some ho) h1 h2 h3]

/-! ## A requested move at a boundary -/

/-- What a requested move has come to with the gates at a boundary. -/
def gateAt (s : State) (cl : Nat) (g : GateWait) : GateWait :=
  if (g = .notDue ∧ inSpan s cl = true) ∨ g = .waits then (if gateOpens s cl then .passed else .waits) else g

theorem moveAtBoundary_eq (s : State) (cl : Nat) (m : MoveReq) : moveAtBoundary s cl m =
    if gateAt s cl m.gate ≠ .waits ∧ mayStop s cl = true ∧ switching s (.docent m.field) = false ∧
        switching s .curator = false then
      stopOrDrift (s.modClaim cl fun c => { c with moves := (s.claimOf cl).moves.filter fun o => !o.same m }) cl fun s => moveMap s m
    else s.modClaim cl fun c =>
      { c with moves := c.moves.map fun o => if o.same m then { o with gate := gateAt s cl m.gate } else o } := rfl

theorem gateAt_waits {g : GateWait} (h : g = .waits ∨ (g = .notDue ∧ inSpan s cl = true)) (hg : gateOpens s cl = false) :
    gateAt s cl g = .waits := by
  unfold gateAt
  rw [if_pos h.symm, hg]
  rfl

theorem gateAt_ne_waits {g : GateWait} (h : g = .passed ∨ (g = .notDue ∧ ¬ inSpan s cl = true) ∨ gateOpens s cl = true) :
    gateAt s cl g ≠ .waits := by
  unfold gateAt
  rcases h with rfl | ⟨rfl, hs⟩ | hg
  · simp
  · simp [hs]
  · rw [hg, if_pos rfl]
    split
    · simp
    next hn => exact fun hw => hn (.inr hw)

/-- A move that a gate holds up waits on. -/
theorem moveAtBoundary_waits {col : Option Nat} {g : GateWait} (ha : Asked (s.claimOf cl) field row col g)
    (h : gateAt s cl g = .waits) : ∃ l, moveAtBoundary s cl ⟨field, row, col, g⟩ =
      s.setClaim cl { s.claimOf cl with moves := l } ∧ Asked { s.claimOf cl with moves := l } field row col .waits := by
  rw [moveAtBoundary_eq, if_neg fun hn => hn.1 h]
  refine ⟨_, rfl, ?_, fun m hm h1 h2 h3 => ?_⟩
  · refine List.mem_map.2 ⟨_, ha.1, ?_⟩
    rw [if_pos ((same_iff _ _).2 ⟨rfl, rfl, rfl⟩), h]
  · obtain ⟨o, ho, rfl⟩ := List.mem_map.1 hm
    by_cases hs : o.same ⟨field, row, col, g⟩ = true
    · rw [if_pos hs, h] at *
      obtain ⟨e1, e2, e3⟩ := (same_iff _ _).1 hs
      rw [ha.2 o ho e1 e2 e3]
    · rw [if_neg hs] at h1 h2 h3
      exact absurd ((same_iff _ _).2 ⟨h1, h2, h3⟩) hs

/-- A move that nothing holds up is made. -/
theorem moveAtBoundary_moves {col : Option Nat} {g : GateWait} (hg : gateAt s cl g ≠ .waits) (hs : StopsHere s cl)
    (hw : ¬ Switched s field) (hd : NoDrift s cl) : moveAtBoundary s cl ⟨field, row, col, g⟩ =
      moveMap (s.setClaim cl { s.claimOf cl with
        moves := (s.claimOf cl).moves.filter fun o => !o.same ⟨field, row, col, g⟩ }) ⟨field, row, col, g⟩ := by
  have hsw : switching s (.docent field) = false ∧ switching s .curator = false := by
    simpa [Switched, switching_eq] using hw
  rw [moveAtBoundary_eq, if_pos ⟨hg, (mayStop_iff s cl).2 hs, hsw⟩]
  have hd' : NoDrift (s.modClaim cl fun c =>
      { c with moves := (s.claimOf cl).moves.filter fun o => !o.same ⟨field, row, col, g⟩ }) cl := hd
  exact stopOrDrift_of_noDrift hd' _

end SelfTests
end Sys2Proof.Machine

namespace Sys2Proof.Machine

/-! # The events of roving self-test (R275, R348) -/

section SelfTestEvents
open State
variable {s u : State} {field row col cl : Nat}

theorem exec_selfTestMove (field row col : Nat) (s : State) : exec (.selfTestMove field row col) s =
    .next (if docentBusy s ⟨field, row, some col, .notDue⟩ || (rowFixed s field row && (holderOf s field).isSome) then s
      else moveRow s ⟨field, row, some col, .notDue⟩) := rfl

theorem exec_selfTestMoveBack (field row : Nat) (s : State) : exec (.selfTestMoveBack field row) s =
    .next (if rowTested s field row then moveRow s ⟨field, row, none, .notDue⟩ else s) := rfl

theorem selfTestMove_busy (h : Busy s field row col) : exec (.selfTestMove field row col) s = .next s := by
  rw [exec_selfTestMove, (docentBusy_iff ..).2 h]
  rfl

theorem selfTestMove_fixed (h : Fixed s field row) (hh : holderOf s field = some cl) (col : Nat) :
    exec (.selfTestMove field row col) s = .next s := by
  rw [exec_selfTestMove, (rowFixed_iff ..).2 h, hh, Option.isSome_some, Bool.and_self, Bool.or_true, if_pos rfl]

theorem selfTestMove_moves (hb : ¬ Busy s field row col) (hf : holderOf s field = none ∨ ¬ Fixed s field row) :
    exec (.selfTestMove field row col) s = .next (moveRow s ⟨field, row, some col, .notDue⟩) := by
  have h1 : docentBusy s ⟨field, row, some col, .notDue⟩ = false := by
    rw [← docentBusy_iff s field row col .notDue] at hb
    simpa using hb
  have h2 : (rowFixed s field row && (holderOf s field).isSome) = false := by
    rcases hf with hf | hf
    · simp [hf]
    · rw [← rowFixed_iff] at hf
      simp [hf]
  rw [exec_selfTestMove, h1, h2]
  rfl

theorem selfTestMoveBack_untested (h : ¬ Tested s field row) : exec (.selfTestMoveBack field row) s = .next s := by
  rw [exec_selfTestMoveBack, if_neg fun ht => h ((rowTested_iff ..).1 ht)]

theorem selfTestMoveBack_moves (h : Tested s field row) :
    exec (.selfTestMoveBack field row) s = .next (moveRow s ⟨field, row, none, .notDue⟩) := by
  rw [exec_selfTestMoveBack, if_pos ((rowTested_iff ..).2 h)]

/-- A move of a row that no claim holds waits while a controller is switched. -/
theorem moveRow_defers (h : holderOf s field = none) (hs : Switched s field) (row : Nat) (col : Option Nat) (g : GateWait) :
    moveRow s ⟨field, row, col, g⟩ =
      { s with inputs := s.inputs ++ [(s.wall + 1, MoveReq.event ⟨field, row, col, g⟩)] } := by
  rw [moveRow_free h, if_pos ((switched_iff ..).2 hs)]
  rfl

theorem moveRow_maps (h : holderOf s field = none) (hs : ¬ Switched s field) (row : Nat) (col : Option Nat) (g : GateWait) :
    moveRow s ⟨field, row, col, g⟩ = moveMap s ⟨field, row, col, g⟩ := by
  rw [moveRow_free h, if_neg fun hx => hs ((switched_iff ..).1 hx)]

/-- A requested move looks at the replay boundaries only. -/
theorem selfTestMove_between {g : GateWait} (hh : holderOf s field = some cl) (hr : (s.claimOf cl).run = .running)
    (ha : Asked (s.claimOf cl) field row (some col) g) (hb : ¬ Busy s field row col) (hf : ¬ Fixed s field row)
    (hn : s.now cl % 2 ^ s.replayLog2 ≠ 0) : exec (.selfTestMove field row col) s = .next s := by
  rw [selfTestMove_moves hb (.inr hf), moveRow_asked hh hr rfl (find_same ha),
    if_neg (show ¬ s.now cl % s.replay = 0 from hn)]

theorem selfTestMove_at_boundary {g : GateWait} (hh : holderOf s field = some cl) (hr : (s.claimOf cl).run = .running)
    (ha : Asked (s.claimOf cl) field row (some col) g) (hb : ¬ Busy s field row col) (hf : ¬ Fixed s field row)
    (hn : s.now cl % 2 ^ s.replayLog2 = 0) :
    exec (.selfTestMove field row col) s = .next (moveAtBoundary s cl ⟨field, row, some col, g⟩) := by
  rw [selfTestMove_moves hb (.inr hf), moveRow_asked hh hr rfl (find_same ha),
    if_pos (show s.now cl % s.replay = 0 from hn)]

/-- A requested move that a gate holds up. -/
theorem selfTestMove_waits {g : GateWait} (hh : holderOf s field = some cl) (hr : (s.claimOf cl).run = .running)
    (ha : Asked (s.claimOf cl) field row (some col) g) (hb : ¬ Busy s field row col) (hf : ¬ Fixed s field row)
    (hn : s.now cl % 2 ^ s.replayLog2 = 0) (hg : gateAt s cl g = .waits) :
    ∃ u, exec (.selfTestMove field row col) s = .next u ∧ u = s.setClaim cl (u.claimOf cl) ∧
      u.claimOf cl = { s.claimOf cl with moves := (u.claimOf cl).moves } ∧ Asked (u.claimOf cl) field row (some col) .waits := by
  obtain ⟨l, hl, hasked⟩ := moveAtBoundary_waits ha hg
  have hc := State.claimOf_setClaim s cl { s.claimOf cl with moves := l }
  refine ⟨_, (selfTestMove_at_boundary hh hr ha hb hf hn).trans (by rw [hl]), ?_, ?_, ?_⟩
  · rw [hc]
  · rw [hc]
  · rw [hc]
    exact hasked

/-- A requested move that nothing holds up is made. -/
theorem selfTestMove_made {g : GateWait} (hh : holderOf s field = some cl) (hr : (s.claimOf cl).run = .running)
    (ha : Asked (s.claimOf cl) field row (some col) g) (hb : ¬ Busy s field row col) (hf : ¬ Fixed s field row)
    (hn : s.now cl % 2 ^ s.replayLog2 = 0) (hg : gateAt s cl g ≠ .waits) (hs : StopsHere s cl) (hw : ¬ Switched s field)
    (hd : NoDrift s cl) : ∃ u, exec (.selfTestMove field row col) s = .next u ∧ TestBegins s u field row col False ∧
      (∀ m, m ∈ (u.claimOf cl).moves ↔ m ∈ (s.claimOf cl).moves ∧ m ≠ ⟨field, row, some col, g⟩) ∧
      u = { s with claims := u.claims, tests := u.tests, shifts := u.shifts, lowRail := u.lowRail } ∧
      u.claimOf cl = { s.claimOf cl with moves := (u.claimOf cl).moves } ∧ ∀ k ≠ cl, u.claimOf k = s.claimOf k := by
  generalize hl : ((s.claimOf cl).moves.filter fun o => !o.same ⟨field, row, some col, g⟩) = l
  generalize hv : s.setClaim cl { s.claimOf cl with moves := l } = v
  have hx : exec (.selfTestMove field row col) s = .next (beginTest v ⟨field, row, some col, g⟩ col) := by
    rw [selfTestMove_at_boundary hh hr ha hb hf hn, moveAtBoundary_moves hg hs hw hd, hl, hv]
    rfl
  have ht := testBegins_beginTest v field row col g (fixed := False) (iff_of_false id (by subst hv; exact hf))
  have hc : (beginTest v ⟨field, row, some col, g⟩ col).claimOf cl = { s.claimOf cl with moves := l } := by
    subst hv
    exact (claimOf_congr (s := s.setClaim cl { s.claimOf cl with moves := l }) rfl cl).trans (State.claimOf_setClaim _ _ _)
  refine ⟨_, hx, ?_, fun m => ?_, ?_, by rw [hc], fun k hk => ?_⟩
  · subst hv
    exact ht
  · rw [hc, ← hl]
    dsimp only
    rw [List.mem_filter]
    refine and_congr_right fun hm => ?_
    rw [Bool.not_eq_true', ← Bool.not_eq_true, same_iff]
    refine not_congr ⟨fun h => ha.2 m hm h.1 h.2.1 h.2.2, fun h => ?_⟩
    subst h
    exact ⟨rfl, rfl, rfl⟩
  · subst hv
    rfl
  · subst hv
    exact (claimOf_congr (s := s.setClaim cl { s.claimOf cl with moves := l }) rfl k).trans (State.claimOf_setClaim_ne _ _ _ _ hk)

/-! ## A tile that fails its test -/

theorem mem_setInsert (l : List Nat) (x : Nat) : x ∈ setInsert l x := by
  induction l with
  | nil => simp [setInsert]
  | cons y l ih =>
    unfold setInsert
    split
    · simp
    split
    next h => simp [h]
    · exact List.mem_cons_of_mem _ ih

theorem tileFails_untested (h : ¬ Tested s field row) : exec (.tileFailsSelfTest field row) s = .next s := by
  have hf : (s.tests.find? fun x => x.field == field && x.row == row) = none := by
    refine List.find?_eq_none.2 fun x hx => ?_
    intro he
    simp only [Bool.and_eq_true, beq_iff_eq] at he
    exact h ⟨x, hx, he⟩
  show execTileFailsSelfTest field row s = _
  rw [execTileFailsSelfTest, hf]

/-- The module after a tile of a row has failed its test, with what that makes of the row or the field still to come. -/
def failed (s : State) (field row col : Nat) : State :=
  { s with
    tests := s.tests.filter fun y => !(y.field == field && y.row == row)
    findings := { s.findings with retired := (field, row, col) :: s.findings.retired } }

theorem tileFails_eq {x : SelfTest} (hx : (s.tests.find? fun x => x.field == field && x.row == row) = some x) :
    exec (.tileFailsSelfTest field row) s = .next (if rowFixed s field row then
      { failed s field row x.col with badFields := setInsert s.badFields field }
    else { failed s field row x.col with
      shifts := s.shifts.filter fun y => !(y.1 == field && y.2.1 == row)
      retiredTiles := (field, row, x.col) :: s.retiredTiles }) := by
  show execTileFailsSelfTest field row s = _
  rw [execTileFailsSelfTest, hx]
  rfl

theorem tileFails_retires (h : Tested s field row) : ∃ u col, exec (.tileFailsSelfTest field row) s = .next u ∧
    ⟨field, row, col⟩ ∈ s.tests ∧ (∀ x, x ∈ u.tests ↔ x ∈ s.tests ∧ ¬ (x.field = field ∧ x.row = row)) ∧
    u.findings = { s.findings with retired := (field, row, col) :: s.findings.retired } ∧
    (Fixed s field row → field ∈ u.badFields ∧ u.retiredTiles = s.retiredTiles ∧ u.shifts = s.shifts) ∧
    (¬ Fixed s field row → u.badFields = s.badFields ∧ u.retiredTiles = (field, row, col) :: s.retiredTiles ∧
      ∀ x, x ∈ u.shifts ↔ x ∈ s.shifts ∧ ¬ (x.1 = field ∧ x.2.1 = row)) ∧
    u.cores = s.cores ∧ u.tiles = s.tiles ∧ u.claims = s.claims ∧ u.far = s.far := by
  have hs : (s.tests.find? fun x => x.field == field && x.row == row).isSome := by
    obtain ⟨x, hx, he⟩ := h
    exact List.find?_isSome.2 ⟨x, hx, by simpa using he⟩
  obtain ⟨x, hx⟩ := Option.isSome_iff_exists.1 hs
  have hp := List.find?_some (p := fun x : SelfTest => x.field == field && x.row == row) hx
  obtain ⟨h1, h2⟩ : x.field = field ∧ x.row = row := by simpa using hp
  have hm : (⟨field, row, x.col⟩ : SelfTest) ∈ s.tests := by
    rw [← h1, ← h2]
    exact List.mem_of_find?_eq_some hx
  have htests : ∀ y, y ∈ (s.tests.filter fun y => !(y.field == field && y.row == row)) ↔
      y ∈ s.tests ∧ ¬ (y.field = field ∧ y.row = row) := fun y => by simp [List.mem_filter, imp_iff_not_or]
  have hx' := tileFails_eq hx
  by_cases hf : Fixed s field row
  · rw [if_pos ((rowFixed_iff ..).2 hf)] at hx'
    exact ⟨_, x.col, hx', hm, htests, rfl, fun _ => ⟨mem_setInsert s.badFields field, rfl, rfl⟩, fun hn => absurd hf hn, rfl, rfl,
      rfl, rfl⟩
  · rw [if_neg fun hr => hf ((rowFixed_iff ..).1 hr)] at hx'
    have hshifts : ∀ y, y ∈ (s.shifts.filter fun y => !(y.1 == field && y.2.1 == row)) ↔
        y ∈ s.shifts ∧ ¬ (y.1 = field ∧ y.2.1 = row) := fun y => by simp [List.mem_filter, imp_iff_not_or]
    exact ⟨_, x.col, hx', hm, htests, rfl, fun hn => absurd hn hf, fun _ => ⟨rfl, rfl, hshifts⟩, rfl, rfl, rfl, rfl⟩

end SelfTestEvents
end Sys2Proof.Machine

namespace Sys2Proof.Machine

/-! # A claim's evaluation, stops and release (R120, R344, R368, R369) -/

section Release
open State
variable {s u : State} {cl : Nat}

theorem exec_claimEvaluation (cl : Nat) (s : State) :
    exec (.claimEvaluation cl) s = .next (if isRunning s cl then evaluateClaim s cl else s) := rfl

theorem claimEvaluation_stands (h : ¬ Runs s cl) : exec (.claimEvaluation cl) s = .next s := by
  rw [exec_claimEvaluation, isRunning_eq_false h]
  rfl

theorem claimEvaluation_runs (h : Runs s cl) : exec (.claimEvaluation cl) s = .next (evaluateClaim s cl) := by
  rw [exec_claimEvaluation, if_pos ((isRunning_iff s cl).2 h)]

/-- A claim that does not run takes no stop. -/
theorem stops_not_running (h : ¬ Runs s cl) : exec (.fatalStop cl) s = .next s ∧ exec (.uncorrectableHalt cl) s = .next s ∧
    exec (.abortStop cl) s = .next s := by
  have hr := isRunning_eq_false h
  refine ⟨?_, ?_, ?_⟩
  · show execFatalStop cl s = _
    rw [execFatalStop, hr]
    rfl
  · show execUncorrectableHalt cl s = _
    rw [execUncorrectableHalt, hr]
    rfl
  · show execAbortStop cl s = _
    rw [execAbortStop, hr]
    rfl

/-- A fatal fault stops the claim at its own boundary: neither a halt nor an abort comes before it. -/
theorem stops_fatal (h : (s.claimOf cl).fatal ≠ none) : exec (.uncorrectableHalt cl) s = .next s ∧
    exec (.abortStop cl) s = .next s := by
  have hf : (s.claimOf cl).fatal.isNone = false := Option.isNone_eq_false_iff.2 (Option.isSome_iff_ne_none.2 h)
  constructor
  · show execUncorrectableHalt cl s = _
    rw [execUncorrectableHalt, hf, Bool.and_false]
    rfl
  · show execAbortStop cl s = _
    rw [execAbortStop, hf, Bool.and_false]
    rfl

theorem abortStop_halting (h : (s.claimOf cl).firstErr ≠ none) : exec (.abortStop cl) s = .next s := by
  have hf : (s.claimOf cl).firstErr.isNone = false := Option.isNone_eq_false_iff.2 (Option.isSome_iff_ne_none.2 h)
  show execAbortStop cl s = _
  rw [execAbortStop, hf, Bool.and_false]
  rfl

/-! ## The release -/

theorem exec_claimRelease (cl : Nat) (s : State) : exec (.claimRelease cl) s = execClaimRelease cl s := rfl

theorem claimRelease_switching (h : (s.ctlOf .curator).switching = true) :
    exec (.claimRelease cl) s = .next { s with inputs := s.inputs ++ [(s.wall + 1, .claimRelease cl)] } := by
  rw [exec_claimRelease, execClaimRelease, switching_eq, if_pos h]
  rfl

theorem claimRelease_eq (h : (s.ctlOf .curator).switching = false) : exec (.claimRelease cl) s = .next
    (match (s.claimOf cl).run with
      | .faulted n => finishLaunch s cl 3 n 0 false
      | .haltedAt b => finishLaunch s cl 4 b b false
      | .aborted b => finishLaunch s cl 5 b b false
      | .running | .preempted _ | .ended _ _ => s) := by
  rw [exec_claimRelease, execClaimRelease, switching_eq, h]
  cases (s.claimOf cl).run <;> rfl

/-- The curator frees the fields of a claim that has stopped, with a record of the stop's kind. -/
theorem claimRelease_ends (h : (s.ctlOf .curator).switching = false) (hf : (s.claimOf cl).fleet = false) (n : Nat) :
    ((s.claimOf cl).run = .faulted n → ∃ u, exec (.claimRelease cl) s = .next u ∧
      LaunchEnds s u cl 3 n 0 (primaryFault (s.claimOf cl))) ∧
    ((s.claimOf cl).run = .haltedAt n → ∃ u, exec (.claimRelease cl) s = .next u ∧
      LaunchEnds s u cl 4 n n (faultNumbers (s.claimOf cl) true)) ∧
    ((s.claimOf cl).run = .aborted n → ∃ u, exec (.claimRelease cl) s = .next u ∧
      LaunchEnds s u cl 5 n n (primaryFault (s.claimOf cl))) := by
  have hx := claimRelease_eq h (cl := cl)
  refine ⟨fun hr => ?_, fun hr => ?_, fun hr => ?_⟩ <;> rw [hr] at hx
  · exact ⟨_, hx, (launchEnds_finishLaunch hf 3 n 0 false).2⟩
  · exact ⟨_, hx, (launchEnds_finishLaunch hf 4 n n false).2⟩
  · exact ⟨_, hx, (launchEnds_finishLaunch hf 5 n n false).2⟩

theorem faultNumbers_of_none {c : Claim} (h : c.firstErr = none) : faultNumbers c true = primaryFault c := by
  rw [faultNumbers, if_pos rfl, h]

theorem faultNumbers_of_some {c : Claim} {e : ErrRec} (h : c.firstErr = some e) : faultNumbers c true =
    [0x60 + e.core * 2 ^ 8 + e.x * 2 ^ 16 + e.y * 2 ^ 24 + min c.faultCount 0xFFFF * 2 ^ 32, e.tick, e.place.toNat] := by
  rw [faultNumbers, if_pos rfl, h]

/-- What ends a claim at its evaluation. -/
theorem claimEvaluation_ends (h : Runs s cl) (hf : (s.claimOf cl).fleet = false) :
    ∃ u, exec (.claimEvaluation cl) s = .next u ∧
      (satisfied (s.claimOf cl) = true → (u.claimOf cl).run = .ended (s.claimOf cl).tick true ∧
        LaunchEnds s u cl 0 (s.claimOf cl).tick 0 (primaryFault (s.claimOf cl))) ∧
      (satisfied (s.claimOf cl) ≠ true → (u.claimOf cl).run = .ended (s.claimOf cl).tick false ∧
        LaunchEnds s u cl 1 (s.claimOf cl).tick 0 (primaryFault (s.claimOf cl))) :=
  ⟨_, claimEvaluation_runs h, fun hs => evaluateClaim_ends hf hs,
    fun hs => evaluateClaim_ends hf (sat := false) (by simpa using hs)⟩

/-- A drifted claim that is asked to stop at a boundary takes the skew fault. -/
theorem preemptionStop_drifted (ha : (s.claimOf cl).fleet = false ∨ s.fleet = none)
    (hp : (s.claimOf cl).preempt = true) (hadm : admitsStop s cl = true) (hd : ¬ NoDrift s cl) :
    ∃ u t, t.claim = cl ∧ exec (.preemptionStop cl) s = .next u ∧ ClaimFaulted s u t 0x32 := by
  obtain ⟨t, ht, he⟩ := stopPreempted_drifts hd
  refine ⟨_, t, ht, ?_, claimFaulted_unasked ht⟩
  rw [preemptionStop_alone ha hp, if_pos hadm, he]

/-- A claim that is asked to stop at a boundary that admits it stands there. -/
theorem preemptionStop_stops (ha : (s.claimOf cl).fleet = false ∨ s.fleet = none)
    (hp : (s.claimOf cl).preempt = true) (hadm : admitsStop s cl = true) (hd : NoDrift s cl) :
    ∃ u, exec (.preemptionStop cl) s = .next u ∧ StandsStill s u cl (.preempted (s.now cl)) ∧
      (u.claimOf cl).preempt = false ∧ (ArraysIdle s cl → (s.tiles.map fun p => p.1).Nodup →
        (∀ p ∈ s.tiles, p.2.wheel.toNat < s.wheel) → u.tiles = s.tiles ∧ (u.claimOf cl).vitrine =
        (s.agenda.filter fun e => e.claim == cl).map fun e => { e with tick := e.tick - s.now cl }) := by
  obtain ⟨h1, ⟨e, l, hcl⟩, -⟩ := stopPreempted_stands hd
  exact ⟨_, by rw [preemptionStop_alone ha hp, if_pos hadm], h1, by rw [hcl], fun hi hn hw => stopPreempted_idle hd hi hn hw⟩

end Release
end Sys2Proof.Machine

namespace Sys2Proof.Machine

/-! # Upsets (R256, R272, R403) -/

section Upsets
open State
variable {s u : State} {t : TileId}

/-! ## Stored bits -/

theorem find_drop_self {κ α : Type} [DecidableEq κ] (l : List (κ × α)) (x : κ) : find (drop l x) x = none :=
  find_filter_none fun y => by simp

theorem find_drop_ne {κ α : Type} [DecidableEq κ] {l : List (κ × α)} {x z : κ} (h : z ≠ x) : find (drop l x) z = find l z :=
  find_filter_ne fun y => by simpa using h

theorem getD_find_addFlips (l : List (Nat × BitVec 72)) (w : Nat) (mask : BitVec 72) :
    (find (addFlips l w mask) w).getD 0 = (find l w).getD 0 ^^^ mask := by
  unfold addFlips
  dsimp only
  split
  next h => rw [find_drop_self, h]; rfl
  next => rw [find_put_self]; rfl

theorem find_addFlips_ne (l : List (Nat × BitVec 72)) {w x : Nat} (mask : BitVec 72) (h : x ≠ w) :
    find (addFlips l w mask) x = find l x := by
  unfold addFlips
  dsimp only
  split
  · exact find_drop_ne h
  · exact find_put_ne _ _ _ _ h

theorem bankAddr_eq (bank : BitVec 6) (off : Nat) : bankAddr bank off = 65536 * bank.toNat + off := by
  rw [bankAddr, Nat.mul_comm]

/-- An upset of a bank's word flips the bits of that word alone. -/
theorem bankUpset_flips (t : TileId) (bank : BitVec 6) (word : Nat) (mask : BitVec 72) (s : State) :
    ∃ u, exec (.bitUpset (.bank t bank word) mask) s = .next u ∧
      (find (u.tileOf t).flips ((65536 * bank.toNat + 8 * word) / 8)).getD 0 =
        (find (s.tileOf t).flips ((65536 * bank.toNat + 8 * word) / 8)).getD 0 ^^^ mask ∧
      (∀ x ≠ (65536 * bank.toNat + 8 * word) / 8, find (u.tileOf t).flips x = find (s.tileOf t).flips x) ∧
      u.tileOf t = { s.tileOf t with flips := (u.tileOf t).flips } ∧ (∀ o ≠ t, u.tileOf o = s.tileOf o) ∧ u.cores = s.cores := by
  rw [← bankAddr_eq]
  refine ⟨_, rfl, ?_, fun x hx => ?_, ?_, fun o ho => State.tileOf_modTile_ne _ _ _ _ ho, rfl⟩ <;> rw [State.tileOf_modTile]
  · exact getD_find_addFlips _ _ _
  · exact find_addFlips_ne _ _ hx

theorem extractLsb_eq_ofNat (mask : BitVec 72) (n : Nat) : mask.extractLsb' 0 n = BitVec.ofNat n mask.toNat := by
  apply BitVec.eq_of_toNat_eq
  simp

/-- An upset on a link is kept for the flit that crosses it next. -/
theorem linkUpset_marks (t : TileId) (d : Side) (mask : BitVec 72) (s : State) :
    ∃ u, exec (.bitUpset (.link t d) mask) s = .next u ∧ find (u.tileOf t).linkErr d = some (BitVec.ofNat 5 mask.toNat) ∧
      u.tileOf t = { s.tileOf t with linkErr := (u.tileOf t).linkErr } ∧ (∀ o ≠ t, u.tileOf o = s.tileOf o) ∧
      u.cores = s.cores := by
  refine ⟨_, rfl, ?_, ?_, fun o ho => State.tileOf_modTile_ne _ _ _ _ ho, rfl⟩ <;> rw [State.tileOf_modTile]
  exact (find_put_self _ _ _).trans (by rw [extractLsb_eq_ofNat])

theorem farUpset_absent {piece : Nat} (h : 3 * 2 ^ 40 ≤ 8 * piece) (mask : BitVec 72) (s : State) :
    exec (.bitUpset (.far piece) mask) s = .fault .noSuchAddress :=
  if_neg (Nat.not_lt.2 h)

/-- An upset of a far piece flips the bits of that piece alone. -/
theorem farUpset_flips {piece : Nat} (h : 8 * piece < 3 * 2 ^ 40) (mask : BitVec 72) (s : State) :
    ∃ u, exec (.bitUpset (.far piece) mask) s = .next u ∧
      (find u.farFlips piece).getD 0 = (find s.farFlips piece).getD 0 ^^^ mask ∧
      (∀ x ≠ piece, find u.farFlips x = find s.farFlips x) ∧ u = { s with farFlips := u.farFlips } :=
  ⟨{ s with farFlips := addFlips s.farFlips piece mask }, if_pos h, getD_find_addFlips _ _ _,
    fun _ hx => find_addFlips_ne _ _ hx, rfl⟩

/-! ## A wheel position -/

/-- Slots that are as before but for the ends of their uses. -/
def OnlyUses (a b : Tab 8 OpSlot) : Prop := ∀ k, b.at k = { a.at k with u := (b.at k).u }

theorem Tab.at_put {k : Nat} {α : Type} (l : Tab k α) (i j : BitVec k) (x : α) :
    (l.put i x).at j = if j = i then x else l.at j := by
  by_cases h : j = i
  · subst h
    simp [Tab.at, Tab.put]
  · have h' : i.toNat ≠ j.toNat := fun he => h (BitVec.eq_of_toNat_eq he.symm)
    simp [Tab.at, Tab.put, h, h']

theorem OnlyUses.put {a b : Tab 8 OpSlot} (h : OnlyUses a b) (k : BitVec 8) (n : Nat) :
    OnlyUses a (b.put k { b.at k with u := n }) := by
  intro j
  rw [Tab.at_put]
  split
  next hj =>
    subst hj
    rw [h j]
  next => exact h j

theorem onlyUses_foldl {f : Nat → Tab 8 OpSlot → Tab 8 OpSlot} (hf : ∀ {a b} i, OnlyUses a b → OnlyUses a (f i b))
    {a b : Tab 8 OpSlot} (l : List Nat) (h : OnlyUses a b) : OnlyUses a (l.foldl (fun b i => f i b) b) := by
  induction l generalizing b with
  | nil => exact h
  | cons i l ih => exact ih (hf i h)

/-- The operand slots with the use end of one reckoned again. -/
def reckonSlot (s : State) (t : TileId) (l : Tab 8 OpSlot) (i : Nat) : Tab 8 OpSlot :=
  match pendingUses s t (BitVec.ofNat 8 i) with
  | [] => l
  | u :: us => l.put (BitVec.ofNat 8 i) { l.at (BitVec.ofNat 8 i) with u := us.foldl max u }

theorem reckonSlot_of_nil (l : Tab 8 OpSlot) {i : Nat} (h : pendingUses s t (BitVec.ofNat 8 i) = []) : reckonSlot s t l i = l := by
  rw [reckonSlot, h]

theorem reckonSlot_of_cons (l : Tab 8 OpSlot) {i u : Nat} {us : List Nat} (h : pendingUses s t (BitVec.ofNat 8 i) = u :: us) :
    reckonSlot s t l i = l.put (BitVec.ofNat 8 i) { l.at (BitVec.ofNat 8 i) with u := us.foldl max u } := by
  rw [reckonSlot, h]

theorem OnlyUses.reckonSlot {a b : Tab 8 OpSlot} (h : OnlyUses a b) (s : State) (t : TileId) (i : Nat) :
    OnlyUses a (Machine.reckonSlot s t b i) := by
  cases hp : pendingUses s t (BitVec.ofNat 8 i) with
  | nil => rwa [reckonSlot_of_nil b hp]
  | cons u us =>
    rw [reckonSlot_of_cons b hp]
    exact h.put _ _

theorem reckonUses_fold (s : State) (t : TileId) : reckonUses s t =
    s.modTile t fun x => { x with opSlots := (List.range 256).foldl (reckonSlot s t) x.opSlots } := by
  unfold reckonUses
  refine congrArg (s.modTile t) (funext fun x => congrArg (fun l => { x with opSlots := l }) ?_)
  refine List.foldl_ext _ _ _ fun l i _ => ?_
  dsimp only
  cases h : pendingUses s t (BitVec.ofNat 8 i) with
  | nil => exact (reckonSlot_of_nil l h).symm
  | cons u us => exact (reckonSlot_of_cons l h).symm

/-- A tile with the use ends of its operand slots reckoned again. -/
theorem reckonUses_eq (s : State) (t : TileId) : ∃ l, OnlyUses (s.tileOf t).opSlots l ∧
    reckonUses s t = s.setTile t { s.tileOf t with opSlots := l } := by
  rw [reckonUses_fold, State.modTile]
  have h := onlyUses_foldl (fun i h => h.reckonSlot s t i) (List.range 256) (fun _ => rfl : OnlyUses (s.tileOf t).opSlots _)
  exact ⟨_, h, rfl⟩

/-- A tile with another wheel position and other use ends of its operand slots. -/
def rewheeled (s : State) (t : TileId) (w : BitVec 7) (l : Tab 8 OpSlot) : State :=
  s.setTile t { s.tileOf t with wheel := w, opSlots := l }

theorem upsetWheel_eq (s : State) (t : TileId) (mask : BitVec 7) : ∃ l, OnlyUses (s.tileOf t).opSlots l ∧
    upsetWheel s t mask =
      let v := rewheeled s t (BitVec.ofNat 7 (((s.tileOf t).wheel ^^^ mask).toNat % s.wheel)) l
      { v with agenda := s.agenda.map (wheelTick v t) } := by
  unfold upsetWheel
  dsimp only
  generalize hv : (s.modTile t fun x => { x with wheel := BitVec.ofNat 7 ((x.wheel ^^^ mask).toNat % s.wheel) }) = v
  have hx : v.tileOf t = { s.tileOf t with wheel := BitVec.ofNat 7 (((s.tileOf t).wheel ^^^ mask).toNat % s.wheel) } :=
    hv ▸ State.tileOf_modTile _ _ _
  split
  · refine ⟨_, fun _ => rfl, ?_⟩
    subst hv
    rfl
  · obtain ⟨l, hl, he⟩ := reckonUses_eq v t
    rw [hx] at hl
    refine ⟨l, hl, ?_⟩
    have h2 : reckonUses v t = rewheeled s t (BitVec.ofNat 7 (((s.tileOf t).wheel ^^^ mask).toNat % s.wheel)) l := by
      rw [he, hx, ← hv, State.modTile, setTile_setTile]
      rfl
    rw [h2]
    rfl

theorem wheelTick_other {e : Sched} (h1 : ∀ i, e.act ≠ .ev (.arraySend t i)) (h2 : e.act ≠ .ev (.alignment t)) :
    wheelTick s t e = e := by
  unfold wheelTick
  split
  next o id h => rw [if_neg fun ho => h1 id (by rw [h, ho])]
  next o h => rw [if_neg fun ho => h2 (by rw [h, ho])]
  next => rfl

theorem wheelTick_alignment {e : Sched} (h : e.act = .ev (.alignment t)) :
    wheelTick s t e = { e with tick := s.now t.claim + (s.wheel - s.wheelPos t) % s.wheel } := by
  unfold wheelTick
  rw [h]
  exact if_pos rfl

theorem wheelTick_arraySend {e : Sched} {i n : Nat} {a : ArraySend} (h : e.act = .ev (.arraySend t i))
    (ha : (s.tileOf t).sends.find? (fun x => x.id == i) = some a)
    (hn : nextSend s.wheel (wheelShift s t) ((s.tileOf t).localSlots a.tag) (sendFloor s t a.tag) = some n) :
    wheelTick s t e = { e with tick := n } := by
  unfold wheelTick
  rw [h]
  dsimp only
  rw [if_pos rfl, ha]
  dsimp only
  rw [hn]

theorem sendFloor_eq (s : State) (t : TileId) (tag : BitVec 12) :
    sendFloor s t tag = s.now t.claim + if tag ∈ (s.tileOf t).locals then 1 else 0 := by
  simp only [sendFloor, List.contains_iff_mem]

/-- An upset of a wheel position; the array sends and the alignment of the tile follow it. -/
theorem wheelUpset_follows (t : TileId) (mask : BitVec 72) (s : State) :
    ∃ u, exec (.bitUpset (.wheel t) mask) s = .next u ∧
    (u.tileOf t).wheel.toNat = ((s.tileOf t).wheel.toNat ^^^ mask.toNat % 128) % s.wheel % 128 ∧
    u.tileOf t = { s.tileOf t with wheel := (u.tileOf t).wheel, opSlots := (u.tileOf t).opSlots } ∧
    (∀ k, (u.tileOf t).opSlots.at k = { (s.tileOf t).opSlots.at k with u := ((u.tileOf t).opSlots.at k).u }) ∧
    (∀ o ≠ t, u.tileOf o = s.tileOf o) ∧ u.cores = s.cores ∧
    ∀ e ∈ s.agenda,
      ((∀ i, e.act ≠ .ev (.arraySend t i)) → e.act ≠ .ev (.alignment t) → e ∈ u.agenda) ∧
      (e.act = .ev (.alignment t) →
        { e with tick := s.now t.claim + (s.wheel - (u.tileOf t).wheel.toNat) % s.wheel } ∈ u.agenda) ∧
      ∀ i a n, e.act = .ev (.arraySend t i) → (s.tileOf t).sends.find? (fun x => x.id == i) = some a →
        nextSend s.wheel (wheelShift u t) ((s.tileOf t).localSlots a.tag)
          (s.now t.claim + if a.tag ∈ (s.tileOf t).locals then 1 else 0) = some n → { e with tick := n } ∈ u.agenda := by
  obtain ⟨l, hl, hu⟩ := upsetWheel_eq s t (mask.extractLsb' 0 7)
  generalize hv : rewheeled s t (BitVec.ofNat 7 (((s.tileOf t).wheel ^^^ mask.extractLsb' 0 7).toNat % s.wheel)) l = v at hu
  have hx : v.tileOf t = { s.tileOf t with
      wheel := BitVec.ofNat 7 (((s.tileOf t).wheel ^^^ mask.extractLsb' 0 7).toNat % s.wheel), opSlots := l } :=
    hv ▸ State.tileOf_setTile _ _ _
  have hut : ∀ o, ({ v with agenda := s.agenda.map (wheelTick v t) } : State).tileOf o = v.tileOf o :=
    tileOf_congr rfl rfl rfl
  have hnow : v.now t.claim = s.now t.claim := hv ▸ rfl
  have hwh : v.wheel = s.wheel := hv ▸ rfl
  have hmem : ∀ e ∈ s.agenda, wheelTick v t e ∈ s.agenda.map (wheelTick v t) := fun e he => List.mem_map_of_mem he
  refine ⟨_, congrArg Host.Outcome.next hu, ?_, ?_, ?_, fun o ho => ?_, hv ▸ rfl, fun e he => ⟨fun h1 h2 => ?_, fun h => ?_,
    fun i a n h ha hn => ?_⟩⟩
  · rw [hut, hx]
    simp
  · rw [hut, hx]
  · rw [hut, hx]
    exact hl
  · rw [hut, ← hv]
    exact State.tileOf_setTile_ne _ _ _ _ ho
  · have := hmem e he
    rwa [wheelTick_other h1 h2] at this
  · have := hmem e he
    rw [wheelTick_alignment h, hnow, hwh] at this
    rw [hut]
    exact this
  · have := hmem e he
    rw [wheelTick_arraySend h (by rw [hx]; exact ha) (n := n)] at this
    · exact this
    · rw [sendFloor_eq, hnow, hwh, hx]
      exact hn

end Upsets
end Sys2Proof.Machine

namespace Sys2Proof.Machine

/-! # O54: how a claim ends, stops, halts, aborts and is released; self-test; upsets -/

section ClaimStops
open State
variable {s : State} {field row col cl : Nat}

/-- What a claim's stops do. -/
theorem stops_of_claim (cl : Nat) (s : State) :
    let c := s.claimOf cl
    let release : Nat × Event := (s.wall + 1, .claimRelease cl)
    let n := s.now cl
    (¬ Runs s cl → exec (.fatalStop cl) s = .next s ∧ exec (.uncorrectableHalt cl) s = .next s ∧
      exec (.abortStop cl) s = .next s) ∧
    (Runs s cl →
      (∃ u, exec (.fatalStop cl) s = .next u ∧ StandsStill s u cl (.faulted n) ∧ u.tiles = s.tiles ∧
        u.inputs = s.inputs ++ [release]) ∧
      (c.fatal ≠ none → exec (.uncorrectableHalt cl) s = .next s ∧ exec (.abortStop cl) s = .next s) ∧
      (c.fatal = none → NoDrift s cl → ∃ u, exec (.uncorrectableHalt cl) s = .next u ∧ StandsStill s u cl (.haltedAt n) ∧
        u.inputs = s.inputs ++ [release]) ∧
      (c.fatal = none → ¬ NoDrift s cl → ∃ u t, t.claim = cl ∧ exec (.uncorrectableHalt cl) s = .next u ∧
        ClaimFaulted s u t 0x32) ∧
      (c.fatal = none → c.firstErr ≠ none → exec (.abortStop cl) s = .next s) ∧
      (c.fatal = none → c.firstErr = none → ∃ u, exec (.abortStop cl) s = .next u ∧ StandsStill s u cl (.aborted n) ∧
        u.inputs = s.inputs ++ [release] ∧ (u.claimOf cl).faultCount = c.faultCount + 1 ∧
        (c.faults.length < 64 → ∃ r ∈ (u.claimOf cl).faults, r.cause = 0x61 ∧ r.core = 15 ∧ r.tick = n))) :=
  ⟨stops_not_running, fun h => ⟨fatalStop_stands h, stops_fatal, uncorrectableHalt_stands h, uncorrectableHalt_drifts h,
    fun _ => abortStop_halting, abortStop_stands h⟩⟩

/-- A move of a row that no claim holds is made at once, outside a switch of its controllers. -/
theorem selfTestMove_free (hb : ¬ Busy s field row col) (hh : holderOf s field = none) :
    (Switched s field → exec (.selfTestMove field row col) s =
      .next { s with inputs := s.inputs ++ [(s.wall + 1, .selfTestMove field row col)] }) ∧
    (¬ Switched s field → ∃ u, exec (.selfTestMove field row col) s = .next u ∧
      TestBegins s u field row col (Fixed s field row) ∧
      u = { s with tests := u.tests, shifts := u.shifts, lowRail := u.lowRail }) := by
  rw [selfTestMove_moves hb (.inl hh)]
  constructor
  · intro hs
    rw [moveRow_defers hh hs]
    rfl
  · intro hs
    rw [moveRow_maps hh hs]
    exact ⟨_, rfl, testBegins_beginTest s field row col .notDue Iff.rfl, onlyMaps_beginTest _ _ _⟩

theorem selfTestMoveBack_free (ht : Tested s field row) (hh : holderOf s field = none) :
    (Switched s field → exec (.selfTestMoveBack field row) s =
      .next { s with inputs := s.inputs ++ [(s.wall + 1, .selfTestMoveBack field row)] }) ∧
    (¬ Switched s field → ∃ u, exec (.selfTestMoveBack field row) s = .next u ∧ TestEnds s u field row ∧
      u = { s with tests := u.tests, shifts := u.shifts, lowRail := u.lowRail }) := by
  rw [selfTestMoveBack_moves ht]
  constructor
  · intro hs
    rw [moveRow_defers hh hs]
    rfl
  · intro hs
    rw [moveRow_maps hh hs]
    exact ⟨_, rfl, testEnds_endTest s field row .notDue, onlyMaps_endTest _ _⟩

theorem same_eq_false {m o : MoveReq} (h : ¬ (m.field = o.field ∧ m.row = o.row ∧ m.col = o.col)) : m.same o = false :=
  Bool.eq_false_iff.2 fun hs => h ((same_iff m o).1 hs)

/-- A move of a running claim's row is asked for. -/
theorem selfTestMove_asks (hh : holderOf s field = some cl) (hr : (s.claimOf cl).run = .running) (hb : ¬ Busy s field row col)
    (hf : ¬ Fixed s field row)
    (hn : ∀ m ∈ (s.claimOf cl).moves, ¬ (m.field = field ∧ m.row = row ∧ m.col = some col)) :
    exec (.selfTestMove field row col) s = .next (s.setClaim cl
      { s.claimOf cl with moves := (s.claimOf cl).moves ++ [⟨field, row, some col, .notDue⟩] }) := by
  rw [selfTestMove_moves hb (.inr hf), moveRow_asks hh hr rfl fun o ho => same_eq_false (hn o ho)]
  rfl

theorem selfTestMoveBack_asks (hh : holderOf s field = some cl) (hr : (s.claimOf cl).run = .running) (ht : Tested s field row)
    (hn : ∀ m ∈ (s.claimOf cl).moves, ¬ (m.field = field ∧ m.row = row ∧ m.col = none)) :
    exec (.selfTestMoveBack field row) s = .next (s.setClaim cl
      { s.claimOf cl with moves := (s.claimOf cl).moves ++ [⟨field, row, none, .notDue⟩] }) := by
  rw [selfTestMoveBack_moves ht, moveRow_asks hh hr rfl fun o ho => same_eq_false (hn o ho)]
  rfl

end ClaimStops

/-- Settles O54: each stop is the event's own branch, with the claim's count, agenda and record read off the shared operations. -/
theorem claimStops : Obligations.ClaimStops := by
  unfold Obligations.ClaimStops
  refine ⟨fun cl s => ?evaluation, stops_of_claim, fun cl s ha hs hp hh => ?preemption, fun cl s => preemptionStop_unasked,
    fun cl s => preemptionStop_not_admitted, fun cl w n lp s hc hf hp hr hb hn => preemptionStop_agrees hc hf hp hr hb hn,
    fun cl s => ?release, fun field row col s => ?selfTest,
    fun t bank word d mask s => ⟨bankUpset_flips t bank word mask s, linkUpset_marks t d mask s⟩, wheelUpset_follows,
    fun piece mask s => ⟨fun h => farUpset_absent h mask s, fun h => farUpset_flips h mask s⟩⟩
  case evaluation =>
    dsimp only
    rw [← satisfied_iff]
    exact ⟨claimEvaluation_stands, claimEvaluation_ends⟩
  case preemption =>
    have hadm : admitsStop s cl = true := (admitsStop_iff s cl).2 ⟨hh, hs⟩
    exact ⟨preemptionStop_stops ha hp hadm, preemptionStop_drifted ha hp hadm⟩
  case release =>
    dsimp only
    refine ⟨claimRelease_switching, fun hs hf n => ?_⟩
    have h := claimRelease_ends hs hf n
    cases he : (s.claimOf cl).firstErr with
    | none => rwa [faultNumbers_of_none he] at h
    | some e => rwa [faultNumbers_of_some he] at h
  case selfTest =>
    refine ⟨selfTestMove_busy, selfTestMove_free, fun h => ⟨selfTestMoveBack_untested h, tileFails_untested h⟩,
      selfTestMoveBack_free, fun cl hh => ⟨fun hf => selfTestMove_fixed hf hh col, fun hr => ⟨selfTestMove_asks hh hr,
        selfTestMoveBack_asks hh hr, fun g ha hb hf => ⟨selfTestMove_between hh hr ha hb hf, fun hn => ⟨fun hw hg => ?_,
          fun hw hs hsw hd => ?_⟩⟩⟩⟩, tileFails_retires⟩
    · exact selfTestMove_waits hh hr ha hb hf hn (gateAt_waits (by rwa [inSpan_iff]) hg)
    · exact selfTestMove_made hh hr ha hb hf hn (gateAt_ne_waits (by rwa [inSpan_iff])) hs hsw hd

end Sys2Proof.Machine

namespace Sys2Proof

/-! # The codec: the fields of a layout read back (spec/02 R47, R58, R59, R64 to R67) -/

section Layouts
variable (op : BitVec 8) (w : Bool) (d : BitVec 6) (sa sb sx : BitVec 7) (g base : BitVec 4) (fn : BitVec 7)
  (imm : BitVec 18) (ofs : BitVec 10) (sat o : Bool) (ty tf ff u nr tl : BitVec 6) (lit : BitVec 16) (rnd : BitVec 3)
  (p slot : BitVec 8) (tag : BitVec 12) (line : BitVec 9) (e : BitVec 2) (crn : BitVec 10)

@[simp] theorem mkG_fields :
    fOP (mkG op w d sa sb g fn) = op ∧ fW (mkG op w d sa sb g fn) = w ∧ fD (mkG op w d sa sb g fn) = d ∧
      fSA (mkG op w d sa sb g fn) = sa ∧ fSB (mkG op w d sa sb g fn) = sb ∧ fG (mkG op w d sa sb g fn) = g ∧
      fFN (mkG op w d sa sb g fn) = fn := by
  simp only [fOP, fW, fD, fSA, fSB, fG, fFN, mkG]
  refine ⟨?_, ?_, ?_, ?_, ?_, ?_, ?_⟩
  all_goals
    repeat rw [BitVec.getLsbD_append]
    repeat rw [BitVec.extractLsb'_append_eq_of_le (by decide)]
    try rw [BitVec.extractLsb'_append_eq_of_add_le (by decide)]
    simp

@[simp] theorem mkG_low {k n : Nat} (h : k + n ≤ 7) : (mkG op w d sa sb g fn).extractLsb' k n = fn.extractLsb' k n :=
  BitVec.extractLsb'_append_eq_of_add_le h

@[simp] theorem mkI_fields :
    fOP (mkI op w d sa imm) = op ∧ fW (mkI op w d sa imm) = w ∧ fD (mkI op w d sa imm) = d ∧
      fSA (mkI op w d sa imm) = sa ∧ fIMM (mkI op w d sa imm) = imm := by
  simp only [fOP, fW, fD, fSA, fIMM, mkI]
  refine ⟨?_, ?_, ?_, ?_, ?_⟩
  all_goals
    repeat rw [BitVec.getLsbD_append]
    repeat rw [BitVec.extractLsb'_append_eq_of_le (by decide)]
    try rw [BitVec.extractLsb'_append_eq_of_add_le (by decide)]
    simp

@[simp] theorem mkI_low {k n : Nat} (h : k + n ≤ 18) : (mkI op w d sa imm).extractLsb' k n = imm.extractLsb' k n :=
  BitVec.extractLsb'_append_eq_of_add_le h

@[simp] theorem mkIV_fields :
    fOP (mkIV op w d sat ty lit) = op ∧ fW (mkIV op w d sat ty lit) = w ∧ fD (mkIV op w d sat ty lit) = d ∧
      (mkIV op w d sat ty lit)[24] = sat ∧ (mkIV op w d sat ty lit).extractLsb' 18 6 = ty ∧
      (mkIV op w d sat ty lit).extractLsb' 0 16 = lit := by
  simp only [fOP, fW, fD, mkIV, ← BitVec.getLsbD_eq_getElem]
  refine ⟨?_, ?_, ?_, ?_, ?_, ?_⟩
  all_goals
    repeat rw [BitVec.getLsbD_append]
    repeat rw [BitVec.extractLsb'_append_eq_of_le (by decide)]
    try rw [BitVec.extractLsb'_append_eq_of_add_le (by decide)]
    simp

@[simp] theorem mkA_fields :
    fOP (mkA op w d base ofs g fn) = op ∧ fW (mkA op w d base ofs g fn) = w ∧ fD (mkA op w d base ofs g fn) = d ∧
      fBASE (mkA op w d base ofs g fn) = base ∧ fOFS (mkA op w d base ofs g fn) = ofs ∧
      fG (mkA op w d base ofs g fn) = g ∧ fFN (mkA op w d base ofs g fn) = fn := by
  simp only [fOP, fW, fD, fBASE, fOFS, fG, fFN, mkA]
  refine ⟨?_, ?_, ?_, ?_, ?_, ?_, ?_⟩
  all_goals
    repeat rw [BitVec.getLsbD_append]
    repeat rw [BitVec.extractLsb'_append_eq_of_le (by decide)]
    try rw [BitVec.extractLsb'_append_eq_of_add_le (by decide)]
    simp

@[simp] theorem mkA_low {k n : Nat} (h : k + n ≤ 7) : (mkA op w d base ofs g fn).extractLsb' k n = fn.extractLsb' k n :=
  BitVec.extractLsb'_append_eq_of_add_le h

@[simp] theorem mkMX_fields :
    fOP (mkMX op w d base sx g fn) = op ∧ fW (mkMX op w d base sx g fn) = w ∧ fD (mkMX op w d base sx g fn) = d ∧
      fBASE (mkMX op w d base sx g fn) = base ∧ fSX (mkMX op w d base sx g fn) = sx ∧
      fG (mkMX op w d base sx g fn) = g ∧ fFN (mkMX op w d base sx g fn) = fn := by
  simp only [fOP, fW, fD, fBASE, fSX, fG, fFN, mkMX]
  refine ⟨?_, ?_, ?_, ?_, ?_, ?_, ?_⟩
  all_goals
    repeat rw [BitVec.getLsbD_append]
    repeat rw [BitVec.extractLsb'_append_eq_of_le (by decide)]
    try rw [BitVec.extractLsb'_append_eq_of_add_le (by decide)]
    simp

@[simp] theorem mkMX_low {k n : Nat} (h : k + n ≤ 7) : (mkMX op w d base sx g fn).extractLsb' k n = fn.extractLsb' k n :=
  BitVec.extractLsb'_append_eq_of_add_le h

@[simp] theorem mkXF_fields :
    fOP (mkXF op w d sa tf ff rnd sat) = op ∧ fW (mkXF op w d sa tf ff rnd sat) = w ∧
      fD (mkXF op w d sa tf ff rnd sat) = d ∧ fSA (mkXF op w d sa tf ff rnd sat) = sa ∧
      fTO (mkXF op w d sa tf ff rnd sat) = tf ∧ fFROM (mkXF op w d sa tf ff rnd sat) = ff ∧
      fRND (mkXF op w d sa tf ff rnd sat) = rnd ∧ (mkXF op w d sa tf ff rnd sat)[2] = sat := by
  simp only [fOP, fW, fD, fSA, fTO, fFROM, fRND, mkXF, ← BitVec.getLsbD_eq_getElem]
  refine ⟨?_, ?_, ?_, ?_, ?_, ?_, ?_, ?_⟩
  all_goals
    repeat rw [BitVec.getLsbD_append]
    repeat rw [BitVec.extractLsb'_append_eq_of_le (by decide)]
    try rw [BitVec.extractLsb'_append_eq_of_add_le (by decide)]
    simp

@[simp] theorem mkXB_fields :
    fOP (mkXB op d u p g fn) = op ∧ fD (mkXB op d u p g fn) = d ∧ (mkXB op d u p g fn).extractLsb' 19 6 = u ∧
      (mkXB op d u p g fn).extractLsb' 11 8 = p ∧ fG (mkXB op d u p g fn) = g ∧ fFN (mkXB op d u p g fn) = fn := by
  simp only [fOP, fD, fG, fFN, mkXB]
  refine ⟨?_, ?_, ?_, ?_, ?_, ?_⟩
  all_goals
    repeat rw [BitVec.extractLsb'_append_eq_of_le (by decide)]
    try rw [BitVec.extractLsb'_append_eq_of_add_le (by decide)]
    simp

@[simp] theorem mkXB_low {k n : Nat} (h : k + n ≤ 7) : (mkXB op d u p g fn).extractLsb' k n = fn.extractLsb' k n :=
  BitVec.extractLsb'_append_eq_of_add_le h

@[simp] theorem mkER_fields :
    fOP (mkER op w d sa tag tl) = op ∧ fW (mkER op w d sa tag tl) = w ∧ fD (mkER op w d sa tag tl) = d ∧
      fSA (mkER op w d sa tag tl) = sa ∧ fTAG (mkER op w d sa tag tl) = tag ∧
      (mkER op w d sa tag tl).extractLsb' 0 6 = tl := by
  simp only [fOP, fW, fD, fSA, fTAG, mkER]
  refine ⟨?_, ?_, ?_, ?_, ?_, ?_⟩
  all_goals
    repeat rw [BitVec.getLsbD_append]
    repeat rw [BitVec.extractLsb'_append_eq_of_le (by decide)]
    try rw [BitVec.extractLsb'_append_eq_of_add_le (by decide)]
    simp

@[simp] theorem mkES_fields :
    fOP (mkES op slot base line nr o e) = op ∧ (mkES op slot base line nr o e).extractLsb' 24 8 = slot ∧
      (mkES op slot base line nr o e).extractLsb' 20 4 = base ∧
      (mkES op slot base line nr o e).extractLsb' 11 9 = line ∧
      (mkES op slot base line nr o e).extractLsb' 5 6 = nr ∧ (mkES op slot base line nr o e)[4] = o ∧
      (mkES op slot base line nr o e).extractLsb' 2 2 = e := by
  simp only [fOP, mkES, ← BitVec.getLsbD_eq_getElem]
  refine ⟨?_, ?_, ?_, ?_, ?_, ?_, ?_⟩
  all_goals
    repeat rw [BitVec.getLsbD_append]
    repeat rw [BitVec.extractLsb'_append_eq_of_le (by decide)]
    try rw [BitVec.extractLsb'_append_eq_of_add_le (by decide)]
    simp

@[simp] theorem mkCK_fields :
    fOP (mkCK op d sa crn o) = op ∧ fD (mkCK op d sa crn o) = d ∧ fSA (mkCK op d sa crn o) = sa ∧
      (mkCK op d sa crn o).extractLsb' 8 10 = crn ∧ (mkCK op d sa crn o)[7] = o := by
  simp only [fOP, fD, fSA, mkCK, ← BitVec.getLsbD_eq_getElem]
  refine ⟨?_, ?_, ?_, ?_, ?_⟩
  all_goals
    repeat rw [BitVec.getLsbD_append]
    repeat rw [BitVec.extractLsb'_append_eq_of_le (by decide)]
    try rw [BitVec.extractLsb'_append_eq_of_add_le (by decide)]
    simp

/-! A form whose D, TAG or P field holds a shorter operand, or two, reads a part of the field. -/

@[simp] theorem mkI_destination {n : Nat} (h : n ≤ 6) : (mkI op w d sa imm).extractLsb' 25 n = d.extractLsb' 0 n := by
  unfold mkI
  repeat rw [BitVec.extractLsb'_append_eq_of_le (by decide)]
  exact BitVec.extractLsb'_append_eq_of_add_le (by omega)

@[simp] theorem mkA_destination {n : Nat} (h : n ≤ 6) : (mkA op w d base ofs g fn).extractLsb' 25 n = d.extractLsb' 0 n := by
  unfold mkA
  repeat rw [BitVec.extractLsb'_append_eq_of_le (by decide)]
  exact BitVec.extractLsb'_append_eq_of_add_le (by omega)

@[simp] theorem mkER_alias {n : Nat} (h : n ≤ 12) : (mkER op w d sa tag tl).extractLsb' 6 n = tag.extractLsb' 0 n := by
  unfold mkER
  rw [BitVec.extractLsb'_append_eq_of_le (by decide)]
  exact BitVec.extractLsb'_append_eq_of_add_le (by omega)

@[simp] theorem mkXB_operands {k n : Nat} (h : 11 ≤ k) (h' : k + n ≤ 19) :
    (mkXB op d u p g fn).extractLsb' k n = p.extractLsb' (k - 11) n := by
  unfold mkXB
  rw [BitVec.extractLsb'_append_eq_of_le (by omega), BitVec.extractLsb'_append_eq_of_le (by omega),
    BitVec.extractLsb'_append_eq_of_add_le (by omega), Nat.sub_sub]

end Layouts

/-! ## Operands (R48 to R53, R60 to R63, R299, R349) -/

@[simp] theorem Latch.dec_code (l : Latch) : Latch.dec l.code = l := by cases l <;> rfl
@[simp] theorem Size.dec_code (e : Size) : Size.dec e.code = some e := by cases e <;> rfl
@[simp] theorem Rnd.dec_code (r : Rnd) : Rnd.dec r.code = some r := by cases r <;> rfl
@[simp] theorem Scope.dec_code (sc : Scope) : Scope.dec sc.code = some sc := by cases sc <;> rfl
@[simp] theorem CReg.dec_number (r : CReg) : CReg.dec r.number = some r := by cases r <;> rfl
@[simp] theorem CtxReg.dec_index (r : CtxReg) : CtxReg.dec r.index = some r := by cases r <;> rfl
@[simp] theorem Prec.dec_num (p : Prec) : Prec.dec p.num = some p := by cases p <;> rfl

@[simp] theorem Orient.dec_code (r : Orient) : Orient.dec r.code = some r := by
  cases r with
  | row => rfl
  | col e => cases e <;> rfl

@[simp] theorem CtxName.dec_index (r : CtxName) : CtxName.dec r.index = some r := by
  cases r with
  | reg r => cases r <;> rfl
  | stat r => cases r <;> rfl

@[simp] theorem Fam.dec_code (t : Fam) : Fam.dec (Fmt.fam t).code = some t := by
  obtain ⟨uns, ext, p⟩ := t
  cases uns <;> cases ext <;> cases p <;> rfl

@[simp] theorem Fmt.dec_code (f : Fmt) : Fmt.dec f.code = some f := by
  cases f with
  | flt t => cases t <;> rfl
  | int t => obtain ⟨signed, e⟩ := t; cases signed <;> cases e <;> rfl
  | fam t => obtain ⟨uns, ext, p⟩ := t; cases uns <;> cases ext <;> cases p <;> rfl

@[simp] theorem FTy.dec_code (t : FTy) : FTy.dec t.fmt.code = some t := by simp [FTy.dec, FTy.fmt]
@[simp] theorem HTy.dec_code (t : HTy) : HTy.dec t.fty.fmt.code = some t := by cases t <;> rfl
@[simp] theorem BTy.dec_code (t : BTy) : BTy.dec t.fty.fmt.code = some t := by cases t <;> rfl
@[simp] theorem ITy.dec_code (t : ITy) : ITy.dec (Fmt.int t).code = some t := by simp [ITy.dec]

theorem latchField_bits (l : Latch) : ((0b1000#4 ++ l.code).getLsbD 6 = true ∧ (0b1000#4 ++ l.code).extractLsb' 3 3 = 0) ∧
    (0b1000#4 ++ l.code).extractLsb' 0 3 = l.code := by
  cases l <;> decide

@[simp] theorem Src.dec_latch (n : Nat) (l : Latch) : Src.dec n (Src.latch l : Src n).bits = some (.latch l) := by
  obtain ⟨⟨hbit, hhigh⟩, hcode⟩ := latchField_bits l
  rw [Src.dec, Src.bits, if_neg (by simp only [hbit]; decide), if_pos hhigh, hcode, Latch.dec_code]

@[simp] theorem Src.dec_bits_g (a : Src 6) : Src.dec 6 a.bits = some a := by
  cases a with
  | reg i => simp [Src.dec, Src.bits]; omega
  | latch l => simp

@[simp] theorem Src.dec_bits_a (a : Src 4) : Src.dec 4 a.bits = some a := by
  cases a with
  | reg i => simp [Src.dec, Src.bits]; omega
  | latch l => simp

@[simp] theorem Dst.dec_bits_g (d : Dst 6) : Dst.dec 6 d.w d.bits = some d := by
  cases d with
  | reg i => simp [Dst.dec, Dst.bits, Dst.w]; omega
  | none => rfl

@[simp] theorem Dst.dec_bits_a (d : Dst 4) : Dst.dec 4 d.w d.bits = some d := by
  cases d with
  | reg i => simp [Dst.dec, Dst.bits, Dst.w]; omega
  | none => rfl

theorem evenIndex_bit (i : BitVec 5) : (i ++ 0#1).getLsbD 0 = false := by
  rw [BitVec.getLsbD_append]; rfl

@[simp] theorem evenIndex_pair (i : BitVec 5) : (i ++ 0#1).extractLsb' 1 5 = i := by
  rw [BitVec.extractLsb'_append_eq_of_le (by decide)]; simp

@[simp] theorem Dst.decPair_pairBits (d : Dst 5) : Dst.decPair d.w d.pairBits = some d := by
  cases d with
  | reg i =>
    show (if (i ++ 0#1).getLsbD 0 = false then some (Dst.reg ((i ++ 0#1).extractLsb' 1 5)) else Option.none) = _
    rw [if_pos (evenIndex_bit i), evenIndex_pair]
  | none => rfl

@[simp] theorem Src.decPair_pairBits {a : Src 5} (h : a.isReg = true) : Src.decPair a.pairBits = some a := by
  cases a with
  | reg i =>
    have hbits : (Src.reg i).pairBits.getLsbD 6 = false ∧ (Src.reg i).pairBits.getLsbD 0 = false := by
      unfold Src.pairBits
      repeat rw [BitVec.getLsbD_append]
      simp
    have hindex : (Src.reg i).pairBits.extractLsb' 1 5 = i := by
      unfold Src.pairBits
      rw [BitVec.extractLsb'_append_eq_of_le (by decide), BitVec.extractLsb'_append_eq_of_add_le (by decide)]
      simp
    rw [Src.decPair, if_pos hbits, hindex]
  | latch l => exact absurd h (by simp [Src.isReg])

/-! ## Parts of a field that holds more than one operand (R58, R64, R66, R69 to R73) -/

section Parts
variable (op : BitVec 8) (w b : Bool) (d : BitVec 6) (sa sb : BitVec 7) (g base : BitVec 4) (ofs : BitVec 10) (ty : BitVec 6)

@[simp] theorem type_part (x : BitVec 1) : (x ++ ty).extractLsb' 0 6 = ty := by
  rw [BitVec.extractLsb'_append_eq_of_add_le (by decide)]; simp

@[simp] theorem mkG_type (x : BitVec 1) : fTY (mkG op w d sa sb g (x ++ ty)) = ty := by
  simp [fTY]

@[simp] theorem mkA_type (x : BitVec 1) : fTY (mkA op w d base ofs g (x ++ ty)) = ty := by
  simp [fTY]

theorem saturate_part : (BitVec.ofBool b ++ ty).getLsbD 6 = b := by
  rw [BitVec.getLsbD_append]; simp

@[simp] theorem mkG_saturate : fSAT (mkG op w d sa sb g (BitVec.ofBool b ++ ty)) = b := by
  rw [fSAT, mkG, BitVec.getLsbD_append, if_pos (by decide), saturate_part]

@[simp] theorem mkA_saturate : fSAT (mkA op w d base ofs g (BitVec.ofBool b ++ ty)) = b := by
  rw [fSAT, mkA, BitVec.getLsbD_append, if_pos (by decide), saturate_part]

@[simp] theorem shiftCount_part (n : BitVec 5) : (n.setWidth 18).extractLsb' 0 5 = n := by
  apply BitVec.eq_of_toNat_eq; simp; omega

@[simp] theorem bitField_parts (wid pos : BitVec 5) :
    (0#8 ++ wid ++ pos).extractLsb' 0 5 = pos ∧ (0#8 ++ wid ++ pos).extractLsb' 5 5 = wid := by
  refine ⟨?_, ?_⟩
  · rw [BitVec.extractLsb'_append_eq_of_add_le (by decide)]; simp
  · rw [BitVec.extractLsb'_append_eq_of_le (by decide), BitVec.extractLsb'_append_eq_of_add_le (by decide)]; simp

/-- FN of a column access, and of a gather or scatter (R70). -/
@[simp] theorem column_part (e : Size) : (1#1 ++ e.code ++ 0#4).extractLsb' 4 2 = e.code ∧ ¬ (1#1 ++ e.code ++ 0#4).toNat < 64 := by
  cases e <;> decide

@[simp] theorem index_part (e : Size) : (0#1 ++ e.code ++ 0#4).extractLsb' 4 2 = e.code := by cases e <;> decide

@[simp] theorem give_part (core : BitVec 2) : (core ++ 0#6).extractLsb' 6 2 = core := by
  rw [BitVec.extractLsb'_append_eq_of_le (by decide)]; simp

@[simp] theorem lend_part (mask : BitVec 4) : (0#3 ++ mask).extractLsb' 0 4 = mask := by
  rw [BitVec.extractLsb'_append_eq_of_add_le (by decide)]; simp

@[simp] theorem format_part (f : BitVec 6) : (0#2 ++ f).extractLsb' 0 6 = f := by
  rw [BitVec.extractLsb'_append_eq_of_add_le (by decide)]; simp

@[simp] theorem copy_parts (plate cnt : BitVec 4) :
    (plate ++ cnt).extractLsb' 4 4 = plate ∧ (plate ++ cnt).extractLsb' 0 4 = cnt := by
  rw [BitVec.extractLsb'_append_eq_of_le (by decide), BitVec.extractLsb'_append_eq_of_add_le (by decide)]; simp

@[simp] theorem number8_part (n : BitVec 8) : (0#10 ++ n).extractLsb' 0 8 = n := by
  rw [BitVec.extractLsb'_append_eq_of_add_le (by decide)]; simp

@[simp] theorem number9_part (n : BitVec 9) : (0#9 ++ n).extractLsb' 0 9 = n := by
  rw [BitVec.extractLsb'_append_eq_of_add_le (by decide)]; simp

@[simp] theorem number16_part (n : BitVec 16) : (0#2 ++ n).extractLsb' 0 16 = n := by
  rw [BitVec.extractLsb'_append_eq_of_add_le (by decide)]; simp

@[simp] theorem destination4_part (n : BitVec 4) : (0#2 ++ n).extractLsb' 0 4 = n := by
  rw [BitVec.extractLsb'_append_eq_of_add_le (by decide)]; simp

@[simp] theorem destination2_part (n : BitVec 2) : (0#4 ++ n).extractLsb' 0 2 = n := by
  rw [BitVec.extractLsb'_append_eq_of_add_le (by decide)]; simp

@[simp] theorem alias_part (n : BitVec 4) : (0xFF#8 ++ n).extractLsb' 0 4 = n := by
  rw [BitVec.extractLsb'_append_eq_of_add_le (by decide)]; simp

@[simp] theorem quarterRow_parts (quarter : BitVec 2) (row : BitVec 6) (tile : BitVec 8) :
    (0#2 ++ quarter ++ row ++ tile).extractLsb' 0 8 = tile ∧ (0#2 ++ quarter ++ row ++ tile).extractLsb' 8 6 = row ∧
      (0#2 ++ quarter ++ row ++ tile).extractLsb' 14 2 = quarter := by
  refine ⟨?_, ?_, ?_⟩
  all_goals
    repeat rw [BitVec.extractLsb'_append_eq_of_le (by decide)]
    rw [BitVec.extractLsb'_append_eq_of_add_le (by decide)]
    simp

@[simp] theorem contextRegister_parts (x : BitVec 1) (i : BitVec 4) (n : BitVec 8) :
    (0#5 ++ x ++ i ++ n).extractLsb' 0 8 = n ∧ (0#5 ++ x ++ i ++ n).extractLsb' 8 4 = i := by
  refine ⟨?_, ?_⟩
  all_goals
    repeat rw [BitVec.extractLsb'_append_eq_of_le (by decide)]
    rw [BitVec.extractLsb'_append_eq_of_add_le (by decide)]
    simp

@[simp] theorem mma_parts (sh : BitVec 2) (set na nb : Bool) :
    (BitVec.ofBool na ++ BitVec.ofBool nb ++ BitVec.ofBool set ++ 0#2 ++ sh).extractLsb' 0 2 = sh := by
  rw [BitVec.extractLsb'_append_eq_of_add_le (by decide)]; simp

@[simp] theorem mkG_mma (sh : BitVec 2) (set na nb : Bool) :
    (mkG op w d sa sb g (BitVec.ofBool na ++ BitVec.ofBool nb ++ BitVec.ofBool set ++ 0#2 ++ sh))[4] = set ∧
      (mkG op w d sa sb g (BitVec.ofBool na ++ BitVec.ofBool nb ++ BitVec.ofBool set ++ 0#2 ++ sh))[5] = nb ∧
      (mkG op w d sa sb g (BitVec.ofBool na ++ BitVec.ofBool nb ++ BitVec.ofBool set ++ 0#2 ++ sh))[6] = na := by
  simp only [mkG, ← BitVec.getLsbD_eq_getElem]
  refine ⟨?_, ?_, ?_⟩
  all_goals
    repeat rw [BitVec.getLsbD_append]
    simp

/-- SEL and the scope of a fence or a `waita` (R73). -/
@[simp] theorem scope_parts (x : BitVec 4) (sc : BitVec 3) :
    (x ++ sc).extractLsb' 0 3 = sc ∧ (x ++ sc).toNat >>> 5 = x.toNat >>> 2 := by
  refine ⟨?_, ?_⟩
  · rw [BitVec.extractLsb'_append_eq_of_add_le (by decide)]; simp
  · have hsc : sc.toNat >>> 3 = 0 := Nat.shiftRight_eq_zero _ _ sc.isLt
    rw [BitVec.toNat_append, show 5 = 3 + 2 from rfl, Nat.shiftRight_add, Nat.shiftRight_or_distrib, Nat.shiftLeft_shiftRight, hsc,
      Nat.or_zero]
end Parts

end Sys2Proof

namespace Sys2Proof

/-! # The codec: every syllable and every bundle of one syllable decodes to its instruction (spec/02 R42, R46, R68 to R74) -/

/-! ## Classes -/

theorem SSlot.cls_inj {a b : SSlot} : a.cls = b.cls ↔ a = b := by cases a <;> cases b <;> simp [SSlot.cls]
theorem VSlot.cls_inj {a b : VSlot} : a.cls = b.cls ↔ a = b := by cases a <;> cases b <;> simp [VSlot.cls]

theorem SSlot.cls_ne (sl : SSlot) : (∀ b : VSlot, sl.cls ≠ b.cls) ∧ sl.cls ≠ .m ∧ sl.cls ≠ .x ∧ sl.cls ≠ .e ∧ sl.cls ≠ .c := by
  cases sl <;> simp [SSlot.cls] <;> intro b <;> cases b <;> simp [VSlot.cls]

theorem VSlot.cls_ne (sl : VSlot) : (∀ b : SSlot, sl.cls ≠ b.cls) ∧ sl.cls ≠ .m ∧ sl.cls ≠ .x ∧ sl.cls ≠ .e ∧ sl.cls ≠ .c := by
  cases sl <;> simp [VSlot.cls] <;> intro b <;> cases b <;> simp [SSlot.cls]

theorem ne_cls (a : SSlot) (b : VSlot) : (.m ≠ a.cls ∧ .x ≠ a.cls ∧ .e ≠ a.cls ∧ SlotClass.c ≠ a.cls) ∧
    .m ≠ b.cls ∧ .x ≠ b.cls ∧ .e ≠ b.cls ∧ SlotClass.c ≠ b.cls := by
  cases a <;> cases b <;> simp [SSlot.cls, VSlot.cls]

/-! ## The candidate of an instruction's own syllable, class by class: `simp` reads the fields and decodes the operands -/

theorem candidateS_encode {i : Instr} {sl : SSlot} {w : BitVec 40} (h : i.encode = some (sl.cls, w)) :
    candidateS sl w = some i := by
  cases i <;>
    simp only [Instr.encode, Option.some.injEq, Prod.mk.injEq, reduceCtorEq, SSlot.cls_inj, VSlot.cls_ne, (ne_cls sl .v0).1, false_and] at h
  all_goals
    obtain ⟨rfl, rfl⟩ := h
    simp [candidateS]

theorem candidateV_encode {i : Instr} {sl : VSlot} {w : BitVec 40} (h : i.encode = some (sl.cls, w)) :
    candidateV sl w = some i := by
  cases i <;>
    simp only [Instr.encode, Option.some.injEq, Prod.mk.injEq, reduceCtorEq, VSlot.cls_inj, SSlot.cls_ne, (ne_cls .s0 sl).2, false_and] at h
  all_goals
    obtain ⟨rfl, rfl⟩ := h
    simp [candidateV]

theorem candidateM_encode {i : Instr} {w : BitVec 40} (h : i.encode = some (.m, w)) :
    candidateM w = some i := by
  cases i <;>
    simp only [Instr.encode, Option.some.injEq, Prod.mk.injEq, reduceCtorEq, SSlot.cls_ne, VSlot.cls_ne, false_and, true_and] at h
  all_goals
    obtain rfl := h
    simp [candidateM]

theorem candidateX_encode {i : Instr} {w : BitVec 40} (hw : i.wellFormed = true) (h : i.encode = some (.x, w)) :
    candidateX w = some i := by
  cases i <;>
    simp only [Instr.encode, Option.some.injEq, Prod.mk.injEq, reduceCtorEq, SSlot.cls_ne, VSlot.cls_ne, false_and, true_and] at h
  all_goals obtain rfl := h
  case vpk o =>
    have hreg : o.a.isReg = true := by
      simp only [Instr.wellFormed, decide_eq_true_eq] at hw
      exact hw.2.1
    simp [candidateX, hreg]
  all_goals simp [candidateX]

theorem candidateE_encode {i : Instr} {w : BitVec 40} (h : i.encode = some (.e, w)) :
    candidateE w = some i.canon := by
  cases i <;>
    simp only [Instr.encode, Option.some.injEq, Prod.mk.injEq, reduceCtorEq, SSlot.cls_ne, VSlot.cls_ne, false_and, true_and] at h
  all_goals
    obtain rfl := h
    simp [candidateE, Instr.canon]

theorem candidateC_encode {i : Instr} {w : BitVec 40} (h : i.encode = some (.c, w)) :
    candidateC w = some i := by
  cases i <;>
    simp only [Instr.encode, Option.some.injEq, Prod.mk.injEq, reduceCtorEq, SSlot.cls_ne, VSlot.cls_ne, false_and, true_and] at h
  all_goals
    obtain rfl := h
    simp [candidateC]

theorem candidate_scalar (sl : SSlot) (w : BitVec 40) : candidate sl.cls w = candidateS sl w := by cases sl <;> rfl
theorem candidate_vector (sl : VSlot) (w : BitVec 40) : candidate sl.cls w = candidateV sl w := by cases sl <;> rfl

/-- Outside class E every instruction is its own `canon` (R72). -/
theorem canon_of_class {i : Instr} {cls : SlotClass} {w : BitVec 40} (h : i.encode = some (cls, w)) (hc : cls ≠ .e) : i.canon = i := by
  cases i
  case readToLandingBuffer | write | trackedWrite => exact absurd (congrArg Prod.fst (Option.some.inj h)).symm hc
  all_goals rfl

theorem candidate_encode {i : Instr} {cls : SlotClass} {w : BitVec 40} (hw : i.wellFormed = true) (h : i.encode = some (cls, w)) :
    candidate cls w = some i.canon := by
  by_cases hc : cls = .e
  · subst hc; exact candidateE_encode h
  · rw [canon_of_class h hc]
    cases cls with
    | s0 => exact candidateS_encode (sl := .s0) h
    | s1 => exact candidateS_encode (sl := .s1) h
    | v0 => exact candidateV_encode (sl := .v0) h
    | v1 => exact candidateV_encode (sl := .v1) h
    | m => exact candidateM_encode h
    | x => exact candidateX_encode hw h
    | e => exact absurd rfl hc
    | c => exact candidateC_encode h

/-! ## The decoder -/

theorem canon_encode (i : Instr) : i.canon.encode = i.encode := by cases i <;> rfl
theorem canon_wellFormed (i : Instr) : i.canon.wellFormed = i.wellFormed := by cases i <;> rfl

theorem decodeSyllable_of_candidate {cls : SlotClass} {w : BitVec 40} {i : Instr} (hc : candidate cls w = some i)
    (hw : i.wellFormed = true) (h : i.encode = some (cls, w)) : decodeSyllable cls w = some i := by
  simp [decodeSyllable, hc, hw, h]

theorem decodeSyllable_none {cls : SlotClass} {w : BitVec 40} (hc : candidate cls w = none) : decodeSyllable cls w = none := by
  simp [decodeSyllable, hc]

theorem wellFormed_encode_of_decodeSyllable {cls : SlotClass} {w : BitVec 40} {i : Instr} (h : decodeSyllable cls w = some i) :
    i.wellFormed = true ∧ i.encode = some (cls, w) := by
  unfold decodeSyllable at h
  split at h
  · split at h
    · next hi => obtain rfl := Option.some.inj h; simpa using hi
    · exact absurd h (by simp)
  · exact absurd h (by simp)

/-- Settles O1: the candidate of an instruction's own syllable is the instruction that `canon` names, which has the same
encoding and is as well formed. -/
theorem codecRoundTrip : Obligations.CodecRoundTrip := by
  intro i cls w hw h
  exact decodeSyllable_of_candidate (candidate_encode hw h) ((canon_wellFormed i).trans hw) ((canon_encode i).trans h)

theorem candidate_unassigned {cls : SlotClass} {w : BitVec 40} (h : (fOP w).toNat = 0xFF) : candidate cls w = none := by
  cases cls <;> simp [candidate, candidateS, candidateV, candidateM, candidateX, candidateE, candidateC, h]

theorem candidate_zero {cls : SlotClass} {w : BitVec 40} (hc : cls ≠ .c) (h : (fOP w).toNat = 0) : candidate cls w = none := by
  cases cls <;> simp_all [candidate, candidateS, candidateV, candidateM, candidateX, candidateE]

/-- Settles O3: no table has a row for 0xFF, only that of class C has one for 0x00, and the decoder's last check compares the
syllable with the encoding of what it answers. -/
theorem unassignedEncodings : Obligations.UnassignedEncodings := by
  refine ⟨fun cls w h => ?_, fun cls w hc h => ?_, fun cls w i h => wellFormed_encode_of_decodeSyllable h⟩
  · exact decodeSyllable_none (candidate_unassigned (congrArg BitVec.toNat h))
  · exact decodeSyllable_none (candidate_zero hc (congrArg BitVec.toNat h))

/-! ## Bundles of one syllable (R42, R46) -/

theorem headerClasses_single (cls : SlotClass) : headerClasses (BitVec.ofNat 8 (2 ^ cls.index)) = [cls] := by cases cls <;> decide

theorem syllable_syllableBytes (w : BitVec 40) : syllable (syllableBytes w) = w := by
  show w.extractLsb' 32 8 ++ w.extractLsb' 24 8 ++ w.extractLsb' 16 8 ++ w.extractLsb' 8 8 ++ w.extractLsb' 0 8 = w
  repeat rw [BitVec.extractLsb'_append_extractLsb'_eq_extractLsb' (by decide)]
  simp

/-- Settles O2: the header announces one class, its five bytes are the syllable, and that decodes to the instruction (O1). -/
theorem bundleRoundTrip : Obligations.BundleRoundTrip := by
  intro i cls w bytes hw h hb
  have hbytes : BitVec.ofNat 8 (2 ^ cls.index) :: syllableBytes w = bytes := by
    rw [Instr.bundleBytes, h] at hb
    exact Option.some.inj hb
  subst hbytes
  refine ⟨rfl, ?_⟩
  rw [decodeBundle, List.getD_cons_zero, List.drop_one, List.tail_cons, headerClasses_single, splitSyllables, splitSyllables,
    syllable_syllableBytes, List.map_cons, List.map_nil, codecRoundTrip i cls w hw h]

end Sys2Proof

namespace Sys2Proof.Machine

/-! # What a landing writes (spec/02 R50, R51, R54, R55; spec/01 R16; spec/04 R99) -/

/-! ## Lanes -/

theorem elem_eq_extract {n : Nat} (w : Nat) (v : BitVec n) (j : Nat) : elem w v j = (v.extractLsb' (w * j) w).toNat := by
  rw [elem, BitVec.extractLsb'_toNat]

/-- The 32 bits of a lane. -/
def laneBits (n : Nat) : Vec := (0xFFFFFFFF : Vec) <<< (32 * n)

/-- The lanes below n that a mask enables: what `mergeLanes` takes from the new value, with n = 16. -/
def laneMask (en : Mask) (n : Nat) : Vec :=
  (List.range n).foldl (fun acc i => if en.getLsbD i then acc ||| laneBits i else acc) 0

theorem mergeLanes_eq (en : Mask) (old new : Vec) :
    mergeLanes en old new = (new &&& laneMask en 16) ||| (old &&& ~~~laneMask en 16) := rfl

theorem laneMask_succ (en : Mask) (n : Nat) :
    laneMask en (n + 1) = if en.getLsbD n then laneMask en n ||| laneBits n else laneMask en n := by
  simp only [laneMask, List.range_succ, List.foldl_append, List.foldl_cons, List.foldl_nil]

theorem getLsbD_laneBits {n j : Nat} (hj : j < 512) : (laneBits n).getLsbD j = decide (j / 32 = n) := by
  have hlow : ∀ k, (0xFFFFFFFF : Vec).getLsbD k = decide (k < 32) := by
    intro k
    rw [show (0xFFFFFFFF : Vec) = BitVec.ofNat 512 (2 ^ 32 - 1) from rfl, BitVec.getLsbD_ofNat, Nat.testBit_two_pow_sub_one]
    by_cases h : k < 32 <;> simp only [h, decide_true, decide_false, Bool.and_true, Bool.and_false, decide_eq_true_eq]
    omega
  rw [laneBits, BitVec.getLsbD_shiftLeft, hlow]
  by_cases h : j < 32 * n <;> simp [h, hj] <;> omega

theorem getLsbD_laneMask (en : Mask) {n j : Nat} (hj : j < 512) :
    (laneMask en n).getLsbD j = (decide (j / 32 < n) && en.getLsbD (j / 32)) := by
  induction n with
  | zero => simp [laneMask]
  | succ n ih =>
    have hor : (laneMask en (n + 1)).getLsbD j = ((laneMask en n).getLsbD j || (en.getLsbD n && decide (j / 32 = n))) := by
      rw [laneMask_succ]
      cases en.getLsbD n <;> simp [getLsbD_laneBits hj]
    rw [hor, ih]
    rcases Nat.lt_trichotomy (j / 32) n with h | h | h
    · simp [h, h.ne, Nat.lt_succ_of_lt h]
    · subst h; simp
    · simp [Nat.not_lt_of_gt h, h.ne', Nat.not_lt.mpr (Nat.succ_le_of_lt h)]

/-- An enabled lane of the result is the new one, a disabled lane the old one (R55). -/
theorem elem_mergeLanes (en : Mask) (old new : Vec) {k : Nat} (hk : k < 16) :
    elem 32 (mergeLanes en old new) k = if en.getLsbD k then elem 32 new k else elem 32 old k := by
  have hbits : (mergeLanes en old new).extractLsb' (32 * k) 32 =
      if en.getLsbD k then new.extractLsb' (32 * k) 32 else old.extractLsb' (32 * k) 32 := by
    apply BitVec.eq_of_getLsbD_eq
    intro j hj
    have hlane : (32 * k + j) / 32 = k := by omega
    have hmask : (laneMask en 16).getLsbD (32 * k + j) = en.getLsbD k := by
      rw [getLsbD_laneMask en (by omega), hlane]; simp [hk]
    rw [mergeLanes_eq, BitVec.getLsbD_extractLsb', BitVec.getLsbD_or, BitVec.getLsbD_and, BitVec.getLsbD_and, BitVec.getLsbD_not, hmask]
    cases en.getLsbD k <;> simp [hj, show 32 * k + j < 512 by omega]
  rw [elem_eq_extract, hbits]
  split <;> rw [elem_eq_extract]

/-! ## Latches and registers after a write -/

namespace Core

@[simp] theorem latchOf_setLatch (c : Core) (l : Latch) (x : LatchState) : (c.setLatch l x).latchOf l = x := by
  simp [latchOf, setLatch, Tab.at, Tab.put]

theorem latchOf_setLatch_ne (c : Core) {l m : Latch} (x : LatchState) (h : m ≠ l) :
    (c.setLatch l x).latchOf m = c.latchOf m := by
  have hcode : l.code.toNat ≠ m.code.toNat := fun e =>
    h (by rw [← Latch.dec_code m, ← Latch.dec_code l, BitVec.eq_of_toNat_eq e])
  simp [latchOf, setLatch, Tab.at, Tab.put, hcode]

theorem latchOf_endRun (c : Core) (m : Latch) : (c.endRun.latchOf m).valid = false := by
  simp [latchOf, endRun, Tab.at]

theorem writeG_fields (c : Core) (i : BitVec 6) (v : MWord) : c.writeG i v = { c with g := (c.writeG i v).g } := by
  unfold writeG; split <;> rfl

theorem writeK_fields (c : Core) (i : BitVec 4) (v : MMask) : c.writeK i v = { c with k := (c.writeK i v).k } := by
  unfold writeK; split <;> rfl

@[simp] theorem latch_writeG (c : Core) (i : BitVec 6) (v : MWord) : (c.writeG i v).latch = c.latch := by
  rw [writeG_fields]

/-- A write to g0 is discarded (R16). -/
theorem readG_writeG_cases (c : Core) (i : BitVec 6) (v : MWord) : (c.writeG i v).readG i = if i = 0 then .clean 0 else v := by
  split
  · next h => subst h; rfl
  · next h => exact readG_writeG c i v h

end Core

/-! ## The state after a landing -/

/-- A landing changes one strand's core; the other strands and every byte stay. -/
theorem modCore_frame (s : State) (st : StrandId) (f : Core → Core) :
    (∀ o ≠ st, (s.modCore st f).coreOf o = s.coreOf o) ∧ BytesKept s (s.modCore st f) :=
  ⟨fun o h => State.coreOf_modCore_ne s st o f h, .of_tiles rfl rfl⟩

theorem exec_resultLanding (s : State) (st : StrandId) (r : RegWrite) (latch : Option (Latch × MVec)) :
    exec (.resultLanding st (.result [r] latch)) s = .next (s.modCore st fun c =>
      match latch with
      | none => c.applyWrite r
      | some (l, x) => (c.applyWrite r).setLatch l ⟨x, true⟩) := by
  cases latch <;> rfl

/-- Settles O17: a landing is a change of its strand's core alone, the register write with its merge and then the latch; a run's
end clears the eight valid bits. -/
theorem resultLanding : Obligations.ResultLanding := by
  intro st s l x
  refine ⟨fun i v => ?_, fun i v => ?_, fun i v en => ?_, fun i v en => ?_, ?_⟩
  · refine ⟨_, exec_resultLanding s st _ _, ?_⟩
    rw [State.coreOf_modCore]
    refine ⟨Core.readG_writeG_cases _ i v, fun j h => Core.readG_writeG_ne _ i j v h, Core.latchOf_setLatch _ _ _, fun m h => ?_, ?_,
      modCore_frame s st _⟩
    · rw [Core.latchOf_setLatch_ne _ _ h, Core.latchOf, Core.applyWrite, Core.latch_writeG]; rfl
    · simp only [Core.applyWrite, Core.setLatch]
      rw [Core.writeG_fields]
  · refine ⟨_, exec_resultLanding s st _ _, ?_⟩
    rw [State.coreOf_modCore]
    exact ⟨Core.readA_writeA _ i v, fun j h => Core.readA_writeA_ne _ i j v h, rfl, modCore_frame s st _⟩
  · refine ⟨_, exec_resultLanding s st _ _, ?_⟩
    rw [State.coreOf_modCore]
    refine ⟨fun k hk => ?_, fun j h => Core.readV_writeV_ne _ i j _ h, Core.latchOf_setLatch _ _ _, fun m h => ?_, rfl,
      modCore_frame s st _⟩
    · have hread : Core.readV ((Core.applyWrite (s.coreOf st) (.v i v en)).setLatch l ⟨x, true⟩) i =
          ⟨mergeLanes en ((s.coreOf st).readV i).val v.val, mergeMarks en ((s.coreOf st).readV i).psn v.psn⟩ :=
        Core.readV_writeV _ i _
      rw [hread]
      exact elem_mergeLanes en _ _ hk
    · rw [Core.latchOf_setLatch_ne _ _ h]; rfl
  · refine ⟨_, exec_resultLanding s st _ _, ?_⟩
    rw [State.coreOf_modCore]
    refine ⟨rfl, fun hi b hb => ?_, fun j h => Core.readK_writeK_ne _ i j _ h, Core.writeK_fields _ _ _, modCore_frame s st _⟩
    rw [Core.applyWrite, Core.readK_writeK _ i _ hi]
    rw [BitVec.getLsbD_or, BitVec.getLsbD_and, BitVec.getLsbD_and, BitVec.getLsbD_not]
    cases en.getLsbD b <;> simp [hb]
  · refine ⟨_, rfl, ?_⟩
    rw [State.coreOf_modCore]
    exact ⟨Core.latchOf_endRun _, rfl, modCore_frame s st _⟩

end Sys2Proof.Machine

namespace Sys2Proof.Machine

/-! # A bundle presented: the one fault that it takes, or the effects of its slots (spec/02 R43, R56, R57; spec/04 R101) -/

section Issue
variable {s : State}

/-! ## Fetch -/

theorem checkRead_cores (s : State) (t : TileId) (core : Nat) (bank : BitVec 6) (cells : List (Option Nat)) :
    (checkRead s t core bank cells).cores = s.cores ∧ (checkRead s t core bank cells).focus = s.focus := by
  unfold checkRead
  split
  · exact ⟨rfl, rfl⟩
  · simp only [uncorrectable]
    split <;> exact ⟨rfl, rfl⟩

theorem checkFetch_cores (s : State) (st : StrandId) :
    (checkFetch s st).cores = s.cores ∧ (checkFetch s st).focus = s.focus := by
  simp only [checkFetch]
  split
  · exact ⟨rfl, rfl⟩
  · refine List.foldlRecOn (motive := fun (u : State) => u.cores = s.cores ∧ u.focus = s.focus) _ _ ⟨rfl, rfl⟩ fun u hu a _ => ?_
    have h := checkRead_cores u st.tile st.core.toNat (BitVec.ofNat 6 ((65536 * (s.tileOf st.tile).insBase st.core.toNat + a) / 65536))
      [some ((65536 * (s.tileOf st.tile).insBase st.core.toNat + a) % 65536)]
    exact ⟨h.1.trans hu.1, h.2.trans hu.2⟩

theorem checkFetch_focus (s : State) (st : StrandId) : (checkFetch s st).focus = s.focus := (checkFetch_cores s st).2

/-! ## The step of a strand's issue -/

theorem presentBundle_none {ex : Meaning} (h : slotsAt (checkFetch s s.focus) s.focus = none) :
    presentBundle ex s = .next ((checkFetch s s.focus).fault .s0 0x01) := by
  simp [presentBundle, checkFetch_focus, h]

theorem presentBundle_some {ex : Meaning} {l : List Slot} (h : slotsAt (checkFetch s s.focus) s.focus = some l) :
    presentBundle ex s = presentSlots ex l (checkFetch s s.focus) := by
  simp [presentBundle, checkFetch_focus, h]

theorem step_issue {st : StrandId} {rest : List Task} (ht : s.todo = .issue st :: rest) (hl : isLive s st.tile.claim = true)
    (hp : presents s st = true) : step s = presentBundle exec (presenting s st rest) := by
  have hstep : step s = if isLive s st.tile.claim then issueStrand exec st { s with todo := rest } else .next { s with todo := rest } := by
    rw [step, stepWith, ht]; rfl
  have hp' : presents (presenting s st rest) st = true := hp
  rw [hstep, if_pos hl]
  exact if_pos hp'

/-! ## The first illegal slot -/

theorem find?_illegal {core : BitVec 2} {pre post : List Slot} {x : Slot} (hpre : ∀ y ∈ pre, slotLegal core y = true)
    (hx : slotLegal core x = false) : (pre ++ x :: post).find? (fun p => !slotLegal core p) = some x := by
  rw [List.find?_append, List.find?_eq_none.mpr (by simpa using hpre), List.find?_cons_of_pos (by simp [hx]), Option.none_or]

theorem find?_legal {core : BitVec 2} {l : List Slot} (h : l = l.filter (slotLegal core)) :
    l.find? (fun p => !slotLegal core p) = none :=
  List.find?_eq_none.mpr (by simpa using List.filter_eq_self.mp h.symm)

/-! ## The fault that is picked -/

theorem faultsOf_append (ex : Meaning) (s : State) (a b : List Instr) : faultsOf ex s (a ++ b) = faultsOf ex s a ++ faultsOf ex s b :=
  List.filterMap_append

theorem faultsOf_cons_some {ex : Meaning} {i : Instr} {n : Note} (l : List Instr) (h : noteOf ex s i = some n) :
    faultsOf ex s (i :: l) = (n.cause, i) :: faultsOf ex s l := by
  simp [faultsOf, h]

theorem faultsOf_eq_nil {ex : Meaning} {l : List Instr} (h : ∀ j ∈ l, noteOf ex s j = none) : faultsOf ex s l = [] := by
  rw [faultsOf, List.filterMap_eq_nil_iff]
  exact fun j hj => by rw [h j hj]; rfl

theorem cause_of_mem_faultsOf {ex : Meaning} {l : List Instr} {cause : Byte}
    (h : ∀ j ∈ l, ∀ n, noteOf ex s j = some n → n.cause ≠ cause) : ∀ x ∈ faultsOf ex s l, x.1 ≠ cause := by
  intro x hx
  obtain ⟨j, hj, hm⟩ := List.mem_filterMap.mp hx
  obtain ⟨n, hn, rfl⟩ := Option.map_eq_some_iff.mp hm
  exact h j hj n hn

theorem pickFault_invalid {α : Type} {cause : α → Byte} {pre post : List α} {x : α} (hx : cause x = 0x03)
    (hpre : ∀ y ∈ pre, cause y ≠ 0x03) : pickFault cause (pre ++ x :: post) = some x := by
  rw [pickFault, List.find?_append, List.find?_eq_none.mpr (by simpa using hpre), List.find?_cons_of_pos (by simp [hx]),
    Option.none_or]

theorem pickFault_first {α : Type} {cause : α → Byte} {l : List α} (h : ∀ y ∈ l, cause y ≠ 0x03) :
    pickFault cause l = l.head? := by
  rw [pickFault, List.find?_eq_none.mpr (by simpa using h)]

/-! ## A legal bundle -/

theorem wake_frame (s : State) : (wake s).me.pendingFault = s.me.pendingFault := by
  unfold wake
  split
  · simp [State.me]
  all_goals rfl

/-- A legal bundle with nothing to wait for is checked and issues (R110, R113). -/
theorem presentLegal_go {ex : Meaning} {is : List Instr} (htk : tkHold s is = .go)
    (hw : s.me.span = false ∨ someUnmet s is = false) : presentLegal ex is s = checkAndIssue ex is (wake s) := by
  have hwait : ¬ (s.me.span && someUnmet s is) = true := by rcases hw with h | h <;> simp [h]
  rw [presentLegal, htk]
  exact if_neg hwait

theorem presentSlots_all_legal {ex : Meaning} {l : List Slot} (hm : transferMisplaced s l = false)
    (hl : l = l.filter (slotLegal s.focus.core)) : presentSlots ex l s = presentLegal ex (l.filterMap fun p => p.2) s := by
  simp [presentSlots, hm, find?_legal hl]

theorem checkAndIssue_none {ex : Meaning} {is : List Instr} (hp : s.me.pendingFault = none)
    (h : ∀ j ∈ is, noteOf ex (sharing ex is s) j = none) : checkAndIssue ex is s = issueSlots ex is s := by
  simp [checkAndIssue, hp, faultsOf_eq_nil h, pickFault]

theorem checkAndIssue_some {ex : Meaning} {is : List Instr} {x : Byte × Instr} (hp : s.me.pendingFault = none)
    (h : pickFault (fun x => x.1) (faultsOf ex (sharing ex is s) is) = some x) :
    checkAndIssue ex is s = faultIn ex is s x.2 := by
  simp [checkAndIssue, hp, h]

end Issue

/-- Settles O10: the presentation's checks stand in the order of the statement, and among the slots that fault the picked one is
the first with cause 0x03, else the first. -/
theorem bundleFaultChoice : Obligations.BundleFaultChoice := by
  intro s st rest ht hl hp p hpend
  have hstep := step_issue ht hl hp
  have hf : p.focus = st := checkFetch_focus _ st
  have hpw : (wake p).me.pendingFault = none := by
    rw [wake_frame, State.me, hf]; exact hpend
  refine ⟨fun hs => ?_, fun l hs => ?_⟩
  · exact hstep.trans (presentBundle_none hs)
  replace hstep : step s = presentSlots exec l p := hstep.trans (presentBundle_some hs)
  refine ⟨fun hm hb => ?_, fun hm => ⟨fun pre post x hx hpre hbad => ?_, fun is hlegal his htk hwait => ?_⟩⟩
  · rw [hstep, presentSlots, if_pos (by simp [hm, hb])]
  · rw [hstep, presentSlots, if_neg (by simp [hm]), hf, hx, find?_illegal hpre hbad]
  subst his
  replace hstep : step s = checkAndIssue exec (l.filterMap fun y => y.2) (wake p) := by
    rw [hstep, presentSlots_all_legal hm (by rw [hf]; exact hlegal), presentLegal_go htk hwait]
  refine ⟨fun pre post i _ his hi hpre => ?_, fun hno => ⟨fun pre post i his hi hpre => ?_, fun hnone => ?_⟩⟩
  · rw [hstep, checkAndIssue_some (x := (0x03, i)) hpw]
    rw [his, faultsOf_append, faultsOf_cons_some post (by rw [← his]; exact hi)]
    exact pickFault_invalid rfl (cause_of_mem_faultsOf (by rw [← his]; exact hpre))
  · obtain ⟨n, hn⟩ := Option.isSome_iff_exists.mp hi
    rw [hstep, checkAndIssue_some (x := (n.cause, i)) hpw]
    rw [pickFault_first (cause_of_mem_faultsOf hno)]
    rw [his, faultsOf_append, ← his, faultsOf_eq_nil hpre, faultsOf_cons_some post hn]
    rfl
  · rw [hstep, checkAndIssue_none hpw hnone]

end Sys2Proof.Machine

namespace Sys2Proof.Machine

/-! # The step at a bundle of one instruction (spec/02 R43, R56; spec/04 R101, R110, R113) -/

section OneSyllable
variable {s : State} {i : Instr}

/-! ## A wait form that is held -/

/-- The strand in focus keeps its status, its program counter and its taint. -/
structure KeepsPlace (s u : State) : Prop where
  focus : u.focus = s.focus
  status : u.me.status = s.me.status
  pc : u.me.pc = s.me.pc
  taint : u.me.taint = s.me.taint

theorem KeepsPlace.refl (s : State) : KeepsPlace s s := ⟨rfl, rfl, rfl, rfl⟩

theorem KeepsPlace.trans {u w : State} (h : KeepsPlace s u) (h' : KeepsPlace u w) : KeepsPlace s w :=
  ⟨h'.focus.trans h.focus, h'.status.trans h.status, h'.pc.trans h.pc, h'.taint.trans h.taint⟩

theorem KeepsPlace.of_me {u : State} (hf : u.focus = s.focus) (hm : u.me = s.me) : KeepsPlace s u :=
  ⟨hf, by rw [hm], by rw [hm], by rw [hm]⟩

theorem keepsPlace_modCore {st : StrandId} (hf : s.focus = st) {f : Core → Core}
    (h : ∀ c, (f c).status = c.status ∧ (f c).pc = c.pc ∧ (f c).taint = c.taint) : KeepsPlace s (s.modCore st f) := by
  subst hf
  have hm : (s.modCore s.focus f).me = f s.me := State.coreOf_modCore s s.focus f
  obtain ⟨hstatus, hpc, htaint⟩ := h s.me
  exact ⟨rfl, by rw [hm, hstatus], by rw [hm, hpc], by rw [hm, htaint]⟩

theorem keepsPlace_plan (s : State) (e : Sched) : KeepsPlace s (s.plan e) := .of_me rfl rfl

theorem keepsPlace_setBarrier (s : State) (cl n : Nat) (b : Barrier) : KeepsPlace s (setBarrier s cl n b) := .of_me rfl rfl

theorem keepsPlace_readNow (s : State) (bank : BitVec 6) (cells : List (Option Nat)) : KeepsPlace s (s.readNow bank cells) := by
  obtain ⟨hc, hf⟩ := checkRead_cores s s.focus.tile s.focus.core.toNat bank cells
  refine .of_me hf ?_
  rw [State.me, State.readNow, hf]
  exact coreOf_congr hc _

theorem keepsPlace_watch (s : State) (o : MS 6) : KeepsPlace s (watch s o) := by
  unfold watch
  split
  · exact .refl s
  · exact keepsPlace_readNow s _ _

theorem keepsPlace_planPhase (s : State) (cl n : Nat) : KeepsPlace s (planPhase s cl n) := by
  unfold planPhase
  split
  · exact .refl s
  · split <;> exact .of_me rfl rfl

theorem keepsPlace_arriveAt (s : State) (n : Nat) : KeepsPlace s (arriveAt s n) := by
  have hset := keepsPlace_setBarrier s s.focus.tile.claim n
    { barrierOf s s.focus.tile.claim n with arrived := put (barrierOf s s.focus.tile.claim n).arrived s.focus s.t }
  have hcore := hset.trans (keepsPlace_modCore hset.focus (f := fun c =>
    { c with arrivals := put c.arrivals n (barrierOf s s.focus.tile.claim n).phase }) fun _ => ⟨rfl, rfl, rfl⟩)
  exact (hcore.trans (keepsPlace_plan _ _)).trans (keepsPlace_planPhase _ _ _)

theorem keepsPlace_syncArrive (s : State) (n : Nat) : KeepsPlace s (syncArrive s n) := by
  unfold syncArrive
  split
  · exact (keepsPlace_arriveAt s n).trans (keepsPlace_modCore (keepsPlace_arriveAt s n).focus fun _ => ⟨rfl, rfl, rfl⟩)
  · exact .refl s

theorem keepsPlace_presentWait (s : State) (i : Instr) : KeepsPlace s (presentWait s i) := by
  unfold presentWait
  split
  iterate 3
    split
    · exact keepsPlace_watch s _
    · exact .refl s
  · exact keepsPlace_syncArrive s _
  · exact .refl s

/-- A running or waiting bundle that is held is waiting. -/
theorem me_holdBundle (h : s.me.status = .running ∨ s.me.status = .waiting) :
    (holdBundle s).me = { s.me with status := .waiting } ∧ (holdBundle s).focus = s.focus := by
  have hm : holdBundle s = s.modCore s.focus fun c => { c with status := .waiting } := by
    rcases h with h | h <;> simp only [holdBundle, h]
  rw [hm]
  exact ⟨State.coreOf_modCore s s.focus _, rfl⟩

/-- A form with a wait condition is no `tkawait`, so that it keeps no target. -/
theorem keepTarget_of_waitOf {r : WaitResult} (u : State) (h : waitOf s i = some r) : keepTarget u [i] = u := by
  cases i
  case tkawait => exact absurd h (Option.some_ne_none r).symm
  all_goals rfl

/-- The poisoned operands that a waiting form taints the strand for (R343). -/
def waitPoison (s : State) : Instr → Bool
  | .spop _ _ g => (s.guard g).psn != 0
  | .tlWait _ a => (s.me.srcA a).psn != 0
  | .waitaEq o _ => (s.guard o.g).psn != 0 || (s.me.readA o.base).psn != 0 || (s.me.readG o.d).psn != 0
  | .waitaNe o _ => (s.guard o.g).psn != 0 || (s.me.readA o.base).psn != 0 || (s.me.readG o.d).psn != 0
  | .waitaGen o _ => (s.guard o.g).psn != 0 || (s.me.readA o.base).psn != 0 || (s.me.readG o.d).psn != 0
  | _ => false

theorem guardOn_of_ite {g : Guard} {x : WaitResult} {r : WaitResult}
    (h : (if s.guardOn g = true then some x else none) = some r) : (s.guard g).val.getLsbD 0 = true := by
  by_contra hg
  exact absurd h (by rw [if_neg (by exact hg)]; simp)

theorem waitaMark_of_guardOn {o : MS 6} (h : (s.guard o.g).val.getLsbD 0 = true) :
    waitaMark s o = ((s.guard o.g).psn != 0 || (s.me.readA o.base).psn != 0 || (s.me.readG o.d).psn != 0) := by
  rw [waitaMark, h, Bool.true_and, ← Bool.or_assoc]
  rfl

theorem waitMark_of_waitOf {r : WaitResult} (h : waitOf s i = some r) : waitMark s i = waitPoison s i := by
  cases i
  case waitaEq | waitaNe | waitaGen => exact waitaMark_of_guardOn (guardOn_of_ite h)
  all_goals rfl

/-- An unmet wait form in an open span: the strand waits at its bundle (R113). -/
theorem presentLegal_wait {ex : Meaning} (hspan : s.me.span = true) (hw : waitOf s i = some .unmet) (htk : tkHold s [i] = .go)
    (hp : s.me.pendingFault = none) :
    presentLegal ex [i] s = .next (holdBundle ((presentWait s i).taintIf (waitPoison s i))) := by
  have hu : someUnmet s [i] = true := by simp [someUnmet, hw]
  have hnone : pickFault (fun x => x.1) ([i].filterMap fun i => (waitFaults s i).map fun c => (c, i)) = none := by
    simp [pickFault, waitFaults, hw]
  simp only [presentLegal, htk, hspan, hu, hp, hnone, Bool.and_self, if_true, List.foldl_cons, List.foldl_nil,
    List.any_cons, List.any_nil, Bool.or_false, keepTarget_of_waitOf _ hw, waitMark_of_waitOf hw]

/-- What a bundle that waits leaves of its strand. -/
theorem me_wait (hst : s.me.status = .running ∨ s.me.status = .waiting) (b : Bool) :
    let u := holdBundle ((presentWait s i).taintIf b)
    u.focus = s.focus ∧ u.me.status = .waiting ∧ u.me.pc = s.me.pc ∧ u.me.taint = (s.me.taint || b) := by
  have hk := keepsPlace_presentWait s i
  have hm := State.me_taintIf (presentWait s i) b
  have hf := State.taintIf_focus (presentWait s i) b
  obtain ⟨hm', hf'⟩ := me_holdBundle (s := (presentWait s i).taintIf b) (by rw [hm]; simpa [hk.status] using hst)
  refine ⟨hf'.trans (hf.trans hk.focus), ?_, ?_, ?_⟩ <;> rw [hm'] <;> simp [hm, hk.pc, hk.taint]

/-! ## A form that issues -/

/-- One instruction that is not held back is exec of it, and moves the program counter unless it faults (R56, R57). -/
theorem checkAndIssue_one (ex : Meaning) (hp : s.me.pendingFault = none) : checkAndIssue ex [i] s =
    match ex i s with
    | .next u => if u.note = none then .next (afterIssue s.me.xfer s.headerPc s.nextPc u) else .next u
    | .fault f => .fault f
    | .refused r => .refused r := by
  cases hn : noteOf ex s i with
  | none =>
    rw [checkAndIssue_none hp (by simpa [sharing] using hn)]
    unfold noteOf at hn
    simp only [issueSlots, runSlots, preTaint]
    cases h : ex i s <;> simp_all
  | some n =>
    rw [checkAndIssue_some (x := (n.cause, i)) hp (by simp [sharing, faultsOf, hn, pickFault]; split <;> simp_all)]
    unfold noteOf at hn
    simp only [faultIn]
    cases h : ex i s <;> simp_all

end OneSyllable

/-- Settles O9: the bundle passes its encoding checks, and then either issues alone or is held. -/
theorem stepRunsDecoded : Obligations.StepRunsDecoded := by
  intro s st rest cls i at_ bytes ht hl hp p hfetch hdec hlegal hpend hbar htk
  have hf : p.focus = st := checkFetch_focus _ st
  have hme : p.me = p.coreOf st := by rw [State.me, hf]
  have hpend' : p.me.pendingFault = none := by rw [hme]; exact hpend
  have hslots : slotsAt p st = some [(cls, some i)] := by simp [slotsAt, hfetch, hdec]
  have hm : transferMisplaced p [(cls, some i)] = false := by
    rcases hbar with h | h <;> simp [transferMisplaced, h]
  have hstep : step s = presentLegal exec [i] p := by
    have hone : slotLegal p.focus.core (cls, some i) = true := by rw [hf]; exact hlegal
    have hall : [(cls, some i)] = [(cls, some i)].filter (slotLegal p.focus.core) := by simp [hone]
    rw [step_issue ht hl hp, presentBundle_some hslots]
    exact presentSlots_all_legal hm hall
  refine ⟨fun hgo => ?_, fun hspan hw hst => ?_⟩
  · rw [hstep, presentLegal_go htk (hgo.imp id fun h => by simpa [someUnmet] using h)]
    exact checkAndIssue_one exec (by rw [wake_frame]; exact hpend')
  · obtain ⟨hfu, hstatus, hpc, htaint⟩ := me_wait (s := p) (i := i) hst (waitPoison p i)
    have hu : ∀ u : State, u.focus = p.focus → u.me = u.coreOf st := fun u h => by rw [State.me, h, hf]
    refine ⟨_, hstep.trans (presentLegal_wait hspan hw htk hpend'), ?_⟩
    rw [← hu _ hfu, ← hme]
    exact ⟨hstatus, hpc, htaint⟩

end Sys2Proof.Machine

namespace Sys2Proof.Machine

/-! # Guards and latches (spec/02 R50, R55, R56; spec/13 R343) -/

section Guards
variable {s : State} {i : Instr} {cls : SlotClass} {g : Guard} {ls : List Latch}

/-- Whether all latches of a list may be read (R50). -/
def validAll (c : Core) (ls : List Latch) : Bool := ls.all fun l => (c.latchOf l).valid

theorem valid_one {n : Nat} (c : Core) (a : Src n) : c.ok a = validAll c (latchOfSrc a) := by
  cases a <;> simp [Core.ok, validAll, latchOfSrc]

theorem valid_two {n m : Nat} (c : Core) (a : Src n) (b : Src m) : (c.ok a && c.ok b) = validAll c (latchOfSrc a ++ latchOfSrc b) := by
  rw [valid_one, valid_one, validAll, validAll, validAll, List.all_append]

theorem validAll_false {c : Core} (h : ∃ l ∈ ls, (c.latchOf l).valid = false) : validAll c ls = false := by
  simpa [validAll] using h

/-! ## The frames of a syllable's execution -/

/-- The first tests of a syllable of class `cls` are bit 0 of its guard `g`, where it has one that is no lane mask, and the latches
`ls` of its sources (R50, R55, R56). -/
structure Framed (s : State) (cls : SlotClass) (g : Option Guard) (ls : List Latch) (out : Host.Outcome State Fault Refusal) : Prop where
  disabled : ∀ k, g = some k → s.guardOn k = false → out = .next (s.taintIf (anyPsn (s.guard k).psn))
  invalid : validAll s.me ls = false → (∀ k, g = some k → s.guardOn k = true) → out = .next (s.fault cls 0x03)

variable {v : Bool} {chk : Check} {eff : State → State} {chkLane : Mask → Check} {effLane : Mask → State → State}

theorem guarded_framed (hv : v = validAll s.me ls) : Framed s cls (some g) ls (guarded s cls g v eff) where
  disabled k hk h := by cases hk; exact guarded_disabled s cls _ v eff h
  invalid hi h := by rw [hv, hi]; exact guarded_invalid s cls g eff (h g rfl)

theorem guardedC_framed (hv : v = validAll s.me ls) : Framed s cls (some g) ls (guardedC s cls g v chk eff) where
  disabled k hk h := by cases hk; exact guardedC_disabled s cls _ v chk eff h
  invalid hi h := by rw [hv, hi]; exact guardedC_invalid s cls g chk eff (h g rfl)

theorem framed_unguarded {out : Host.Outcome State Fault Refusal} (h : validAll s.me ls = false → out = .next (s.fault cls 0x03)) :
    Framed s cls none ls out :=
  ⟨fun _ hk => (nomatch hk), fun hi _ => h hi⟩

theorem always_framed (hv : v = validAll s.me ls) : Framed s cls none ls (always s cls v eff) :=
  framed_unguarded fun hi => if_pos (hv.trans hi)

theorem alwaysC_framed (hv : v = validAll s.me ls) : Framed s cls none ls (alwaysC s cls v chk eff) :=
  framed_unguarded fun hi => if_pos (hv.trans hi)

theorem laned_framed (hv : v = validAll s.me ls) : Framed s cls none ls (laned s cls g v effLane) :=
  framed_unguarded fun hi => if_pos (hv.trans hi)

theorem lanedC_framed (hv : v = validAll s.me ls) : Framed s cls none ls (lanedC s cls g v chkLane effLane) :=
  framed_unguarded fun hi => if_pos (hv.trans hi)

/-- A syllable without a guard and without a latch among its sources. -/
theorem framed_plain {out : Host.Outcome State Fault Refusal} : Framed s cls none [] out := framed_unguarded fun hi => nomatch hi

/-! ## The shared frames of the S, V and M forms -/

theorem sBin_framed {o : SG3 6 6 6} {lat : Nat} {f : Word → Word → Word} :
    Framed s o.sl.cls (some o.g) (latchOfSrc o.a ++ latchOfSrc o.b) (sBin s o lat f) := guarded_framed (valid_two s.me _ _)

theorem sUn_framed {o : SG2 6 6} {f : Word → Word} : Framed s o.sl.cls (some o.g) (latchOfSrc o.a) (sUn s o f) :=
  guarded_framed (valid_one s.me _)

theorem sImm_framed {sl : SSlot} {d : Dst 6} {a : Src 6} {f : Word → Word} :
    Framed s sl.cls none (latchOfSrc a) (sImm s sl d a f) := always_framed (valid_one s.me _)

theorem vBin_framed {T : Type} {o : VG3 6 6 6 T} {lat : Nat} {f : Vec → Vec → Vec} :
    Framed s o.sl.cls none (latchOfSrc o.a ++ latchOfSrc o.b) (vBin s o lat f) := laned_framed (valid_two s.me _ _)

theorem vUn_framed {T : Type} {o : VG2 6 6 T} {lat : Nat} {f : Vec → Vec} :
    Framed s o.sl.cls none (latchOfSrc o.a) (vUn s o lat f) := laned_framed (valid_one s.me _)

theorem vTri_framed {T : Type} {o : VG4 6 6 T} {lat : Nat} {f : Vec → Vec → Vec → Vec} :
    Framed s o.sl.cls none (latchOfSrc o.a ++ latchOfSrc o.b) (vTri s o lat f) := laned_framed (valid_two s.me _ _)

theorem vCmp_framed {T : Type} {o : VG3 4 6 6 T} {w : Nat} {p : Nat → Nat → Bool} :
    Framed s o.sl.cls none (latchOfSrc o.a ++ latchOfSrc o.b) (vCmp s o w p) := laned_framed (valid_two s.me _ _)

theorem vMove_framed {o : VG3 6 6 6 Fmt} {f : State → Vec} {psn : State → Bool} (hv : v = validAll s.me ls) :
    Framed s o.sl.cls none ls (vMove s o v f psn) := laned_framed hv

theorem vPair_framed {o : VG3 5 6 6 Fmt} {f : Nat → Vec → Vec → List Nat} :
    Framed s o.sl.cls none (latchOfSrc o.a ++ latchOfSrc o.b) (vPair s o f) := laned_framed (valid_two s.me _ _)

theorem vReduce_framed {o : VG2 6 6 Fmt} {f : Nat → Nat → Nat} :
    Framed s o.sl.cls (some o.g) (latchOfSrc o.a) (vReduce s o f) := guarded_framed (valid_one s.me _)

theorem kBin_framed {o : VG3 4 4 4 Unit} {f : Mask → Mask → Mask} :
    Framed s o.sl.cls (some o.g) (latchOfSrc o.a ++ latchOfSrc o.b) (kBin s o f) := guarded_framed (valid_two s.me _ _)

theorem mLoad_framed {o : MA 6} {e : Size} {signed : Bool} : Framed s .m (some o.g) [] (mLoad s o e signed) := by
  dsimp only [mLoad]
  exact guardedC_framed rfl

theorem mStore_framed {o : MS 6} {e : Size} : Framed s .m (some o.g) [] (mStore s o e) := by
  dsimp only [mStore]
  exact guardedC_framed rfl

theorem mAmo_framed {op : AmoOp} {d : Dst 6} {cmp : MWord} {base : BitVec 4} {sx : Src 6} :
    Framed s .m (some g) (latchOfSrc sx) (mAmo s op d cmp base sx g) := by
  dsimp only [mAmo]
  exact guardedC_framed (valid_one s.me _)

section Lanes
variable {ea : BitVec 56} {ok : Bool} {cross : Mask → Bool} {psn : Bool} {cells cells2 : List Nat}

theorem mLoadV_framed {d : Dst 6} (hv : v = validAll s.me ls) : Framed s .m none ls (mLoadV s d g v ea ok cross psn cells) := by
  dsimp only [mLoadV]
  exact lanedC_framed hv

theorem mLoadPair_framed {d : Dst 5} (hv : v = validAll s.me ls) :
    Framed s .m none ls (mLoadPair s d g v ea ok cross psn cells cells2) := by
  dsimp only [mLoadPair]
  exact lanedC_framed hv

theorem mStoreV_framed {d : BitVec 6} (hv : v = validAll s.me ls) : Framed s .m none ls (mStoreV s d g v ea ok cross psn cells) := by
  dsimp only [mStoreV]
  exact lanedC_framed hv

end Lanes

theorem mRed_framed {kind : RedKind} {o : MXS} : Framed s .m none (latchOfSrc o.sx) (mRed s kind o) :=
  framed_unguarded fun hi => if_pos ((valid_one s.me _).trans hi)

/-! ## The shared frames and the wait forms of the X, E and C slots -/

theorem rotate_framed {o : XB} {rev : Bool} : Framed s .x (some o.g) [] (rotate s o rev) := by
  dsimp only [rotate]
  exact guardedC_framed rfl

theorem releaseFence_framed {sc : Scope} : Framed s .c (some g) [] (releaseFence s sc g) := guardedC_framed rfl

theorem send_framed {tag : BitVec 12} {a : Src 6} {hi : Bool} : Framed s .e none (latchOfSrc a) (send s tag a hi) := by
  dsimp only [send]
  exact alwaysC_framed (valid_one s.me _)

theorem branchIf_framed {a : Src 6} {taken : Word → Bool} {go : State → State} :
    Framed s .c none (latchOfSrc a) (branchIf s a taken go) := by
  dsimp only [branchIf]
  exact always_framed (valid_one s.me _)

theorem execBback_framed {o : XB} : Framed s .x (some o.g) [] (execBback o s) := by
  unfold execBback
  dsimp only
  split
  iterate 5 exact guardedC_framed rfl
  split
  · exact guardedC_framed rfl
  · split <;> exact guardedC_framed rfl

theorem execTlWait_framed {c : BitVec 8} {a : Src 4} : Framed s .e none (latchOfSrc a) (execTlWait c a s) :=
  framed_unguarded fun hi => if_pos ((valid_one s.me _).trans hi)

/-- A form without latches among its sources has its guard alone to test. -/
theorem framed_guard {out : Host.Outcome State Fault Refusal}
    (h : (s.guard g).val.getLsbD 0 = false → out = .next (s.taintIf (anyPsn (s.guard g).psn))) : Framed s cls (some g) [] out :=
  ⟨fun k hk hd => by cases hk; exact h hd, fun hi => nomatch hi⟩

theorem waita_framed {o : MS 6} {r : WaitCmp} : Framed s .c (some o.g) [] (waita s o r) := by
  refine framed_guard fun h => ?_
  have hm : waitaMark s o = anyPsn (s.guard o.g).psn := by rw [waitaMark, h, Bool.false_and, Bool.or_false]
  rw [waita, if_pos h, hm]

theorem execSpop_framed {d : Dst 6} {m : BitVec 6} : Framed s .x (some g) [] (execSpop d m g s) := framed_guard fun h => if_pos h

/-! ## Every syllable -/

/-- Every syllable tests its guard and its latches first: each form by the frame that it stands in. -/
theorem exec_framed {w : BitVec 40} (he : i.encode = some (cls, w)) : Framed s cls (nonLaneGuard i) (latchesRead i) (exec i s) := by
  cases i <;> dsimp only [exec, nonLaneGuard, latchesRead, execVgt, execVgt2, execVsc, execCrset, execRet, execLoop, execSpush,
    execScnt, execSreset, execBgive, execBlend, execBfmt, execBzero, execBcopy, execMshape, execMma, execMqnt, execXland, execXtag, execStgSet,
    execWsplit, execWret, execJcbAdd]
  case add | sub | and | or | xor | andn | mul | mulh | mulhn | div | divn | rem | remn | shl | shr | sra | rol | min |
        max | minn | maxn | ceq | cne | clt | cltn | cle | clen =>
    cases he
    exact sBin_framed
  case addi | andi | ori | xori | shli | shri | srai | ceqi | clti | bfx | bfxs =>
    cases he
    exact sImm_framed
  case clz | ctz | popc =>
    cases he
    exact sUn_framed
  case fadd | fsub | fmul | fmin | fmax | dot2 | iadd | isub | imul | imulh | iand | ior | ixor | imin | imax | ishl |
        ishr | isra =>
    cases he
    exact vBin_framed
  case fabs | fneg | frcp | frsq | fexp2 | flog2 | vmov =>
    cases he
    exact vUn_framed
  case fma | fms | fnma | imad =>
    cases he
    exact vTri_framed
  case fcmpEq | fcmpNe | fcmpLt | fcmpLe | fcmpUn | icmpEq | icmpNe | icmpLt | icmpLe =>
    cases he
    exact vCmp_framed
  case vperm | vrot =>
    cases he
    exact vMove_framed (valid_two s.me _ _)
  case vzip | vunzip =>
    cases he
    exact vPair_framed
  case vsum | vmaxr =>
    cases he
    exact vReduce_framed
  case kand | kor | kxor =>
    cases he
    exact kBin_framed
  case sel | vsel =>
    cases he
    exact always_framed (valid_two s.me _ _)
  case bfi | aaddi | cvt | qblk | dqblk | vupk | tkawait | crset =>
    cases he
    exact always_framed (valid_one s.me _)
  case brz | brnz | brk =>
    cases he
    exact branchIf_framed
  case aadd | asub | amk | vext | rngSeed =>
    cases he
    exact guarded_framed (valid_two s.me _ _)
  case ahi | alo | kset | kget | knot | kcnt | ret =>
    cases he
    exact guarded_framed (valid_one s.me _)
  case rngPop | bmap | halt | npreOn | npreOff | fenceAcq =>
    cases he
    exact guarded_framed rfl
  case vbc =>
    cases he
    exact laned_framed (valid_one s.me _)
  case vins =>
    cases he
    exact laned_framed (valid_two s.me _ _)
  case ldB | ldBn | ldH | ldHn | ldW =>
    cases he
    exact mLoad_framed
  case stB | stH | stW =>
    cases he
    exact mStore_framed
  case vgt =>
    cases he
    exact mLoadV_framed (valid_one s.me _)
  case vgt2 =>
    cases he
    exact mLoadPair_framed (valid_one s.me _)
  case vsc =>
    cases he
    exact mStoreV_framed (valid_one s.me _)
  case spush =>
    cases he
    exact lanedC_framed (valid_one s.me _)
  case amoAdd | amoAnd | amoOr | amoXor | amoMin | amoMax | amoXchg | amoCas =>
    cases he
    exact mAmo_framed
  case redF32 | redS32 =>
    cases he
    exact mRed_framed
  case scnt | sreset | bgive | blend | bfmt | bzero | bcopy | mshape | mma | mqnt | jcbPost =>
    cases he
    exact guardedC_framed rfl
  case wret | jcbAdd =>
    cases he
    exact guardedC_framed (valid_one s.me _)
  case wsplit =>
    cases he
    exact guardedC_framed (valid_two s.me _ _)
  case brot | brotRev =>
    cases he
    exact rotate_framed
  case fenceRel | fenceAr | fenceSc =>
    cases he
    exact releaseFence_framed
  case xsendLo | xsendHi =>
    cases he
    exact send_framed
  case xland | xtag | stgSet | loop =>
    cases he
    exact alwaysC_framed (valid_one s.me _)
  case tlWait =>
    cases he
    exact execTlWait_framed
  case waitaEq | waitaNe | waitaGen =>
    cases he
    exact waita_framed
  case bback =>
    cases he
    exact execBback_framed
  case spop =>
    cases he
    exact execSpop_framed
  case movi | movhi | vmovi | vldRow | vldCol | vstRow | vstCol | vld2 | vst2 | vlddRow | vlddCol | vpk | mclaim | mrel | mstageRow
    | mstageCol | maccRd | maccZero | xrecvLo | xrecvHi | xpoll | tkalign | tkhold | readToBank | readToLandingBuffer | write
    | trackedWrite | stgRd | tlRd | nop | br | call | gate | trap | svc | brkpt | iret | crget | barArr | barWait | barSync =>
    exact framed_plain
  all_goals cases he

/-- Only syllables are guarded; an event has no encoding. -/
theorem encode_of_nonLaneGuard (h : nonLaneGuard i = some g) : ∃ x, i.encode = some x := by
  cases hx : i.encode with
  | some x => exact ⟨x, rfl⟩
  | none =>
    cases i
    all_goals cases hx
    all_goals cases h

end Guards

/-- Settles O16: every syllable stands in a frame whose first tests are its guard and its latches (`exec_framed`). -/
theorem guardsAndLatches : Obligations.GuardsAndLatches := by
  refine ⟨fun i g s hg h => ?_, fun i cls w s he hl hg => ?_⟩
  · obtain ⟨⟨cls, w⟩, he⟩ := encode_of_nonLaneGuard hg
    exact (exec_framed he).disabled g hg h
  · exact (exec_framed he).invalid (validAll_false hl) hg

end Sys2Proof.Machine

namespace Sys2Proof.Machine

/-! # The forms that only write a result (spec/02 R51 to R53, R55, R57) -/

section ResultForms
variable {s u : State} {i : Instr} {cls : SlotClass} {g : Guard} {w : List RegWrite → Prop} {ls : List Latch} {lat : Nat}

/-- A state that a result form may answer. -/
def KeepsResult (s : State) (w : List RegWrite → Prop) (ls : List Latch) (u : State) : Prop := ResultFrame s u w ls ∧ BytesKept s u

/-- An outcome whose next state, if it has one, is one that a result form may answer. -/
def ResultOutcome (s : State) (w : List RegWrite → Prop) (ls : List Latch) (out : Host.Outcome State Fault Refusal) : Prop :=
  ∀ u, out = .next u → KeepsResult s w ls u

/-! ## Landings -/

theorem fault_result (c : Byte) (d : Quad) : KeepsResult s w ls (s.fault cls c d) :=
  ⟨.inl ⟨cls, c, d, rfl⟩, .of_tiles (by simp) (by simp)⟩

theorem taintIf_result (p : Bool) : KeepsResult s w ls (s.taintIf p) :=
  ⟨.inr ⟨p, [], by rw [List.append_nil, ← State.taintIf_agenda s p], Nat.zero_le 1, fun e he => nomatch he⟩,
    .of_tiles (State.taintIf_tiles s p) (State.taintIf_far s p)⟩

theorem land_result {regs : List RegWrite} {latch : Option (Latch × MVec)} (s : State) (p : Bool) (hlat : 0 < lat) (hw : w regs)
    (hl : ∀ x, latch = some x → x.1 ∈ ls) : KeepsResult s w ls ((s.taintIf p).land cls lat (.result regs latch)) := by
  refine ⟨.inr ⟨p, [_], by rw [← State.taintIf_agenda s p]; rfl, Nat.le_refl 1, fun e he => ?_⟩,
    .of_tiles (State.taintIf_tiles s p) (State.taintIf_far s p)⟩
  obtain rfl := List.mem_singleton.mp he
  exact ⟨by simp, by simpa using hlat, regs, latch, hw, hl, by simp⟩

theorem mem_of_map_latch {l : Latch} {v : MVec} : ∀ x, (some l).map (fun l => (l, v)) = some x → x.1 ∈ [l] := by
  rintro x ⟨⟩
  exact List.mem_singleton_self l

section Land
variable {l : Latch}

theorem landG_result {d : Dst 6} (s : State) (p : Bool) (hlat : 0 < lat) (v : MWord) :
    KeepsResult s (WritesG d) [l] ((s.taintIf p).landG cls lat d (some l) v) := by
  refine land_result s p hlat ?_ mem_of_map_latch
  cases d <;> simp [WritesG]

theorem landA_result {d : Dst 4} (s : State) (p : Bool) (hlat : 0 < lat) (v : MQuad) :
    KeepsResult s (WritesA d) [l] ((s.taintIf p).landA cls lat d (some l) v) := by
  refine land_result s p hlat ?_ mem_of_map_latch
  cases d <;> simp [WritesA]

theorem landK_result {d : Dst 4} (s : State) (p : Bool) (hlat : 0 < lat) (en : Mask) (v : MMask) :
    KeepsResult s (WritesK d) [l] ((s.taintIf p).landK cls lat d (some l) en v) := by
  refine land_result s p hlat ?_ mem_of_map_latch
  cases d <;> simp [WritesK]

theorem landV_result {d : Dst 6} (s : State) (p : Bool) (hlat : 0 < lat) (en : Mask) (v : MVec) :
    KeepsResult s (WritesV d) [l] ((s.taintIf p).landV cls lat d (some l) en v) := by
  refine land_result s p hlat ?_ mem_of_map_latch
  cases d <;> simp [WritesV]

theorem landPair_result {d : Dst 5} (s : State) (p : Bool) (hlat : 0 < lat) (en : Mask) (lo hi : MVec) :
    KeepsResult s (WritesPair d) [l] ((s.taintIf p).landPair cls lat d (some l) en lo hi) := by
  refine land_result s p hlat ?_ mem_of_map_latch
  cases d with
  | none => exact fun r hr => nomatch hr
  | reg i =>
    rintro r (_ | ⟨_, _ | ⟨_, ⟨⟩⟩⟩)
    · exact ⟨i, _, _, rfl, .inl rfl⟩
    · exact ⟨i, _, _, rfl, .inr rfl⟩

end Land

/-! ## The frames of a syllable's execution -/

section Frames
variable {v : Bool} {chk : Check} {eff : State → State} {effLane : Mask → State → State}

theorem next_result (h : KeepsResult s w ls u) : ResultOutcome s w ls (.next u) := by
  rintro _ ⟨⟩
  exact h

theorem checked_result (h : KeepsResult s w ls u) : KeepsResult s w ls (s.checked cls chk u) := by
  unfold State.checked
  split
  · exact fault_result _ _
  · exact h

theorem guarded_result (h : ∀ p, KeepsResult s w ls (eff (s.taintIf p))) : ResultOutcome s w ls (guarded s cls g v eff) := by
  unfold guarded
  dsimp only
  split
  · exact next_result (taintIf_result _)
  · split
    · exact next_result (fault_result _ _)
    · exact next_result (h _)

theorem guardedC_result (h : ∀ p, KeepsResult s w ls (eff (s.taintIf p))) : ResultOutcome s w ls (guardedC s cls g v chk eff) := by
  unfold guardedC
  dsimp only
  split
  · exact next_result (taintIf_result _)
  · split
    · exact next_result (fault_result _ _)
    · exact next_result (checked_result (h _))

theorem always_result (h : KeepsResult s w ls (eff s)) : ResultOutcome s w ls (always s cls v eff) := by
  unfold always
  split
  · exact next_result (fault_result _ _)
  · exact next_result h

theorem laned_result (h : ∀ en p, KeepsResult s w ls (effLane en (s.taintIf p))) :
    ResultOutcome s w ls (laned s cls g v effLane) := by
  unfold laned
  split
  · exact next_result (fault_result _ _)
  · exact next_result (h _ _)

end Frames

/-! ## The shared frames of the S and V forms -/

theorem sBin_result {o : SG3 6 6 6} {f : Word → Word → Word} (h : 0 < lat) :
    ResultOutcome s (WritesG o.d) [sLatch o.sl] (sBin s o lat f) := guarded_result fun p => landG_result s p h _

theorem sUn_result {o : SG2 6 6} {f : Word → Word} : ResultOutcome s (WritesG o.d) [sLatch o.sl] (sUn s o f) :=
  guarded_result fun p => landG_result s p Nat.one_pos _

theorem sImm_result {sl : SSlot} {d : Dst 6} {a : Src 6} {f : Word → Word} :
    ResultOutcome s (WritesG d) [sLatch sl] (sImm s sl d a f) := always_result (landG_result s false Nat.one_pos _)

theorem vBin_result {T : Type} {o : VG3 6 6 6 T} {f : Vec → Vec → Vec} (h : 0 < lat) :
    ResultOutcome s (WritesV o.d) [vLatch o.sl] (vBin s o lat f) := laned_result fun en p => landV_result s p h en _

theorem vUn_result {T : Type} {o : VG2 6 6 T} {f : Vec → Vec} (h : 0 < lat) :
    ResultOutcome s (WritesV o.d) [vLatch o.sl] (vUn s o lat f) := laned_result fun en p => landV_result s p h en _

theorem vTri_result {T : Type} {o : VG4 6 6 T} {f : Vec → Vec → Vec → Vec} (h : 0 < lat) :
    ResultOutcome s (WritesV (if o.w then .none else .reg o.d)) [vLatch o.sl] (vTri s o lat f) :=
  laned_result fun en p => landV_result s p h en _

theorem vCmp_result {T : Type} {o : VG3 4 6 6 T} {wid : Nat} {f : Nat → Nat → Bool} :
    ResultOutcome s (WritesK o.d) [vLatch o.sl] (vCmp s o wid f) :=
  laned_result fun en p => landK_result s p (Nat.succ_pos 2) en _

theorem vMove_result {o : VG3 6 6 6 Fmt} {v : Bool} {f : State → Vec} {psn : State → Bool} :
    ResultOutcome s (WritesV o.d) [vLatch o.sl] (vMove s o v f psn) :=
  laned_result fun en p => landV_result s p (Nat.succ_pos 2) en _

theorem vPair_result {o : VG3 5 6 6 Fmt} {f : Nat → Vec → Vec → List Nat} :
    ResultOutcome s (WritesPair o.d) [vLatch o.sl] (vPair s o f) :=
  laned_result fun en p => landPair_result s p (Nat.succ_pos 2) en _ _

theorem vReduce_result {o : VG2 6 6 Fmt} {f : Nat → Nat → Nat} : ResultOutcome s (WritesG o.d) [vLatch o.sl] (vReduce s o f) :=
  guarded_result fun p => landG_result s p (Nat.succ_pos 5) _

theorem kBin_result {o : VG3 4 4 4 Unit} {f : Mask → Mask → Mask} : ResultOutcome s (WritesK o.d) [vLatch o.sl] (kBin s o f) :=
  guarded_result fun p => landK_result s p Nat.one_pos _ _

/-! ## Every result form -/

theorem exec_result (hr : resultForm i = some (w, ls)) : ResultOutcome s w ls (exec i s) := by
  cases i <;> dsimp only [exec, execScnt]
  case movi =>
    cases hr
    exact next_result (landG_result s false (by decide) _)
  case movhi =>
    cases hr
    exact next_result (landG_result s false (by decide) _)
  case add | sub | and | or | xor | andn | mul | mulh | mulhn | div | divn | rem | remn | shl | shr | sra | rol | min |
        max | minn | maxn | ceq | cne | clt | cltn | cle | clen =>
    cases hr
    exact sBin_result (by decide)
  case addi | andi | ori | xori | shli | shri | srai | ceqi | clti | bfx | bfxs =>
    cases hr
    exact sImm_result
  case bfi =>
    cases hr
    exact always_result (landG_result s false (by decide) _)
  case aaddi =>
    cases hr
    exact always_result (landA_result s false (by decide) _)
  case sel =>
    cases hr
    exact always_result (landG_result s _ (by decide) _)
  case vsel =>
    cases hr
    exact always_result (landV_result s _ (by decide) _ _)
  case clz | ctz | popc =>
    cases hr
    exact sUn_result
  case ahi | alo | kget | vext | kcnt | bmap =>
    cases hr
    exact guarded_result fun p => landG_result s p (by decide) _
  case aadd | asub | amk =>
    cases hr
    exact guarded_result fun p => landA_result s p (by decide) _
  case kset | knot =>
    cases hr
    exact guarded_result fun p => landK_result s p (by decide) _ _
  case scnt =>
    cases hr
    exact guardedC_result fun p => landG_result s p (by decide) _
  case fadd | fsub | fmul | fmin | fmax | dot2 | iadd | isub | imul | imulh | iand | ior | ixor | imin | imax | ishl |
        ishr | isra =>
    cases hr
    exact vBin_result (by decide)
  case fabs | fneg | frcp | frsq | fexp2 | flog2 | vmov =>
    cases hr
    exact vUn_result (by decide)
  case fma | fms | fnma | imad =>
    cases hr
    exact vTri_result (by decide)
  case fcmpEq | fcmpNe | fcmpLt | fcmpLe | fcmpUn | icmpEq | icmpNe | icmpLt | icmpLe =>
    cases hr
    exact vCmp_result
  case vbc | vins =>
    cases hr
    exact laned_result fun en p => landV_result s p (by decide) en _
  case vmovi =>
    cases hr
    exact next_result (landV_result s false (by decide) _ _)
  case vperm | vrot =>
    cases hr
    exact vMove_result
  case vzip | vunzip =>
    cases hr
    exact vPair_result
  case vsum | vmaxr =>
    cases hr
    exact vReduce_result
  case kand | kor | kxor =>
    cases hr
    exact kBin_result
  all_goals cases hr

end ResultForms

/-- Settles O25: each result form stands in a frame that faults, taints or plans one landing (`exec_result`). -/
theorem resultFormsFrame : Obligations.ResultFormsFrame := fun _ _ _ _ u hr he => exec_result hr u he

end Sys2Proof.Machine

namespace Sys2Proof.Machine

/-! # What the issue of an M form leaves unchanged (spec/02 R56, R57; spec/08 R206; spec/13 R344) -/

/-! ## The marks of a read that fails its code -/

section Marks
variable {t : Tile} {bank : BitVec 6} {cells : List (Option Nat)}

theorem mem_setInsert_iff {l : List Nat} {x y : Nat} : y ∈ setInsert l x ↔ y = x ∨ y ∈ l := by
  induction l with
  | nil => simp [setInsert]
  | cons z l ih =>
    unfold setInsert
    split
    · simp
    · split
      · subst x
        simp
      · simp only [List.mem_cons, ih]
        tauto

theorem mem_foldl_setInsert {l m : List Nat} {f : Nat → Nat} {y : Nat} :
    y ∈ l.foldl (fun m o => setInsert m (f o)) m ↔ (∃ o ∈ l, y = f o) ∨ y ∈ m := by
  induction l generalizing m with
  | nil => simp
  | cons o l ih =>
    rw [List.foldl_cons, ih, mem_setInsert_iff, List.exists_mem_cons_iff]
    exact or_assoc.symm.trans (or_congr_left or_comm)

/-- The word of an offset's word is its own word. -/
theorem bankAddr_word (bank : BitVec 6) (o : Nat) : bankAddr bank (o / 8 * 8) / 8 = bankAddr bank o / 8 := by
  unfold bankAddr
  omega

theorem wordView_of_mem_failures {o : Nat} (h : o ∈ t.failures bank cells) : (t.wordView (bankAddr bank o / 8)).2 = true := by
  unfold Tile.failures at h
  split at h
  · cases h
  · obtain ⟨c, -, hc⟩ := List.mem_filterMap.mp h
    obtain ⟨p, -, hp⟩ := Option.bind_eq_some_iff.mp hc
    split at hp
    case isTrue hw =>
      cases hp
      rwa [bankAddr_word]
    case isFalse => cases hp

/-- Only words whose code fails are marked anew. -/
theorem contains_markFailures {w : Nat} : (t.markFailures bank cells).marks.contains w = true →
    t.marks.contains w = true ∨ (t.wordView w).2 = true := by
  intro h
  rw [List.contains_iff_mem] at h ⊢
  rcases mem_foldl_setInsert.mp h with ⟨o, ho, rfl⟩ | hm
  · exact .inr (wordView_of_mem_failures ho)
  · exact .inl hm

theorem contains_markFailures_of {w : Nat} (h : t.marks.contains w = true) : (t.markFailures bank cells).marks.contains w = true := by
  rw [List.contains_iff_mem] at h ⊢
  exact mem_foldl_setInsert.mpr (.inr h)

/-- A read delivers a failing word as marked before it is marked, so that the marks of a read change no byte (R344). -/
theorem byteView_markFailures (t : Tile) (bank : BitVec 6) (cells : List (Option Nat)) (b : BitVec 6) (off : Nat) :
    (t.markFailures bank cells).byteView b off = t.byteView b off := by
  have hword : ∀ w, (t.markFailures bank cells).wordView w = t.wordView w := fun _ => rfl
  have hmarks : ∀ w, ((t.markFailures bank cells).marks.contains w || (t.wordView w).2) = (t.marks.contains w || (t.wordView w).2) := by
    intro w
    rw [Bool.eq_iff_iff, Bool.or_eq_true, Bool.or_eq_true]
    exact ⟨fun h => h.elim contains_markFailures .inr, fun h => h.imp contains_markFailures_of id⟩
  have hflips : (t.markFailures bank cells).flips = t.flips := rfl
  unfold Tile.byteView
  dsimp only
  rw [hflips]
  cases hf : find t.flips (bankAddr b off / 8) with
  | none =>
    have hw : (t.wordView (bankAddr b off / 8)).2 = false := by simp [Tile.wordView, hf]
    have h := hmarks (bankAddr b off / 8)
    rw [hw, Bool.or_false, Bool.or_false] at h
    exact Prod.ext rfl h
  | some f => exact Prod.ext rfl (hmarks _)

end Marks

/-! ## The frame of an access -/

section Accesses
variable {s u v : State} {i : Instr} {en : Bool} {g : Guard}

/-- The parts of a tile that no access changes when it issues. -/
structure TileKept (x y : Tile) : Prop where
  bytes : ∀ bank off, y.byteView bank off = x.byteView bank off
  streams : y.streams = x.streams
  fmts : y.fmts = x.fmts
  opSlots : y.opSlots = x.opSlots
  accs : y.accs = x.accs
  landing : y.landing = x.landing
  routes : y.routes = x.routes

/-- The frame of an M form's issue; where nothing is enabled the bookings stay too. -/
structure AccessKept (en : Bool) (s u : State) : Prop where
  focus : u.focus = s.focus
  cores : ∃ p, ∀ st, u.coreOf st = (s.taintIf p).coreOf st
  far : u.far = s.far
  farTags : u.farTags = s.farTags
  ctxs : u.ctxs = s.ctxs
  queues : u.queues = s.queues
  agenda : ∃ l, u.agenda = s.agenda ++ l
  tiles : ∀ t, TileKept (s.tileOf t) (u.tileOf t)
  books : en = false → ∀ t, (u.tileOf t).bookings = (s.tileOf t).bookings

theorem TileKept.refl (x : Tile) : TileKept x x := ⟨fun _ _ => rfl, rfl, rfl, rfl, rfl, rfl, rfl⟩

theorem TileKept.trans {x y z : Tile} (h : TileKept x y) (k : TileKept y z) : TileKept x z where
  bytes bank off := (k.bytes bank off).trans (h.bytes bank off)
  streams := k.streams.trans h.streams
  fmts := k.fmts.trans h.fmts
  opSlots := k.opSlots.trans h.opSlots
  accs := k.accs.trans h.accs
  landing := k.landing.trans h.landing
  routes := k.routes.trans h.routes

theorem me_taintIf_taintIf {p q : Bool} (h : u.me = (s.taintIf p).me) : (u.taintIf q).me = (s.taintIf (p || q)).me := by
  rw [State.me_taintIf, State.me_taintIf, h, State.me_taintIf, Bool.or_assoc]

theorem coreOf_taintIf_taintIf {p q : Bool} (hf : u.focus = s.focus) (h : ∀ st, u.coreOf st = (s.taintIf p).coreOf st)
    (st : StrandId) : (u.taintIf q).coreOf st = (s.taintIf (p || q)).coreOf st := by
  by_cases hst : st = s.focus
  · have hu : u.me = (s.taintIf p).me := by rw [State.me, h, hf]; exact congrArg _ (State.taintIf_focus s p).symm
    have hme := me_taintIf_taintIf (q := q) hu
    rw [State.me, State.me, State.taintIf_focus, State.taintIf_focus, hf] at hme
    rw [hst, hme]
  · rw [State.coreOf_taintIf_ne u q st (hf ▸ hst), h, State.coreOf_taintIf_ne s _ st hst, State.coreOf_taintIf_ne s _ st hst]

theorem AccessKept.trans (h : AccessKept en s u) (k : AccessKept en u v) : AccessKept en s v := by
  obtain ⟨p, hp⟩ := h.cores
  obtain ⟨q, hq⟩ := k.cores
  obtain ⟨l, hl⟩ := h.agenda
  obtain ⟨m, hm⟩ := k.agenda
  exact {
    focus := k.focus.trans h.focus
    cores := ⟨p || q, fun st => (hq st).trans (coreOf_taintIf_taintIf h.focus hp st)⟩
    far := k.far.trans h.far
    farTags := k.farTags.trans h.farTags
    ctxs := k.ctxs.trans h.ctxs
    queues := k.queues.trans h.queues
    agenda := ⟨l ++ m, by rw [hm, hl, List.append_assoc]⟩
    tiles := fun t => (h.tiles t).trans (k.tiles t)
    books := fun he t => (k.books he t).trans (h.books he t) }

/-! ## The state operations of an access -/

theorem kept_taintIf (s : State) (p : Bool) : AccessKept en s (s.taintIf p) where
  focus := State.taintIf_focus s p
  cores := ⟨p, fun _ => rfl⟩
  far := State.taintIf_far s p
  farTags := State.taintIf_farTags s p
  ctxs := State.taintIf_ctxs s p
  queues := State.taintIf_queues s p
  agenda := ⟨[], by simp⟩
  tiles t := by rw [State.tileOf_taintIf]; exact .refl _
  books _ t := by rw [State.tileOf_taintIf]

theorem AccessKept.refl (s : State) : AccessKept en s s := kept_taintIf s false

theorem kept_plan (s : State) (e : Sched) : AccessKept en s (s.plan e) :=
  { AccessKept.refl s with agenda := ⟨[e], rfl⟩ }

theorem kept_planEv (s : State) (cl n ph : Nat) (e : Event) : AccessKept en s (s.planEv cl n ph e) := kept_plan s _

theorem kept_planWrite (s : State) (cls : SlotClass) (k lat : Nat) (bank : BitVec 6) (l : List BankByte) :
    AccessKept en s (s.planWrite cls k lat bank l) := by
  unfold State.planWrite
  split
  · exact .refl s
  · exact kept_plan s _

theorem tileKept_setTile {t : TileId} {x : Tile} (hx : TileKept (s.tileOf t) x) (o : TileId) :
    TileKept (s.tileOf o) ((s.setTile t x).tileOf o) := by
  by_cases h : o = t
  · subst h
    rwa [State.tileOf_setTile]
  · rw [State.tileOf_setTile_ne _ _ _ _ h]
    exact .refl _

theorem bookings_setTile {t : TileId} {x : Tile} (hx : x.bookings = (s.tileOf t).bookings) (o : TileId) :
    ((s.setTile t x).tileOf o).bookings = (s.tileOf o).bookings := by
  by_cases h : o = t
  · subst h
    rwa [State.tileOf_setTile]
  · rw [State.tileOf_setTile_ne _ _ _ _ h]

theorem kept_setTile {t : TileId} {x : Tile} (hx : TileKept (s.tileOf t) x)
    (hb : en = false → x.bookings = (s.tileOf t).bookings) : AccessKept en s (s.setTile t x) :=
  { AccessKept.refl (en := en) s with
    tiles := tileKept_setTile hx
    books := fun he => bookings_setTile (hb he) }

theorem kept_addBookings (s : State) (bs : List Booking) : AccessKept true s (s.addBookings bs) :=
  kept_setTile ⟨fun _ _ => rfl, rfl, rfl, rfl, rfl, rfl, rfl⟩ fun he => nomatch he

/-- Where a claim's first error stands changes no tile, and none that nothing has touched. -/
theorem tileOf_firstErr (s : State) (cl : Nat) (e : Option ErrRec) (o : TileId) :
    (s.modClaim cl fun c => { c with firstErr := e }).tileOf o = s.tileOf o := by
  obtain ⟨f, hf⟩ := (quiet_firstErr s cl e).claim o.claim
  simp only [State.tileOf, hf]
  rfl

theorem kept_uncorrectable (s : State) (t : TileId) (core : Nat) (place : Quad) : AccessKept en s (uncorrectable s t core place) := by
  unfold uncorrectable
  split
  · exact .refl s
  · refine .trans ?_ (kept_planEv _ _ _ _ _)
    have ht := tileOf_firstErr s t.claim (some ⟨s.now t.claim, t.x, t.y, core, place⟩)
    exact { AccessKept.refl (en := en) s with
      tiles := fun o => by rw [ht]; exact .refl _
      books := fun _ o => by rw [ht] }

theorem kept_checkRead (s : State) (t : TileId) (core : Nat) (bank : BitVec 6) (cells : List (Option Nat)) :
    AccessKept en s (checkRead s t core bank cells) := by
  unfold checkRead
  split
  · exact .refl s
  next o _ =>
    refine (kept_uncorrectable s t core (bankPlace bank o)).trans ?_
    exact kept_setTile ⟨byteView_markFailures _ _ _, rfl, rfl, rfl, rfl, rfl, rfl⟩ fun _ => rfl

theorem kept_readNow (s : State) (bank : BitVec 6) (cells : List (Option Nat)) : AccessKept en s (s.readNow bank cells) :=
  kept_checkRead s _ _ _ _

theorem kept_planRead (s : State) (cls : SlotClass) (k lat fin : Nat) (vis : Option Nat) (r : LateRead) :
    AccessKept en s (s.planRead cls k lat fin vis r) := kept_plan s _

theorem kept_landG (s : State) (cls : SlotClass) (lat : Nat) (d : Dst 6) (l : Option Latch) (x : MWord) :
    AccessKept en s (s.landG cls lat d l x) := kept_plan s _

theorem kept_landV (s : State) (cls : SlotClass) (lat : Nat) (d : Dst 6) (l : Option Latch) (m : Mask) (x : MVec) :
    AccessKept en s (s.landV cls lat d l m x) := kept_plan s _

theorem kept_landPair (s : State) (cls : SlotClass) (lat : Nat) (d : Dst 5) (l : Option Latch) (m : Mask) (lo hi : MVec) :
    AccessKept en s (s.landPair cls lat d l m lo hi) := kept_plan s _

theorem kept_tainted_books (s : State) (p : Bool) (bs : List Booking) : AccessKept true s ((s.taintIf p).addBookings bs) :=
  (kept_taintIf s p).trans (kept_addBookings _ bs)

/-! ## The frames of a syllable's execution -/

/-- An outcome whose next state, if it has one, took a fault or is one of an access. -/
def AccessOutcome (en : Bool) (s : State) (out : Host.Outcome State Fault Refusal) : Prop :=
  ∀ u, out = .next u → TookFault s u ∨ AccessKept en s u

section Frames
variable {valid : Bool} {chk : Check} {eff : State → State} {chkLane : Mask → Check} {effLane : Mask → State → State} {cls : SlotClass}

theorem next_access (h : TookFault s u ∨ AccessKept en s u) : AccessOutcome en s (.next u) := by
  rintro _ ⟨⟩
  exact h

theorem fault_access (cls : SlotClass) (c : Byte) (d : Quad) : AccessOutcome en s (.next (s.fault cls c d)) :=
  next_access (.inl ⟨cls, c, d, rfl⟩)

theorem checked_access (h : AccessKept en s u) : AccessOutcome en s (.next (s.checked cls chk u)) := by
  unfold State.checked
  split
  · exact fault_access _ _ _
  · exact next_access (.inr h)

theorem guardedC_access (h : ∀ u, AccessKept true u (eff u)) :
    AccessOutcome ((s.guard g).val.getLsbD 0) s (guardedC s cls g valid chk eff) := by
  unfold guardedC
  dsimp only
  split
  · exact next_access (.inr (kept_taintIf s _))
  next hk =>
    rw [Bool.not_eq_false] at hk
    rw [hk]
    split
    · exact fault_access _ _ _
    · exact checked_access ((kept_taintIf s _).trans (h _))

theorem lanedC_access (h : ∀ m u, AccessKept (m != 0) u (effLane m u)) :
    AccessOutcome ((s.guard g).val != 0) s (lanedC s cls g valid chkLane effLane) := by
  unfold lanedC
  dsimp only
  split
  · exact fault_access _ _ _
  · exact checked_access ((kept_taintIf s _).trans (h _ _))

end Frames

/-! ## The shared frames of the M forms -/

theorem mLoad_access {o : MA 6} {e : Size} {signed : Bool} :
    AccessOutcome ((s.guard o.g).val.getLsbD 0) s (mLoad s o e signed) := by
  dsimp only [mLoad]
  exact guardedC_access fun u =>
    (((kept_taintIf u _).trans (kept_readNow _ _ _)).trans (kept_addBookings _ _)).trans (kept_landG _ _ _ _ _ _)

theorem mStore_access {o : MS 6} {e : Size} : AccessOutcome ((s.guard o.g).val.getLsbD 0) s (mStore s o e) := by
  dsimp only [mStore]
  exact guardedC_access fun u => (kept_tainted_books u _ _).trans (kept_planWrite _ _ _ _ _ _)

theorem mAmo_access {op : AmoOp} {d : Dst 6} {cmp : MWord} {base : BitVec 4} {sx : Src 6} :
    AccessOutcome ((s.guard g).val.getLsbD 0) s (mAmo s op d cmp base sx g) := by
  dsimp only [mAmo]
  exact guardedC_access fun u => (kept_tainted_books u _ _).trans (kept_planRead _ _ _ _ _ _ _)

/-- A lane form's effect: nothing booked where no lane is enabled, an access else. -/
theorem kept_lanes {m : Mask} {off on : State} (hoff : ∀ en, AccessKept en u off) (hon : AccessKept true u on) :
    AccessKept (m != 0) u (if m = 0 then off else on) := by
  split
  · exact hoff _
  next hm => rwa [bne_iff_ne.mpr hm]

section Lanes
variable {valid : Bool} {ea : BitVec 56} {ok : Bool} {cross : Mask → Bool} {psn : Bool} {cells cells2 : List Nat}

theorem mLoadV_access {d : Dst 6} : AccessOutcome ((s.guard g).val != 0) s (mLoadV s d g valid ea ok cross psn cells) := by
  dsimp only [mLoadV]
  exact lanedC_access fun m u => kept_lanes (fun _ => kept_landV _ _ _ _ _ _ _)
    (((kept_tainted_books u _ _).trans (kept_readNow _ _ _)).trans (kept_landV _ _ _ _ _ _ _))

theorem mStoreV_access {d : BitVec 6} : AccessOutcome ((s.guard g).val != 0) s (mStoreV s d g valid ea ok cross psn cells) := by
  dsimp only [mStoreV]
  exact lanedC_access fun m u => kept_lanes (fun _ => .refl u)
    ((kept_tainted_books u _ _).trans (kept_planWrite _ _ _ _ _ _))

theorem mLoadPair_access {d : Dst 5} :
    AccessOutcome ((s.guard g).val != 0) s (mLoadPair s d g valid ea ok cross psn cells cells2) := by
  dsimp only [mLoadPair]
  exact lanedC_access fun m u => kept_lanes (fun _ => kept_landPair _ _ _ _ _ _ _ _)
    (((kept_tainted_books u _ _).trans (kept_readNow _ _ _)).trans (kept_planRead _ _ _ _ _ _ _))

theorem mStorePair_access {d : BitVec 5} {cross : Bool} :
    AccessOutcome ((s.guard g).val != 0) s (mStorePair s d g ea ok cross psn cells cells2) := by
  dsimp only [mStorePair]
  exact lanedC_access fun m u => kept_lanes (fun _ => .refl u)
    ((kept_tainted_books u _ _).trans (kept_planWrite _ _ _ _ _ _))

end Lanes

theorem vlddAt_access {o : MA 6} {col : Bool} : AccessOutcome ((s.guard o.g).val != 0) s (vlddAt o col s) := by
  dsimp only [vlddAt]
  exact lanedC_access fun m u => kept_lanes (fun _ => kept_landV _ _ _ _ _ _ _)
    (((kept_tainted_books u _ _).trans (kept_readNow _ _ _)).trans (kept_landV _ _ _ _ _ _ _))

theorem mRed_access {kind : RedKind} {o : MXS} : AccessOutcome en s (mRed s kind o) := by
  dsimp only [mRed]
  split
  · exact fault_access _ _ _
  · exact checked_access (((kept_taintIf s _).trans (kept_taintIf _ _)).trans (kept_plan _ _))

/-! ## Every M form -/

theorem exec_access {x : Access} (hx : accessOf s i = some x) : AccessOutcome (x.enabled s) s (exec i s) := by
  cases i <;> dsimp only [exec, vldAt, vstAt, execVldRow, execVldCol, execVstRow, execVstCol, execVld2, execVst2, execVgt, execVgt2,
    execVsc]
  case ldB | ldBn | ldH | ldHn | ldW =>
    cases hx
    exact mLoad_access
  case stB | stH | stW =>
    cases hx
    exact mStore_access
  case vldRow | vldCol | vgt =>
    cases hx
    exact mLoadV_access
  case vstRow | vstCol | vsc =>
    cases hx
    exact mStoreV_access
  case vld2 | vgt2 =>
    cases hx
    exact mLoadPair_access
  case vst2 =>
    cases hx
    exact mStorePair_access
  case vlddRow | vlddCol =>
    cases hx
    exact vlddAt_access
  case amoAdd | amoAnd | amoOr | amoXor | amoMin | amoMax | amoXchg | amoCas =>
    cases hx
    exact mAmo_access
  case redF32 | redS32 => exact mRed_access
  all_goals cases hx

theorem AccessKept.bytesKept (h : AccessKept en s u) : BytesKept s u :=
  ⟨fun t => (h.tiles t).bytes, fun a => by rw [h.far]⟩

end Accesses

/-- Settles O32: each M form stands in a frame that faults, taints, books its ticks, reads its bank or plans what follows
(`exec_access`). -/
theorem accessFrame : Obligations.AccessFrame := by
  intro i s u x hx he
  refine (exec_access hx u he).imp id fun h => ?_
  exact ⟨h.cores, h.bytesKept, h.farTags, h.ctxs, h.queues, h.agenda,
    fun t => ⟨(h.tiles t).streams, (h.tiles t).fmts, (h.tiles t).opSlots, (h.tiles t).accs, (h.tiles t).landing, (h.tiles t).routes⟩,
    h.books⟩

end Sys2Proof.Machine

namespace Sys2Proof.Machine

/-! # Sequencing: the bundle that follows, branches, calls and loops (spec/04 R98, R99, R102 to R108) -/

/-- Settles O4: each word is the encoding of a well-formed instruction, so that it decodes to it (`codecRoundTrip`). -/
theorem decodingWords : Obligations.DecodingWords :=
  ⟨codecRoundTrip (.tkawait (.reg 2) 1000) _ _ rfl rfl,
   codecRoundTrip (.trap 0x1234) _ _ rfl rfl,
   codecRoundTrip (.crget 3 true .heapOff) _ _ rfl rfl,
   codecRoundTrip (.crset (.reg 5) false .span) _ _ rfl rfl,
   codecRoundTrip (.cvt ⟨.reg 5, .reg 4, .fam ⟨false, false, .p4⟩, .flt .fp32, .sto8, false⟩) _ _ rfl rfl,
   codecRoundTrip (.vpk ⟨.reg 10, .reg 1, .flt .bf16, .flt .fp32, .rne, false⟩) _ _ rfl rfl,
   codecRoundTrip (.iadd ⟨.v0, .reg 6, .reg 6, .reg 7, 3, ⟨true, .b⟩⟩ true) _ _ rfl rfl,
   codecRoundTrip (.vunzip ⟨.v1, .reg 4, .reg 2, .reg 3, 0, .flt .fp16⟩) _ _ rfl rfl⟩

/-! ## Where the next bundle comes from (R98, R99, R107) -/

theorem me_modCore_focus (s : State) (f : Core → Core) : (s.modCore s.focus f).me = f s.me := State.coreOf_modCore s s.focus f

section Flow
variable {s : State} (at_ q tg : BitVec 64)

/-- `closeLoops` is the loop of R107. -/
theorem closeLoops_eq_flowAfter (l : List LoopEntry) : closeLoops at_ q l = ((flowAfter at_ q l).2, (flowAfter at_ q l).1) := by
  induction l with
  | nil => rfl
  | cons e rest ih =>
    unfold closeLoops flowAfter
    by_cases hq : q = e.stop
    · subst hq
      by_cases hc : e.count ≤ 1
      · simp [hc, Nat.not_lt.mpr hc, ih]
      · simp [hc, Nat.lt_of_not_le hc]
    · have hn : q.toNat ≠ e.stop.toNat := fun h => hq (BitVec.eq_of_toNat_eq h)
      simp only [if_neg hq, if_neg hn]
      split
      · exact ih
      · rfl

theorem me_goSequential (x : Option (BitVec 64 × Nat)) : (goSequential s at_ q x).me =
    { s.me with pc := (flowAfter at_ q s.me.loops).1, loops := (flowAfter at_ q s.me.loops).2, xfer := x } := by
  rw [goSequential, closeLoops_eq_flowAfter]
  exact me_modCore_focus s _

theorem afterIssue_sequential (h : s.me.idle = 0) : afterIssue none at_ q s = goSequential s at_ q s.me.xfer :=
  if_neg (not_not_intro h)

theorem afterIssue_firstDelay (h : s.me.idle = 0) : afterIssue (some (tg, 2)) at_ q s = goSequential s at_ q (some (tg, 1)) :=
  if_neg (not_not_intro h)

theorem afterIssue_secondDelay (h : s.me.idle = 0) : afterIssue (some (tg, 1)) at_ q s =
    (s.modCore s.focus fun c => { c with pc := tg, xfer := none }).planEv s.focus.tile.claim (s.t + 1) phRun (.runEnd s.focus) :=
  if_neg (not_not_intro h)

end Flow

/-- Settles O11: `afterIssue` has one equation per case, and its loop stack is that of R107 (`closeLoops_eq_flowAfter`). -/
theorem sequentialFlow : Obligations.SequentialFlow := by
  intro s at_ q tg h
  refine ⟨⟨?_, ?_⟩, ?_, ?_, ?_⟩
  · rw [afterIssue_sequential at_ q h, me_goSequential]
  · rw [afterIssue_firstDelay at_ q tg h, me_goSequential]
  · rw [afterIssue_secondDelay at_ q tg h, State.me_planEv]
    exact me_modCore_focus s _
  · rw [afterIssue_sequential at_ q h]
    rfl
  · rw [afterIssue_secondDelay at_ q tg h]
    exact ⟨_, rfl, rfl, rfl⟩

/-! ## What a syllable changes -/

theorem modCore_modCore (s : State) (i : StrandId) (f h : Core → Core) : (s.modCore i f).modCore i h = s.modCore i fun c => h (f c) := by
  rw [State.modCore, State.coreOf_modCore, State.modCore, State.setCore, State.modCore, State.setCore, State.setCore, put_put]

theorem OthersKept.refl (s : State) (st : StrandId) : OthersKept s s st := ⟨fun _ _ => rfl, .refl s⟩

theorem OthersKept.trans {s u v : State} {st : StrandId} (h : OthersKept s u st) (k : OthersKept u v st) : OthersKept s v st :=
  ⟨fun o ho => (k.1 o ho).trans (h.1 o ho), h.2.trans k.2⟩

theorem othersKept_modCore (s : State) (st : StrandId) (f : Core → Core) : OthersKept s (s.modCore st f) st := modCore_frame s st f

theorem othersKept_taintIf (s : State) (p : Bool) : OthersKept s (s.taintIf p) s.focus :=
  ⟨fun o h => State.coreOf_taintIf_ne s p o h, .of_tiles (State.taintIf_tiles s p) (State.taintIf_far s p)⟩

theorem othersKept_plan (s : State) (e : Sched) (st : StrandId) : OthersKept s (s.plan e) st := ⟨fun _ _ => rfl, .of_tiles rfl rfl⟩

/-! ## Branches, calls, returns and loops (R102 to R106) -/

section Branch
variable {s : State} {a : Src 6} {ofs : BitVec 18}

@[simp] theorem headerPc_taintIf (s : State) (p : Bool) : (s.taintIf p).headerPc = s.headerPc := by simp [State.headerPc]

@[simp] theorem labelOf_taintIf (s : State) (p : Bool) (ofs : BitVec 18) : labelOf (s.taintIf p) ofs = offsetTarget s ofs := by
  rw [labelOf, headerPc_taintIf]
  rfl

theorem branchTo_taintIf (s : State) (p : Bool) (tg : Quad) :
    branchTo (s.taintIf p) tg = (s.taintIf p).modCore s.focus fun c => c.goingTo tg := by
  rw [branchTo, State.taintIf_focus]
  rfl

/-- The effect of a taken branch: a transfer to the target, after the strand is tainted where its condition is poisoned. -/
theorem branchTo_label (s : State) (p : Bool) (ofs : BitVec 18) :
    branchTo (s.taintIf p) (labelOf (s.taintIf p) ofs) = (s.taintIf p).modCore s.focus fun c => c.goingTo (offsetTarget s ofs) := by
  rw [labelOf_taintIf, branchTo_taintIf]

theorem branchIf_valid (ha : s.me.ok a = true) (taken : Word → Bool) (go : State → State) : branchIf s a taken go =
    .next (if taken (s.me.srcG a).val then go (s.taintIf ((s.me.srcG a).psn != 0)) else s.taintIf ((s.me.srcG a).psn != 0)) := by
  rw [branchIf, ha]
  rfl

theorem exec_brz (ha : s.me.ok a = true) : exec (.brz a ofs) s =
    let x := s.taintIf ((s.me.srcG a).psn != 0)
    .next (if (s.me.srcG a).val = 0 then x.modCore s.focus fun c => c.goingTo (offsetTarget s ofs) else x) := by
  dsimp only [exec, execBrz]
  rw [branchIf_valid ha, branchTo_label]
  simp only [beq_iff_eq]

theorem exec_brnz (ha : s.me.ok a = true) : exec (.brnz a ofs) s =
    let x := s.taintIf ((s.me.srcG a).psn != 0)
    .next (if (s.me.srcG a).val ≠ 0 then x.modCore s.focus fun c => c.goingTo (offsetTarget s ofs) else x) := by
  dsimp only [exec, execBrnz]
  rw [branchIf_valid ha, branchTo_label]
  simp only [bne_iff_ne]

theorem exec_brk (ha : s.me.ok a = true) : exec (.brk a ofs) s =
    let x := s.taintIf ((s.me.srcG a).psn != 0)
    .next (if (s.me.srcG a).val ≠ 0 then
      x.modCore s.focus fun c => { c with loops := c.loops.tail, xfer := some (offsetTarget s ofs, 2) } else x) := by
  dsimp only [exec, execBrk]
  rw [branchIf_valid ha, labelOf_taintIf, branchTo, State.taintIf_focus, State.modCore_focus, State.taintIf_focus, modCore_modCore]
  simp only [bne_iff_ne]

/-- `loop` passes its check on an empty body, on a count of 0 and where the stack has room (R105, R106). -/
theorem exec_loop (ha : s.me.ok a = true)
    (h : s.nextPc = offsetTarget s ofs ∨ (s.me.srcG a).val = 0 ∨ s.me.loops.length < 4) : exec (.loop a ofs) s =
      let x := s.taintIf ((s.me.srcG a).psn != 0)
      .next (if s.nextPc = offsetTarget s ofs then x
        else if (s.me.srcG a).val = 0 then redirect x (offsetTarget s ofs)
        else x.modCore s.focus fun c =>
          { c with loops := ⟨s.nextPc, offsetTarget s ofs, (s.me.srcG a).val.toNat⟩ :: c.loops }) := by
  have hc : (s.nextPc != offsetTarget s ofs && (s.me.srcG a).val != 0 && decide (s.me.loops.length ≥ 4)) = false := by
    rcases h with h | h | h <;> simp [h]
  have hl : labelOf s ofs = offsetTarget s ofs := rfl
  dsimp only [exec, execLoop]
  rw [hl, ha, firstFault_cons, hc]
  dsimp only [alwaysC]
  refine congrArg Host.Outcome.next ?_
  simp only [State.taintIf_focus]
  rfl

theorem exec_loop_full (ha : s.me.ok a = true) (hn : s.nextPc ≠ offsetTarget s ofs) (hv : (s.me.srcG a).val ≠ 0)
    (hl : 4 ≤ s.me.loops.length) : exec (.loop a ofs) s = .next (s.fault .c 0x04) := by
  have hc : (s.nextPc != labelOf s ofs && (s.me.srcG a).val != 0 && decide (s.me.loops.length ≥ 4)) = true := by
    have hn' : s.nextPc ≠ labelOf s ofs := hn
    simp only [bne_iff_ne.mpr hn', bne_iff_ne.mpr hv, Bool.and_self, Bool.true_and, decide_eq_true_eq]
    exact hl
  dsimp only [exec, execLoop]
  rw [ha, firstFault_cons, hc]
  rfl

theorem me_redirect (s : State) (pc : BitVec 64) : (redirect s pc).me = { s.me with pc := pc, idle := 2 } := by
  rw [redirect, State.me_planEv]
  exact me_modCore_focus s _

theorem othersKept_redirect (s : State) (pc : BitVec 64) : OthersKept s (redirect s pc) s.focus :=
  (othersKept_modCore s _ _).trans (othersKept_plan _ _ _)

theorem redirect_agenda (s : State) (pc : BitVec 64) : (redirect s pc).agenda =
    s.agenda ++ [⟨s.focus.tile.claim, s.t + 3, phRun, 0, s.t, 8, none, none, 0, 0, .ev (.runEnd s.focus)⟩] := rfl

/-- A loop with a count of 0 is skipped at once (R106). -/
theorem exec_loop_zero (ha : s.me.ok a = true) (hn : s.nextPc ≠ offsetTarget s ofs) (hv : (s.me.srcG a).val = 0) :
    ∃ u e, exec (.loop a ofs) s = .next u ∧
      u.me = { (s.taintIf ((s.me.srcG a).psn != 0)).me with pc := offsetTarget s ofs, idle := 2 } ∧ OthersKept s u s.focus ∧
      u.agenda = s.agenda ++ [e] ∧ e.tick = s.t + 3 ∧ e.act = .ev (.runEnd s.focus) := by
  have hk := othersKept_redirect (s.taintIf ((s.me.srcG a).psn != 0)) (offsetTarget s ofs)
  rw [State.taintIf_focus] at hk
  refine ⟨_, ⟨s.focus.tile.claim, s.t + 3, phRun, 0, s.t, 8, none, none, 0, 0, .ev (.runEnd s.focus)⟩,
    (exec_loop ha (.inr (.inl hv))).trans (congrArg _ ((if_neg hn).trans (if_pos hv))), me_redirect _ _,
    (othersKept_taintIf s _).trans hk, ?_, rfl, rfl⟩
  simp only [redirect_agenda, State.taintIf_agenda, State.taintIf_focus, State.t_taintIf]

theorem exec_ret_invalid {a : Src 4} {g : Guard} (hg : s.guardOn g = true) (ha : s.me.ok a = false) :
    exec (.ret a g) s = .next (s.fault .c 0x03) := by
  dsimp only [exec, execRet]
  rw [ha]
  exact guarded_invalid s .c g _ hg

theorem exec_ret {a : Src 4} {g : Guard} (hg : s.guardOn g = true) (ha : s.me.ok a = true) : exec (.ret a g) s =
    .next (((s.taintIf ((s.guard g).psn != 0)).taintIf ((s.me.srcA a).psn != 0)).modCore s.focus fun c =>
      c.goingTo (s.me.srcA a).val) := by
  dsimp only [exec, execRet]
  rw [ha, guarded_next s .c g _ hg, branchTo_taintIf, State.taintIf_focus]
  rfl

end Branch

/-- Settles O50: each form is its frame around a transfer, a change of the loop stack or a redirection of fetch. -/
theorem transfers : Obligations.Transfers := by
  intro s jump
  refine ⟨rfl, fun ofs => ⟨rfl, fun a ha => ?_, fun d => rfl, fun a g hg => ⟨exec_ret_invalid hg, exec_ret hg⟩⟩⟩
  refine ⟨fun hv => ⟨?_, ?_, ?_⟩, fun hv => ⟨?_, ?_, ?_⟩, fun hn => ?_, fun hn hv => ?_, exec_loop_full ha, fun hn hv hl => ?_⟩
  · exact (exec_brz ha).trans (congrArg _ (if_pos hv))
  · exact (exec_brnz ha).trans (congrArg _ (if_neg (not_not_intro hv)))
  · exact (exec_brk ha).trans (congrArg _ (if_neg (not_not_intro hv)))
  · exact (exec_brz ha).trans (congrArg _ (if_neg hv))
  · exact (exec_brnz ha).trans (congrArg _ (if_pos hv))
  · exact (exec_brk ha).trans (congrArg _ (if_pos hv))
  · exact (exec_loop ha (.inl hn)).trans (congrArg _ (if_pos hn))
  · exact exec_loop_zero ha hn hv
  · exact (exec_loop ha (.inr (.inr hl))).trans (congrArg _ ((if_neg hn).trans (if_neg hv)))

end Sys2Proof.Machine

namespace Sys2Proof.Machine

/-! # Waiting, halting and retiring; weight, job counts and sections (spec/04 R109, R110, R116 to R121) -/

/-! ## `tkawait` (R110) -/

section Await
variable {s : State} {a : Src 4} {dt : BitVec 18}

theorem exec_tkawait_reached (ha : s.me.ok a = true) (h : (tkTarget s a dt).val.toNat ≤ (s.countOf s.focus.tile).toNat) :
    exec (.tkawait a dt) s = .next ((s.taintIf ((tkTarget s a dt).psn != 0)).modCore s.focus fun c =>
      { c with status := .running, tkAt := none }) := by
  dsimp only [exec, execTkawait]
  rw [ha]
  exact congrArg Host.Outcome.next (if_pos (decide_eq_true h))

theorem exec_tkawait_waits (ha : s.me.ok a = true) (h : (s.countOf s.focus.tile).toNat < (tkTarget s a dt).val.toNat) :
    exec (.tkawait a dt) s = .next ((s.taintIf ((tkTarget s a dt).psn != 0)).modCore s.focus fun c =>
      { c with status := .tkawait (tkTarget s a dt).val.toNat, tkAt := some (tkTarget s a dt) }) := by
  have hr : ¬ tkReached s a dt = true := fun hr => Nat.not_le.mpr h (of_decide_eq_true hr)
  dsimp only [exec, execTkawait]
  rw [ha]
  exact congrArg Host.Outcome.next (if_neg hr)

/-- The first presentation reads the target. -/
theorem tkTarget_read (h : s.me.tkAt = none) :
    tkTarget s a dt = ⟨BitVec.ofNat 64 (((s.me.srcA a).val.toNat + dt.toNat) % 2 ^ 64), (s.me.srcA a).psn⟩ := by
  have hv : (s.me.srcA a).val + dt.setWidth 64 = BitVec.ofNat 64 (((s.me.srcA a).val.toNat + dt.toNat) % 2 ^ 64) := by
    apply BitVec.eq_of_toNat_eq
    simp [BitVec.toNat_add]
  rw [tkTarget, h, ← hv]

/-- A target that is kept is not read again. -/
theorem tkTarget_kept {n : MQuad} (h : s.me.tkAt = some n) : tkTarget s a dt = n := by rw [tkTarget, h]

theorem toNat_tkTarget_read (h : s.me.tkAt = none) :
    (tkTarget s a dt).val.toNat = ((s.me.srcA a).val.toNat + dt.toNat) % 2 ^ 64 := by
  rw [tkTarget_read h, BitVec.toNat_ofNat, Nat.mod_mod]

end Await

/-! ## Updates of claim state (R116, R120) -/

/-- The focus strand's core is all that a syllable has changed. -/
def OnlyOwnCore (s u : State) : Prop := (∃ c, u = { s with cores := c }) ∧ ∀ o ≠ s.focus, u.coreOf o = s.coreOf o

section Updates
variable {s u v : State}

theorem onlyOwnCore_modCore (s : State) (f : Core → Core) : OnlyOwnCore s (s.modCore s.focus f) :=
  ⟨⟨_, rfl⟩, fun o h => State.coreOf_modCore_ne s _ o f h⟩

theorem onlyOwnCore_taintIf (s : State) (p : Bool) : OnlyOwnCore s (s.taintIf p) := by
  refine ⟨?_, fun o h => State.coreOf_taintIf_ne s p o h⟩
  cases p
  · exact ⟨s.cores, rfl⟩
  · exact ⟨_, rfl⟩

theorem OnlyOwnCore.focus (h : OnlyOwnCore s u) : u.focus = s.focus := by obtain ⟨⟨_, rfl⟩, _⟩ := h; rfl
theorem OnlyOwnCore.t (h : OnlyOwnCore s u) : u.t = s.t := by obtain ⟨⟨_, rfl⟩, _⟩ := h; rfl
theorem OnlyOwnCore.lh (h : OnlyOwnCore s u) : u.lh = s.lh := by obtain ⟨⟨_, rfl⟩, _⟩ := h; rfl
theorem OnlyOwnCore.mech (h : OnlyOwnCore s u) : u.mech = s.mech := by obtain ⟨⟨_, rfl⟩, _⟩ := h; rfl
theorem OnlyOwnCore.todo (h : OnlyOwnCore s u) : u.todo = s.todo := by obtain ⟨⟨_, rfl⟩, _⟩ := h; rfl
theorem OnlyOwnCore.agenda (h : OnlyOwnCore s u) : u.agenda = s.agenda := by obtain ⟨⟨_, rfl⟩, _⟩ := h; rfl

theorem OnlyOwnCore.trans (h : OnlyOwnCore s u) (k : OnlyOwnCore u v) : OnlyOwnCore s v := by
  have hf := h.focus
  obtain ⟨⟨c, rfl⟩, ho⟩ := h
  obtain ⟨⟨d, rfl⟩, ko⟩ := k
  exact ⟨⟨d, rfl⟩, fun o hn => (ko o (hf.symm ▸ hn)).trans (ho o hn)⟩

theorem OnlyOwnCore.modCore (h : OnlyOwnCore s u) (f : Core → Core) : OnlyOwnCore s (u.modCore u.focus f) :=
  h.trans (onlyOwnCore_modCore u f)

theorem OnlyOwnCore.taintIf (h : OnlyOwnCore s u) (p : Bool) : OnlyOwnCore s (u.taintIf p) := h.trans (onlyOwnCore_taintIf u p)

theorem dist_eq_natAbs (a b : Nat) : dist a b = ((a : Int) - b).natAbs := by
  unfold dist
  omega

theorem arrivalTick_eq (s : State) (dest : TileId) : arrivalTick s dest =
    s.t + s.lh * (((s.focus.tile.x : Int) - dest.x).natAbs + ((s.focus.tile.y : Int) - dest.y).natAbs + 1) := by
  rw [arrivalTick, hops, dist_eq_natAbs, dist_eq_natAbs]

theorem sends_sendUpdate (h : OnlyOwnCore s u) (dest : TileId) (i : Event) : Sends s (sendUpdate u dest i) dest i u.me := by
  obtain ⟨⟨c, rfl⟩, ho⟩ := h
  have hat := arrivalTick_eq s dest
  refine ⟨⟨_, rfl, rfl, hat, rfl⟩, ?_, rfl, ho, .of_tiles rfl rfl⟩
  rw [← hat]
  exact (State.claimOf_plan _ _ _).trans (State.claimOf_modClaim _ _ _)

end Updates

/-! ## Weight and job counts (R117 to R119) -/

section Counts
variable {s : State} {a b : Src 6} {g : Guard}

/-- Checks of one fault. -/
theorem firstFault_same (c : Byte) (d : Quad) (l : List Bool) :
    firstFault (l.map fun x => (x, c, d)) = if l.any id then some (c, d) else none := by
  induction l with
  | nil => rfl
  | cons x l ih =>
    rw [List.map_cons, firstFault_cons, ih]
    cases x <;> rfl

theorem receiverOf_eq (s : State) (r : Word) : receiverOf s r =
    ⟨⟨s.focus.tile.claim, r.toNat % 256, r.toNat / 256 % 256⟩, BitVec.ofNat 2 (r.toNat / 65536)⟩ := by
  have h2 : r.extractLsb' 16 2 = BitVec.ofNat 2 (r.toNat / 65536) := by
    apply BitVec.eq_of_toNat_eq
    rw [BitVec.extractLsb'_toNat, Nat.shiftRight_eq_div_pow, BitVec.toNat_ofNat]
  rw [receiverOf, h2, BitVec.extractLsb'_toNat, BitVec.extractLsb'_toNat, Nat.shiftRight_eq_div_pow, Nat.shiftRight_eq_div_pow,
    Nat.pow_zero, Nat.div_one]

theorem upperBits_eq_zero_iff (r : Word) : r.extractLsb' 18 14 = 0 ↔ r.toNat < 2 ^ 18 := by
  rw [← BitVec.toNat_inj, BitVec.extractLsb'_toNat, Nat.shiftRight_eq_div_pow]
  have hr := r.isLt
  show _ = 0 ↔ _
  omega

theorem receiverOk_iff (s : State) (r : Word) : receiverOk s r = true ↔ r.toNat < 2 ^ 18 ∧
    ((receiverOf s r).tile.x < 12 * (s.claimOf s.focus.tile.claim).fw ∧ (receiverOf s r).tile.y < 12 * (s.claimOf s.focus.tile.claim).fh) ∧
    receiverOf s r ≠ s.focus ∧ (s.coreOf (receiverOf s r)).status ≠ .absent := by
  simp only [receiverOk, Claim.inside, Bool.and_eq_true, beq_iff_eq, bne_iff_ne, decide_eq_true_eq, upperBits_eq_zero_iff, and_assoc]

/-- The checks of `wsplit` (R117). -/
def splitChecks (s : State) (share r : Word) : List Bool :=
  [s.mech != .weight, share == 0 || decide (s.me.weight.toNat ≤ share.toNat), !receiverOk s r]

theorem guardedC_same_fault {cls : SlotClass} {l : List Bool} {c : Byte} {eff : State → State} (hg : s.guardOn g = true)
    (h : l.any id = true) : guardedC s cls g true (firstFault (l.map fun x => (x, c, 0))) eff = .next (s.fault cls c) := by
  rw [firstFault_same, if_pos h, guardedC_fault s cls g c 0 eff hg]

theorem guardedC_same_next {cls : SlotClass} {l : List Bool} {c : Byte} {eff : State → State} (hg : s.guardOn g = true)
    (h : l.any id = false) : guardedC s cls g true (firstFault (l.map fun x => (x, c, 0))) eff =
      .next (eff (s.taintIf ((s.guard g).psn != 0))) := by
  rw [firstFault_same, h, if_neg Bool.false_ne_true, guardedC_next s cls g eff hg]
  rfl

theorem exec_wsplit_fault (hg : s.guardOn g = true) (ha : s.me.ok a = true) (hb : s.me.ok b = true)
    (h : (splitChecks s (s.me.srcG a).val (s.me.srcG b).val).any id = true) : exec (.wsplit a b g) s = .next (s.fault .c 0x73) := by
  dsimp only [exec, execWsplit]
  rw [ha, hb]
  exact guardedC_same_fault hg h

theorem exec_wsplit (hg : s.guardOn g = true) (ha : s.me.ok a = true) (hb : s.me.ok b = true)
    (h : (splitChecks s (s.me.srcG a).val (s.me.srcG b).val).any id = false) : exec (.wsplit a b g) s =
      let x := (s.taintIf ((s.guard g).psn != 0)).taintIf ((s.me.srcG b).psn != 0)
      let rcv := receiverOf s (s.me.srcG b).val
      .next (sendUpdate (x.modCore x.focus fun c => { c with weight := s.me.weight - (s.me.srcG a).val.setWidth 33 }) rcv.tile
        (.weightArrival s.focus.tile.claim (some rcv) (s.me.srcG a).val.toNat)) := by
  dsimp only [exec, execWsplit]
  rw [ha, hb]
  refine (guardedC_same_next hg h).trans ?_
  simp only [receiverOf, State.modCore_focus, State.taintIf_focus]
  rfl

theorem splitChecks_iff {r : Word} {share : Word} {rcv : StrandId} (hr : receiverOf s r = rcv) :
    (splitChecks s share r).any id = true ↔ s.mech ≠ .weight ∨ share.toNat = 0 ∨ s.me.weight.toNat ≤ share.toNat ∨ 2 ^ 18 ≤ r.toNat ∨
      12 * (s.claimOf s.focus.tile.claim).fw ≤ rcv.tile.x ∨ 12 * (s.claimOf s.focus.tile.claim).fh ≤ rcv.tile.y ∨ rcv = s.focus ∨
      (s.coreOf rcv).status = .absent := by
  have hok := receiverOk_iff s r
  rw [hr] at hok
  have hz : share = 0 ↔ share.toNat = 0 := BitVec.toNat_inj.symm
  simp only [splitChecks, List.any_cons, List.any_nil, id, Bool.or_false, Bool.or_eq_true, bne_iff_ne, beq_iff_eq, decide_eq_true_eq,
    Bool.not_eq_true', ← Bool.not_eq_true, hok, hz, or_assoc]
  simp only [not_and_or, Nat.not_lt, not_not, ne_eq, or_assoc]

theorem sub_ofNat (w : BitVec 33) {n : Nat} (h : n ≤ w.toNat) : w - BitVec.ofNat 33 n = BitVec.ofNat 33 (w.toNat - n) := by
  apply BitVec.eq_of_toNat_eq
  have hw := w.isLt
  rw [BitVec.toNat_sub, BitVec.toNat_ofNat, BitVec.toNat_ofNat]
  omega

theorem setWidth_eq_ofNat (v : Word) : v.setWidth 33 = BitVec.ofNat 33 v.toNat := BitVec.eq_of_toNat_eq (by simp)

/-- The share goes to the receiver, and the sender keeps the rest (R117). -/
theorem wsplit_sends {rcv : StrandId} (hr : receiverOf s (s.me.srcG b).val = rcv) (hg : s.guardOn g = true) (ha : s.me.ok a = true)
    (hb : s.me.ok b = true) (h : ¬ (splitChecks s (s.me.srcG a).val (s.me.srcG b).val).any id = true) :
    ∃ u, exec (.wsplit a b g) s = .next u ∧
      Sends s u rcv.tile (.weightArrival s.focus.tile.claim (some rcv) (s.me.srcG a).val.toNat)
        { ((s.taintIf ((s.guard g).psn != 0)).taintIf ((s.me.srcG b).psn != 0)).me with
          weight := BitVec.ofNat 33 (s.me.weight.toNat - (s.me.srcG a).val.toNat) } := by
  refine ⟨_, exec_wsplit hg ha hb (Bool.eq_false_iff.mpr h), ?_⟩
  have hle : (s.me.srcG a).val.toNat ≤ s.me.weight.toNat := by
    rw [splitChecks_iff hr, not_or, not_or, not_or] at h
    omega
  have hx := ((onlyOwnCore_taintIf s ((s.guard g).psn != 0)).taintIf ((s.me.srcG b).psn != 0)).modCore fun c =>
    { c with weight := s.me.weight - (s.me.srcG a).val.setWidth 33 }
  have hs := sends_sendUpdate hx rcv.tile (.weightArrival s.focus.tile.claim (some rcv) (s.me.srcG a).val.toNat)
  rw [me_modCore_focus, setWidth_eq_ofNat, sub_ofNat _ hle] at hs
  rw [hr, setWidth_eq_ofNat, sub_ofNat _ hle]
  exact hs

/-- Weight goes back to the claim (R118). -/
theorem sends_returnWeight {x : State} (h : OnlyOwnCore s x) {n : Nat} (hn : n ≤ x.me.weight.toNat) :
    Sends s (returnWeight x n) ⟨s.focus.tile.claim, 0, 0⟩ (.weightArrival s.focus.tile.claim none n)
      { x.me with weight := BitVec.ofNat 33 (x.me.weight.toNat - n) } := by
  have hs := sends_sendUpdate (h.modCore fun c => { c with weight := c.weight - BitVec.ofNat 33 n }) ⟨s.focus.tile.claim, 0, 0⟩
    (.weightArrival s.focus.tile.claim none n)
  rw [me_modCore_focus, sub_ofNat _ hn] at hs
  rw [returnWeight, State.rootTile]
  simp only [h.focus] at hs ⊢
  exact hs

/-- The checks of `wret` (R118). -/
def returnChecks (s : State) (share : Word) : List Bool :=
  [s.mech != .weight, share == 0 || decide (s.me.weight.toNat < share.toNat)]

theorem returnChecks_iff {share : Word} : (returnChecks s share).any id = true ↔
    s.mech ≠ .weight ∨ share.toNat = 0 ∨ s.me.weight.toNat < share.toNat := by
  have hz : share = 0 ↔ share.toNat = 0 := BitVec.toNat_inj.symm
  simp only [returnChecks, List.any_cons, List.any_nil, id, Bool.or_false, Bool.or_eq_true, bne_iff_ne, beq_iff_eq, decide_eq_true_eq, hz]

theorem exec_wret_fault (hg : s.guardOn g = true) (ha : s.me.ok a = true)
    (h : s.mech ≠ .weight ∨ (s.me.srcG a).val.toNat = 0 ∨ s.me.weight.toNat < (s.me.srcG a).val.toNat) :
    exec (.wret a g) s = .next (s.fault .c 0x73) := by
  dsimp only [exec, execWret]
  rw [ha]
  exact guardedC_same_fault hg (returnChecks_iff.mpr h)

theorem wret_sends (hg : s.guardOn g = true) (ha : s.me.ok a = true) (hm : s.mech = .weight) (hn : (s.me.srcG a).val.toNat ≠ 0)
    (hle : (s.me.srcG a).val.toNat ≤ s.me.weight.toNat) : ∃ u, exec (.wret a g) s = .next u ∧
      Sends s u ⟨s.focus.tile.claim, 0, 0⟩ (.weightArrival s.focus.tile.claim none (s.me.srcG a).val.toNat)
        { (s.taintIf ((s.guard g).psn != 0)).me with weight := BitVec.ofNat 33 (s.me.weight.toNat - (s.me.srcG a).val.toNat) } := by
  have hc : (returnChecks s (s.me.srcG a).val).any id = false := by
    rw [← Bool.not_eq_true, returnChecks_iff]
    rintro (h | h | h)
    · exact h hm
    · exact hn h
    · exact Nat.not_lt.mpr hle h
  refine ⟨returnWeight (s.taintIf ((s.guard g).psn != 0)) (s.me.srcG a).val.toNat, ?_, ?_⟩
  · dsimp only [exec, execWret]
    rw [ha]
    exact guardedC_same_next hg hc
  · have hw : (s.taintIf ((s.guard g).psn != 0)).me.weight = s.me.weight := by rw [State.me_taintIf]
    have hs := sends_returnWeight (onlyOwnCore_taintIf s ((s.guard g).psn != 0)) (hw.symm ▸ hle)
    rw [hw] at hs
    exact hs

theorem exec_jcbAdd_fault (hg : s.guardOn g = true) (ha : s.me.ok a = true) (h : s.mech ≠ .jcb) :
    exec (.jcbAdd a g) s = .next (s.fault .c 0x73) := by
  dsimp only [exec, execJcbAdd]
  rw [ha, firstFault_cons, if_pos (bne_iff_ne.mpr h), guardedC_fault s .c g _ _ _ hg]

theorem exec_jcbAdd_posted (hg : s.guardOn g = true) (ha : s.me.ok a = true) (hm : s.mech = .jcb) (hp : s.me.posted = true) :
    exec (.jcbAdd a g) s = .next (s.fault .c 0x72) := by
  dsimp only [exec, execJcbAdd]
  rw [ha, firstFault_cons, hm, firstFault_cons, hp]
  exact guardedC_fault s .c g _ _ _ hg

theorem jcbAdd_sends (hg : s.guardOn g = true) (ha : s.me.ok a = true) (hm : s.mech = .jcb) (hp : s.me.posted = false) :
    ∃ u, exec (.jcbAdd a g) s = .next u ∧
      Sends s u ⟨s.focus.tile.claim, 0, 0⟩ (.jcbTotalArrival s.focus (s.me.srcG a).val.toNat) (s.taintIf ((s.guard g).psn != 0)).me := by
  have hs := sends_sendUpdate (onlyOwnCore_taintIf s ((s.guard g).psn != 0)) ⟨s.focus.tile.claim, 0, 0⟩
    (.jcbTotalArrival s.focus (s.me.srcG a).val.toNat)
  refine ⟨_, ?_, hs⟩
  dsimp only [exec, execJcbAdd]
  rw [ha, firstFault_cons, hm, firstFault_cons, hp]
  refine (guardedC_next s .c g _ hg).trans ?_
  simp only [State.rootTile, State.taintIf_focus]
  rfl

theorem exec_jcbPost_fault (hg : s.guardOn g = true) (h : s.mech ≠ .jcb) : exec (.jcbPost g) s = .next (s.fault .c 0x73) := by
  dsimp only [exec, execJcbPost]
  rw [firstFault_cons, if_pos (bne_iff_ne.mpr h), guardedC_fault s .c g _ _ _ hg]

theorem jcbPost_sends (hg : s.guardOn g = true) (hm : s.mech = .jcb) : ∃ u, exec (.jcbPost g) s = .next u ∧
    Sends s u ⟨s.focus.tile.claim, 0, 0⟩ (.jcbPostArrival s.focus.tile.claim)
      { (s.taintIf ((s.guard g).psn != 0)).me with posted := true } := by
  have hs := sends_sendUpdate ((onlyOwnCore_taintIf s ((s.guard g).psn != 0)).modCore fun c => { c with posted := true })
    ⟨s.focus.tile.claim, 0, 0⟩ (.jcbPostArrival s.focus.tile.claim)
  rw [me_modCore_focus] at hs
  refine ⟨_, ?_, hs⟩
  dsimp only [exec, execJcbPost]
  rw [firstFault_cons, hm]
  refine (guardedC_next s .c g _ hg).trans ?_
  simp only [State.rootTile, State.taintIf_focus]
  rfl

end Counts

/-! ## Arrivals at the claim (R117 to R119) -/

section Arrivals
variable {s : State} {st : StrandId}

theorem weightArrival_held {r : StrandId} (cl share : Nat) (h : (s.coreOf r).status ≠ .retired) :
    exec (.weightArrival cl (some r) share) s =
      .next (s.modCore r fun c => { c with weight := c.weight + BitVec.ofNat 33 share }) :=
  congrArg Host.Outcome.next (if_neg h)

theorem weightArrival_retired {r : StrandId} (cl share : Nat) (h : (s.coreOf r).status = .retired) :
    exec (.weightArrival cl (some r) share) s = .next (s.modClaim cl fun c => { c with returned := c.returned + share }) :=
  congrArg Host.Outcome.next (if_pos h)

theorem jcbTotalArrival_adds {n : Nat} (h : (s.claimOf st.tile.claim).jtotal + n < 2 ^ 64) :
    exec (.jcbTotalArrival st n) s =
      .next (s.setClaim st.tile.claim { s.claimOf st.tile.claim with jtotal := (s.claimOf st.tile.claim).jtotal + n }) :=
  congrArg Host.Outcome.next (if_pos h)

/-- A total that overflows is a late raise against a strand that still issues, else the claim stays unsatisfied (R119). -/
theorem jcbTotalArrival_overflows {n : Nat} (h : 2 ^ 64 ≤ (s.claimOf st.tile.claim).jtotal + n) :
    exec (.jcbTotalArrival st n) s = .next (if (s.coreOf st).status ∈ [CoreStatus.retired, .halted, .absent, .stopped]
      then s.setClaim st.tile.claim { s.claimOf st.tile.claim with jbad := true }
      else s.modCore st fun x => { x with pendingFault := some 0x72 }) := by
  refine congrArg Host.Outcome.next ((if_neg (Nat.not_lt.mpr h)).trans ?_)
  cases (s.coreOf st).status <;> rfl

end Arrivals

/-! ## Non-pre-emptible sections (R121) -/

section Sections
variable {s : State} {g : Guard}

theorem exec_npreOff (hg : s.guardOn g = true) : exec (.npreOff g) s =
    .next ((s.taintIf ((s.guard g).psn != 0)).modCore s.focus fun c => { c with npre := none }) := by
  dsimp only [exec, execNpreOff]
  rw [guarded_next s .c g _ hg, State.taintIf_focus]
  rfl

/-- The effect of `npre.on`. -/
def openSection (s : State) : State :=
  match s.me.npre with
  | some _ => s
  | none => (s.modCore s.focus fun c => { c with npre := some s.t }).planEv s.focus.tile.claim (s.t + npreCap + 1) phRun
      (.nonPreEmptibleCap s.focus)

theorem exec_npreOn (hg : s.guardOn g = true) : exec (.npreOn g) s = .next (openSection (s.taintIf ((s.guard g).psn != 0))) :=
  guarded_next s .c g openSection hg

theorem openSection_open {n : Nat} (h : s.me.npre = some n) : openSection s = s := by rw [openSection, h]

theorem openSection_opens (h : s.me.npre = none) : ∃ e, (openSection s).me = { s.me with npre := some s.t } ∧
    OthersKept s (openSection s) s.focus ∧ (openSection s).agenda = s.agenda ++ [e] ∧ e.tick = s.t + 2 ^ 20 + 1 ∧
    e.act = .ev (.nonPreEmptibleCap s.focus) := by
  rw [openSection, h]
  exact ⟨_, me_modCore_focus s fun c => { c with npre := some s.t }, (othersKept_modCore s _ _).trans (othersKept_plan _ _ _), rfl, rfl, rfl⟩

theorem npreOn_opens (hg : s.guardOn g = true) (h : s.me.npre = none) : ∃ u e, exec (.npreOn g) s = .next u ∧
    u.me = { (s.taintIf ((s.guard g).psn != 0)).me with npre := some s.t } ∧ OthersKept s u s.focus ∧
    u.agenda = s.agenda ++ [e] ∧ e.tick = s.t + 2 ^ 20 + 1 ∧ e.act = .ev (.nonPreEmptibleCap s.focus) := by
  obtain ⟨e, hme, hk, ha, ht, hact⟩ := openSection_opens (s := s.taintIf ((s.guard g).psn != 0)) (by rw [State.me_taintIf, h])
  simp only [State.taintIf_focus, State.t_taintIf, State.taintIf_agenda] at hme hk ha ht hact
  exact ⟨_, e, exec_npreOn hg, hme, (othersKept_taintIf s _).trans hk, ha, ht, hact⟩

theorem sectionCap_of_ne (st : StrandId) (h : ∀ n, (s.coreOf st).npre = some n → s.now st.tile.claim ≠ n + 2 ^ 20 + 1) :
    sectionCap s st = s := by
  unfold sectionCap
  split
  next n hn => exact if_neg fun he => h n hn he.symm
  next => rfl

theorem sectionCap_of_eq {st : StrandId} {n : Nat} (h : (s.coreOf st).npre = some n) (ht : s.now st.tile.claim = n + 2 ^ 20 + 1) :
    sectionCap s st = s.modCore st fun c => { c with pendingFault := some 0x70 } := by
  rw [sectionCap, h]
  exact if_pos ht.symm

end Sections

/-! ## Halt (R109) -/

section Halt
variable {s u : State} {st : StrandId} {g : Guard}

theorem foldl_max_eq {l : List Nat} {n r : Nat} (hn : n ≤ r) (hl : ∀ x ∈ l, x ≤ r) (h : r ≤ n ∨ r ∈ l) : l.foldl max n = r :=
  le_antisymm (List.foldlRecOn (motive := fun b => b ≤ r) l max hn fun _ hb x hx => max_le hb (hl x hx)) (le_foldl_max n h)

/-- The retirement tick is the latest of now and what the strand still has in flight. -/
theorem retirementTick_eq {r : Nat} (hn : s.now st.tile.claim ≤ r) (hl : ∀ e ∈ s.agenda, e.owner = some st → e.retire ≤ r)
    (h : r = s.now st.tile.claim ∨ ∃ e ∈ s.agenda, e.owner = some st ∧ e.retire = r) : retirementTick s st = r := by
  refine foldl_max_eq hn (fun x hx => ?_) (h.imp le_of_eq ?_)
  · obtain ⟨e, he, hx⟩ := List.mem_filterMap.mp hx
    split at hx
    next ho =>
      cases hx
      exact hl e he ho
    next => cases hx
  · rintro ⟨e, he, ho, rfl⟩
    exact List.mem_filterMap.mpr ⟨e, he, if_pos ho⟩

theorem returnWeight_agenda (s : State) (n : Nat) : (returnWeight s n).agenda = s.agenda ++
    [⟨s.focus.tile.claim, arrivalTick s s.rootTile, phLand, 0, s.t, SlotClass.c.index, none, none, 0, arrivalTick s s.rootTile,
      .ev (.weightArrival s.focus.tile.claim none n)⟩] := rfl

theorem me_sendUpdate (s : State) (dest : TileId) (i : Event) : (sendUpdate s dest i).me = s.me := rfl

theorem othersKept_sendUpdate (s : State) (dest : TileId) (i : Event) (st : StrandId) : OthersKept s (sendUpdate s dest i) st :=
  ⟨fun _ _ => rfl, .of_tiles rfl rfl⟩

theorem me_returnWeight (s : State) (n : Nat) :
    (returnWeight s n).me = { s.me with weight := s.me.weight - BitVec.ofNat 33 n } := by
  rw [returnWeight, me_sendUpdate]
  exact me_modCore_focus s fun c => { c with weight := c.weight - BitVec.ofNat 33 n }

theorem othersKept_returnWeight (s : State) (n : Nat) : OthersKept s (returnWeight s n) s.focus :=
  (othersKept_modCore s s.focus _).trans (othersKept_sendUpdate _ _ _ _)

/-- The focus strand gives back what weight it holds. -/
def weightGivenBack (s : State) : State :=
  if s.mech = .weight ∧ s.me.weight.toNat ≠ 0 then returnWeight s s.me.weight.toNat else s

/-- `u` is `s` after the focus strand gave its weight back: the other strands and the tasks stay, and what joins the agenda, the
update that carries the weight to the root tile among it, is no strand's own. -/
structure GivesBack (s u : State) : Prop where
  focus : u.focus = s.focus
  t : u.t = s.t
  todo : u.todo = s.todo
  others : OthersKept s u s.focus
  agenda : ∃ l, u.agenda = s.agenda ++ l ∧ ∀ e ∈ l, e.owner = none
  returned : s.mech = .weight → s.me.weight ≠ 0 → ∃ e ∈ u.agenda,
    e.act = .ev (.weightArrival s.focus.tile.claim none s.me.weight.toNat) ∧ e.tick = s.t + s.lh * (s.focus.tile.x + s.focus.tile.y + 1)

theorem arrivalTick_root (s : State) : arrivalTick s s.rootTile = s.t + s.lh * (s.focus.tile.x + s.focus.tile.y + 1) := by
  simp [arrivalTick, hops, dist, State.rootTile]

theorem t_sendUpdate (s : State) (dest : TileId) (i : Event) : (sendUpdate s dest i).t = s.t := by
  have hc : (sendUpdate s dest i).claimOf s.focus.tile.claim =
      { s.claimOf s.focus.tile.claim with lastDone := max (s.claimOf s.focus.tile.claim).lastDone (arrivalTick s dest) } :=
    State.claimOf_modClaim s _ fun c => { c with lastDone := max c.lastDone (arrivalTick s dest) }
  have h := congrArg Claim.tick hc
  exact h

theorem givesBack_weightGivenBack (s : State) : GivesBack s (weightGivenBack s) := by
  unfold weightGivenBack
  split
  · have ha := returnWeight_agenda s s.me.weight.toNat
    refine ⟨rfl, t_sendUpdate _ _ _, rfl, othersKept_returnWeight s _, ⟨_, ha, fun e he => ?_⟩, fun _ _ => ?_⟩
    · rw [List.mem_singleton.mp he]
    · rw [ha]
      exact ⟨_, List.mem_append_right _ (List.mem_singleton_self _), rfl, arrivalTick_root s⟩
  next h =>
    refine ⟨rfl, rfl, rfl, .refl s _, ⟨[], (List.append_nil _).symm, fun _ he => nomatch he⟩, fun hm hw => absurd ⟨hm, fun hz => hw ?_⟩ h⟩
    exact BitVec.eq_of_toNat_eq hz

theorem me_weightGivenBack (s : State) :
    (weightGivenBack s).me = { s.me with weight := if s.mech = .weight then 0 else s.me.weight } := by
  unfold weightGivenBack
  split
  next h => rw [me_returnWeight, BitVec.ofNat_toNat, BitVec.setWidth_eq, BitVec.sub_self, if_pos h.1]; rfl
  next h =>
    have hw : (if s.mech = .weight then 0 else s.me.weight) = s.me.weight := by
      split
      next hm => exact BitVec.eq_of_toNat_eq (not_not.mp fun hz => h ⟨hm, fun he => hz he.symm⟩)
      next => rfl
    rw [hw]

/-- The strand's section is closed, its weight goes back and it halts. -/
def surrendered (s : State) : State :=
  let z := weightGivenBack (s.modCore s.focus fun c => { c with npre := none })
  z.modCore z.focus fun c => { c with status := .halted }

/-- The retirement of the focus strand follows in this tick or is planned. -/
def planRetirement (s : State) : State :=
  if retirementTick s s.focus = s.t then s.push (.strandRetirement s.focus)
  else s.planEv s.focus.tile.claim (retirementTick s s.focus) (phLand + 1) (.strandRetirement s.focus)

theorem exec_halt (hg : s.guardOn g = true) :
    exec (.halt g) s = .next (planRetirement (surrendered (s.taintIf ((s.guard g).psn != 0)))) :=
  guarded_next s .c g (fun s => planRetirement (surrendered s)) hg

theorem me_surrendered (s : State) : (surrendered s).me =
    { s.me with npre := none, status := .halted, weight := if s.mech = .weight then 0 else s.me.weight } := by
  have hy : (s.modCore s.focus fun c => { c with npre := none }).me = { s.me with npre := none } := me_modCore_focus s _
  rw [surrendered, me_modCore_focus, me_weightGivenBack, hy]
  rfl

theorem givesBack_surrendered (s : State) : GivesBack s (surrendered s) := by
  have hy : (s.modCore s.focus fun c => { c with npre := none }).me = { s.me with npre := none } := me_modCore_focus s _
  obtain ⟨hf, ht, htodo, ho, ha, hr⟩ := givesBack_weightGivenBack (s.modCore s.focus fun c => { c with npre := none })
  rw [hy] at hr
  have hk := othersKept_modCore (weightGivenBack (s.modCore s.focus fun c => { c with npre := none }))
    (weightGivenBack (s.modCore s.focus fun c => { c with npre := none })).focus fun c => { c with status := .halted }
  rw [hf] at hk
  refine ⟨hf, ht, htodo, ((othersKept_modCore s _ _).trans ho).trans ?_, ha, hr⟩
  rw [surrendered, hf]
  exact hk

theorem planRetirement_frame (u : State) : (planRetirement u).me = u.me ∧ OthersKept u (planRetirement u) u.focus := by
  unfold planRetirement
  split
  · exact ⟨rfl, fun _ _ => rfl, .of_tiles rfl rfl⟩
  · exact ⟨rfl, othersKept_plan _ _ _⟩

theorem agenda_subset_planRetirement (u : State) : u.agenda ⊆ (planRetirement u).agenda := by
  unfold planRetirement
  split
  · exact List.Subset.refl _
  · exact List.subset_append_left _ _

/-- When the strand retires: at the tick `r` of what it has in flight (R109). -/
theorem planRetirement_retires {r : Nat} (h : retirementTick s s.focus = r) :
    (r = s.t → (planRetirement s).todo = .ev (.strandRetirement s.focus) :: s.todo) ∧
    (r ≠ s.t → ∃ e ∈ (planRetirement s).agenda, e.tick = r ∧ e.act = .ev (.strandRetirement s.focus)) := by
  subst h
  refine ⟨fun h => ?_, fun h => ?_⟩
  · rw [planRetirement, if_pos h]
    rfl
  · rw [planRetirement, if_neg h]
    exact ⟨_, List.mem_append_right _ (List.mem_singleton_self _), rfl, rfl⟩

/-- Giving the weight back puts nothing of the strand's own in flight. -/
theorem GivesBack.retirementTick {r : Nat} (h : GivesBack s u) (hn : s.t ≤ r)
    (hl : ∀ e ∈ s.agenda, e.owner = some s.focus → e.retire ≤ r)
    (hr : r = s.t ∨ ∃ e ∈ s.agenda, e.owner = some s.focus ∧ e.retire = r) : Machine.retirementTick u u.focus = r := by
  have ht : u.now u.focus.tile.claim = s.t := h.t
  obtain ⟨l, ha, hl'⟩ := h.agenda
  refine retirementTick_eq (ht.trans_le hn) (fun e he ho => ?_) ?_
  · rw [ha, List.mem_append] at he
    rw [h.focus] at ho
    rcases he with he | he
    · exact hl e he ho
    · rw [hl' e he] at ho
      cases ho
  · rw [ht, ha, h.focus]
    exact hr.imp id fun ⟨e, he, ho⟩ => ⟨e, List.mem_append_left _ he, ho⟩

/-- What `halt` does where its guard enables it (R109, R118). -/
theorem halt_retires (hg : s.guardOn g = true) : ∃ u, exec (.halt g) s = .next u ∧ OthersKept s u s.focus ∧
    u.me = { (s.taintIf ((s.guard g).psn != 0)).me with
      npre := none, status := .halted, weight := if s.mech = .weight then 0 else s.me.weight } ∧
    (s.mech = .weight ∧ s.me.weight ≠ 0 → ∃ e ∈ u.agenda,
      e.act = .ev (.weightArrival s.focus.tile.claim none s.me.weight.toNat) ∧
      e.tick = s.t + s.lh * (s.focus.tile.x + s.focus.tile.y + 1)) ∧
    ∀ r, s.t ≤ r → (∀ e ∈ s.agenda, e.owner = some s.focus → e.retire ≤ r) →
      (r = s.t ∨ ∃ e ∈ s.agenda, e.owner = some s.focus ∧ e.retire = r) →
      (r = s.t → u.todo = .ev (.strandRetirement s.focus) :: s.todo) ∧
      (r ≠ s.t → ∃ e ∈ u.agenda, e.tick = r ∧ e.act = .ev (.strandRetirement s.focus)) := by
  have hx := onlyOwnCore_taintIf s ((s.guard g).psn != 0)
  have hxk := othersKept_taintIf s ((s.guard g).psn != 0)
  have hxw : (s.taintIf ((s.guard g).psn != 0)).me.weight = s.me.weight := by rw [State.me_taintIf]
  refine ⟨_, exec_halt hg, ?_⟩
  generalize s.taintIf ((s.guard g).psn != 0) = x at *
  have hb := givesBack_surrendered x
  obtain ⟨hpm, hpk⟩ := planRetirement_frame (surrendered x)
  rw [hb.focus, hx.focus] at hpk
  have hbk := hb.others
  rw [hx.focus] at hbk
  refine ⟨(hxk.trans hbk).trans hpk, ?_, fun h => ?_, fun r hn hl hr => ?_⟩
  · rw [hpm, me_surrendered, hx.mech, hxw]
  · obtain ⟨e, he, hact, htick⟩ := hb.returned (hx.mech.trans h.1) (hxw ▸ h.2)
    rw [hx.focus, hxw] at hact
    rw [hx.focus, hx.t, hx.lh] at htick
    exact ⟨e, agenda_subset_planRetirement _ he, hact, htick⟩
  · have htick := hb.retirementTick (r := r) (by rwa [hx.t]) (by rwa [hx.agenda, hx.focus]) (by rwa [hx.t, hx.agenda, hx.focus])
    have hp := planRetirement_retires htick
    rw [hb.t, hb.focus, hb.todo, hx.t, hx.focus, hx.todo] at hp
    exact hp

end Halt

end Sys2Proof.Machine

namespace Sys2Proof.Machine

/-! # The retirement of a strand (spec/04 R109, spec/08 R225, spec/09 R251, spec/11 R308) -/

section Retirement
variable {s u v : State} {st : StrandId} {cl : Nat}

/-- A step of a fold establishes a fact that every step keeps, where the invariant `Q` holds before it. -/
theorem foldl_establishes {α : Type} {f : State → α → State} {Q P : State → Prop} {l : List α} {x : α} (hx : x ∈ l)
    (hQ : ∀ s y, Q s → Q (f s y)) (hset : ∀ s, Q s → P (f s x)) (hkeep : ∀ s y, P s → P (f s y)) (h0 : Q s) : P (l.foldl f s) := by
  obtain ⟨pre, post, rfl⟩ := List.append_of_mem hx
  rw [List.foldl_append, List.foldl_cons]
  have hpre : Q (pre.foldl f s) := List.foldlRecOn pre f h0 fun u hu y _ => hQ u y hu
  exact List.foldlRecOn post f (hset _ hpre) fun u hu y _ => hkeep u y hu

/-- What the retirement of a strand leaves alone when it settles what the strand held: no core changes, no context and no byte, of a
claim at most its barriers, and nothing planned is lost. -/
structure Settles (s u : State) : Prop where
  cores : u.cores = s.cores
  ctxs : u.ctxs = s.ctxs
  claims : ∀ k, u.claimOf k = { s.claimOf k with barriers := (u.claimOf k).barriers }
  bytes : BytesKept s u
  agenda : s.agenda ⊆ u.agenda

theorem Settles.refl (s : State) : Settles s s := ⟨rfl, rfl, fun _ => rfl, .refl s, List.Subset.refl _⟩

theorem Settles.trans (h : Settles s u) (k : Settles u v) : Settles s v :=
  ⟨k.cores.trans h.cores, k.ctxs.trans h.ctxs, fun c => by rw [k.claims c, h.claims c], h.bytes.trans k.bytes, fun _ he => k.agenda (h.agenda he)⟩

theorem Settles.coreOf (h : Settles s u) (i : StrandId) : u.coreOf i = s.coreOf i := coreOf_congr h.cores i
theorem Settles.now (h : Settles s u) (k : Nat) : u.now k = s.now k := by rw [State.now, h.claims k]; rfl

theorem Settles.start (h : Settles s u) (k : Nat) : (u.claimOf k).start = (s.claimOf k).start := by rw [h.claims k]

theorem settles_foldl {α : Type} {f : State → α → State} (hf : ∀ s x, Settles s (f s x)) (l : List α) (s : State) :
    Settles s (l.foldl f s) :=
  List.foldlRecOn l f (.refl s) fun u hu x _ => hu.trans (hf u x)

theorem settles_plan (s : State) (e : Sched) : Settles s (s.plan e) :=
  ⟨rfl, rfl, fun _ => rfl, .of_tiles rfl rfl, List.subset_append_left _ _⟩

theorem settles_planEv (s : State) (c n p : Nat) (i : Event) : Settles s (s.planEv c n p i) := settles_plan s _

theorem settles_modTile (s : State) (t : TileId) {f : Tile → Tile} (hf : ∀ x, SameStore x (f x)) : Settles s (s.modTile t f) :=
  ⟨rfl, rfl, fun _ => rfl, bytesKept_modTile hf, List.Subset.refl _⟩

theorem settles_setBarrier (s : State) (c n : Nat) (b : Barrier) : Settles s (setBarrier s c n b) := by
  refine ⟨rfl, rfl, fun k => ?_, .of_tiles rfl rfl, List.Subset.refl _⟩
  by_cases h : k = c
  · subst h
    rw [setBarrier, State.claimOf_modClaim]
  · rw [setBarrier, State.claimOf_modClaim_ne _ _ _ _ h]

/-! ## Barriers and gates (R115, R329) -/

theorem planPhase_settles (s : State) (c n : Nat) : Settles s (planPhase s c n) ∧ (planPhase s c n).tiles = s.tiles := by
  unfold planPhase
  split
  · exact ⟨.refl s, rfl⟩
  · split
    · exact ⟨.refl s, rfl⟩
    · exact ⟨settles_planEv s _ _ _ _, rfl⟩

theorem planGate_settles (s : State) (c n : Nat) : Settles s (planGate s c n) ∧ (planGate s c n).tiles = s.tiles := by
  unfold planGate
  dsimp only
  split
  · exact ⟨.refl s, rfl⟩
  · split
    · exact ⟨.refl s, rfl⟩
    · exact ⟨(settles_setBarrier s _ _ _).trans (settles_planEv _ _ _ _ _), rfl⟩

theorem settleBarriers_settles (s : State) (st : StrandId) : Settles s (settleBarriers s st) ∧ (settleBarriers s st).tiles = s.tiles := by
  refine List.foldlRecOn (motive := fun u => Settles s u ∧ u.tiles = s.tiles) _ _ ⟨.refl s, rfl⟩ fun u hu p _ => ?_
  extract_lets w
  have hw : Settles u w ∧ w.tiles = u.tiles := by
    unfold w
    split
    · exact ⟨.refl u, rfl⟩
    · exact planPhase_settles u _ _
  split
  · exact ⟨hu.1.trans hw.1, hw.2.trans hu.2⟩
  · obtain ⟨hg, ht⟩ := planGate_settles w st.tile.claim p.1
    exact ⟨(hu.1.trans hw.1).trans hg, ht.trans (hw.2.trans hu.2)⟩

/-! ## Operand slots (R251) -/

/-- One slot of a strand is released now or at its U, as the tile's entries `old` say; `n` is the present tick. -/
def releaseSlot (st : StrandId) (n : Nat) (old : Tab 8 OpSlot) (s : State) (i : Nat) : State :=
  if (old.at (BitVec.ofNat 8 i)).u ≤ n then s.modTile st.tile fun t =>
    { t with opSlots := t.opSlots.put (BitVec.ofNat 8 i) { t.opSlots.at (BitVec.ofNat 8 i) with owner := none } }
  else s.planEv st.tile.claim (old.at (BitVec.ofNat 8 i)).u phLand (.resultLanding st (.freeSlot i))

/-- The slots of a tile that a core has. -/
def slotsOf (t : Tile) (core : BitVec 2) : List Nat :=
  (List.range t.slots).filter fun i => (t.opSlots.at (BitVec.ofNat 8 i)).owner == some core

theorem releaseSlots_eq (s : State) (st : StrandId) : releaseSlots s st =
    (slotsOf (s.tileOf st.tile) st.core).foldl (releaseSlot st (s.now st.tile.claim) (s.tileOf st.tile).opSlots) s := rfl

section Slots
variable {n i : Nat} {old : Tab 8 OpSlot}

theorem settles_releaseSlot (s : State) (st : StrandId) (n : Nat) (old : Tab 8 OpSlot) (i : Nat) :
    Settles s (releaseSlot st n old s i) := by
  unfold releaseSlot
  split
  · exact settles_modTile s _ fun _ => ⟨rfl, rfl, rfl⟩
  · exact settles_planEv s _ _ _ _

theorem settles_releaseSlots (s : State) (st : StrandId) : Settles s (releaseSlots s st) := by
  rw [releaseSlots_eq]
  exact settles_foldl (fun u i => settles_releaseSlot u st _ _ i) _ s

/-- An entry without its owner. -/
def OpSlot.freed (o : OpSlot) : OpSlot := { o with owner := none }

theorem opSlots_releaseSlot (s : State) (st : StrandId) (n : Nat) (old : Tab 8 OpSlot) (j : Nat) (k : BitVec 8) :
    ((releaseSlot st n old s j).tileOf st.tile).opSlots.at k =
      if k = BitVec.ofNat 8 j ∧ (old.at k).u ≤ n then ((s.tileOf st.tile).opSlots.at k).freed else (s.tileOf st.tile).opSlots.at k := by
  unfold releaseSlot
  by_cases hu : (old.at (BitVec.ofNat 8 j)).u ≤ n
  · rw [if_pos hu, State.tileOf_modTile, Tab.at_put]
    by_cases hj : k = BitVec.ofNat 8 j
    · subst hj
      rw [if_pos rfl, if_pos ⟨rfl, hu⟩]
      rfl
    · rw [if_neg hj, if_neg fun hc => hj hc.1]
  · have hn : ¬ (k = BitVec.ofNat 8 j ∧ (old.at k).u ≤ n) := fun hc => hu (hc.1 ▸ hc.2)
    rw [if_neg hu, if_neg hn]
    rfl

theorem mem_slotsOf {t : Tile} {core : BitVec 2} {i : BitVec 8} (hi : i.toNat < 4 * t.opd) (ho : (t.opSlots.at i).owner = some core) :
    i.toNat ∈ slotsOf t core := by
  refine List.mem_filter.mpr ⟨List.mem_range.mpr hi, ?_⟩
  rw [BitVec.ofNat_toNat, BitVec.setWidth_eq, ho, beq_self_eq_true]

theorem releaseSlots_frees {i : BitVec 8} (hi : i.toNat < 4 * (s.tileOf st.tile).opd)
    (ho : ((s.tileOf st.tile).opSlots.at i).owner = some st.core) (hu : ((s.tileOf st.tile).opSlots.at i).u ≤ s.now st.tile.claim) :
    ((releaseSlots s st).tileOf st.tile).opSlots.at i = ((s.tileOf st.tile).opSlots.at i).freed := by
  have hb : i = BitVec.ofNat 8 i.toNat := by rw [BitVec.ofNat_toNat, BitVec.setWidth_eq]
  rw [releaseSlots_eq]
  refine foldl_establishes (Q := fun u => ((u.tileOf st.tile).opSlots.at i).freed = ((s.tileOf st.tile).opSlots.at i).freed)
    (P := fun u => (u.tileOf st.tile).opSlots.at i = ((s.tileOf st.tile).opSlots.at i).freed) (mem_slotsOf hi ho)
    (fun u j h => ?_) (fun u h => ?_) (fun u j h => ?_) rfl
  · rw [opSlots_releaseSlot]
    split
    · exact h
    · exact h
  · rw [opSlots_releaseSlot, if_pos ⟨hb, hu⟩, h]
  · rw [opSlots_releaseSlot, h]
    exact ite_self _

theorem releaseSlots_plans {i : BitVec 8} (hi : i.toNat < 4 * (s.tileOf st.tile).opd)
    (ho : ((s.tileOf st.tile).opSlots.at i).owner = some st.core) (hu : s.now st.tile.claim < ((s.tileOf st.tile).opSlots.at i).u) :
    ∃ e ∈ (releaseSlots s st).agenda, e.tick = ((s.tileOf st.tile).opSlots.at i).u ∧
      e.act = .ev (.resultLanding st (.freeSlot i.toNat)) := by
  have hb : BitVec.ofNat 8 i.toNat = i := by rw [BitVec.ofNat_toNat, BitVec.setWidth_eq]
  rw [releaseSlots_eq]
  refine foldl_establishes (Q := fun _ => True) (P := fun u => ∃ e ∈ u.agenda, e.tick = _ ∧ e.act = _) (mem_slotsOf hi ho)
    (fun _ _ h => h) (fun u _ => ?_) (fun u j ⟨e, he, h⟩ => ⟨e, (settles_releaseSlot u st _ _ j).agenda he, h⟩) trivial
  rw [releaseSlot, hb, if_neg (Nat.not_le.mpr hu)]
  exact ⟨_, List.mem_append_right _ (List.mem_singleton_self _), rfl, rfl⟩

end Slots

/-- The slots of a tile that stands in no table are those of a fresh one of its claim's start. -/
theorem opSlots_of_tiles {t : TileId} (h : u.tiles = s.tiles) (hc : (u.claimOf t.claim).start = (s.claimOf t.claim).start) :
    (u.tileOf t).opSlots = (s.tileOf t).opSlots := by
  unfold State.tileOf
  rw [h]
  cases find s.tiles t
  · simp only [Option.getD_none, Tile.fresh, hc]
  · rfl

/-! ## Read mappings (R225) -/

/-- A strand is marked as retired. -/
def markedRetired (s : State) (st : StrandId) : State :=
  s.modCore st fun c => { c with status := .retired, retiredAt := some (s.now st.tile.claim), shapes := Tab.all 2 (.clean 0) }

/-- The tile hears of the retirement. -/
def toldTile (s : State) (st : StrandId) : State := s.modTile st.tile fun t => { t with intents := t.intents ++ retireIntents s st }

/-- The read mappings of a core. -/
def readSlots (s : State) (st : StrandId) : List (BitVec 6) := allSlots.filter fun w => (entryIn s st.tile st.core w).st == .read

/-- A strand's read mappings are withdrawn. -/
def withdrawn (s : State) (st : StrandId) : State := (readSlots s st).foldl (fun s w => withdrawAt s st w) s

/-- A retirement up to its slots: the core, the tile, the mappings. -/
def unmapped (s : State) (st : StrandId) : State := withdrawn (toldTile (markedRetired s st) st) st

/-- A retirement up to its last step: then the slots, then the barriers. -/
def settled (s : State) (st : StrandId) : State := settleBarriers (releaseSlots (unmapped s st) st) st

theorem retireStrand_eq (s : State) (st : StrandId) : retireStrand s st =
    if allRetired (settled s st) st.tile.claim then
      (shortTrackers (settled s st) st.tile.claim).foldl (fun s t => claimFault s t 0x46 0) (settled s st)
    else settled s st := rfl

theorem settles_withdrawn (s : State) (st : StrandId) : Settles s (withdrawn s st) :=
  settles_foldl (fun u _ => settles_plan u _) _ s

theorem mem_allSlots (w : BitVec 6) : w ∈ allSlots :=
  List.mem_map.mpr ⟨w.toNat, List.mem_range.mpr w.isLt, by rw [BitVec.ofNat_toNat, BitVec.setWidth_eq]⟩

theorem withdrawn_plans {w : BitVec 6} (h : (entryIn s st.tile st.core w).st = .read) : ∃ e ∈ (withdrawn s st).agenda,
    e.tick = s.now st.tile.claim + 4 ∧
    e.act = .ev (.mapChangeEffect st.tile (.withdraw [(st.core, w)] (entryIn s st.tile st.core w).bank)) := by
  refine foldl_establishes (Q := Settles s) (P := fun u => ∃ e ∈ u.agenda, e.tick = _ ∧ e.act = _)
    (List.mem_filter.mpr ⟨mem_allSlots w, by rw [h, beq_self_eq_true]⟩) (fun u _ hu => hu.trans (settles_plan u _)) (fun u hu => ?_)
    (fun u _ ⟨e, he, h⟩ => ⟨e, List.mem_append_left _ he, h⟩) (.refl s)
  refine ⟨_, List.mem_append_right _ (List.mem_singleton_self _), ?_, ?_⟩
  · dsimp only
    rw [hu.now]
  · dsimp only
    rw [entryIn, entryIn, hu.coreOf]

theorem settles_toldTile (s : State) (st : StrandId) : Settles s (toldTile s st) := settles_modTile s _ fun _ => ⟨rfl, rfl, rfl⟩

theorem settles_unmapped (s : State) (st : StrandId) : Settles (markedRetired s st) (unmapped s st) :=
  (settles_toldTile _ st).trans (settles_withdrawn _ st)

/-- The barriers are the last to settle. -/
theorem settled_barriers (s : State) (st : StrandId) : Settles (releaseSlots (unmapped s st) st) (settled s st) ∧
    (settled s st).tiles = (releaseSlots (unmapped s st) st).tiles := settleBarriers_settles _ st

theorem settles_settled (s : State) (st : StrandId) : Settles (markedRetired s st) (settled s st) :=
  ((settles_unmapped s st).trans (settles_releaseSlots _ st)).trans (settled_barriers s st).1

/-! ## Short trackers (R308) -/

/-- Whether a context of a claim has a tracker that has not fired. -/
def fallsShort (cl : Nat) (p : CtxId × Ctx) : Bool :=
  (p.2.owner.map fun o => o.tile.claim) == some cl && (p.2.armed || (p.2.pending.map fun q => q.2.opc) == some 3)

theorem tracks_eq (x : Ctx) : x.tracks = ((x.pending.map fun q => q.2.opc) == some 3) := by
  unfold Ctx.tracks
  cases x.pending <;> rfl

/-- The tile of a context of a claim. -/
def ownerTile (cl : Nat) (p : CtxId × Ctx) : Option TileId :=
  match p.2.owner with
  | some o => if o.tile.claim = cl then some o.tile else none
  | none => none

theorem shortTrackers_eq (s : State) (cl : Nat) :
    shortTrackers s cl = (s.ctxs.filter fun p => p.2.armed || p.2.tracks).filterMap (ownerTile cl) := rfl

theorem ownerTile_some {p : CtxId × Ctx} {t : TileId} : ownerTile cl p = some t ↔ ∃ o, p.2.owner = some o ∧ o.tile = t ∧ t.claim = cl := by
  unfold ownerTile
  split
  next o ho =>
    rw [ho]
    constructor
    · intro h
      split at h
      next hc =>
        cases h
        exact ⟨o, rfl, rfl, hc⟩
      next => cases h
    · rintro ⟨o, ⟨⟩, rfl, hc⟩
      exact if_pos hc
  next ho => rw [ho]; simp

theorem isSome_ownerTile (p : CtxId × Ctx) : (ownerTile cl p).isSome = ((p.2.owner.map fun o => o.tile.claim) == some cl) := by
  unfold ownerTile
  cases p.2.owner with
  | none => rfl
  | some o => by_cases h : o.tile.claim = cl <;> simp [h]

theorem length_shortTrackers (s : State) (cl : Nat) : (shortTrackers s cl).length = (s.ctxs.filter (fallsShort cl)).length := by
  rw [shortTrackers_eq, List.length_filterMap_eq_countP, List.countP_filter, ← List.countP_eq_length_filter]
  refine congrArg (fun p => List.countP p s.ctxs) (funext fun p => ?_)
  rw [isSome_ownerTile, tracks_eq, fallsShort]

theorem mem_shortTrackers {p : CtxId × Ctx} {o : StrandId} (hp : p ∈ s.ctxs.filter (fallsShort cl)) (ho : p.2.owner = some o) :
    o.tile ∈ shortTrackers s cl := by
  obtain ⟨hm, hs⟩ := List.mem_filter.mp hp
  obtain ⟨hc, ht⟩ := Bool.and_eq_true_iff.mp hs
  rw [← tracks_eq] at ht
  refine List.mem_filterMap.mpr ⟨p, List.mem_filter.mpr ⟨hm, ht⟩, ownerTile_some.mpr ⟨o, ho, rfl, ?_⟩⟩
  rw [ho] at hc
  simpa using hc

theorem claim_of_mem_shortTrackers {t : TileId} (h : t ∈ shortTrackers s cl) : t.claim = cl := by
  obtain ⟨p, _, hp⟩ := List.mem_filterMap.mp h
  obtain ⟨_, _, _, hc⟩ := ownerTile_some.mp hp
  exact hc

/-- A fault of a claim changes no core, tile or byte, and loses nothing planned. -/
structure Faulting (s u : State) : Prop where
  cores : u.cores = s.cores
  tiles : u.tiles = s.tiles
  far : u.far = s.far
  agenda : s.agenda ⊆ u.agenda

theorem Faulting.refl (s : State) : Faulting s s := ⟨rfl, rfl, rfl, List.Subset.refl _⟩

theorem faulting_claimFault (s : State) (t : TileId) (cause : Byte) (data : Quad) : Faulting s (claimFault s t cause data) := by
  refine ⟨claimFault_cores s t cause data, by simp, by simp, ?_⟩
  unfold claimFault fatalAt
  split
  · exact List.Subset.refl _
  · exact List.subset_append_left _ _

/-- A tile's tracker falls short. -/
def noteShort (s : State) (t : TileId) : State := claimFault s t 0x46 0

theorem faulting_noteShort (l : List TileId) (s : State) : Faulting s (l.foldl noteShort s) :=
  List.foldlRecOn l noteShort (.refl s) fun u hu t _ =>
    have h := faulting_claimFault u t 0x46 0
    ⟨h.cores.trans hu.cores, h.tiles.trans hu.tiles, h.far.trans hu.far, fun _ he => h.agenda (hu.agenda he)⟩

theorem subset_insertFault (l : List FaultRec) (r : FaultRec) : l ⊆ insertFault l r := by
  induction l with
  | nil => exact List.nil_subset _
  | cons x l ih =>
    unfold insertFault
    split
    · exact List.subset_cons_self _ _
    · exact List.cons_subset_cons x ih

/-- Every tile's fault is counted, and recorded where the record has room. -/
theorem claimOf_noteShort (l : List TileId) (hl : ∀ t ∈ l, t.claim = cl) (s : State) :
    ((l.foldl noteShort s).claimOf cl).start = (s.claimOf cl).start ∧
    ((l.foldl noteShort s).claimOf cl).faultCount = (s.claimOf cl).faultCount + l.length ∧
    ((s.claimOf cl).faults.length + l.length ≤ 64 → (s.claimOf cl).faults ⊆ ((l.foldl noteShort s).claimOf cl).faults ∧
      ∀ t ∈ l, ∃ r ∈ ((l.foldl noteShort s).claimOf cl).faults, r.cause = 0x46 ∧ r.x = t.x ∧ r.y = t.y) := by
  induction l generalizing s with
  | nil => exact ⟨rfl, rfl, fun _ => ⟨List.Subset.refl _, fun _ ht => nomatch ht⟩⟩
  | cons t l ih =>
    have ht := hl t (List.mem_cons_self ..)
    obtain ⟨hs, hc, hf⟩ := ih (fun t h => hl t (List.mem_cons_of_mem _ h)) (noteShort s t)
    have h1 := claimOf_claimFault s t 0x46 0
    rw [ht] at h1
    rw [noteShort, h1] at hs hc hf
    dsimp only at hf
    refine ⟨hs, hc.trans ?_, fun hlen => ?_⟩
    · rw [List.length_cons, Nat.add_assoc, Nat.add_comm 1]
    · rw [List.length_cons] at hlen
      rw [List.take_of_length_le (by rw [length_insertFault]; omega), length_insertFault] at hf
      obtain ⟨hsub, hall⟩ := hf (by omega)
      refine ⟨fun x hx => hsub (subset_insertFault _ _ hx), fun o ho => ?_⟩
      rcases List.mem_cons.mp ho with rfl | ho
      · exact ⟨_, hsub (mem_insertFault _ _), rfl, rfl, rfl⟩
      · exact hall o ho

/-! ## The whole retirement -/

theorem coreOf_settled (s : State) (st : StrandId) : (settled s st).coreOf st =
    { s.coreOf st with status := .retired, retiredAt := some (s.now st.tile.claim), shapes := Tab.all 2 (.clean 0) } := by
  rw [(settles_settled s st).coreOf, markedRetired, State.coreOf_modCore]

theorem coreOf_settled_ne (s : State) {st o : StrandId} (h : o ≠ st) : (settled s st).coreOf o = s.coreOf o := by
  rw [(settles_settled s st).coreOf, markedRetired, State.coreOf_modCore_ne _ _ _ _ h]

/-- The strand was the last of its claim. -/
theorem allRetired_settled (h : ∀ o ∈ strandsOf s st.tile.claim, o = st ∨ (s.coreOf o).status = .retired) :
    allRetired (settled s st) st.tile.claim = true := by
  refine List.all_eq_true.mpr fun o ho => ?_
  by_cases hst : o = st
  · rw [hst, coreOf_settled]
    rfl
  · obtain ⟨p, hp, rfl⟩ := List.mem_map.mp ho
    obtain ⟨hp, hc⟩ := List.mem_filter.mp hp
    rw [(settles_settled s st).cores] at hp
    rw [coreOf_settled_ne s hst]
    rcases mem_put hp with hp | rfl
    · rcases h p.1 (List.mem_map.mpr ⟨p, List.mem_filter.mpr ⟨hp, hc⟩, rfl⟩) with he | he
      · exact absurd he hst
      · rw [he]
        rfl
    · exact absurd rfl hst

theorem faulting_retireStrand (s : State) (st : StrandId) : Faulting (settled s st) (retireStrand s st) ∧
    ((retireStrand s st).claimOf st.tile.claim).start = ((settled s st).claimOf st.tile.claim).start := by
  rw [retireStrand_eq]
  split
  · exact ⟨faulting_noteShort _ _, (claimOf_noteShort _ (fun _ => claim_of_mem_shortTrackers) _).1⟩
  · exact ⟨.refl _, rfl⟩

/-- When the last strand of a claim retires, each tracker that has not fired is a fault of its tile (R308). -/
theorem retireStrand_short (h : ∀ o ∈ strandsOf s st.tile.claim, o = st ∨ (s.coreOf o).status = .retired) :
    let short := s.ctxs.filter (fallsShort st.tile.claim)
    let c := (retireStrand s st).claimOf st.tile.claim
    c.faultCount = (s.claimOf st.tile.claim).faultCount + short.length ∧
    ((s.claimOf st.tile.claim).faults.length + short.length ≤ 64 → ∀ p ∈ short, ∀ o, p.2.owner = some o →
      ∃ r ∈ c.faults, r.cause = 0x46 ∧ r.x = o.tile.x ∧ r.y = o.tile.y) := by
  have hs := settles_settled s st
  have hx : (settled s st).ctxs = s.ctxs := hs.ctxs
  have hclaim : (settled s st).claimOf st.tile.claim =
      { s.claimOf st.tile.claim with barriers := ((settled s st).claimOf st.tile.claim).barriers } := hs.claims _
  have hlen := length_shortTrackers (settled s st) st.tile.claim
  obtain ⟨_, hcount, hfaults⟩ := claimOf_noteShort (shortTrackers (settled s st) st.tile.claim)
    (fun _ => claim_of_mem_shortTrackers) (settled s st)
  rw [hlen, hx, hclaim] at hcount hfaults
  rw [retireStrand_eq, if_pos (allRetired_settled h)]
  refine ⟨hcount, fun hroom p hp o ho => (hfaults hroom).2 o.tile (mem_shortTrackers ?_ ho)⟩
  rw [hx]
  exact hp

theorem tileOf_unmapped (s : State) (st : StrandId) : (unmapped s st).tileOf st.tile =
    { s.tileOf st.tile with intents := (s.tileOf st.tile).intents ++ retireIntents (markedRetired s st) st } := by
  have hw : ∀ w : State, (withdrawn w st).tileOf st.tile = w.tileOf st.tile := fun w =>
    List.foldlRecOn (motive := fun (u : State) => u.tileOf st.tile = w.tileOf st.tile) _ _ rfl fun _ hu _ _ => hu
  rw [unmapped, hw, toldTile, State.tileOf_modTile, markedRetired, State.tileOf_modCore]

theorem now_unmapped (s : State) (st : StrandId) : (unmapped s st).now st.tile.claim = s.now st.tile.claim :=
  (settles_unmapped s st).now _

theorem opSlots_retireStrand (s : State) (st : StrandId) :
    ((retireStrand s st).tileOf st.tile).opSlots = ((releaseSlots (unmapped s st) st).tileOf st.tile).opSlots := by
  obtain ⟨hf, hstart⟩ := faulting_retireStrand s st
  obtain ⟨hb, ht⟩ := settled_barriers s st
  exact opSlots_of_tiles (hf.tiles.trans ht) (hstart.trans (hb.start _))

theorem agenda_retireStrand (s : State) (st : StrandId) : (releaseSlots (unmapped s st) st).agenda ⊆ (retireStrand s st).agenda :=
  fun _ he => (faulting_retireStrand s st).1.agenda ((settled_barriers s st).1.agenda he)

/-- The core, the other strands and the bytes after a retirement. -/
theorem retireStrand_frame (s : State) (st : StrandId) : OthersKept s (retireStrand s st) st ∧
    (retireStrand s st).coreOf st =
      { s.coreOf st with status := .retired, retiredAt := some (s.now st.tile.claim), shapes := Tab.all 2 (.clean 0) } := by
  have hf := (faulting_retireStrand s st).1
  refine ⟨⟨fun o ho => ?_, ?_⟩, ?_⟩
  · rw [coreOf_congr hf.cores, coreOf_settled_ne s ho]
  · exact ((modCore_frame s st _).2.trans (settles_settled s st).bytes).trans (.of_tiles hf.tiles hf.far)
  · rw [coreOf_congr hf.cores, coreOf_settled]

/-- What the slots of a strand become (R251). -/
theorem retireStrand_slots {i : BitVec 8} (hi : i.toNat < 4 * (s.tileOf st.tile).opd)
    (ho : ((s.tileOf st.tile).opSlots.at i).owner = some st.core) :
    (((s.tileOf st.tile).opSlots.at i).u ≤ s.now st.tile.claim →
      ((retireStrand s st).tileOf st.tile).opSlots.at i = { (s.tileOf st.tile).opSlots.at i with owner := none }) ∧
    (s.now st.tile.claim < ((s.tileOf st.tile).opSlots.at i).u → ∃ e ∈ (retireStrand s st).agenda,
      e.tick = ((s.tileOf st.tile).opSlots.at i).u ∧ e.act = .ev (.resultLanding st (.freeSlot i.toNat))) := by
  have ht := tileOf_unmapped s st
  have hopd : ((unmapped s st).tileOf st.tile).opd = (s.tileOf st.tile).opd := by rw [ht]; rfl
  have hslots : ((unmapped s st).tileOf st.tile).opSlots = (s.tileOf st.tile).opSlots := by rw [ht]
  have hfrees := releaseSlots_frees (s := unmapped s st) (st := st) (i := i)
  have hplans := releaseSlots_plans (s := unmapped s st) (st := st) (i := i)
  rw [hopd, hslots, now_unmapped] at hfrees hplans
  refine ⟨fun hu => ?_, fun hu => ?_⟩
  · rw [opSlots_retireStrand]
    exact hfrees hi ho hu
  · obtain ⟨e, he, h⟩ := hplans hi ho hu
    exact ⟨e, agenda_retireStrand s st he, h⟩

/-- The read mappings of a strand are withdrawn four ticks on (R225). -/
theorem retireStrand_mappings {w : BitVec 6} (h : (entryIn s st.tile st.core w).st = .read) : ∃ e ∈ (retireStrand s st).agenda,
    e.tick = s.now st.tile.claim + 4 ∧
    e.act = .ev (.mapChangeEffect st.tile (.withdraw [(st.core, w)] (entryIn s st.tile st.core w).bank)) := by
  have he : entryIn (toldTile (markedRetired s st) st) st.tile st.core w = entryIn s st.tile st.core w := by
    rw [entryIn, (settles_toldTile _ st).coreOf, markedRetired, State.coreOf_modCore]
    rfl
  obtain ⟨e, hm, ht, ha⟩ := withdrawn_plans (s := toldTile (markedRetired s st) st) (st := st) (w := w) (by rw [he, h])
  rw [he] at ha
  exact ⟨e, agenda_retireStrand s st ((settles_releaseSlots (unmapped s st) st).agenda hm), ht, ha⟩

end Retirement

/-- Settles O51: each form is its frame around an update that it sends or a change of its own core, and the retirement is the stages
of `retireStrand_eq`. -/
theorem strandEnds : Obligations.StrandEnds := by
  refine ⟨fun a dt s ha => ?_, fun st s => ⟨rfl, rfl⟩, fun g s hg => halt_retires hg, fun st s => ?_, fun a b g s hg ha hb => ?_,
    fun a g s hg ha => ?_, fun cl share rcv s => ⟨?_, ?_, rfl⟩, fun st n s => ⟨jcbTotalArrival_adds, fun h hst => ?_, fun h hst => ?_⟩,
    fun g s hg => ⟨exec_npreOff hg, fun h => ?_, npreOn_opens hg⟩, fun st s => ⟨fun h => ?_, fun n h ht => ?_⟩⟩
  · refine ⟨fun h => ⟨fun hle => ?_, fun hlt => ?_⟩, fun n h => ⟨fun hle => ?_, fun hlt => ?_⟩⟩
    · have hx := exec_tkawait_reached (dt := dt) ha ((toNat_tkTarget_read h).trans_le hle)
      rw [tkTarget_read h] at hx
      exact hx
    · have hx := exec_tkawait_waits (dt := dt) ha (hlt.trans_eq (toNat_tkTarget_read h).symm)
      rw [toNat_tkTarget_read h, tkTarget_read h] at hx
      exact hx
    · have hx := exec_tkawait_reached (dt := dt) ha (by rwa [tkTarget_kept h])
      rw [tkTarget_kept h] at hx
      exact hx
    · have hx := exec_tkawait_waits (dt := dt) ha (by rwa [tkTarget_kept h])
      rw [tkTarget_kept h] at hx
      exact hx
  · obtain ⟨hk, hc⟩ := retireStrand_frame s st
    exact ⟨retireStrand s st, rfl, hk, hc, fun i hi ho => retireStrand_slots hi ho, fun w hw => retireStrand_mappings hw, retireStrand_short⟩
  · have hr := receiverOf_eq s (s.me.srcG b).val
    exact ⟨fun h => exec_wsplit_fault hg ha hb ((splitChecks_iff hr).mpr h),
      fun h => wsplit_sends hr hg ha hb (fun hc => h ((splitChecks_iff hr).mp hc))⟩
  · exact ⟨exec_wret_fault hg ha, wret_sends hg ha, fun hm => ⟨exec_jcbAdd_fault hg ha hm, exec_jcbPost_fault hg hm⟩,
      fun hm => ⟨exec_jcbAdd_posted hg ha hm, jcbAdd_sends hg ha hm, jcbPost_sends hg hm⟩⟩
  · rintro r rfl h
    exact weightArrival_held cl share h
  · rintro (rfl | ⟨r, rfl, h⟩)
    · rfl
    · exact weightArrival_retired cl share h
  · exact (jcbTotalArrival_overflows h).trans (congrArg _ (if_pos hst))
  · exact (jcbTotalArrival_overflows h).trans (congrArg _ (if_neg hst))
  · obtain ⟨n, hn⟩ := Option.ne_none_iff_exists'.mp h
    rw [exec_npreOn hg, openSection_open (n := n) (by rw [State.me_taintIf, hn])]
  · exact congrArg Host.Outcome.next (sectionCap_of_ne st h)
  · exact congrArg Host.Outcome.next (sectionCap_of_eq h ht)

end Sys2Proof.Machine

namespace Sys2Proof.Machine

/-! # A strand at its start tick, and across pre-emption and resumption (spec/05 R123) -/

section Starting

theorem at_all {α : Type} {k : Nat} (x : α) (i : BitVec k) : (Tab.all k x).at i = x := Vector.getElem_replicate ..

variable (i : Image) (args : List Byte) (start : Nat) (st : StrandId) (root : Bool)

theorem readG_buildCore (r : BitVec 6) : (buildCore i args start st root).readG r = .clean 0 :=
  (congrArg (ite _ _) (at_all _ r)).trans (ite_self _)

theorem readA_buildCore (r : BitVec 4) : (buildCore i args start st root).readA r = .clean 0 := at_all _ r

theorem readV_buildCore (r : BitVec 6) : (buildCore i args start st root).readV r = .clean 0 := at_all _ r

theorem readK_buildCore (r : BitVec 4) :
    (buildCore i args start st root).readK r = if r = 0 then .clean 0xFFFF else .clean 0 := congrArg (ite _ _) (at_all _ r)

theorem latchOf_buildCore (l : Latch) : ((buildCore i args start st root).latchOf l).valid = false :=
  congrArg LatchState.valid (at_all _ l.code)

theorem faultWord_buildCore : (buildCore i args start st root).faultWord = 0 := by
  show (0#32 ++ 0#16 ++ BitVec.ofBool false ++ BitVec.ofBool false ++ 0#2 ++ 0#1 ++ 0#3 ++ 0#8 : BitVec 64) = 0
  decide

theorem weight_buildCore : (buildCore i args start st root).weight.toNat = if root then 2 ^ 32 else 0 := by
  cases root <;> rfl

end Starting

section Preemption
variable {s : State} {cl : Nat}

theorem mailboxDone_cores (s : State) (result : Byte) (r0 : Quad) : (mailboxDone s result r0).cores = s.cores := by
  obtain ⟨m, h⟩ := mailboxDone_eq s result r0
  rw [h]

theorem command_cores {x y z : Bool} {f : State → State} (hf : (f s).cores = s.cores) {u : State}
    (h : command s x y z f = .next u) : u.cores = s.cores := by
  obtain rfl := Host.Outcome.next.inj h
  split_ifs
  · exact mailboxDone_cores s 5 0
  · exact mailboxDone_cores s 4 0
  · exact mailboxDone_cores s 1 0
  · exact hf

theorem askRest_cores (s : State) (cl op : Nat) (f : FleetLaunch) : (askRest s cl op f).cores = s.cores := by
  unfold askRest
  split <;> rfl

theorem askFleet_cores {op : Nat} {go : State → State} (hgo : ∀ s, (go s).cores = s.cores) :
    (askFleet s cl op go).cores = s.cores := by
  unfold askFleet
  split_ifs
  · rfl
  · split
    · exact askRest_cores s cl op _
    · exact hgo _
  · exact hgo s

theorem sayBoundary_cores (s : State) (cl b : Nat) (ok : Bool) : (sayBoundary s cl b ok).cores = s.cores := by
  unfold sayBoundary
  split <;> rfl

theorem stopPreempted_cores (s : State) (cl : Nat) : (stopPreempted s cl).cores = s.cores := (stopPreempted_keeps s cl).2.1

/-- The wafers' agreement stops the claim, lets it go on or waits, and no strand sees which. -/
theorem settleParley_cores (s : State) (cl : Nat) : (settleParley s cl).cores = s.cores := by
  unfold settleParley
  dsimp only
  split
  · split_ifs
    · exact stopPreempted_cores _ cl
    · rfl
    · rfl
  · rfl

theorem preemptionStop_cores {u : State} (h : exec (.preemptionStop cl) s = .next u) : u.cores = s.cores := by
  obtain rfl := Host.Outcome.next.inj h
  split_ifs
  · rfl
  · exact (settleParley_cores _ cl).trans (sayBoundary_cores _ cl _ _)
  · rfl
  · exact stopPreempted_cores s cl
  · rfl

theorem resume_cores {a : MbArgs} {u : State} (h : exec (.resume a) s = .next u) : u.cores = s.cores :=
  command_cores (f := fun s => mailboxDone (askFleet s a.a0.toNat 8 fun s => resumeClaim s a.a0.toNat) 0 0)
    ((mailboxDone_cores _ 0 0).trans (askFleet_cores (go := fun s => resumeClaim s a.a0.toNat) fun _ => rfl)) h

end Preemption

/-- Settles O6: a strand starts as `Core.fresh` but for what the image, the packet and its place give it, and neither a stop at a
boundary nor a resumption touches the strands. -/
theorem strandStart : Obligations.StrandStart := by
  refine ⟨fun i args start st root => ?_, fun cl a s u h => h.elim preemptionStop_cores resume_cores⟩
  exact ⟨fun r => ⟨readG_buildCore i args start st root r, readV_buildCore i args start st root r⟩,
    readA_buildCore i args start st root, readK_buildCore i args start st root, latchOf_buildCore i args start st root, rfl, rfl, rfl, rfl,
    faultWord_buildCore i args start st root, rfl, rfl, rfl, rfl, rfl, rfl, rfl, rfl, rfl, rfl, rfl,
    weight_buildCore i args start st root, rfl, rfl⟩

end Sys2Proof.Machine

namespace Sys2Proof.Machine

/-! # Values of the scalar forms (spec/05 R126 to R131, R133, R134) -/

section WordValues

theorem ofInt_toInt_word (a : Word) : wordOf a.toInt = a := BitVec.ofInt_toInt

theorem ofNat_toNat_word (a : Word) : BitVec.ofNat 32 a.toNat = a := (BitVec.ofNat_toNat 32 a).trans (BitVec.setWidth_eq a)

/-! ## Add, subtract and logic (R126) -/

theorem add_eq_wordOf (a b : Word) : a + b = wordOf (a.toInt + b.toInt) := by
  rw [wordOf, BitVec.ofInt_add, BitVec.ofInt_toInt, BitVec.ofInt_toInt]

theorem sub_eq_wordOf (a b : Word) : a - b = wordOf (a.toInt - b.toInt) := by
  rw [wordOf, Int.sub_eq_add_neg, BitVec.ofInt_add, BitVec.ofInt_neg, BitVec.ofInt_toInt, BitVec.ofInt_toInt, BitVec.sub_eq_add_neg]

theorem and_eq_ofNat (a b : Word) : a &&& b = BitVec.ofNat 32 (a.toNat &&& b.toNat) := by
  rw [BitVec.ofNat_and, ofNat_toNat_word, ofNat_toNat_word]

theorem or_eq_ofNat (a b : Word) : a ||| b = BitVec.ofNat 32 (a.toNat ||| b.toNat) := by
  rw [BitVec.ofNat_or, ofNat_toNat_word, ofNat_toNat_word]

theorem xor_eq_ofNat (a b : Word) : a ^^^ b = BitVec.ofNat 32 (a.toNat ^^^ b.toNat) := by
  rw [BitVec.ofNat_xor, ofNat_toNat_word, ofNat_toNat_word]

theorem andNot_eq_ofNat (a b : Word) : a &&& ~~~b = BitVec.ofNat 32 (a.toNat &&& (2 ^ 32 - 1 - b.toNat)) := by
  rw [and_eq_ofNat, BitVec.toNat_not]

/-! ## Multiply and divide (R127, R128) -/

theorem mul_eq_wordOf (a b : Word) : a * b = wordOf (a.toInt * b.toInt) := by
  rw [wordOf, BitVec.ofInt_mul, BitVec.ofInt_toInt, BitVec.ofInt_toInt]

/-- The high word of a signed 64-bit number. -/
theorem highWord_ofInt (z : Int) : (BitVec.ofInt 64 z).extractLsb' 32 32 = wordOf (z / 2 ^ 32) := by
  apply BitVec.eq_of_toNat_eq
  rw [BitVec.extractLsb'_toNat, wordOf, BitVec.toNat_ofInt, BitVec.toNat_ofInt, Nat.shiftRight_eq_div_pow]
  omega

/-- The high word of a natural number. -/
theorem highWord_ofNat (n : Nat) : (BitVec.ofNat 64 n).extractLsb' 32 32 = BitVec.ofNat 32 (n / 2 ^ 32) := by
  apply BitVec.eq_of_toNat_eq
  rw [BitVec.extractLsb'_toNat, BitVec.toNat_ofNat, BitVec.toNat_ofNat, Nat.shiftRight_eq_div_pow]
  omega

theorem toInt_eq_zero_iff (b : Word) : b.toInt = 0 ↔ b = 0 := by rw [← BitVec.toInt_zero (w := 32), BitVec.toInt_inj]; rfl

theorem toNat_eq_zero_iff (b : Word) : b.toNat = 0 ↔ b = 0 := by rw [← BitVec.toNat_inj]; rfl

theorem quotient_eq (a b : Word) :
    BitVec.ofInt 32 (divSigned a b).1 = if b = 0 then wordOf (-1) else wordOf (a.toInt.tdiv b.toInt) := by
  unfold divSigned
  simp only [toInt_eq_zero_iff]
  split_ifs with h0 hmin
  · rfl
  · rw [hmin.1, hmin.2]; decide
  · rfl

theorem remainder_eq (a b : Word) : BitVec.ofInt 32 (divSigned a b).2 = if b = 0 then a else wordOf (a.toInt.tmod b.toInt) := by
  unfold divSigned
  simp only [toInt_eq_zero_iff]
  split_ifs with h0 hmin
  · exact BitVec.ofInt_toInt
  · rw [hmin.1, hmin.2]; decide
  · rw [Int.tmod_def, Int.mul_comm b.toInt]; rfl

theorem quotientNat_eq (a b : Word) :
    BitVec.ofNat 32 (divNatural a b).1 = if b = 0 then wordOf (-1) else BitVec.ofNat 32 (a.toNat / b.toNat) := by
  unfold divNatural
  simp only [toNat_eq_zero_iff]
  split_ifs
  · rfl
  · rfl

theorem remainderNat_eq (a b : Word) : BitVec.ofNat 32 (divNatural a b).2 = if b = 0 then a else BitVec.ofNat 32 (a.toNat % b.toNat) := by
  unfold divNatural
  simp only [toNat_eq_zero_iff]
  split_ifs
  · exact ofNat_toNat_word a
  · rw [Nat.mod_def, Nat.mul_comm b.toNat]

/-! ## Shifts and rotate (R129) -/

theorem shiftLeft_eq_ofNat (a : Word) (n : Nat) : a <<< n = BitVec.ofNat 32 (a.toNat * 2 ^ n) := by
  apply BitVec.eq_of_toNat_eq
  rw [BitVec.toNat_shiftLeft, Nat.shiftLeft_eq, BitVec.toNat_ofNat]

theorem shiftRight_eq_ofNat (a : Word) (n : Nat) : a >>> n = BitVec.ofNat 32 (a.toNat / 2 ^ n) := by
  rw [← Nat.shiftRight_eq_div_pow, ← BitVec.toNat_ushiftRight, ofNat_toNat_word]

theorem sshiftRight_eq_wordOf (a : Word) (n : Nat) : a.sshiftRight n = wordOf (a.toInt / 2 ^ n) := by
  rw [← ofInt_toInt_word (a.sshiftRight n), BitVec.toInt_sshiftRight, Int.shiftRight_eq_div_pow, Int.natCast_pow]; rfl

/-- A count of at least the width leaves only the sign. -/
theorem toInt_div_two_pow (a : Word) {n : Nat} (h : 32 ≤ n) : a.toInt / 2 ^ n = if a.toInt < 0 then -1 else 0 := by
  have hpow : (2 ^ 32 : Int) ≤ 2 ^ n := pow_le_pow_right₀ (by norm_num) h
  have hlo := BitVec.le_toInt a
  have hhi := BitVec.toInt_lt (x := a)
  split_ifs with hs
  · exact Int.ediv_eq_neg_one_of_neg_of_le hs (by omega)
  · exact Int.ediv_eq_zero_of_lt (by omega) (by omega)

theorem shl_eq (a b : Word) : a <<< b.toNat = if b.toNat < 32 then BitVec.ofNat 32 (a.toNat * 2 ^ b.toNat) else 0 := by
  split_ifs with h
  · exact shiftLeft_eq_ofNat a _
  · exact BitVec.shiftLeft_eq_zero (by omega)

theorem shr_eq (a b : Word) : a >>> b.toNat = if b.toNat < 32 then BitVec.ofNat 32 (a.toNat / 2 ^ b.toNat) else 0 := by
  split_ifs with h
  · exact shiftRight_eq_ofNat a _
  · exact BitVec.ushiftRight_eq_zero (by omega)

theorem sra_eq (a b : Word) : a.sshiftRight b.toNat =
    if b.toNat < 32 then wordOf (a.toInt / 2 ^ b.toNat) else wordOf (if a.toInt < 0 then -1 else 0) := by
  rw [sshiftRight_eq_wordOf]
  split_ifs with h hs
  · rfl
  · rw [toInt_div_two_pow a (by omega), if_pos hs]
  · rw [toInt_div_two_pow a (by omega), if_neg hs]

/-- The bits that leave a word at the top come in at the bottom, so that the two parts of a rotation share none. -/
theorem rotateLeft_eq_ofNat (a : Word) {r : Nat} (h : r < 32) :
    a.rotateLeft r = BitVec.ofNat 32 (a.toNat * 2 ^ r + a.toNat / 2 ^ (32 - r)) := by
  have hsplit : (2 : Nat) ^ 32 = 2 ^ r * 2 ^ (32 - r) := by rw [← pow_add]; congr 1; omega
  have hlow : a.toNat / 2 ^ (32 - r) < 2 ^ r := by
    rw [Nat.div_lt_iff_lt_mul (by positivity), ← hsplit]
    exact a.isLt
  have hsum : a.toNat * 2 ^ r % 2 ^ 32 + a.toNat / 2 ^ (32 - r) =
      a.toNat * 2 ^ r % 2 ^ 32 ||| a.toNat / 2 ^ (32 - r) := by
    rw [Nat.mul_comm, hsplit, Nat.mul_mod_mul_left]
    exact Nat.two_pow_add_eq_or_of_lt hlow _
  have hbound : a.toNat * 2 ^ r % 2 ^ 32 + a.toNat / 2 ^ (32 - r) < 2 ^ 32 := by
    rw [hsum]
    exact Nat.or_lt_two_pow (Nat.mod_lt _ (by positivity)) ((Nat.div_le_self _ _).trans_lt a.isLt)
  apply BitVec.eq_of_toNat_eq
  rw [BitVec.toNat_rotateLeft, Nat.mod_eq_of_lt h, Nat.shiftLeft_eq, Nat.shiftRight_eq_div_pow, ← hsum, BitVec.toNat_ofNat, ← Nat.mod_add_mod]
  exact (Nat.mod_eq_of_lt hbound).symm

theorem rol_eq (a b : Word) : a.rotateLeft (b.toNat % 32) =
    BitVec.ofNat 32 (a.toNat * 2 ^ (b.toNat % 32) + a.toNat / 2 ^ (32 - b.toNat % 32)) :=
  rotateLeft_eq_ofNat a (Nat.mod_lt _ (by norm_num))

/-! ## Minimum, maximum and compares (R130, R131) -/

theorem min_eq (a b : Word) : (if a.toInt ≤ b.toInt then a else b) = wordOf (min a.toInt b.toInt) := by
  rw [min_def, apply_ite wordOf, ofInt_toInt_word, ofInt_toInt_word]

theorem max_eq (a b : Word) : (if a.toInt ≤ b.toInt then b else a) = wordOf (max a.toInt b.toInt) := by
  rw [max_def, apply_ite wordOf, ofInt_toInt_word, ofInt_toInt_word]

theorem minNat_eq (a b : Word) : (if a.toNat ≤ b.toNat then a else b) = BitVec.ofNat 32 (min a.toNat b.toNat) := by
  rw [min_def, apply_ite (BitVec.ofNat 32), ofNat_toNat_word, ofNat_toNat_word]

theorem maxNat_eq (a b : Word) : (if a.toNat ≤ b.toNat then b else a) = BitVec.ofNat 32 (max a.toNat b.toNat) := by
  rw [max_def, apply_ite (BitVec.ofNat 32), ofNat_toNat_word, ofNat_toNat_word]

theorem ofBoolWord_decide (p : Prop) [Decidable p] : ofBoolWord (decide p) = if p then 1 else 0 := by
  simp only [ofBoolWord, decide_eq_true_eq]

/-- A compare whose rule names the opposite relation. -/
theorem ofBoolWord_decide_of_iff_not {p q : Prop} [Decidable p] [Decidable q] (h : p ↔ ¬ q) :
    ofBoolWord (decide p) = if q then 0 else 1 := by
  rw [ofBoolWord_decide, if_congr h rfl rfl, ite_not]

theorem ceq_eq (a b : Word) : ofBoolWord (decide (a = b)) = if a.toNat = b.toNat then 1 else 0 := by
  rw [ofBoolWord_decide, if_congr BitVec.toNat_inj rfl rfl]

theorem cne_eq (a b : Word) : ofBoolWord (decide (a ≠ b)) = if a.toNat = b.toNat then 0 else 1 :=
  ofBoolWord_decide_of_iff_not (not_congr BitVec.toNat_inj.symm)

/-! ## Bit counting (R133) -/

/-- The numbers below n up to the first that fails p. -/
theorem length_takeWhile_range {p : Nat → Bool} {k n : Nat} (hk : k ≤ n) (hp : ∀ i < k, p i = true) (hstop : k < n → p k = false) :
    ((List.range n).takeWhile p).length = k := by
  obtain ⟨m, rfl⟩ := Nat.exists_eq_add_of_le hk
  rw [List.range_add, List.takeWhile_append_of_pos fun i hi => hp i (List.mem_range.1 hi)]
  cases m with
  | zero => simp
  | succ m =>
    have hf : p k = false := hstop (by omega)
    simp [List.range_succ_eq_map, hf]

theorem countLeading_eq (a : Word) : countLeading a = ((List.range 32).takeWhile fun i => a.getLsbD (31 - i) = false).length := by
  unfold countLeading
  split_ifs with h
  · subst h; decide
  · have hne : a.toNat ≠ 0 := fun e => h ((toNat_eq_zero_iff a).1 e)
    have hlog : a.toNat.log2 < 32 := (Nat.log2_lt hne).2 a.isLt
    refine (length_takeWhile_range (by omega) (fun i hi => ?_) fun _ => ?_).symm
    · have hlt : a.toNat < 2 ^ (31 - i) := Nat.lt_log2_self.trans_le (Nat.pow_le_pow_right (by norm_num) (by omega))
      simp [BitVec.getLsbD, Nat.testBit_lt_two_pow hlt]
    · have htop : 31 - (31 - a.toNat.log2) = a.toNat.log2 := by omega
      simp [BitVec.getLsbD, htop, Nat.testBit_log2 hne]

theorem countTrailing_eq (a : Word) : countTrailing a = ((List.range 32).takeWhile fun i => a.getLsbD i = false).length := by
  unfold countTrailing
  cases h : (List.range 32).find? fun i => a.getLsbD i with
  | none =>
    rw [List.find?_range_eq_none] at h
    exact (length_takeWhile_range le_rfl (fun i hi => by simpa using h i hi) (absurd · (lt_irrefl 32))).symm
  | some k =>
    obtain ⟨hset, hmem, hbelow⟩ := List.find?_range_eq_some.1 h
    exact (length_takeWhile_range (List.mem_range.1 hmem).le (fun i hi => by simpa using hbelow i hi) fun _ => by simp [hset]).symm

theorem popcount_eq (a : Word) : popcount a = (List.range 32).countP fun i => a.getLsbD i := List.countP_eq_length_filter.symm

/-! ## Immediates (R58, R126, R131) -/

theorem addi_eq (a : Word) (i : BitVec 18) : a + sx18 i = wordOf (a.toInt + i.toInt) := by
  rw [wordOf, BitVec.ofInt_add, BitVec.ofInt_toInt]; rfl

theorem andi_eq (a : Word) (i : BitVec 18) : a &&& zx18 i = BitVec.ofNat 32 (a.toNat &&& i.toNat) := by
  rw [BitVec.ofNat_and, ofNat_toNat_word, BitVec.ofNat_toNat]; rfl

theorem ori_eq (a : Word) (i : BitVec 18) : a ||| zx18 i = BitVec.ofNat 32 (a.toNat ||| i.toNat) := by
  rw [BitVec.ofNat_or, ofNat_toNat_word, BitVec.ofNat_toNat]; rfl

theorem xori_eq (a : Word) (i : BitVec 18) : a ^^^ zx18 i = BitVec.ofNat 32 (a.toNat ^^^ i.toNat) := by
  rw [BitVec.ofNat_xor, ofNat_toNat_word, BitVec.ofNat_toNat]; rfl

theorem ceqi_eq (a : Word) (i : BitVec 18) : ofBoolWord (decide (a = sx18 i)) = if a.toInt = i.toInt then 1 else 0 := by
  rw [ofBoolWord_decide, ← BitVec.toInt_signExtend_of_le (show 18 ≤ 32 by norm_num), if_congr BitVec.toInt_inj rfl rfl]; rfl

/-! ## Bit fields (R134) -/

theorem bitField_eq (a : Word) (pos n : Nat) : bitField a pos n = BitVec.ofNat 32 (a.toNat / 2 ^ pos % 2 ^ n) := by
  rw [bitField, ones, shiftRight_eq_ofNat, ← BitVec.ofNat_and, Nat.and_two_pow_sub_one_eq_mod]

/-- Setting every bit above a field of n bits takes 2^n away. -/
theorem fillAbove_eq (g : Word) (n : Nat) : (g &&& ones n) ||| ~~~ones n = (g &&& ones n) - BitVec.ofNat 32 (2 ^ n) := by
  have hones : ones n + 1 = BitVec.ofNat 32 (2 ^ n) := by
    rw [ones, show (1 : Word) = BitVec.ofNat 32 1 from rfl, ← BitVec.ofNat_add, Nat.sub_add_cancel Nat.one_le_two_pow]
  have hdisj : (g &&& ones n) &&& ~~~ones n = 0#32 := by
    rw [BitVec.and_assoc, BitVec.and_not_self]; exact BitVec.and_zero
  rw [← BitVec.add_eq_or_of_and_eq_zero _ _ hdisj, ← hones, BitVec.not_eq_neg_add, sub_eq_add_neg _ (_ + _), neg_add']
  rfl

theorem signField_eq (a : Word) (pos : Nat) {n : Nat} (h : n < 32) :
    signField (bitField a pos (n + 1)) (n + 1) = wordOf (signedField (n + 1) (a.toNat / 2 ^ pos % 2 ^ (n + 1))) := by
  have hlt : a.toNat / 2 ^ pos % 2 ^ (n + 1) < 2 ^ (n + 1) := Nat.mod_lt _ (by positivity)
  have htop : (bitField a pos (n + 1)).getLsbD n = (a.toNat / 2 ^ pos % 2 ^ (n + 1)).testBit n := by
    rw [bitField_eq, BitVec.getLsbD_ofNat, decide_eq_true h, Bool.true_and]
  unfold signField signedField
  rw [Nat.add_sub_cancel, htop]
  by_cases hs : a.toNat / 2 ^ pos % 2 ^ (n + 1) < 2 ^ n
  · rw [Nat.testBit_lt_two_pow hs, if_neg Bool.false_ne_true, if_pos hs, bitField_eq, wordOf, BitVec.ofInt_natCast]
  · rw [Nat.testBit_of_two_pow_le_and_two_pow_add_one_gt (not_lt.1 hs) hlt, if_pos rfl, if_neg hs, wordOf, Int.sub_eq_add_neg,
      BitVec.ofInt_add, BitVec.ofInt_neg, BitVec.ofInt_natCast, ← bitField_eq, ← BitVec.sub_eq_add_neg]
    refine (fillAbove_eq _ _).trans (congrArg _ ?_)
    exact_mod_cast (BitVec.ofInt_natCast 32 (2 ^ (n + 1))).symm

end WordValues

/-! # The scalar forms (spec/05 R124 to R138) -/

section ValidSources
variable {s u : State} {cls : SlotClass} {g : Guard} {m n : Nat} {a : Src m} {b : Src n} {eff : State → State}

/-! ## The frames over valid sources (R55, R343) -/

theorem always_two_next (ha : s.me.ok a = true) (hb : s.me.ok b = true) :
    always s cls (s.me.ok a && s.me.ok b) eff = .next (eff s) := by
  rw [ha, hb, Bool.and_self, always_next]

theorem guarded_one_next (hg : s.guardOn g = true) (ha : s.me.ok a = true) (hu : eff (s.taintIf (anyPsn (s.guard g).psn)) = u) :
    guarded s cls g (s.me.ok a) eff = .next u := by
  rw [ha, guarded_next s _ _ _ hg, hu]

theorem guarded_two_next (hg : s.guardOn g = true) (ha : s.me.ok a = true) (hb : s.me.ok b = true)
    (hu : eff (s.taintIf (anyPsn (s.guard g).psn)) = u) : guarded s cls g (s.me.ok a && s.me.ok b) eff = .next u := by
  rw [ha, hb, Bool.and_self, guarded_next s _ _ _ hg, hu]

end ValidSources

section ScalarFrames
variable {s : State}

/-! ## The shared frames of the g forms (R124) -/

theorem sBin_next {o : SG3 6 6 6} {lat : Nat} {f : Word → Word → Word} (hg : s.guardOn o.g = true) (ha : s.me.ok o.a = true)
    (hb : s.me.ok o.b = true) :
    sBin s o lat f = .next ((s.taintIf (anyPsn (s.guard o.g).psn)).landG o.sl.cls lat o.d (some (sLatch o.sl))
      ⟨f (s.me.srcG o.a).val (s.me.srcG o.b).val, (s.me.srcG o.a).psn ||| (s.me.srcG o.b).psn⟩) :=
  guarded_two_next hg ha hb (by simp only [State.me_taintIf, Core.srcG_taint])

theorem sUn_next {o : SG2 6 6} {f : Word → Word} (hg : s.guardOn o.g = true) (ha : s.me.ok o.a = true) :
    sUn s o f = .next ((s.taintIf (anyPsn (s.guard o.g).psn)).landG o.sl.cls 1 o.d (some (sLatch o.sl))
      ⟨f (s.me.srcG o.a).val, (s.me.srcG o.a).psn⟩) :=
  guarded_one_next hg ha (by simp only [State.me_taintIf, Core.srcG_taint])

theorem sImm_next {sl : SSlot} {d : Dst 6} {a : Src 6} {f : Word → Word} (ha : s.me.ok a = true) :
    sImm s sl d a f = .next (s.landG sl.cls 1 d (some (sLatch sl)) ⟨f (s.me.srcG a).val, (s.me.srcG a).psn⟩) := by
  rw [sImm, ha, always_next]

end ScalarFrames

/-! ## What each form of a list computes -/

section ScalarForms

/-- A guarded form of two g sources has the latency and the value that its rule gives. -/
def MeansBinary (p : (SG3 6 6 6 → Instr) × Nat × (Word → Word → Word)) : Prop := ∀ o s, exec (p.1 o) s = sBin s o p.2.1 p.2.2

/-- A guarded form of one g source has the value that its rule gives. -/
def MeansUnary (p : (SG2 6 6 → Instr) × (Word → Word)) : Prop := ∀ o s, exec (p.1 o) s = sUn s o p.2

theorem MeansBinary.of_value {i : SG3 6 6 6 → Instr} {n : Nat} {f g : Word → Word → Word} (hv : ∀ a b, f a b = g a b)
    (hi : ∀ o s, exec (i o) s = sBin s o n f) : MeansBinary (i, n, g) :=
  fun o s => (hi o s).trans (congrArg (sBin s o n) (funext₂ hv))

theorem MeansUnary.of_value {i : SG2 6 6 → Instr} {f g : Word → Word} (hv : ∀ a, f a = g a)
    (hi : ∀ o s, exec (i o) s = sUn s o f) : MeansUnary (i, g) :=
  fun o s => (hi o s).trans (congrArg (sUn s o) (funext hv))

theorem meansBinary_arithmetic : ∀ p ∈ scalarArithmetic, MeansBinary p := by
  simp only [scalarArithmetic, List.forall_mem_cons]
  exact ⟨.of_value add_eq_wordOf fun _ _ => rfl, .of_value sub_eq_wordOf fun _ _ => rfl, .of_value and_eq_ofNat fun _ _ => rfl,
    .of_value or_eq_ofNat fun _ _ => rfl, .of_value xor_eq_ofNat fun _ _ => rfl, .of_value andNot_eq_ofNat fun _ _ => rfl,
    .of_value mul_eq_wordOf fun _ _ => rfl, .of_value (fun a b => highWord_ofInt (a.toInt * b.toInt)) fun _ _ => rfl,
    .of_value (fun a b => highWord_ofNat (a.toNat * b.toNat)) fun _ _ => rfl, .of_value quotient_eq fun _ _ => rfl,
    .of_value quotientNat_eq fun _ _ => rfl, .of_value remainder_eq fun _ _ => rfl, .of_value remainderNat_eq fun _ _ => rfl,
    List.forall_mem_nil _⟩

theorem meansBinary_shiftCompare : ∀ p ∈ scalarShiftCompare, MeansBinary p := by
  simp only [scalarShiftCompare, List.forall_mem_cons]
  exact ⟨.of_value shl_eq fun _ _ => rfl, .of_value shr_eq fun _ _ => rfl, .of_value sra_eq fun _ _ => rfl, .of_value rol_eq fun _ _ => rfl,
    .of_value min_eq fun _ _ => rfl, .of_value max_eq fun _ _ => rfl, .of_value minNat_eq fun _ _ => rfl, .of_value maxNat_eq fun _ _ => rfl,
    .of_value ceq_eq fun _ _ => rfl, .of_value cne_eq fun _ _ => rfl,
    .of_value (fun a b => ofBoolWord_decide (a.toInt < b.toInt)) fun _ _ => rfl,
    .of_value (fun a b => ofBoolWord_decide (a.toNat < b.toNat)) fun _ _ => rfl,
    .of_value (fun _ _ => ofBoolWord_decide_of_iff_not not_lt.symm) fun _ _ => rfl,
    .of_value (fun _ _ => ofBoolWord_decide_of_iff_not not_lt.symm) fun _ _ => rfl, List.forall_mem_nil _⟩

theorem meansBinary_scalarBinary : ∀ p ∈ scalarBinary, MeansBinary p := fun p hp =>
  (List.mem_append.1 hp).elim (meansBinary_arithmetic p) (meansBinary_shiftCompare p)

theorem meansUnary_scalarUnary : ∀ p ∈ scalarUnary, MeansUnary p := by
  simp only [scalarUnary, List.forall_mem_cons]
  exact ⟨.of_value (fun a => congrArg _ (countLeading_eq a)) fun _ _ => rfl,
    .of_value (fun a => congrArg _ (countTrailing_eq a)) fun _ _ => rfl, .of_value (fun a => congrArg _ (popcount_eq a)) fun _ _ => rfl,
    List.forall_mem_nil _⟩

theorem sImm_congr {s : State} {sl : SSlot} {d : Dst 6} {x : Src 6} {f g : Word → Word} (h : ∀ a, f a = g a) :
    sImm s sl d x f = sImm s sl d x g := congrArg (sImm s sl d x) (funext h)

theorem exec_scalarImmediate : ∀ p ∈ scalarImmediate, ∀ (o : SI 6) (s : State),
    exec (p.1 o) s = sImm s o.sl o.d o.a fun a => p.2 a o.imm := by
  simp only [scalarImmediate, List.forall_mem_cons]
  exact ⟨fun o _ => sImm_congr fun a => addi_eq a o.imm, fun o _ => sImm_congr fun a => andi_eq a o.imm,
    fun o _ => sImm_congr fun a => ori_eq a o.imm, fun o _ => sImm_congr fun a => xori_eq a o.imm,
    fun o _ => sImm_congr fun a => ceqi_eq a o.imm, fun o _ => sImm_congr fun a => ofBoolWord_decide (a.toInt < o.imm.toInt),
    List.forall_mem_nil _⟩

theorem exec_scalarShiftImmediate : ∀ p ∈ scalarShiftImmediate, ∀ (o : SSh) (s : State),
    exec (p.1 o) s = sImm s o.sl o.d o.a fun a => p.2 a o.n.toNat := by
  simp only [scalarShiftImmediate, List.forall_mem_cons]
  exact ⟨fun o _ => sImm_congr fun a => shiftLeft_eq_ofNat a o.n.toNat, fun o _ => sImm_congr fun a => shiftRight_eq_ofNat a o.n.toNat,
    fun o _ => sImm_congr fun a => sshiftRight_eq_wordOf a o.n.toNat, List.forall_mem_nil _⟩

theorem exec_scalarBitField : ∀ p ∈ scalarBitField, ∀ (o : SBf) (s : State),
    exec (p.1 o) s = sImm s o.sl o.d o.a fun a => p.2 a o.pos.toNat (o.wid.toNat + 1) := by
  simp only [scalarBitField, List.forall_mem_cons]
  exact ⟨fun o _ => sImm_congr fun a => bitField_eq a o.pos.toNat (o.wid.toNat + 1),
    fun o _ => sImm_congr fun a => signField_eq a o.pos.toNat o.wid.isLt, List.forall_mem_nil _⟩

end ScalarForms

/-- Settles O18: each form of the five lists is its frame of the value that its rule gives, and over valid sources the frame lands
that value. -/
theorem scalarResults : Obligations.ScalarResults := by
  refine ⟨fun p hp o s hg ha hb => ?_, fun p hp o s hg ha => ?_, fun p hp o s ha => ?_, fun p hp o s ha => ?_, fun p hp o s ha => ?_⟩
  · rw [meansBinary_scalarBinary p hp, sBin_next hg ha hb]
  · rw [meansUnary_scalarUnary p hp, sUn_next hg ha]
  · rw [exec_scalarImmediate p hp, sImm_next ha]
  · rw [exec_scalarShiftImmediate p hp, sImm_next ha]
  · rw [exec_scalarBitField p hp, sImm_next ha]

end Sys2Proof.Machine

namespace Sys2Proof.Machine

/-! # Moves, selection, address arithmetic and transfers (spec/05 R125, R132, R134, R135, R138) -/

section MoveValues

/-! ## Moves and bit-field insert (R125, R134) -/

theorem movhi_eq (imm : BitVec 18) (v : Word) :
    imm ++ v.extractLsb' 0 14 = BitVec.ofNat 32 (imm.toNat * 2 ^ 14 + v.toNat % 2 ^ 14) := by
  apply BitVec.eq_of_toNat_eq
  rw [BitVec.toNat_append, BitVec.extractLsb'_toNat, Nat.shiftRight_zero, ← Nat.shiftLeft_add_eq_or_of_lt (Nat.mod_lt _ (by norm_num)),
    Nat.shiftLeft_eq, BitVec.toNat_ofNat]
  omega

theorem getLsbD_ones {w i : Nat} (hi : i < 32) : (ones w).getLsbD i = decide (i < w) := by
  rw [ones, BitVec.getLsbD_ofNat, Nat.testBit_two_pow_sub_one, decide_eq_true hi, Bool.true_and]

/-- The field of n bits from bit `pos` on, as a mask. -/
theorem getLsbD_fieldMask {pos n i : Nat} (hi : i < 32) : (ones n <<< pos).getLsbD i = decide (pos ≤ i ∧ i < pos + n) := by
  rw [BitVec.getLsbD_shiftLeft, getLsbD_ones (by omega), decide_eq_true hi, Bool.true_and, ← decide_not, ← Bool.decide_and]
  exact decide_eq_decide.2 (by omega)

/-- The word v with the low n bits of a in the field from bit `pos` on, as `bfi` forms it. -/
def insertField (v a : Word) (pos n : Nat) : Word := (v &&& ~~~(ones n <<< pos)) ||| ((a <<< pos) &&& (ones n <<< pos))

theorem getLsbD_insertField (v a : Word) (pos n : Nat) {i : Nat} (hi : i < 32) :
    (insertField v a pos n).getLsbD i = if pos ≤ i ∧ i < pos + n then a.getLsbD (i - pos) else v.getLsbD i := by
  rw [insertField, BitVec.getLsbD_or, BitVec.getLsbD_and, BitVec.getLsbD_and, BitVec.getLsbD_not, getLsbD_fieldMask hi, BitVec.getLsbD_shiftLeft,
    decide_eq_true hi]
  split_ifs with h
  · simp [h]
  · simp [h]

/-! ## Address arithmetic (R135) -/

/-- A number added to an address moves its low 56 bits, modulo 2^56, and leaves the top byte. -/
theorem addrAdd_ofInt (a : Quad) (z : Int) : addrAdd a (BitVec.ofInt 64 z) =
    BitVec.ofInt 64 ((a.toNat / 2 ^ 56 * 2 ^ 56 : Nat) + (a.toNat + z) % 2 ^ 56) := by
  apply BitVec.eq_of_toNat_eq
  have ha := a.isLt
  have hsum : (a + BitVec.ofInt 64 z).toNat % 2 ^ 56 = ((a.toNat + z) % 2 ^ 56).toNat := by
    rw [BitVec.toNat_add, BitVec.toNat_ofInt]
    omega
  rw [addrAdd, BitVec.toNat_append, BitVec.extractLsb'_toNat, BitVec.extractLsb'_toNat, Nat.shiftRight_zero, hsum,
    ← Nat.shiftLeft_add_eq_or_of_lt (by omega), Nat.shiftLeft_eq, Nat.shiftRight_eq_div_pow, BitVec.toNat_ofInt]
  omega

theorem addrAdd_signExtend {n : Nat} (a : Quad) (x : BitVec n) : addrAdd a (x.signExtend 64) =
    BitVec.ofInt 64 ((a.toNat / 2 ^ 56 * 2 ^ 56 : Nat) + (a.toNat + x.toInt) % 2 ^ 56) := addrAdd_ofInt a x.toInt

theorem asub_eq (a b : Quad) :
    ((a - b).extractLsb' 0 56).signExtend 64 = BitVec.ofInt 64 (Int.bmod (a.toNat - b.toNat) (2 ^ 56)) := by
  have hmod : ((((a - b).extractLsb' 0 56).toNat : Nat) : Int) % (2 ^ 56 : Nat) = ((a.toNat : Int) - b.toNat) % (2 ^ 56 : Nat) := by
    rw [BitVec.extractLsb'_toNat, Nat.shiftRight_zero, BitVec.toNat_sub]
    omega
  rw [BitVec.signExtend, BitVec.toInt_eq_toNat_bmod, ← Int.emod_bmod, hmod, Int.emod_bmod]

/-! ## Transfers between the files (R135, R138) -/

theorem amk_eq (a b : Word) : (a ++ b : Quad) = BitVec.ofNat 64 (a.toNat * 2 ^ 32 + b.toNat) := by
  apply BitVec.eq_of_toNat_eq
  rw [BitVec.toNat_append, ← Nat.shiftLeft_add_eq_or_of_lt b.isLt, Nat.shiftLeft_eq, BitVec.toNat_ofNat]
  omega

theorem ahi_eq (a : Quad) : a.extractLsb' 32 32 = BitVec.ofNat 32 (a.toNat / 2 ^ 32) := by
  rw [BitVec.extractLsb', Nat.shiftRight_eq_div_pow]

theorem alo_eq (a : Quad) : a.extractLsb' 0 32 = BitVec.ofNat 32 (a.toNat % 2 ^ 32) := by
  rw [BitVec.extractLsb', Nat.shiftRight_zero]
  exact BitVec.eq_of_toNat_eq (by simp)

end MoveValues

section Forms
variable {s : State}

theorem exec_sel {o : SG3 6 6 6} (ha : s.me.ok o.a = true) (hb : s.me.ok o.b = true) :
    exec (.sel o) s = .next ((s.taintIf (anyPsn (s.guard o.g).psn)).landG o.sl.cls 1 o.d (some (sLatch o.sl))
      ⟨if s.guardOn o.g then (s.me.srcG o.a).val else (s.me.srcG o.b).val, (s.me.srcG o.a).psn ||| (s.me.srcG o.b).psn⟩) := by
  show execSel o s = _
  rw [execSel, always_two_next ha hb]
  simp only [State.me_taintIf, Core.srcG_taint]
  rfl

theorem exec_bfi {sl : SSlot} {w : Bool} {d : BitVec 6} {a : Src 6} {pos wid : BitVec 5} (ha : s.me.ok a = true) :
    exec (.bfi sl w d a pos wid) s = .next (s.landG sl.cls 1 (if w then .none else .reg d) (some (sLatch sl))
      ⟨insertField (s.me.readG d).val (s.me.srcG a).val pos.toNat (wid.toNat + 1), (s.me.readG d).psn ||| (s.me.srcG a).psn⟩) := by
  show execBfi sl w d a pos wid s = _
  rw [execBfi, ha, always_next]
  rfl

end Forms

/-- Settles O19: each form is its frame over valid sources, which the guard's taint leaves as they were, around the value of its
rule. -/
theorem movesAndAddresses : Obligations.MovesAndAddresses := by
  refine ⟨⟨fun sl d imm s => rfl, fun sl w d imm s => ?movhi, fun o s => exec_sel, fun sl w d a pos wid s ha _ =>
    ⟨_, exec_bfi ha, fun i hi => ?bfi⟩⟩, fun o s hg ha hb => ?aadd, fun o s ha => ?aaddi, fun o s hg ha hb => ?asub,
    fun o s hg ha hb => ?amk, fun o s hg ha => ⟨?ahi, ?alo⟩, fun o s hg ha => ?kset, fun o s hg ha => ?kget⟩
  case movhi => rw [← movhi_eq]; rfl
  case bfi =>
    rw [getLsbD_insertField _ _ _ _ hi]
    exact if_congr (by omega) rfl rfl
  case aadd =>
    show execAadd o s = _
    exact guarded_two_next hg ha hb (by simp only [State.me_taintIf, Core.srcA_taint, Core.srcG_taint, addrAdd_signExtend])
  case aaddi =>
    show execAaddi o s = _
    rw [execAaddi, ha, always_next, addrAdd_signExtend]
  case asub =>
    show execAsub o s = _
    exact guarded_two_next hg ha hb (by simp only [State.me_taintIf, Core.srcA_taint, asub_eq])
  case amk =>
    show execAmk o s = _
    exact guarded_two_next hg ha hb (by simp only [State.me_taintIf, Core.srcG_taint, amk_eq])
  case ahi =>
    show execAhi o s = _
    exact guarded_one_next hg ha (by simp only [State.me_taintIf, Core.srcA_taint, ahi_eq])
  case alo =>
    show execAlo o s = _
    exact guarded_one_next hg ha (by simp only [State.me_taintIf, Core.srcA_taint, alo_eq])
  case kset =>
    show execKset o s = _
    exact guarded_one_next hg ha (by simp only [State.me_taintIf, Core.srcG_taint, BitVec.ofNat_toNat])
  case kget =>
    show execKget o s = _
    exact guarded_one_next hg ha (by simp only [State.me_taintIf, Core.srcK_taint, BitVec.ofNat_toNat])

end Sys2Proof.Machine

namespace Sys2Proof.Machine

/-! # The random-bit generator (spec/06 R154 to R156, R167, R168) -/

section Random
variable {s : State}

/-- Word n of key K is the high half of their mix (R154). -/
theorem rngWord_eq_ofNat (k n : BitVec 64) : rngWord k n = BitVec.ofNat 32 ((mix k n).toNat / 2 ^ 32) := ahi_eq (mix k n)

/-- A taint leaves the generator alone. -/
theorem headWord_taintIf (s : State) (p : Bool) : headWord (s.taintIf p) = headWord s := by
  rw [headWord, State.me_taintIf]; rfl

/-- Two syllables of layout G meet field by field. -/
theorem mkG_and_mkG (op op' : BitVec 8) (w w' : Bool) (d d' : BitVec 6) (sa sa' sb sb' : BitVec 7) (g g' : BitVec 4) (fn fn' : BitVec 7) :
    mkG op w d sa sb g fn &&& mkG op' w' d' sa' sb' g' fn' =
      mkG (op &&& op') (w && w') (d &&& d') (sa &&& sa') (sb &&& sb') (g &&& g') (fn &&& fn') := by
  iterate 5 refine BitVec.and_append.trans (congrArg₂ (· ++ ·) ?_ rfl)
  exact BitVec.and_append.trans (congrArg (_ ++ ·) BitVec.ofBool_and_ofBool)

/-- The mask of the fields OP, SA, SB and FN of layout G: with D, W and G free, `rng.pop` has OP 0x09 and zero in the others. -/
theorem rngPop_reserved (w : Bool) (d : BitVec 6) (g : Guard) : mkG 0x09 w d 0 0 g 0 &&& 0xFF_01FF_F87F = 0x09_0000_0000 := by
  rw [show (0xFF_01FF_F87F : BitVec 40) = mkG 0xFF false 0 0x7F 0x7F 0 0x7F from by decide, mkG_and_mkG, Bool.and_false,
    show d &&& 0 = 0 from BitVec.and_zero, show g &&& 0 = 0 from BitVec.and_zero]
  decide

end Random

end Sys2Proof.Machine

namespace Sys2Proof

open Machine in
/-- Settles O30: `rng.seed` and `rng.pop` are guarded frames around a landing, whose values no taint of the guard changes; a seed's
landing is a change of its strand's core; and what decodes to `rng.pop` is its own encoding (`unassignedEncodings`). -/
theorem randomBits : Obligations.RandomBits := by
  refine ⟨fun a b g s hg ha hb => ?seed, fun st key s => ⟨_, rfl, ?landed, fun i hi => ?others⟩,
    fun d g s => ⟨fun hg => ?pop, fun hg => ?disabled⟩, fun d g cls w h => ?encoding⟩
  case seed =>
    show execRngSeed a b g s = _
    exact guarded_two_next hg ha hb (by simp only [State.me_taintIf, Core.srcG_taint, amk_eq])
  case landed => exact State.coreOf_modCore s st _
  case others => exact State.coreOf_modCore_ne s st i _ hi
  case pop =>
    show execRngPop d g s = _
    rw [execRngPop, guarded_next s .x g _ hg, headWord_taintIf, headWord, rngWord_eq_ofNat, takeWord, State.taintIf_focus]
  case disabled =>
    show execRngPop d g s = _
    exact guarded_disabled s .x g true _ hg
  case encoding =>
    have he : (Instr.rngPop d g).encode = some (cls, w) := h.elim id fun h => (unassignedEncodings.2.2 cls w _ h).2
    cases he
    exact ⟨rfl, (mkG_fields ..).1, rngPop_reserved d.w d.bits g⟩

end Sys2Proof

namespace Sys2Proof.Machine

/-! # Elements of a vector (spec/06 R139) -/

section Elements
variable {n k p w i j : Nat}

theorem elem_lt (w : Nat) (v : BitVec n) (j : Nat) : elem w v j < 2 ^ w := Nat.mod_lt _ (Nat.two_pow_pos w)

/-- An element whose place lies below n / w fits in n bits. -/
theorem elem_fits (h : j < n / w) : w * (j + 1) ≤ n := (Nat.mul_le_mul_left w h).trans (Nat.mul_div_le n w)

theorem ofElems_cons (w x : Nat) (l : List Nat) : ofElems w (x :: l) = x % 2 ^ w + 2 ^ w * ofElems w l := by
  rw [Nat.mul_comm]; rfl

/-- Element j of a packed list is the list's element j, zero past its end. -/
theorem ofElems_shiftRight (w : Nat) (l : List Nat) (j : Nat) : (ofElems w l >>> (w * j)) % 2 ^ w = l.getD j 0 % 2 ^ w := by
  induction l generalizing j with
  | nil => simp [ofElems]
  | cons x l ih =>
    rw [ofElems_cons]
    cases j with
    | zero => simp
    | succ j =>
      rw [Nat.mul_succ, Nat.add_comm (w * j), Nat.shiftRight_add, Nat.shiftRight_eq_div_pow _ w,
        Nat.add_mul_div_left _ _ (Nat.two_pow_pos w), Nat.div_eq_of_lt (Nat.mod_lt _ (Nat.two_pow_pos w)), Nat.zero_add, ih,
        List.getD_cons_succ]

theorem elem_ofNat (m : Nat) (h : w * (j + 1) ≤ n) : elem w (BitVec.ofNat n m) j = (m >>> (w * j)) % 2 ^ w := by
  rw [Nat.mul_succ] at h
  have hsplit : 2 ^ n = 2 ^ (w * j) * 2 ^ (n - w * j) := by rw [← pow_add]; congr 1; omega
  have hdvd : 2 ^ w ∣ 2 ^ (n - w * j) := pow_dvd_pow 2 (by omega)
  rw [elem, BitVec.toNat_ofNat, Nat.shiftRight_eq_div_pow, hsplit, Nat.mod_mul_right_div_self, Nat.mod_mod_of_dvd _ hdvd,
    Nat.shiftRight_eq_div_pow]

theorem elem_ofElems (l : List Nat) (h : w * (j + 1) ≤ n) : elem w (BitVec.ofNat n (ofElems w l)) j = l.getD j 0 % 2 ^ w := by
  rw [elem_ofNat _ h, ofElems_shiftRight]

theorem elem_vecOf (l : List Nat) (h : j < 512 / w) : elem w (vecOf w l) j = l.getD j 0 % 2 ^ w := elem_ofElems l (elem_fits h)

/-- The elements of a part of a vector that starts at element i. -/
theorem elem_extract (v : BitVec k) (hp : p = w * i) (h : w * (j + 1) ≤ n) :
    elem w (v.extractLsb' p n) j = elem w v (i + j) := by
  subst hp
  rw [elem_eq_extract, elem_eq_extract]
  congr 1
  refine BitVec.eq_of_getLsbD_eq fun b hb => ?_
  have hlt : w * j + b < n := by rw [Nat.mul_succ] at h; omega
  simp [hb, hlt, Nat.mul_add, Nat.add_assoc]

theorem elem_append_low (hi : BitVec k) (lo : BitVec n) (h : w * (j + 1) ≤ n) : elem w (hi ++ lo) j = elem w lo j := by
  rw [elem_eq_extract, elem_eq_extract, BitVec.extractLsb'_append_eq_of_add_le (by rwa [← Nat.mul_succ])]

theorem elem_append_high (hi : BitVec k) (lo : BitVec n) (h : n = w * i) (hj : i ≤ j) : elem w (hi ++ lo) j = elem w hi (j - i) := by
  subst h
  rw [elem_eq_extract, elem_eq_extract, BitVec.extractLsb'_append_eq_of_le (Nat.mul_le_mul_left w hj), Nat.mul_sub]

/-- A list made element by element from the elements of a vector and their places. -/
theorem getD_map_zipIdx_elems (f : Nat × Nat → Nat) (w n : Nat) (v : BitVec k) (j : Nat) :
    ((elems w n v).zipIdx.map f).getD j 0 = if j < n then f (elem w v j, j) else 0 := by
  rw [List.getD_eq_getElem?_getD, List.getElem?_map, List.getElem?_zipIdx, elems, List.getElem?_map]
  split_ifs with h
  · simp [h]
  · simp [h]

theorem fmt_width_cases (f : Fmt) : f.width = 8 ∨ f.width = 16 ∨ f.width = 32 := by
  rcases f with (_ | _ | _) | ⟨_, _ | _ | _⟩ | _ <;> simp [Fmt.width, Size.bytes]

/-- Elements of any format fill a register, and a pair of registers, without a rest. -/
theorem width_mul_div (f : Fmt) : 512 = f.width * (512 / f.width) ∧ 1024 / f.width = 512 / f.width + 512 / f.width := by
  rcases fmt_width_cases f with h | h | h <;> rw [h] <;> decide

end Elements

/-! # The conversion forms (spec/06 R156, R161 to R164) -/

section Conversion
variable {s : State} {k j : Nat}

theorem getD_convertElems (tf ff : Fmt) (rnd : Rnd) (sat : Bool) (w : BitVec 32) (n : Nat) (v : BitVec k) (j : Nat) :
    (convertElems tf ff rnd sat w n v).getD j 0 = if j < n then convert ff tf rnd sat (elem ff.width v j) (randomBits rnd w j) else 0 :=
  getD_map_zipIdx_elems _ _ _ _ _

/-- The elements of a pair: those of the lower register, then those of the higher one (R139). -/
theorem elem_pairOf (s : State) (i : BitVec 6) (f : Fmt) (j : Nat) : elem f.width (pairOf s (.reg i)).val j =
    if j < 512 / f.width then elem f.width (s.me.readV i).val j else elem f.width (s.me.readV (i + 1)).val (j - 512 / f.width) := by
  split_ifs with h
  · exact elem_append_low _ _ (elem_fits h)
  · exact elem_append_high _ _ (width_mul_div f).1 (not_lt.1 h)

theorem append_zero_add_one (i : BitVec 5) : (i ++ 0#1 : BitVec 6) + 1 = i ++ 1#1 := by
  revert i; decide

theorem exec_cvt {o : XF 6 6 Fmt Fmt} (ha : s.me.ok o.a = true) : exec (.cvt o) s = .next (landCv (takeIf o.rnd s) 2 o.d
    ⟨vecOf o.tf.width (convertElems o.tf o.ff o.rnd o.sat (headWord s) (512 / max o.ff.width o.tf.width) (s.me.srcV o.a).val),
      (mapMarks o.ff.width o.tf.width (512 / max o.ff.width o.tf.width) (s.me.srcV o.a).psn).setWidth 8⟩) := by
  show execCvt o s = _
  rw [execCvt, ha, always_next]

theorem exec_vpk {o : XF 6 5 Fmt Fmt} {i : BitVec 5} (ha : o.a = .reg i) : exec (.vpk o) s = .next (landCv (takeIf o.rnd s) 2 o.d
    ⟨vecOf o.tf.width (convertElems o.tf o.ff o.rnd o.sat (headWord s) (1024 / o.ff.width) (pairOf s (.reg (i ++ 0#1))).val),
      (mapMarks o.ff.width o.tf.width (1024 / o.ff.width) (pairOf s (.reg (i ++ 0#1))).psn).setWidth 8⟩) := by
  show execVpk o s = _
  rw [execVpk, always_next, ha]

theorem exec_vupk {d : Dst 5} {a : Src 6} {tf ff : Fmt} (ha : s.me.ok a = true) : exec (.vupk d a tf ff) s = .next (landCvPair s 2 d
    ⟨BitVec.ofNat 1024 (ofElems tf.width (convertElems tf ff .rne false 0 (1024 / tf.width) (s.me.srcV a).val)),
      mapMarks ff.width tf.width (1024 / tf.width) (s.me.srcV a).psn⟩) := by
  show execVupk d a tf ff s = _
  rw [execVupk, ha, always_next]

/-- The elements that a conversion into one register leaves there. -/
theorem elem_converted {tf ff : Fmt} {rnd : Rnd} {sat : Bool} {w : BitVec 32} {n : Nat} {v : BitVec k} (hj : j < 512 / tf.width) :
    elem tf.width (vecOf tf.width (convertElems tf ff rnd sat w n v)) j =
      if j < n then convert ff tf rnd sat (elem ff.width v j) (randomBits rnd w j) % 2 ^ tf.width else 0 := by
  rw [elem_vecOf _ hj, getD_convertElems, apply_ite (· % 2 ^ tf.width), Nat.zero_mod]

/-- The elements that a conversion into a pair leaves in its 1,024 bits, under round to nearest even. -/
theorem elem_widened {tf ff : Fmt} {v : BitVec k} (hj : j < 1024 / tf.width) :
    elem tf.width (BitVec.ofNat 1024 (ofElems tf.width (convertElems tf ff .rne false 0 (1024 / tf.width) v))) j =
      convert ff tf .rne false (elem ff.width v j) 0 % 2 ^ tf.width := by
  rw [elem_ofElems _ (elem_fits hj), getD_convertElems, if_pos hj]; rfl

end Conversion

/-- Settles O26: each form lands the list of its converted elements, which is read back element by element. -/
theorem conversionResults : Obligations.ConversionResults := by
  refine ⟨fun o s ha => ⟨_, exec_cvt ha, fun j hj => elem_converted hj⟩, fun o i s ha hw => ⟨_, exec_vpk ha, fun j hj => ?_⟩,
    fun d a tf ff s ha hw => ⟨_, _, exec_vupk ha, fun j hj => ⟨?_, ?_⟩⟩⟩
  · rw [elem_converted hj]
    refine ite_congr rfl (fun h => ?_) fun _ => rfl
    rw [elem_pairOf, append_zero_add_one]; rfl
  · have hfit : j < 1024 / tf.width := by rw [(width_mul_div tf).2]; omega
    rw [elem_extract _ (Nat.mul_zero tf.width).symm (elem_fits hj), Nat.zero_add, elem_widened hfit]
  · have hfit : 512 / tf.width + j < 1024 / tf.width := by rw [(width_mul_div tf).2]; omega
    rw [elem_extract _ (width_mul_div tf).1 (elem_fits hj), elem_widened hfit]

end Sys2Proof.Machine

namespace Sys2Proof.Machine

/-! # Blocks (spec/06 R165, R166) -/

/-! ## The leading exponent of a magnitude -/

theorem log2_mul_two_pow {m : Nat} (h : m ≠ 0) (k : Nat) : (m * 2 ^ k).log2 = m.log2 + k := by
  refine (Nat.log2_eq_iff (Nat.mul_ne_zero h (Nat.two_pow_pos k).ne')).2 ⟨?_, ?_⟩
  · rw [pow_add]
    exact Nat.mul_le_mul_right _ (Nat.log2_self_le h)
  · rw [Nat.add_right_comm, pow_add]
    exact Nat.mul_lt_mul_of_pos_right Nat.lt_log2_self (Nat.two_pow_pos k)

/-- The exponent of a value's leading bit: below every number for a zero, above every number for an infinity. -/
def Num.lead : Num → WithTop (WithBot ℤ)
  | .fin _ m e => if m = 0 then ⊥ else ((e + (Nat.log2 m : ℤ) : WithBot ℤ) : WithTop (WithBot ℤ))
  | .inf _ => ⊤
  | .nan => ⊤

/-- A magnitude: neither a NaN nor negative. -/
def Num.IsMag (x : Num) : Prop := x.isNaN = false ∧ x.isNeg = false

section Lead
variable {x y : Num} {n : Bool} {m m' : Nat} {e e' top : Int}

theorem lead_fin (hm : m ≠ 0) : (Num.fin n m e).lead = ((e + (Nat.log2 m : ℤ) : ℤ) : WithBot ℤ) := if_neg hm

theorem lead_fin_le (h : m ≠ 0 → e + (Nat.log2 m : ℤ) ≤ top) :
    (Num.fin n m e).lead ≤ ((top : WithBot ℤ) : WithTop (WithBot ℤ)) := by
  rcases eq_or_ne m 0 with hm | hm
  · rw [Num.lead, if_pos hm]
    exact bot_le
  · rw [lead_fin hm, WithTop.coe_le_coe, WithBot.coe_le_coe]
    exact h hm

theorem lead_abs (x : Num) : x.abs.lead = x.lead := by cases x <;> rfl

theorem isMag_abs (h : x.isNaN = false) : x.abs.IsMag := by
  cases x with
  | nan => exact absurd h (by decide)
  | inf n => exact ⟨rfl, rfl⟩
  | fin n m e => exact ⟨rfl, rfl⟩

/-- Of two magnitudes at a common exponent the greater has the greater leading bit. -/
theorem lead_le_of_align_le {a b : Bool} {e0 : Int} (he : e0 ≤ e) (he' : e0 ≤ e')
    (h : alignTo e0 false m e ≤ alignTo e0 false m' e') : (Num.fin a m e).lead ≤ (Num.fin b m' e').lead := by
  have hle : m * 2 ^ (e - e0).toNat ≤ m' * 2 ^ (e' - e0).toNat := by
    rw [← Nat.shiftLeft_eq, ← Nat.shiftLeft_eq]
    exact Int.ofNat_le.1 h
  rcases eq_or_ne m 0 with hm | hm
  · rw [Num.lead, if_pos hm]
    exact bot_le
  · have hm' : m' ≠ 0 := by
      rintro rfl
      rw [Nat.zero_mul] at hle
      exact Nat.mul_ne_zero hm (Nat.two_pow_pos _).ne' (Nat.le_zero.1 hle)
    have hlog := Nat.log_mono_right (b := 2) hle
    rw [← Nat.log2_eq_log_two, ← Nat.log2_eq_log_two, log2_mul_two_pow hm, log2_mul_two_pow hm'] at hlog
    rw [lead_fin hm, lead_fin hm', WithTop.coe_le_coe, WithBot.coe_le_coe]
    omega

theorem greater_isMag (hx : x.IsMag) (hy : y.IsMag) : (x.greater y).IsMag := by
  unfold Num.greater
  split
  · exact hy
  · exact hx

theorem lead_greater (hx : x.IsMag) (hy : y.IsMag) : (x.greater y).lead = max x.lead y.lead := by
  obtain ⟨hxn, hxs⟩ := hx
  obtain ⟨hyn, hys⟩ := hy
  match x, y with
  | .nan, _ => exact absurd hxn (by decide)
  | _, .nan => exact absurd hyn (by decide)
  | .inf false, .inf false => rfl
  | .inf false, .fin false m e => exact (max_eq_left le_top).symm
  | .fin false m e, .inf false => exact (max_eq_right le_top).symm
  | .fin false m e, .fin false m' e' =>
    have hl := min_le_left e e'
    have hr := min_le_right e e'
    simp only [Num.greater, Num.cmp]
    split
    · next h =>
      exact (max_eq_right (lead_le_of_align_le hl hr (compare_lt_iff_lt.1 (Option.some.inj h)).le)).symm
    · next h =>
      have hge : alignTo (min e e') false m' e' ≤ alignTo (min e e') false m e :=
        not_lt.1 fun hlt => h (congrArg some (compare_lt_iff_lt.2 hlt))
      exact (max_eq_left (lead_le_of_align_le hr hl hge)).symm

theorem greatest_isMag {l : List Num} (hx : x.IsMag) (hl : ∀ y ∈ l, y.IsMag) : (l.foldl Num.greater x).IsMag :=
  List.foldlRecOn l _ hx fun _ h y hy => greater_isMag h (hl y hy)

/-- The leading exponent of the greatest of a list. -/
theorem lead_greatest_le_iff {l : List Num} {t : WithTop (WithBot ℤ)} (hx : x.IsMag) (hl : ∀ y ∈ l, y.IsMag) :
    (l.foldl Num.greater x).lead ≤ t ↔ x.lead ≤ t ∧ ∀ y ∈ l, y.lead ≤ t := by
  induction l generalizing x with
  | nil => simp
  | cons y l ih =>
    rw [List.forall_mem_cons] at hl
    rw [List.foldl_cons, ih (greater_isMag hx hl.1) hl.2, lead_greater hx hl.1, max_le_iff, List.forall_mem_cons, and_assoc]

end Lead

/-! ## The scale of a block -/

/-- The greatest magnitude of a block. -/
def blockMax (x : Nat → Num) : Num := (((List.range 32).map x).map Num.abs).foldl Num.greater (.fin false 0 0)

section Scale
variable {x : Nat → Num} {y : Num} {t : Fam} {top : Int}

theorem forall_blockAbs {p : Num → Prop} : (∀ y ∈ ((List.range 32).map x).map Num.abs, p y) ↔ ∀ i < 32, p (x i).abs := by
  simp

theorem blockMax_isMag (hx : ∀ i < 32, (x i).isNaN = false) : (blockMax x).IsMag :=
  greatest_isMag ⟨rfl, rfl⟩ (forall_blockAbs.2 fun i hi => isMag_abs (hx i hi))

theorem lead_blockMax_le_iff (hx : ∀ i < 32, (x i).isNaN = false) {b : WithTop (WithBot ℤ)} :
    (blockMax x).lead ≤ b ↔ ∀ i < 32, (x i).lead ≤ b := by
  rw [blockMax, lead_greatest_le_iff ⟨rfl, rfl⟩ (forall_blockAbs.2 fun i hi => isMag_abs (hx i hi)), forall_blockAbs]
  simp only [lead_abs]
  exact and_iff_right bot_le

theorem lead_le_blockMax (hx : ∀ i < 32, (x i).isNaN = false) {i : Nat} (hi : i < 32) : (x i).lead ≤ (blockMax x).lead :=
  (lead_blockMax_le_iff hx).1 le_rfl i hi

theorem clampInt_eq (lo hi v : Int) (h : lo ≤ hi) : clampInt lo hi v = max lo (min hi v) := by
  unfold clampInt
  split_ifs <;> omega

theorem blockScale_of_lead_bot (h : y.lead = ⊥) : blockScale t y = 0 := by
  match y with
  | .nan | .inf _ => exact absurd h top_ne_bot
  | .fin n m e =>
    rcases eq_or_ne m 0 with hm | hm
    · exact if_pos hm
    · rw [lead_fin hm] at h
      exact absurd (WithTop.coe_injective h) (WithBot.coe_ne_bot)

theorem blockScale_of_lead_coe (h : y.lead = ((top : WithBot ℤ) : WithTop (WithBot ℤ))) :
    blockScale t y = (max 1 (min 254 (top - famEmax t + 128))).toNat := by
  match y with
  | .nan | .inf _ => exact absurd h.symm (WithTop.coe_ne_top)
  | .fin n m e =>
    rcases eq_or_ne m 0 with hm | hm
    · rw [Num.lead, if_pos hm] at h
      exact absurd (WithTop.coe_injective h).symm (WithBot.coe_ne_bot)
    · rw [lead_fin hm] at h
      obtain rfl := WithBot.coe_injective (WithTop.coe_injective h)
      rw [← clampInt_eq 1 254 _ (by decide)]
      exact if_neg hm

theorem blockScale_of_lead_top (hy : y.isNaN = false) (h : y.lead = ⊤) : blockScale t y = 254 := by
  match y with
  | .nan => exact absurd hy (by decide)
  | .inf _ => rfl
  | .fin n m e =>
    rcases eq_or_ne m 0 with hm | hm
    · rw [Num.lead, if_pos hm] at h
      exact absurd h (by decide)
    · rw [lead_fin hm] at h
      exact absurd h (WithTop.coe_ne_top)

end Scale

/-! ## A block quantised (R165) -/

section Quantise
variable {s : State} {t : Fam} {ff : Fmt} {rnd : Rnd} {sat : Bool} {w : BitVec 32} {code : Nat → Nat} {b : List Nat × Nat} {i j : Nat}

theorem any_isNaN {x : Nat → Num} : ((List.range 32).map x).any Num.isNaN = true ↔ ∃ i < 32, (x i).isNaN = true := by simp

/-- The 32 codes of a block: each exact value, scaled by `f`, with the random bits of its place. -/
def encodeBlock (t : Fam) (rnd : Rnd) (sat : Bool) (w : BitVec 32) (f : Num → Num) (x : Nat → Num) : List Nat :=
  ((List.range 32).map x).zipIdx.map fun p => encodeNum (.fam t) rnd sat (f p.1) (randomBits rnd w p.2)

theorem quantBlock_range {x : Nat → Num} (hx : ∀ i < 32, decodeNum ff (code i) = x i) :
    quantBlock t ff rnd sat w ((List.range 32).map code) =
      if ((List.range 32).map x).any Num.isNaN then (encodeBlock t rnd sat w id x, 0xFF)
      else if blockScale t (blockMax x) = 0 then (List.replicate 32 0, 0)
      else (encodeBlock t rnd sat w (Num.scale (128 - (blockScale t (blockMax x) : Int))) x, blockScale t (blockMax x)) := by
  have hmap : ((List.range 32).map code).map (decodeNum ff) = (List.range 32).map x := by
    rw [List.map_map]
    exact List.map_congr_left fun i hi => hx i (List.mem_range.1 hi)
  rw [quantBlock, hmap, List.map_const', List.length_map, List.length_range]
  rfl

/-! ## The row of a block -/

theorem elem_blockRow (hj : j < 64) : elem 8 (blockRow b) j = (b.1 ++ [b.2]).getD j 0 % 256 := elem_vecOf _ hj

theorem elem_blockRow_code (hb : b.1.length = 32) (hi : i < 32) : elem 8 (blockRow b) i = b.1.getD i 0 % 256 := by
  rw [elem_blockRow (by omega), List.getD_append _ _ _ _ (by omega)]

theorem elem_blockRow_scale (hb : b.1.length = 32) : elem 8 (blockRow b) 32 = b.2 % 256 := by
  rw [elem_blockRow (by decide), List.getD_append_right _ _ _ _ (by omega), hb]
  rfl

theorem elem_blockRow_rest (hb : b.1.length = 32) (hj : 33 ≤ j) (hj' : j < 64) : elem 8 (blockRow b) j = 0 := by
  rw [elem_blockRow hj', List.getD_eq_default _ _ (by simp; omega)]

theorem length_encodeBlock (t : Fam) (rnd : Rnd) (sat : Bool) (w : BitVec 32) (f : Num → Num) (x : Nat → Num) :
    (encodeBlock t rnd sat w f x).length = 32 := by
  simp [encodeBlock]

theorem elem_blockRow_encodeBlock {f : Num → Num} {x : Nat → Num} {c : Nat} (hi : i < 32) :
    elem 8 (blockRow (encodeBlock t rnd sat w f x, c)) i = encodeNum (.fam t) rnd sat (f (x i)) (randomBits rnd w i) % 256 := by
  rw [elem_blockRow_code (length_encodeBlock ..) hi]
  simp [encodeBlock, hi]

theorem elem_blockRow_zero (hj : j < 64) : elem 8 (blockRow (List.replicate 32 0, 0)) j = 0 := by
  rw [elem_blockRow hj, ← List.replicate_succ', List.getD_eq_getElem?_getD, List.getElem?_replicate]
  split_ifs <;> rfl

end Quantise

section Qblk
variable {s : State} {t : Fam} {ff : Fmt} {rnd : Rnd} {sat : Bool} {w : BitVec 32} {code : Nat → Nat} {x : Nat → Num} {c : Nat}

/-! ## The four kinds of blocks -/

theorem quantBlock_nan (hx : ∀ i < 32, decodeNum ff (code i) = x i) (h : ∃ i < 32, (x i).isNaN = true) :
    quantBlock t ff rnd sat w ((List.range 32).map code) = (encodeBlock t rnd sat w id x, 0xFF) := by
  rw [quantBlock_range hx, if_pos (any_isNaN.2 h)]

theorem not_any_isNaN (h : ∀ i < 32, (x i).isNaN = false) : ¬ ((List.range 32).map x).any Num.isNaN = true := fun hany => by
  obtain ⟨i, hi, hnan⟩ := any_isNaN.1 hany
  rw [h i hi] at hnan
  exact Bool.false_ne_true hnan

theorem quantBlock_zero (hx : ∀ i < 32, decodeNum ff (code i) = x i) (h : ∀ i < 32, (x i).isNaN = false)
    (hc : blockScale t (blockMax x) = 0) : quantBlock t ff rnd sat w ((List.range 32).map code) = (List.replicate 32 0, 0) := by
  rw [quantBlock_range hx, if_neg (not_any_isNaN h), if_pos hc]

theorem quantBlock_scaled (hx : ∀ i < 32, decodeNum ff (code i) = x i) (h : ∀ i < 32, (x i).isNaN = false)
    (hc : blockScale t (blockMax x) = c) (h0 : c ≠ 0) : quantBlock t ff rnd sat w ((List.range 32).map code) =
      (encodeBlock t rnd sat w (Num.scale (128 - (c : Int))) x, c) := by
  rw [quantBlock_range hx, if_neg (not_any_isNaN h), hc, if_neg h0]

theorem isZero_lead {y : Num} (h : y.isZero = true) : y.isNaN = false ∧ y.lead = ⊥ := by
  cases y with
  | nan => exact absurd h Bool.false_ne_true
  | inf n => exact absurd h Bool.false_ne_true
  | fin n m e => exact ⟨rfl, if_pos (eq_of_beq h)⟩

theorem isInf_lead {y : Num} (h : y.isInf = true) : y.lead = ⊤ := by
  cases y with
  | nan => exact absurd h Bool.false_ne_true
  | inf n => rfl
  | fin n m e => exact absurd h Bool.false_ne_true

/-! ## The source of `qblk` -/

/-- The 1,024 bits that `qblk` takes its elements from (R161). -/
def blockBits (s : State) (o : XF 6 6 Fam BTy) : Marked 1024 16 :=
  match o.ff with
  | .fp32 => pairOf s o.a
  | .bf16 => ⟨(s.me.srcV o.a).val.setWidth 1024, (s.me.srcV o.a).psn.setWidth 16⟩

theorem exec_qblk {o : XF 6 6 Fam BTy} (ha : s.me.ok o.a = true) : exec (.qblk o) s = .next (landCv (takeIf o.rnd s) 3 o.d
    ⟨blockRow (quantBlock o.tf (.flt o.ff.fty) o.rnd o.sat (headWord s)
      ((List.range 32).map (elem (Fmt.flt o.ff.fty).width (blockBits s o).val))), if anyPsn (blockBits s o).psn then 0x1F else 0⟩) := by
  show execQblk o s = _
  rw [execQblk, ha, always_next]
  rfl

theorem decodeNum_blockBits {o : XF 6 6 Fam BTy} (he : o.ff = .bf16 ∨ o.a.isEvenReg = true) {i : Nat} (hi : i < 32) :
    decodeNum (.flt o.ff.fty) (elem (Fmt.flt o.ff.fty).width (blockBits s o).val i) = blockSource s o i := by
  obtain ⟨d, a, tf, ff, rnd, sat⟩ := o
  cases ff with
  | bf16 =>
    refine congrArg (decodeNum (.flt .bf16)) ?_
    have hfit : 16 * i + 16 ≤ 1024 := by omega
    show elem 16 ((s.me.srcV a).val.setWidth 1024) i = _
    rw [elem_eq_extract, elem_eq_extract, BitVec.extractLsb'_setWidth_of_le hfit]
  | fp32 =>
    have hreg : a.isEvenReg = true := he.resolve_left (fun h => nomatch h)
    cases a with
    | reg n => exact congrArg (decodeNum (.flt .fp32)) (elem_pairOf s n (.flt .fp32) i)
    | latch l => exact absurd hreg Bool.false_ne_true

theorem length_quantBlock (t : Fam) (ff : Fmt) (rnd : Rnd) (sat : Bool) (w : BitVec 32) (code : Nat → Nat) :
    (quantBlock t ff rnd sat w ((List.range 32).map code)).1.length = 32 := by
  rw [quantBlock_range fun _ _ => rfl]
  split_ifs
  · exact length_encodeBlock ..
  · exact List.length_replicate
  · exact length_encodeBlock ..

end Qblk

/-! ## A block expanded (R166) -/

section Dqblk
variable {s : State} {o : XF 6 6 BTy Fam}

theorem expandElem_eq (t : FTy) (f : Fam) (rnd : Rnd) (sat : Bool) (k q rb : Nat) : expandElem t f rnd sat k q rb =
    if k = 0xFF ∨ (k = 0 ∧ ((decodeNum (.fam f) q).isNaN = true ∨ (decodeNum (.fam f) q).isInf = true)) then canonNaN (.flt t)
    else if k = 0 then 0
    else encodeNum (.flt t) rnd sat ((decodeNum (.fam f) q).scale ((k : Int) - 128)) rb := by
  rw [expandElem]
  by_cases hff : k = 0xFF
  · rw [if_pos hff, if_pos (.inl hff)]
  · by_cases h0 : k = 0
    · subst h0
      simp only [hff, false_or, true_and, if_true, if_false, Bool.or_eq_true]
    · simp only [hff, h0, false_or, false_and, if_false]

/-- Element i of the block that `dqblk` expands. -/
def expanded (s : State) (o : XF 6 6 BTy Fam) (i : Nat) : Nat :=
  expandElem o.tf.fty o.ff o.rnd o.sat (elem 8 (s.me.srcV o.a).val 32) (elem 8 (s.me.srcV o.a).val i) (randomBits o.rnd (headWord s) i)

/-- The elements of the block that `dqblk` expands, as it forms them. -/
def expandedList (s : State) (o : XF 6 6 BTy Fam) : List Nat :=
  (elems 8 32 (s.me.srcV o.a).val).zipIdx.map fun p =>
    expandElem o.tf.fty o.ff o.rnd o.sat (elem 8 (s.me.srcV o.a).val 32) p.1 (randomBits o.rnd (headWord s) p.2)

theorem getD_expandedList (s : State) (o : XF 6 6 BTy Fam) {i : Nat} (hi : i < 32) : (expandedList s o).getD i 0 = expanded s o i := by
  rw [expandedList, getD_map_zipIdx_elems, if_pos hi, expanded]

/-- The marks of the expanded elements: those of their sources, and all where the scale's is set (R343). -/
def expandedMarks (s : State) (o : XF 6 6 BTy Fam) : BitVec 16 :=
  if (s.me.srcV o.a).psn.getLsbD 4 then BitVec.allOnes 16 else mapMarks 8 (Fmt.width (.flt o.tf.fty)) 32 (s.me.srcV o.a).psn

theorem exec_dqblk_bf16 (ha : s.me.ok o.a = true) (ht : o.tf = .bf16) :
    exec (.dqblk o) s = .next (landCv (takeIf o.rnd s) 3 o.d ⟨vecOf 16 (expandedList s o), (expandedMarks s o).setWidth 8⟩) := by
  obtain ⟨d, a, tf, ff, rnd, sat⟩ := o
  subst ht
  show execDqblk _ s = _
  rw [execDqblk, ha, always_next]
  rfl

theorem exec_dqblk_fp32 (ha : s.me.ok o.a = true) (ht : o.tf = .fp32) {n : BitVec 5} (hd : o.d = .reg (n ++ 0#1)) :
    exec (.dqblk o) s = .next (landCvPair (takeIf o.rnd s) 3 (.reg n)
      ⟨BitVec.ofNat 1024 (ofElems 32 (expandedList s o)), expandedMarks s o⟩) := by
  obtain ⟨d, a, tf, ff, rnd, sat⟩ := o
  subst ht
  subst hd
  have hn : (n ++ 0#1 : BitVec 6).extractLsb' 1 5 = n := (BitVec.extractLsb'_append_eq_of_le le_rfl).trans BitVec.extractLsb'_eq_self
  show execDqblk _ s = _
  rw [execDqblk, ha, always_next]
  exact congrArg (fun x => Host.Outcome.next (landCvPair (takeIf rnd s) 3 (.reg x) _)) hn

theorem elem_pair_expandedList (s : State) (o : XF 6 6 BTy Fam) {i : Nat} (hi : i < 32) :
    elem 32 (BitVec.ofNat 1024 (ofElems 32 (expandedList s o))) i = expanded s o i % 2 ^ 32 := by
  rw [elem_ofElems _ (by omega), getD_expandedList s o hi]

end Dqblk

/-- Settles O27: `qblk` lands the row of the block that its source quantises to, by the leading exponent of its greatest magnitude
(`lead_blockMax_le_iff`); `dqblk` lands the list of its expanded elements. -/
theorem blockForms : Obligations.BlockForms := by
  refine ⟨fun o s ha he => ?qblk, fun o s ha => ⟨fun ht => ?bf16, fun ht n hd => ?fp32⟩⟩
  case qblk =>
    have hx : ∀ i < 32, decodeNum (.flt o.ff.fty) (elem (Fmt.flt o.ff.fty).width (blockBits s o).val i) = blockSource s o i :=
      fun i hi => decodeNum_blockBits he hi
    refine ⟨_, exec_qblk ha, fun j hj hj' => elem_blockRow_rest (length_quantBlock ..) hj hj', fun hnan => ?nan, fun hzero => ?zero,
      fun hnum hinf => ?inf, fun top hle htop => ?fin⟩
    case nan =>
      rw [quantBlock_nan hx hnan]
      exact ⟨elem_blockRow_scale (length_encodeBlock ..), fun i hi => elem_blockRow_encodeBlock hi⟩
    case zero =>
      have hnum : ∀ i < 32, (blockSource s o i).isNaN = false := fun i hi => (isZero_lead (hzero i hi)).1
      have hbot : (blockMax (blockSource s o)).lead = ⊥ :=
        le_bot_iff.1 ((lead_blockMax_le_iff hnum).2 fun i hi => (isZero_lead (hzero i hi)).2.le)
      rw [quantBlock_zero hx hnum (blockScale_of_lead_bot hbot)]
      exact fun i hi => elem_blockRow_zero (by omega)
    case inf =>
      obtain ⟨k, hk, hinf⟩ := hinf
      have htop : (blockMax (blockSource s o)).lead = ⊤ := top_le_iff.1 ((isInf_lead hinf).ge.trans (lead_le_blockMax hnum hk))
      rw [quantBlock_scaled hx hnum (blockScale_of_lead_top (blockMax_isMag hnum).1 htop) (by decide)]
      exact ⟨elem_blockRow_scale (length_encodeBlock ..), fun i hi => elem_blockRow_encodeBlock hi⟩
    case fin =>
      have hnum : ∀ i < 32, (blockSource s o i).isNaN = false := fun i hi => by
        obtain ⟨n, m, e, h, -⟩ := hle i hi
        rw [h]; rfl
      have hlead : (blockMax (blockSource s o)).lead = ((top : WithBot ℤ) : WithTop (WithBot ℤ)) := by
        refine le_antisymm ((lead_blockMax_le_iff hnum).2 fun i hi => ?_) ?_
        · obtain ⟨n, m, e, h, hm⟩ := hle i hi
          rw [h]
          exact lead_fin_le hm
        · obtain ⟨i, hi, n, m, e, h, hm, rfl⟩ := htop
          rw [← lead_fin (n := n) hm, ← h]
          exact lead_le_blockMax hnum hi
      have hc : blockScale o.tf (blockMax (blockSource s o)) = (max 1 (min 254 (top - famEmax o.tf + 128))).toNat :=
        blockScale_of_lead_coe hlead
      have hcast : (((max 1 (min 254 (top - famEmax o.tf + 128))).toNat : Nat) : Int) = max 1 (min 254 (top - famEmax o.tf + 128)) :=
        Int.toNat_of_nonneg (by omega)
      rw [quantBlock_scaled hx hnum hc (by omega)]
      refine ⟨?_, fun i hi => ?_⟩
      · rw [elem_blockRow_scale (length_encodeBlock ..)]
        show (((max 1 (min 254 (top - famEmax o.tf + 128))).toNat % 256 : Nat) : Int) = _
        omega
      · rw [elem_blockRow_encodeBlock hi, hcast]
        rfl
  case bf16 =>
    refine ⟨_, exec_dqblk_bf16 ha ht, fun i hi => ?_⟩
    rw [elem_vecOf _ (by omega), getD_expandedList s o hi, expanded, expandElem_eq]
    rfl
  case fp32 =>
    refine ⟨_, _, exec_dqblk_fp32 ha ht hd, fun i hi => ⟨?_, ?_⟩⟩
    · rw [elem_extract (i := 0) _ rfl (by omega), Nat.zero_add, elem_pair_expandedList s o (by omega), expanded, expandElem_eq]
      rfl
    · rw [elem_extract (i := 16) _ rfl (by omega), elem_pair_expandedList s o (by omega), expanded, expandElem_eq]
      rfl

end Sys2Proof.Machine

namespace Sys2Proof.Machine

/-! # Rounding to a floating format (spec/06 R142, R147, R149) -/

/-! ## Magnitude codes and their values -/

section Codes
variable (s : FloatSpec)

/-- The spacing of grid step k: that of the subnormals for k = 0, twice as wide for each step more. -/
def FloatSpec.gridExp (k : Nat) : Int := (k : Int) + 1 - s.bias - s.t

/-- The grid step of a magnitude code. -/
def FloatSpec.stepOf (c : Nat) : Nat := c / 2 ^ s.t - 1

/-- The significand of a magnitude code. -/
def FloatSpec.sigOf (c : Nat) : Nat := c - s.stepOf c * 2 ^ s.t

/-- Where a significand may stand at a grid step: only the subnormals' step has significands below 2^t. -/
def FloatSpec.OnStep (k r : Nat) : Prop := r ≤ 2 ^ (s.t + 1) ∧ (k = 0 ∨ 2 ^ s.t ≤ r)

/-- The value of a magnitude code; the codes run on without bound. -/
def FloatSpec.value (c : Nat) : ℚ := (s.sigOf c : ℚ) * 2 ^ s.gridExp (s.stepOf c)

variable {s} {c k r : Nat}

theorem stepOf_mul_add_sigOf (s : FloatSpec) (c : Nat) : s.stepOf c * 2 ^ s.t + s.sigOf c = c := by
  refine Nat.add_sub_cancel' ((Nat.mul_le_mul_right _ (Nat.sub_le _ 1)).trans (Nat.div_mul_le_self c _))

theorem stepOf_add (hlow : 2 ^ s.t ≤ r) (hhigh : r < 2 ^ (s.t + 1)) : s.stepOf (k * 2 ^ s.t + r) = k := by
  rw [pow_succ] at hhigh
  have hdiv : (k * 2 ^ s.t + r) / 2 ^ s.t = k + 1 :=
    Nat.div_eq_of_lt_le (by rw [Nat.succ_mul]; omega) (by rw [Nat.succ_mul, Nat.succ_mul]; omega)
  rw [FloatSpec.stepOf, hdiv, Nat.add_sub_cancel]

theorem stepOf_lt (h : c < 2 ^ s.t) : s.stepOf c = 0 := by
  rw [FloatSpec.stepOf, Nat.div_eq_of_lt h]

theorem div_eq_stepOf (s : FloatSpec) (c : Nat) : c / 2 ^ s.t = 0 ∧ s.stepOf c = 0 ∨ c / 2 ^ s.t = s.stepOf c + 1 :=
  (Nat.eq_zero_or_pos (c / 2 ^ s.t)).imp (fun h => ⟨h, by rw [FloatSpec.stepOf, h]⟩) fun h => (Nat.sub_add_cancel h).symm

theorem sigOf_onStep (s : FloatSpec) (c : Nat) : s.sigOf c < 2 ^ (s.t + 1) ∧ s.OnStep (s.stepOf c) (s.sigOf c) := by
  have hmod := Nat.mod_lt c (Nat.two_pow_pos s.t)
  have hsplit := Nat.div_add_mod' c (2 ^ s.t)
  have hsum := stepOf_mul_add_sigOf s c
  rw [FloatSpec.OnStep, pow_succ]
  rcases div_eq_stepOf s c with ⟨h, h0⟩ | h
  · rw [h, Nat.zero_mul] at hsplit
    rw [h0, Nat.zero_mul] at hsum
    omega
  · rw [h, Nat.succ_mul] at hsplit
    omega

/-- The code that a significand at a grid step has, and its value: the last significand of a step is the first of the next one. -/
theorem value_add (h : s.OnStep k r) : s.value (k * 2 ^ s.t + r) = (r : ℚ) * 2 ^ s.gridExp k := by
  obtain ⟨hle, hstep⟩ := h
  have hsum := stepOf_mul_add_sigOf s (k * 2 ^ s.t + r)
  rcases hle.lt_or_eq with hlt | rfl
  · have hk : s.stepOf (k * 2 ^ s.t + r) = k := by
      rcases Nat.lt_or_ge r (2 ^ s.t) with hr | hr
      · obtain rfl : k = 0 := hstep.resolve_right hr.not_ge
        rw [Nat.zero_mul, Nat.zero_add, stepOf_lt hr]
      · exact stepOf_add hr hlt
    rw [hk] at hsum
    rw [FloatSpec.value, hk, Nat.add_left_cancel hsum]
  · have hcode : k * 2 ^ s.t + 2 ^ (s.t + 1) = (k + 1) * 2 ^ s.t + 2 ^ s.t := by rw [pow_succ, Nat.succ_mul]; omega
    have hk : s.stepOf ((k + 1) * 2 ^ s.t + 2 ^ s.t) = k + 1 := stepOf_add le_rfl (Nat.pow_lt_pow_succ (by decide))
    have hexp : s.gridExp (k + 1) = s.gridExp k + 1 := by rw [FloatSpec.gridExp, FloatSpec.gridExp]; push_cast; ring
    rw [hcode, hk] at hsum
    rw [hcode, FloatSpec.value, hk, Nat.add_left_cancel hsum, hexp, zpow_add_one₀ (by norm_num), Nat.cast_pow, Nat.cast_pow, pow_succ]
    push_cast
    ring

theorem value_zero (s : FloatSpec) : s.value 0 = 0 := by
  have h := value_add (s := s) (k := 0) (r := 0) ⟨Nat.zero_le _, .inl rfl⟩
  simpa using h

/-- The next code's value is one spacing further. -/
theorem value_succ (s : FloatSpec) (c : Nat) : s.value (c + 1) = s.value c + 2 ^ s.gridExp (s.stepOf c) := by
  obtain ⟨hlt, hstep⟩ := sigOf_onStep s c
  have hnext : s.OnStep (s.stepOf c) (s.sigOf c + 1) := ⟨hlt, hstep.2.imp_right fun h => h.trans (Nat.le_succ _)⟩
  have hcode : s.stepOf c * 2 ^ s.t + (s.sigOf c + 1) = c + 1 := by rw [← Nat.add_assoc, stepOf_mul_add_sigOf]
  rw [← hcode, value_add hnext, FloatSpec.value]
  push_cast
  ring

theorem value_strictMono (s : FloatSpec) : StrictMono s.value :=
  strictMono_nat_of_lt_succ fun c => by
    rw [value_succ]
    exact lt_add_of_pos_right _ (zpow_pos (by norm_num) _)

theorem value_nonneg (s : FloatSpec) (c : Nat) : 0 ≤ s.value c := by
  rw [← value_zero s]
  exact (value_strictMono s).monotone (Nat.zero_le c)

theorem magnitude_eq (s : FloatSpec) (n : Bool) (c : Nat) : s.magnitude n c = .fin n (s.sigOf c) (s.gridExp (s.stepOf c)) := by
  have hsum := stepOf_mul_add_sigOf s c
  have hsplit := Nat.div_add_mod' c (2 ^ s.t)
  unfold FloatSpec.magnitude
  rw [Nat.shiftRight_eq_div_pow]
  dsimp only
  rcases div_eq_stepOf s c with ⟨h, h0⟩ | h
  · rw [if_pos h]
    rw [h, Nat.zero_mul] at hsplit
    rw [h0, Nat.zero_mul] at hsum
    rw [h0, FloatSpec.gridExp]
    congr 1
    · omega
  · rw [if_neg (by rw [h]; exact Nat.succ_ne_zero _)]
    rw [h, Nat.succ_mul] at hsplit
    rw [h, FloatSpec.gridExp]
    congr 1
    · omega

end Codes

/-! ## Rounding at a spacing (R147) -/

/-- The value of a magnitude that is not sticky. -/
def Mag.value (x : Mag) : ℚ := (x.m : ℚ) * 2 ^ x.e

/-- The greatest multiple of 2^q that a magnitude reaches. -/
def Mag.floorAt (x : Mag) (q : Int) : Nat := if q - x.e ≤ 0 then x.m <<< (-(q - x.e)).toNat else x.m >>> (q - x.e).toNat

section Round
variable {x : Mag} {q : Int} {mode : Rnd} {neg : Bool} {even : Nat → Bool} {rb : Nat}

theorem floorAt_of_le (h : q ≤ x.e) : x.floorAt q = x.m * 2 ^ (x.e - q).toNat := by
  rw [Mag.floorAt, if_pos (by omega), Nat.shiftLeft_eq, Int.neg_sub]

theorem floorAt_of_lt (h : x.e < q) : x.floorAt q = x.m / 2 ^ (q - x.e).toNat := by
  rw [Mag.floorAt, if_neg (by omega), Nat.shiftRight_eq_div_pow]

/-- A magnitude whose spacing is no finer than the grid's lies on the grid. -/
theorem value_of_le (h : q ≤ x.e) : x.value = (x.floorAt q : ℚ) * 2 ^ q := by
  have hexp : (2 : ℚ) ^ x.e = 2 ^ (x.e - q).toNat * 2 ^ q := by
    rw [← zpow_natCast, Int.toNat_of_nonneg (by omega), ← zpow_add₀ (by norm_num), Int.sub_add_cancel]
  rw [floorAt_of_le h, Mag.value, hexp]
  push_cast
  ring

/-- Below the grid's spacing a magnitude is its floor and a rest. -/
theorem value_of_lt (h : x.e < q) :
    x.value = (x.floorAt q + (x.m % 2 ^ (q - x.e).toNat : Nat) / 2 ^ (q - x.e).toNat : ℚ) * 2 ^ q := by
  have hexp : (2 : ℚ) ^ q = 2 ^ (q - x.e).toNat * 2 ^ x.e := by
    rw [← zpow_natCast, Int.toNat_of_nonneg (by omega), ← zpow_add₀ (by norm_num), Int.sub_add_cancel]
  have hsplit : (x.m : ℚ) = 2 ^ (q - x.e).toNat * x.floorAt q + (x.m % 2 ^ (q - x.e).toNat : Nat) := by
    rw [floorAt_of_lt h]
    exact_mod_cast (Nat.div_add_mod x.m (2 ^ (q - x.e).toNat)).symm
  rw [Mag.value, hexp, ← mul_assoc, add_mul, div_mul_cancel₀ _ (by positivity), mul_comm (x.floorAt q : ℚ), ← hsplit]

theorem roundAt_of_le (h : q ≤ x.e) : roundAt mode neg x q even rb = x.floorAt q := by
  rw [roundAt, Mag.floorAt, if_pos (by omega), if_pos (by omega)]

theorem roundAt_of_lt (h : x.e < q) : roundAt mode neg x q even rb =
    if roundsUp mode neg (even (x.floorAt q)) (x.m % 2 ^ (q - x.e).toNat) (q - x.e).toNat x.sticky rb then x.floorAt q + 1
    else x.floorAt q := by
  rw [floorAt_of_lt h, ← Nat.shiftRight_eq_div_pow]
  exact if_neg (by omega)

/-- Round to nearest even looks at twice the rest. -/
theorem roundsUp_rne (loEven : Bool) (rem k : Nat) : roundsUp .rne neg loEven rem k false rb =
    (decide (2 ^ k < 2 * rem) || (decide (2 * rem = 2 ^ k) && !loEven)) := by
  simp [roundsUp]

/-- What round to nearest even makes of a magnitude between two multiples of 2^q. -/
structure NearestEven (x : Mag) (q : Int) (even : Nat → Bool) (r : Nat) : Prop where
  floor_le : (x.floorAt q : ℚ) * 2 ^ q ≤ x.value
  lt_ceil : x.value < (x.floorAt q + 1) * 2 ^ q
  down : 2 * (x.value - x.floorAt q * 2 ^ q) < 2 ^ q → r = x.floorAt q
  up : (2 : ℚ) ^ q < 2 * (x.value - x.floorAt q * 2 ^ q) → r = x.floorAt q + 1
  tie : 2 * (x.value - x.floorAt q * 2 ^ q) = 2 ^ q → r = if even (x.floorAt q) then x.floorAt q else x.floorAt q + 1

theorem roundAt_rne (hs : x.sticky = false) : NearestEven x q even (roundAt .rne neg x q even rb) := by
  have hpos : (0 : ℚ) < 2 ^ q := zpow_pos (by norm_num) q
  rcases le_or_gt q x.e with h | h
  · have hv := value_of_le h
    rw [roundAt_of_le h]
    refine ⟨hv.ge, by rw [hv, add_mul, one_mul]; exact lt_add_of_pos_right _ hpos, fun _ => rfl, fun hu => ?_, fun ht => ?_⟩
    · rw [hv, sub_self, mul_zero] at hu
      exact absurd hu hpos.not_gt
    · rw [hv, sub_self, mul_zero] at ht
      exact absurd ht hpos.ne
  · have hv := value_of_lt h
    rw [roundAt_of_lt h, hs, roundsUp_rne]
    generalize (q - x.e).toNat = k at hv ⊢
    have hrem : x.m % 2 ^ k < 2 ^ k := Nat.mod_lt _ (Nat.two_pow_pos k)
    generalize x.m % 2 ^ k = rem at hv hrem ⊢
    have hk : (0 : ℚ) < 2 ^ k := by positivity
    have hlt : (rem : ℚ) / 2 ^ k < 1 := by
      rw [div_lt_one hk]
      exact_mod_cast hrem
    have hrest : 2 * (x.value - x.floorAt q * 2 ^ q) = ((2 * rem : Nat) : ℚ) / 2 ^ k * 2 ^ q := by
      rw [hv]
      push_cast
      ring
    refine ⟨?_, ?_, fun hd => ?_, fun hu => ?_, fun ht => ?_⟩
    · rw [hv]
      exact mul_le_mul_of_nonneg_right (le_add_of_nonneg_right (by positivity)) hpos.le
    · rw [hv]
      exact mul_lt_mul_of_pos_right (by linarith) hpos
    · rw [hrest, mul_lt_iff_lt_one_left hpos, div_lt_one hk] at hd
      have hd : 2 * rem < 2 ^ k := by exact_mod_cast hd
      simp [hd.not_gt, hd.ne]
    · rw [hrest, lt_mul_iff_one_lt_left hpos, one_lt_div hk] at hu
      have hu : 2 ^ k < 2 * rem := by exact_mod_cast hu
      simp [hu]
    · rw [hrest, mul_eq_right₀ hpos.ne', div_eq_one_iff_eq hk.ne'] at ht
      have ht : 2 * rem = 2 ^ k := by exact_mod_cast ht
      simp only [ht, lt_irrefl, decide_false, decide_true, Bool.false_or, Bool.true_and]
      cases even (x.floorAt q) <;> rfl

theorem roundAt_eq_or (mode : Rnd) (neg : Bool) (x : Mag) (q : Int) (even : Nat → Bool) (rb : Nat) :
    roundAt mode neg x q even rb = x.floorAt q ∨ roundAt mode neg x q even rb = x.floorAt q + 1 := by
  rcases le_or_gt q x.e with h | h
  · exact .inl (roundAt_of_le h)
  · rw [roundAt_of_lt h]
    split_ifs
    · exact .inr rfl
    · exact .inl rfl

end Round

/-! ## Rounding to a magnitude code -/

/-- The grid step that a magnitude is rounded at. -/
def FloatSpec.gridStep (s : FloatSpec) (x : Mag) : Nat := (x.e + (Nat.log2 x.m : Int) + s.bias - 1).toNat

/-- Whether the lower of two neighbours of the grid with spacing 2^q counts as even (R147). -/
def FloatSpec.evenAt (s : FloatSpec) (q : Int) (lo : Nat) : Bool :=
  decide (if s.t = 0 ∧ lo ≠ 0 then (q + s.bias) % 2 = 0 else (lo % 2 == 0) = true)

section RoundCode
variable {s : FloatSpec} {x : Mag} {k r : Nat} {mode : Rnd} {neg : Bool} {rb : Nat}

/-- The spacing at a magnitude: t places below its leading bit, and not below that of the subnormals. -/
theorem gridExp_gridStep (s : FloatSpec) (x : Mag) :
    s.gridExp (s.gridStep x) = max (x.e + (Nat.log2 x.m : Int) - s.t) (1 - s.bias - s.t) := by
  rw [FloatSpec.gridExp, FloatSpec.gridStep]
  omega

/-- The significand below a magnitude stands at the magnitude's grid step. -/
theorem floorAt_onStep (hm : x.m ≠ 0) : x.floorAt (s.gridExp (s.gridStep x)) < 2 ^ (s.t + 1) ∧
    (s.gridStep x = 0 ∨ 2 ^ s.t ≤ x.floorAt (s.gridExp (s.gridStep x))) := by
  have hq := gridExp_gridStep s x
  have hstep : s.gridStep x = 0 ∨ s.gridExp (s.gridStep x) = x.e + (Nat.log2 x.m : Int) - s.t := by
    rw [FloatSpec.gridExp, FloatSpec.gridStep]
    omega
  have hlow := Nat.log2_self_le hm
  have hhigh : x.m < 2 ^ (x.m.log2 + 1) := Nat.lt_log2_self
  generalize s.gridExp (s.gridStep x) = q at hq hstep ⊢
  rcases le_or_gt q x.e with h | h
  · rw [floorAt_of_le h]
    refine ⟨?_, hstep.imp_right fun hs => ?_⟩
    · calc x.m * 2 ^ (x.e - q).toNat < 2 ^ (x.m.log2 + 1) * 2 ^ (x.e - q).toNat := Nat.mul_lt_mul_of_pos_right hhigh (Nat.two_pow_pos _)
        _ = 2 ^ (x.m.log2 + 1 + (x.e - q).toNat) := (pow_add ..).symm
        _ ≤ 2 ^ (s.t + 1) := Nat.pow_le_pow_right (by decide) (by omega)
    · calc 2 ^ s.t = 2 ^ (x.m.log2 + (x.e - q).toNat) := by congr 1; omega
        _ = 2 ^ x.m.log2 * 2 ^ (x.e - q).toNat := pow_add ..
        _ ≤ x.m * 2 ^ (x.e - q).toNat := Nat.mul_le_mul_right _ hlow
  · rw [floorAt_of_lt h]
    refine ⟨(Nat.div_lt_iff_lt_mul (Nat.two_pow_pos _)).2 ?_,
      hstep.imp_right fun hs => (Nat.le_div_iff_mul_le (Nat.two_pow_pos _)).2 ?_⟩
    · rw [← pow_add]
      exact hhigh.trans_le (Nat.pow_le_pow_right (by decide) (by omega))
    · rw [← pow_add]
      exact (Nat.pow_le_pow_right (by decide) (by omega)).trans hlow

theorem roundAt_onStep (hm : x.m ≠ 0) (even : Nat → Bool) :
    s.OnStep (s.gridStep x) (roundAt mode neg x (s.gridExp (s.gridStep x)) even rb) := by
  obtain ⟨hlt, hstep⟩ := floorAt_onStep (s := s) hm
  rcases roundAt_eq_or mode neg x (s.gridExp (s.gridStep x)) even rb with h | h
  · rw [h]
    exact ⟨hlt.le, hstep⟩
  · rw [h]
    exact ⟨hlt, hstep.imp_right fun h => h.trans (Nat.le_succ _)⟩

/-- The code of a significand at a grid step, as the model packs it. -/
theorem pack_eq (h : s.OnStep k r) :
    (let (r, q) := if r = 2 ^ (s.t + 1) then (2 ^ s.t, s.gridExp k + 1) else (r, s.gridExp k)
     if r < 2 ^ s.t then r else ((q + s.t + s.bias).toNat <<< s.t) + (r - 2 ^ s.t)) = k * 2 ^ s.t + r := by
  obtain ⟨hle, hstep⟩ := h
  rcases hle.lt_or_eq with hlt | rfl
  · rw [if_neg hlt.ne]
    dsimp only
    split_ifs with hr
    · rw [hstep.resolve_right hr.not_ge, Nat.zero_mul, Nat.zero_add]
    · have hk : (s.gridExp k + s.t + s.bias).toNat = k + 1 := by rw [FloatSpec.gridExp]; omega
      rw [hk, Nat.shiftLeft_eq, Nat.succ_mul, Nat.add_assoc, Nat.add_sub_cancel' (not_lt.1 hr)]
  · have hk : (s.gridExp k + 1 + s.t + s.bias).toNat = k + 2 := by rw [FloatSpec.gridExp]; omega
    rw [if_pos rfl]
    dsimp only
    rw [if_neg (lt_irrefl _), hk, Nat.shiftLeft_eq, Nat.sub_self, pow_succ]
    ring

theorem roundCode_eq (hm : x.m ≠ 0) : s.roundCode mode neg x rb = s.gridStep x * 2 ^ s.t +
    roundAt mode neg x (s.gridExp (s.gridStep x)) (s.evenAt (s.gridExp (s.gridStep x))) rb := by
  rw [← pack_eq (roundAt_onStep hm _), gridExp_gridStep]
  rfl

/-- A magnitude on the grid keeps its value in every mode. -/
theorem value_roundCode (hm : x.m ≠ 0) (h : s.gridExp (s.gridStep x) ≤ x.e) : s.value (s.roundCode mode neg x rb) = x.value := by
  rw [roundCode_eq hm, value_add (roundAt_onStep hm _), roundAt_of_le h, value_of_le h]

/-- The neighbour that counts as even has the even code. -/
theorem evenAt_iff (hlt : r < 2 ^ (s.t + 1)) (hstep : k = 0 ∨ 2 ^ s.t ≤ r) :
    s.evenAt (s.gridExp k) r = true ↔ (k * 2 ^ s.t + r) % 2 = 0 := by
  rw [FloatSpec.evenAt, FloatSpec.gridExp, decide_eq_true_iff]
  rcases Nat.eq_zero_or_pos s.t with ht | ht
  · rw [ht] at hlt hstep ⊢
    by_cases hr : r = 0
    · simp [hr]
      omega
    · simp [hr]
      omega
  · obtain ⟨u, hu⟩ : ∃ u, 2 ^ s.t = 2 * u := ⟨2 ^ (s.t - 1), by rw [← pow_succ', Nat.sub_add_cancel ht]⟩
    have hmod : (k * (2 * u) + r) % 2 = r % 2 := by rw [Nat.mul_left_comm]; omega
    rw [if_neg (by omega), hu, hmod, beq_iff_eq]

/-- Round to nearest even chooses the nearer one of two neighbouring codes, and the even one of two equally near. -/
structure NearestCode (s : FloatSpec) (x : Mag) (lo c : Nat) : Prop where
  le : s.value lo ≤ x.value
  lt : x.value < s.value (lo + 1)
  near : c = lo ∧ x.value - s.value lo ≤ s.value (lo + 1) - x.value ∨
    c = lo + 1 ∧ s.value (lo + 1) - x.value ≤ x.value - s.value lo
  tie : x.value - s.value lo = s.value (lo + 1) - x.value → c % 2 = 0

theorem roundCode_rne (hm : x.m ≠ 0) (hs : x.sticky = false) :
    ∃ lo, NearestCode s x lo (s.roundCode .rne neg x rb) := by
  have hr := roundAt_rne (neg := neg) (q := s.gridExp (s.gridStep x)) (even := s.evenAt (s.gridExp (s.gridStep x))) (rb := rb) hs
  obtain ⟨hlt, hstep⟩ := floorAt_onStep (s := s) hm
  have heven := evenAt_iff hlt hstep
  have hlo := value_add (s := s) ⟨hlt.le, hstep⟩
  have hhi := value_add (s := s) (k := s.gridStep x) (r := x.floorAt (s.gridExp (s.gridStep x)) + 1)
    ⟨hlt, hstep.imp_right fun h => h.trans (Nat.le_succ _)⟩
  rw [roundCode_eq hm]
  generalize roundAt .rne neg x (s.gridExp (s.gridStep x)) (s.evenAt (s.gridExp (s.gridStep x))) rb = r at hr ⊢
  obtain ⟨hle, hlt, hdown, hup, htie⟩ := hr
  generalize x.floorAt (s.gridExp (s.gridStep x)) = f at *
  generalize s.gridStep x * 2 ^ s.t = base at *
  push_cast at hhi
  refine ⟨base + f, hlo.trans_le hle, hlt.trans_eq hhi.symm, ?_, fun h => ?_⟩
  · rw [Nat.add_assoc, hlo, hhi]
    rcases lt_trichotomy (2 * (x.value - f * 2 ^ s.gridExp (s.gridStep x))) (2 ^ s.gridExp (s.gridStep x)) with h | h | h
    · exact .inl ⟨by rw [hdown h], by linarith⟩
    · rw [htie h]
      split_ifs
      · exact .inl ⟨rfl, by linarith⟩
      · exact .inr ⟨rfl, by linarith⟩
    · exact .inr ⟨by rw [hup h], by linarith⟩
  · rw [Nat.add_assoc, hlo, hhi] at h
    rw [htie (by linarith)]
    split_ifs with he
    · exact heven.1 he
    · have hodd := mt heven.2 he
      omega

/-- What is nearest of two neighbours is nearest of all codes. -/
theorem NearestCode.nearest {lo c : Nat} (h : NearestCode s x lo c) (d : Nat) : |s.value c - x.value| ≤ |s.value d - x.value| ∧
    (|s.value c - x.value| = |s.value d - x.value| → d ≠ c → c % 2 = 0) := by
  obtain ⟨hle, hlt, hnear, htie⟩ := h
  have hmono := value_strictMono s
  have hbelow : ∀ d ≤ lo, |s.value d - x.value| = x.value - s.value d := fun d hd => by
    rw [abs_sub_comm, abs_of_nonneg (sub_nonneg.2 ((hmono.monotone hd).trans hle))]
  have habove : ∀ d, lo + 1 ≤ d → |s.value d - x.value| = s.value d - x.value := fun d hd =>
    abs_of_nonneg (sub_nonneg.2 (hlt.le.trans (hmono.monotone hd)))
  rcases hnear with ⟨rfl, hnear⟩ | ⟨rfl, hnear⟩
  · rw [hbelow _ le_rfl]
    rcases Nat.lt_or_ge c d with hd | hd
    · have hge : s.value (c + 1) ≤ s.value d := hmono.monotone hd
      rw [habove d hd]
      exact ⟨by linarith, fun heq _ => htie (by linarith)⟩
    · have hge : s.value d ≤ s.value c := hmono.monotone hd
      rw [hbelow d hd]
      exact ⟨by linarith, fun heq hne => absurd (hmono.injective (by linarith)) hne⟩
  · rw [habove _ le_rfl]
    rcases Nat.lt_or_ge lo d with hd | hd
    · have hge : s.value (lo + 1) ≤ s.value d := hmono.monotone hd
      rw [habove d hd]
      exact ⟨by linarith, fun heq hne => absurd (hmono.injective (by linarith)) hne⟩
    · have hge : s.value d ≤ s.value lo := hmono.monotone hd
      rw [hbelow d hd]
      exact ⟨by linarith, fun heq _ => htie (by linarith)⟩

end RoundCode

/-! ## Codes of a format (R140, R142, R143) -/

/-- The magnitudes below n are the finite ones and then, where the format has one, the infinity. -/
def FloatSpec.EndsAt (s : FloatSpec) (n : Nat) : Prop := s.infCode.getD n = s.maxCode + 1 ∧ ∀ i, s.infCode = some i → i + 1 = n

/-- The codes of a floating format of w bits. An unsigned one ends with its NaN. A signed one has a sign bit before the magnitude;
with a -0 (R140) its NaNs follow the infinity, and without (R142) the code of -0 is its NaN. -/
structure FloatSpec.Sound (s : FloatSpec) (w : Nat) : Prop where
  unsigned : s.sign = none → s.negZero = false ∧ s.nanCode + 1 = 2 ^ w ∧ s.EndsAt s.nanCode
  width : ∀ b, s.sign = some b → w = b + 1 ∧ 0 < b
  withZero : ∀ b, s.sign = some b → s.negZero = true →
    ∃ i, s.infCode = some i ∧ i = s.maxCode + 1 ∧ i < s.nanCode ∧ s.nanCode < 2 ^ b
  withoutZero : ∀ b, s.sign = some b → s.negZero = false → s.nanCode = 2 ^ b ∧ s.EndsAt (2 ^ b)

theorem floatSpec_sound (t : FTy) : (floatSpec t).Sound (Fmt.flt t).width := by
  cases t <;> exact ⟨nofun, by rintro _ ⟨⟩; decide, by rintro _ ⟨⟩; decide, nofun⟩

theorem famSpec_sound (t : Fam) : (famSpec t).Sound (Fmt.fam t).width := by
  obtain ⟨uns, ext, p⟩ := t
  cases uns <;> cases ext <;> constructor <;> simp [famSpec, Fmt.width, FloatSpec.EndsAt]

section Sound
variable {s : FloatSpec} {w b c m i n : Nat} {neg : Bool}

theorem FloatSpec.EndsAt.infCode_eq (h : s.EndsAt n) (hi : s.infCode = some i) : i = s.maxCode + 1 := by
  obtain ⟨htop, -⟩ := h
  rwa [hi] at htop

theorem FloatSpec.EndsAt.maxCode_lt (h : s.EndsAt n) : s.maxCode < n := by
  obtain ⟨htop, hlast⟩ := h
  cases hi : s.infCode with
  | none =>
    rw [hi, Option.getD_none] at htop
    omega
  | some i =>
    have hlast := hlast i hi
    rw [hi, Option.getD_some] at htop
    omega

theorem FloatSpec.EndsAt.le_maxCode (h : s.EndsAt n) (hm : m < n) (hne : s.infCode ≠ some m) : m ≤ s.maxCode := by
  obtain ⟨htop, hlast⟩ := h
  cases hi : s.infCode with
  | none =>
    rw [hi, Option.getD_none] at htop
    omega
  | some i =>
    have hlast := hlast i hi
    rw [hi, Option.getD_some] at htop
    have hmi : m ≠ i := fun h => hne (by rw [hi, h])
    omega

/-- The infinity is the first magnitude that is not finite. -/
theorem FloatSpec.Sound.infCode_eq (h : s.Sound w) (hi : s.infCode = some i) : i = s.maxCode + 1 := by
  cases hs : s.sign with
  | none =>
    obtain ⟨-, -, hends⟩ := h.unsigned hs
    exact hends.infCode_eq hi
  | some b =>
    cases hz : s.negZero with
    | true =>
      obtain ⟨k, hk, hmax, -⟩ := h.withZero b hs hz
      obtain rfl : i = k := Option.some.inj (hi.symm.trans hk)
      exact hmax
    | false =>
      obtain ⟨-, hends⟩ := h.withoutZero b hs hz
      exact hends.infCode_eq hi

theorem FloatSpec.Sound.ne_infCode (h : s.Sound w) (hm : m ≤ s.maxCode) : s.infCode ≠ some m := fun hi => by
  have := h.infCode_eq hi
  omega

/-- Finite and infinite magnitudes stay below the sign bit. -/
theorem FloatSpec.Sound.lt_signBit (h : s.Sound w) (hs : s.sign = some b) (hm : m ≤ s.maxCode ∨ s.infCode = some m) : m < 2 ^ b := by
  cases hz : s.negZero with
  | true =>
    obtain ⟨i, hi, hmax, hnan, hlt⟩ := h.withZero b hs hz
    rcases hm with hm | hm
    · omega
    · obtain rfl : m = i := Option.some.inj (hm.symm.trans hi)
      omega
  | false =>
    obtain ⟨-, hends⟩ := h.withoutZero b hs hz
    rcases hm with hm | hm
    · exact hm.trans_lt hends.maxCode_lt
    · have hlast := hends.2 m hm
      omega

theorem withSign_none (h : s.sign = none) (neg : Bool) (m : Nat) : s.withSign neg m = m := by
  rw [FloatSpec.withSign, h]

theorem withSign_some (h : s.sign = some b) (neg : Bool) (m : Nat) : s.withSign neg m = if neg then m + 2 ^ b else m := by
  rw [FloatSpec.withSign, h]

theorem withSign_false (s : FloatSpec) (m : Nat) : s.withSign false m = m := by
  unfold FloatSpec.withSign
  split <;> rfl

/-- The sign bit and the magnitude of a signed code. -/
theorem withSign_bits (h : s.sign = some b) (hm : m < 2 ^ b) (neg : Bool) :
    (s.withSign neg m).testBit b = neg ∧ s.withSign neg m % 2 ^ b = m := by
  rw [withSign_some h]
  cases neg with
  | false => exact ⟨Nat.testBit_lt_two_pow hm, Nat.mod_eq_of_lt hm⟩
  | true =>
    rw [if_pos rfl, Nat.add_mod_right, Nat.add_comm, Nat.testBit_two_pow_add_eq, Nat.testBit_lt_two_pow hm]
    exact ⟨rfl, Nat.mod_eq_of_lt hm⟩

theorem withSign_testBit_mod (h : s.sign = some b) (hc : c < 2 ^ (b + 1)) : s.withSign (c.testBit b) (c % 2 ^ b) = c := by
  rw [withSign_some h]
  rcases Nat.lt_or_ge c (2 ^ b) with hlt | hge
  · rw [Nat.testBit_lt_two_pow hlt, Nat.mod_eq_of_lt hlt]
    rfl
  · rw [Nat.testBit_of_two_pow_le_and_two_pow_add_one_gt hge hc, Nat.mod_eq_sub_mod hge,
      Nat.mod_eq_of_lt (by rw [pow_succ] at hc; omega)]
    exact Nat.sub_add_cancel hge

theorem withSign_true_zero (h : s.Sound w) (hs : s.sign = some b) (hz : s.negZero = false) : s.withSign true 0 = s.nanCode := by
  rw [(h.withoutZero b hs hz).1, withSign_some hs, if_pos rfl, Nat.zero_add]

/-! ## Decoding -/

theorem decode_unsigned (h : s.sign = none) (c : Nat) :
    s.decode c = if c = s.nanCode then .nan else if s.infCode = some c then .inf false else s.magnitude false c := by
  rw [FloatSpec.decode, h]

theorem decode_withZero (h : s.sign = some b) (hz : s.negZero = true) (hm : m < 2 ^ b) (neg : Bool) : s.decode (s.withSign neg m) =
    if m > s.infCode.getD 0 then .nan else if s.infCode = some m then .inf neg else s.magnitude neg m := by
  obtain ⟨hbit, hmod⟩ := withSign_bits h hm neg
  rw [FloatSpec.decode, h]
  simp only [hbit, hmod, hz, if_true]

theorem decode_withoutZero (h : s.sign = some b) (hz : s.negZero = false) (hm : m < 2 ^ b) (neg : Bool) :
    s.decode (s.withSign neg m) =
      if s.withSign neg m = s.nanCode then .nan else if s.infCode = some m then .inf neg else s.magnitude neg m := by
  obtain ⟨hbit, hmod⟩ := withSign_bits h hm neg
  rw [FloatSpec.decode, h]
  simp only [hbit, hmod, hz, Bool.false_eq_true, if_false]

/-- Without a -0 the NaN is the only code with the sign bit and no magnitude. -/
theorem withSign_eq_nanCode_iff (h : s.Sound w) (hs : s.sign = some b) (hz : s.negZero = false) (hm : m < 2 ^ b) :
    s.withSign neg m = s.nanCode ↔ neg = true ∧ m = 0 := by
  rw [(h.withoutZero b hs hz).1, withSign_some hs]
  cases neg with
  | false => simp [hm.ne]
  | true => simp

/-- The signs that a magnitude can carry: a minus only in a signed format, and on a zero only where -0 is a code. -/
def FloatSpec.Carries (s : FloatSpec) (neg : Bool) (m : Nat) : Prop := neg = true → s.sign ≠ none ∧ (m = 0 → s.negZero = true)

theorem eq_false_of_unsigned (hs : neg = true → s.sign ≠ none) (h : s.sign = none) : neg = false :=
  Bool.eq_false_iff.2 fun hn => hs hn h

/-- A finite code decodes to its magnitude. -/
theorem decode_finite (h : s.Sound w) (hm : m ≤ s.maxCode) (hs : s.Carries neg m) : s.decode (s.withSign neg m) = s.magnitude neg m := by
  have hinf := h.ne_infCode hm
  cases hsign : s.sign with
  | none =>
    obtain ⟨-, -, hends⟩ := h.unsigned hsign
    have hlt := hends.maxCode_lt
    rw [withSign_none hsign, decode_unsigned hsign, if_neg (by omega), if_neg hinf, eq_false_of_unsigned (fun hn => (hs hn).1) hsign]
  | some b =>
    have hlt := h.lt_signBit hsign (.inl hm)
    cases hz : s.negZero with
    | true =>
      obtain ⟨i, hi, hmax, -⟩ := h.withZero b hsign hz
      rw [decode_withZero hsign hz hlt, hi, Option.getD_some, if_neg (by omega), ← hi, if_neg hinf]
    | false =>
      have hne : s.withSign neg m ≠ s.nanCode := fun hc => by
        obtain ⟨hn, h0⟩ := (withSign_eq_nanCode_iff h hsign hz hlt).1 hc
        exact Bool.false_ne_true (hz.symm.trans ((hs hn).2 h0))
      rw [decode_withoutZero hsign hz hlt, if_neg hne, if_neg hinf]

theorem decode_infinite (h : s.Sound w) (hi : s.infCode = some i) (hs : neg = true → s.sign ≠ none) :
    s.decode (s.withSign neg i) = .inf neg := by
  have hmax := h.infCode_eq hi
  cases hsign : s.sign with
  | none =>
    obtain ⟨-, -, -, hlast⟩ := h.unsigned hsign
    have hnan := hlast i hi
    rw [withSign_none hsign, decode_unsigned hsign, if_neg (by omega), if_pos hi, eq_false_of_unsigned hs hsign]
  | some b =>
    have hlt := h.lt_signBit hsign (.inr hi)
    cases hz : s.negZero with
    | true => rw [decode_withZero hsign hz hlt, hi, Option.getD_some, if_neg (lt_irrefl i), if_pos rfl]
    | false =>
      have hne : s.withSign neg i ≠ s.nanCode := fun hc => by
        obtain ⟨-, h0⟩ := (withSign_eq_nanCode_iff h hsign hz hlt).1 hc
        omega
      rw [decode_withoutZero hsign hz hlt, if_neg hne, if_pos hi]

theorem decode_nanCode (h : s.Sound w) : s.decode s.nanCode = .nan := by
  cases hsign : s.sign with
  | none => rw [decode_unsigned hsign, if_pos rfl]
  | some b =>
    cases hz : s.negZero with
    | true =>
      obtain ⟨i, hi, -, hlt, hnan⟩ := h.withZero b hsign hz
      rw [← withSign_false s s.nanCode, decode_withZero hsign hz hnan, hi]
      exact if_pos hlt
    | false =>
      rw [← withSign_true_zero h hsign hz, decode_withoutZero hsign hz (Nat.two_pow_pos b), if_pos (withSign_true_zero h hsign hz)]

/-- Every code of the format is a NaN, an infinity or a finite value. -/
inductive FloatSpec.CodeKind (s : FloatSpec) : Nat → Prop where
  | nan {c : Nat} (h : s.decode c = .nan) : s.CodeKind c
  | inf (neg : Bool) (i : Nat) (hi : s.infCode = some i) (hs : neg = true → s.sign ≠ none) : s.CodeKind (s.withSign neg i)
  | fin (neg : Bool) (m : Nat) (hm : m ≤ s.maxCode) (hs : s.Carries neg m) : s.CodeKind (s.withSign neg m)

theorem codeKind (h : s.Sound w) (hc : c < 2 ^ w) : s.CodeKind c := by
  cases hsign : s.sign with
  | none =>
    obtain ⟨-, hw, hends⟩ := h.unsigned hsign
    by_cases hn : c = s.nanCode
    · exact .nan (by rw [hn, decode_nanCode h])
    · rw [← withSign_false s c]
      by_cases hi : s.infCode = some c
      · exact .inf false c hi nofun
      · exact .fin false c (hends.le_maxCode (by omega) hi) nofun
  | some b =>
    obtain ⟨rfl, -⟩ := h.width b hsign
    rw [← withSign_testBit_mod hsign hc]
    have hlt := Nat.mod_lt c (Nat.two_pow_pos b)
    generalize c % 2 ^ b = m at hlt ⊢
    generalize c.testBit b = neg
    have hsome : neg = true → s.sign ≠ none := fun _ => by rw [hsign]; exact Option.some_ne_none b
    by_cases hi : s.infCode = some m
    · exact .inf neg m hi hsome
    cases hz : s.negZero with
    | true =>
      obtain ⟨i, hinf, hmax, -⟩ := h.withZero b hsign hz
      by_cases hm : m ≤ s.maxCode
      · exact .fin neg m hm fun hn => ⟨hsome hn, fun _ => hz⟩
      · have hne : m ≠ i := fun hmi => hi (by rw [hinf, hmi])
        refine .nan ?_
        rw [decode_withZero hsign hz hlt, hinf, Option.getD_some, if_pos (by omega)]
    | false =>
      obtain ⟨-, hends⟩ := h.withoutZero b hsign hz
      by_cases hnan : neg = true ∧ m = 0
      · refine .nan ?_
        rw [(withSign_eq_nanCode_iff h hsign hz hlt).2 hnan, decode_nanCode h]
      · exact .fin neg m (hends.le_maxCode hlt hi) fun hn => ⟨hsome hn, fun h0 => absurd ⟨hn, h0⟩ hnan⟩

/-! ## Encoding -/

theorem zeroCode_eq {neg : Bool} (h : neg = true → s.negZero = true) : s.zeroCode neg = s.withSign neg 0 := by
  rw [FloatSpec.zeroCode]
  cases neg with
  | false => rw [withSign_false, ite_self]
  | true => rw [if_pos (h rfl)]

theorem encode_inf {rnd : Rnd} {sat : Bool} {rb : Nat} (hi : s.infCode = some i) (hs : neg = true → s.sign ≠ none) :
    s.encode rnd sat (.inf neg) rb = s.withSign neg i := by
  cases hsign : s.sign with
  | none =>
    simp [FloatSpec.encode, hsign, hi, eq_false_of_unsigned hs hsign, withSign_false]
  | some b => simp [FloatSpec.encode, hsign, hi]

theorem sigOf_eq_zero_iff (s : FloatSpec) (m : Nat) : s.sigOf m = 0 ↔ m = 0 := by
  obtain ⟨-, -, hstep⟩ := sigOf_onStep s m
  have hsum := stepOf_mul_add_sigOf s m
  constructor
  · intro h
    have hk : s.stepOf m = 0 := hstep.resolve_right (by rw [h]; exact (Nat.two_pow_pos _).not_ge)
    rw [← hsum, h, hk, Nat.zero_mul]
  · rintro rfl
    exact Nat.zero_sub _

/-- A magnitude of the format rounds to its own code. -/
theorem roundCode_magnitude (rnd : Rnd) (neg : Bool) (rb : Nat) (hm : m ≠ 0) :
    s.roundCode rnd neg ⟨s.sigOf m, s.gridExp (s.stepOf m), false⟩ rb = m := by
  have hsig : s.sigOf m ≠ 0 := mt (sigOf_eq_zero_iff s m).1 hm
  have hlog : (s.sigOf m).log2 < s.t + 1 := (Nat.log2_lt hsig).2 (sigOf_onStep s m).1
  refine (value_strictMono s).injective (value_roundCode hsig ?_)
  rw [gridExp_gridStep, FloatSpec.gridExp]
  dsimp only
  omega

theorem encode_magnitude {rnd : Rnd} {sat : Bool} {rb : Nat} (hm : m ≤ s.maxCode) (hs : s.Carries neg m) :
    s.encode rnd sat (s.magnitude neg m) rb = s.withSign neg m := by
  rw [magnitude_eq]
  show s.encodeMag rnd sat neg ⟨s.sigOf m, s.gridExp (s.stepOf m), false⟩ rb = _
  rw [FloatSpec.encodeMag]
  rcases eq_or_ne m 0 with rfl | h0
  · rw [if_pos ⟨(sigOf_eq_zero_iff s 0).2 rfl, rfl⟩, zeroCode_eq fun hn => (hs hn).2 rfl]
  · have hsign : ¬ (neg = true ∧ s.sign = none) := fun h => (hs h.1).1 h.2
    rw [if_neg fun h => h0 ((sigOf_eq_zero_iff s m).1 h.1), if_neg hsign, roundCode_magnitude rnd neg rb h0]
    simp only [if_neg h0, if_neg hm.not_gt]

/-- A code that is no NaN comes back from its value, in every mode. -/
theorem encode_decode {rnd : Rnd} {sat : Bool} {rb : Nat} (h : s.Sound w) (hc : c < 2 ^ w) (hn : (s.decode c).isNaN = false) :
    s.encode rnd sat (s.decode c) rb = c := by
  cases codeKind h hc with
  | nan hd =>
    rw [hd] at hn
    exact absurd hn.symm Bool.false_ne_true
  | inf neg i hi hs => rw [decode_infinite h hi hs, encode_inf hi hs]
  | fin neg m hm hs => rw [decode_finite h hm hs, encode_magnitude hm hs]

/-! ## Round to nearest even (R147) -/

/-- The exact value of a sign and a magnitude. -/
def signedRat (neg : Bool) (v : ℚ) : ℚ := (if neg then -1 else 1) * v

theorem abs_signedRat_sub (neg : Bool) (v x : ℚ) : |signedRat neg v - signedRat neg x| = |v - x| := by
  cases neg with
  | false => simp [signedRat]
  | true => simp [signedRat, abs_sub_comm, neg_add_eq_sub]

theorem abs_signedRat_sub_of_ne {neg neg' : Bool} (h : neg ≠ neg') {v x : ℚ} (hv : 0 ≤ v) (hx : 0 ≤ x) :
    |signedRat neg v - signedRat neg' x| = v + x := by
  obtain rfl := Bool.eq_not_of_ne h
  cases neg' with
  | false => rw [← abs_neg, ← abs_of_nonneg (add_nonneg hv hx)]; simp [signedRat, add_comm]
  | true => rw [← abs_of_nonneg (add_nonneg hv hx)]; simp [signedRat]

/-- Signs never bring two magnitudes nearer. -/
theorem abs_sub_le_signedRat (neg neg' : Bool) {v x : ℚ} (hv : 0 ≤ v) (hx : 0 ≤ x) :
    |v - x| ≤ |signedRat neg v - signedRat neg' x| := by
  rcases eq_or_ne neg neg' with rfl | h
  · exact (abs_signedRat_sub neg v x).ge
  · rw [abs_signedRat_sub_of_ne h hv hx]
    exact abs_le.2 ⟨by linarith, by linarith⟩

theorem rational_magnitude (s : FloatSpec) (neg : Bool) (m : Nat) : (s.magnitude neg m).rational = some (signedRat neg (s.value m)) := by
  rw [magnitude_eq, Num.rational, signedRat, FloatSpec.value, mul_assoc]

theorem withSign_mod_two (h : s.Sound w) (neg : Bool) (m : Nat) : s.withSign neg m % 2 = m % 2 := by
  cases hsign : s.sign with
  | none => rw [withSign_none hsign]
  | some b =>
    obtain ⟨-, hb⟩ := h.width b hsign
    have hb : 2 ∣ 2 ^ b := dvd_pow_self 2 hb.ne'
    rw [withSign_some hsign]
    split_ifs
    · omega
    · rfl

/-- The zero that a result rounds to is a zero, and its code is even. -/
theorem zeroCode_zero (h : s.Sound w) (neg : Bool) : (s.decode (s.zeroCode neg)).rational = some 0 ∧ s.zeroCode neg % 2 = 0 := by
  obtain ⟨neg', hzero, hs⟩ : ∃ neg', s.zeroCode neg = s.withSign neg' 0 ∧ s.Carries neg' 0 := by
    cases hz : s.negZero with
    | true =>
      have hsign : s.sign ≠ none := fun hs => Bool.false_ne_true ((h.unsigned hs).1.symm.trans hz)
      exact ⟨neg, zeroCode_eq fun _ => hz, fun _ => ⟨hsign, fun _ => hz⟩⟩
    | false => exact ⟨false, by rw [FloatSpec.zeroCode, hz, if_neg Bool.false_ne_true, withSign_false], fun h => nomatch h⟩
  rw [hzero, decode_finite h (Nat.zero_le _) hs, rational_magnitude, value_zero, signedRat, mul_zero, withSign_mod_two h]
  exact ⟨rfl, rfl⟩

/-- What a non-zero magnitude becomes under round to nearest even, where that is finite: the nearest code, with the value's sign. -/
theorem encodeMag_rne {x : Mag} {v : ℚ} {rb : Nat} (h : s.Sound w) (hm : x.m ≠ 0) (hx : x.sticky = false)
    (hv : (s.decode (s.encodeMag .rne false neg x rb)).rational = some v) :
    ∃ lo c, NearestCode s x lo c ∧ v = signedRat neg (s.value c) ∧ (c % 2 = 0 → s.encodeMag .rne false neg x rb % 2 = 0) := by
  obtain ⟨lo, hc⟩ := roundCode_rne (s := s) (neg := neg) (rb := rb) hm hx
  refine ⟨lo, _, hc, ?_⟩
  rw [FloatSpec.encodeMag, if_neg fun h => hm h.1] at hv ⊢
  by_cases hneg : neg = true ∧ s.sign = none
  · rw [if_pos hneg, if_neg Bool.false_ne_true, decode_nanCode h] at hv
    exact absurd hv (Option.some_ne_none v).symm
  rw [if_neg hneg] at hv ⊢
  generalize s.roundCode .rne neg x rb = c at hv ⊢
  dsimp only at hv ⊢
  have hsome : neg = true → s.sign ≠ none := fun hn hs => hneg ⟨hn, hs⟩
  by_cases h0 : c = 0
  · obtain ⟨hzero, heven⟩ := zeroCode_zero h neg
    rw [if_pos h0, hzero] at hv
    rw [if_pos h0, h0, value_zero, signedRat, mul_zero]
    exact ⟨(Option.some.inj hv).symm, fun _ => heven⟩
  rw [if_neg h0] at hv ⊢
  by_cases hmax : c > s.maxCode
  · rw [if_pos hmax, FloatSpec.overflow, if_neg Bool.false_ne_true] at hv
    cases hi : s.infCode with
    | none =>
      rw [hi] at hv
      dsimp only at hv
      rw [decode_nanCode h] at hv
      exact absurd hv (Option.some_ne_none v).symm
    | some i =>
      rw [hi] at hv
      dsimp only at hv
      rw [decode_infinite h hi hsome] at hv
      exact absurd hv (Option.some_ne_none v).symm
  rw [if_neg hmax] at hv ⊢
  rw [decode_finite h (not_lt.1 hmax) fun hn => ⟨hsome hn, fun hz => absurd hz h0⟩, rational_magnitude] at hv
  rw [withSign_mod_two h]
  exact ⟨(Option.some.inj hv).symm, id⟩

theorem rational_decode {d : Nat} {r : ℚ} (h : s.Sound w) (hd : d < 2 ^ w) (hr : (s.decode d).rational = some r) :
    ∃ neg m, r = signedRat neg (s.value m) := by
  cases codeKind h hd with
  | nan hn =>
    rw [hn] at hr
    exact absurd hr (Option.some_ne_none r).symm
  | inf neg i hi hs =>
    rw [decode_infinite h hi hs] at hr
    exact absurd hr (Option.some_ne_none r).symm
  | fin neg m hm hs =>
    rw [decode_finite h hm hs, rational_magnitude] at hr
    exact ⟨neg, m, (Option.some.inj hr).symm⟩

/-- Round to nearest even over every floating format: nearest among the codes of both signs. -/
theorem encode_rne_nearest {n : Bool} {m d : Nat} {e : Int} {v r : ℚ} (h : s.Sound w) (hm : m ≠ 0)
    (hv : (s.decode (s.encode .rne false (.fin n m e) 0)).rational = some v) (hd : d < 2 ^ w)
    (hr : (s.decode d).rational = some r) :
    |v - signedRat n (m * 2 ^ e)| ≤ |r - signedRat n (m * 2 ^ e)| ∧
      (|v - signedRat n (m * 2 ^ e)| = |r - signedRat n (m * 2 ^ e)| → r ≠ v → s.encode .rne false (.fin n m e) 0 % 2 = 0) := by
  have hpos : (0 : ℚ) < m * 2 ^ e := mul_pos (Nat.cast_pos.2 (Nat.pos_of_ne_zero hm)) (zpow_pos (by norm_num) e)
  obtain ⟨lo, c, hnear, rfl, heven⟩ := encodeMag_rne (x := ⟨m, e, false⟩) h hm rfl hv
  obtain ⟨neg, k, rfl⟩ := rational_decode h hd hr
  obtain ⟨hle, htie⟩ := hnear.nearest k
  have hsigned := abs_sub_le_signedRat neg n (value_nonneg s k) hpos.le
  rw [abs_signedRat_sub]
  refine ⟨hle.trans hsigned, fun heq hne => heven (htie (hle.antisymm (hsigned.trans heq.ge)) ?_)⟩
  rintro rfl
  have hsign : neg ≠ n := fun hn => hne (by rw [hn])
  rw [abs_signedRat_sub_of_ne hsign (value_nonneg s k) hpos.le] at heq
  have hzero : s.value k = 0 := by
    rcases abs_cases (s.value k - m * 2 ^ e) with ⟨ha, -⟩ | ⟨ha, -⟩
    · linarith
    · linarith [value_nonneg s k]
  exact hne (by rw [hzero, signedRat, signedRat, mul_zero, mul_zero])

end Sound

/-! ## The floating formats -/

/-- Every floating format goes by the parameters of its own. -/
theorem exists_floatSpec {f : Fmt} (hf : f.isInt = false) : ∃ s : FloatSpec, s.Sound f.width ∧ (∀ c, decodeNum f c = s.decode c) ∧
    (∀ rnd sat x rb, encodeNum f rnd sat x rb = s.encode rnd sat x rb) ∧ canonNaN f = s.nanCode ∧
    ∀ ff rnd sat c rb, convert ff f rnd sat c rb = encodeNum f rnd sat (decodeNum ff c) rb := by
  cases f with
  | flt t => exact ⟨floatSpec t, floatSpec_sound t, fun _ => rfl, fun _ _ _ _ => rfl, rfl, fun ff _ _ _ _ => by cases ff <;> rfl⟩
  | fam t => exact ⟨famSpec t, famSpec_sound t, fun _ => rfl, fun _ _ _ _ => rfl, rfl, fun ff _ _ _ _ => by cases ff <;> rfl⟩
  | int t => exact absurd hf.symm Bool.false_ne_true

/-- Settles O29: the result is the nearest magnitude code with the value's own sign (`encode_rne_nearest`). -/
theorem roundToNearestEven : Obligations.RoundToNearestEven := by
  intro f n m e v r c hf hm hv hc hr
  obtain ⟨s, hs, hdec, henc, -⟩ := exists_floatSpec hf
  rw [hdec, henc] at hv
  rw [hdec] at hr
  rw [henc, mul_assoc]
  exact encode_rne_nearest hs hm hv hc hr

end Sys2Proof.Machine

namespace Sys2Proof.Machine

/-! # Integer conversions (spec/06 R141, R152) -/

section Integers
variable {i j : ITy} {c w : Nat} {v : Int}

theorem width_int (i : ITy) : (Fmt.int i).width = 8 * i.size.bytes := rfl

theorem width_int_pos (i : ITy) : 0 < (Fmt.int i).width := by
  rcases fmt_width_cases (.int i) with h | h | h <;> omega

/-- An integer code's sign bit says whether it lies in the upper half. -/
theorem intOfCode_eq (hc : c < 2 ^ (Fmt.int i).width) : intOfCode i.signed (Fmt.int i).width c = intElem i c := by
  obtain ⟨w, hw⟩ := Nat.exists_eq_add_of_lt (width_int_pos i)
  rw [Nat.zero_add] at hw
  rw [intOfCode, intElem, ← width_int]
  rw [hw] at hc ⊢
  rw [Nat.add_sub_cancel]
  rcases Nat.lt_or_ge c (2 ^ w) with hlt | hge
  · rw [Nat.testBit_lt_two_pow hlt, decide_eq_false hlt.not_ge]
  · rw [Nat.testBit_of_two_pow_le_and_two_pow_add_one_gt hge hc, decide_eq_true hge]

theorem codeOfInt_cast (w : Nat) (v : Int) : (codeOfInt w v : Int) = v % 2 ^ w :=
  Int.toNat_of_nonneg (Int.emod_nonneg v (by positivity))

theorem codeOfInt_lt (w : Nat) (v : Int) : codeOfInt w v < 2 ^ w := by
  have h := Int.emod_lt_of_pos v (show (0 : Int) < 2 ^ w by positivity)
  rw [← codeOfInt_cast] at h
  exact_mod_cast h

theorem intRange_le (signed : Bool) (w : Nat) : (intRange signed w).1 ≤ (intRange signed w).2 := by
  have h (k : Nat) : (0 : Int) < 2 ^ k := by positivity
  cases signed with
  | false => exact Int.le_sub_one_of_lt (h w)
  | true => exact Int.le_sub_one_of_lt ((Int.neg_neg_of_pos (h (w - 1))).trans (h (w - 1)))

theorem codeOfInt_of_nonneg (h0 : 0 ≤ v) (hv : v < 2 ^ w) : (codeOfInt w v : Int) = v := by
  rw [codeOfInt_cast, Int.emod_eq_of_lt h0 hv]

theorem codeOfInt_of_neg (hv : v < 0) (h0 : -2 ^ w ≤ v) : (codeOfInt w v : Int) = v + 2 ^ w := by
  rw [codeOfInt_cast, ← Int.add_emod_right, Int.emod_eq_of_lt (by omega) (by omega)]

/-- The natural and the signed formats, by half the number P of their codes: the range, and the value of a code. -/
theorem int_cases (i : ITy) : ∃ P : Int, 0 < P ∧ (2 : Int) ^ (Fmt.int i).width = 2 * P ∧
    ((intRange i.signed (Fmt.int i).width = (0, 2 * P - 1) ∧ ∀ c, intElem i c = c) ∨
      (intRange i.signed (Fmt.int i).width = (-P, P - 1) ∧ ∀ c : Nat, intElem i c = if P ≤ c then (c : Int) - 2 * P else c)) := by
  obtain ⟨signed, size⟩ := i
  have hw : (2 : Int) ^ (Fmt.int ⟨signed, size⟩).width = 2 * 2 ^ ((Fmt.int ⟨signed, size⟩).width - 1) := by
    rw [← pow_succ', Nat.sub_add_cancel (width_int_pos _)]
  refine ⟨_, by positivity, hw, ?_⟩
  cases signed with
  | false => exact .inl ⟨by rw [← hw]; rfl, fun c => rfl⟩
  | true =>
    refine .inr ⟨rfl, fun c => ?_⟩
    rw [← hw, intElem, Bool.true_and]
    refine if_congr ?_ rfl rfl
    rw [decide_eq_true_iff]
    exact_mod_cast Iff.rfl

/-- The values of a format's codes lie in its range, and each comes back to its code modulo 2^w. -/
theorem intElem_range (hc : c < 2 ^ (Fmt.int i).width) : (intRange i.signed (Fmt.int i).width).1 ≤ intElem i c ∧
    intElem i c ≤ (intRange i.signed (Fmt.int i).width).2 ∧ codeOfInt (Fmt.int i).width (intElem i c) = c := by
  have hc : (c : Int) < 2 ^ (Fmt.int i).width := by exact_mod_cast hc
  obtain ⟨P, hP, hw, ⟨hr, he⟩ | ⟨hr, he⟩⟩ := int_cases i
  · rw [hr, he]
    exact ⟨by omega, by omega, Int.ofNat_inj.1 (codeOfInt_of_nonneg (by omega) hc)⟩
  · rw [hr, he]
    split_ifs with h
    · refine ⟨by omega, by omega, Int.ofNat_inj.1 ?_⟩
      rw [codeOfInt_of_neg (by omega) (by omega), hw, Int.sub_add_cancel]
    · exact ⟨by omega, by omega, Int.ofNat_inj.1 (codeOfInt_of_nonneg (by omega) hc)⟩

/-- Every integer of a format's range is the value of its code. -/
theorem intElem_codeOfInt (hlo : (intRange j.signed (Fmt.int j).width).1 ≤ v) (hhi : v ≤ (intRange j.signed (Fmt.int j).width).2) :
    intElem j (codeOfInt (Fmt.int j).width v) = v := by
  obtain ⟨P, hP, hw, ⟨hr, he⟩ | ⟨hr, he⟩⟩ := int_cases j
  · rw [hr] at hlo hhi
    dsimp only at hlo hhi
    rw [he, codeOfInt_of_nonneg (by omega) (by omega)]
  · rw [hr] at hlo hhi
    dsimp only at hlo hhi
    rw [he]
    rcases lt_or_ge v 0 with hv | hv
    · rw [codeOfInt_of_neg hv (by omega), if_pos (by omega), hw, Int.add_sub_cancel]
    · rw [codeOfInt_of_nonneg hv (by omega), if_neg (by omega)]

theorem convert_int_int (i j : ITy) (rnd : Rnd) (sat : Bool) (rb : Nat) (hc : c < 2 ^ (Fmt.int i).width) :
    convert (.int i) (.int j) rnd sat c rb = codeOfInt (Fmt.int j).width
      (if sat then max (intRange j.signed (Fmt.int j).width).1 (min (intRange j.signed (Fmt.int j).width).2 (intElem i c))
      else intElem i c) := by
  rw [← clampInt_eq _ _ _ (intRange_le _ _), apply_ite (codeOfInt _), ← intOfCode_eq hc]
  rfl

end Integers

/-- Settles O28: integers convert through their values (`convert_int_int`), and a format's own codes through `encode_decode`. -/
theorem convertIdentity : Obligations.ConvertIdentity := by
  refine ⟨fun i j rnd sat c rb hc => ?integer, fun i f rnd sat c rb hf hc => ?floating, fun f rnd sat c rb hc => ?self⟩
  case integer =>
    rw [convert_int_int i j rnd sat rb hc]
    have hr := intRange_le j.signed (Fmt.int j).width
    refine ⟨codeOfInt_lt _ _, fun hs => ?_, fun hs => ?_⟩
    · rw [hs, if_neg Bool.false_ne_true, codeOfInt_cast]
    · rw [hs, if_pos rfl, intElem_codeOfInt (le_max_left _ _) (max_le hr (min_le_left _ _))]
  case floating =>
    obtain ⟨-, -, -, -, -, hconv⟩ := exists_floatSpec hf
    rw [hconv, ← intOfCode_eq hc]
    rfl
  case self =>
    cases hf : f.isInt with
    | false =>
      obtain ⟨s, hs, hdec, henc, hcanon, hconv⟩ := exists_floatSpec hf
      rw [hconv, hdec, henc, hcanon]
      refine ⟨encode_decode hs hc, fun hn => ?_⟩
      cases hd : s.decode c with
      | nan => rfl
      | inf n =>
        rw [hd] at hn
        exact absurd hn Bool.false_ne_true
      | fin n m e =>
        rw [hd] at hn
        exact absurd hn Bool.false_ne_true
    | true =>
      cases f with
      | int i =>
        obtain ⟨hlo, hhi, hcode⟩ := intElem_range hc
        refine ⟨fun _ => ?_, fun hn => absurd hn Bool.false_ne_true⟩
        rw [convert_int_int i i rnd sat rb hc, min_eq_right hhi, max_eq_right hlo, ite_self, hcode]
      | flt t => exact absurd hf Bool.false_ne_true
      | fam t => exact absurd hf Bool.false_ne_true

end Sys2Proof.Machine
